-- ==== Sys2Proof/Word.lean ====
section
/-! DEFINITION. The word types of the Chaphor: 32-bit data, bytes, 58-bit virtual addresses (R26), and the
granule unit of R52 with the stack's uncorrectable mark (R55). -/

namespace Sys2Proof

/-- 32 bits of data: one lane of a vector register, one uniform register, the data of a granule. -/
abbrev Word := BitVec 32

/-- One byte of memory. -/
abbrev Byte := BitVec 8

/-- A virtual address (R26) or a program counter (R160). -/
abbrev VAddr := BitVec 58

/-- A granule's data with its 8-bit check code (R52). `ue` is the mark of a unit that the HBM stack delivered as
uncorrectable; it travels with the unit to its consumer (R55). -/
structure GUnit where
  data : Word
  code : BitVec 8
  ue   : Bool
  deriving DecidableEq, Repr

/-- The zero unit with code 0x00 (R53). -/
def GUnit.zero : GUnit := ⟨0, 0, false⟩

end Sys2Proof
end

