-- ==== Sys2Proof/Syntax.lean ====
section
/-! DEFINITION. The instruction set as data: one constructor for every row of the opcode table. Rows with an encoding
carry their encoded fields, in the table's order, most significant first; rows without an encoding are the device's own
steps, whose operands (a queue, a core, a register and its value) are data of type Arg. -/

namespace Sys2Proof

/-- The six access codes of R44, byte 14. -/
inductive Access where
  | read | write | atomic | fetch | engineRead | engineWrite
  deriving DecidableEq, Repr

/-- Life-cycle states (R375). -/
inductive LifeCycle where
  | manufacture | provisioned | deployed | returned
  deriving DecidableEq, Repr

/-- Who signed a life-cycle request or an image (R375, R377). -/
inductive Signer where
  | vendor | owner
  deriving DecidableEq, Repr

/-- The three images of R377. -/
inductive ImageKind where
  | osmium | pewter | controlOs
  deriving DecidableEq, Repr

/-- The atomic operations of R252. -/
inductive AtomOp where
  | addN32 | addF32 | minI32 | minN32 | maxI32 | maxN32 | andB32 | orB32 | xorB32 | swpB32 | casB32 | mrgB32
  | addN64 | swpB64 | casB64
  deriving DecidableEq, Repr

/-- A request that a home slice or a far atomic unit performs (R76, R78): an atomic with its operand granules, the
walker's swap of a table entry's A and D bits (R35), or poisoning (R65). -/
inductive AtomReq where
  | atom (op : AtomOp) (operand : List GUnit)
  | setAD (expected : BitVec 64) (dirty : Bool)
  | poison
  deriving DecidableEq, Repr

/-- The three registers of a format window (R91). -/
inductive WinReg where
  | a | l | s
  deriving DecidableEq, Repr

/-- Registers of control space that have a field map, by name (R7): the spec gives no addresses of them. -/
inductive CtlReg where
  | frcfg (ctx : Nat) | fridx (ctx : Nat) | replay (ctx : Nat) | xlinva | xlinvc | xlerr
  | grcfg | gridx | grerr | czcmd (ctl : Nat) | czerr (ctl : Nat) | win (die n : Nat) (reg : WinReg)
  | nopre (ctx : Nat) | diagva (ctx : Nat) | audctl (ctx : Nat) | ecscnt (ctl : Nat) | misscap (core : Nat)
  deriving DecidableEq, Repr

/-- A request that a peer device or a unit that runs code makes on device memory (R116, R120, R373); `reg` reads a register of
control space (R7). -/
inductive PeerReq where
  | load (granules : Nat)
  | store (units : List GUnit)
  | atom (op : AtomOp) (operand : List GUnit) (far : Bool)
  | reg (r : CtlReg)
  deriving DecidableEq, Repr

/-- The head of a frame of the management port (R379): destination address, EtherType, the payload's length field and its
sequence number. -/
structure Hdr where
  dst   : BitVec 48
  etype : BitVec 16
  len   : BitVec 16
  seq   : BitVec 32
  deriving DecidableEq, Repr

/-- The two directions of a command link (R335). -/
inductive LinkDir where
  | toAcorn | toHazel
  deriving DecidableEq, Repr

/-- The places and identifiers that the Acorn and Hazel choose for one crew, and that no rule fixes: crew-table index,
wave slots, scratchpad base line and thread ids (R67, R161, R179, R353); `log` is Pewter's grant of audit log blocks
(R368). -/
structure Spot where
  crew  : Nat
  slots : List Nat
  base  : Nat
  ids   : List Nat
  log   : Option Nat
  deriving DecidableEq, Repr

/-- A Rynil object as the loading service meets it (R30, R314, R347, R382, R383). -/
structure RynilObject where
  classes  : List Nat
  textOff  : Nat
  text     : List (BitVec 32)
  live     : List (BitVec 128)
  replicas : List Nat
  tables   : List Nat
  troots   : List (BitVec 64)
  handler  : Option VAddr
  links    : List (Nat × Nat)
  lzb      : Nat
  syncb    : Nat
  zframe   : Nat
  deriving DecidableEq, Repr

/-- Registers and tables that software writes and that have no row of their own (R7): the error registers of R50, R88
and R89, the per-context registers of R186 and R367, the tables of R322 and R323, the bases of R82 and R319, the sealing
of R381, MISSCAP (R183), and the requests of the supervisor that Hazel turns into commands (R317, R335, R357). -/
inductive SupReg where
  | xlerr | grerr | czerr (ctl : Nat) | nopre (ctx : Nat) | diagva (ctx : Nat) | audctl (ctx : Nat)
  | sched (ctx : Nat) | queue (q : Nat) | czmbase (die : Nat) | dbbase
  | seal (ctx : Nat) | misscap (core : Nat) | mailTest (core : Nat) | mailContinue (core crew : Nat) (named : Bool)
  | mailCancel (ctx : Nat) | mailFuse (cluster : Nat) | mailUnfuse (cluster : Nat)
  deriving DecidableEq, Repr

/-- One constructor per row of the opcode table. The rows with an encoding come first and carry their fields; a row
without one is a step of the device, whose operands `Arg` holds. -/
inductive Instr where
  /-- MOV_B32_16 (R208). 16-bit move. -/
  | movB32H (b : BitVec 5) (d : BitVec 6)
  /-- IADD_N32_16 (R208). 16-bit integer add. -/
  | iaddN32H (b : BitVec 5) (d : BitVec 6)
  /-- ISUB_N32_16 (R208). 16-bit integer subtract. -/
  | isubN32H (b : BitVec 5) (d : BitVec 6)
  /-- IMUL_N32_16 (R208). 16-bit integer multiply. -/
  | imulN32H (b : BitVec 5) (d : BitVec 6)
  /-- AND_B32_16 (R208). 16-bit and. -/
  | andB32H (b : BitVec 5) (d : BitVec 6)
  /-- OR_B32_16 (R208). 16-bit or. -/
  | orB32H (b : BitVec 5) (d : BitVec 6)
  /-- XOR_B32_16 (R208). 16-bit xor. -/
  | xorB32H (b : BitVec 5) (d : BitVec 6)
  /-- SHL_B32_16 (R208). 16-bit shift left. -/
  | shlB32H (b : BitVec 5) (d : BitVec 6)
  /-- SHR_N32_16 (R208). 16-bit logical shift right. -/
  | shrN32H (b : BitVec 5) (d : BitVec 6)
  /-- SHR_I32_16 (R208). 16-bit arithmetic shift right. -/
  | shrI32H (b : BitVec 5) (d : BitVec 6)
  /-- FADD_F32_16 (R208). 16-bit f32 add, rounding .rn. -/
  | faddF32H (b : BitVec 5) (d : BitVec 6)
  /-- FSUB_F32_16 (R208). 16-bit f32 subtract, rounding .rn. -/
  | fsubF32H (b : BitVec 5) (d : BitVec 6)
  /-- FMUL_F32_16 (R208). 16-bit f32 multiply, rounding .rn. -/
  | fmulF32H (b : BitVec 5) (d : BitVec 6)
  /-- FMIN_F32_16 (R208). 16-bit f32 minimum. -/
  | fminF32H (b : BitVec 5) (d : BitVec 6)
  /-- FMAX_F32_16 (R208). 16-bit f32 maximum. -/
  | fmaxF32H (b : BitVec 5) (d : BitVec 6)
  /-- IMIN_I32_16 (R208). 16-bit signed minimum. -/
  | iminI32H (b : BitVec 5) (d : BitVec 6)
  /-- IADD_N32 (R222). Integer add modulo 2^32. -/
  | iaddN32 (b : BitVec 7) (a : BitVec 7) (d : BitVec 7)
  /-- ISUB_N32 (R222). Integer subtract. -/
  | isubN32 (b : BitVec 7) (a : BitVec 7) (d : BitVec 7)
  /-- IMUL_N32 (R222). Low 32 bits of the product. -/
  | imulN32 (b : BitVec 7) (a : BitVec 7) (d : BitVec 7)
  /-- IMULHI_I32 (R222). High half of the signed product. -/
  | imulhiI32 (b : BitVec 7) (a : BitVec 7) (d : BitVec 7)
  /-- IMULHI_N32 (R222). High half of the unsigned product. -/
  | imulhiN32 (b : BitVec 7) (a : BitVec 7) (d : BitVec 7)
  /-- IMIN_I32 (R222). Signed minimum. -/
  | iminI32 (b : BitVec 7) (a : BitVec 7) (d : BitVec 7)
  /-- IMIN_N32 (R222). Unsigned minimum. -/
  | iminN32 (b : BitVec 7) (a : BitVec 7) (d : BitVec 7)
  /-- IMAX_I32 (R222). Signed maximum. -/
  | imaxI32 (b : BitVec 7) (a : BitVec 7) (d : BitVec 7)
  /-- IMAX_N32 (R222). Unsigned maximum. -/
  | imaxN32 (b : BitVec 7) (a : BitVec 7) (d : BitVec 7)
  /-- IABS_I32 (R222). Absolute value modulo 2^32. -/
  | iabsI32 (a : BitVec 7) (d : BitVec 7)
  /-- IDIV_I32 (R222). Signed quotient under R152. -/
  | idivI32 (b : BitVec 7) (a : BitVec 7) (d : BitVec 7)
  /-- IDIV_N32 (R222). Unsigned quotient. -/
  | idivN32 (b : BitVec 7) (a : BitVec 7) (d : BitVec 7)
  /-- IREM_I32 (R222). Signed remainder. -/
  | iremI32 (b : BitVec 7) (a : BitVec 7) (d : BitVec 7)
  /-- IREM_N32 (R222). Unsigned remainder. -/
  | iremN32 (b : BitVec 7) (a : BitVec 7) (d : BitVec 7)
  /-- IADDSAT_I32 (R222). Saturating signed add. -/
  | iaddsatI32 (b : BitVec 7) (a : BitVec 7) (d : BitVec 7)
  /-- ISUBSAT_I32 (R222). Saturating signed subtract. -/
  | isubsatI32 (b : BitVec 7) (a : BitVec 7) (d : BitVec 7)
  /-- AND_B32 (R223). Bitwise and. -/
  | andB32 (b : BitVec 7) (a : BitVec 7) (d : BitVec 7)
  /-- OR_B32 (R223). Bitwise or. -/
  | orB32 (b : BitVec 7) (a : BitVec 7) (d : BitVec 7)
  /-- XOR_B32 (R223). Bitwise xor. -/
  | xorB32 (b : BitVec 7) (a : BitVec 7) (d : BitVec 7)
  /-- ANDN_B32 (R223). a and not b. -/
  | andnB32 (b : BitVec 7) (a : BitVec 7) (d : BitVec 7)
  /-- SHL_B32 (R223). Shift left by b. -/
  | shlB32 (b : BitVec 7) (a : BitVec 7) (d : BitVec 7)
  /-- SHR_N32 (R223). Logical shift right. -/
  | shrN32 (b : BitVec 7) (a : BitVec 7) (d : BitVec 7)
  /-- SHR_I32 (R223). Arithmetic shift right. -/
  | shrI32 (b : BitVec 7) (a : BitVec 7) (d : BitVec 7)
  /-- ROTL_B32 (R223). Rotate left by b[4:0]. -/
  | rotlB32 (b : BitVec 7) (a : BitVec 7) (d : BitVec 7)
  /-- POPC_B32 (R223). Population count. -/
  | popcB32 (a : BitVec 7) (d : BitVec 7)
  /-- CLZ_B32 (R223). Count leading zeros. -/
  | clzB32 (a : BitVec 7) (d : BitVec 7)
  /-- BREV_B32 (R223). Bit reverse. -/
  | brevB32 (a : BitVec 7) (d : BitVec 7)
  /-- NOT_B32 (R223). Bitwise not. -/
  | notB32 (a : BitVec 7) (d : BitVec 7)
  /-- IADDI_N32 (R224). Add a sign-extended immediate. -/
  | iaddiN32 (i : BitVec 11) (a : BitVec 7) (d : BitVec 7)
  /-- ANDI_B32 (R224). And with a zero-extended immediate. -/
  | andiB32 (i : BitVec 11) (a : BitVec 7) (d : BitVec 7)
  /-- ORI_B32 (R224). Or with a zero-extended immediate. -/
  | oriB32 (i : BitVec 11) (a : BitVec 7) (d : BitVec 7)
  /-- XORI_B32 (R224). Xor with a zero-extended immediate. -/
  | xoriB32 (i : BitVec 11) (a : BitVec 7) (d : BitVec 7)
  /-- SHLI_B32 (R224). Shift left by an immediate. -/
  | shliB32 (n : BitVec 5) (a : BitVec 7) (d : BitVec 7)
  /-- SHRI_N32 (R224). Logical shift right by an immediate. -/
  | shriN32 (n : BitVec 5) (a : BitVec 7) (d : BitVec 7)
  /-- SHRI_I32 (R224). Arithmetic shift right by an immediate. -/
  | shriI32 (n : BitVec 5) (a : BitVec 7) (d : BitVec 7)
  /-- ROTI_B32 (R224). Rotate left by an immediate. -/
  | rotiB32 (n : BitVec 5) (a : BitVec 7) (d : BitVec 7)
  /-- FADD_F32 (R225). f32 add under RM. -/
  | faddF32 (r : BitVec 2) (b : BitVec 7) (a : BitVec 7) (d : BitVec 7)
  /-- FSUB_F32 (R225). f32 subtract under RM. -/
  | fsubF32 (r : BitVec 2) (b : BitVec 7) (a : BitVec 7) (d : BitVec 7)
  /-- FMUL_F32 (R225). f32 multiply under RM. -/
  | fmulF32 (r : BitVec 2) (b : BitVec 7) (a : BitVec 7) (d : BitVec 7)
  /-- FDIV_F32 (R225). f32 divide under RM. -/
  | fdivF32 (r : BitVec 2) (b : BitVec 7) (a : BitVec 7) (d : BitVec 7)
  /-- FMIN_F32 (R226). f32 minimum. -/
  | fminF32 (b : BitVec 7) (a : BitVec 7) (d : BitVec 7)
  /-- FMAX_F32 (R226). f32 maximum. -/
  | fmaxF32 (b : BitVec 7) (a : BitVec 7) (d : BitVec 7)
  /-- FSQRT_F32 (R226). f32 square root under RM. -/
  | fsqrtF32 (r : BitVec 2) (a : BitVec 7) (d : BitVec 7)
  /-- FNEG_F32 (R226). Invert the sign bit. -/
  | fnegF32 (a : BitVec 7) (d : BitVec 7)
  /-- FABS_F32 (R226). Clear the sign bit. -/
  | fabsF32 (a : BitVec 7) (d : BitVec 7)
  /-- FCSGN_F32 (R226). Copy the sign of b onto a. -/
  | fcsgnF32 (b : BitVec 7) (a : BitVec 7) (d : BitVec 7)
  /-- FADD2_F16 (R227). Paired f16 add. -/
  | fadd2F16 (r : BitVec 2) (b : BitVec 7) (a : BitVec 7) (d : BitVec 7)
  /-- FMUL2_F16 (R227). Paired f16 multiply. -/
  | fmul2F16 (r : BitVec 2) (b : BitVec 7) (a : BitVec 7) (d : BitVec 7)
  /-- FADD2_BF16 (R227). Paired bf16 add. -/
  | fadd2Bf16 (r : BitVec 2) (b : BitVec 7) (a : BitVec 7) (d : BitVec 7)
  /-- FMUL2_BF16 (R227). Paired bf16 multiply. -/
  | fmul2Bf16 (r : BitVec 2) (b : BitVec 7) (a : BitVec 7) (d : BitVec 7)
  /-- FFMA_F32 (R228). Fused multiply-add with the mode given by the major. -/
  | ffmaF32 (c : BitVec 5) (b : BitVec 6) (a : BitVec 7) (d : BitVec 7) (r : BitVec 2)
  /-- IMAD_N32 (R228). Integer multiply-add modulo 2^32. -/
  | imadN32 (c : BitVec 5) (b : BitVec 6) (a : BitVec 7) (d : BitVec 7)
  /-- FCEQ_F32 (R229). Ordered equal into a predicate. -/
  | fceqF32 (b : BitVec 7) (a : BitVec 7) (d : BitVec 3)
  /-- FCNE_F32 (R229). Unordered or not equal. -/
  | fcneF32 (b : BitVec 7) (a : BitVec 7) (d : BitVec 3)
  /-- FCLT_F32 (R229). Ordered less than. -/
  | fcltF32 (b : BitVec 7) (a : BitVec 7) (d : BitVec 3)
  /-- FCLE_F32 (R229). Ordered less or equal. -/
  | fcleF32 (b : BitVec 7) (a : BitVec 7) (d : BitVec 3)
  /-- FCGT_F32 (R229). Ordered greater than. -/
  | fcgtF32 (b : BitVec 7) (a : BitVec 7) (d : BitVec 3)
  /-- FCGE_F32 (R229). Ordered greater or equal. -/
  | fcgeF32 (b : BitVec 7) (a : BitVec 7) (d : BitVec 3)
  /-- FCUN_F32 (R229). Unordered. -/
  | fcunF32 (b : BitVec 7) (a : BitVec 7) (d : BitVec 3)
  /-- FCORD_F32 (R229). Ordered. -/
  | fcordF32 (b : BitVec 7) (a : BitVec 7) (d : BitVec 3)
  /-- ICEQ_B32 (R230). Integer equal. -/
  | iceqB32 (b : BitVec 7) (a : BitVec 7) (d : BitVec 3)
  /-- ICNE_B32 (R230). Integer not equal. -/
  | icneB32 (b : BitVec 7) (a : BitVec 7) (d : BitVec 3)
  /-- ICLT_I32 (R230). Signed less than. -/
  | icltI32 (b : BitVec 7) (a : BitVec 7) (d : BitVec 3)
  /-- ICLE_I32 (R230). Signed less or equal. -/
  | icleI32 (b : BitVec 7) (a : BitVec 7) (d : BitVec 3)
  /-- ICGT_I32 (R230). Signed greater than. -/
  | icgtI32 (b : BitVec 7) (a : BitVec 7) (d : BitVec 3)
  /-- ICGE_I32 (R230). Signed greater or equal. -/
  | icgeI32 (b : BitVec 7) (a : BitVec 7) (d : BitVec 3)
  /-- ICLT_N32 (R230). Unsigned less than. -/
  | icltN32 (b : BitVec 7) (a : BitVec 7) (d : BitVec 3)
  /-- ICLE_N32 (R230). Unsigned less or equal. -/
  | icleN32 (b : BitVec 7) (a : BitVec 7) (d : BitVec 3)
  /-- ICGT_N32 (R230). Unsigned greater than. -/
  | icgtN32 (b : BitVec 7) (a : BitVec 7) (d : BitVec 3)
  /-- ICGE_N32 (R230). Unsigned greater or equal. -/
  | icgeN32 (b : BitVec 7) (a : BitVec 7) (d : BitVec 3)
  /-- ICTST_B32 (R230). Test (a and b) ≠ 0. -/
  | ictstB32 (b : BitVec 7) (a : BitVec 7) (d : BitVec 3)
  /-- SEL_B32 (R231). Select a or b by predicate. -/
  | selB32 (n : BitVec 3) (b : BitVec 7) (a : BitVec 7) (d : BitVec 7)
  /-- PAND (R231). Predicate and. -/
  | pand (b : BitVec 3) (a : BitVec 3) (d : BitVec 3)
  /-- POR (R231). Predicate or. -/
  | por (b : BitVec 3) (a : BitVec 3) (d : BitVec 3)
  /-- PXOR (R231). Predicate xor. -/
  | pxor (b : BitVec 3) (a : BitVec 3) (d : BitVec 3)
  /-- PANDN (R231). Predicate and-not. -/
  | pandn (b : BitVec 3) (a : BitVec 3) (d : BitVec 3)
  /-- PMOV (R231). Predicate move. -/
  | pmov (a : BitVec 3) (d : BitVec 3)
  /-- PNOT (R231). Predicate not. -/
  | pnot (a : BitVec 3) (d : BitVec 3)
  /-- VTOP (R231). Predicate from a nonzero register. -/
  | vtop (a : BitVec 7) (d : BitVec 3)
  /-- PTOV (R231). Register from a predicate. -/
  | ptov (a : BitVec 3) (d : BitVec 7)
  /-- CVT (R232). Format conversion under R150 and R151. -/
  | cvt (s : BitVec 4) (t : BitVec 4) (r : BitVec 2) (a : BitVec 7) (d : BitVec 7)
  /-- PACK2_B16 (R233). Pack two 16-bit halves. -/
  | pack2B16 (b : BitVec 7) (a : BitVec 7) (d : BitVec 7)
  /-- PACK2_B8 (R233). Pack two bytes into the low half. -/
  | pack2B8 (b : BitVec 7) (a : BitVec 7) (d : BitVec 7)
  /-- PACK2H_B8 (R233). Pack two bytes into the high half. -/
  | pack2hB8 (b : BitVec 7) (a : BitVec 7) (d : BitVec 7)
  /-- EXT_N16 (R233). Zero-extend a 16-bit element. -/
  | extN16 (b : BitVec 7) (a : BitVec 7) (d : BitVec 7)
  /-- EXT_I16 (R233). Sign-extend a 16-bit element. -/
  | extI16 (b : BitVec 7) (a : BitVec 7) (d : BitVec 7)
  /-- EXT_N8 (R233). Zero-extend a byte. -/
  | extN8 (b : BitVec 7) (a : BitVec 7) (d : BitVec 7)
  /-- EXT_I8 (R233). Sign-extend a byte. -/
  | extI8 (b : BitVec 7) (a : BitVec 7) (d : BitVec 7)
  /-- BFX_N32 (R233). Unsigned bit-field extract. -/
  | bfxN32 (b : BitVec 7) (a : BitVec 7) (d : BitVec 7)
  /-- BFX_I32 (R233). Signed bit-field extract. -/
  | bfxI32 (b : BitVec 7) (a : BitVec 7) (d : BitVec 7)
  /-- BFI_B32 (R233). Bit-field insert. -/
  | bfiB32 (b : BitVec 7) (a : BitVec 7) (d : BitVec 7)
  /-- MOV_B32 (R234). Move a unit unchanged. -/
  | movB32 (b : BitVec 7) (a : BitVec 7) (d : BitVec 7)
  /-- SHFL_B32 (R234). Take a from the lane named by b. -/
  | shflB32 (b : BitVec 7) (a : BitVec 7) (d : BitVec 7)
  /-- BCAST_B32 (R234). Broadcast a from the lane named by the lowest active lane's b. -/
  | bcastB32 (b : BitVec 7) (a : BitVec 7) (d : BitVec 7)
  /-- BALLOT_B32 (R234). Set of active lanes whose predicate is 1. -/
  | ballotB32 (a : BitVec 3) (d : BitVec 7)
  /-- VALL (R234). Predicate true in every active lane. -/
  | vall (a : BitVec 3) (d : BitVec 3)
  /-- VANY (R234). Predicate true in some active lane. -/
  | vany (a : BitVec 3) (d : BitVec 3)
  /-- LANEID (R234). Read the lane number. -/
  | laneid (d : BitVec 7)
  /-- TID (R234). Read the thread id. -/
  | tid (d : BitVec 7)
  /-- QSET (R172). Replace a lane mask's member set, or raise CONV when threads have arrived. -/
  | qset (a : BitVec 4) (d : BitVec 4)
  /-- QGET (R234). Read a lane mask's member set. -/
  | qget (a : BitVec 4) (d : BitVec 7)
  /-- IADD_N64 (R236). 64-bit add. -/
  | iaddN64 (b : BitVec 7) (a : BitVec 7) (d : BitVec 7)
  /-- ISUB_N64 (R236). 64-bit subtract. -/
  | isubN64 (b : BitVec 7) (a : BitVec 7) (d : BitVec 7)
  /-- IMUL_N64 (R236). Low 64 bits of the product. -/
  | imulN64 (b : BitVec 7) (a : BitVec 7) (d : BitVec 7)
  /-- SHL_B64 (R236). 64-bit shift left. -/
  | shlB64 (b : BitVec 7) (a : BitVec 7) (d : BitVec 7)
  /-- SHR_N64 (R236). 64-bit logical shift right. -/
  | shrN64 (b : BitVec 7) (a : BitVec 7) (d : BitVec 7)
  /-- SHR_I64 (R236). 64-bit arithmetic shift right. -/
  | shrI64 (b : BitVec 7) (a : BitVec 7) (d : BitVec 7)
  /-- IMIN_I64 (R236). 64-bit signed minimum. -/
  | iminI64 (b : BitVec 7) (a : BitVec 7) (d : BitVec 7)
  /-- IMAX_I64 (R236). 64-bit signed maximum. -/
  | imaxI64 (b : BitVec 7) (a : BitVec 7) (d : BitVec 7)
  /-- IMIN_N64 (R236). 64-bit unsigned minimum. -/
  | iminN64 (b : BitVec 7) (a : BitVec 7) (d : BitVec 7)
  /-- IMAX_N64 (R236). 64-bit unsigned maximum. -/
  | imaxN64 (b : BitVec 7) (a : BitVec 7) (d : BitVec 7)
  /-- IMULW_N32 (R236). 64-bit unsigned product of 32-bit operands. -/
  | imulwN32 (b : BitVec 7) (a : BitVec 7) (d : BitVec 7)
  /-- IMULW_I32 (R236). 64-bit signed product of 32-bit operands. -/
  | imulwI32 (b : BitVec 7) (a : BitVec 7) (d : BitVec 7)
  /-- UADD_N32 (R237). Uniform add. -/
  | uaddN32 (b : BitVec 6) (a : BitVec 6) (d : BitVec 6)
  /-- USUB_N32 (R237). Uniform subtract. -/
  | usubN32 (b : BitVec 6) (a : BitVec 6) (d : BitVec 6)
  /-- UMUL_N32 (R237). Uniform multiply. -/
  | umulN32 (b : BitVec 6) (a : BitVec 6) (d : BitVec 6)
  /-- UMIN_I32 (R237). Uniform signed minimum. -/
  | uminI32 (b : BitVec 6) (a : BitVec 6) (d : BitVec 6)
  /-- UMAX_I32 (R237). Uniform signed maximum. -/
  | umaxI32 (b : BitVec 6) (a : BitVec 6) (d : BitVec 6)
  /-- UMIN_N32 (R237). Uniform unsigned minimum. -/
  | uminN32 (b : BitVec 6) (a : BitVec 6) (d : BitVec 6)
  /-- UMAX_N32 (R237). Uniform unsigned maximum. -/
  | umaxN32 (b : BitVec 6) (a : BitVec 6) (d : BitVec 6)
  /-- UAND_B32 (R237). Uniform and. -/
  | uandB32 (b : BitVec 6) (a : BitVec 6) (d : BitVec 6)
  /-- UOR_B32 (R237). Uniform or. -/
  | uorB32 (b : BitVec 6) (a : BitVec 6) (d : BitVec 6)
  /-- UXOR_B32 (R237). Uniform xor. -/
  | uxorB32 (b : BitVec 6) (a : BitVec 6) (d : BitVec 6)
  /-- USHL_B32 (R237). Uniform shift left. -/
  | ushlB32 (b : BitVec 6) (a : BitVec 6) (d : BitVec 6)
  /-- USHR_N32 (R237). Uniform logical shift right. -/
  | ushrN32 (b : BitVec 6) (a : BitVec 6) (d : BitVec 6)
  /-- USHR_I32 (R237). Uniform arithmetic shift right. -/
  | ushrI32 (b : BitVec 6) (a : BitVec 6) (d : BitVec 6)
  /-- UDIV_N32 (R237). Uniform unsigned divide. -/
  | udivN32 (b : BitVec 6) (a : BitVec 6) (d : BitVec 6)
  /-- UREM_N32 (R237). Uniform unsigned remainder. -/
  | uremN32 (b : BitVec 6) (a : BitVec 6) (d : BitVec 6)
  /-- UMOV (R237). Uniform move. -/
  | umov (b : BitVec 6) (d : BitVec 6)
  /-- USEQ_B32 (R237). Uniform equal. -/
  | useqB32 (b : BitVec 6) (a : BitVec 6) (d : BitVec 6)
  /-- USLT_I32 (R237). Uniform signed less than. -/
  | usltI32 (b : BitVec 6) (a : BitVec 6) (d : BitVec 6)
  /-- USLT_N32 (R237). Uniform unsigned less than. -/
  | usltN32 (b : BitVec 6) (a : BitVec 6) (d : BitVec 6)
  /-- UDIV_I32 (R237). Uniform signed divide. -/
  | udivI32 (b : BitVec 6) (a : BitVec 6) (d : BitVec 6)
  /-- UREM_I32 (R237). Uniform signed remainder. -/
  | uremI32 (b : BitVec 6) (a : BitVec 6) (d : BitVec 6)
  /-- UADDI (R238). Uniform add of a 13-bit immediate. -/
  | uaddi (i : BitVec 13) (a : BitVec 6) (d : BitVec 6)
  /-- UMOVI (R238). Uniform move of a sign-extended immediate. -/
  | umovi (i : BitVec 13) (d : BitVec 6)
  /-- CMOV_READ (R239). Read a control register into a uniform pair. -/
  | cmovRead (n : BitVec 12) (s : BitVec 6)
  /-- CMOV_WRITE (R239). Write a control register from a uniform pair under R196. -/
  | cmovWrite (n : BitVec 12) (s : BitVec 6)
  /-- BR (R240). Unconditional PC-relative branch. -/
  | br (o : BitVec 20)
  /-- BR_COND (R240). Branch in the lanes where pPN XOR N is 1. -/
  | brCond (o : BitVec 20) (n : BitVec 1) (p : BitVec 3)
  /-- CALL (R240). Unconditional call, pushing a frame under R162. -/
  | call (o : BitVec 20)
  /-- CALL_COND (R240). Predicated call. -/
  | callCond (o : BitVec 20) (n : BitVec 1) (p : BitVec 3)
  /-- JMP (R242). Indirect jump to a uniform pair. -/
  | jmp (a : BitVec 6)
  /-- CALLI (R242). Indirect call. -/
  | calli (a : BitVec 6)
  /-- RET (R242). Pop a frame and return. -/
  | ret
  /-- LDL_B32 (R212). Literal load of one granule through the instruction cache. -/
  | ldlB32 (o : BitVec 18) (d : BitVec 7)
  /-- LDL_B64 (R212). Literal load of two granules. -/
  | ldlB64 (o : BitVec 18) (d : BitVec 7)
  /-- LD_B32 (R247). Weak load of one granule. -/
  | ldB32 (o : BitVec 8) (s : BitVec 2) (a : BitVec 7) (d : BitVec 7)
  /-- LD_B64 (R247). Weak load of two granules. -/
  | ldB64 (o : BitVec 8) (s : BitVec 2) (a : BitVec 7) (d : BitVec 7)
  /-- LD_B128 (R247). Weak load of four granules. -/
  | ldB128 (o : BitVec 8) (s : BitVec 2) (a : BitVec 7) (d : BitVec 7)
  /-- ST_B32 (R247). Weak store of one granule. -/
  | stB32 (o : BitVec 8) (i : BitVec 1) (s : BitVec 2) (a : BitVec 7) (d : BitVec 7)
  /-- ST_B64 (R247). Weak store of two granules. -/
  | stB64 (o : BitVec 8) (i : BitVec 1) (s : BitVec 2) (a : BitVec 7) (d : BitVec 7)
  /-- ST_B128 (R247). Weak store of four granules. -/
  | stB128 (o : BitVec 8) (i : BitVec 1) (s : BitVec 2) (a : BitVec 7) (d : BitVec 7)
  /-- LD_B32_ORD (R250). Ordered 32-bit load. -/
  | ldB32Ord (g : BitVec 4) (o : BitVec 3) (s : BitVec 2) (a : BitVec 7) (d : BitVec 7)
  /-- LD_B64_ORD (R250). Ordered 64-bit load. -/
  | ldB64Ord (g : BitVec 4) (o : BitVec 3) (s : BitVec 2) (a : BitVec 7) (d : BitVec 7)
  /-- ST_B32_ORD (R250). Ordered 32-bit store. -/
  | stB32Ord (g : BitVec 4) (o : BitVec 3) (s : BitVec 2) (a : BitVec 7) (d : BitVec 7)
  /-- ST_B64_ORD (R250). Ordered 64-bit store. -/
  | stB64Ord (g : BitVec 4) (o : BitVec 3) (s : BitVec 2) (a : BitVec 7) (d : BitVec 7)
  /-- ATADD_N32 (R252). Atomic add. -/
  | ataddN32 (g : BitVec 4) (o : BitVec 2) (b : BitVec 6) (a : BitVec 7) (d : BitVec 6)
  /-- ATFADD_F32 (R252). Atomic f32 add. -/
  | atfaddF32 (g : BitVec 4) (o : BitVec 2) (b : BitVec 6) (a : BitVec 7) (d : BitVec 6)
  /-- ATMIN_I32 (R252). Atomic signed minimum. -/
  | atminI32 (g : BitVec 4) (o : BitVec 2) (b : BitVec 6) (a : BitVec 7) (d : BitVec 6)
  /-- ATMIN_N32 (R252). Atomic unsigned minimum. -/
  | atminN32 (g : BitVec 4) (o : BitVec 2) (b : BitVec 6) (a : BitVec 7) (d : BitVec 6)
  /-- ATMAX_I32 (R252). Atomic signed maximum. -/
  | atmaxI32 (g : BitVec 4) (o : BitVec 2) (b : BitVec 6) (a : BitVec 7) (d : BitVec 6)
  /-- ATMAX_N32 (R252). Atomic unsigned maximum. -/
  | atmaxN32 (g : BitVec 4) (o : BitVec 2) (b : BitVec 6) (a : BitVec 7) (d : BitVec 6)
  /-- ATAND_B32 (R252). Atomic and. -/
  | atandB32 (g : BitVec 4) (o : BitVec 2) (b : BitVec 6) (a : BitVec 7) (d : BitVec 6)
  /-- ATOR_B32 (R252). Atomic or. -/
  | atorB32 (g : BitVec 4) (o : BitVec 2) (b : BitVec 6) (a : BitVec 7) (d : BitVec 6)
  /-- ATXOR_B32 (R252). Atomic xor. -/
  | atxorB32 (g : BitVec 4) (o : BitVec 2) (b : BitVec 6) (a : BitVec 7) (d : BitVec 6)
  /-- ATSWP_B32 (R252). Atomic swap. -/
  | atswpB32 (g : BitVec 4) (o : BitVec 2) (b : BitVec 6) (a : BitVec 7) (d : BitVec 6)
  /-- ATCAS_B32 (R252). Atomic compare-and-swap. -/
  | atcasB32 (g : BitVec 4) (o : BitVec 2) (b : BitVec 6) (a : BitVec 7) (d : BitVec 6)
  /-- ATMRG_B32 (R252). Atomic byte merge under a mask. -/
  | atmrgB32 (g : BitVec 4) (o : BitVec 2) (b : BitVec 6) (a : BitVec 7) (d : BitVec 6)
  /-- ATADD_N64 (R252). 64-bit atomic add. -/
  | ataddN64 (g : BitVec 4) (o : BitVec 2) (b : BitVec 6) (a : BitVec 7) (d : BitVec 6)
  /-- ATSWP_B64 (R252). 64-bit atomic swap. -/
  | atswpB64 (g : BitVec 4) (o : BitVec 2) (b : BitVec 6) (a : BitVec 7) (d : BitVec 6)
  /-- ATCAS_B64 (R252). 64-bit atomic compare-and-swap. -/
  | atcasB64 (g : BitVec 4) (o : BitVec 2) (b : BitVec 6) (a : BitVec 7) (d : BitVec 6)
  /-- FENCE_ACQ (R256). Acquire fence at a scope. -/
  | fenceAcq (g : BitVec 4)
  /-- FENCE_REL (R256). Release fence at a scope. -/
  | fenceRel (g : BitVec 4)
  /-- FENCE_AR (R256). Acquire-release fence at a scope. -/
  | fenceAr (g : BitVec 4)
  /-- BIND (R257). Bind a range of pages to a sync object and return its index. -/
  | bind (b : BitVec 6) (a : BitVec 6) (d : BitVec 6)
  /-- JOIN (R259). Arrive at a lane mask and block until release. -/
  | join (a : BitVec 4)
  /-- LEAVE (R170). Leave a lane mask. -/
  | leave (a : BitVec 4)
  /-- WAIT (R171). Arrive at a lane mask with a timeout. -/
  | wait (b : BitVec 6) (a : BitVec 4) (d : BitVec 3)
  /-- CBAR (R260). Arrive at the crew barrier. -/
  | cbar (a : BitVec 6)
  /-- CJOIN (R261). Move the calling threads into another crew. -/
  | cjoin (a : BitVec 6)
  /-- CLEAVE (R261). Move the calling threads into a new crew. -/
  | cleave
  /-- BINIT (R262). Initialise a barrier object. -/
  | binit (b : BitVec 6) (a : BitVec 6)
  /-- BARRIVE (R262). Count n bytes into a barrier object with a crew-scope release. -/
  | barrive (b : BitVec 6) (a : BitVec 6)
  /-- BWAIT (R262). Block until a barrier object is complete, then acquire. -/
  | bwait (a : BitVec 6) (d : BitVec 6)
  /-- BREAD (R262). Read a barrier object atomically. -/
  | bread (a : BitVec 6) (d : BitVec 6)
  /-- RDWP (R263). Read a channel's write pointer as a self-scope acquire. -/
  | rdwp (b : BitVec 2) (d : BitVec 6)
  /-- RWR (R264). Remote-write a register into a wave of another crew of the set. -/
  | rwr (b : BitVec 6) (a : BitVec 6)
  /-- MLD (R276). Load a dense tile, windowed or plain. -/
  | mld (p : BitVec 6) (s : BitVec 2) (a : BitVec 4) (d : BitVec 5)
  /-- MST (R277). Store a dense tile's elements. -/
  | mst (p : BitVec 6) (i : BitVec 1) (s : BitVec 2) (a : BitVec 4) (d : BitVec 5)
  /-- MLDF (R278). Load a factored tile's image. -/
  | mldf (s : BitVec 2) (a : BitVec 4) (d : BitVec 5)
  /-- MSTF (R278). Store a factored tile's image. -/
  | mstf (i : BitVec 1) (s : BitVec 2) (a : BitVec 4) (d : BitVec 5)
  /-- ALD (R279). Load an accumulator region and replace its checkpoint. -/
  | ald (p : BitVec 6) (s : BitVec 2) (a : BitVec 4) (d : BitVec 3)
  /-- AST (R279). Store an accumulator region. -/
  | ast (p : BitVec 6) (i : BitVec 1) (s : BitVec 2) (a : BitVec 4) (d : BitVec 3)
  /-- MMA (R283). Multiply-accumulate into an accumulator by k-steps. -/
  | mma (b : BitVec 5) (a : BitVec 5) (d : BitVec 3)
  /-- MMAZ (R283). Zero the region, then multiply-accumulate. -/
  | mmaz (b : BitVec 5) (a : BitVec 5) (d : BitVec 3)
  /-- MDRAIN (R286). Convert an accumulator into a dense tile. -/
  | mdrain (a : BitVec 3) (d : BitVec 5)
  /-- ACLR (R286). Clear an accumulator and its checkpoint. -/
  | aclr (d : BitVec 3)
  /-- MMUL (R287). Product of two tiles. -/
  | mmul (b : BitVec 5) (a : BitVec 5) (d : BitVec 5)
  /-- MADD (R288). Sum of two tiles, raising RANK over MAX. -/
  | madd (b : BitVec 5) (a : BitVec 5) (d : BitVec 5)
  /-- MADD_DN (R288). Sum of two tiles written dense. -/
  | maddDn (b : BitVec 5) (a : BitVec 5) (d : BitVec 5)
  /-- MRECOMP (R291). Recompress a factored tile against TOL and MAXRANK. -/
  | mrecomp (a : BitVec 5) (d : BitVec 5)
  /-- MFACT (R290). Factorise a dense tile. -/
  | mfact (a : BitVec 5) (d : BitVec 5)
  /-- MDENS (R289). Form the dense value of a factored tile. -/
  | mdens (a : BitVec 5) (d : BitVec 5)
  /-- MMOV (R292). Copy a tile and its descriptor. -/
  | mmov (a : BitVec 5) (d : BitVec 5)
  /-- MTR (R292). Transpose a tile. -/
  | mtr (a : BitVec 5) (d : BitVec 5)
  /-- MZERO (R292). Make a tile zero and free its slabs. -/
  | mzero (d : BitVec 5)
  /-- XCOPY (R301). Asynchronous granule-whole copy. -/
  | xcopy (h : BitVec 2) (b : BitVec 6) (a : BitVec 6)
  /-- XREPACK (R301). Asynchronous repack into whole granules. -/
  | xrepack (h : BitVec 2) (b : BitVec 6) (a : BitVec 6)
  /-- XTR (R301). Asynchronous transpose of dimensions 0 and 1. -/
  | xtr (h : BitVec 2) (b : BitVec 6) (a : BitVec 6)
  /-- XCVT (R302). Asynchronous scaled conversion. -/
  | xcvt (h : BitVec 2) (b : BitVec 6) (a : BitVec 6)
  /-- XEXP (R303). Asynchronous expansion of compressed blocks. -/
  | xexp (h : BitVec 2) (b : BitVec 6) (a : BitVec 6)
  /-- XMCAST (R132). Asynchronous multicast to cores of the cluster set. -/
  | xmcast (h : BitVec 2) (e : BitVec 6) (b : BitVec 6) (a : BitVec 6)
  /-- EXIT (R163). End the thread. -/
  | exit
  /-- EMIT (R180). Send one continuation record per lane into the bins. -/
  | emit (a : BitVec 6)
  /-- IDEM (R184). Record the region entry and set the idempotent bit. -/
  | idem
  /-- NOPRE (R187). Open or shorten a pre-emption-disable window. -/
  | nopre (a : BitVec 6)
  /-- RNG (R307). Counter-based random mix of counter and key. -/
  | rng (b : BitVec 6) (a : BitVec 6) (d : BitVec 6)
  /-- CADD_N128 (R308). Add a 64-bit value to a 128-bit counter. -/
  | caddN128 (b : BitVec 6) (a : BitVec 6) (d : BitVec 6)
  /-- BKPT (R317). Raise BKPT. -/
  | bkpt (i : BitVec 6)
  /-- TRET (R316). Return from the trap handler to TRAPPC. -/
  | tret
  /-- TSTAMP (R309). Read the device time base. -/
  | tstamp (d : BitVec 6)
  /-- COREID (R309). Read the core number and fabric-domain number. -/
  | coreid (d : BitVec 6)
  /-- POWER_ON (R24). The board applies package power, which causes a cold reset that wipes all state. -/
  | powerOn
  /-- POWER_LOSS (R24). Package power is removed and every unit of the package loses its state. -/
  | powerLoss
  /-- WAKE (R377). A WAKE frame carrying the fabric-domain number starts boot, and the boot ROM checks the Osmium image. -/
  | wake
  /-- STATUS (R379). A STATUS frame is answered with state, temperatures, power, scrub counts and image check results. -/
  | status
  /-- IMAGE (R379). An IMAGE frame delivers one numbered chunk of a signed image. -/
  | image
  /-- LCCMD (R375). A signed life-cycle transition request is checked and, when legal, consumes fuses and changes the state. -/
  | lccmd
  /-- WIPE_COMPLETE (R376). The HBM wipe completes, and the management port stops answering STATUS only. -/
  | wipeComplete
  /-- ATTEST (R378). An ATTEST frame carrying a nonce is answered with a signed attestation report. -/
  | attest
  /-- OFF (R379). All contexts are stopped with STATUS 2 records, and the device reports that it is ready for power removal. -/
  | off
  /-- UNKNOWN_FRAME_TYPE (R379). A frame of unknown type is answered with type 0x00FF and no body. -/
  | unknownFrameType
  /-- CLOCK_STEP_DOWN (R23). Package power over 1,800 W, or a junction above 105 °C, lowers the die's arithmetic clock by 100 MHz. -/
  | clockStepDown
  /-- CLOCK_STEP_UP (R23). Once both conditions have been clear for 10 ms, the clock rises by 100 MHz. -/
  | clockStepUp
  /-- THERMAL_TRIP (R23). A junction reaching 115 °C sends a TRIP frame and stops the device, losing all state. -/
  | thermalTrip
  /-- CORE_CONDEMN (R25). The Acorn removes a condemned core from placement, saves or discards its crews and reports the core. -/
  | coreCondemn
  /-- CORE_CONDEMNED_REPORT (R335). A CORE command from an Acorn tells Hazel that a core has been condemned. -/
  | coreCondemnedReport
  /-- PCIE_INBOUND_DATA (R20). Data arriving from a PCIe adapter are given granule codes by the port. -/
  | pcieInboundData
  /-- PCIE_OUTBOUND_DATA (R20). Data leaving through a PCIe port are checked, and a failure ends the transfer with a poisoned completion and a report to Osmium. -/
  | pcieOutboundData
  /-- PAGE_WALK (R38). A translation walk runs level by level, sets A and D by compare-and-swap and ends in a translation, a replayable fault or a fatal fault. -/
  | pageWalk
  /-- FAULT_RECORD_WRITE (R46). An open fault record is written to the context's fault ring once room exists, takes its sequence number and sends the fault interrupt. -/
  | faultRecordWrite
  /-- REPLAY_RETRY (R47). A write of REPLAY with VERDICT RETRY reissues every attached access from a fresh walk and closes the record. -/
  | replayRetry
  /-- REPLAY_FATAL (R47). A write of REPLAY with VERDICT FATAL raises PAGE at each attached instruction and closes the record. -/
  | replayFatal
  /-- FRCFG_WRITE (R46). A supervisor write of FRCFG is judged against the firewall and is either applied or refused, setting XLERR bit 3. -/
  | frcfgWrite
  /-- FRIDX_WRITE (R46). A supervisor write of FRIDX.RD acknowledges the fault interrupt, or is refused and sets XLERR bit 2. -/
  | fridxWrite
  /-- XLINVA_WRITE (R50). A write of XLINVA sets the virtual page for the next invalidation, unless BUSY is 1 or res0 bits are set. -/
  | xlinvaWrite
  /-- XLINV_PAGE (R49). A write of XLINVC with ALLVA 0 starts the invalidation of the page named in XLINVA for one context. -/
  | xlinvPage
  /-- XLINV_ALL (R49). A write of XLINVC with ALLVA 1 starts the invalidation of every page of the context. -/
  | xlinvAll
  /-- XLINV_COMPLETE (R51). An invalidation completes on all four dies, and BUSY reads 0. -/
  | xlinvComplete
  /-- HOME_ATOMIC (R76). An atomic, A or D swap, or poison request is performed at the line's home L2 slice as consumer and producer. -/
  | homeAtomic
  /-- FAR_ATOMIC (R78). An atomic on an MS page is performed at the line's far atomic unit on the HBM base die. -/
  | farAtomic
  /-- L2_FILL (R85). The controller fills an L2 line, decoding compressed blocks and tagging format windows. -/
  | l2Fill
  /-- L2_WRITEBACK (R85). An L2 write-back to a compressed block is performed as one read, decode, merge, encode and write step at the controller. -/
  | l2Writeback
  /-- GROWTH_RECORD_APPEND (R88). A pending growth record is appended to the growth ring once room exists, and the growth interrupt is sent. -/
  | growthRecordAppend
  /-- GRCFG_WRITE (R88). A write of GRCFG is judged against the firewall and is either applied or refused, setting GRERR bit 1. -/
  | grcfgWrite
  /-- GRIDX_WRITE (R88). A write of GRIDX.RD acknowledges the growth interrupt, or is refused and sets GRERR bit 0. -/
  | gridxWrite
  /-- CZCMD (R89). A write of CZCMD converts a block to a new allotment, freeing or parking it, or is refused and sets CZERR. -/
  | czcmd
  /-- FUSE (R73). The Acorn writes back and invalidates a cluster's four L1s and then fuses them. -/
  | fuse
  /-- UNFUSE (R73). The Acorn writes back and invalidates the fused L1s and then unfuses them. -/
  | unfuse
  /-- WINDOW_REGISTER_WRITE (R94). Osmium writes WINAn, WINLn or WINSn, starting the write-back of the affected lines. -/
  | windowRegisterWrite
  /-- WINDOW_CHANGE_COMPLETE (R94). The window write completes once the home slices have written back and dropped the affected lines. -/
  | windowChangeComplete
  /-- FRAME_WIPE (R374). Osmium wipes a frame returned by a context before it is reassigned, setting the SIZE of its compressed blocks to 0. -/
  | frameWipe
  /-- ENGINE_OP_DISPATCH (R125). The engine scheduler starts a held asynchronous operation once its edges are satisfied and its channel is free. -/
  | engineOpDispatch
  /-- ENGINE_PIECE (R127). A channel reads, transforms and delivers one piece of at most 128 bytes into one destination line. -/
  | enginePiece
  /-- MULTICAST_ARRIVAL (R132). A multicast delivery arrives at a receiving core's scratchpad and counts into its barrier object. -/
  | multicastArrival
  /-- REMOTE_WRITE_DEPOSIT (R134). A remote-write deposit lands in the target wave's register between instructions and raises ARRIVE. -/
  | remoteWriteDeposit
  /-- WAIT_TIMEOUT (R171). A wait's timeout runs out, so the thread's arrival is cleared, its predicate is set to 1 and it proceeds. -/
  | waitTimeout
  /-- BIN_TIMEOUT (R181). BINTO cycles after a bin's first record, the bin forms a new wave. -/
  | binTimeout
  /-- BIN_WAVE_FORM (R181). A bin forms a new wave of the emitting crew once a slot, thread room and ids are free. -/
  | binWaveForm
  /-- LLS_DECAY (R182). Every 256 cycles, each wave's lost-locality score falls by its value shifted right by 3. -/
  | llsDecay
  /-- THROTTLE_SELECT (R183). Every 256 cycles the core permits the LIMIT waves with the highest scores to issue memory instructions. -/
  | throttleSelect
  /-- THROTTLE_BYPASS (R183). A wave held for 4,096 cycles from a memory instruction issues one such instruction regardless. -/
  | throttleBypass
  /-- NOPRE_WINDOW_EXPIRE (R187). A nopre window's count runs out and the window closes, letting a pending pre-emption be served. -/
  | nopreWindowExpire
  /-- CREW_END (R305). A crew ends once its last thread has exited and its asynchronous operations are done, performing a device-scope release and freeing its resources. -/
  | crewEnd
  /-- TDESC_WRITE (R267). A write of TDESCn is judged whole and either zero-fills the register in its new shape or changes nothing, raising SLAB when over quota. -/
  | tdescWrite
  /-- ARRIVE_WRITE (R202). A program write of ARRIVE performs before any deposit increment in the same cycle. -/
  | arriveWrite
  /-- ILLEGAL_ENCODING (R213). An unassigned or malformed instruction pattern raises ILL or UND. -/
  | illegalEncoding
  /-- ROLLBACK (R362). A non-final CHK or HBMUE restores the crew from its shadow and retries the interval. -/
  | rollback
  /-- SHADOW (R359). At an interval's end, once matrix and asynchronous work is done, the Acorn records the crew in its shadow slot and clears INTERVAL. -/
  | shadow
  /-- SHADOW_SLOT_GRANT (R360). Pewter grants a shadow slot of SLEN blocks, without which a crew is not placed. -/
  | shadowSlotGrant
  /-- BARRIER_WATCHDOG_FIRE (R366). The barrier count reaches LIMIT × 1,024 cycles, and the crew is stopped with a BARTO context fault. -/
  | barrierWatchdogFire
  /-- DIAG_DUMP_WRITE (R366). Once every crew of the context has stopped, the watchdog dump is written at DIAGVA with a host-scope release. -/
  | diagDumpWrite
  /-- SIGNAL_NOTIFICATION (R320). A write that performs on a doorbell signal word notifies the signal unit, which reads WIDX. -/
  | signalNotification
  /-- QUEUE_IDLE_UNMAP (R325). A queue idle for IDLEUS µs is unmapped, and READ is written back. -/
  | queueIdleUnmap
  /-- PACKET_EMPTY (R327). A packet of TYPE 0x00 makes the slot wait for the next notification. -/
  | packetEmpty
  /-- PACKET_NODE (R328). A node packet is accepted, its node record is read once, and the node enters the ready pool with its dependences. -/
  | packetNode
  /-- PACKET_WAIT (R326). A wait packet reads its word as an acquire and blocks or parks the queue until the condition holds. -/
  | packetWait
  /-- PACKET_SIGNAL (R327). A signal packet performs its signal write after every earlier node of the queue has completed. -/
  | packetSignal
  /-- WAIT_WORD_WATCH (R326). A write at a watched wait word's home slice makes the slot or signal unit read the word again. -/
  | waitWordWatch
  /-- WAIT_WORD_POLL (R326). Every 1 µs an unwatched wait word is polled. -/
  | waitWordPoll
  /-- NODE_PLACEMENT (R333). Hazel serves the ready node of highest effective priority and places its crews that fit. -/
  | nodePlacement
  /-- PRIORITY_RISE (R334). A ready node's effective priority rises with each whole millisecond, and Hazel resends its pre-emption request. -/
  | priorityRise
  /-- PLACE (R335). A PLACE command makes the Acorn set up a crew or set on its cores, or return a placement failure. -/
  | place
  /-- ENDED (R331). An ENDED command tells Hazel that a crew has ended. -/
  | ended
  /-- COMPLETION_SIGNAL_WRITE (R337). The strong release write of SIGVAL to SIGVA is performed, or waits on a fault verdict. -/
  | completionSignalWrite
  /-- EVENT_RECORD_WRITE (R340). A completion record is written to the event ring when space allows, and the interrupt count advances. -/
  | eventRecordWrite
  /-- EVENT_IRQ_TIMER (R341). Every 1 µs the time threshold is judged, and an interrupt message may be sent. -/
  | eventIrqTimer
  /-- FAULT (R339). A FAULT command reports a context fault or breakpoint stop, and Hazel stops, cancels and records the context's nodes. -/
  | fault
  /-- SAVED (R353). A SAVED command makes Hazel hold the saved or flushed crew as a resume entry. -/
  | saved
  /-- CANCEL (R335). A CANCEL command makes the Acorn stop every crew of the context. -/
  | cancel
  /-- CONTINUE (R317). A CONTINUE command restarts a crew stopped at a breakpoint, or fails on a bad PC. -/
  | continueCrew
  /-- TEST (R357). A TEST command saves the core's crews and runs an in-field test of at most 2 ms. -/
  | test
  /-- TEST_END (R357). The in-field test ends, returning the core to placement or condemning it. -/
  | testEnd
  /-- MISSCAP_WRITE (R183). A command from Hazel makes the Acorn write the core's MISSCAP register. -/
  | misscapWrite
  /-- PREEMPTION_REQUEST (R346). The Acorns evaluate candidate crews with the estimator and choose drain, flush or save for each. -/
  | preemptionRequest
  /-- SCORE_REPORT (R346). Each Acorn reports its best core or cluster score, and Hazel sends PREEMPT to the least. -/
  | scoreReport
  /-- HEAP_GRANT_REPLY (R349). Pewter answers a heap run or extension request with a physical base or a refusal. -/
  | heapGrantReply
  /-- PREEMPT (R351). A PREEMPT command names crews and methods, and the Acorn begins capture once no nopre window is open. -/
  | preempt
  /-- CAPTURE (R351). After issue stops and pending work completes, the crew's record is written, its resources are freed and SAVED is reported. -/
  | capture
  /-- RESUME (R354). The resume engine checks a record, restores the crew on a chosen core and performs the device-scope acquire. -/
  | resume
  /-- PARTITION_REPLACE (R397). Osmium installs a new partition, and the crews on departing cores are saved for resume inside it. -/
  | partitionReplace
  /-- SCRUB (R371). Each stack scrubs its rows during refresh, correcting what it can and marking uncorrectable words. -/
  | scrub
  /-- SCRUB_COUNT_UPDATE (R371). Every 64 ms each controller adds the stack's scrub counts into ECSCNTn. -/
  | scrubCountUpdate
  /-- ECSCNT_CLEAR (R371). A write of 1 to ECSCNT.CLR sets CORR and UNCORR to 0. -/
  | ecscntClear
  /-- DESCRIPTOR_INSTALL (R41). Osmium installs a context descriptor, or refuses one with bad roots, PRIVSZ or reserved bytes. -/
  | descriptorInstall
  /-- FIREWALL_ASSIGN (R40). Osmium writes a firewall entry, assigning a 32 MiB region's kind, sub-kind and owner. -/
  | firewallAssign
  /-- PAGE_TABLE_WRITE (R374). Osmium writes a page-table entry on request, refusing leaves that fail the firewall. -/
  | pageTableWrite
  /-- WINDOW_INSTALL (R92). Osmium installs a requested format window when its conditions hold, and otherwise refuses it. -/
  | windowInstall
  /-- LOAD_OBJECT (R383). Osmium loads a Rynil object's text, side table, roots, handler, link table and sync area, or refuses the whole object. -/
  | loadObject
  /-- LINK_PATCH (R384). Osmium patches a link-table entry, invalidates the instruction caches, maps the lazy page and releases 2 to the sync word. -/
  | linkPatch
  /-- REGISTER_WRITE (R7). A write to a register with no row of its own follows its field map's access codes. -/
  | registerWrite
  /-- CZCMD_COMPLETE (R89). The block conversion started by a CZCMD write completes and BUSY reads 0, freeing a parked entry when the new allotment suffices. -/
  | czcmdComplete
  /-- REPLAY_REFUSED (R47). A write of REPLAY with VERDICT 0b00 or 0b11 is refused, changes nothing and sets XLERR bit 1. -/
  | replayRefused
  /-- COMMAND_CRC_FAILURE (R335). A command on an Acorn link fails its CRC, is discarded with a resend request, and after three consecutive failures Hazel reports to Osmium and the cluster leaves placement. -/
  | commandCrcFailure
  /-- SEND_PERMIT_RETURN (R335). A send permit returns over a command link, and a sender waiting without one sends its next command in order. -/
  | sendPermitReturn
  /-- PEER_ACCESS (R120). A load, store or atomic from a peer device arrives over a fabric link and is performed at this device's home slice or far atomic unit. -/
  | peerAccess
  /-- CONTROL_CORE_ACCESS (R116). A control core's load or store reaches device memory at the home slice, or is refused with a machine check and a report to Osmium. -/
  | controlCoreAccess
  /-- QUEUE_OWNER_ASSIGN (R319). Osmium writes an entry of the queue owner table QOWN, giving a queue's doorbell page to a context. -/
  | queueOwnerAssign
  deriving DecidableEq, Repr

/-- The operands of the device's own steps: what each row without an encoding names (a queue, a core, a register and
its value). Every constructor bears the name of its row. `none` stands where the step to come is an instruction. -/
inductive Arg where
  | none
  | powerOn
  | powerLoss
  | wake (hdr : Hdr) (body : List (BitVec 8))
  | status (hdr : Hdr)
  | image (hdr : Hdr) (kind : ImageKind) (chunk : Nat) (bytes : List (BitVec 8)) (last : Bool) (signer : Option Signer)
  | lccmd (hdr : Hdr) (target : LifeCycle) (signer : Signer) (sigOk : Bool)
  | wipeComplete
  | attest (hdr : Hdr) (nonce : BitVec 256)
  | off (hdr : Hdr)
  | unknownFrameType (hdr : Hdr) (ty : BitVec 16)
  | clockStepDown (die : Nat) (milliwatts : Nat) (celsius : Nat)
  | clockStepUp (die : Nat) (clearMs : Nat)
  | thermalTrip (die : Nat) (celsius : Nat)
  | coreCondemn (core : Nat)
  | coreCondemnedReport (cluster : Nat)
  | pcieInboundData (port : Nat) (pa : Nat) (words : List (BitVec 32))
  | pcieOutboundData (port : Nat) (pa : Nat) (count : Nat)
  | pageWalk (core : Nat) (ctx : Nat) (va : BitVec 58) (access : Access)
  | faultRecordWrite (uid : Nat)
  | replayRetry (ctx : Nat) (res : BitVec 30) (seq : BitVec 32)
  | replayFatal (ctx : Nat) (res : BitVec 30) (seq : BitVec 32)
  | frcfgWrite (ctx : Nat) (value : BitVec 64)
  | fridxWrite (ctx : Nat) (rd : BitVec 32)
  | xlinvaWrite (value : BitVec 64)
  | xlinvPage (value : BitVec 64)
  | xlinvAll (value : BitVec 64)
  | xlinvComplete
  | homeAtomic (pa : Nat) (req : AtomReq)
  | farAtomic (pa : Nat) (req : AtomReq)
  | l2Fill (line : Nat) (cz : Option Bool)
  | l2Writeback (line : Nat)
  | growthRecordAppend (ctl : Nat) (entry : Nat)
  | grcfgWrite (value : BitVec 64)
  | gridxWrite (rd : BitVec 32)
  | czcmd (ctl : Nat) (value : BitVec 64)
  | fuse (cluster : Nat)
  | unfuse (cluster : Nat)
  | windowRegisterWrite (die : Nat) (win : Nat) (reg : WinReg) (value : BitVec 64)
  | windowChangeComplete (die : Nat) (win : Nat)
  | frameWipe (pa : Nat)
  | engineOpDispatch (core : Nat) (op : Nat)
  | enginePiece (core : Nat) (op : Nat)
  | multicastArrival (core i : Nat)
  | remoteWriteDeposit (core i : Nat)
  | waitTimeout (core : Nat) (slot : Nat) (lane : Nat)
  | binTimeout (core : Nat) (bin : Nat)
  | binWaveForm (core : Nat) (bin : Nat) (slot : Nat) (ids : List Nat)
  | llsDecay (core : Nat)
  | throttleSelect (core : Nat)
  | throttleBypass (core : Nat) (slot : Nat)
  | nopreWindowExpire (core : Nat) (slot : Nat)
  | crewEnd (core : Nat) (crew : Nat)
  | tdescWrite (core : Nat) (crew : Nat) (m : BitVec 5) (value : BitVec 64)
  | arriveWrite (core : Nat) (slot : Nat) (value : BitVec 64)
  | illegalEncoding (ill : Bool) (word : BitVec 32)
  | rollback (core : Nat) (crew : Nat)
  | shadow (core : Nat) (crew : Nat)
  | shadowSlotGrant (node : Nat) (cidx : Nat) (run : Option Nat)
  | barrierWatchdogFire (core : Nat) (crew : Nat)
  | diagDumpWrite (ctx : Nat)
  | signalNotification (queue : Nat)
  | queueIdleUnmap (slot : Nat)
  | packetEmpty (slot : Nat)
  | packetNode (slot : Nat)
  | packetWait (slot : Nat)
  | packetSignal (slot : Nat)
  | waitWordWatch (queue : Nat)
  | waitWordPoll (queue : Nat)
  | nodePlacement (node : Nat) (cores : List Nat)
  | priorityRise (node : Nat)
  | place (cluster : Nat) (spots : List Spot)
  | ended (cluster : Nat)
  | completionSignalWrite (node : Nat)
  | eventRecordWrite (ctx : Nat)
  | eventIrqTimer (ctx : Nat)
  | fault (cluster : Nat)
  | saved (cluster : Nat)
  | cancel (cluster : Nat)
  | continueCrew (cluster : Nat)
  | test (cluster : Nat)
  | testEnd (core : Nat) (passed : Bool)
  | misscapWrite (cluster : Nat)
  | preemptionRequest (node : Nat)
  | scoreReport (node : Nat)
  | heapGrantReply (core : Nat) (crew : Nat) (run : Option Nat)
  | preempt (cluster : Nat)
  | capture (core : Nat) (crew : Nat)
  | resume (entry : Nat) (core : Nat) (spots : List Spot)
  | partitionReplace (ctx : Nat) (cores : List Nat)
  | scrub (stack : Nat) (corrected : Nat) (bad : List Nat)
  | scrubCountUpdate (stack : Nat)
  | ecscntClear (stack : Nat)
  | descriptorInstall (ctx : Nat) (desc : BitVec 512)
  | firewallAssign (region : Nat) (entry : BitVec 16)
  | pageTableWrite (ctx : Nat) (level : Nat) (pa : Nat) (value : BitVec 64)
  | windowInstall (die : Nat) (win : Nat) (a : BitVec 64) (l : BitVec 64) (s : BitVec 64)
  | loadObject (ctx : Nat) (obj : RynilObject)
  | linkPatch (ctx : Nat) (index : Nat) (target : BitVec 64)
  | registerWrite (reg : SupReg) (value : BitVec 512)
  | czcmdComplete (ctl : Nat)
  | replayRefused (ctx : Nat) (value : BitVec 64)
  | commandCrcFailure (cluster : Nat) (dir : LinkDir)
  | sendPermitReturn (cluster : Nat) (dir : LinkDir)
  | peerAccess (peer : Nat) (pa : Nat) (req : PeerReq)
  | controlCoreAccess (cc : Nat) (pa : Nat) (req : PeerReq)
  | queueOwnerAssign (queue : Nat) (entry : BitVec 16)
  deriving DecidableEq, Repr

/-- The step that operands belong to. -/
def Arg.instr : Arg → Option Instr
  | .none => Option.none
  | .powerOn => some .powerOn
  | .powerLoss => some .powerLoss
  | .wake _ _ => some .wake
  | .status _ => some .status
  | .image _ _ _ _ _ _ => some .image
  | .lccmd _ _ _ _ => some .lccmd
  | .wipeComplete => some .wipeComplete
  | .attest _ _ => some .attest
  | .off _ => some .off
  | .unknownFrameType _ _ => some .unknownFrameType
  | .clockStepDown _ _ _ => some .clockStepDown
  | .clockStepUp _ _ => some .clockStepUp
  | .thermalTrip _ _ => some .thermalTrip
  | .coreCondemn _ => some .coreCondemn
  | .coreCondemnedReport _ => some .coreCondemnedReport
  | .pcieInboundData _ _ _ => some .pcieInboundData
  | .pcieOutboundData _ _ _ => some .pcieOutboundData
  | .pageWalk _ _ _ _ => some .pageWalk
  | .faultRecordWrite _ => some .faultRecordWrite
  | .replayRetry _ _ _ => some .replayRetry
  | .replayFatal _ _ _ => some .replayFatal
  | .frcfgWrite _ _ => some .frcfgWrite
  | .fridxWrite _ _ => some .fridxWrite
  | .xlinvaWrite _ => some .xlinvaWrite
  | .xlinvPage _ => some .xlinvPage
  | .xlinvAll _ => some .xlinvAll
  | .xlinvComplete => some .xlinvComplete
  | .homeAtomic _ _ => some .homeAtomic
  | .farAtomic _ _ => some .farAtomic
  | .l2Fill _ _ => some .l2Fill
  | .l2Writeback _ => some .l2Writeback
  | .growthRecordAppend _ _ => some .growthRecordAppend
  | .grcfgWrite _ => some .grcfgWrite
  | .gridxWrite _ => some .gridxWrite
  | .czcmd _ _ => some .czcmd
  | .fuse _ => some .fuse
  | .unfuse _ => some .unfuse
  | .windowRegisterWrite _ _ _ _ => some .windowRegisterWrite
  | .windowChangeComplete _ _ => some .windowChangeComplete
  | .frameWipe _ => some .frameWipe
  | .engineOpDispatch _ _ => some .engineOpDispatch
  | .enginePiece _ _ => some .enginePiece
  | .multicastArrival _ _ => some .multicastArrival
  | .remoteWriteDeposit _ _ => some .remoteWriteDeposit
  | .waitTimeout _ _ _ => some .waitTimeout
  | .binTimeout _ _ => some .binTimeout
  | .binWaveForm _ _ _ _ => some .binWaveForm
  | .llsDecay _ => some .llsDecay
  | .throttleSelect _ => some .throttleSelect
  | .throttleBypass _ _ => some .throttleBypass
  | .nopreWindowExpire _ _ => some .nopreWindowExpire
  | .crewEnd _ _ => some .crewEnd
  | .tdescWrite _ _ _ _ => some .tdescWrite
  | .arriveWrite _ _ _ => some .arriveWrite
  | .illegalEncoding _ _ => some .illegalEncoding
  | .rollback _ _ => some .rollback
  | .shadow _ _ => some .shadow
  | .shadowSlotGrant _ _ _ => some .shadowSlotGrant
  | .barrierWatchdogFire _ _ => some .barrierWatchdogFire
  | .diagDumpWrite _ => some .diagDumpWrite
  | .signalNotification _ => some .signalNotification
  | .queueIdleUnmap _ => some .queueIdleUnmap
  | .packetEmpty _ => some .packetEmpty
  | .packetNode _ => some .packetNode
  | .packetWait _ => some .packetWait
  | .packetSignal _ => some .packetSignal
  | .waitWordWatch _ => some .waitWordWatch
  | .waitWordPoll _ => some .waitWordPoll
  | .nodePlacement _ _ => some .nodePlacement
  | .priorityRise _ => some .priorityRise
  | .place _ _ => some .place
  | .ended _ => some .ended
  | .completionSignalWrite _ => some .completionSignalWrite
  | .eventRecordWrite _ => some .eventRecordWrite
  | .eventIrqTimer _ => some .eventIrqTimer
  | .fault _ => some .fault
  | .saved _ => some .saved
  | .cancel _ => some .cancel
  | .continueCrew _ => some .continueCrew
  | .test _ => some .test
  | .testEnd _ _ => some .testEnd
  | .misscapWrite _ => some .misscapWrite
  | .preemptionRequest _ => some .preemptionRequest
  | .scoreReport _ => some .scoreReport
  | .heapGrantReply _ _ _ => some .heapGrantReply
  | .preempt _ => some .preempt
  | .capture _ _ => some .capture
  | .resume _ _ _ => some .resume
  | .partitionReplace _ _ => some .partitionReplace
  | .scrub _ _ _ => some .scrub
  | .scrubCountUpdate _ => some .scrubCountUpdate
  | .ecscntClear _ => some .ecscntClear
  | .descriptorInstall _ _ => some .descriptorInstall
  | .firewallAssign _ _ => some .firewallAssign
  | .pageTableWrite _ _ _ _ => some .pageTableWrite
  | .windowInstall _ _ _ _ _ => some .windowInstall
  | .loadObject _ _ => some .loadObject
  | .linkPatch _ _ _ => some .linkPatch
  | .registerWrite _ _ => some .registerWrite
  | .czcmdComplete _ => some .czcmdComplete
  | .replayRefused _ _ => some .replayRefused
  | .commandCrcFailure _ _ => some .commandCrcFailure
  | .sendPermitReturn _ _ => some .sendPermitReturn
  | .peerAccess _ _ _ => some .peerAccess
  | .controlCoreAccess _ _ _ => some .controlCoreAccess
  | .queueOwnerAssign _ _ => some .queueOwnerAssign

end Sys2Proof
end

