-- ==== Sys2Proof/WellFormed.lean ====
section
/-! DEFINITION. Which instructions are well formed: the field values that R210, R213 and the instruction chapters
refuse with UND although the word fits its row of the opcode table. -/

namespace Sys2Proof

/-- A group of `n` registers named in a 7-bit field: it ends at v111, or at s15 (R210). -/
def grp7 (r : BitVec 7) (n : Nat) : Bool :=
  if r.toNat < 112 then decide (r.toNat + n ≤ 112) else decide (r.toNat + n ≤ 128)

/-- A group of `n` vector registers named in a 6-bit field: it ends at v63 (R210). -/
def grp6 (r : BitVec 6) (n : Nat) : Bool := decide (r.toNat + n ≤ 64)

/-- A group of `n` uniform registers named in a 6-bit field: it ends at s63 (R210). -/
def grpS (r : BitVec 6) (n : Nat) : Bool := decide (r.toNat + n ≤ 64)

/-- q0 to q11; 12 to 15 raise UND (R210). -/
def maskOk (q : BitVec 4) : Bool := decide (q.toNat < 12)

/-- Scope codes 0 to 9 (R96, R102). -/
def scopeOk (g : BitVec 4) : Bool := decide (g.toNat < 10)

/-- The control register numbers of R195. -/
def crnOk (n : BitVec 12) : Bool :=
  let k := n.toNat
  decide (k ≤ 3 ∨ (8 ≤ k ∧ k ≤ 0xB) ∨ (0x10 ≤ k ∧ k ≤ 0x14) ∨ (0x20 ≤ k ∧ k ≤ 0x22) ∨ k = 0x28 ∨
    (0x30 ≤ k ∧ k ≤ 0x33) ∨ k = 0x40 ∨ k = 0x41 ∨ (0x100 ≤ k ∧ k ≤ 0x11F))

/-- Format K names an even pair (R210). -/
def evenPair (s : BitVec 6) : Bool := decide (s.toNat % 2 = 0)

/-- Orderings and scopes of major 0x27 (R250): 0 weak with scope 0, 1 `.rlx`, 2 `.acq` on a load, 3 `.rel` on a store. -/
def ordOk (store : Bool) (g : BitVec 4) (o : BitVec 3) : Bool :=
  match o.toNat with
  | 0 => decide (g.toNat = 0)
  | 1 => scopeOk g
  | 2 => !store && scopeOk g
  | 3 => store && scopeOk g
  | _ => false

/-- Whether an instruction's fields are ones the spec gives a meaning (R210, R213). Rows without an encoding have no
fields of an encoding to refuse. -/
def Instr.wf : Instr → Bool
  | .powerOn => true
  | .powerLoss => true
  | .wake => true
  | .status => true
  | .image => true
  | .lccmd => true
  | .wipeComplete => true
  | .attest => true
  | .off => true
  | .unknownFrameType => true
  | .clockStepDown => true
  | .clockStepUp => true
  | .thermalTrip => true
  | .coreCondemn => true
  | .coreCondemnedReport => true
  | .pcieInboundData => true
  | .pcieOutboundData => true
  | .pageWalk => true
  | .faultRecordWrite => true
  | .replayRetry => true
  | .replayFatal => true
  | .frcfgWrite => true
  | .fridxWrite => true
  | .xlinvaWrite => true
  | .xlinvPage => true
  | .xlinvAll => true
  | .xlinvComplete => true
  | .homeAtomic => true
  | .farAtomic => true
  | .l2Fill => true
  | .l2Writeback => true
  | .growthRecordAppend => true
  | .grcfgWrite => true
  | .gridxWrite => true
  | .czcmd => true
  | .fuse => true
  | .unfuse => true
  | .windowRegisterWrite => true
  | .windowChangeComplete => true
  | .frameWipe => true
  | .engineOpDispatch => true
  | .enginePiece => true
  | .multicastArrival => true
  | .remoteWriteDeposit => true
  | .waitTimeout => true
  | .binTimeout => true
  | .binWaveForm => true
  | .llsDecay => true
  | .throttleSelect => true
  | .throttleBypass => true
  | .nopreWindowExpire => true
  | .crewEnd => true
  | .tdescWrite => true
  | .arriveWrite => true
  | .illegalEncoding => true
  | .rollback => true
  | .shadow => true
  | .shadowSlotGrant => true
  | .barrierWatchdogFire => true
  | .diagDumpWrite => true
  | .signalNotification => true
  | .queueIdleUnmap => true
  | .packetEmpty => true
  | .packetNode => true
  | .packetWait => true
  | .packetSignal => true
  | .waitWordWatch => true
  | .waitWordPoll => true
  | .nodePlacement => true
  | .priorityRise => true
  | .place => true
  | .ended => true
  | .completionSignalWrite => true
  | .eventRecordWrite => true
  | .eventIrqTimer => true
  | .fault => true
  | .saved => true
  | .cancel => true
  | .continueCrew => true
  | .test => true
  | .testEnd => true
  | .misscapWrite => true
  | .preemptionRequest => true
  | .scoreReport => true
  | .heapGrantReply => true
  | .preempt => true
  | .capture => true
  | .resume => true
  | .partitionReplace => true
  | .scrub => true
  | .scrubCountUpdate => true
  | .ecscntClear => true
  | .descriptorInstall => true
  | .firewallAssign => true
  | .pageTableWrite => true
  | .windowInstall => true
  | .loadObject => true
  | .linkPatch => true
  | .registerWrite => true
  | .movB32H b d => !(b == 0 && d == 0)
  | .iaddN32H _ _ => true
  | .isubN32H _ _ => true
  | .imulN32H _ _ => true
  | .andB32H _ _ => true
  | .orB32H _ _ => true
  | .xorB32H _ _ => true
  | .shlB32H _ _ => true
  | .shrN32H _ _ => true
  | .shrI32H _ _ => true
  | .faddF32H _ _ => true
  | .fsubF32H _ _ => true
  | .fmulF32H _ _ => true
  | .fminF32H _ _ => true
  | .fmaxF32H _ _ => true
  | .iminI32H _ _ => true
  | .iaddN32 _ _ _ => true
  | .isubN32 _ _ _ => true
  | .imulN32 _ _ _ => true
  | .imulhiI32 _ _ _ => true
  | .imulhiN32 _ _ _ => true
  | .iminI32 _ _ _ => true
  | .iminN32 _ _ _ => true
  | .imaxI32 _ _ _ => true
  | .imaxN32 _ _ _ => true
  | .iabsI32 _ _ => true
  | .idivI32 _ _ _ => true
  | .idivN32 _ _ _ => true
  | .iremI32 _ _ _ => true
  | .iremN32 _ _ _ => true
  | .iaddsatI32 _ _ _ => true
  | .isubsatI32 _ _ _ => true
  | .andB32 _ _ _ => true
  | .orB32 _ _ _ => true
  | .xorB32 _ _ _ => true
  | .andnB32 _ _ _ => true
  | .shlB32 _ _ _ => true
  | .shrN32 _ _ _ => true
  | .shrI32 _ _ _ => true
  | .rotlB32 _ _ _ => true
  | .popcB32 _ _ => true
  | .clzB32 _ _ => true
  | .brevB32 _ _ => true
  | .notB32 _ _ => true
  | .iaddiN32 _ _ _ => true
  | .andiB32 _ _ _ => true
  | .oriB32 _ _ _ => true
  | .xoriB32 _ _ _ => true
  | .shliB32 _ _ _ => true
  | .shriN32 _ _ _ => true
  | .shriI32 _ _ _ => true
  | .rotiB32 _ _ _ => true
  | .faddF32 _ _ _ _ => true
  | .fsubF32 _ _ _ _ => true
  | .fmulF32 _ _ _ _ => true
  | .fdivF32 _ _ _ _ => true
  | .fminF32 _ _ _ => true
  | .fmaxF32 _ _ _ => true
  | .fsqrtF32 _ _ _ => true
  | .fnegF32 _ _ => true
  | .fabsF32 _ _ => true
  | .fcsgnF32 _ _ _ => true
  | .fadd2F16 _ _ _ _ => true
  | .fmul2F16 _ _ _ _ => true
  | .fadd2Bf16 _ _ _ _ => true
  | .fmul2Bf16 _ _ _ _ => true
  | .ffmaF32 _ _ _ _ _ => true
  | .imadN32 _ _ _ _ => true
  | .fceqF32 _ _ _ => true
  | .fcneF32 _ _ _ => true
  | .fcltF32 _ _ _ => true
  | .fcleF32 _ _ _ => true
  | .fcgtF32 _ _ _ => true
  | .fcgeF32 _ _ _ => true
  | .fcunF32 _ _ _ => true
  | .fcordF32 _ _ _ => true
  | .iceqB32 _ _ _ => true
  | .icneB32 _ _ _ => true
  | .icltI32 _ _ _ => true
  | .icleI32 _ _ _ => true
  | .icgtI32 _ _ _ => true
  | .icgeI32 _ _ _ => true
  | .icltN32 _ _ _ => true
  | .icleN32 _ _ _ => true
  | .icgtN32 _ _ _ => true
  | .icgeN32 _ _ _ => true
  | .ictstB32 _ _ _ => true
  | .selB32 _ _ _ _ => true
  | .pand _ _ _ => true
  | .por _ _ _ => true
  | .pxor _ _ _ => true
  | .pandn _ _ _ => true
  | .pmov _ _ => true
  | .pnot _ _ => true
  | .vtop _ _ => true
  | .ptov _ _ => true
  | .cvt s t _ _ _ => decide (s.toNat < 10) && decide (t.toNat < 10) && decide (s ≠ t)
  | .pack2B16 _ _ _ => true
  | .pack2B8 _ _ _ => true
  | .pack2hB8 _ _ _ => true
  | .extN16 _ _ _ => true
  | .extI16 _ _ _ => true
  | .extN8 _ _ _ => true
  | .extI8 _ _ _ => true
  | .bfxN32 _ _ _ => true
  | .bfxI32 _ _ _ => true
  | .bfiB32 _ _ _ => true
  | .movB32 _ _ _ => true
  | .shflB32 _ _ _ => true
  | .bcastB32 _ _ _ => true
  | .ballotB32 _ _ => true
  | .vall _ _ => true
  | .vany _ _ => true
  | .laneid _ => true
  | .tid _ => true
  | .qset _ d => maskOk d
  | .qget a _ => maskOk a
  | .iaddN64 b a d => grp7 d 2 && grp7 a 2 && grp7 b 2
  | .isubN64 b a d => grp7 d 2 && grp7 a 2 && grp7 b 2
  | .imulN64 b a d => grp7 d 2 && grp7 a 2 && grp7 b 2
  | .shlB64 _ a d => grp7 d 2 && grp7 a 2
  | .shrN64 _ a d => grp7 d 2 && grp7 a 2
  | .shrI64 _ a d => grp7 d 2 && grp7 a 2
  | .iminI64 b a d => grp7 d 2 && grp7 a 2 && grp7 b 2
  | .imaxI64 b a d => grp7 d 2 && grp7 a 2 && grp7 b 2
  | .iminN64 b a d => grp7 d 2 && grp7 a 2 && grp7 b 2
  | .imaxN64 b a d => grp7 d 2 && grp7 a 2 && grp7 b 2
  | .imulwN32 _ _ d => grp7 d 2
  | .imulwI32 _ _ d => grp7 d 2
  | .uaddN32 _ _ _ => true
  | .usubN32 _ _ _ => true
  | .umulN32 _ _ _ => true
  | .uminI32 _ _ _ => true
  | .umaxI32 _ _ _ => true
  | .uminN32 _ _ _ => true
  | .umaxN32 _ _ _ => true
  | .uandB32 _ _ _ => true
  | .uorB32 _ _ _ => true
  | .uxorB32 _ _ _ => true
  | .ushlB32 _ _ _ => true
  | .ushrN32 _ _ _ => true
  | .ushrI32 _ _ _ => true
  | .udivN32 _ _ _ => true
  | .uremN32 _ _ _ => true
  | .umov _ _ => true
  | .useqB32 _ _ _ => true
  | .usltI32 _ _ _ => true
  | .usltN32 _ _ _ => true
  | .udivI32 _ _ _ => true
  | .uremI32 _ _ _ => true
  | .uaddi _ _ _ => true
  | .umovi _ _ => true
  | .cmovRead n s => crnOk n && evenPair s
  | .cmovWrite n s => crnOk n && evenPair s
  | .br _ => true
  | .brCond _ _ _ => true
  | .call _ => true
  | .callCond _ _ _ => true
  | .jmp a => grpS a 2
  | .calli a => grpS a 2
  | .ret => true
  | .ldlB32 _ _ => true
  | .ldlB64 _ d => grp7 d 2
  | .ldB32 _ _ _ _ => true
  | .ldB64 _ _ _ d => grp7 d 2
  | .ldB128 _ _ _ d => grp7 d 4
  | .stB32 _ _ _ _ _ => true
  | .stB64 _ _ _ _ d => grp7 d 2
  | .stB128 _ _ _ _ d => grp7 d 4
  | .ldB32Ord g o _ _ _ => ordOk false g o
  | .ldB64Ord g o _ _ d => ordOk false g o && grp7 d 2
  | .stB32Ord g o _ _ _ => ordOk true g o
  | .stB64Ord g o _ _ d => ordOk true g o && grp7 d 2
  | .ataddN32 g _ _ _ _ => scopeOk g
  | .atfaddF32 g _ _ _ _ => scopeOk g
  | .atminI32 g _ _ _ _ => scopeOk g
  | .atminN32 g _ _ _ _ => scopeOk g
  | .atmaxI32 g _ _ _ _ => scopeOk g
  | .atmaxN32 g _ _ _ _ => scopeOk g
  | .atandB32 g _ _ _ _ => scopeOk g
  | .atorB32 g _ _ _ _ => scopeOk g
  | .atxorB32 g _ _ _ _ => scopeOk g
  | .atswpB32 g _ _ _ _ => scopeOk g
  | .atcasB32 g _ b _ _ => scopeOk g && grp6 b 2
  | .atmrgB32 g _ b _ _ => scopeOk g && grp6 b 2
  | .ataddN64 g _ b _ d => scopeOk g && grp6 b 2 && grp6 d 2
  | .atswpB64 g _ b _ d => scopeOk g && grp6 b 2 && grp6 d 2
  | .atcasB64 g _ b _ d => scopeOk g && grp6 b 4 && grp6 d 2
  | .fenceAcq g => scopeOk g
  | .fenceRel g => scopeOk g
  | .fenceAr g => scopeOk g
  | .bind b a _ => grpS a 2 && grpS b 2
  | .join a => maskOk a
  | .leave a => maskOk a
  | .wait _ a _ => maskOk a
  | .cbar _ => true
  | .cjoin _ => true
  | .cleave => true
  | .binit _ _ => true
  | .barrive _ _ => true
  | .bwait _ _ => true
  | .bread _ d => grpS d 4
  | .rdwp _ d => grpS d 2
  | .rwr _ _ => true
  | .mld _ _ _ _ => true
  | .mst _ _ _ _ _ => true
  | .mldf _ _ _ => true
  | .mstf _ _ _ _ => true
  | .ald _ _ _ _ => true
  | .ast _ _ _ _ _ => true
  | .mma _ _ _ => true
  | .mmaz _ _ _ => true
  | .mdrain _ _ => true
  | .aclr _ => true
  | .mmul _ _ _ => true
  | .madd _ _ _ => true
  | .maddDn _ _ _ => true
  | .mrecomp _ _ => true
  | .mfact _ _ => true
  | .mdens _ _ => true
  | .mmov _ _ => true
  | .mtr _ _ => true
  | .mzero _ => true
  | .xcopy _ _ a => grpS a 2
  | .xrepack _ _ a => grpS a 2
  | .xtr _ _ a => grpS a 2
  | .xcvt _ _ a => grpS a 2
  | .xexp _ _ a => grpS a 2
  | .xmcast _ _ _ a => grpS a 2
  | .exit => true
  | .emit a => grp6 a 16
  | .idem => true
  | .nopre _ => true
  | .rng b a d => grp6 d 4 && grp6 a 4 && grpS b 2
  | .caddN128 b a d => grp6 d 4 && grp6 a 4 && grpS b 2
  | .bkpt _ => true
  | .tret => true
  | .tstamp d => grpS d 2
  | .coreid _ => true
  | .czcmdComplete => true
  | .replayRefused => true
  | .commandCrcFailure => true
  | .sendPermitReturn => true
  | .peerAccess => true
  | .controlCoreAccess => true
  | .queueOwnerAssign => true

end Sys2Proof
end

