-- ==== Sys2Proof/Decode.lean ====
section
/-! DEFINITION. Decoding of the instruction stream (R206 to R213): bytes to an instruction, or to the trap ILL or UND
that R213 gives the pattern. The encoder below is written from the same tables. -/

namespace Sys2Proof

/-- What the first bytes of the stream are (R206, R213): an instruction and its length in bytes, an encoding whose fate
is ILL or UND (with the length read), or too few bytes to tell. -/
inductive Decoded where
  | ok (i : Instr) (len : Nat)
  | ill (len : Nat)
  | und (len : Nat)
  | short
  deriving DecidableEq, Repr

/-- A row of the opcode table: the word belongs to it when its fixed bits agree (must-be-zero fields among them). -/
def row32 (w mask pat : BitVec 32) (i : Instr) : Option Instr := if w &&& mask = pat then some i else none

/-- The 16-bit instructions (R207, R208). -/
def decode16 (w : BitVec 16) : Option Instr :=
  match (w.extractLsb' 1 4).toNat with
  | 0 => some (.movB32H (w.extractLsb' 11 5) (w.extractLsb' 5 6))
  | 1 => some (.iaddN32H (w.extractLsb' 11 5) (w.extractLsb' 5 6))
  | 2 => some (.isubN32H (w.extractLsb' 11 5) (w.extractLsb' 5 6))
  | 3 => some (.imulN32H (w.extractLsb' 11 5) (w.extractLsb' 5 6))
  | 4 => some (.andB32H (w.extractLsb' 11 5) (w.extractLsb' 5 6))
  | 5 => some (.orB32H (w.extractLsb' 11 5) (w.extractLsb' 5 6))
  | 6 => some (.xorB32H (w.extractLsb' 11 5) (w.extractLsb' 5 6))
  | 7 => some (.shlB32H (w.extractLsb' 11 5) (w.extractLsb' 5 6))
  | 8 => some (.shrN32H (w.extractLsb' 11 5) (w.extractLsb' 5 6))
  | 9 => some (.shrI32H (w.extractLsb' 11 5) (w.extractLsb' 5 6))
  | 10 => some (.faddF32H (w.extractLsb' 11 5) (w.extractLsb' 5 6))
  | 11 => some (.fsubF32H (w.extractLsb' 11 5) (w.extractLsb' 5 6))
  | 12 => some (.fmulF32H (w.extractLsb' 11 5) (w.extractLsb' 5 6))
  | 13 => some (.fminF32H (w.extractLsb' 11 5) (w.extractLsb' 5 6))
  | 14 => some (.fmaxF32H (w.extractLsb' 11 5) (w.extractLsb' 5 6))
  | 15 => some (.iminI32H (w.extractLsb' 11 5) (w.extractLsb' 5 6))
  | _ => none

/-- Major 0x01 (R211). -/
def dec01 (w : BitVec 32) : Option Instr :=
  match (w.extractLsb' 28 4).toNat with
  | 0 => row32 w 0xF000007F 0x00000003 (.iaddN32 (w.extractLsb' 21 7) (w.extractLsb' 14 7) (w.extractLsb' 7 7))
  | 1 => row32 w 0xF000007F 0x10000003 (.isubN32 (w.extractLsb' 21 7) (w.extractLsb' 14 7) (w.extractLsb' 7 7))
  | 2 => row32 w 0xF000007F 0x20000003 (.imulN32 (w.extractLsb' 21 7) (w.extractLsb' 14 7) (w.extractLsb' 7 7))
  | 3 => row32 w 0xF000007F 0x30000003 (.imulhiI32 (w.extractLsb' 21 7) (w.extractLsb' 14 7) (w.extractLsb' 7 7))
  | 4 => row32 w 0xF000007F 0x40000003 (.imulhiN32 (w.extractLsb' 21 7) (w.extractLsb' 14 7) (w.extractLsb' 7 7))
  | 5 => row32 w 0xF000007F 0x50000003 (.iminI32 (w.extractLsb' 21 7) (w.extractLsb' 14 7) (w.extractLsb' 7 7))
  | 6 => row32 w 0xF000007F 0x60000003 (.iminN32 (w.extractLsb' 21 7) (w.extractLsb' 14 7) (w.extractLsb' 7 7))
  | 7 => row32 w 0xF000007F 0x70000003 (.imaxI32 (w.extractLsb' 21 7) (w.extractLsb' 14 7) (w.extractLsb' 7 7))
  | 8 => row32 w 0xF000007F 0x80000003 (.imaxN32 (w.extractLsb' 21 7) (w.extractLsb' 14 7) (w.extractLsb' 7 7))
  | 9 => row32 w 0xFFE0007F 0x90000003 (.iabsI32 (w.extractLsb' 14 7) (w.extractLsb' 7 7))
  | 10 => row32 w 0xF000007F 0xA0000003 (.idivI32 (w.extractLsb' 21 7) (w.extractLsb' 14 7) (w.extractLsb' 7 7))
  | 11 => row32 w 0xF000007F 0xB0000003 (.idivN32 (w.extractLsb' 21 7) (w.extractLsb' 14 7) (w.extractLsb' 7 7))
  | 12 => row32 w 0xF000007F 0xC0000003 (.iremI32 (w.extractLsb' 21 7) (w.extractLsb' 14 7) (w.extractLsb' 7 7))
  | 13 => row32 w 0xF000007F 0xD0000003 (.iremN32 (w.extractLsb' 21 7) (w.extractLsb' 14 7) (w.extractLsb' 7 7))
  | 14 => row32 w 0xF000007F 0xE0000003 (.iaddsatI32 (w.extractLsb' 21 7) (w.extractLsb' 14 7) (w.extractLsb' 7 7))
  | 15 => row32 w 0xF000007F 0xF0000003 (.isubsatI32 (w.extractLsb' 21 7) (w.extractLsb' 14 7) (w.extractLsb' 7 7))
  | _ => none

/-- Major 0x02 (R211). -/
def dec02 (w : BitVec 32) : Option Instr :=
  match (w.extractLsb' 28 4).toNat with
  | 0 => row32 w 0xF000007F 0x00000005 (.andB32 (w.extractLsb' 21 7) (w.extractLsb' 14 7) (w.extractLsb' 7 7))
  | 1 => row32 w 0xF000007F 0x10000005 (.orB32 (w.extractLsb' 21 7) (w.extractLsb' 14 7) (w.extractLsb' 7 7))
  | 2 => row32 w 0xF000007F 0x20000005 (.xorB32 (w.extractLsb' 21 7) (w.extractLsb' 14 7) (w.extractLsb' 7 7))
  | 3 => row32 w 0xF000007F 0x30000005 (.andnB32 (w.extractLsb' 21 7) (w.extractLsb' 14 7) (w.extractLsb' 7 7))
  | 4 => row32 w 0xF000007F 0x40000005 (.shlB32 (w.extractLsb' 21 7) (w.extractLsb' 14 7) (w.extractLsb' 7 7))
  | 5 => row32 w 0xF000007F 0x50000005 (.shrN32 (w.extractLsb' 21 7) (w.extractLsb' 14 7) (w.extractLsb' 7 7))
  | 6 => row32 w 0xF000007F 0x60000005 (.shrI32 (w.extractLsb' 21 7) (w.extractLsb' 14 7) (w.extractLsb' 7 7))
  | 7 => row32 w 0xF000007F 0x70000005 (.rotlB32 (w.extractLsb' 21 7) (w.extractLsb' 14 7) (w.extractLsb' 7 7))
  | 8 => row32 w 0xFFE0007F 0x80000005 (.popcB32 (w.extractLsb' 14 7) (w.extractLsb' 7 7))
  | 9 => row32 w 0xFFE0007F 0x90000005 (.clzB32 (w.extractLsb' 14 7) (w.extractLsb' 7 7))
  | 10 => row32 w 0xFFE0007F 0xA0000005 (.brevB32 (w.extractLsb' 14 7) (w.extractLsb' 7 7))
  | 11 => row32 w 0xFFE0007F 0xB0000005 (.notB32 (w.extractLsb' 14 7) (w.extractLsb' 7 7))
  | _ => none

/-- Major 0x03 (R211). -/
def dec03 (w : BitVec 32) : Option Instr :=
  row32 w 0x0000007F 0x00000007 (.iaddiN32 (w.extractLsb' 21 11) (w.extractLsb' 14 7) (w.extractLsb' 7 7))

/-- Major 0x04 (R211). -/
def dec04 (w : BitVec 32) : Option Instr :=
  row32 w 0x0000007F 0x00000009 (.andiB32 (w.extractLsb' 21 11) (w.extractLsb' 14 7) (w.extractLsb' 7 7))

/-- Major 0x05 (R211). -/
def dec05 (w : BitVec 32) : Option Instr :=
  row32 w 0x0000007F 0x0000000B (.oriB32 (w.extractLsb' 21 11) (w.extractLsb' 14 7) (w.extractLsb' 7 7))

/-- Major 0x06 (R211). -/
def dec06 (w : BitVec 32) : Option Instr :=
  row32 w 0x0000007F 0x0000000D (.xoriB32 (w.extractLsb' 21 11) (w.extractLsb' 14 7) (w.extractLsb' 7 7))

/-- Major 0x07 (R211). -/
def dec07 (w : BitVec 32) : Option Instr :=
  match (w.extractLsb' 26 2).toNat with
  | 0 => row32 w 0xFC00007F 0x0000000F (.shliB32 (w.extractLsb' 21 5) (w.extractLsb' 14 7) (w.extractLsb' 7 7))
  | 1 => row32 w 0xFC00007F 0x0400000F (.shriN32 (w.extractLsb' 21 5) (w.extractLsb' 14 7) (w.extractLsb' 7 7))
  | 2 => row32 w 0xFC00007F 0x0800000F (.shriI32 (w.extractLsb' 21 5) (w.extractLsb' 14 7) (w.extractLsb' 7 7))
  | 3 => row32 w 0xFC00007F 0x0C00000F (.rotiB32 (w.extractLsb' 21 5) (w.extractLsb' 14 7) (w.extractLsb' 7 7))
  | _ => none

/-- Major 0x08 (R211). -/
def dec08 (w : BitVec 32) : Option Instr :=
  match (w.extractLsb' 28 4).toNat with
  | 0 => row32 w 0xC000007F 0x00000011 (.faddF32 (w.extractLsb' 28 2) (w.extractLsb' 21 7) (w.extractLsb' 14 7) (w.extractLsb' 7 7))
  | 1 => row32 w 0xC000007F 0x00000011 (.faddF32 (w.extractLsb' 28 2) (w.extractLsb' 21 7) (w.extractLsb' 14 7) (w.extractLsb' 7 7))
  | 2 => row32 w 0xC000007F 0x00000011 (.faddF32 (w.extractLsb' 28 2) (w.extractLsb' 21 7) (w.extractLsb' 14 7) (w.extractLsb' 7 7))
  | 3 => row32 w 0xC000007F 0x00000011 (.faddF32 (w.extractLsb' 28 2) (w.extractLsb' 21 7) (w.extractLsb' 14 7) (w.extractLsb' 7 7))
  | 4 => row32 w 0xC000007F 0x40000011 (.fsubF32 (w.extractLsb' 28 2) (w.extractLsb' 21 7) (w.extractLsb' 14 7) (w.extractLsb' 7 7))
  | 5 => row32 w 0xC000007F 0x40000011 (.fsubF32 (w.extractLsb' 28 2) (w.extractLsb' 21 7) (w.extractLsb' 14 7) (w.extractLsb' 7 7))
  | 6 => row32 w 0xC000007F 0x40000011 (.fsubF32 (w.extractLsb' 28 2) (w.extractLsb' 21 7) (w.extractLsb' 14 7) (w.extractLsb' 7 7))
  | 7 => row32 w 0xC000007F 0x40000011 (.fsubF32 (w.extractLsb' 28 2) (w.extractLsb' 21 7) (w.extractLsb' 14 7) (w.extractLsb' 7 7))
  | 8 => row32 w 0xC000007F 0x80000011 (.fmulF32 (w.extractLsb' 28 2) (w.extractLsb' 21 7) (w.extractLsb' 14 7) (w.extractLsb' 7 7))
  | 9 => row32 w 0xC000007F 0x80000011 (.fmulF32 (w.extractLsb' 28 2) (w.extractLsb' 21 7) (w.extractLsb' 14 7) (w.extractLsb' 7 7))
  | 10 => row32 w 0xC000007F 0x80000011 (.fmulF32 (w.extractLsb' 28 2) (w.extractLsb' 21 7) (w.extractLsb' 14 7) (w.extractLsb' 7 7))
  | 11 => row32 w 0xC000007F 0x80000011 (.fmulF32 (w.extractLsb' 28 2) (w.extractLsb' 21 7) (w.extractLsb' 14 7) (w.extractLsb' 7 7))
  | 12 => row32 w 0xC000007F 0xC0000011 (.fdivF32 (w.extractLsb' 28 2) (w.extractLsb' 21 7) (w.extractLsb' 14 7) (w.extractLsb' 7 7))
  | 13 => row32 w 0xC000007F 0xC0000011 (.fdivF32 (w.extractLsb' 28 2) (w.extractLsb' 21 7) (w.extractLsb' 14 7) (w.extractLsb' 7 7))
  | 14 => row32 w 0xC000007F 0xC0000011 (.fdivF32 (w.extractLsb' 28 2) (w.extractLsb' 21 7) (w.extractLsb' 14 7) (w.extractLsb' 7 7))
  | 15 => row32 w 0xC000007F 0xC0000011 (.fdivF32 (w.extractLsb' 28 2) (w.extractLsb' 21 7) (w.extractLsb' 14 7) (w.extractLsb' 7 7))
  | _ => none

/-- Major 0x09 (R211). -/
def dec09 (w : BitVec 32) : Option Instr :=
  match (w.extractLsb' 28 4).toNat with
  | 0 => row32 w 0xF000007F 0x00000013 (.fminF32 (w.extractLsb' 21 7) (w.extractLsb' 14 7) (w.extractLsb' 7 7))
  | 1 => row32 w 0xF000007F 0x10000013 (.fmaxF32 (w.extractLsb' 21 7) (w.extractLsb' 14 7) (w.extractLsb' 7 7))
  | 4 => row32 w 0xCFE0007F 0x40000013 (.fsqrtF32 (w.extractLsb' 28 2) (w.extractLsb' 14 7) (w.extractLsb' 7 7))
  | 5 => row32 w 0xCFE0007F 0x40000013 (.fsqrtF32 (w.extractLsb' 28 2) (w.extractLsb' 14 7) (w.extractLsb' 7 7))
  | 6 => row32 w 0xCFE0007F 0x40000013 (.fsqrtF32 (w.extractLsb' 28 2) (w.extractLsb' 14 7) (w.extractLsb' 7 7))
  | 7 => row32 w 0xCFE0007F 0x40000013 (.fsqrtF32 (w.extractLsb' 28 2) (w.extractLsb' 14 7) (w.extractLsb' 7 7))
  | 8 => row32 w 0xFFE0007F 0x80000013 (.fnegF32 (w.extractLsb' 14 7) (w.extractLsb' 7 7))
  | 9 => row32 w 0xFFE0007F 0x90000013 (.fabsF32 (w.extractLsb' 14 7) (w.extractLsb' 7 7))
  | 10 => row32 w 0xF000007F 0xA0000013 (.fcsgnF32 (w.extractLsb' 21 7) (w.extractLsb' 14 7) (w.extractLsb' 7 7))
  | _ => none

/-- Major 0x0A (R211). -/
def dec0A (w : BitVec 32) : Option Instr :=
  match (w.extractLsb' 28 4).toNat with
  | 0 => row32 w 0xC000007F 0x00000015 (.fadd2F16 (w.extractLsb' 28 2) (w.extractLsb' 21 7) (w.extractLsb' 14 7) (w.extractLsb' 7 7))
  | 1 => row32 w 0xC000007F 0x00000015 (.fadd2F16 (w.extractLsb' 28 2) (w.extractLsb' 21 7) (w.extractLsb' 14 7) (w.extractLsb' 7 7))
  | 2 => row32 w 0xC000007F 0x00000015 (.fadd2F16 (w.extractLsb' 28 2) (w.extractLsb' 21 7) (w.extractLsb' 14 7) (w.extractLsb' 7 7))
  | 3 => row32 w 0xC000007F 0x00000015 (.fadd2F16 (w.extractLsb' 28 2) (w.extractLsb' 21 7) (w.extractLsb' 14 7) (w.extractLsb' 7 7))
  | 4 => row32 w 0xC000007F 0x40000015 (.fmul2F16 (w.extractLsb' 28 2) (w.extractLsb' 21 7) (w.extractLsb' 14 7) (w.extractLsb' 7 7))
  | 5 => row32 w 0xC000007F 0x40000015 (.fmul2F16 (w.extractLsb' 28 2) (w.extractLsb' 21 7) (w.extractLsb' 14 7) (w.extractLsb' 7 7))
  | 6 => row32 w 0xC000007F 0x40000015 (.fmul2F16 (w.extractLsb' 28 2) (w.extractLsb' 21 7) (w.extractLsb' 14 7) (w.extractLsb' 7 7))
  | 7 => row32 w 0xC000007F 0x40000015 (.fmul2F16 (w.extractLsb' 28 2) (w.extractLsb' 21 7) (w.extractLsb' 14 7) (w.extractLsb' 7 7))
  | 8 => row32 w 0xC000007F 0x80000015 (.fadd2Bf16 (w.extractLsb' 28 2) (w.extractLsb' 21 7) (w.extractLsb' 14 7) (w.extractLsb' 7 7))
  | 9 => row32 w 0xC000007F 0x80000015 (.fadd2Bf16 (w.extractLsb' 28 2) (w.extractLsb' 21 7) (w.extractLsb' 14 7) (w.extractLsb' 7 7))
  | 10 => row32 w 0xC000007F 0x80000015 (.fadd2Bf16 (w.extractLsb' 28 2) (w.extractLsb' 21 7) (w.extractLsb' 14 7) (w.extractLsb' 7 7))
  | 11 => row32 w 0xC000007F 0x80000015 (.fadd2Bf16 (w.extractLsb' 28 2) (w.extractLsb' 21 7) (w.extractLsb' 14 7) (w.extractLsb' 7 7))
  | 12 => row32 w 0xC000007F 0xC0000015 (.fmul2Bf16 (w.extractLsb' 28 2) (w.extractLsb' 21 7) (w.extractLsb' 14 7) (w.extractLsb' 7 7))
  | 13 => row32 w 0xC000007F 0xC0000015 (.fmul2Bf16 (w.extractLsb' 28 2) (w.extractLsb' 21 7) (w.extractLsb' 14 7) (w.extractLsb' 7 7))
  | 14 => row32 w 0xC000007F 0xC0000015 (.fmul2Bf16 (w.extractLsb' 28 2) (w.extractLsb' 21 7) (w.extractLsb' 14 7) (w.extractLsb' 7 7))
  | 15 => row32 w 0xC000007F 0xC0000015 (.fmul2Bf16 (w.extractLsb' 28 2) (w.extractLsb' 21 7) (w.extractLsb' 14 7) (w.extractLsb' 7 7))
  | _ => none

/-- Major 0x0B (R211). -/
def dec0B (w : BitVec 32) : Option Instr :=
  match (w.extractLsb' 28 4).toNat with
  | 0 => row32 w 0xF0003C7F 0x00000017 (.fceqF32 (w.extractLsb' 21 7) (w.extractLsb' 14 7) (w.extractLsb' 7 3))
  | 1 => row32 w 0xF0003C7F 0x10000017 (.fcneF32 (w.extractLsb' 21 7) (w.extractLsb' 14 7) (w.extractLsb' 7 3))
  | 2 => row32 w 0xF0003C7F 0x20000017 (.fcltF32 (w.extractLsb' 21 7) (w.extractLsb' 14 7) (w.extractLsb' 7 3))
  | 3 => row32 w 0xF0003C7F 0x30000017 (.fcleF32 (w.extractLsb' 21 7) (w.extractLsb' 14 7) (w.extractLsb' 7 3))
  | 4 => row32 w 0xF0003C7F 0x40000017 (.fcgtF32 (w.extractLsb' 21 7) (w.extractLsb' 14 7) (w.extractLsb' 7 3))
  | 5 => row32 w 0xF0003C7F 0x50000017 (.fcgeF32 (w.extractLsb' 21 7) (w.extractLsb' 14 7) (w.extractLsb' 7 3))
  | 6 => row32 w 0xF0003C7F 0x60000017 (.fcunF32 (w.extractLsb' 21 7) (w.extractLsb' 14 7) (w.extractLsb' 7 3))
  | 7 => row32 w 0xF0003C7F 0x70000017 (.fcordF32 (w.extractLsb' 21 7) (w.extractLsb' 14 7) (w.extractLsb' 7 3))
  | _ => none

/-- Major 0x0C (R211). -/
def dec0C (w : BitVec 32) : Option Instr :=
  match (w.extractLsb' 28 4).toNat with
  | 0 => row32 w 0xF0003C7F 0x00000019 (.iceqB32 (w.extractLsb' 21 7) (w.extractLsb' 14 7) (w.extractLsb' 7 3))
  | 1 => row32 w 0xF0003C7F 0x10000019 (.icneB32 (w.extractLsb' 21 7) (w.extractLsb' 14 7) (w.extractLsb' 7 3))
  | 2 => row32 w 0xF0003C7F 0x20000019 (.icltI32 (w.extractLsb' 21 7) (w.extractLsb' 14 7) (w.extractLsb' 7 3))
  | 3 => row32 w 0xF0003C7F 0x30000019 (.icleI32 (w.extractLsb' 21 7) (w.extractLsb' 14 7) (w.extractLsb' 7 3))
  | 4 => row32 w 0xF0003C7F 0x40000019 (.icgtI32 (w.extractLsb' 21 7) (w.extractLsb' 14 7) (w.extractLsb' 7 3))
  | 5 => row32 w 0xF0003C7F 0x50000019 (.icgeI32 (w.extractLsb' 21 7) (w.extractLsb' 14 7) (w.extractLsb' 7 3))
  | 6 => row32 w 0xF0003C7F 0x60000019 (.icltN32 (w.extractLsb' 21 7) (w.extractLsb' 14 7) (w.extractLsb' 7 3))
  | 7 => row32 w 0xF0003C7F 0x70000019 (.icleN32 (w.extractLsb' 21 7) (w.extractLsb' 14 7) (w.extractLsb' 7 3))
  | 8 => row32 w 0xF0003C7F 0x80000019 (.icgtN32 (w.extractLsb' 21 7) (w.extractLsb' 14 7) (w.extractLsb' 7 3))
  | 9 => row32 w 0xF0003C7F 0x90000019 (.icgeN32 (w.extractLsb' 21 7) (w.extractLsb' 14 7) (w.extractLsb' 7 3))
  | 10 => row32 w 0xF0003C7F 0xA0000019 (.ictstB32 (w.extractLsb' 21 7) (w.extractLsb' 14 7) (w.extractLsb' 7 3))
  | _ => none

/-- Major 0x0D (R211). -/
def dec0D (w : BitVec 32) : Option Instr :=
  match (w.extractLsb' 28 4).toNat with
  | 0 => row32 w 0x8000007F 0x0000001B (.selB32 (w.extractLsb' 28 3) (w.extractLsb' 21 7) (w.extractLsb' 14 7) (w.extractLsb' 7 7))
  | 1 => row32 w 0x8000007F 0x0000001B (.selB32 (w.extractLsb' 28 3) (w.extractLsb' 21 7) (w.extractLsb' 14 7) (w.extractLsb' 7 7))
  | 2 => row32 w 0x8000007F 0x0000001B (.selB32 (w.extractLsb' 28 3) (w.extractLsb' 21 7) (w.extractLsb' 14 7) (w.extractLsb' 7 7))
  | 3 => row32 w 0x8000007F 0x0000001B (.selB32 (w.extractLsb' 28 3) (w.extractLsb' 21 7) (w.extractLsb' 14 7) (w.extractLsb' 7 7))
  | 4 => row32 w 0x8000007F 0x0000001B (.selB32 (w.extractLsb' 28 3) (w.extractLsb' 21 7) (w.extractLsb' 14 7) (w.extractLsb' 7 7))
  | 5 => row32 w 0x8000007F 0x0000001B (.selB32 (w.extractLsb' 28 3) (w.extractLsb' 21 7) (w.extractLsb' 14 7) (w.extractLsb' 7 7))
  | 6 => row32 w 0x8000007F 0x0000001B (.selB32 (w.extractLsb' 28 3) (w.extractLsb' 21 7) (w.extractLsb' 14 7) (w.extractLsb' 7 7))
  | 7 => row32 w 0x8000007F 0x0000001B (.selB32 (w.extractLsb' 28 3) (w.extractLsb' 21 7) (w.extractLsb' 14 7) (w.extractLsb' 7 7))
  | 8 => row32 w 0xFF1E3C7F 0x8000001B (.pand (w.extractLsb' 21 3) (w.extractLsb' 14 3) (w.extractLsb' 7 3))
  | 9 => row32 w 0xFF1E3C7F 0x9000001B (.por (w.extractLsb' 21 3) (w.extractLsb' 14 3) (w.extractLsb' 7 3))
  | 10 => row32 w 0xFF1E3C7F 0xA000001B (.pxor (w.extractLsb' 21 3) (w.extractLsb' 14 3) (w.extractLsb' 7 3))
  | 11 => row32 w 0xFF1E3C7F 0xB000001B (.pandn (w.extractLsb' 21 3) (w.extractLsb' 14 3) (w.extractLsb' 7 3))
  | 12 => row32 w 0xFFFE3C7F 0xC000001B (.pmov (w.extractLsb' 14 3) (w.extractLsb' 7 3))
  | 13 => row32 w 0xFFFE3C7F 0xD000001B (.pnot (w.extractLsb' 14 3) (w.extractLsb' 7 3))
  | 14 => row32 w 0xFFE03C7F 0xE000001B (.vtop (w.extractLsb' 14 7) (w.extractLsb' 7 3))
  | 15 => row32 w 0xFFFE007F 0xF000001B (.ptov (w.extractLsb' 14 3) (w.extractLsb' 7 7))
  | _ => none

/-- Major 0x0E (R211). -/
def dec0E (w : BitVec 32) : Option Instr :=
  row32 w 0x0080007F 0x0000001D (.cvt (w.extractLsb' 28 4) (w.extractLsb' 24 4) (w.extractLsb' 21 2) (w.extractLsb' 14 7) (w.extractLsb' 7 7))

/-- Major 0x0F (R211). -/
def dec0F (w : BitVec 32) : Option Instr :=
  match (w.extractLsb' 28 4).toNat with
  | 0 => row32 w 0xF000007F 0x0000001F (.pack2B16 (w.extractLsb' 21 7) (w.extractLsb' 14 7) (w.extractLsb' 7 7))
  | 1 => row32 w 0xF000007F 0x1000001F (.pack2B8 (w.extractLsb' 21 7) (w.extractLsb' 14 7) (w.extractLsb' 7 7))
  | 2 => row32 w 0xF000007F 0x2000001F (.pack2hB8 (w.extractLsb' 21 7) (w.extractLsb' 14 7) (w.extractLsb' 7 7))
  | 3 => row32 w 0xF000007F 0x3000001F (.extN16 (w.extractLsb' 21 7) (w.extractLsb' 14 7) (w.extractLsb' 7 7))
  | 4 => row32 w 0xF000007F 0x4000001F (.extI16 (w.extractLsb' 21 7) (w.extractLsb' 14 7) (w.extractLsb' 7 7))
  | 5 => row32 w 0xF000007F 0x5000001F (.extN8 (w.extractLsb' 21 7) (w.extractLsb' 14 7) (w.extractLsb' 7 7))
  | 6 => row32 w 0xF000007F 0x6000001F (.extI8 (w.extractLsb' 21 7) (w.extractLsb' 14 7) (w.extractLsb' 7 7))
  | 7 => row32 w 0xF000007F 0x7000001F (.bfxN32 (w.extractLsb' 21 7) (w.extractLsb' 14 7) (w.extractLsb' 7 7))
  | 8 => row32 w 0xF000007F 0x8000001F (.bfxI32 (w.extractLsb' 21 7) (w.extractLsb' 14 7) (w.extractLsb' 7 7))
  | 9 => row32 w 0xF000007F 0x9000001F (.bfiB32 (w.extractLsb' 21 7) (w.extractLsb' 14 7) (w.extractLsb' 7 7))
  | _ => none

/-- Major 0x10 (R211). -/
def dec10 (w : BitVec 32) : Option Instr :=
  row32 w 0x00000079 0x00000021 (.ffmaF32 (w.extractLsb' 27 5) (w.extractLsb' 21 6) (w.extractLsb' 14 7) (w.extractLsb' 7 7) (w.extractLsb' 1 2))

/-- Major 0x11 (R211). -/
def dec11 (w : BitVec 32) : Option Instr :=
  row32 w 0x00000079 0x00000021 (.ffmaF32 (w.extractLsb' 27 5) (w.extractLsb' 21 6) (w.extractLsb' 14 7) (w.extractLsb' 7 7) (w.extractLsb' 1 2))

/-- Major 0x12 (R211). -/
def dec12 (w : BitVec 32) : Option Instr :=
  row32 w 0x00000079 0x00000021 (.ffmaF32 (w.extractLsb' 27 5) (w.extractLsb' 21 6) (w.extractLsb' 14 7) (w.extractLsb' 7 7) (w.extractLsb' 1 2))

/-- Major 0x13 (R211). -/
def dec13 (w : BitVec 32) : Option Instr :=
  row32 w 0x00000079 0x00000021 (.ffmaF32 (w.extractLsb' 27 5) (w.extractLsb' 21 6) (w.extractLsb' 14 7) (w.extractLsb' 7 7) (w.extractLsb' 1 2))

/-- Major 0x14 (R211). -/
def dec14 (w : BitVec 32) : Option Instr :=
  row32 w 0x0000007F 0x00000029 (.imadN32 (w.extractLsb' 27 5) (w.extractLsb' 21 6) (w.extractLsb' 14 7) (w.extractLsb' 7 7))

/-- Major 0x15 (R211). -/
def dec15 (w : BitVec 32) : Option Instr :=
  match (w.extractLsb' 28 4).toNat with
  | 0 => row32 w 0xF000007F 0x0000002B (.movB32 (w.extractLsb' 21 7) (w.extractLsb' 14 7) (w.extractLsb' 7 7))
  | 1 => row32 w 0xF000007F 0x1000002B (.shflB32 (w.extractLsb' 21 7) (w.extractLsb' 14 7) (w.extractLsb' 7 7))
  | 2 => row32 w 0xF000007F 0x2000002B (.bcastB32 (w.extractLsb' 21 7) (w.extractLsb' 14 7) (w.extractLsb' 7 7))
  | 3 => row32 w 0xFFFE007F 0x3000002B (.ballotB32 (w.extractLsb' 14 3) (w.extractLsb' 7 7))
  | 4 => row32 w 0xFFFE3C7F 0x4000002B (.vall (w.extractLsb' 14 3) (w.extractLsb' 7 3))
  | 5 => row32 w 0xFFFE3C7F 0x5000002B (.vany (w.extractLsb' 14 3) (w.extractLsb' 7 3))
  | 6 => row32 w 0xFFFFC07F 0x6000002B (.laneid (w.extractLsb' 7 7))
  | 7 => row32 w 0xFFFFC07F 0x7000002B (.tid (w.extractLsb' 7 7))
  | 8 => row32 w 0xFFFC387F 0x801C002B (.qset (w.extractLsb' 14 4) (w.extractLsb' 7 4))
  | 9 => row32 w 0xFFFC007F 0x9000002B (.qget (w.extractLsb' 14 4) (w.extractLsb' 7 7))
  | _ => none

/-- Major 0x16 (R211). -/
def dec16 (w : BitVec 32) : Option Instr :=
  match (w.extractLsb' 28 4).toNat with
  | 0 => row32 w 0xF000007F 0x0000002D (.iaddN64 (w.extractLsb' 21 7) (w.extractLsb' 14 7) (w.extractLsb' 7 7))
  | 1 => row32 w 0xF000007F 0x1000002D (.isubN64 (w.extractLsb' 21 7) (w.extractLsb' 14 7) (w.extractLsb' 7 7))
  | 2 => row32 w 0xF000007F 0x2000002D (.imulN64 (w.extractLsb' 21 7) (w.extractLsb' 14 7) (w.extractLsb' 7 7))
  | 3 => row32 w 0xF000007F 0x3000002D (.shlB64 (w.extractLsb' 21 7) (w.extractLsb' 14 7) (w.extractLsb' 7 7))
  | 4 => row32 w 0xF000007F 0x4000002D (.shrN64 (w.extractLsb' 21 7) (w.extractLsb' 14 7) (w.extractLsb' 7 7))
  | 5 => row32 w 0xF000007F 0x5000002D (.shrI64 (w.extractLsb' 21 7) (w.extractLsb' 14 7) (w.extractLsb' 7 7))
  | 6 => row32 w 0xF000007F 0x6000002D (.iminI64 (w.extractLsb' 21 7) (w.extractLsb' 14 7) (w.extractLsb' 7 7))
  | 7 => row32 w 0xF000007F 0x7000002D (.imaxI64 (w.extractLsb' 21 7) (w.extractLsb' 14 7) (w.extractLsb' 7 7))
  | 8 => row32 w 0xF000007F 0x8000002D (.iminN64 (w.extractLsb' 21 7) (w.extractLsb' 14 7) (w.extractLsb' 7 7))
  | 9 => row32 w 0xF000007F 0x9000002D (.imaxN64 (w.extractLsb' 21 7) (w.extractLsb' 14 7) (w.extractLsb' 7 7))
  | 10 => row32 w 0xF000007F 0xA000002D (.imulwN32 (w.extractLsb' 21 7) (w.extractLsb' 14 7) (w.extractLsb' 7 7))
  | 11 => row32 w 0xF000007F 0xB000002D (.imulwI32 (w.extractLsb' 21 7) (w.extractLsb' 14 7) (w.extractLsb' 7 7))
  | _ => none

/-- Major 0x18 (R211). -/
def dec18 (w : BitVec 32) : Option Instr :=
  match (w.extractLsb' 25 7).toNat with
  | 0 => row32 w 0xFE00007F 0x00000031 (.uaddN32 (w.extractLsb' 19 6) (w.extractLsb' 13 6) (w.extractLsb' 7 6))
  | 1 => row32 w 0xFE00007F 0x02000031 (.usubN32 (w.extractLsb' 19 6) (w.extractLsb' 13 6) (w.extractLsb' 7 6))
  | 2 => row32 w 0xFE00007F 0x04000031 (.umulN32 (w.extractLsb' 19 6) (w.extractLsb' 13 6) (w.extractLsb' 7 6))
  | 3 => row32 w 0xFE00007F 0x06000031 (.uminI32 (w.extractLsb' 19 6) (w.extractLsb' 13 6) (w.extractLsb' 7 6))
  | 4 => row32 w 0xFE00007F 0x08000031 (.umaxI32 (w.extractLsb' 19 6) (w.extractLsb' 13 6) (w.extractLsb' 7 6))
  | 5 => row32 w 0xFE00007F 0x0A000031 (.uminN32 (w.extractLsb' 19 6) (w.extractLsb' 13 6) (w.extractLsb' 7 6))
  | 6 => row32 w 0xFE00007F 0x0C000031 (.umaxN32 (w.extractLsb' 19 6) (w.extractLsb' 13 6) (w.extractLsb' 7 6))
  | 7 => row32 w 0xFE00007F 0x0E000031 (.uandB32 (w.extractLsb' 19 6) (w.extractLsb' 13 6) (w.extractLsb' 7 6))
  | 8 => row32 w 0xFE00007F 0x10000031 (.uorB32 (w.extractLsb' 19 6) (w.extractLsb' 13 6) (w.extractLsb' 7 6))
  | 9 => row32 w 0xFE00007F 0x12000031 (.uxorB32 (w.extractLsb' 19 6) (w.extractLsb' 13 6) (w.extractLsb' 7 6))
  | 10 => row32 w 0xFE00007F 0x14000031 (.ushlB32 (w.extractLsb' 19 6) (w.extractLsb' 13 6) (w.extractLsb' 7 6))
  | 11 => row32 w 0xFE00007F 0x16000031 (.ushrN32 (w.extractLsb' 19 6) (w.extractLsb' 13 6) (w.extractLsb' 7 6))
  | 12 => row32 w 0xFE00007F 0x18000031 (.ushrI32 (w.extractLsb' 19 6) (w.extractLsb' 13 6) (w.extractLsb' 7 6))
  | 13 => row32 w 0xFE00007F 0x1A000031 (.udivN32 (w.extractLsb' 19 6) (w.extractLsb' 13 6) (w.extractLsb' 7 6))
  | 14 => row32 w 0xFE00007F 0x1C000031 (.uremN32 (w.extractLsb' 19 6) (w.extractLsb' 13 6) (w.extractLsb' 7 6))
  | 15 => row32 w 0xFE07E07F 0x1E000031 (.umov (w.extractLsb' 19 6) (w.extractLsb' 7 6))
  | 16 => row32 w 0xFE00007F 0x20000031 (.useqB32 (w.extractLsb' 19 6) (w.extractLsb' 13 6) (w.extractLsb' 7 6))
  | 17 => row32 w 0xFE00007F 0x22000031 (.usltI32 (w.extractLsb' 19 6) (w.extractLsb' 13 6) (w.extractLsb' 7 6))
  | 18 => row32 w 0xFE00007F 0x24000031 (.usltN32 (w.extractLsb' 19 6) (w.extractLsb' 13 6) (w.extractLsb' 7 6))
  | 19 => row32 w 0xFE00007F 0x26000031 (.udivI32 (w.extractLsb' 19 6) (w.extractLsb' 13 6) (w.extractLsb' 7 6))
  | 20 => row32 w 0xFE00007F 0x28000031 (.uremI32 (w.extractLsb' 19 6) (w.extractLsb' 13 6) (w.extractLsb' 7 6))
  | _ => none

/-- Major 0x19 (R211). -/
def dec19 (w : BitVec 32) : Option Instr :=
  row32 w 0x0000007F 0x00000033 (.uaddi (w.extractLsb' 19 13) (w.extractLsb' 13 6) (w.extractLsb' 7 6))

/-- Major 0x1A (R211). -/
def dec1A (w : BitVec 32) : Option Instr :=
  row32 w 0x0007E07F 0x00000035 (.umovi (w.extractLsb' 19 13) (w.extractLsb' 7 6))

/-- Major 0x1B (R211). -/
def dec1B (w : BitVec 32) : Option Instr :=
  match (w.extractLsb' 13 7).toNat with
  | 0 => row32 w 0x000FE07F 0x00000037 (.cmovRead (w.extractLsb' 20 12) (w.extractLsb' 7 6))
  | 1 => row32 w 0x000FE07F 0x00002037 (.cmovWrite (w.extractLsb' 20 12) (w.extractLsb' 7 6))
  | _ => none

/-- Major 0x1C (R211). -/
def dec1C (w : BitVec 32) : Option Instr :=
  match (w.extractLsb' 11 1).toNat with
  | 0 => row32 w 0x00000FFF 0x00000039 (.br (w.extractLsb' 12 20))
  | 1 => row32 w 0x0000087F 0x00000839 (.brCond (w.extractLsb' 12 20) (w.extractLsb' 10 1) (w.extractLsb' 7 3))
  | _ => none

/-- Major 0x1D (R211). -/
def dec1D (w : BitVec 32) : Option Instr :=
  match (w.extractLsb' 11 1).toNat with
  | 0 => row32 w 0x00000FFF 0x0000003B (.call (w.extractLsb' 12 20))
  | 1 => row32 w 0x0000087F 0x0000083B (.callCond (w.extractLsb' 12 20) (w.extractLsb' 10 1) (w.extractLsb' 7 3))
  | _ => none

/-- Major 0x1E (R211). -/
def dec1E (w : BitVec 32) : Option Instr :=
  match (w.extractLsb' 25 7).toNat with
  | 0 => row32 w 0xFFF81FFF 0x0000003D (.jmp (w.extractLsb' 13 6))
  | 1 => row32 w 0xFFF81FFF 0x0200003D (.calli (w.extractLsb' 13 6))
  | 2 => row32 w 0xFFFFFFFF 0x0400003D (.ret)
  | _ => none

/-- Major 0x1F (R211). -/
def dec1F (w : BitVec 32) : Option Instr :=
  row32 w 0x0000007F 0x0000003F (.ldlB32 (w.extractLsb' 14 18) (w.extractLsb' 7 7))

/-- Major 0x20 (R211). -/
def dec20 (w : BitVec 32) : Option Instr :=
  row32 w 0x0000007F 0x00000041 (.ldlB64 (w.extractLsb' 14 18) (w.extractLsb' 7 7))

/-- Major 0x21 (R211). -/
def dec21 (w : BitVec 32) : Option Instr :=
  row32 w 0x0080007F 0x00000043 (.ldB32 (w.extractLsb' 24 8) (w.extractLsb' 21 2) (w.extractLsb' 14 7) (w.extractLsb' 7 7))

/-- Major 0x22 (R211). -/
def dec22 (w : BitVec 32) : Option Instr :=
  row32 w 0x0080007F 0x00000045 (.ldB64 (w.extractLsb' 24 8) (w.extractLsb' 21 2) (w.extractLsb' 14 7) (w.extractLsb' 7 7))

/-- Major 0x23 (R211). -/
def dec23 (w : BitVec 32) : Option Instr :=
  row32 w 0x0080007F 0x00000047 (.ldB128 (w.extractLsb' 24 8) (w.extractLsb' 21 2) (w.extractLsb' 14 7) (w.extractLsb' 7 7))

/-- Major 0x24 (R211). -/
def dec24 (w : BitVec 32) : Option Instr :=
  row32 w 0x0000007F 0x00000049 (.stB32 (w.extractLsb' 24 8) (w.extractLsb' 23 1) (w.extractLsb' 21 2) (w.extractLsb' 14 7) (w.extractLsb' 7 7))

/-- Major 0x25 (R211). -/
def dec25 (w : BitVec 32) : Option Instr :=
  row32 w 0x0000007F 0x0000004B (.stB64 (w.extractLsb' 24 8) (w.extractLsb' 23 1) (w.extractLsb' 21 2) (w.extractLsb' 14 7) (w.extractLsb' 7 7))

/-- Major 0x26 (R211). -/
def dec26 (w : BitVec 32) : Option Instr :=
  row32 w 0x0000007F 0x0000004D (.stB128 (w.extractLsb' 24 8) (w.extractLsb' 23 1) (w.extractLsb' 21 2) (w.extractLsb' 14 7) (w.extractLsb' 7 7))

/-- Major 0x27 (R211). -/
def dec27 (w : BitVec 32) : Option Instr :=
  match (w.extractLsb' 21 2).toNat with
  | 0 => row32 w 0x0060007F 0x0000004F (.ldB32Ord (w.extractLsb' 28 4) (w.extractLsb' 25 3) (w.extractLsb' 23 2) (w.extractLsb' 14 7) (w.extractLsb' 7 7))
  | 1 => row32 w 0x0060007F 0x0020004F (.ldB64Ord (w.extractLsb' 28 4) (w.extractLsb' 25 3) (w.extractLsb' 23 2) (w.extractLsb' 14 7) (w.extractLsb' 7 7))
  | 2 => row32 w 0x0060007F 0x0040004F (.stB32Ord (w.extractLsb' 28 4) (w.extractLsb' 25 3) (w.extractLsb' 23 2) (w.extractLsb' 14 7) (w.extractLsb' 7 7))
  | 3 => row32 w 0x0060007F 0x0060004F (.stB64Ord (w.extractLsb' 28 4) (w.extractLsb' 25 3) (w.extractLsb' 23 2) (w.extractLsb' 14 7) (w.extractLsb' 7 7))
  | _ => none

/-- Major 0x28 (R211). -/
def dec28 (w : BitVec 32) : Option Instr :=
  row32 w 0x0000007F 0x00000051 (.ataddN32 (w.extractLsb' 28 4) (w.extractLsb' 26 2) (w.extractLsb' 20 6) (w.extractLsb' 13 7) (w.extractLsb' 7 6))

/-- Major 0x29 (R211). -/
def dec29 (w : BitVec 32) : Option Instr :=
  row32 w 0x0000007F 0x00000053 (.atfaddF32 (w.extractLsb' 28 4) (w.extractLsb' 26 2) (w.extractLsb' 20 6) (w.extractLsb' 13 7) (w.extractLsb' 7 6))

/-- Major 0x2A (R211). -/
def dec2A (w : BitVec 32) : Option Instr :=
  row32 w 0x0000007F 0x00000055 (.atminI32 (w.extractLsb' 28 4) (w.extractLsb' 26 2) (w.extractLsb' 20 6) (w.extractLsb' 13 7) (w.extractLsb' 7 6))

/-- Major 0x2B (R211). -/
def dec2B (w : BitVec 32) : Option Instr :=
  row32 w 0x0000007F 0x00000057 (.atminN32 (w.extractLsb' 28 4) (w.extractLsb' 26 2) (w.extractLsb' 20 6) (w.extractLsb' 13 7) (w.extractLsb' 7 6))

/-- Major 0x2C (R211). -/
def dec2C (w : BitVec 32) : Option Instr :=
  row32 w 0x0000007F 0x00000059 (.atmaxI32 (w.extractLsb' 28 4) (w.extractLsb' 26 2) (w.extractLsb' 20 6) (w.extractLsb' 13 7) (w.extractLsb' 7 6))

/-- Major 0x2D (R211). -/
def dec2D (w : BitVec 32) : Option Instr :=
  row32 w 0x0000007F 0x0000005B (.atmaxN32 (w.extractLsb' 28 4) (w.extractLsb' 26 2) (w.extractLsb' 20 6) (w.extractLsb' 13 7) (w.extractLsb' 7 6))

/-- Major 0x2E (R211). -/
def dec2E (w : BitVec 32) : Option Instr :=
  row32 w 0x0000007F 0x0000005D (.atandB32 (w.extractLsb' 28 4) (w.extractLsb' 26 2) (w.extractLsb' 20 6) (w.extractLsb' 13 7) (w.extractLsb' 7 6))

/-- Major 0x2F (R211). -/
def dec2F (w : BitVec 32) : Option Instr :=
  row32 w 0x0000007F 0x0000005F (.atorB32 (w.extractLsb' 28 4) (w.extractLsb' 26 2) (w.extractLsb' 20 6) (w.extractLsb' 13 7) (w.extractLsb' 7 6))

/-- Major 0x30 (R211). -/
def dec30 (w : BitVec 32) : Option Instr :=
  row32 w 0x0000007F 0x00000061 (.atxorB32 (w.extractLsb' 28 4) (w.extractLsb' 26 2) (w.extractLsb' 20 6) (w.extractLsb' 13 7) (w.extractLsb' 7 6))

/-- Major 0x31 (R211). -/
def dec31 (w : BitVec 32) : Option Instr :=
  row32 w 0x0000007F 0x00000063 (.atswpB32 (w.extractLsb' 28 4) (w.extractLsb' 26 2) (w.extractLsb' 20 6) (w.extractLsb' 13 7) (w.extractLsb' 7 6))

/-- Major 0x32 (R211). -/
def dec32 (w : BitVec 32) : Option Instr :=
  row32 w 0x0000007F 0x00000065 (.atcasB32 (w.extractLsb' 28 4) (w.extractLsb' 26 2) (w.extractLsb' 20 6) (w.extractLsb' 13 7) (w.extractLsb' 7 6))

/-- Major 0x33 (R211). -/
def dec33 (w : BitVec 32) : Option Instr :=
  row32 w 0x0000007F 0x00000067 (.atmrgB32 (w.extractLsb' 28 4) (w.extractLsb' 26 2) (w.extractLsb' 20 6) (w.extractLsb' 13 7) (w.extractLsb' 7 6))

/-- Major 0x34 (R211). -/
def dec34 (w : BitVec 32) : Option Instr :=
  row32 w 0x0000007F 0x00000069 (.ataddN64 (w.extractLsb' 28 4) (w.extractLsb' 26 2) (w.extractLsb' 20 6) (w.extractLsb' 13 7) (w.extractLsb' 7 6))

/-- Major 0x35 (R211). -/
def dec35 (w : BitVec 32) : Option Instr :=
  row32 w 0x0000007F 0x0000006B (.atswpB64 (w.extractLsb' 28 4) (w.extractLsb' 26 2) (w.extractLsb' 20 6) (w.extractLsb' 13 7) (w.extractLsb' 7 6))

/-- Major 0x36 (R211). -/
def dec36 (w : BitVec 32) : Option Instr :=
  row32 w 0x0000007F 0x0000006D (.atcasB64 (w.extractLsb' 28 4) (w.extractLsb' 26 2) (w.extractLsb' 20 6) (w.extractLsb' 13 7) (w.extractLsb' 7 6))

/-- Major 0x37 (R211). -/
def dec37 (w : BitVec 32) : Option Instr :=
  match (w.extractLsb' 25 7).toNat with
  | 2 => row32 w 0xFFFE1FFF 0x0400006F (.fenceAcq (w.extractLsb' 13 4))
  | 3 => row32 w 0xFFFE1FFF 0x0600006F (.fenceRel (w.extractLsb' 13 4))
  | 4 => row32 w 0xFFFE1FFF 0x0800006F (.fenceAr (w.extractLsb' 13 4))
  | 8 => row32 w 0xFE00007F 0x1000006F (.bind (w.extractLsb' 19 6) (w.extractLsb' 13 6) (w.extractLsb' 7 6))
  | 16 => row32 w 0xFFFE1FFF 0x2000006F (.join (w.extractLsb' 13 4))
  | 17 => row32 w 0xFFFE1FFF 0x2200006F (.leave (w.extractLsb' 13 4))
  | 18 => row32 w 0xFE061C7F 0x2400006F (.wait (w.extractLsb' 19 6) (w.extractLsb' 13 4) (w.extractLsb' 7 3))
  | 24 => row32 w 0xFFF81FFF 0x3000006F (.cbar (w.extractLsb' 13 6))
  | 25 => row32 w 0xFFF81FFF 0x3200006F (.cjoin (w.extractLsb' 13 6))
  | 26 => row32 w 0xFFFFFFFF 0x3400006F (.cleave)
  | 32 => row32 w 0xFE001FFF 0x4000006F (.binit (w.extractLsb' 19 6) (w.extractLsb' 13 6))
  | 33 => row32 w 0xFE001FFF 0x4200006F (.barrive (w.extractLsb' 19 6) (w.extractLsb' 13 6))
  | 34 => row32 w 0xFFF8007F 0x4400006F (.bwait (w.extractLsb' 13 6) (w.extractLsb' 7 6))
  | 35 => row32 w 0xFFF8007F 0x4600006F (.bread (w.extractLsb' 13 6) (w.extractLsb' 7 6))
  | 40 => row32 w 0xFFE7E07F 0x5000006F (.rdwp (w.extractLsb' 19 2) (w.extractLsb' 7 6))
  | 48 => row32 w 0xFE001FFF 0x6000006F (.rwr (w.extractLsb' 19 6) (w.extractLsb' 13 6))
  | _ => none

/-- Major 0x38 (R211). -/
def dec38 (w : BitVec 32) : Option Instr :=
  match (w.extractLsb' 21 4).toNat with
  | 0 => row32 w 0x03E7007F 0x00070071 (.mld (w.extractLsb' 26 6) (w.extractLsb' 19 2) (w.extractLsb' 12 4) (w.extractLsb' 7 5))
  | 1 => row32 w 0x01E7007F 0x00270071 (.mst (w.extractLsb' 26 6) (w.extractLsb' 25 1) (w.extractLsb' 19 2) (w.extractLsb' 12 4) (w.extractLsb' 7 5))
  | 2 => row32 w 0xFFE7007F 0x00470071 (.mldf (w.extractLsb' 19 2) (w.extractLsb' 12 4) (w.extractLsb' 7 5))
  | 3 => row32 w 0xFDE7007F 0x00670071 (.mstf (w.extractLsb' 25 1) (w.extractLsb' 19 2) (w.extractLsb' 12 4) (w.extractLsb' 7 5))
  | 4 => row32 w 0x03E70C7F 0x00870071 (.ald (w.extractLsb' 26 6) (w.extractLsb' 19 2) (w.extractLsb' 12 4) (w.extractLsb' 7 3))
  | 5 => row32 w 0x01E70C7F 0x00A70071 (.ast (w.extractLsb' 26 6) (w.extractLsb' 25 1) (w.extractLsb' 19 2) (w.extractLsb' 12 4) (w.extractLsb' 7 3))
  | _ => none

/-- Major 0x39 (R211). -/
def dec39 (w : BitVec 32) : Option Instr :=
  match (w.extractLsb' 27 5).toNat with
  | 0 => row32 w 0xFFC00C7F 0x00000073 (.mma (w.extractLsb' 17 5) (w.extractLsb' 12 5) (w.extractLsb' 7 3))
  | 1 => row32 w 0xFFC00C7F 0x08000073 (.mmaz (w.extractLsb' 17 5) (w.extractLsb' 12 5) (w.extractLsb' 7 3))
  | 2 => row32 w 0xFFFF807F 0x10000073 (.mdrain (w.extractLsb' 12 3) (w.extractLsb' 7 5))
  | 3 => row32 w 0xFFFFFC7F 0x18000073 (.aclr (w.extractLsb' 7 3))
  | 4 => row32 w 0xFFC0007F 0x20000073 (.mmul (w.extractLsb' 17 5) (w.extractLsb' 12 5) (w.extractLsb' 7 5))
  | 5 => (row32 w 0xFFC0007F 0x28000073 (.madd (w.extractLsb' 17 5) (w.extractLsb' 12 5) (w.extractLsb' 7 5))) <|> (row32 w 0xFFC0007F 0x28400073 (.maddDn (w.extractLsb' 17 5) (w.extractLsb' 12 5) (w.extractLsb' 7 5)))
  | 6 => row32 w 0xFFFE007F 0x30000073 (.mrecomp (w.extractLsb' 12 5) (w.extractLsb' 7 5))
  | 7 => row32 w 0xFFFE007F 0x38000073 (.mfact (w.extractLsb' 12 5) (w.extractLsb' 7 5))
  | 8 => row32 w 0xFFFE007F 0x40000073 (.mdens (w.extractLsb' 12 5) (w.extractLsb' 7 5))
  | 9 => row32 w 0xFFFE007F 0x48000073 (.mmov (w.extractLsb' 12 5) (w.extractLsb' 7 5))
  | 10 => row32 w 0xFFFE007F 0x50000073 (.mtr (w.extractLsb' 12 5) (w.extractLsb' 7 5))
  | 11 => row32 w 0xFFFFF07F 0x58000073 (.mzero (w.extractLsb' 7 5))
  | _ => none

/-- Major 0x3A (R211). -/
def dec3A (w : BitVec 32) : Option Instr :=
  match (w.extractLsb' 25 5).toNat with
  | 0 => row32 w 0x3FF8007F 0x00000075 (.xcopy (w.extractLsb' 30 2) (w.extractLsb' 13 6) (w.extractLsb' 7 6))
  | 1 => row32 w 0x3FF8007F 0x02000075 (.xrepack (w.extractLsb' 30 2) (w.extractLsb' 13 6) (w.extractLsb' 7 6))
  | 2 => row32 w 0x3FF8007F 0x04000075 (.xtr (w.extractLsb' 30 2) (w.extractLsb' 13 6) (w.extractLsb' 7 6))
  | 3 => row32 w 0x3FF8007F 0x06000075 (.xcvt (w.extractLsb' 30 2) (w.extractLsb' 13 6) (w.extractLsb' 7 6))
  | 4 => row32 w 0x3FF8007F 0x08000075 (.xexp (w.extractLsb' 30 2) (w.extractLsb' 13 6) (w.extractLsb' 7 6))
  | 5 => row32 w 0x3E00007F 0x0A000075 (.xmcast (w.extractLsb' 30 2) (w.extractLsb' 19 6) (w.extractLsb' 13 6) (w.extractLsb' 7 6))
  | _ => none

/-- Major 0x3B (R211). -/
def dec3B (w : BitVec 32) : Option Instr :=
  match (w.extractLsb' 25 7).toNat with
  | 0 => row32 w 0xFFFFFFFF 0x00000077 (.exit)
  | 1 => row32 w 0xFFF81FFF 0x02000077 (.emit (w.extractLsb' 13 6))
  | 2 => row32 w 0xFFFFFFFF 0x04000077 (.idem)
  | 3 => row32 w 0xFFF81FFF 0x06000077 (.nopre (w.extractLsb' 13 6))
  | 4 => row32 w 0xFE00007F 0x08000077 (.rng (w.extractLsb' 19 6) (w.extractLsb' 13 6) (w.extractLsb' 7 6))
  | 5 => row32 w 0xFE00007F 0x0A000077 (.caddN128 (w.extractLsb' 19 6) (w.extractLsb' 13 6) (w.extractLsb' 7 6))
  | 8 => row32 w 0xFE07FFFF 0x10000077 (.bkpt (w.extractLsb' 19 6))
  | 9 => row32 w 0xFFFFFFFF 0x12000077 (.tret)
  | 10 => row32 w 0xFFFFE07F 0x14000077 (.tstamp (w.extractLsb' 7 6))
  | 11 => row32 w 0xFFFFE07F 0x16000077 (.coreid (w.extractLsb' 7 6))
  | _ => none

/-- The 32-bit instructions by major opcode (R209, R211). -/
def decode32 (w : BitVec 32) : Option Instr :=
  match (w.extractLsb' 1 6).toNat with
  | 0x01 => dec01 w
  | 0x02 => dec02 w
  | 0x03 => dec03 w
  | 0x04 => dec04 w
  | 0x05 => dec05 w
  | 0x06 => dec06 w
  | 0x07 => dec07 w
  | 0x08 => dec08 w
  | 0x09 => dec09 w
  | 0x0A => dec0A w
  | 0x0B => dec0B w
  | 0x0C => dec0C w
  | 0x0D => dec0D w
  | 0x0E => dec0E w
  | 0x0F => dec0F w
  | 0x10 => dec10 w
  | 0x11 => dec11 w
  | 0x12 => dec12 w
  | 0x13 => dec13 w
  | 0x14 => dec14 w
  | 0x15 => dec15 w
  | 0x16 => dec16 w
  | 0x18 => dec18 w
  | 0x19 => dec19 w
  | 0x1A => dec1A w
  | 0x1B => dec1B w
  | 0x1C => dec1C w
  | 0x1D => dec1D w
  | 0x1E => dec1E w
  | 0x1F => dec1F w
  | 0x20 => dec20 w
  | 0x21 => dec21 w
  | 0x22 => dec22 w
  | 0x23 => dec23 w
  | 0x24 => dec24 w
  | 0x25 => dec25 w
  | 0x26 => dec26 w
  | 0x27 => dec27 w
  | 0x28 => dec28 w
  | 0x29 => dec29 w
  | 0x2A => dec2A w
  | 0x2B => dec2B w
  | 0x2C => dec2C w
  | 0x2D => dec2D w
  | 0x2E => dec2E w
  | 0x2F => dec2F w
  | 0x30 => dec30 w
  | 0x31 => dec31 w
  | 0x32 => dec32 w
  | 0x33 => dec33 w
  | 0x34 => dec34 w
  | 0x35 => dec35 w
  | 0x36 => dec36 w
  | 0x37 => dec37 w
  | 0x38 => dec38 w
  | 0x39 => dec39 w
  | 0x3A => dec3A w
  | 0x3B => dec3B w
  | _ => none

/-- The fate of a halfword with bit 0 clear (R207, R213). -/
def decodeHalf (w : BitVec 16) : Decoded :=
  if w = 0 then .ill 2
  else match decode16 w with
    | some i => if i.wf then .ok i 2 else .ill 2
    | none => .und 2

/-- The fate of a 32-bit pattern (R213): majors 0x00 and 0x3F are ILL, everything else that no row takes, or whose
fields R210 and R213 refuse, is UND. -/
def decodeWord (w : BitVec 32) : Decoded :=
  let maj := (w.extractLsb' 1 6).toNat
  if maj = 0 ∨ maj = 0x3F then .ill 4
  else match decode32 w with
    | some i => if i.wf then .ok i 4 else .und 4
    | none => .und 4

/-- Decoding of the bytes at the program counter, lowest address first (R206). -/
def decode : List Byte → Decoded
  | b0 :: b1 :: rest =>
    if b0.getLsbD 0 then
      match rest with
      | b2 :: b3 :: _ => decodeWord (b3 ++ b2 ++ b1 ++ b0)
      | _ => .short
    else decodeHalf (b1 ++ b0)
  | _ => .short

/-- The `n` bytes of a number, lowest first. -/
def bytesOfNat : Nat → Nat → List Byte
  | 0, _ => []
  | n + 1, w => BitVec.ofNat 8 w :: bytesOfNat n (w / 256)

/-- The decoder on a row of the opcode table (`nbits` bits, numbered as the table numbers them). The longest
instruction is 32 bits; the bits above `nbits` are zero. -/
def decodeTableWord (nbits w : Nat) : Option Instr :=
  match decode (bytesOfNat 4 (w % 2 ^ nbits)) with
  | .ok i _ => some i
  | _ => none

/-- An encoded instruction: one halfword or one word (R206). -/
inductive Code where
  | half (h : BitVec 16)
  | word (w : BitVec 32)
  deriving DecidableEq, Repr

/-- The bytes of an encoded instruction, lowest address first (R206). -/
def Code.bytes : Code → List Byte
  | .half h => bytesOfNat 2 h.toNat
  | .word w => bytesOfNat 4 w.toNat

/-- The length of an encoded instruction in bytes (R206). -/
def Code.len : Code → Nat
  | .half _ => 2
  | .word _ => 4

/-- The encoding of an instruction (R207 to R211); a step of the device that is no instruction has none. -/
def encode : Instr → Option Code
  | .powerOn => none
  | .powerLoss => none
  | .wake => none
  | .status => none
  | .image => none
  | .lccmd => none
  | .wipeComplete => none
  | .attest => none
  | .off => none
  | .unknownFrameType => none
  | .clockStepDown => none
  | .clockStepUp => none
  | .thermalTrip => none
  | .coreCondemn => none
  | .coreCondemnedReport => none
  | .pcieInboundData => none
  | .pcieOutboundData => none
  | .pageWalk => none
  | .faultRecordWrite => none
  | .replayRetry => none
  | .replayFatal => none
  | .frcfgWrite => none
  | .fridxWrite => none
  | .xlinvaWrite => none
  | .xlinvPage => none
  | .xlinvAll => none
  | .xlinvComplete => none
  | .homeAtomic => none
  | .farAtomic => none
  | .l2Fill => none
  | .l2Writeback => none
  | .growthRecordAppend => none
  | .grcfgWrite => none
  | .gridxWrite => none
  | .czcmd => none
  | .fuse => none
  | .unfuse => none
  | .windowRegisterWrite => none
  | .windowChangeComplete => none
  | .frameWipe => none
  | .engineOpDispatch => none
  | .enginePiece => none
  | .multicastArrival => none
  | .remoteWriteDeposit => none
  | .waitTimeout => none
  | .binTimeout => none
  | .binWaveForm => none
  | .llsDecay => none
  | .throttleSelect => none
  | .throttleBypass => none
  | .nopreWindowExpire => none
  | .crewEnd => none
  | .tdescWrite => none
  | .arriveWrite => none
  | .illegalEncoding => none
  | .rollback => none
  | .shadow => none
  | .shadowSlotGrant => none
  | .barrierWatchdogFire => none
  | .diagDumpWrite => none
  | .signalNotification => none
  | .queueIdleUnmap => none
  | .packetEmpty => none
  | .packetNode => none
  | .packetWait => none
  | .packetSignal => none
  | .waitWordWatch => none
  | .waitWordPoll => none
  | .nodePlacement => none
  | .priorityRise => none
  | .place => none
  | .ended => none
  | .completionSignalWrite => none
  | .eventRecordWrite => none
  | .eventIrqTimer => none
  | .fault => none
  | .saved => none
  | .cancel => none
  | .continueCrew => none
  | .test => none
  | .testEnd => none
  | .misscapWrite => none
  | .preemptionRequest => none
  | .scoreReport => none
  | .heapGrantReply => none
  | .preempt => none
  | .capture => none
  | .resume => none
  | .partitionReplace => none
  | .scrub => none
  | .scrubCountUpdate => none
  | .ecscntClear => none
  | .descriptorInstall => none
  | .firewallAssign => none
  | .pageTableWrite => none
  | .windowInstall => none
  | .loadObject => none
  | .linkPatch => none
  | .registerWrite => none
  | .movB32H b d => some (.half (b ++ d ++ 0#5))
  | .iaddN32H b d => some (.half (b ++ d ++ 2#5))
  | .isubN32H b d => some (.half (b ++ d ++ 4#5))
  | .imulN32H b d => some (.half (b ++ d ++ 6#5))
  | .andB32H b d => some (.half (b ++ d ++ 8#5))
  | .orB32H b d => some (.half (b ++ d ++ 10#5))
  | .xorB32H b d => some (.half (b ++ d ++ 12#5))
  | .shlB32H b d => some (.half (b ++ d ++ 14#5))
  | .shrN32H b d => some (.half (b ++ d ++ 16#5))
  | .shrI32H b d => some (.half (b ++ d ++ 18#5))
  | .faddF32H b d => some (.half (b ++ d ++ 20#5))
  | .fsubF32H b d => some (.half (b ++ d ++ 22#5))
  | .fmulF32H b d => some (.half (b ++ d ++ 24#5))
  | .fminF32H b d => some (.half (b ++ d ++ 26#5))
  | .fmaxF32H b d => some (.half (b ++ d ++ 28#5))
  | .iminI32H b d => some (.half (b ++ d ++ 30#5))
  | .iaddN32 b a d => some (.word (0#4 ++ b ++ a ++ d ++ 3#7))
  | .isubN32 b a d => some (.word (1#4 ++ b ++ a ++ d ++ 3#7))
  | .imulN32 b a d => some (.word (2#4 ++ b ++ a ++ d ++ 3#7))
  | .imulhiI32 b a d => some (.word (3#4 ++ b ++ a ++ d ++ 3#7))
  | .imulhiN32 b a d => some (.word (4#4 ++ b ++ a ++ d ++ 3#7))
  | .iminI32 b a d => some (.word (5#4 ++ b ++ a ++ d ++ 3#7))
  | .iminN32 b a d => some (.word (6#4 ++ b ++ a ++ d ++ 3#7))
  | .imaxI32 b a d => some (.word (7#4 ++ b ++ a ++ d ++ 3#7))
  | .imaxN32 b a d => some (.word (8#4 ++ b ++ a ++ d ++ 3#7))
  | .iabsI32 a d => some (.word (1152#11 ++ a ++ d ++ 3#7))
  | .idivI32 b a d => some (.word (10#4 ++ b ++ a ++ d ++ 3#7))
  | .idivN32 b a d => some (.word (11#4 ++ b ++ a ++ d ++ 3#7))
  | .iremI32 b a d => some (.word (12#4 ++ b ++ a ++ d ++ 3#7))
  | .iremN32 b a d => some (.word (13#4 ++ b ++ a ++ d ++ 3#7))
  | .iaddsatI32 b a d => some (.word (14#4 ++ b ++ a ++ d ++ 3#7))
  | .isubsatI32 b a d => some (.word (15#4 ++ b ++ a ++ d ++ 3#7))
  | .andB32 b a d => some (.word (0#4 ++ b ++ a ++ d ++ 5#7))
  | .orB32 b a d => some (.word (1#4 ++ b ++ a ++ d ++ 5#7))
  | .xorB32 b a d => some (.word (2#4 ++ b ++ a ++ d ++ 5#7))
  | .andnB32 b a d => some (.word (3#4 ++ b ++ a ++ d ++ 5#7))
  | .shlB32 b a d => some (.word (4#4 ++ b ++ a ++ d ++ 5#7))
  | .shrN32 b a d => some (.word (5#4 ++ b ++ a ++ d ++ 5#7))
  | .shrI32 b a d => some (.word (6#4 ++ b ++ a ++ d ++ 5#7))
  | .rotlB32 b a d => some (.word (7#4 ++ b ++ a ++ d ++ 5#7))
  | .popcB32 a d => some (.word (1024#11 ++ a ++ d ++ 5#7))
  | .clzB32 a d => some (.word (1152#11 ++ a ++ d ++ 5#7))
  | .brevB32 a d => some (.word (1280#11 ++ a ++ d ++ 5#7))
  | .notB32 a d => some (.word (1408#11 ++ a ++ d ++ 5#7))
  | .iaddiN32 i a d => some (.word (i ++ a ++ d ++ 7#7))
  | .andiB32 i a d => some (.word (i ++ a ++ d ++ 9#7))
  | .oriB32 i a d => some (.word (i ++ a ++ d ++ 11#7))
  | .xoriB32 i a d => some (.word (i ++ a ++ d ++ 13#7))
  | .shliB32 n a d => some (.word (0#6 ++ n ++ a ++ d ++ 15#7))
  | .shriN32 n a d => some (.word (1#6 ++ n ++ a ++ d ++ 15#7))
  | .shriI32 n a d => some (.word (2#6 ++ n ++ a ++ d ++ 15#7))
  | .rotiB32 n a d => some (.word (3#6 ++ n ++ a ++ d ++ 15#7))
  | .faddF32 r b a d => some (.word (0#2 ++ r ++ b ++ a ++ d ++ 17#7))
  | .fsubF32 r b a d => some (.word (1#2 ++ r ++ b ++ a ++ d ++ 17#7))
  | .fmulF32 r b a d => some (.word (2#2 ++ r ++ b ++ a ++ d ++ 17#7))
  | .fdivF32 r b a d => some (.word (3#2 ++ r ++ b ++ a ++ d ++ 17#7))
  | .fminF32 b a d => some (.word (0#4 ++ b ++ a ++ d ++ 19#7))
  | .fmaxF32 b a d => some (.word (1#4 ++ b ++ a ++ d ++ 19#7))
  | .fsqrtF32 r a d => some (.word (1#2 ++ r ++ 0#7 ++ a ++ d ++ 19#7))
  | .fnegF32 a d => some (.word (1024#11 ++ a ++ d ++ 19#7))
  | .fabsF32 a d => some (.word (1152#11 ++ a ++ d ++ 19#7))
  | .fcsgnF32 b a d => some (.word (10#4 ++ b ++ a ++ d ++ 19#7))
  | .fadd2F16 r b a d => some (.word (0#2 ++ r ++ b ++ a ++ d ++ 21#7))
  | .fmul2F16 r b a d => some (.word (1#2 ++ r ++ b ++ a ++ d ++ 21#7))
  | .fadd2Bf16 r b a d => some (.word (2#2 ++ r ++ b ++ a ++ d ++ 21#7))
  | .fmul2Bf16 r b a d => some (.word (3#2 ++ r ++ b ++ a ++ d ++ 21#7))
  | .ffmaF32 c b a d r => some (.word (c ++ b ++ a ++ d ++ 4#4 ++ r ++ 1#1))
  | .imadN32 c b a d => some (.word (c ++ b ++ a ++ d ++ 41#7))
  | .fceqF32 b a d => some (.word (0#4 ++ b ++ a ++ 0#4 ++ d ++ 23#7))
  | .fcneF32 b a d => some (.word (1#4 ++ b ++ a ++ 0#4 ++ d ++ 23#7))
  | .fcltF32 b a d => some (.word (2#4 ++ b ++ a ++ 0#4 ++ d ++ 23#7))
  | .fcleF32 b a d => some (.word (3#4 ++ b ++ a ++ 0#4 ++ d ++ 23#7))
  | .fcgtF32 b a d => some (.word (4#4 ++ b ++ a ++ 0#4 ++ d ++ 23#7))
  | .fcgeF32 b a d => some (.word (5#4 ++ b ++ a ++ 0#4 ++ d ++ 23#7))
  | .fcunF32 b a d => some (.word (6#4 ++ b ++ a ++ 0#4 ++ d ++ 23#7))
  | .fcordF32 b a d => some (.word (7#4 ++ b ++ a ++ 0#4 ++ d ++ 23#7))
  | .iceqB32 b a d => some (.word (0#4 ++ b ++ a ++ 0#4 ++ d ++ 25#7))
  | .icneB32 b a d => some (.word (1#4 ++ b ++ a ++ 0#4 ++ d ++ 25#7))
  | .icltI32 b a d => some (.word (2#4 ++ b ++ a ++ 0#4 ++ d ++ 25#7))
  | .icleI32 b a d => some (.word (3#4 ++ b ++ a ++ 0#4 ++ d ++ 25#7))
  | .icgtI32 b a d => some (.word (4#4 ++ b ++ a ++ 0#4 ++ d ++ 25#7))
  | .icgeI32 b a d => some (.word (5#4 ++ b ++ a ++ 0#4 ++ d ++ 25#7))
  | .icltN32 b a d => some (.word (6#4 ++ b ++ a ++ 0#4 ++ d ++ 25#7))
  | .icleN32 b a d => some (.word (7#4 ++ b ++ a ++ 0#4 ++ d ++ 25#7))
  | .icgtN32 b a d => some (.word (8#4 ++ b ++ a ++ 0#4 ++ d ++ 25#7))
  | .icgeN32 b a d => some (.word (9#4 ++ b ++ a ++ 0#4 ++ d ++ 25#7))
  | .ictstB32 b a d => some (.word (10#4 ++ b ++ a ++ 0#4 ++ d ++ 25#7))
  | .selB32 n b a d => some (.word (0#1 ++ n ++ b ++ a ++ d ++ 27#7))
  | .pand b a d => some (.word (128#8 ++ b ++ 0#4 ++ a ++ 0#4 ++ d ++ 27#7))
  | .por b a d => some (.word (144#8 ++ b ++ 0#4 ++ a ++ 0#4 ++ d ++ 27#7))
  | .pxor b a d => some (.word (160#8 ++ b ++ 0#4 ++ a ++ 0#4 ++ d ++ 27#7))
  | .pandn b a d => some (.word (176#8 ++ b ++ 0#4 ++ a ++ 0#4 ++ d ++ 27#7))
  | .pmov a d => some (.word (24576#15 ++ a ++ 0#4 ++ d ++ 27#7))
  | .pnot a d => some (.word (26624#15 ++ a ++ 0#4 ++ d ++ 27#7))
  | .vtop a d => some (.word (1792#11 ++ a ++ 0#4 ++ d ++ 27#7))
  | .ptov a d => some (.word (30720#15 ++ a ++ d ++ 27#7))
  | .cvt s t r a d => some (.word (s ++ t ++ 0#1 ++ r ++ a ++ d ++ 29#7))
  | .pack2B16 b a d => some (.word (0#4 ++ b ++ a ++ d ++ 31#7))
  | .pack2B8 b a d => some (.word (1#4 ++ b ++ a ++ d ++ 31#7))
  | .pack2hB8 b a d => some (.word (2#4 ++ b ++ a ++ d ++ 31#7))
  | .extN16 b a d => some (.word (3#4 ++ b ++ a ++ d ++ 31#7))
  | .extI16 b a d => some (.word (4#4 ++ b ++ a ++ d ++ 31#7))
  | .extN8 b a d => some (.word (5#4 ++ b ++ a ++ d ++ 31#7))
  | .extI8 b a d => some (.word (6#4 ++ b ++ a ++ d ++ 31#7))
  | .bfxN32 b a d => some (.word (7#4 ++ b ++ a ++ d ++ 31#7))
  | .bfxI32 b a d => some (.word (8#4 ++ b ++ a ++ d ++ 31#7))
  | .bfiB32 b a d => some (.word (9#4 ++ b ++ a ++ d ++ 31#7))
  | .movB32 b a d => some (.word (0#4 ++ b ++ a ++ d ++ 43#7))
  | .shflB32 b a d => some (.word (1#4 ++ b ++ a ++ d ++ 43#7))
  | .bcastB32 b a d => some (.word (2#4 ++ b ++ a ++ d ++ 43#7))
  | .ballotB32 a d => some (.word (6144#15 ++ a ++ d ++ 43#7))
  | .vall a d => some (.word (8192#15 ++ a ++ 0#4 ++ d ++ 43#7))
  | .vany a d => some (.word (10240#15 ++ a ++ 0#4 ++ d ++ 43#7))
  | .laneid d => some (.word (98304#18 ++ d ++ 43#7))
  | .tid d => some (.word (114688#18 ++ d ++ 43#7))
  | .qset a d => some (.word (8199#14 ++ a ++ 0#3 ++ d ++ 43#7))
  | .qget a d => some (.word (9216#14 ++ a ++ d ++ 43#7))
  | .iaddN64 b a d => some (.word (0#4 ++ b ++ a ++ d ++ 45#7))
  | .isubN64 b a d => some (.word (1#4 ++ b ++ a ++ d ++ 45#7))
  | .imulN64 b a d => some (.word (2#4 ++ b ++ a ++ d ++ 45#7))
  | .shlB64 b a d => some (.word (3#4 ++ b ++ a ++ d ++ 45#7))
  | .shrN64 b a d => some (.word (4#4 ++ b ++ a ++ d ++ 45#7))
  | .shrI64 b a d => some (.word (5#4 ++ b ++ a ++ d ++ 45#7))
  | .iminI64 b a d => some (.word (6#4 ++ b ++ a ++ d ++ 45#7))
  | .imaxI64 b a d => some (.word (7#4 ++ b ++ a ++ d ++ 45#7))
  | .iminN64 b a d => some (.word (8#4 ++ b ++ a ++ d ++ 45#7))
  | .imaxN64 b a d => some (.word (9#4 ++ b ++ a ++ d ++ 45#7))
  | .imulwN32 b a d => some (.word (10#4 ++ b ++ a ++ d ++ 45#7))
  | .imulwI32 b a d => some (.word (11#4 ++ b ++ a ++ d ++ 45#7))
  | .uaddN32 b a d => some (.word (0#7 ++ b ++ a ++ d ++ 49#7))
  | .usubN32 b a d => some (.word (1#7 ++ b ++ a ++ d ++ 49#7))
  | .umulN32 b a d => some (.word (2#7 ++ b ++ a ++ d ++ 49#7))
  | .uminI32 b a d => some (.word (3#7 ++ b ++ a ++ d ++ 49#7))
  | .umaxI32 b a d => some (.word (4#7 ++ b ++ a ++ d ++ 49#7))
  | .uminN32 b a d => some (.word (5#7 ++ b ++ a ++ d ++ 49#7))
  | .umaxN32 b a d => some (.word (6#7 ++ b ++ a ++ d ++ 49#7))
  | .uandB32 b a d => some (.word (7#7 ++ b ++ a ++ d ++ 49#7))
  | .uorB32 b a d => some (.word (8#7 ++ b ++ a ++ d ++ 49#7))
  | .uxorB32 b a d => some (.word (9#7 ++ b ++ a ++ d ++ 49#7))
  | .ushlB32 b a d => some (.word (10#7 ++ b ++ a ++ d ++ 49#7))
  | .ushrN32 b a d => some (.word (11#7 ++ b ++ a ++ d ++ 49#7))
  | .ushrI32 b a d => some (.word (12#7 ++ b ++ a ++ d ++ 49#7))
  | .udivN32 b a d => some (.word (13#7 ++ b ++ a ++ d ++ 49#7))
  | .uremN32 b a d => some (.word (14#7 ++ b ++ a ++ d ++ 49#7))
  | .umov b d => some (.word (15#7 ++ b ++ 0#6 ++ d ++ 49#7))
  | .useqB32 b a d => some (.word (16#7 ++ b ++ a ++ d ++ 49#7))
  | .usltI32 b a d => some (.word (17#7 ++ b ++ a ++ d ++ 49#7))
  | .usltN32 b a d => some (.word (18#7 ++ b ++ a ++ d ++ 49#7))
  | .udivI32 b a d => some (.word (19#7 ++ b ++ a ++ d ++ 49#7))
  | .uremI32 b a d => some (.word (20#7 ++ b ++ a ++ d ++ 49#7))
  | .uaddi i a d => some (.word (i ++ a ++ d ++ 51#7))
  | .umovi i d => some (.word (i ++ 0#6 ++ d ++ 53#7))
  | .cmovRead n s => some (.word (n ++ 0#7 ++ s ++ 55#7))
  | .cmovWrite n s => some (.word (n ++ 1#7 ++ s ++ 55#7))
  | .br o => some (.word (o ++ 57#12))
  | .brCond o n p => some (.word (o ++ 1#1 ++ n ++ p ++ 57#7))
  | .call o => some (.word (o ++ 59#12))
  | .callCond o n p => some (.word (o ++ 1#1 ++ n ++ p ++ 59#7))
  | .jmp a => some (.word (0#13 ++ a ++ 61#13))
  | .calli a => some (.word (64#13 ++ a ++ 61#13))
  | .ret => some (.word (67108925#32))
  | .ldlB32 o d => some (.word (o ++ d ++ 63#7))
  | .ldlB64 o d => some (.word (o ++ d ++ 65#7))
  | .ldB32 o s a d => some (.word (o ++ 0#1 ++ s ++ a ++ d ++ 67#7))
  | .ldB64 o s a d => some (.word (o ++ 0#1 ++ s ++ a ++ d ++ 69#7))
  | .ldB128 o s a d => some (.word (o ++ 0#1 ++ s ++ a ++ d ++ 71#7))
  | .stB32 o i s a d => some (.word (o ++ i ++ s ++ a ++ d ++ 73#7))
  | .stB64 o i s a d => some (.word (o ++ i ++ s ++ a ++ d ++ 75#7))
  | .stB128 o i s a d => some (.word (o ++ i ++ s ++ a ++ d ++ 77#7))
  | .ldB32Ord g o s a d => some (.word (g ++ o ++ s ++ 0#2 ++ a ++ d ++ 79#7))
  | .ldB64Ord g o s a d => some (.word (g ++ o ++ s ++ 1#2 ++ a ++ d ++ 79#7))
  | .stB32Ord g o s a d => some (.word (g ++ o ++ s ++ 2#2 ++ a ++ d ++ 79#7))
  | .stB64Ord g o s a d => some (.word (g ++ o ++ s ++ 3#2 ++ a ++ d ++ 79#7))
  | .ataddN32 g o b a d => some (.word (g ++ o ++ b ++ a ++ d ++ 81#7))
  | .atfaddF32 g o b a d => some (.word (g ++ o ++ b ++ a ++ d ++ 83#7))
  | .atminI32 g o b a d => some (.word (g ++ o ++ b ++ a ++ d ++ 85#7))
  | .atminN32 g o b a d => some (.word (g ++ o ++ b ++ a ++ d ++ 87#7))
  | .atmaxI32 g o b a d => some (.word (g ++ o ++ b ++ a ++ d ++ 89#7))
  | .atmaxN32 g o b a d => some (.word (g ++ o ++ b ++ a ++ d ++ 91#7))
  | .atandB32 g o b a d => some (.word (g ++ o ++ b ++ a ++ d ++ 93#7))
  | .atorB32 g o b a d => some (.word (g ++ o ++ b ++ a ++ d ++ 95#7))
  | .atxorB32 g o b a d => some (.word (g ++ o ++ b ++ a ++ d ++ 97#7))
  | .atswpB32 g o b a d => some (.word (g ++ o ++ b ++ a ++ d ++ 99#7))
  | .atcasB32 g o b a d => some (.word (g ++ o ++ b ++ a ++ d ++ 101#7))
  | .atmrgB32 g o b a d => some (.word (g ++ o ++ b ++ a ++ d ++ 103#7))
  | .ataddN64 g o b a d => some (.word (g ++ o ++ b ++ a ++ d ++ 105#7))
  | .atswpB64 g o b a d => some (.word (g ++ o ++ b ++ a ++ d ++ 107#7))
  | .atcasB64 g o b a d => some (.word (g ++ o ++ b ++ a ++ d ++ 109#7))
  | .fenceAcq g => some (.word (512#15 ++ g ++ 111#13))
  | .fenceRel g => some (.word (768#15 ++ g ++ 111#13))
  | .fenceAr g => some (.word (1024#15 ++ g ++ 111#13))
  | .bind b a d => some (.word (8#7 ++ b ++ a ++ d ++ 111#7))
  | .join a => some (.word (4096#15 ++ a ++ 111#13))
  | .leave a => some (.word (4352#15 ++ a ++ 111#13))
  | .wait b a d => some (.word (18#7 ++ b ++ 0#2 ++ a ++ 0#3 ++ d ++ 111#7))
  | .cbar a => some (.word (1536#13 ++ a ++ 111#13))
  | .cjoin a => some (.word (1600#13 ++ a ++ 111#13))
  | .cleave => some (.word (872415343#32))
  | .binit b a => some (.word (32#7 ++ b ++ a ++ 111#13))
  | .barrive b a => some (.word (33#7 ++ b ++ a ++ 111#13))
  | .bwait a d => some (.word (2176#13 ++ a ++ d ++ 111#7))
  | .bread a d => some (.word (2240#13 ++ a ++ d ++ 111#7))
  | .rdwp b d => some (.word (640#11 ++ b ++ 0#6 ++ d ++ 111#7))
  | .rwr b a => some (.word (48#7 ++ b ++ a ++ 111#13))
  | .mld p s a d => some (.word (p ++ 0#5 ++ s ++ 7#3 ++ a ++ d ++ 113#7))
  | .mst p i s a d => some (.word (p ++ i ++ 1#4 ++ s ++ 7#3 ++ a ++ d ++ 113#7))
  | .mldf s a d => some (.word (2#11 ++ s ++ 7#3 ++ a ++ d ++ 113#7))
  | .mstf i s a d => some (.word (0#6 ++ i ++ 3#4 ++ s ++ 7#3 ++ a ++ d ++ 113#7))
  | .ald p s a d => some (.word (p ++ 4#5 ++ s ++ 7#3 ++ a ++ 0#2 ++ d ++ 113#7))
  | .ast p i s a d => some (.word (p ++ i ++ 5#4 ++ s ++ 7#3 ++ a ++ 0#2 ++ d ++ 113#7))
  | .mma b a d => some (.word (0#10 ++ b ++ a ++ 0#2 ++ d ++ 115#7))
  | .mmaz b a d => some (.word (32#10 ++ b ++ a ++ 0#2 ++ d ++ 115#7))
  | .mdrain a d => some (.word (8192#17 ++ a ++ d ++ 115#7))
  | .aclr d => some (.word (393216#22 ++ d ++ 115#7))
  | .mmul b a d => some (.word (128#10 ++ b ++ a ++ d ++ 115#7))
  | .madd b a d => some (.word (160#10 ++ b ++ a ++ d ++ 115#7))
  | .maddDn b a d => some (.word (161#10 ++ b ++ a ++ d ++ 115#7))
  | .mrecomp a d => some (.word (6144#15 ++ a ++ d ++ 115#7))
  | .mfact a d => some (.word (7168#15 ++ a ++ d ++ 115#7))
  | .mdens a d => some (.word (8192#15 ++ a ++ d ++ 115#7))
  | .mmov a d => some (.word (9216#15 ++ a ++ d ++ 115#7))
  | .mtr a d => some (.word (10240#15 ++ a ++ d ++ 115#7))
  | .mzero d => some (.word (360448#20 ++ d ++ 115#7))
  | .xcopy h b a => some (.word (h ++ 0#11 ++ b ++ a ++ 117#7))
  | .xrepack h b a => some (.word (h ++ 64#11 ++ b ++ a ++ 117#7))
  | .xtr h b a => some (.word (h ++ 128#11 ++ b ++ a ++ 117#7))
  | .xcvt h b a => some (.word (h ++ 192#11 ++ b ++ a ++ 117#7))
  | .xexp h b a => some (.word (h ++ 256#11 ++ b ++ a ++ 117#7))
  | .xmcast h e b a => some (.word (h ++ 5#5 ++ e ++ b ++ a ++ 117#7))
  | .exit => some (.word (119#32))
  | .emit a => some (.word (64#13 ++ a ++ 119#13))
  | .idem => some (.word (67108983#32))
  | .nopre a => some (.word (192#13 ++ a ++ 119#13))
  | .rng b a d => some (.word (4#7 ++ b ++ a ++ d ++ 119#7))
  | .caddN128 b a d => some (.word (5#7 ++ b ++ a ++ d ++ 119#7))
  | .bkpt i => some (.word (8#7 ++ i ++ 119#19))
  | .tret => some (.word (301990007#32))
  | .tstamp d => some (.word (40960#19 ++ d ++ 119#7))
  | .coreid d => some (.word (45056#19 ++ d ++ 119#7))
  | .czcmdComplete => none
  | .replayRefused => none
  | .commandCrcFailure => none
  | .sendPermitReturn => none
  | .peerAccess => none
  | .controlCoreAccess => none
  | .queueOwnerAssign => none

end Sys2Proof
end

