-- ==== Sys2Proof/Config.lean ====
section
/-! DEFINITION. What one implementation or the outside world fixes and the spec leaves open: free values, with no body, so
that no statement can rest on one. Counted values are applied to `State.free` (log 1). -/

namespace Sys2Proof.Config

/-- Data read from a PCIe adapter, a peer device or control space, whose behaviour the spec does not give (log 8). -/
opaque freeWord : Nat → BitVec 32

/-- Whether a PCIe adapter completes an AtomicOp successfully (R120, log 8). -/
opaque freeOk : Nat → Bool

/-- Which of two values a granule receives where an operation's own footprints overlap (R297, log 9). -/
opaque freeEarlier : Nat → Bool

/-- SHA-384 (R377, R378, R383, log 10). -/
opaque sha384 : List Byte → BitVec 384

/-- The device attestation key's signature, r and s (R378, log 10). -/
opaque signature : List Byte → BitVec 768

/-- The stack's row of a granule address (R371, log 8). -/
opaque stackRow : Nat → BitVec 30

/-- The device serial number (R378). -/
opaque serial : BitVec 128

/-- The MAC address that Osmium derives from the serial number (R379, log 10). -/
opaque mac : BitVec 128 → BitVec 48

end Sys2Proof.Config
end

