-- ==== Sys2Proof/Machine/State.lean ====
section
/-! DEFINITION. The state of the device as plain data: everything the spec gives the machine, one field for each piece of
INVENTORY.md's State heading. Families of like things that are mostly empty (cores, crews, registers, lines) are lists
of keyed entries; an absent key reads as the reset value that the accessor in Machine/Maps.lean gives. -/

namespace Sys2Proof.Machine

/-- Keyed entries in rising order of key. -/
abbrev Map (α : Type) := List (Nat × α)

/-! ### Faults, refusals, causes -/

/-- Reasons for which the model itself stops. None of them is a trap of the spec: traps are next states. -/
inductive Fault where
  /-- An instruction was asked to run while no pod is issuing. Raised by every instruction's meaning when called
  outside a step. Safe: a step always selects the pod first (R166). -/
  | noPod
  /-- A step of the device was asked for without its operands. Raised by every such step's meaning. Safe: the move
  that names the step carries them. -/
  | noArg
  /-- A step of the device was asked for in a state in which its rule does not let it happen, or naming a unit that
  is not there. Raised by the steps' meanings. Safe: the device takes no such step. -/
  | notEnabled
  deriving DecidableEq, Repr

/-- Reasons for which an instruction has no meaning in the model. -/
inductive Refusal where
  /-- The instruction has no meaning yet. Raised by its arm of `exec` only. Safe: nothing is claimed about it. -/
  | notModelled (mnemonic : String)
  deriving DecidableEq, Repr

/-- Trap causes (R310). -/
inductive Cause where
  | und | ill | conv | align | page | perm | chk | rank | slab | barto | dbl | esc | hbmue | stack | bkpt
  deriving DecidableEq, Repr

/-! ### Threads and waves -/

/-- What a thread waits for (R166, R350). -/
inductive Hold where
  /-- Ready to issue. -/
  | ready
  /-- Arrived at mask `q` by `join` (R169). -/
  | join (q : Nat)
  /-- Arrived at mask `q` by `wait`, with predicate `pd`; the count runs out at cycle `expiry` (R171). -/
  | wait (q : Nat) (pd : Nat) (expiry : Nat)
  /-- Arrived at the crew barrier (R260). -/
  | cbar
  /-- Blocked in `bwait` on the barrier object at a scratchpad offset, with destination `d` (R262). -/
  | bwait (off : Nat) (d : Nat)
  /-- Attached to an open fault record (R44), with the address of the fault. -/
  | replay (uid : Nat) (va : Nat)
  /-- Held at `cjoin`, `cleave` or `emit` until room frees (R175, R181). -/
  | room
  /-- At an `emit` that has taken the thread's record and is held: the lanes of the pod that it waits for, the thread's own where
  its record filled a bin whose wave has no room (R181). -/
  | emitted (lanes : BitVec 32)
  /-- Held at an asynchronous issue or a remote write (R125, R352). -/
  | engine
  /-- Held because another pod of the wave is in the handler (R315). -/
  | handler
  /-- In the trapping pod of a breakpoint stop (R317). -/
  | bkpt
  deriving DecidableEq, Repr

/-- One thread (R160). -/
structure Thread where
  id       : Nat
  rank     : Nat
  pc       : VAddr
  stack    : List (BitVec 64)
  depth    : Nat
  entDepth : Nat
  drop     : Bool
  shDepth  : Nat
  hold     : Hold
  last     : Nat
  deriving DecidableEq, Repr

/-- A lane mask: member and arrival sets (R169). -/
structure Mask where
  member  : BitVec 32
  arrived : BitVec 32
  deriving DecidableEq, Repr

/-- A multiply-accumulate that has not run all its k-steps (R285): those completed, its PC, and whether the engine runs it; one of
a crew that was stopped or saved runs again when it issues. -/
structure Mma where
  steps : Nat
  pc    : VAddr
  runs  : Bool
  deriving DecidableEq, Repr

/-- One wave (R164). Vector registers are keyed by 32 × register + lane. `landed` counts the deposits of this cycle (R202);
`recs` holds, by lane, the layout records that an asynchronous instruction read before it was held for the engine: they are read
once (R300, R304). -/
structure Wave where
  crew      : Nat
  threads   : Map Thread
  v         : Map GUnit
  s         : Map GUnit
  p         : Map (BitVec 32)
  q         : Map Mask
  arrive    : BitVec 32
  idempc    : BitVec 64
  chkinfo   : BitVec 64
  chkaddr   : BitVec 64
  trapcause : BitVec 64
  trappc    : BitVec 64
  trapaddr  : BitVec 64
  ehbase    : BitVec 64
  entered   : BitVec 32
  sel       : VAddr
  quant     : Nat
  quantum   : Nat
  nprem     : Nat
  lls       : Nat
  idemAcc   : Nat
  idemSince : Option Nat
  parity    : List Nat
  mma       : Option Mma
  heldAt    : Option Nat
  lastIssue : Nat
  landed    : Nat
  recs      : Map (List Word)
  deriving DecidableEq, Repr

/-! ### Crews -/

/-- The trap of an early stop that no instruction has observed (R130). -/
structure Stop where
  cause : Cause
  ecause : Nat
  site  : Nat
  syn   : BitVec 8
  addr  : Option Nat
  bar   : Option Nat
  deriving DecidableEq, Repr

/-- A matrix register: TDESC and the image's units (R266, R268). -/
structure MReg where
  desc : BitVec 64
  img  : List GUnit
  deriving DecidableEq, Repr

/-- An accumulator, keyed by 64 × row + column (R194). A k-step completes within a step, so this is the checkpoint of R285
too. -/
structure Acc where
  el : Map GUnit
  deriving DecidableEq, Repr

/-- The crew barrier's phase (R260) and the watchdog's count (R365). -/
structure CrewBar where
  count   : Nat
  arrived : Nat
  firstPc : VAddr
  wdAcc   : Nat
  wdSince : Option Nat
  deriving DecidableEq, Repr

/-- Where a crew is in its life on the core (R317, R351, R359, R362). -/
inductive Phase where
  | run
  | stopped
  | shadow
  /-- A rollback is due (R362), for a fault of the wave in a slot. -/
  | rollback (slot : Nat)
  | capture (method : Nat)
  | ended
  deriving DecidableEq, Repr

/-- The part of a crew that a shadow records and a rollback restores (R359, R362). `parity` numbers the crew's control
registers and tile descriptors whose parity is bad (R60). -/
structure CrewBody where
  quantum : Nat
  binto   : Nat
  ab      : List VAddr
  tol     : BitVec 64
  maxrank : Nat
  mregs   : Map MReg
  accs    : Map Acc
  touched : BitVec 2048
  bar     : Option CrewBar
  stops   : Map Stop
  parity  : List Nat
  deriving DecidableEq, Repr

/-- A continuation record in a bin (R180): 16 units, the entry PC in the first two. -/
structure Bin where
  crew  : Nat
  pc    : VAddr
  recs  : List (List GUnit)
  since : Nat
  limit : Nat
  flush : Bool
  stamp : Nat
  deriving DecidableEq, Repr

/-- A barrier-interval shadow whose record stands in the crew's slot (R359, R360): what the record's layout has no room for,
the slots of its waves, the numbers of its bins, and the PC of the phase's first arrival. -/
structure Shadow where
  slots   : List Nat
  bins    : List Nat
  firstPc : VAddr
  deriving DecidableEq, Repr

/-- The allocation a crew declares (R174, R190, R328). -/
structure Decl where
  vregs : Nat
  sregs : Nat
  acc   : Nat
  lines : Nat
  slabq : Nat
  waves : Nat
  deriving DecidableEq, Repr

/-- A granule outside scratchpad that a channel's operation has written and no completion has shown to the issuing thread
(R114, R131): channel, barrier object, physical address. -/
structure Unseen where
  chan : Nat
  bar  : Option Nat
  pa   : Nat
  deriving DecidableEq, Repr

/-- One crew of a core's crew table (R174). -/
structure Crew where
  ctx       : Nat
  node      : Nat
  cidx      : Nat
  prio      : Nat
  setn      : Nat
  fuse      : Bool
  audit     : Option Nat
  replay    : Option Nat
  decl      : Decl
  body      : CrewBody
  barto     : Nat
  spad      : Map GUnit
  base      : Nat
  interval  : BitVec 2048
  wp        : List Nat
  escaped   : Bool
  retry     : Bool
  lastBad   : Option Nat
  issued    : Nat
  ksteps    : Nat
  bars      : Nat
  elapsed   : Nat
  since     : Nat
  phase     : Phase
  bkstop    : Option (Nat × BitVec 32)
  shadow    : Option Shadow
  slot      : Option (Nat × Nat)
  grant     : Option (Nat × Nat)
  preempt   : Option Nat
  refused   : Bool
  unseen    : List Unseen
  deriving DecidableEq, Repr

/-! ### Asynchronous operations -/

/-- A layout record (R295). -/
structure LRec where
  base    : Nat
  ndim    : Nat
  fmt     : Nat
  crcv    : Bool
  boff    : Nat
  ecrc    : BitVec 32
  sizes   : List Nat
  strides : List Int
  deriving DecidableEq, Repr

/-- The six forms of major 0x3A (R299). -/
inductive XForm where
  | copy | repack | tr | cvt | exp | mcast
  deriving DecidableEq, Repr

/-- An operation in the engine scheduler (R125, R300). `g` counts the destination granules delivered; `snap` holds what
destination granules held before the operation, where its own footprints overlap (R297); `pend` holds, for each multicast
piece, the receivers that it has not reached and its bytes; `wait` is an open fault record (R44) and the address; `got` keeps
the source granules that a consumer has read and checked, by granule address (R301); `dead` is an early stop that takes
effect once the multicast pieces already sent have arrived (log 36). -/
structure AsyncOp where
  uid     : Nat
  crew    : Nat
  ctx     : Nat
  slot    : Nat
  lane    : Nat
  tid     : Nat
  chan    : Nat
  form    : XForm
  src     : LRec
  dst     : LRec
  bar     : Option Nat
  mask    : Nat
  edges   : List Nat
  started : Bool
  g       : Nat
  snap    : Map GUnit
  pend    : List (Nat × Nat × Nat)
  wait    : Option (Nat × Nat)
  got     : Map (GUnit × Option Nat)
  dead    : Option Stop
  deriving DecidableEq, Repr

/-- A multicast piece on its way to one receiver (R132): units with their scratchpad offsets and, where it is known, the
physical address each was read from (R62). `crew` is the sender's
crew-table index and `set_` the number of its cluster set in the node. -/
structure Arrival where
  from_  : Nat
  crew   : Nat
  op     : Nat
  piece  : Nat
  ctx    : Nat
  node   : Nat
  set_   : Nat
  units  : List (Nat × GUnit × Option Nat)
  bar    : Option Nat
  last   : Option (BitVec 32)
  deriving DecidableEq, Repr

/-- A remote write on its way (R134), with the sender's core and crew-table index and its cluster set. -/
structure Deposit where
  from_ : Nat
  crew  : Nat
  ctx   : Nat
  node  : Nat
  set_  : Nat
  slot  : Nat
  reg   : Nat
  units : Map GUnit
  deriving DecidableEq, Repr

/-! ### Caches and translation -/

/-- An L1 line: tag pair (R105), the wave slot that caused the fill (R72), the CZ bit of its page (R81) and the valid
granules with their dirty bits (R71). -/
structure L1Line where
  ctx   : Nat
  bind  : Nat
  slot  : Nat
  cz    : Bool
  units : Map (GUnit × Bool)
  deriving DecidableEq, Repr

/-- An L2 line: the 32 units, their dirty bits, CZ state and window tag (R75). -/
structure L2Line where
  units : List GUnit
  dirty : BitVec 32
  cz    : Bool
  win   : Option Nat
  deriving DecidableEq, Repr

/-- A translation buffer entry (R42). -/
structure TlbEntry where
  ctx  : Nat
  text : Option Nat
  va   : Nat
  size : Nat
  pa   : Nat
  bind : Nat
  r    : Bool
  w    : Bool
  x    : Bool
  ms   : Bool
  cz   : Bool
  d    : Bool
  deriving DecidableEq, Repr

/-- An origin-buffer entry (R62): register class and number or scratchpad granule, wave slot and lane. Bit 0 of `pa` says
that the page is an MS page, so that poisoning knows its unit (R65). -/
structure Origin where
  slot : Nat
  reg  : Nat
  lane : Nat
  pa   : Nat
  deriving DecidableEq, Repr

/-- An open fault record (R44). `attached` names the accesses that hold it, by core, wave slot and lane: their number is the
device's count. -/
structure FaultRec where
  uid    : Nat
  die    : Nat
  ctx    : Nat
  page   : Nat
  access : Access
  va     : Nat
  core   : Nat
  slot   : Nat
  cond   : Nat
  level  : Nat
  attached : List (Nat × Nat × Nat)
  seq    : Option (BitVec 32)
  deriving DecidableEq, Repr

/-! ### Cores, clusters, dies -/

/-- Resources that Hazel keeps for a node's next crew on a core (R346): the declaration, and the crews, by crew-table index,
whose going frees them. -/
structure Reserve where
  node  : Nat
  decl  : Decl
  taken : List Nat
  deriving DecidableEq, Repr

/-- One core (R2). `parity` numbers its control registers whose parity is bad (R60); `decays` and `selects` count the turns
of LLS_DECAY and THROTTLE_SELECT, one for every 256 cycles (R182, R183). -/
structure Core where
  crews     : Map Crew
  waves     : Map Wave
  l1        : Map L1Line
  vta       : List (Nat × Nat)
  icache    : Map GUnit
  origin    : List Origin
  tlb       : List TlbEntry
  ops       : List AsyncOp
  arrivals  : List Arrival
  deposits  : List Deposit
  bins      : Map Bin
  misscap   : BitVec 64
  permitted : Option (List Nat)
  condemned : Bool
  testAsked : Bool
  testing   : Bool
  reserved  : List Reserve
  parity    : List Nat
  decays    : Nat
  selects   : Nat
  deriving DecidableEq, Repr

/-- A crew's record in the heap (R349, R353): its core-in-cluster (SETCORE), the run's base and length in blocks, its crew
index, how many waves and bins it holds, and, for a crew stopped at a breakpoint, the PC, the core and the lane (R317). -/
structure SavedCrew where
  setcore : Nat
  base    : Nat
  len     : Nat
  cidx    : Nat
  waves   : Nat
  bins    : Nat
  stop    : Option (VAddr × Nat × Nat)
  deriving DecidableEq, Repr

/-- A saved or flushed crew or set waiting to resume (R353), and the members of the set. -/
structure ResumeEntry where
  uid     : Nat
  ctx     : Nat
  node    : Nat
  prio    : Nat
  time    : Nat
  set     : Bool
  members : List SavedCrew
  replay  : Option Nat
  decl    : Decl
  deriving DecidableEq, Repr

/-- Commands of the command links (R335). A method is 1 save, 2 flush, 0 drain; a deadline is a time of `State.cycle`; FAULT
carries the wave's TRAPCAUSE beside its decoded cause and lane, TRAPPC and TRAPADDR. -/
inductive Cmd where
  | place (node : Nat) (members : List (Nat × Nat))
  | preempt (deadline : Nat) (crews : List (Nat × Nat × Nat))
  | cancel (ctx : Nat)
  | continue_ (core crew : Nat) (pc : Option (BitVec 64))
  | fuse | unfuse
  | test (core : Nat)
  | misscap (core : Nat) (value : BitVec 64)
  | ended (core node cidx issued ksteps bars : Nat)
  | saved (core : Nat) (entry : ResumeEntry)
  | fault (cause : Cause) (trapcause : BitVec 64) (pc : VAddr) (addr : Nat) (core lane : Nat) (ctx node : Nat) (stop : Bool)
  | condemned (core : Nat)
  deriving DecidableEq, Repr

/-- One direction of a command link (R335). `back` counts permits on their way back to the sender. -/
structure Link where
  permits : Nat
  flight  : List Cmd
  waiting : List Cmd
  back    : Nat
  fails   : Nat
  deriving DecidableEq, Repr

/-- One cluster (R2, R73, R335). -/
structure Cluster where
  fused : Bool
  tlb   : List TlbEntry
  down  : Link
  up    : Link
  out   : Bool
  deriving DecidableEq, Repr

/-- An overflow-buffer entry (R86): the parked block and whether its growth record is still to be appended. -/
structure Parked where
  block   : Nat
  units   : List GUnit
  need    : Nat
  pending : Bool
  deriving DecidableEq, Repr

/-- One memory controller (R17, R81 to R89, R371). `mcache` holds the metadata lines of 64 bytes it caches, by their number
in memory, the most recently used first (R82). -/
structure Ctl where
  mcache   : List (Nat × List GUnit)
  overflow : Map Parked
  seq      : BitVec 32
  czerr    : Bool
  czcmd    : Option (Nat × Nat)
  corr     : Nat
  uncorr   : Nat
  lastu    : Nat
  newCorr  : Nat
  newUncorr : Nat
  newLast  : Nat
  deriving DecidableEq, Repr

/-- One format window (R91) and the values that a write still completing gives it (R94). -/
structure Window where
  a    : BitVec 64
  l    : BitVec 64
  s    : BitVec 64
  next : Option (BitVec 64 × BitVec 64 × BitVec 64)
  deriving DecidableEq, Repr

/-- One die (R13). `clkAcc` and `clkAt` count its arithmetic clock (R21, R23): 2,500ths of cycles up to the last change of
rate, and when that was. -/
structure Die where
  mhz    : Nat
  clkAcc : Nat
  clkAt  : Nat
  tlb    : List TlbEntry
  poison : List Nat
  win    : Map Window
  deriving DecidableEq, Repr

/-! ### Contexts -/

/-- A context fault (R311). -/
structure FaultInfo where
  cause : Cause
  pc    : VAddr
  addr  : Nat
  core  : Nat
  lane  : Nat
  node  : Nat
  deriving DecidableEq, Repr

/-- A completion record waiting to be written (R338, R340). -/
structure Record where
  node   : Nat
  status : Nat
  late   : Bool
  cause  : Nat
  fsum   : BitVec 128
  deriving DecidableEq, Repr

/-- One context (R41) and what the supervisor's units keep for it. `ringDead` counts the records discarded since its event ring
could not be used (R340). -/
structure Ctx where
  desc      : BitVec 512
  sched     : BitVec 512
  nopre     : BitVec 64
  frcfg     : BitVec 64
  frRd      : BitVec 32
  frWr      : BitVec 32
  frIrq     : Bool
  replaySeq : BitVec 32
  diagva    : BitVec 64
  audctl    : BitVec 64
  bindings  : Map (BitVec 64)
  bindPages : Map Nat
  handler   : BitVec 64
  links     : List (Nat × Nat)
  lzb       : Nat
  syncb     : Nat
  zframe    : Nat
  measure   : BitVec 384
  partition : List Nat
  sealed    : Option (BitVec 24 × BitVec 16)
  ids       : List Nat
  idsRet    : List (Nat × Nat × Nat)
  evwr      : Nat
  pend      : List Record
  evCount   : Nat
  evOldest  : Option Nat
  ringDead  : Option Nat
  fault     : Option FaultInfo
  stopping  : Bool
  dump      : Option (List GUnit)
  auditA    : Nat
  auditWr   : Nat
  auditOver : Nat
  deriving DecidableEq, Repr

/-! ### Hazel and the signal unit -/

/-- A node record's declaration (R328). -/
structure NodeRec where
  entry   : BitVec 64
  threads : Nat
  crewsz  : Nat
  prio    : Nat
  flags   : BitVec 8
  setn    : Nat
  vregs   : Nat
  sregs   : Nat
  acc     : Nat
  spad    : Nat
  slabq   : Nat
  latb    : Nat
  pred    : Nat
  trec    : BitVec 64
  bto     : Nat
  regions : List (Nat × Nat × Nat)
  deriving DecidableEq, Repr

/-- What a node packet or a signal packet carries on (R327). -/
structure Packet where
  node   : Nat
  param  : BitVec 64
  sigva  : Nat
  sigval : BitVec 64
  sigop  : Nat
  sigsc  : Nat
  deriving DecidableEq, Repr

/-- A node in the ready pool or with crews placed (R330 to R334): `nth` numbers the queue's node packets, `placed` counts the
crews sent to Acorns in crew order, `again` names those that came back (R335), `asked` is the effective priority plus 1 at
the last pre-emption request (R334), `signal` says that its completion signal is to be written (R337). -/
structure Node where
  uid      : Nat
  ctx      : Nat
  queue    : Nat
  nth      : Nat
  pkt      : Packet
  rec_     : NodeRec
  edges    : List Nat
  ready    : Option Nat
  placed   : Nat
  again    : List Nat
  ended    : Nat
  sumI     : Nat
  sumK     : Nat
  sumB     : Nat
  late     : Bool
  asked    : Nat
  signal   : Bool
  stopped  : Bool
  replay   : Option Nat
  deriving DecidableEq, Repr

/-- A packet as read (R327). -/
inductive Pkt where
  | empty
  | node (nrec : Nat) (p : Packet)
  | wait (va : Nat) (value : BitVec 64) (cond scope : Nat)
  | signal (p : Packet)
  deriving DecidableEq, Repr

/-- A queue descriptor (R322), how many node packets the queue has given (R328), and when it was last signalled (R324). -/
structure Queue where
  ring    : Nat
  logsize : Nat
  valid   : Bool
  stopped : Bool
  waitk   : Nat
  ctx     : Nat
  read    : Nat
  nodes   : Nat
  signal  : Nat
  deriving DecidableEq, Repr

/-- What a mapped slot is doing (R324). -/
inductive SlotState where
  | idle | empty | waitHeld | signalHeld | poolFull
  deriving DecidableEq, Repr

/-- A hardware queue slot (R324). `pkt` is a packet that it has read and not consumed (R327). -/
structure Slot where
  queue  : Nat
  read   : Nat
  widx   : Nat
  since  : Nat
  state  : SlotState
  pkt    : Option Pkt
  deriving DecidableEq, Repr

/-- A wait whose word is watched or polled (R326). -/
structure Waiting where
  queue   : Nat
  va      : Nat
  pa      : Nat
  value   : BitVec 64
  cond    : Nat
  scope   : Nat
  watched : Bool
  hit     : Bool
  slot    : Option Nat
  deriving DecidableEq, Repr

/-- One thread's launch state: PC and the units of v0 upwards (R329, R336). -/
structure Launch where
  pc    : VAddr
  units : List GUnit
  deriving DecidableEq, Repr

/-- An audit in progress (R368, R369): the log copies of the footprint pages, the core on which the original runs now or
ended, the cores on which it ran, its signature, the outcome of a replay that a trap ended, and its launch state. -/
structure Audit where
  uid    : Nat
  ctx    : Nat
  node   : Nat
  nodeId : Nat
  cidx   : Nat
  core   : Nat
  pages  : List (Nat × Nat)
  sig    : Option (BitVec 32)
  fate   : Option Nat
  rec_   : NodeRec
  ran    : List Nat
  launch : List Launch
  deriving DecidableEq, Repr

/-- An access that a unit without a core makes for a context (R44): a node's completion signal, the event ring of a
context, the word of a parked or held wait, a slot's signal packet, a context's watchdog dump. -/
inductive Who where
  | node (uid : Nat)
  | events (ctx : Nat)
  | wait (queue : Nat)
  | signal (slot : Nat)
  | dump (ctx : Nat)
  deriving DecidableEq, Repr

/-- A unit's access attached to a fault record, whether the verdict was FATAL (R45), its address, and the core for which a
placement reads (R338). -/
structure UnitWait where
  who   : Who
  uid   : Nat
  fatal : Bool
  va    : Nat
  core  : Nat
  deriving DecidableEq, Repr

/-- Hazel and the signal unit (R319 to R346): `reqs` names the nodes with a pre-emption request open (R334), `granted` the
shadow slots granted and not yet taken (R360), by node and crew index. -/
structure Hazel where
  pool    : List Node
  resumes : List ResumeEntry
  reqs    : List Nat
  queues  : Map Queue
  slots   : Map Slot
  remap   : List Nat
  waits   : List Waiting
  notes   : List Nat
  audits  : List Audit
  held    : List UnitWait
  granted : List (Nat × Nat × Nat × Nat)
  deriving DecidableEq, Repr

/-! ### Supervisor registers, Osmium, the board, outputs -/

/-- Device-wide registers of control space (R49, R50, R88). -/
structure Sup where
  xlerr  : BitVec 4
  xlinva : BitVec 64
  xlinvc : Option (BitVec 64)
  grcfg  : BitVec 64
  grRd   : BitVec 32
  grWr   : BitVec 32
  grErr  : BitVec 2
  grIrq  : Bool
  deriving DecidableEq, Repr

/-- What Osmium holds (R40, R82, R319). `leaves` names the leaves that Osmium has written, by the address of the entry: the
context, the frame and its size (R374, R381); `returned` the ranges that a context returned and no wipe has reached (R374). -/
structure Osm where
  firewall : Map (BitVec 16)
  qown     : Map (BitVec 16)
  czmbase  : Map Nat
  dbbase   : Nat
  leaves   : Map (Nat × Nat × Nat)
  returned : List (Nat × Nat)
  deriving DecidableEq, Repr

/-- Boot progress (R23, R24, R377). -/
inductive Boot where
  | waitWake | boot | run | off
  deriving DecidableEq, Repr

/-- The keys that Osmium holds by life-cycle state (R375). The vendor key whose hash is fused (R377) is always there. -/
inductive Key where
  | vendorTest | attest | owner
  deriving DecidableEq, Repr

/-- An image as received (R377, R379): chunks so far, whether the last one is in, the key under which its signature verifies,
the result of its check, its measurement. -/
structure Image where
  bytes   : List Byte
  next    : Nat
  whole   : Bool
  signer  : Option Signer
  checked : Option Bool
  measure : BitVec 384
  deriving DecidableEq, Repr

/-- The board side of the package (R23, R24, R375 to R379). -/
structure Board where
  power  : Bool
  boot   : Boot
  domain : Nat
  life   : LifeCycle
  fuses  : Nat
  wiping : Bool
  keys   : List Key
  images : Map Image
  deriving DecidableEq, Repr

/-- Reports to Osmium and Pewter, as decoded fields (R372, R373). -/
inductive Report where
  | tableRegion (ctx table va : Nat)
  | tableCode (ctx table va : Nat)
  | firewall (ctx frame va : Nat)
  | czMismatch (block : Nat)
  | metaBad (block : Nat)
  | metaCode (pa : Nat)
  | poisonFull (pa : Nat)
  | condemned (core : Nat)
  | linkDead (cluster : Nat)
  | pcieExit (port pa : Nat)
  | pcieAtomic (port pa : Nat)
  | liveness (ctx pc : Nat)
  | breakpoint (ctx core lane : Nat) (pc : VAddr)
  | resumeBad (ctx base : Nat)
  | refusedAccess (unit pa : Nat)
  | auditMismatch (ctx node : Nat)
  | auditOver (ctx count : Nat)
  | machineCheck (cc : Nat) (pa : Nat)
  | discarded (ctx count : Nat)
  | uncorr (stack count : Nat)
  | refusedRequest
  deriving DecidableEq, Repr

/-- Frames that the management port sends (R378, R379). -/
inductive Frame where
  | status (seq : BitVec 32) (life : LifeCycle) (progress : Boot) (celsius : List Word) (watts : Word) (scrub : List (Nat × Nat))
      (checks : List (Nat × Bool))
  | reply (ty : BitVec 16) (seq : BitVec 32)
  | attest (seq : BitVec 32) (report : List Byte)
  | trip (die celsius time : Nat)
  deriving DecidableEq, Repr

/-- Traffic that leaves the package for a device the spec does not describe (R20, R31, R101, R120). -/
inductive Traffic where
  | read (pa : Nat)
  | write (pa : Nat) (unit : GUnit)
  | atom (pa : Nat) (op : AtomOp) (operand : List GUnit) (ms : Bool)
  | poisoned (pa : Nat)
  | poison (pa : Nat) (ms : Bool)
  deriving DecidableEq, Repr

/-- Everything that leaves the package, newest last. `rels` names the releases that the signal unit performed with completion
signals, by context, address and scope (R118). -/
structure Out where
  osm    : List Report
  pewter : List Report
  irqs   : List (Nat × Nat)
  frames : List Frame
  pcie   : List Traffic
  peer   : List Traffic
  ctrl   : List Traffic
  mchk   : List Nat
  rels   : List (Nat × Nat × Nat)
  deriving DecidableEq, Repr

/-! ### The issuing pod and the moves to come -/

/-- The pod that issues (R166): its lanes in rising order, the instruction's address, bits and length. `klim` bounds the
k-steps that an `mma` runs before a capture abandons the next one (R285). -/
structure Pod where
  core  : Nat
  slot  : Nat
  lanes : List Nat
  pc    : VAddr
  word  : BitVec 32
  len   : Nat
  klim  : Option Nat
  deriving DecidableEq, Repr

/-- What happens next: the choices that no rule fixes (which port issues, which unit of the device moves, when a line is
evicted, which bits a particle flips, how much time passes). -/
inductive Move where
  /-- The port that serves a slot of a core issues that slot's pod (R165); `busy` names the port's waves whose operands or
  resources are not available yet. -/
  | issue (core slot : Nat) (klim : Option Nat) (busy : List Nat)
  /-- A step of the device with its operands. -/
  | event (a : Arg)
  /-- Time passes. -/
  | tick (cycles : Nat)
  /-- An L1 line is evicted (R71, R115). -/
  | evict (core line : Nat)
  /-- An L2 line is evicted (R75). -/
  | evictL2 (line : Nat)
  /-- An entry of a core's (level 0), a cluster's (1) or a die's (2) translation buffer is replaced (R42). -/
  | evictTlb (level unit entry : Nat)
  /-- Bits of a granule flip in the stack (R52, R54): data and code masks, and whether the stack's own code leaves the word
  marked (R55). -/
  | flip (pa : Nat) (data : BitVec 32) (code : BitVec 8) (mark : Bool)
  /-- Bits of a granule flip in its home slice. -/
  | flipL2 (pa : Nat) (data : BitVec 32) (code : BitVec 8)
  /-- Bits of a granule flip in a core's L1. -/
  | flipL1 (core pa : Nat) (data : BitVec 32) (code : BitVec 8)
  /-- Bits of a scratchpad granule flip. -/
  | flipSpad (core crew gran : Nat) (data : BitVec 32) (code : BitVec 8)
  /-- Bits of a register's unit flip; uniform registers are numbered from 0x80 (R62). -/
  | flipReg (core slot reg lane : Nat) (data : BitVec 32) (code : BitVec 8)
  /-- Bits of an accumulator's element flip. -/
  | flipAcc (core crew acc el : Nat) (data : BitVec 32) (code : BitVec 8)
  /-- The parity of a register of a wave goes wrong (R60). -/
  | parity (core slot reg : Nat)
  /-- The parity of a crew's control register or tile descriptor goes wrong (R60). -/
  | parityCrew (core crew crn : Nat)
  /-- The parity of a core's control register goes wrong (R60). -/
  | parityCore (core crn : Nat)
  deriving DecidableEq, Repr

/-- The device. `ported` names the issue ports that have issued in this cycle, by 4 × core + port (R165). `heard` holds, by unit (R373, log 94), the units that the last load or atomic of a unit that runs code gave it (R116, R373). -/
structure State where
  mem      : List Host.Cell
  side     : List Host.Cell
  marks    : List Nat
  l2       : Map L2Line
  cores    : Map Core
  clusters : Map Cluster
  dies     : Map Die
  ctls     : Map Ctl
  ctxs     : Map Ctx
  recs     : List FaultRec
  hazel    : Hazel
  sup      : Sup
  osm      : Osm
  board    : Board
  out      : Out
  heard    : Map (List GUnit)
  pod      : Option Pod
  arg      : Arg
  agenda   : List Move
  ported   : List Nat
  kept     : List Nat
  cycle    : Nat
  stamp    : Nat
  free     : Nat
  deriving DecidableEq, Repr

/-- The device right after a cold reset (R24, R376): everything wiped, the arithmetic clocks at full rate (an absent
entry of `dies`, R21), no crew placed, waiting for WAKE. The life-cycle state is held in fuses, and the spec gives it no
value: DESIGN CHOICE manufacture with no transition used (log 2). `agenda`, `ported`, `pod`,
`arg`, `stamp` and `free` are the model's own: DESIGN CHOICE (log 1). -/
def State.reset : State where
  mem := []
  side := []
  marks := []
  l2 := []
  cores := []
  clusters := []
  dies := []
  ctls := []
  ctxs := []
  recs := []
  hazel := ⟨[], [], [], [], [], [], [], [], [], [], []⟩
  sup := ⟨0, 0, none, 0, 0, 0, 0, false⟩
  osm := ⟨[], [], [], 0, [], []⟩
  board := ⟨true, .waitWake, 0, .manufacture, 0, true, [.vendorTest], []⟩
  out := ⟨[], [], [], [], [], [], [], [], []⟩
  heard := []
  pod := none
  arg := .none
  agenda := []
  ported := []
  kept := []
  cycle := 0
  stamp := 0
  free := 0

end Sys2Proof.Machine
end

