-- ==== Sys2Proof/Machine/Maps.lean ====
section
/-! DEFINITION. Sparse maps in one canonical form (keys strictly rising), byte order and bit-field helpers, and the reset
values that absent entries of the state's lists stand for. -/

namespace Sys2Proof.Machine

/-- The entry at a key. -/
def Map.find : Map α → Nat → Option α
  | [], _ => none
  | (k, v) :: m, i => if k == i then some v else Map.find m i

/-- The entry at a key, or a default. -/
def Map.getD (m : Map α) (i : Nat) (z : α) : α := (m.find i).getD z

/-- Put an entry, keeping the keys rising. -/
def Map.set : Map α → Nat → α → Map α
  | [], i, x => [(i, x)]
  | (k, v) :: m, i, x =>
    if i < k then (i, x) :: (k, v) :: m
    else if k == i then (i, x) :: m
    else (k, v) :: Map.set m i x

/-- Remove an entry. -/
def Map.del : Map α → Nat → Map α
  | [], _ => []
  | (k, v) :: m, i => if k == i then Map.del m i else (k, v) :: Map.del m i

/-- Put an entry unless it equals what an absent key reads as. -/
def Map.put [DecidableEq α] (m : Map α) (i : Nat) (x z : α) : Map α :=
  if x = z then m.del i else m.set i x

/-- Change an entry that is present. -/
def Map.alter (m : Map α) (i : Nat) (f : α → α) : Map α :=
  m.map fun e => if e.1 == i then (e.1, f e.2) else e

/-- Change every entry. -/
def Map.mapAll (m : Map α) (f : Nat → α → α) : Map α := m.map fun e => (e.1, f e.1 e.2)

/-- The keys are strictly rising. -/
def Map.rising : Map α → Bool
  | [] => true
  | [_] => true
  | (i, _) :: (j, v) :: m => decide (i < j) && Map.rising ((j, v) :: m)

/-- Canonical form of a memory: addresses strictly rising, no entry equal to 0, which an unlisted address reads as. -/
def Memory.wf (m : List Host.Cell) : Bool := Map.rising m && m.all fun c => c.2 != 0

/-- Read a byte; an unlisted address reads 0 (R376: wiped memory holds zero units). -/
def Memory.get (m : List Host.Cell) (a : Nat) : Byte := Map.getD m a 0

/-- Write a byte, keeping the canonical form. -/
def Memory.put (m : List Host.Cell) (a : Nat) (b : Byte) : List Host.Cell := Map.put m a b 0

/-- The numbers n, n+1, ..., below n + k. -/
def span (n : Nat) : Nat → List Nat
  | 0 => []
  | k + 1 => n :: span (n + 1) k

/-- The first entry of a list of naturals that is least. -/
def least : List Nat → Option Nat
  | [] => none
  | x :: xs => match least xs with
    | none => some x
    | some y => some (if y < x then y else x)

/-- The largest, 0 of none. -/
def greatest (l : List Nat) : Nat := l.foldl Nat.max 0

/-- Little-endian bytes of a number (R5). -/
def leBytes (n : Nat) : Nat → List Byte
  | 0 => []
  | k + 1 => BitVec.ofNat 8 n :: leBytes (n / 256) k

/-- The number that little-endian bytes hold (R5). -/
def leNat : List Byte → Nat
  | [] => 0
  | b :: bs => b.toNat + 256 * leNat bs

/-- Words of a byte string, 4 bytes each, little-endian. -/
def leWords : List Byte → List Word
  | a :: b :: c :: d :: r => BitVec.ofNat 32 (leNat [a, b, c, d]) :: leWords r
  | _ => []

/-- Bits [hi:lo] of a number. -/
def field (n hi lo : Nat) : Nat := n / 2 ^ lo % 2 ^ (hi - lo + 1)

/-- Bit i of a number. -/
def bitAt (n i : Nat) : Bool := n / 2 ^ i % 2 == 1

/-- ceil(a / b). -/
def ceilDiv (a b : Nat) : Nat := (a + b - 1) / b

/-- The set bits of a lane set, ascending. -/
def lanesOf (b : BitVec 32) : List Nat := (span 0 32).filter fun i => b.getLsbD i

/-- The set of lanes of a list. -/
def laneSet (l : List Nat) : BitVec 32 := l.foldl (fun a i => a ||| (1#32 <<< i)) 0

/-- Insert in ascending order of a key. -/
def insertBy (key : α → Nat) (x : α) : List α → List α
  | [] => [x]
  | y :: l => if key x < key y then x :: y :: l else y :: insertBy key x l

/-- Stable sort in ascending order of a key. -/
def sortBy (key : α → Nat) (l : List α) : List α := l.foldl (fun acc x => insertBy key x acc) []

/-! ### Reset values of absent entries -/

/-- A core with no crew, everything wiped (R8, R376). -/
def Core.empty : Core :=
  ⟨[], [], [], [], [], [], [], [], [], [], [], 0, none, false, false, false, [], [], 0, 0⟩

/-- A command link direction with its 16 permits (R335). -/
def Link.fresh : Link := ⟨16, [], [], 0, 0⟩

/-- An unfused cluster in placement. -/
def Cluster.empty : Cluster := ⟨false, [], .fresh, .fresh, false⟩

/-- A die at full clock (R21). -/
def Die.empty : Die := ⟨2500, 0, 0, [], [], []⟩

/-- A memory controller after the wipe. -/
def Ctl.empty : Ctl := ⟨[], [], 0, false, none, 0, 0, 0, 0, 0, 0⟩

/-- A context with no descriptor. -/
def Ctx.empty : Ctx where
  desc := 0
  sched := 0
  nopre := 0
  frcfg := 0
  frRd := 0
  frWr := 0
  frIrq := false
  replaySeq := 0
  diagva := 0
  audctl := 0
  bindings := []
  bindPages := []
  handler := 0
  links := []
  lzb := 0
  syncb := 0
  zframe := 0
  measure := 0
  partition := []
  sealed := none
  ids := []
  idsRet := []
  evwr := 0
  pend := []
  evCount := 0
  evOldest := none
  ringDead := none
  fault := none
  stopping := false
  dump := none
  auditA := 0
  auditWr := 0
  auditOver := 0

/-- A queue descriptor of zeros (R322). -/
def Queue.empty : Queue := ⟨0, 0, false, false, 0, 0, 0, 0, 0⟩

/-- A format window of zeros (R91). -/
def Window.empty : Window := ⟨0, 0, 0, none⟩

end Sys2Proof.Machine
end

