-- ==== Sys2Proof/Machine/Code.lean ====
section
/-! DEFINITION. The granule check code (R53, R157), the record CRC (R158), and units as consumers and producers see
them. -/

namespace Sys2Proof.Machine

/-- One shift of the CRC-8 register with an input bit (R157). -/
def gc8Step (c : BitVec 8) (b : Bool) : BitVec 8 :=
  if c.msb != b then (c <<< 1) ^^^ 0x2F#8 else c <<< 1

/-- The remaining `n` bits of the granule, most significant first. -/
def gc8From (g : Word) : Nat → BitVec 8 → BitVec 8
  | 0, c => c
  | n + 1, c => gc8From g n (gc8Step c (g.getLsbD n))

/-- The granule code (R53, R157). -/
def gc8 (g : Word) : BitVec 8 := gc8From g 32 0

/-- A value with its code, as a producer writes it (R55). -/
def coded (g : Word) : GUnit := ⟨g, gc8 g, false⟩

end Sys2Proof.Machine

namespace Sys2Proof
open Machine

/-- The syndrome of a unit (R53). -/
def GUnit.syn (u : GUnit) : BitVec 8 := u.code ^^^ gc8 u.data

/-- The unit passes a consumer's check: not marked, zero syndrome (R55). -/
def GUnit.ok (u : GUnit) : Bool := !u.ue && (u.code == gc8 u.data)

/-- A unit whose code marks its granule: code gc8(data) xor 0xFF (R65, R350). -/
def GUnit.spoiled (g : Word) : GUnit := ⟨g, gc8 g ^^^ 0xFF#8, false⟩

end Sys2Proof

namespace Sys2Proof.Machine

/-- One bit of CRC-32C (R158). -/
def crcBit (c : BitVec 32) : BitVec 32 :=
  if c.getLsbD 0 then (c >>> 1) ^^^ 0x82F63B78#32 else c >>> 1

/-- One byte of CRC-32C. -/
def crcByte (c : BitVec 32) (b : Byte) : BitVec 32 :=
  crcBit (crcBit (crcBit (crcBit (crcBit (crcBit (crcBit (crcBit (c ^^^ b.setWidth 32))))))))

/-- CRC-32C continued from a standard value (R158). -/
def crc32c (prev : BitVec 32) (bs : List Byte) : BitVec 32 := ~~~ (bs.foldl crcByte (~~~ prev))

/-- The four bytes of a granule, lowest address first (R5). -/
def wordBytes (w : Word) : List Byte := leBytes w.toNat 4

/-- The bytes of a list of units. -/
def unitBytes (us : List GUnit) : List Byte := us.flatMap fun u => wordBytes u.data

/-- Coded units of a byte string whose length is a multiple of 4 (R55). -/
def codedBytes (bs : List Byte) : List GUnit := (leWords bs).map coded

/-- A record of bytes with its CRC-32C appended (R44, R87, R338, R366, R370). -/
def withCrc (bs : List Byte) : List Byte := bs ++ leBytes (crc32c 0 bs).toNat 4

end Sys2Proof.Machine
end

