-- ==== Sys2Proof/Machine/Access.lean ====
section
/-! DEFINITION. Reading and changing the parts of the state by their numbers, free values, and the command links. -/

namespace Sys2Proof.Machine

/-- What a meaning answers. -/
abbrev Res := Host.Outcome State Fault Refusal

/-- Core `c` (R2). -/
def State.core (s : State) (c : Nat) : Core := s.cores.getD c .empty
/-- Replace core `c`. -/
def State.setCore (s : State) (c : Nat) (x : Core) : State := { s with cores := s.cores.set c x }
/-- Change core `c`. -/
def State.modCore (s : State) (c : Nat) (f : Core → Core) : State := s.setCore c (f (s.core c))
/-- Cluster `n` of the device, 0 to 47. -/
def State.cluster (s : State) (n : Nat) : Cluster := s.clusters.getD n .empty
/-- Change a cluster. -/
def State.modCluster (s : State) (n : Nat) (f : Cluster → Cluster) : State :=
  { s with clusters := s.clusters.set n (f (s.cluster n)) }
/-- Die `d`. -/
def State.die (s : State) (d : Nat) : Die := s.dies.getD d .empty
/-- Change a die. -/
def State.modDie (s : State) (d : Nat) (f : Die → Die) : State := { s with dies := s.dies.set d (f (s.die d)) }
/-- Controller die × 2 + c (R17, R87). -/
def State.ctl (s : State) (n : Nat) : Ctl := s.ctls.getD n .empty
/-- Change a controller. -/
def State.modCtl (s : State) (n : Nat) (f : Ctl → Ctl) : State := { s with ctls := s.ctls.set n (f (s.ctl n)) }
/-- Context `c` (R41). -/
def State.ctx (s : State) (c : Nat) : Ctx := s.ctxs.getD c .empty
/-- Change a context. -/
def State.modCtx (s : State) (c : Nat) (f : Ctx → Ctx) : State := { s with ctxs := s.ctxs.set c (f (s.ctx c)) }
/-- The wave in a slot of a core, if live. -/
def State.wave? (s : State) (c w : Nat) : Option Wave := (s.core c).waves.find w
/-- Change a wave. -/
def State.modWave (s : State) (c w : Nat) (f : Wave → Wave) : State :=
  s.modCore c fun k => { k with waves := k.waves.alter w f }
/-- The crew at a crew-table index of a core, if live. -/
def State.crew? (s : State) (c k : Nat) : Option Crew := (s.core c).crews.find k
/-- Change a crew. -/
def State.modCrew (s : State) (c k : Nat) (f : Crew → Crew) : State :=
  s.modCore c fun x => { x with crews := x.crews.alter k f }
/-- Change the parts of a crew that shadows hold. -/
def State.modBody (s : State) (c k : Nat) (f : CrewBody → CrewBody) : State :=
  s.modCrew c k fun x => { x with body := f x.body }
/-- Change a thread of a wave. -/
def Wave.modThread (w : Wave) (i : Nat) (f : Thread → Thread) : Wave := { w with threads := w.threads.alter i f }

/-- The cluster of a core (R2). -/
def clusterOf (core : Nat) : Nat := core / 4
/-- The die of a core (R2). -/
def dieOf (core : Nat) : Nat := core / 48

/-- A fresh free word (log 1, log 8). -/
def State.freeWord (s : State) : Word × State := (Config.freeWord s.free, { s with free := s.free + 1 })
/-- A fresh free choice. -/
def State.freeOk (s : State) : Bool × State := (Config.freeOk s.free, { s with free := s.free + 1 })
/-- A fresh free choice between an earlier and a later value. -/
def State.freeEarlier (s : State) : Bool × State := (Config.freeEarlier s.free, { s with free := s.free + 1 })
/-- A fresh stamp: a number that no earlier step used. -/
def State.fresh (s : State) : Nat × State := (s.stamp + 1, { s with stamp := s.stamp + 1 })

/-- The device time base in nanoseconds (R21): 0.4 ns a cycle at full rate. -/
def State.time (s : State) : Nat := s.cycle * 2 / 5

/-- Arithmetic-clock cycles of a die since the last reset, at the rates that were in force (R21): full cycles of 0.4 ns at
2,500 MHz, longer ones at lower rates. -/
def State.cyc (s : State) (d : Nat) : Nat := ((s.die d).clkAcc + (s.cycle - (s.die d).clkAt) * (s.die d).mhz) / 2500
/-- Arithmetic-clock cycles of the die that a core sits on. -/
def State.cycOf (s : State) (core : Nat) : Nat := s.cyc (dieOf core)
/-- The clock of a die changes its rate; the cycles counted so far stay (R21, R23). -/
def State.setClock (s : State) (d mhz : Nat) : State :=
  s.modDie d fun x => { x with mhz := mhz, clkAcc := x.clkAcc + (s.cycle - x.clkAt) * x.mhz, clkAt := s.cycle }

/-- Report to Osmium. -/
def State.toOsm (s : State) (r : Report) : State := { s with out := { s.out with osm := s.out.osm ++ [r] } }
/-- A machine check on a unit that runs code. -/
def State.machineCheck (s : State) (unit : Nat) : State := { s with out := { s.out with mchk := s.out.mchk ++ [unit] } }
/-- What a unit that runs code has read fails its check: a machine check on it, and a report to Osmium (R55). -/
def State.unitBad (s : State) (unit pa : Nat) : State := (s.toOsm (.machineCheck unit pa)).machineCheck unit
/-- Report to Pewter. -/
def State.toPewter (s : State) (r : Report) : State := { s with out := { s.out with pewter := s.out.pewter ++ [r] } }
/-- An interrupt message for a control core: 0 fault (R46), 1 growth (R88), 2 event (R341). -/
def State.irq (s : State) (cc kind : Nat) : State := { s with out := { s.out with irqs := s.out.irqs ++ [(cc, kind)] } }
/-- A frame leaves the management port. -/
def State.frame (s : State) (f : Frame) : State := { s with out := { s.out with frames := s.out.frames ++ [f] } }

/-! ### Command links (R335) -/

/-- Send a command: it takes a permit, or waits in order. -/
def Link.send (l : Link) (c : Cmd) : Link :=
  if l.permits > 0 && l.waiting.isEmpty then { l with permits := l.permits - 1, flight := l.flight ++ [c] }
  else { l with waiting := l.waiting ++ [c] }

/-- The receiver consumes the first command: its permit starts back. -/
def Link.consume (l : Link) : Link := { l with flight := l.flight.tail, back := l.back + 1, fails := 0 }

/-- A permit arrives back at the sender, whose next waiting command takes it. -/
def Link.permit (l : Link) : Link :=
  match l.waiting with
  | [] => { l with permits := l.permits + 1, back := l.back - 1 }
  | c :: cs => { l with flight := l.flight ++ [c], waiting := cs, back := l.back - 1 }

/-- An Acorn sends to Hazel. -/
def State.sendUp (s : State) (cl : Nat) (c : Cmd) : State := s.modCluster cl fun x => { x with up := x.up.send c }
/-- Hazel sends to an Acorn. -/
def State.sendDown (s : State) (cl : Nat) (c : Cmd) : State := s.modCluster cl fun x => { x with down := x.down.send c }

/-! ### Descriptor fields -/

/-- Bits [lo + n − 1 : lo] of a bit vector as a number. -/
def bvf {w : Nat} (x : BitVec w) (lo n : Nat) : Nat := x.toNat / 2 ^ lo % 2 ^ n

/-- GROOT (R41). -/
def Ctx.groot (c : Ctx) : Nat := bvf c.desc 0 64
/-- TROOTd (R41). -/
def Ctx.troot (c : Ctx) (d : Nat) : Nat := bvf c.desc (64 + 64 * d) 64
/-- PRIVB (R41). -/
def Ctx.privb (c : Ctx) : Nat := bvf c.desc 320 64
/-- PRIVSZ (R41). -/
def Ctx.privsz (c : Ctx) : Nat := bvf c.desc 384 8
/-- FLAGS.PCIEn (R41). -/
def Ctx.pcie (c : Ctx) (n : Nat) : Bool := c.desc.getLsbD (392 + n)
/-- FLAGS.VALIDCTX (R41). -/
def Ctx.valid (c : Ctx) : Bool := c.desc.getLsbD 394
/-- GROUP (R41). -/
def Ctx.group (c : Ctx) : Nat := bvf c.desc 400 16
/-- PEERS bit n (R41). -/
def Ctx.peer (c : Ctx) (n : Nat) : Bool := c.desc.getLsbD (448 + n)
/-- Scheduling descriptor (R323). -/
def Ctx.evbase (c : Ctx) : Nat := bvf c.sched 0 64
/-- log2 of the event ring. -/
def Ctx.evlog (c : Ctx) : Nat := bvf c.sched 64 8
/-- POLICY. -/
def Ctx.policy (c : Ctx) : Nat := bvf c.sched 72 8
/-- CNT. -/
def Ctx.cnt (c : Ctx) : Nat := bvf c.sched 80 8
/-- IRQ. -/
def Ctx.irq (c : Ctx) : Nat := bvf c.sched 88 8
/-- TIMEUS. -/
def Ctx.timeus (c : Ctx) : Nat := bvf c.sched 96 16
/-- IDLEUS. -/
def Ctx.idleus (c : Ctx) : Nat := bvf c.sched 112 16
/-- EVRD. -/
def Ctx.evrd (c : Ctx) : Nat := bvf c.sched 128 64

end Sys2Proof.Machine
end

