-- ==== Sys2Proof/Machine/Codec.lean ====
section
/-! DEFINITION. The block codec (R83): 512 units to a bit stream and back. A stream is a list of bits, bit 0 first. -/

namespace Sys2Proof.Machine

/-- `put(v, n)`: the n low bits, least significant first. -/
def putBits (v n : Nat) : List Bool := (span 0 n).map fun i => bitAt v i

/-- The number whose bits, least significant first, are given. -/
def bitsNat : List Bool → Nat
  | [] => 0
  | b :: bs => (if b then 1 else 0) + 2 * bitsNat bs

/-- The `k`-th run of `n` entries, cut from a list. -/
def chunks (n : Nat) : Nat → List α → List (List α)
  | 0, _ => []
  | k + 1, l => l.take n :: chunks n k (l.drop n)

/-- The least W in 0 to 31 with every unit's data[31:W] equal (R83). -/
def narrowW (g : List GUnit) : Nat :=
  match g with
  | [] => 0
  | u :: _ => ((span 0 32).find? fun w => g.all fun x => x.data.toNat / 2 ^ w == u.data.toNat / 2 ^ w).getD 31

/-- Equal in all 640 bits. -/
def sameGroup (a b : List GUnit) : Bool :=
  (a.map fun u => (u.data, u.code)) == (b.map fun u => (u.data, u.code))

/-- Mode of a group, given the group before it (R83). -/
def groupMode (prev : Option (List GUnit)) (g : List GUnit) : Nat :=
  if g.all fun u => u.data == 0 && u.code == 0 then 0
  else if (match prev with | some q => sameGroup q g | none => false) then 1
  else if g.all (fun u => u.data.msb) || g.all (fun u => !u.data.msb) then 2
  else 3

/-- Payload of a group in a mode (R83). -/
def groupPayload (mode : Nat) (g : List GUnit) : List Bool :=
  match mode with
  | 2 =>
    let w := narrowW g
    let d0 := (g.head?.getD .zero).data.toNat
    putBits w 5 ++ putBits (d0 / 2 ^ w) (32 - w) ++
      g.flatMap fun u => putBits u.data.toNat w ++ putBits u.code.toNat 8
  | 3 => g.flatMap fun u => putBits u.data.toNat 32 ++ putBits u.code.toNat 8
  | _ => []

/-- The modes of consecutive groups. -/
def groupModes : Option (List GUnit) → List (List GUnit) → List Nat
  | _, [] => []
  | prev, g :: gs => groupMode prev g :: groupModes (some g) gs

/-- The stream of a block of 512 units (R83). -/
def encodeBlock (us : List GUnit) : List Bool :=
  let gs := chunks 16 32 us
  let ms := groupModes none gs
  (ms.flatMap fun m => putBits m 2) ++ (ms.zip gs).flatMap fun x => groupPayload x.1 x.2

/-- `k` units of `w` data bits under shared bits, each with its code. -/
def decodeUnits (w shared : Nat) : Nat → List Bool → List GUnit × List Bool
  | 0, bs => ([], bs)
  | k + 1, bs =>
    let d := bitsNat (bs.take w)
    let c := bitsNat ((bs.drop w).take 8)
    match decodeUnits w shared k (bs.drop (w + 8)) with
    | (us, r) => (⟨BitVec.ofNat 32 (shared * 2 ^ w + d), BitVec.ofNat 8 c, false⟩ :: us, r)

/-- Decode the groups of a header; a repeat in group 0 is a decode error (R83). -/
def decodeGroups : List Nat → Option (List GUnit) → List Bool → Option (List GUnit × List Bool)
  | [], _, bs => some ([], bs)
  | m :: ms, prev, bs =>
    let one : Option (List GUnit × List Bool) :=
      match m with
      | 0 => some (List.replicate 16 .zero, bs)
      | 1 => prev.map fun g => (g, bs)
      | 2 =>
        let w := bitsNat (bs.take 5)
        some (decodeUnits w (bitsNat ((bs.drop 5).take (32 - w))) 16 (bs.drop (37 - w)))
      | _ => some (decodeUnits 32 0 16 bs)
    match one with
    | none => none
    | some (g, r) =>
      match decodeGroups ms (some g) r with
      | none => none
      | some (us, r') => some (g ++ us, r')


/-- Decode a stream held in a number of bits; `none` is a decode error: a repeat in group 0, or a stream longer than its
sectors (R83). Bits past the end of the sectors are missing, which the length test finds. -/
def decodeBlock (bs : List Bool) : Option (List GUnit) :=
  let modes := (chunks 2 32 (bs.take 64)).map bitsNat
  match decodeGroups modes none (bs.drop 64 ++ List.replicate 20480 false) with
  | none => none
  | some (us, r) => if r.length < 20480 then none else some us

/-- Bytes of a bit stream, padded with zero bits to `n` bytes (R84). -/
def streamBytes (n : Nat) (bs : List Bool) : List Byte :=
  (chunks 8 n bs).map fun b => BitVec.ofNat 8 (bitsNat b)

/-- Bits of a byte string. -/
def bytesBits (l : List Byte) : List Bool := l.flatMap fun b => putBits b.toNat 8

/-- The SIZE of a block's new form (R84): 0 for all zero, 1 to 7 sectors of 320 stream bytes, 8 for plain. -/
def blockSize (us : List GUnit) : Nat :=
  if us.all fun u => u.data == 0 && u.code == 0 then 0
  else
    let n := ceilDiv (ceilDiv (encodeBlock us).length 8) 320
    if n ≤ 7 then n else 8

end Sys2Proof.Machine
end

