-- ==== Sys2Proof/Machine/Float.lean ====
section
/-! DEFINITION. Number formats and arithmetic (R137 to R156): decoding, the one rounding, conversions, sums, products,
quotients and roots, and the group accumulation of the matrix array. Every result is an exact value rounded once. -/

namespace Sys2Proof.Machine

/-- The element formats in the order of their codes (R232). -/
inductive Fmt where
  | f32 | f16 | bf16 | f8e4 | f8e5 | ln6 | i32 | n32 | i8 | n8
  deriving DecidableEq, Repr

/-- The format of a code (R232). -/
def Fmt.ofCode : Nat → Option Fmt
  | 0 => some .f32
  | 1 => some .f16
  | 2 => some .bf16
  | 3 => some .f8e4
  | 4 => some .f8e5
  | 5 => some .ln6
  | 6 => some .i32
  | 7 => some .n32
  | 8 => some .i8
  | 9 => some .n8
  | _ => none

/-- Element width in bits (R295). -/
def Fmt.width : Fmt → Nat
  | .f32 | .i32 | .n32 => 32
  | .f16 | .bf16 => 16
  | .f8e4 | .f8e5 | .i8 | .n8 => 8
  | .ln6 => 6

/-- The parameters of a binary floating-point format (R137, R148). -/
structure Flt where
  width  : Nat
  frac   : Nat
  bias   : Nat
  inf    : Bool
  maxmag : Nat
  infmag : Nat
  nan    : Nat
  deriving DecidableEq, Repr

/-- The floating-point formats (R137) and their default NaNs (R146). -/
def Fmt.flt? : Fmt → Option Flt
  | .f32 => some ⟨32, 23, 127, true, 0x7F7FFFFF, 0x7F800000, 0x7FC00000⟩
  | .f16 => some ⟨16, 10, 15, true, 0x7BFF, 0x7C00, 0x7E00⟩
  | .bf16 => some ⟨16, 7, 127, true, 0x7F7F, 0x7F80, 0x7FC0⟩
  | .f8e4 => some ⟨8, 3, 7, false, 0x7E, 0x7E, 0xFF⟩
  | .f8e5 => some ⟨8, 2, 15, true, 0x7B, 0x7C, 0x7E⟩
  | _ => none

/-- binary32. -/
def flt32 : Flt := ⟨32, 23, 127, true, 0x7F7FFFFF, 0x7F800000, 0x7FC00000⟩
/-- binary16. -/
def flt16 : Flt := ⟨16, 10, 15, true, 0x7BFF, 0x7C00, 0x7E00⟩
/-- bfloat16. -/
def fltB16 : Flt := ⟨16, 7, 127, true, 0x7F7F, 0x7F80, 0x7FC0⟩

/-- Classes of a decoded value (R149). -/
inductive Cls where
  | zero | finite | inf | nan
  deriving DecidableEq, Repr

/-- A decoded value: class, sign, and magnitude m × 2^e (R149). -/
structure Dec where
  cls : Cls
  s   : Bool
  m   : Nat
  e   : Int
  deriving DecidableEq, Repr

/-- A code with its sign bit. -/
def Flt.sign (F : Flt) (s : Bool) (mag : Nat) : Nat := if s then mag + 2 ^ (F.width - 1) else mag

/-- Rounding modes: 0 nearest even, 1 toward zero, 2 toward −∞, 3 toward +∞ (R144). -/
def roundsUp (rm : Nat) (s : Bool) (t rem half : Nat) : Bool :=
  match rm with
  | 0 => decide (rem > half) || (rem == half && t % 2 == 1)
  | 1 => false
  | 2 => rem != 0 && s
  | _ => rem != 0 && !s

/-- Drop `sh` low places of m under a mode (R148). -/
def roundShift (rm : Nat) (s : Bool) (m : Nat) (sh : Int) : Nat :=
  if sh ≤ 0 then m * 2 ^ (-sh).toNat
  else
    let n := sh.toNat
    let t := m / 2 ^ n
    if roundsUp rm s t (m % 2 ^ n) (2 ^ (n - 1)) then t + 1 else t

/-- `round_fp` (R148), for m > 0. -/
def roundFp (F : Flt) (s : Bool) (m : Nat) (e : Int) (rm : Nat) (sat : Bool) : Nat :=
  let k : Int := (Nat.log2 m : Int) + e
  let q : Int := max k (1 - (F.bias : Int))
  let t := roundShift rm s m (q - F.frac - e)
  let mag := (q + F.bias - 1).toNat * 2 ^ F.frac + t
  if mag > F.maxmag then
    if sat || !F.inf then F.sign s F.maxmag
    else if rm == 0 || (rm == 2 && s) || (rm == 3 && !s) then F.sign s F.infmag
    else F.sign s F.maxmag
  else F.sign s mag

/-- The table T of R138. -/
def lnT : Nat → Nat
  | 0 => 0x8000
  | 1 => 0x9838
  | 2 => 0xB505
  | _ => 0xD745

/-- Decode a floating-point code (R149). -/
def Flt.decode (F : Flt) (x : Nat) : Dec :=
  let s := bitAt x (F.width - 1)
  let fr := x % 2 ^ F.frac
  let fld := x % 2 ^ (F.width - 1) / 2 ^ F.frac
  let ones := 2 ^ (F.width - 1 - F.frac) - 1
  if !F.inf && x % 2 ^ (F.width - 1) == 0x7F then ⟨.nan, s, 0, 0⟩
  else if F.inf && fld == ones then (if fr == 0 then ⟨.inf, s, 0, 0⟩ else ⟨.nan, s, 0, 0⟩)
  else if fld == 0 then
    if fr == 0 then ⟨.zero, s, 0, 0⟩ else ⟨.finite, s, fr, 1 - (F.bias : Int) - F.frac⟩
  else ⟨.finite, s, fr + 2 ^ F.frac, (fld : Int) - F.bias - F.frac⟩

/-- The signed value of the low w bits. -/
def toSigned (w x : Nat) : Int :=
  let y := x % 2 ^ w
  if y < 2 ^ (w - 1) then (y : Int) else (y : Int) - 2 ^ w

/-- Decode an integer value. -/
def decInt (v : Int) : Dec := ⟨if v = 0 then .zero else .finite, decide (v < 0), v.natAbs, 0⟩

/-- `decode` (R149) with the substitutions of R143. -/
def Fmt.decode (F : Fmt) (x : Nat) : Dec :=
  match F with
  | .ln6 =>
    let M := x % 32
    if M == 0 then ⟨.zero, false, 0, 0⟩ else ⟨.finite, bitAt x 5, lnT (M % 4), (M / 4 : Nat) - 19⟩
  | .i32 => decInt (toSigned 32 x)
  | .n32 => decInt ((x % 2 ^ 32 : Nat) : Int)
  | .i8 => decInt (toSigned 8 x)
  | .n8 => decInt ((x % 256 : Nat) : Int)
  | .f32 => flt32.decode x
  | .f16 => flt16.decode x
  | .bf16 => fltB16.decode x
  | .f8e4 => (⟨8, 3, 7, false, 0x7E, 0x7E, 0xFF⟩ : Flt).decode x
  | .f8e5 => (⟨8, 2, 15, true, 0x7B, 0x7C, 0x7E⟩ : Flt).decode x

/-- Round a decoded value to a floating-point format (R145, R146, R150). -/
def Flt.encode (F : Flt) (rm : Nat) (sat : Bool) (d : Dec) : Nat :=
  match d.cls with
  | .nan => F.nan
  | .inf => F.sign d.s (if F.inf then F.infmag else F.maxmag)
  | .zero => F.sign d.s 0
  | .finite => roundFp F d.s d.m d.e rm sat

/-- `exact_add` (R155): the exact sum in sign and magnitude. -/
def exactAdd (sa : Bool) (ma : Nat) (ea : Int) (sb : Bool) (mb : Nat) (eb : Int) : Bool × Nat × Int :=
  let e := min ea eb
  let x : Int := (ma * 2 ^ (ea - e).toNat : Nat)
  let y : Int := (mb * 2 ^ (eb - e).toNat : Nat)
  let v := (if sa then -x else x) + (if sb then -y else y)
  (decide (v < 0), v.natAbs, e)

/-- The exact sum of two decoded values, rounded once (R145); zero signs as R146. -/
def Flt.add (F : Flt) (rm : Nat) (a b : Dec) : Nat :=
  match a.cls, b.cls with
  | .nan, _ => F.nan
  | _, .nan => F.nan
  | .inf, .inf => if a.s = b.s then F.sign a.s F.infmag else F.nan
  | .inf, _ => F.sign a.s F.infmag
  | _, .inf => F.sign b.s F.infmag
  | _, _ =>
    match exactAdd a.s a.m a.e b.s b.m b.e with
    | (s, m, e) =>
      if m = 0 then F.sign (if a.s = b.s then a.s else rm == 2) 0 else roundFp F s m e rm false

/-- Change the sign. -/
def Dec.neg (d : Dec) : Dec := { d with s := !d.s }

/-- The exact product of two decoded values (R153), with a scale. -/
def Dec.mul (a b : Dec) (sc : Int) : Dec :=
  match a.cls, b.cls with
  | .nan, _ => ⟨.nan, false, 0, 0⟩
  | _, .nan => ⟨.nan, false, 0, 0⟩
  | .inf, .zero => ⟨.nan, false, 0, 0⟩
  | .zero, .inf => ⟨.nan, false, 0, 0⟩
  | .inf, _ => ⟨.inf, a.s != b.s, 0, 0⟩
  | _, .inf => ⟨.inf, a.s != b.s, 0, 0⟩
  | .zero, _ => ⟨.zero, a.s != b.s, 0, 0⟩
  | _, .zero => ⟨.zero, a.s != b.s, 0, 0⟩
  | .finite, .finite => ⟨.finite, a.s != b.s, a.m * b.m, a.e + b.e + sc⟩

/-- The quotient, as infinitely precise (R225): 64 quotient places and a sticky bit. -/
def Dec.div (a b : Dec) : Dec :=
  let s := a.s != b.s
  match a.cls, b.cls with
  | .nan, _ => ⟨.nan, false, 0, 0⟩
  | _, .nan => ⟨.nan, false, 0, 0⟩
  | .inf, .inf => ⟨.nan, false, 0, 0⟩
  | .zero, .zero => ⟨.nan, false, 0, 0⟩
  | .inf, _ => ⟨.inf, s, 0, 0⟩
  | _, .inf => ⟨.zero, s, 0, 0⟩
  | .zero, _ => ⟨.zero, s, 0, 0⟩
  | .finite, .zero => ⟨.inf, s, 0, 0⟩
  | .finite, .finite =>
    let n := a.m * 2 ^ 64
    ⟨.finite, s, 2 * (n / b.m) + (if n % b.m = 0 then 0 else 1), a.e - b.e - 65⟩

/-- Integer square root, bit by bit from bit n − 1 downwards. -/
def isqrtFrom (x : Nat) : Nat → Nat → Nat
  | 0, r => r
  | n + 1, r => isqrtFrom x n (if (r + 2 ^ n) * (r + 2 ^ n) ≤ x then r + 2 ^ n else r)

/-- The square root, as infinitely precise (R226). -/
def Dec.sqrt (a : Dec) : Dec :=
  match a.cls with
  | .nan => a
  | .zero => a
  | .inf => if a.s then ⟨.nan, false, 0, 0⟩ else a
  | .finite =>
    if a.s then ⟨.nan, false, 0, 0⟩
    else
      let odd := a.e % 2
      let m := a.m * 2 ^ odd.toNat * 2 ^ 80
      let r := isqrtFrom m 56 0
      ⟨.finite, false, 2 * r + (if r * r = m then 0 else 1), (a.e - odd) / 2 - 41⟩

/-- f32 operations on register words (R225 to R228). -/
def fadd32 (rm : Nat) (a b : Word) : Word :=
  BitVec.ofNat 32 (flt32.add rm (flt32.decode a.toNat) (flt32.decode b.toNat))
/-- a − b. -/
def fsub32 (rm : Nat) (a b : Word) : Word :=
  BitVec.ofNat 32 (flt32.add rm (flt32.decode a.toNat) (flt32.decode b.toNat).neg)
/-- a × b. -/
def fmul32 (rm : Nat) (a b : Word) : Word :=
  BitVec.ofNat 32 (flt32.encode rm false ((flt32.decode a.toNat).mul (flt32.decode b.toNat) 0))
/-- a ÷ b. -/
def fdiv32 (rm : Nat) (a b : Word) : Word :=
  BitVec.ofNat 32 (flt32.encode rm false ((flt32.decode a.toNat).div (flt32.decode b.toNat)))
/-- √a. -/
def fsqrt32 (rm : Nat) (a : Word) : Word :=
  BitVec.ofNat 32 (flt32.encode rm false (flt32.decode a.toNat).sqrt)
/-- a × b + c, rounded once (R228). -/
def ffma32 (rm : Nat) (a b c : Word) : Word :=
  BitVec.ofNat 32 (flt32.add rm ((flt32.decode a.toNat).mul (flt32.decode b.toNat) 0) (flt32.decode c.toNat))

/-- A paired 16-bit operation on both elements (R227). -/
def pair16 (F : Flt) (mul : Bool) (rm : Nat) (a b : Word) : Word :=
  let one (x y : Nat) : Nat :=
    if mul then F.encode rm false ((F.decode x).mul (F.decode y) 0) else F.add rm (F.decode x) (F.decode y)
  let lo := one (a.toNat % 65536) (b.toNat % 65536)
  let hi := one (a.toNat / 65536) (b.toNat / 65536)
  BitVec.ofNat 32 (lo + 65536 * hi)

/-- The word is an f32 NaN. -/
def isNan32 (a : Word) : Bool := (flt32.decode a.toNat).cls == .nan

/-- The order of f32 codes other than NaNs, −0 below +0. -/
def key32 (a : Word) : Int := if a.msb then -((a.toNat % 2 ^ 31 : Nat) : Int) - 1 else (a.toNat : Int)

/-- The numeric order of f32 codes other than NaNs, −0 equal to +0 (R229). -/
def num32 (a : Word) : Int := if a.msb then -((a.toNat % 2 ^ 31 : Nat) : Int) else (a.toNat : Int)

/-- `fmin` and `fmax` (R226). -/
def fminmax32 (mx : Bool) (a b : Word) : Word :=
  if isNan32 a && isNan32 b then 0x7FC00000
  else if isNan32 a then b
  else if isNan32 b then a
  else if mx then (if key32 a < key32 b then b else a) else (if key32 b < key32 a then b else a)

/-! ### Conversions -/

/-- Conversion of a finite nonzero value to ln6 (R151). `l` is the floor of log₂ |x|⁸. -/
def lnRound (rm : Nat) (s : Bool) (m : Nat) (e : Int) : Nat :=
  let l : Int := (Nat.log2 (m ^ 8) : Int) + 8 * e
  let up := (rm == 3 && !s) || (rm == 2 && s)
  let M : Int :=
    if rm == 0 then (l + 33) / 2
    else if up then
      let lc : Int := if m ^ 8 = 2 ^ Nat.log2 (m ^ 8) then l else l + 1
      max ((lc + 33) / 2) 1
    else (l + 32) / 2
  let M := (min (max M 0) 31).toNat
  if M = 0 then 0 else (if s then 32 else 0) + M

/-- A finite value rounded to an integer under a mode (R150). -/
def intRound (rm : Nat) (s : Bool) (m : Nat) (e : Int) : Int :=
  let t : Int := (roundShift rm s m (-e) : Nat)
  if s then -t else t

/-- The range of an integer format. -/
def Fmt.range : Fmt → Int × Int
  | .i32 => (-2147483648, 2147483647)
  | .n32 => (0, 4294967295)
  | .i8 => (-128, 127)
  | _ => (0, 255)

/-- The code of an integer saturated to a format. -/
def Fmt.satInt (F : Fmt) (v : Int) : Nat :=
  (min (max v F.range.1) F.range.2 % 2 ^ F.width).toNat

/-- A decoded value in a target format (R150, R151). `sat` is the saturation of R142. -/
def Fmt.encode (G : Fmt) (rm : Nat) (sat : Bool) (d : Dec) : Nat :=
  match G.flt? with
  | some F => F.encode rm sat d
  | none =>
    match G, d.cls with
    | .ln6, .finite => lnRound rm d.s d.m d.e
    | .ln6, .inf => (if d.s then 32 else 0) + 31
    | .ln6, _ => 0
    | _, .zero => 0
    | _, .nan => 0
    | _, .inf => G.satInt (if d.s then G.range.1 else G.range.2)
    | _, .finite => G.satInt (intRound rm d.s d.m d.e)

/-- Conversion between formats (R150). -/
def convert (src dst : Fmt) (rm x : Nat) : Nat := dst.encode rm false (src.decode x)

/-- Apply a block scale exactly (R142): zero, infinity and NaN keep their class. -/
def Dec.scale (d : Dec) (sc : Int) : Dec := { d with e := if d.cls == .finite then d.e + sc else d.e }

/-- Conversion of a scaled element (R142, R302). -/
def convertScaled (src dst : Fmt) (sc : Int) (x : Nat) : Nat := dst.encode 0 (sc != 0) ((src.decode x).scale sc)

/-- The value of a scale byte (R141, R143). -/
def scaleOf (b : Nat) : Int := if b = 0x80 then 0 else toSigned 8 b

/-! ### The group accumulation -/

/-- `product` (R153). -/
def product (Fa : Fmt) (a : Nat) (Fb : Fmt) (b : Nat) (sc : Int) : Dec :=
  if Fa = .ln6 ∧ Fb = .ln6 then
    if a % 32 = 0 ∨ b % 32 = 0 then ⟨.zero, false, 0, 0⟩
    else
      let L := a % 32 + b % 32
      ⟨.finite, bitAt a 5 != bitAt b 5, lnT (L % 4), (L / 4 : Nat) - 23 + sc⟩
  else (Fa.decode a).mul (Fb.decode b) sc

/-- trunc(m × 2^k). -/
def truncShift (m : Nat) (k : Int) : Nat := if k ≥ 0 then m * 2 ^ k.toNat else m / 2 ^ (-k).toNat

/-- A format whose group saturates at the rounding (R155). -/
def Fmt.saturates : Fmt → Bool
  | .f8e4 | .f8e5 | .i8 | .ln6 => true
  | _ => false

/-- The larger of an optional and an integer. -/
def maxOpt (o : Option Int) (x : Int) : Option Int :=
  match o with
  | none => some x
  | some y => some (max x y)

/-- `kstep` (R155): one group of products onto an accumulator element. A product is given by its two codes and scale
sum. -/
def kstep (acc : Word) (Fa Fb : Fmt) (xs : List (Nat × Nat × Int)) : Word :=
  let sat := Fa.saturates || Fb.saturates
  let a := flt32.decode acc.toNat
  let ps := xs.map fun x => product Fa x.1 Fb x.2.1 x.2.2
  let nan := a.cls == .nan || ps.any fun p => p.cls == .nan
  let pinf := (a.cls == .inf && !a.s) || ps.any fun p => p.cls == .inf && !p.s
  let ninf := (a.cls == .inf && a.s) || ps.any fun p => p.cls == .inf && p.s
  if nan || (pinf && ninf) then 0x7FC00000#32
  else if pinf then 0x7F800000#32
  else if ninf then 0xFF800000#32
  else
    let fin := ps.filter fun p => p.cls == .finite
    match fin.foldl (fun o p => maxOpt o ((Nat.log2 p.m : Int) + p.e)) none with
    | none => acc
    | some E =>
      let S : Int := fin.foldl (fun t p =>
        let x : Int := (truncShift p.m (p.e - E + 40) : Nat)
        if p.s then t - x else t + x) 0
      if S = 0 then acc
      else
        match exactAdd a.s a.m a.e (decide (S < 0)) S.natAbs (E - 40) with
        | (s, m, e) => if m = 0 then 0#32 else BitVec.ofNat 32 (roundFp flt32 s m e 0 sat)

end Sys2Proof.Machine
end

