-- ==== Sys2Proof/Machine/Mem.lean ====
section
/-! DEFINITION. Device memory from the stacks to the L1s: HBM units and marks (R55), compressed blocks (R81 to R90), L2
home slices (R75, R76), poison (R65), format windows (R93), far atomic units (R77, R78), L1 lines (R71, R73), and the
release and acquire actions (R117). -/

namespace Sys2Proof.Machine

/-! ### HBM -/

/-- Size of HBM in bytes (R18). -/
def hbmSize : Nat := 2 ^ 39
/-- The owning die of an HBM address (R18). -/
def dieOfPa (pa : Nat) : Nat := pa / 2 ^ 37
/-- The controller that serves an address, die × 2 + A[11] (R75). -/
def ctlOfPa (pa : Nat) : Nat := 2 * dieOfPa pa + pa / 2048 % 2

/-- The unit that the stack delivers for a granule (R52, R55). -/
def State.hbmUnit (s : State) (pa : Nat) : GUnit :=
  let a := pa / 4 * 4
  ⟨BitVec.ofNat 32 (leNat [Memory.get s.mem a, Memory.get s.mem (a + 1), Memory.get s.mem (a + 2), Memory.get s.mem (a + 3)]),
    Memory.get s.side (pa / 4), s.marks.contains (pa / 4)⟩

/-- Write a whole unit (R52): data, code, and the mark that a marked unit carries along. -/
def State.hbmPut (s : State) (pa : Nat) (u : GUnit) : State :=
  let a := pa / 4 * 4
  let b (i : Nat) : Byte := BitVec.ofNat 8 (u.data.toNat / 256 ^ i)
  { s with
    mem := Memory.put (Memory.put (Memory.put (Memory.put s.mem a (b 0)) (a + 1) (b 1)) (a + 2) (b 2)) (a + 3) (b 3)
    side := Memory.put s.side (pa / 4) u.code
    marks := if u.ue then (if s.marks.contains (pa / 4) then s.marks else (pa / 4) :: s.marks)
      else s.marks.filter (· != pa / 4) }

/-- Write consecutive units. -/
def State.hbmPuts (s : State) (pa : Nat) : List GUnit → State
  | [] => s
  | u :: us => State.hbmPuts (s.hbmPut pa u) (pa + 4) us

/-! ### Compression between L2 and HBM -/

/-- The physical address of a block's metadata byte (R82). -/
def State.metaPa (s : State) (blk : Nat) : Nat := s.osm.czmbase.getD (dieOfPa (blk * 2048)) 0 + blk % 2 ^ 26

/-- The unit that holds a block's metadata byte, as its controller sees it: from its cache, or from the table (R82). -/
def State.metaUnit (s : State) (blk : Nat) : GUnit :=
  let a := s.metaPa blk
  match (s.ctl (ctlOfPa (blk * 2048))).mcache.find? fun e => e.1 == a / 64 with
  | some (_, us) => us.getD (a / 4 % 16) .zero
  | none => s.hbmUnit a

/-- The metadata byte of a block (R81, R82). -/
def State.metaOf (s : State) (blk : Nat) : BitVec 8 :=
  BitVec.ofNat 8 ((s.metaUnit blk).data.toNat / 256 ^ (s.metaPa blk % 4))

/-- The controller brings a block's metadata line to the front of its cache of 2,048 lines, the least recently used line
leaving (R82). -/
def State.metaTouch (s : State) (blk : Nat) : State :=
  let l := s.metaPa blk / 64
  let c := s.ctl (ctlOfPa (blk * 2048))
  if (c.mcache.head?.map fun e => e.1) = some l then s
  else
    let us := ((c.mcache.find? fun e => e.1 == l).map fun e => e.2).getD ((span 0 16).map fun i => s.hbmUnit (64 * l + 4 * i))
    s.modCtl (ctlOfPa (blk * 2048)) fun c => { c with mcache := ((l, us) :: c.mcache.filter fun e => e.1 != l).take 2048 }

/-- SIZE. -/
def metaSize (m : BitVec 8) : Nat := m.toNat / 16
/-- ALLOT. -/
def metaAllot (m : BitVec 8) : Nat := m.toNat % 16
/-- A valid metadata byte (R81). -/
def metaValid (m : BitVec 8) : Bool :=
  decide (metaSize m ≤ 8) && decide (metaAllot m ≤ 8) && !(metaAllot m == 0 && metaSize m != 0) &&
  !(decide (1 ≤ metaSize m) && decide (metaSize m ≤ 7) && decide (metaSize m > metaAllot m)) &&
  !(metaSize m == 8 && metaAllot m != 8)
/-- A block's metadata granule passes its controller's check and its entry is valid (R81, R82). -/
def State.metaGood (s : State) (blk : Nat) : Bool := (s.metaUnit blk).ok && metaValid (s.metaOf blk)

/-- What the controller tells Osmium of a block whose metadata it reads: a granule that fails its check (R82), or an
invalid entry (R81). -/
def State.metaTell (s : State) (blk : Nat) : State :=
  if !(s.metaUnit blk).ok then s.toOsm (.metaCode (s.metaPa blk / 4 * 4))
  else if metaValid (s.metaOf blk) then s
  else s.toOsm (.metaBad (blk * 2048))

/-- Write a granule of a metadata table, and update the line in the controllers that cache it: both of a die read and write
its table, which the blocks share (R81, R82). -/
def State.metaPut (s : State) (pa : Nat) (u : GUnit) : State :=
  let t := s.hbmPut pa u
  { t with ctls := t.ctls.mapAll fun _ c => { c with
      mcache := c.mcache.map fun e => if e.1 = pa / 64 then (e.1, e.2.set (pa / 4 % 16) u) else e } }

/-- Set the metadata byte of a block, in the cached lines and in the table, coded anew (R82). A granule that fails its check
is left as it is (R54). -/
def State.setMeta (s : State) (blk size allot : Nat) : State :=
  let s := s.metaTouch blk
  let u := s.metaUnit blk
  let i := s.metaPa blk % 4
  let old := u.data.toNat / 256 ^ i % 256
  if (!u.ok) ∨ old = 16 * size + allot then s
  else
    s.metaPut (s.metaPa blk) (coded (BitVec.ofNat 32 (u.data.toNat - old * 256 ^ i + (16 * size + allot) % 256 * 256 ^ i)))

/-- The overflow entry that holds a block (R86). -/
def State.parked? (s : State) (blk : Nat) : Option (Nat × Parked) :=
  (s.ctl (ctlOfPa (blk * 2048))).overflow.find? fun e => e.2.block == blk

end Sys2Proof.Machine

namespace Sys2Proof
open Machine

/-- A unit that a bad block delivers (R81, R83). -/
def GUnit.bad : GUnit := ⟨0, 0, true⟩

end Sys2Proof

namespace Sys2Proof.Machine

/-- The stream bytes of a sector: 256 data bytes, then 64 side-band bytes (R84). -/
def State.sectorBytes (s : State) (a : Nat) : List Byte :=
  ((span a 256).map fun i => Memory.get s.mem i) ++ ((span (a / 4) 64).map fun i => Memory.get s.side i)

/-- Write the stream bytes of a sector. -/
def State.sectorPut (s : State) (a : Nat) (bs : List Byte) : State :=
  let m := (bs.take 256).zipIdx.foldl (fun m x => Memory.put m (a + x.2) x.1) s.mem
  let d := (bs.drop 256).zipIdx.foldl (fun m x => Memory.put m (a / 4 + x.2) x.1) s.side
  { s with mem := m, side := d, marks := s.marks.filter fun g => !(decide (a / 4 ≤ g) && decide (g < a / 4 + 64)) }

/-- Write the sectors of a stream. -/
def State.sectorsPut (s : State) (a : Nat) : Nat → List Byte → State
  | 0, _ => s
  | n + 1, bs => State.sectorsPut (s.sectorPut a (bs.take 320)) (a + 256) n (bs.drop 320)

/-- The stream of a block as stored in `n` sectors; none when a sector holds an uncorrectable burst (R83). -/
def State.storedStream (s : State) (blk n : Nat) : Option (List Bool) :=
  let a := blk * 2048
  if s.marks.any fun g => decide (a / 4 ≤ g) && decide (g < a / 4 + 64 * n) then none
  else some (bytesBits ((span 0 n).flatMap fun j => s.sectorBytes (a + 256 * j)))

/-- The 512 units of a block as the controller delivers them (R81, R83, R86). -/
def State.blockUnits (s : State) (blk : Nat) : List GUnit :=
  match s.parked? blk with
  | some (_, p) => p.units
  | none =>
    let m := s.metaOf blk
    if !s.metaGood blk then List.replicate 512 .bad
    else if metaAllot m = 0 ∨ metaSize m = 8 then (span 0 512).map fun i => s.hbmUnit (blk * 2048 + 4 * i)
    else if metaSize m = 0 then List.replicate 512 .zero
    else match s.storedStream blk (metaSize m) with
      | none => List.replicate 512 .bad
      | some bs => (decodeBlock bs).getD (List.replicate 512 .bad)

/-- Park a block in the overflow buffer with a growth record to append (R86): its own entry, or the lowest free of 64; none
when the buffer is full. An entry holds at most one pending record (R88). -/
def State.park (s : State) (blk : Nat) (us : List GUnit) (need : Nat) : Option State :=
  let n := ctlOfPa (blk * 2048)
  match s.parked? blk with
  | some (i, _) => some (s.modCtl n fun c => { c with overflow := c.overflow.set i ⟨blk, us, need, true⟩ })
  | none =>
    match (span 0 64).find? fun i => ((s.ctl n).overflow.find i).isNone with
    | none => none
    | some i => some (s.modCtl n fun c => { c with overflow := c.overflow.set i ⟨blk, us, need, true⟩ })

/-- Free the overflow entry of a block. -/
def State.unpark (s : State) (blk : Nat) : State :=
  match s.parked? blk with
  | none => s
  | some (i, _) => s.modCtl (ctlOfPa (blk * 2048)) fun c => { c with overflow := c.overflow.del i }

/-- Write a block under an allotment (R84, R86); none when it must wait for an overflow entry. -/
def State.blockWrite (s : State) (blk allot : Nat) (us : List GUnit) : Option State :=
  if allot = 0 then some (((s.unpark blk).setMeta blk 0 0).hbmPuts (blk * 2048) us)
  else
    let size := blockSize us
    if size > allot then s.park blk us size
    else
      let s := (s.unpark blk).setMeta blk size allot
      if size = 8 then some (s.hbmPuts (blk * 2048) us)
      else some (s.sectorsPut (blk * 2048) size (streamBytes (320 * size) (encodeBlock us)))

/-- The block is stored compressed or parked, so that a line of it goes through the codec (R85). -/
def State.coded? (s : State) (blk : Nat) : Bool :=
  ((s.metaUnit blk).ok && metaAllot (s.metaOf blk) != 0) || (s.parked? blk).isSome

/-- The 32 units of a line as the controller delivers them (R85). -/
def State.ctlLine (s : State) (line : Nat) : List GUnit :=
  if s.coded? (line / 16) || !s.metaGood (line / 16) then
    ((s.blockUnits (line / 16)).drop (line % 16 * 32)).take 32
  else (span 0 32).map fun i => s.hbmUnit (line * 128 + 4 * i)

/-- Merge granules of a line into the stored block (R85); none when the write must wait. What a merge makes of a block that
does not decode is the model's choice (DESIGN CHOICE, log 77): the granules of the write join a block of zero units, whose
marks the new stream does not keep, and under a metadata granule that fails its check they go to the plain layout. A merge into a
parked block leaves the SIZE that its growth record names as it was when the block was parked (R87; DESIGN CHOICE, log 110). -/
def State.ctlMerge (s : State) (line : Nat) (us : List GUnit) (dirty : BitVec 32) : Option State :=
  let s := (s.metaTouch (line / 16)).metaTell (line / 16)
  if s.coded? (line / 16) then
    let old := s.blockUnits (line / 16)
    let new := old.zipIdx.map fun x =>
      if x.2 / 32 == line % 16 && dirty.getLsbD (x.2 % 32) then (us.getD (x.2 % 32) .zero) else x.1
    match s.parked? (line / 16) with
    | some (i, p) => some (s.modCtl (ctlOfPa (line * 128)) fun c =>
        { c with overflow := c.overflow.set i { p with units := new } })
    | none => s.blockWrite (line / 16) (metaAllot (s.metaOf (line / 16))) new
  else
    some ((span 0 32).foldl (fun s i => if dirty.getLsbD i then s.hbmPut (line * 128 + 4 * i) (us.getD i .zero) else s) s)

/-! ### Format windows -/

/-- BASE, LAST, SCBASE and the fields of WINAn (R91). -/
def Window.base (w : Window) : Nat := bvf w.a 11 37
/-- LAST. -/
def Window.last (w : Window) : Nat := bvf w.l 11 37
/-- SCBASE. -/
def Window.scbase (w : Window) : Nat := bvf w.s 7 41
/-- EN. -/
def Window.en (w : Window) : Bool := w.a.getLsbD 63
/-- FMT as a code of R232. -/
def Window.fmt (w : Window) : Option Fmt :=
  match bvf w.a 60 3 with
  | 0 => some .f8e4
  | 1 => some .f8e5
  | 2 => some .ln6
  | 3 => some .i8
  | _ => none
/-- Bytes per scale, E of R93. -/
def Window.perScale (w : Window) : Nat := if bvf w.a 60 3 = 2 then 24 else 32
/-- The scale address of a data byte (R93). -/
def Window.scaleAddr (w : Window) (pa : Nat) : Nat := w.scbase * 128 + (pa - w.base * 2048) / w.perScale
/-- The window tag that a fill of a line takes (R93). -/
def State.windowTag (s : State) (line : Nat) : Option Nat :=
  (span 0 32).find? fun n =>
    let w := (s.die (dieOfPa (line * 128))).win.getD n .empty
    w.en && decide (w.base ≤ line / 16) && decide (line / 16 ≤ w.last) && line / 16 % 2 == n / 16

/-! ### L2 home slices -/

/-- Write back a line's dirty granules (R75, R85); none when the write waits for an overflow entry (R86). -/
def State.l2Back (s : State) (line : Nat) : Option State :=
  match s.l2.find line with
  | none => some s
  | some l =>
    if l.dirty = 0 then some s
    else
      match s.ctlMerge line l.units l.dirty with
      | none => none
      | some s => some { s with l2 := s.l2.alter line fun l => { l with dirty := 0 } }

/-- Write back and drop a line; the line stays when its write-back must wait (R86). -/
def State.l2Evict (s : State) (line : Nat) : State :=
  match s.l2Back line with
  | none => s
  | some s => { s with l2 := s.l2.del line }

/-- The set of a line in its home slice: die, slice A[47:11] mod 48, and one of 1,024 sets (R75). Which set of the slice a line
has is the model's choice (DESIGN CHOICE, log 78). -/
def l2Set (line : Nat) : Nat × Nat × Nat :=
  (dieOfPa (line * 128), line / 16 % 48, (line / 16 / 48 * 16 + line % 16) % 1024)

/-- Evict the first line of a list that can be written back; the others are evictions that their slice holds (R86). -/
def State.l2EvictOne (s : State) : List Nat → State
  | [] => s
  | l :: ls =>
    match s.l2Back l with
    | some t => { t with l2 := t.l2.del l }
    | none => State.l2EvictOne s ls

/-- Make room for a line in its set of 16 ways (R75): one of the lines there leaves, a free choice (log 78). -/
def State.l2Room (s : State) (line : Nat) : State :=
  let ways := (s.l2.filter fun e => l2Set e.1 == l2Set line).map fun e => e.1
  if ways.length < 16 then s
  else
    match s.freeWord with
    | (w, s) => s.l2EvictOne (ways.drop (w.toNat % 16) ++ ways.take (w.toNat % 16))

/-- The controller delivers a line to its home slice (R75, R85). -/
def State.l2Fetch (s : State) (line : Nat) (tag : Option Nat) : State :=
  let s := (s.l2Room line).metaTouch (line / 16)
  { s with l2 := s.l2.set line ⟨s.ctlLine line, 0, metaAllot (s.metaOf (line / 16)) != 0, tag⟩ }

/-- A metadata byte that disagrees with the CZ bit of the page that an access names is reported (R81); `cz` is none where the
access names no page. -/
def State.czTell (s : State) (blk : Nat) (cz : Option Bool) : State :=
  match cz with
  | some c =>
    if c == (metaAllot (s.metaOf blk) != 0) || !(s.metaUnit blk).ok then s
    else (s.toOsm (.czMismatch (blk * 2048))).toPewter (.czMismatch (blk * 2048))
  | none => s

/-- Fill one L2 line, if absent (R75, R81, R85). -/
def State.l2FillOne (s : State) (line : Nat) (cz : Option Bool) (tag : Option Nat) : State :=
  match s.l2.find line with
  | some _ => s
  | none => ((s.l2Fetch line tag).metaTell (line / 16)).czTell (line / 16) cz

/-- The scale lines that a line needs under a window (R93). -/
def State.scaleLines (s : State) (line : Nat) : Option Nat → List Nat
  | none => []
  | some n =>
    let w := (s.die (dieOfPa (line * 128))).win.getD n .empty
    let a := w.scaleAddr (line * 128) / 128
    let b := w.scaleAddr (line * 128 + 127) / 128
    span a (b - a + 1)

/-- Fill a line and, when a window tags it, every scale line it needs, untagged (R93). The line itself comes last, so that the fill
of a scale line never takes its way. -/
def State.l2Fill (s : State) (line : Nat) (cz : Option Bool) : State :=
  match s.l2.find line with
  | some _ => s
  | none =>
    let tag := s.windowTag line
    ((s.scaleLines line tag).foldl (fun s l => s.l2FillOne l none none) s).l2FillOne line cz tag

/-- Read a unit at its home slice. -/
def State.homeGet (s : State) (pa : Nat) (cz : Option Bool) : GUnit × State :=
  let s := s.l2Fill (pa / 128) cz
  match s.l2.find (pa / 128) with
  | some l => (l.units.getD (pa / 4 % 32) .zero, s)
  | none => (.zero, s)

/-- A write performed at a home slice is noticed: a doorbell word (R320), a watched wait word (R326). -/
def State.noteWrite (s : State) (pa : Nat) : State :=
  let b := s.osm.dbbase
  let q := (pa - b) / 16384
  let s :=
    if b ≤ pa ∧ pa < b + 2 ^ 30 ∧ (pa - b) % 16384 < 16 ∧ !s.hazel.notes.contains q then
      { s with hazel := { s.hazel with notes := s.hazel.notes ++ [q] } }
    else s
  { s with hazel := { s.hazel with waits := s.hazel.waits.map fun w =>
      if w.watched && w.pa / 8 == pa / 8 then { w with hit := true } else w } }

/-- A new unit ends a granule's poison (R65). -/
def State.unpoison (s : State) (pa : Nat) : State :=
  let d := dieOfPa pa
  if (s.die d).poison.contains (pa / 4 * 4) then
    s.modDie d fun x => { x with poison := x.poison.filter (· != pa / 4 * 4) }
  else s

/-- The 32 units of a line with one replaced. -/
def unitsSet (us : List GUnit) (i : Nat) (u : GUnit) : List GUnit :=
  (span 0 32).map fun j => if j = i then u else us.getD j .zero

/-- Put a unit into its L2 line, dirty. -/
def State.l2Put (s : State) (pa : Nat) (u : GUnit) (cz : Option Bool) : State :=
  let s := s.l2Fill (pa / 128) cz
  { s with l2 := s.l2.alter (pa / 128) fun l =>
      { l with units := unitsSet l.units (pa / 4 % 32) u, dirty := l.dirty ||| (1#32 <<< (pa / 4 % 32)) } }

/-- A store, copy or producer writes a unit at its home slice. -/
def State.homePut (s : State) (pa : Nat) (u : GUnit) (cz : Option Bool) : State :=
  ((s.l2Put pa u cz).unpoison pa).noteWrite pa

/-- Write consecutive units at their home slices. -/
def State.homePuts (s : State) (pa : Nat) : List GUnit → State
  | [] => s
  | u :: us => State.homePuts (s.homePut pa u none) (pa + 4) us

/-- A line that an access of a page with a CZ bit reaches is in its home slice (R81). -/
def State.homeFill (s : State) (pa : Nat) (cz : Bool) : State := s.l2Fill (pa / 128) (some cz)

/-- Read `n` consecutive units at their home slices. -/
def State.homeGets (s : State) (pa : Nat) : Nat → List GUnit × State
  | 0 => ([], s)
  | n + 1 =>
    match s.homeGet pa none with
    | (u, s) =>
      match State.homeGets s (pa + 4) n with
      | (us, s) => (u :: us, s)

/-! ### Poison -/

/-- Syndrome 0xFF at a listed address marks a poisoned granule (R65). -/
def State.poisoned (s : State) (pa : Nat) (u : GUnit) : Bool :=
  !u.ue && u.syn == 0xFF#8 && (s.die (dieOfPa pa)).poison.contains (pa / 4 * 4)

/-! ### Atomics at their unit -/

end Sys2Proof.Machine

namespace Sys2Proof
open Machine

/-- The new value of an atomic (R252); none when nothing is written. 64-bit values are given low word first. -/
def AtomOp.apply (op : AtomOp) (old : Nat) (b : List Word) : Option Nat :=
  let b0 := (b.getD 0 0)
  let b1 := (b.getD 1 0)
  let p := b0.toNat + 2 ^ 32 * b1.toNat
  let o : Word := BitVec.ofNat 32 old
  match op with
  | .addN32 => some ((old + b0.toNat) % 2 ^ 32)
  | .addF32 => some (fadd32 0 o b0).toNat
  | .minI32 => some (if o.sle b0 then o else b0).toNat
  | .minN32 => some (min old b0.toNat)
  | .maxI32 => some (if o.sle b0 then b0 else o).toNat
  | .maxN32 => some (max old b0.toNat)
  | .andB32 => some (o &&& b0).toNat
  | .orB32 => some (o ||| b0).toNat
  | .xorB32 => some (o ^^^ b0).toNat
  | .swpB32 => some b0.toNat
  | .casB32 => if o = b0 then some b1.toNat else none
  | .mrgB32 => some ((span 0 4).foldl (fun n k =>
      n + 256 ^ k * ((if b1.getLsbD k then b0.toNat else old) / 256 ^ k % 256)) 0)
  | .addN64 => some ((old + p) % 2 ^ 64)
  | .swpB64 => some p
  | .casB64 => if old = p then some ((b.getD 2 0).toNat + 2 ^ 32 * (b.getD 3 0).toNat) else none

/-- Granules that an atomic reads and writes. -/
def AtomOp.words : AtomOp → Nat
  | .addN64 | .swpB64 | .casB64 => 2
  | _ => 1

end Sys2Proof

namespace Sys2Proof.Machine

/-- What an atomic unit answers: the old units, or the failing granule (R78, R253). -/
inductive AtomRes where
  | old (us : List GUnit)
  | poisoned (pa : Nat) (u : GUnit)
  | marked (pa : Nat)
  | failed (pa : Nat) (u : GUnit)
  | operand (i : Nat) (u : GUnit)
  /-- The home slice cannot write the line back yet (R86): the request waits there. -/
  | later
  deriving DecidableEq, Repr

/-- The first failing granule of an atomic's old value, in the order of R253. -/
def State.atomCheck (s : State) (pa : Nat) (us : List GUnit) : Option AtomRes :=
  us.zipIdx.findSome? fun x =>
    let a := pa + 4 * x.2
    if s.poisoned a x.1 then some (.poisoned a x.1)
    else if x.1.ue then some (.marked a)
    else if x.1.ok then none else some (.failed a x.1)

/-- Perform an atomic on units already read: checks, then the coded result (R253). The answer's second part is the units
to write. -/
def State.atomUnits (s : State) (pa : Nat) (op : AtomOp) (operand us : List GUnit) : AtomRes × Option (List GUnit) :=
  match operand.zipIdx.find? fun x => !x.1.ok with
  | some (u, i) => (.operand i u, none)
  | none =>
    match s.atomCheck pa us with
    | some r => (r, none)
    | none =>
      let old := us.foldr (fun u n => u.data.toNat + 2 ^ 32 * n) 0
      match op.apply old (operand.map fun u => u.data) with
      | none => (.old us, none)
      | some n => (.old us, some ((span 0 op.words).map fun i => coded (BitVec.ofNat 32 (n / 2 ^ (32 * i)))))

/-- An atomic at the home slice (R76). -/
def State.homeAtomic (s : State) (pa : Nat) (op : AtomOp) (operand : List GUnit) : AtomRes × State :=
  match s.homeGets pa op.words with
  | (us, s) =>
    match s.atomUnits pa op operand us with
    | (r, none) => (r, s)
    | (r, some new) => (r, s.homePuts pa new)

/-- The unit that performs at the far atomic unit gets its line once the home slice has written back and dropped it (R77,
R95); none while the write-back waits for an overflow entry (R86). The controller tells Osmium of bad metadata (R81). -/
def State.farLine (s : State) (line : Nat) : Option State :=
  (s.l2Back line).map fun s => ({ s with l2 := s.l2.del line }.metaTouch (line / 16)).metaTell (line / 16)

/-- Write consecutive granules of one line at the far atomic unit; none when the block must wait for an overflow entry. -/
def State.farPuts (s : State) (pa : Nat) (new : List GUnit) : Option State :=
  let line := (s.ctlLine (pa / 128)).zipIdx.map fun x =>
    if decide (pa / 4 % 32 ≤ x.2) && decide (x.2 < pa / 4 % 32 + new.length) then new.getD (x.2 - pa / 4 % 32) .zero else x.1
  s.ctlMerge (pa / 128) line ((span (pa / 4 % 32) new.length).foldl (fun m i => m ||| (1#32 <<< i)) 0#32)

/-- An atomic at the far atomic unit (R77, R78): the home slice writes back and drops the line first; the unit works on
the stack. -/
def State.farAtomic (s : State) (pa : Nat) (op : AtomOp) (operand : List GUnit) : AtomRes × State :=
  match s.farLine (pa / 128) with
  | none => (.later, s)
  | some t =>
    match t.atomUnits pa op operand (((t.ctlLine (pa / 128)).drop (pa / 4 % 32)).take op.words) with
    | (r, none) => (r, t)
    | (r, some new) =>
      match t.farPuts pa new with
      | some u => (r, (span 0 op.words).foldl (fun s i => (s.unpoison (pa + 4 * i)).noteWrite (pa + 4 * i)) u)
      | none => (.later, s)

/-! ### Poisoning -/

/-- Enter a granule in the poison list of its die; a full list refuses and reports (R65). -/
def State.poisonList (s : State) (a : Nat) : State :=
  let d := dieOfPa a
  if (s.die d).poison.contains a then s
  else if (s.die d).poison.length ≥ 1024 then s.toOsm (.poisonFull a)
  else s.modDie d fun x => { x with poison := a :: x.poison }

/-- Poison a granule at its home slice (R65, R76): its code is inverted and its address listed. -/
def State.poisonHome (s : State) (a : Nat) : State :=
  match s.homeGet a none with
  | (u, s) => (s.l2Put a (.spoiled u.data) none).poisonList a

/-- Poison a granule at its far atomic unit (R65, R77); none while the home slice cannot write the line back (R86). -/
def State.poisonFar (s : State) (a : Nat) : Option State :=
  (s.farLine (a / 128)).bind fun s =>
    (s.farPuts a [.spoiled ((s.ctlLine (a / 128)).getD (a / 4 % 32) .zero).data]).map fun s => s.poisonList a

/-! ### Windows onto devices (R31, log 8) -/

/-- Outside HBM: 1 control space, 2 PCIe windows, 3 peer windows (R31). -/
def winKind (pa : Nat) : Nat := if pa < 2 ^ 39 then 0 else if pa < 2 ^ 40 then 1 else if pa < 2 ^ 41 then 2 else 3

/-- Record traffic to a window. -/
def State.traffic (s : State) (pa : Nat) (t : Traffic) : State :=
  match winKind pa with
  | 1 => { s with out := { s.out with ctrl := s.out.ctrl ++ [t] } }
  | 2 => { s with out := { s.out with pcie := s.out.pcie ++ [t] } }
  | _ => { s with out := { s.out with peer := s.out.peer ++ [t] } }

/-- Poison the granule of a failed check (R65): by the far atomic unit when its page is an MS page (bit 0 of the address,
see `State.sourcePa`), else by its home slice. Where the far atomic unit would have to wait for an overflow entry, the home
slice does it (log 79). A granule of a peer is poisoned by the peer's unit: the request crosses the link (R120). -/
def State.poison (s : State) (pa : Nat) : State :=
  let a := pa / 4 * 4
  if pa < hbmSize then (if pa % 2 = 1 then (s.poisonFar a).getD (s.poisonHome a) else s.poisonHome a)
  else if winKind pa = 3 then s.traffic pa (.poison a (pa % 2 == 1))
  else s

/-- Read a window (log 8): a free value. A PCIe port codes what an adapter sends, and control space answers with coded
units; a peer's granule arrives with whatever code the fabric link carries (R20). -/
def State.devGet (s : State) (pa : Nat) : GUnit × State :=
  match (s.traffic pa (.read pa)).freeWord with
  | (w, s) =>
    if winKind pa = 3 then
      match s.freeWord with
      | (c, s) => (⟨w, c.setWidth 8, c.getLsbD 8⟩, s)
    else (coded w, s)

/-- A PCIe port refuses to let a unit out (R20): its check fails on exit. -/
def exitFails (pa : Nat) (u : GUnit) : Bool := winKind pa == 2 && !u.ok

/-- Write a window. A PCIe port checks on exit: a failure ends the transfer with a poisoned completion and a report (R20). -/
def State.devPut (s : State) (pa : Nat) (u : GUnit) : State :=
  if exitFails pa u then (s.traffic pa (.poisoned pa)).toOsm (.pcieExit (pa / 2 ^ 39 - 2) pa)
  else s.traffic pa (.write pa u)

/-! ### L1 (R71 to R73) -/

/-- The core whose L1 holds a line for an issuing core: its own, or core A[8:7] of a fused cluster (R73). -/
def State.l1Core (s : State) (core line : Nat) : Nat :=
  if (s.cluster (clusterOf core)).fused then clusterOf core * 4 + line % 4 else core

/-- Write back the dirty granules of an L1 line, leaving them clean. -/
def State.l1Back (s : State) (c line : Nat) : State :=
  match (s.core c).l1.find line with
  | none => s
  | some l =>
    let s := l.units.foldl (fun s e => if e.2.2 then s.homePut (line * 128 + 4 * e.1) e.2.1 (some l.cz) else s) s
    s.modCore c fun k => { k with l1 := k.l1.alter line fun l => { l with units := l.units.map fun e => (e.1, e.2.1, false) } }

/-- Drop an L1 line. -/
def State.l1Drop (s : State) (c line : Nat) : State := s.modCore c fun k => { k with l1 := k.l1.del line }

/-- Evict an L1 line (R71, R72): dirty granules go home, its tag enters the victim array of 512. -/
def State.l1Evict (s : State) (c line : Nat) : State :=
  match (s.core c).l1.find line with
  | none => s
  | some l => ((s.l1Back c line).l1Drop c line).modCore c fun k => { k with vta := (k.vta ++ [(line, l.slot)]).drop (k.vta.length + 1 - 512) }

/-- The set of a line in an L1 of 128 sets (R71): in a fused cluster the four L1s hold every fourth line (R73). Which set a
line has is the model's choice (DESIGN CHOICE, log 78). -/
def State.l1Set (s : State) (c line : Nat) : Nat := (if (s.cluster (clusterOf c)).fused then line / 4 else line) % 128

/-- Make room for a line in its set of 8 ways (R71): one of the lines there is evicted, a free choice (log 78). -/
def State.l1Room (s : State) (c line : Nat) : State :=
  if ((s.core c).l1.find line).isSome then s
  else
    let ways := ((s.core c).l1.filter fun e => s.l1Set c e.1 == s.l1Set c line).map fun e => e.1
    if ways.length < 8 then s
    else
      match s.freeWord with
      | (w, s) => s.l1Evict c (ways.getD (w.toNat % ways.length) 0)

/-- Write back one granule if an L1 holds it dirty (R98). -/
def State.l1BackOne (s : State) (c pa : Nat) : State :=
  match (s.core c).l1.find (pa / 128) with
  | none => s
  | some l =>
    match l.units.find (pa / 4 % 32) with
    | some (u, true) =>
      (s.homePut pa u (some l.cz)).modCore c fun k => { k with l1 := k.l1.alter (pa / 128) fun l =>
        { l with units := l.units.set (pa / 4 % 32) (u, false) } }
    | _ => s

/-- An L1 miss looks up the victim tags of the L1 that serves the access, and feeds the wave's lost-locality score
(R72, R182). In a fused cluster a tag holds the line and the slot number alone, so that equal slots of its cores share their
tags (DESIGN CHOICE, log 114). -/
def State.vtaLookup (s : State) (core slot line : Nat) : State :=
  let c := s.l1Core core line
  if (s.core c).vta.contains (line, slot) then
    (s.modCore c fun k => { k with vta := k.vta.erase (line, slot) }).modWave core slot fun w =>
      { w with lls := min 255 (w.lls + 16) }
  else s

/-- A line that another context filled is no copy for this one: its own acquires do not drop it (R117), and it may be older than
what has been published to it (R110). It goes home and leaves (DEDUCED, log 111). -/
def State.ownLine (s : State) (c line ctx : Nat) : State :=
  match (s.core c).l1.find line with
  | none => s
  | some l => if l.ctx = ctx then s else (s.l1Back c line).l1Drop c line

/-- A weak load of a granule through L1 (R71): on a miss the whole line is read from its home slice, keeping the granules
already held, and takes the tag pair of the translation that fills it (R105). -/
def State.weakGet (s : State) (core slot ctx pa bind : Nat) (cz : Bool) : GUnit × State :=
  let c := s.l1Core core (pa / 128)
  let s := s.ownLine c (pa / 128) ctx
  let hit := ((s.core c).l1.find (pa / 128)).bind fun l => l.units.find (pa / 4 % 32)
  match hit with
  | some (u, _) => (u, s)
  | none =>
    let s := ((s.vtaLookup core slot (pa / 128)).l1Room c (pa / 128)).homeFill pa cz
    let us := (s.l2.find (pa / 128)).elim [] fun l => l.units
    let old := ((s.core c).l1.find (pa / 128)).getD ⟨ctx, bind, slot, cz, []⟩
    let units := us.zipIdx.foldl (fun m x => if (old.units.find x.2).isNone then m.set x.2 (x.1, false) else m) old.units
    (us.getD (pa / 4 % 32) .zero, s.modCore c fun k => { k with l1 := k.l1.set (pa / 128) ⟨ctx, bind, old.slot, cz, units⟩ })

/-- A weak store of a granule into L1: allocated dirty, without a fetch; the line takes the translation's tag pair
(R71, R105). A store to a line that the L1 does not hold is a miss (R182). -/
def State.weakPut (s : State) (core slot ctx pa bind : Nat) (cz : Bool) (u : GUnit) : State :=
  let c := s.l1Core core (pa / 128)
  let s := s.ownLine c (pa / 128) ctx
  let s := if ((s.core c).l1.find (pa / 128)).isSome then s else (s.vtaLookup core slot (pa / 128)).l1Room c (pa / 128)
  s.modCore c fun k =>
    let old := (k.l1.find (pa / 128)).getD ⟨ctx, bind, slot, cz, []⟩
    { k with l1 := k.l1.set (pa / 128) ⟨ctx, bind, old.slot, cz, old.units.set (pa / 4 % 32) (u, true)⟩ }

/-- Drop the clean L1 granules of a physical granule address (R114). -/
def State.dropCleanOne (s : State) (c pa : Nat) : State :=
  s.modCore c fun k =>
    match k.l1.find (pa / 128) with
    | none => k
    | some l =>
      match l.units.find (pa / 4 % 32) with
      | some (_, false) => { k with l1 := k.l1.set (pa / 128) { l with units := l.units.del (pa / 4 % 32) } }
      | _ => k

/-- A strong load: the own dirty granule goes home first, and the home slice answers (R98). The own L1 keeps no older copy,
which a later weak load of the thread may not return (R110). -/
def State.strongGet (s : State) (core pa : Nat) (cz : Option Bool) : GUnit × State :=
  let c := s.l1Core core (pa / 128)
  ((s.l1BackOne c pa).dropCleanOne c pa).homeGet pa cz

/-- A strong store at the home slice; the issuing core's copy is updated if present (R98), and its line takes the translation's
tag pair (R105). -/
def State.strongPut (s : State) (core ctx pa bind : Nat) (u : GUnit) (cz : Option Bool) : State :=
  let c := s.l1Core core (pa / 128)
  (((s.l1BackOne c pa).homePut pa u cz).ownLine c (pa / 128) ctx).modCore c fun k => { k with l1 := k.l1.alter (pa / 128) fun l =>
    if (l.units.find (pa / 4 % 32)).isNone then l
    else { l with ctx := ctx, bind := bind, units := l.units.set (pa / 4 % 32) (u, false) } }

/-- The L1s that a core's release or acquire acts on. -/
def State.l1Cores (s : State) (core : Nat) : List Nat :=
  if (s.cluster (clusterOf core)).fused then span (clusterOf core * 4) 4 else [core]

/-- The scope reaches beyond the L1 (R117): wider than cluster, or cluster scope in an unfused cluster. -/
def State.wide (s : State) (core scope : Nat) : Bool :=
  decide (scope > 4) || (scope == 4 && !(s.cluster (clusterOf core)).fused)

/-- The object a page's BIND names: an invalid entry is the default object (R104). -/
def Ctx.effBind (c : Ctx) (bind : Nat) : Nat :=
  if (c.bindings.getD bind 0).getLsbD 0 then bind else 0

/-- Lines of an L1 that belong to an object of a context (R105, R117); `obj` none stands for every object. A line whose index
names an invalid entry belongs to the default object (R104). -/
def State.linesOf (s : State) (c ctx : Nat) (obj : Option Nat) : List Nat :=
  ((s.core c).l1.filter fun e => e.2.ctx == ctx && (match obj with
    | none => true
    | some b => (s.ctx ctx).effBind e.2.bind == b)).map fun e => e.1

/-- The release action of R117 for an object, or for every object. -/
def State.release (s : State) (core ctx : Nat) (obj : Option Nat) (scope : Nat) : State :=
  if s.wide core scope then
    (s.l1Cores core).foldl (fun s c => (s.linesOf c ctx obj).foldl (fun s l => s.l1Back c l) s) s
  else s

/-- Every dirty granule that the L1s of a core hold goes home, whichever context wrote it. -/
def State.backAll (s : State) (core : Nat) : State :=
  (s.l1Cores core).foldl (fun s c => ((s.core c).l1.map fun e => e.1).foldl (fun s l => s.l1Back c l) s) s

/-- Drop the clean granules of an L1 line. -/
def State.dropClean (s : State) (c line : Nat) : State :=
  s.modCore c fun k =>
    match k.l1.find line with
    | none => k
    | some l =>
      let d := l.units.filter fun e => e.2.2
      if d.isEmpty then { k with l1 := k.l1.del line } else { k with l1 := k.l1.set line { l with units := d } }

/-- The acquire action of R117. -/
def State.acquire (s : State) (core ctx : Nat) (obj : Option Nat) (scope : Nat) : State :=
  if s.wide core scope then
    (s.l1Cores core).foldl (fun s c => (s.linesOf c ctx obj).foldl (fun s l => s.dropClean c l) s) s
  else s

/-- Write back every dirty granule of an L1 and drop all its lines (R73). -/
def State.l1Flush (s : State) (c : Nat) : State :=
  ((s.core c).l1.map fun e => e.1).foldl (fun s l => (s.l1Back c l).l1Drop c l) s

/-- The binding-table entry that names the word holding a global virtual address (R103); 0 is the default object. The table
is a field of the context: the spec keeps it in a region of kind table and gives no address of it (DESIGN CHOICE, log 80). -/
def Ctx.objectOf (c : Ctx) (va : Nat) : Nat :=
  match c.bindings.find? fun e => e.2.getLsbD 0 && bvf e.2 4 54 == va / 16 with
  | some (i, _) => i
  | none => 0

end Sys2Proof.Machine
end

