-- ==== Sys2Proof/Machine/Xlat.lean ====
section
/-! DEFINITION. Address translation (R26 to R51, R319): region decode, page walk, firewall, translation buffers, and the
records of replayable faults. -/

namespace Sys2Proof.Machine

/-- Who makes an access: core and wave slot (0xFFFF and 0xFF for the signal unit and Hazel, R44), context, thread id for
the private region, size of the scratchpad allocation, the audit whose replay root translates (R369), and the lane (an
engine operation counts as lane 32 + its number), which tells the accesses attached to a fault record apart. -/
structure Agent where
  core  : Nat
  slot  : Nat
  ctx   : Nat
  tid   : Option Nat
  bytes : Nat
  audit : Option Nat
  lane  : Nat
  deriving DecidableEq, Repr

/-- The die whose buffers and text root an agent uses: the signal unit and Hazel sit on die 0 (R13). -/
def Agent.die (g : Agent) : Nat := if g.core < 192 then dieOf g.core else 0

/-- A unit that acts for a context without a core (R44). -/
def unitAgent (ctx : Nat) : Agent := ⟨0xFFFF, 0xFF, ctx, none, 0, none, 0⟩

/-- The outcome of a translation (R38). -/
inductive Xlat where
  | spad (off : Nat)
  | mem (pa bind : Nat) (ms cz : Bool)
  | fault (c : Cause)
  | replay (page cond level : Nat)
  deriving DecidableEq, Repr

end Sys2Proof.Machine

namespace Sys2Proof

/-- The access is a write or an atomic (R38). -/
def Access.writes : Access → Bool
  | .write | .atomic | .engineWrite => true
  | _ => false

/-- The access code of a fault record (R44). -/
def Access.code : Access → Nat
  | .read => 0
  | .write => 1
  | .atomic => 2
  | .fetch => 3
  | .engineRead => 4
  | .engineWrite => 5

/-- The access class that shares a record and a walk (R43, R44): read, write, fetch. -/
def Access.cls : Access → Nat
  | .read | .engineRead => 0
  | .fetch => 2
  | _ => 1

end Sys2Proof

namespace Sys2Proof.Machine

/-! ### The firewall -/

/-- The firewall entry of a region of 32 MiB (R40). -/
def State.fw (s : State) (region : Nat) : BitVec 16 := s.osm.firewall.getD region 0
/-- KIND. -/
def fwKind (e : BitVec 16) : Nat := bvf e 14 2
/-- SUB. -/
def fwSub (e : BitVec 16) : Nat := bvf e 12 2
/-- OWNER. -/
def fwOwner (e : BitVec 16) : Nat := bvf e 0 12

/-- The address lies in a region of kind table with a sub-kind and an owner (R37, R40). -/
def State.inTable (s : State) (pa sub owner : Nat) : Bool :=
  decide (pa < hbmSize) && fwKind (s.fw (pa / 2 ^ 25)) == 2 && fwSub (s.fw (pa / 2 ^ 25)) == sub &&
    fwOwner (s.fw (pa / 2 ^ 25)) == owner

/-- Some byte of a range lies in a region of kind table that holds compression metadata, which only the controllers reach (R40,
R82). -/
def State.inMeta (s : State) (pa n : Nat) : Bool :=
  (span (pa / 2 ^ 25) ((pa + max 1 n - 1) / 2 ^ 25 + 1 - pa / 2 ^ 25)).any fun r => fwKind (s.fw r) == 2 && fwSub (s.fw r) == 1

/-- A metadata table of 64 MiB stands in such regions (R82). -/
def State.metaPlace (s : State) (pa : Nat) : Bool :=
  decide (pa + 2 ^ 26 ≤ hbmSize) &&
  (span (pa / 2 ^ 25) ((pa + 2 ^ 26 - 1) / 2 ^ 25 + 1 - pa / 2 ^ 25)).all fun r => fwKind (s.fw r) == 2 && fwSub (s.fw r) == 1

/-- The address lies in a region of kind owned with the given owner. -/
def State.inOwned (s : State) (pa owner : Nat) : Bool :=
  decide (pa < hbmSize) && fwKind (s.fw (pa / 2 ^ 25)) == 1 && fwOwner (s.fw (pa / 2 ^ 25)) == owner

/-- A tenant's region passes: owned by the context, or shared with its group (R40). -/
def State.regionOk (s : State) (ctx region : Nat) : Bool :=
  let e := s.fw region
  (fwKind e == 1 && fwOwner e == ctx) || (fwKind e == 3 && fwOwner e == (s.ctx ctx).group)

/-- The frame lies in a reserved range or in the device's own peer window (R31, R32). -/
def State.reservedPa (s : State) (pa : Nat) : Bool :=
  decide (pa ≥ 2 ^ 48) || (decide (2 ^ 41 ≤ pa) && decide (pa < 2 ^ 47)) ||
  (decide (2 ^ 47 ≤ pa) && (decide (pa % 2 ^ 41 ≥ 2 ^ 39) || (pa - 2 ^ 47) / 2 ^ 41 == s.board.domain))

/-- The firewall and port check of a leaf frame (R40, R41, R319). -/
def State.frameOk (s : State) (ctx pa size : Nat) : Bool :=
  let b := s.osm.dbbase
  if pa < b + 2 ^ 30 ∧ b < pa + size then
    let q := s.osm.qown.getD ((pa - b) / 16384) 0
    decide (size = 16384) && (ctx == 0 || (q.getLsbD 15 && bvf q 0 12 == ctx))
  else if ctx = 0 then true
  else if pa < 2 ^ 39 then
    if size ≤ 2 ^ 25 then s.regionOk ctx (pa / 2 ^ 25)
    else (span (pa / 2 ^ 25) (size / 2 ^ 25)).all fun r => s.regionOk ctx r
  else if pa < 2 ^ 40 then false
  else if pa < 2 ^ 41 then (s.ctx ctx).pcie (pa / 2 ^ 39 - 2)
  else if pa < 2 ^ 47 then false
  else (s.ctx ctx).peer ((pa - 2 ^ 47) / 2 ^ 41)

/-! ### The walk -/

/-- What a walk finds at the end of its levels. -/
inductive Walk where
  | leaf (pte pteAddr level : Nat)
  | fault (c : Cause)
  | replay (cond level : Nat)
  deriving DecidableEq, Repr

/-- The index of a virtual address at a level (R33). -/
def levelIndex (va level : Nat) : Nat := va / 2 ^ (47 - 11 * level) % 2048
/-- The page size of a leaf at a level (R33). -/
def levelSize (level : Nat) : Nat := 2 ^ (47 - 11 * level)

/-- Must-be-zero bits of an entry (R34). -/
def pteReserved (p : Nat) : Bool :=
  field p 51 48 != 0 || field p 13 12 != 0 || field p 4 2 != 0 ||
  (!bitAt p 1 && (field p 63 52 != 0 || field p 11 5 != 0))

/-- Walk the levels (R33, R37, R38 steps 2 and 3 at each entry). `n` levels remain. -/
def State.walkFrom (s : State) (ctx va table : Nat) : Nat → Walk × State
  | 0 => (.fault .page, s)
  | n + 1 =>
    let level := 3 - n
    let a := table + 8 * levelIndex va level
    match s.homeGets a 2 with
    | (us, s) =>
      if us.all fun u => u.ok then
        let p := (us.getD 0 .zero).data.toNat + 2 ^ 32 * (us.getD 1 .zero).data.toNat
        if !bitAt p 0 then (.replay 1 level, s)
        else if pteReserved p then (.fault .page, s)
        else if bitAt p 1 then (if level = 0 then (.fault .page, s) else (.leaf p a level, s))
        else if level = 3 then (.fault .page, s)
        else
          let next := field p 47 14 * 16384
          if s.inTable next 0 ctx then State.walkFrom s ctx va next n
          else (.fault .perm, s.toOsm (.tableRegion ctx next va))
      else (.fault .page, s.toOsm (.tableCode ctx a va))

/-- A whole walk from a root (R37). -/
def State.walk (s : State) (ctx va root : Nat) : Walk × State :=
  if s.inTable root 0 ctx then s.walkFrom ctx va root 4
  else (.fault .perm, s.toOsm (.tableRegion ctx root va))

/-- Steps 3 and 4 of R38 at a leaf. -/
def State.leafCheck (s : State) (ctx va pte level : Nat) (text : Bool) : Option Cause × State :=
  let pa := field pte 47 14 * 16384
  if (level = 2 ∧ field pte 24 14 ≠ 0) ∨ (level = 1 ∧ field pte 35 14 ≠ 0) then (some .page, s)
  else if bitAt pte 6 && !bitAt pte 5 then (some .page, s)
  else if bitAt pte 10 && bitAt pte 11 then (some .page, s)
  else if text && bitAt pte 6 then (some .page, s)
  else if s.reservedPa pa then (some .page, s)
  else if s.frameOk ctx pa (levelSize level) then (none, s)
  else (some .perm, s.toOsm (.firewall ctx pa va))

/-- Step 5 of R38: X for a fetch, W for a write or atomic, RD for a read. -/
def accessCheck (r w x : Bool) (acc : Access) (level : Nat) : Option Walk :=
  match acc with
  | .fetch => if x then none else some (.fault .page)
  | _ =>
    if acc.writes then (if w then none else some (.replay 2 level))
    else if r then none else some (.replay 3 level)

/-- The walker sets A, and D on a write, at the entry's home slice (R35). -/
def State.setAD (s : State) (a pte : Nat) (dirty : Bool) : Nat × State :=
  let p1 := if bitAt pte 8 then pte else pte + 2 ^ 8
  let p2 := if dirty && !bitAt p1 9 then p1 + 2 ^ 9 else p1
  if p2 = pte then (pte, s)
  else (p2, s.homePuts a [coded (BitVec.ofNat 32 p2), coded (BitVec.ofNat 32 (p2 / 2 ^ 32))])

/-- The set of a translation in a buffer: by its page number. Which set a page has is the model's choice (DESIGN CHOICE,
log 78). -/
def TlbEntry.setOf (e : TlbEntry) (sets : Nat) : Nat := e.va / e.size % sets

/-- The entries in the set that a new one goes to, its own earlier version left out. -/
def tlbWays (sets : Nat) (e : TlbEntry) (l : List TlbEntry) : List TlbEntry :=
  l.filter fun x => x.setOf sets == e.setOf sets && !(x.ctx == e.ctx && x.text == e.text && x.va == e.va && x.size == e.size)

/-- Enter a translation in a buffer of so many sets and ways (R42): in a full set the entry numbered `pick` leaves. -/
def tlbPut (sets ways pick : Nat) (e : TlbEntry) (l : List TlbEntry) : List TlbEntry :=
  let old := tlbWays sets e l
  let l := l.filter fun x => !(x.ctx == e.ctx && x.text == e.text && x.va == e.va && x.size == e.size)
  match (if old.length < ways then none else old[pick % old.length]?) with
  | none => e :: l
  | some v => e :: l.erase v

/-- Fill the buffers of an agent's core, cluster and die (R42): 32 sets of 8, 256 sets of 8, and 1,024 sets of 16. Which entry
of a full set leaves is a free choice (log 78). -/
def State.tlbFill (s : State) (g : Agent) (e : TlbEntry) : State :=
  let full := decide ((tlbWays 1024 e (s.die g.die).tlb).length ≥ 16) || decide (g.core < 192) &&
    (decide ((tlbWays 32 e (s.core g.core).tlb).length ≥ 8) || decide ((tlbWays 256 e (s.cluster (clusterOf g.core)).tlb).length ≥ 8))
  match (if full then s.freeWord else (0, s)) with
  | (w, s) =>
    let n := w.toNat
    let s := s.modDie g.die fun d => { d with tlb := tlbPut 1024 16 n e d.tlb }
    if g.core < 192 then
      (s.modCore g.core fun k => { k with tlb := tlbPut 32 8 (n / 16) e k.tlb }).modCluster (clusterOf g.core) fun c =>
        { c with tlb := tlbPut 256 8 (n / 128) e c.tlb }
    else s

/-- Look up the three buffers (R42). A hit in a farther buffer does not enter the translation in the nearer ones; only a walk does
(DESIGN CHOICE, log 78). -/
def State.tlbFind (s : State) (g : Agent) (text : Option Nat) (va : Nat) : Option TlbEntry :=
  let hit (l : List TlbEntry) : Option TlbEntry :=
    l.find? fun e => e.ctx == g.ctx && e.text == text && va / e.size == e.va / e.size
  let die := hit (s.die g.die).tlb
  if g.core < 192 then
    match hit (s.core g.core).tlb with
    | some e => some e
    | none =>
      match hit (s.cluster (clusterOf g.core)).tlb with
      | some e => some e
      | none => die
  else die

/-- Level of a page size. -/
def sizeLevel (n : Nat) : Nat := if n = 2 ^ 14 then 3 else if n = 2 ^ 25 then 2 else 1

/-- Translate a virtual address of the global or text region (R38, R42). -/
def State.xlat (s : State) (g : Agent) (text : Bool) (va : Nat) (acc : Access) : Xlat × State :=
  let tag := if text then some g.die else none
  let c := s.ctx g.ctx
  let page := va / 16384
  let hit := match s.tlbFind g tag va with
    | some e => if acc.writes && !e.d && e.w then none else some e
    | none => none
  match hit with
  | some e =>
    match accessCheck e.r e.w e.x acc (sizeLevel e.size) with
    | none => (.mem (e.pa + va % e.size) e.bind e.ms e.cz, s)
    | some (.replay cond level) => (.replay page cond level, s)
    | some _ => (.fault .page, s)
  | none =>
    match s.walk g.ctx va (if text then c.troot g.die else c.groot) with
    | (.fault k, s) => (.fault k, s)
    | (.replay cond level, s) => (.replay page cond level, s)
    | (.leaf p a level, s) =>
      match s.leafCheck g.ctx va p level text with
      | (some k, s) => (.fault k, s)
      | (none, s) =>
        match accessCheck (bitAt p 5) (bitAt p 6) (bitAt p 7) acc level with
        | some (.replay cond l) => (.replay page cond l, s)
        | some _ => (.fault .page, s)
        | none =>
          match s.setAD a p acc.writes with
          | (p, s) =>
            let n := levelSize level
            let pa := field p 47 14 * 16384
            let e : TlbEntry := ⟨g.ctx, tag, va / n * n, n, pa, field p 63 52, bitAt p 5, bitAt p 6, bitAt p 7,
              bitAt p 10, bitAt p 11, bitAt p 9⟩
            (.mem (pa + va % n) e.bind e.ms e.cz, s.tlbFill g e)

/-- A global address, under an audit's replay root when one is in force (R369). The spec gives the MS and CZ bits of the root's
leaves no value: the model takes MS 0 and, since the blocks of a save area have ALLOT 8 (R349), CZ 1 (DESIGN CHOICE, log 109). -/
def State.xlatGlobal (s : State) (g : Agent) (va : Nat) (acc : Access) : Xlat × State :=
  match g.audit with
  | none => s.xlat g false va acc
  | some u =>
    match s.hazel.audits.find? fun a => a.uid == u with
    | none => (.fault .perm, s)
    | some a =>
      match a.pages.find? fun e => e.1 == va / 16384 with
      | none => (.fault .perm, s)
      | some e => (.mem (e.2 + va % 16384) 0 false true, s)

/-- Region decode and translation of one granule access (R26 to R29, R38). -/
def State.translate (s : State) (g : Agent) (va : Nat) (acc : Access) : Xlat × State :=
  let r := va / 2 ^ 55
  if acc = .fetch then (if r = 4 then s.xlat g true va acc else (.fault .perm, s))
  else if r < 4 then s.xlatGlobal g va acc
  else if r = 4 then (if acc.writes then (.fault .perm, s) else s.xlat g true va acc)
  else if r = 5 then
    let c := s.ctx g.ctx
    let off := va % 2 ^ 55
    match g.tid with
    | none => (.fault .page, s)
    | some t =>
      let a := c.privb + t * 2 ^ c.privsz + off
      if off ≥ 2 ^ 30 ∨ off ≥ 2 ^ c.privsz ∨ a ≥ 2 ^ 57 then (.fault .page, s) else s.xlatGlobal g a acc
  else if r = 6 then
    let off := va % 2 ^ 55
    if off ≥ 2 ^ 18 ∨ off ≥ g.bytes then (.fault .perm, s) else (.spad off, s)
  else (.fault .page, s)

/-- The virtual page that a replayable fault names, a private address relocated (R28, R44). -/
def State.pageVa (s : State) (g : Agent) (va : Nat) : Nat :=
  if va / 2 ^ 55 = 5 then
    match g.tid with
    | some t => (s.ctx g.ctx).privb + t * 2 ^ (s.ctx g.ctx).privsz + va % 2 ^ 55
    | none => va
  else va

/-- The open record of an access's die, context, page and class (R44). -/
def State.openRec (s : State) (g : Agent) (page : Nat) (acc : Access) : Option FaultRec :=
  s.recs.find? fun r => r.die == g.die && r.ctx == g.ctx && r.page == page && r.access.cls == acc.cls

/-- Attach an access to the open record of its die, context, page and class, or open one (R44). An access that is attached
already, and whose instruction has issued again, counts once. -/
def State.attach (s : State) (g : Agent) (va page cond level : Nat) (acc : Access) : Nat × State :=
  let key := (g.core, g.slot, g.lane)
  match s.openRec g page acc with
  | some r => (r.uid, { s with recs := s.recs.map fun x =>
      if x.uid == r.uid && !x.attached.contains key then { x with attached := x.attached ++ [key] } else x })
  | none =>
    match s.fresh with
    | (u, s) => (u, { s with recs := s.recs ++ [⟨u, g.die, g.ctx, page, acc, va, g.core, g.slot, cond, level, [key], none⟩] })

/-- Misses that wait in a cluster's queue: the open records, not yet written, that accesses of some cores are attached to
(R43, R45). -/
def State.missesOf (s : State) (cores : Nat → Bool) : List FaultRec :=
  s.recs.filter fun r => r.seq.isNone && r.attached.any fun a => cores a.1

/-- A miss that cannot end in a translation finds room (R43): its record is written already, or its core waits for fewer
than 32 misses and its cluster for fewer than 128, misses of one record coalescing. A core whose access finds no room does
not issue the instruction. -/
def State.missRoom (s : State) (g : Agent) (page : Nat) (acc : Access) : Bool :=
  let mine (c : Nat) : Bool := c == g.core
  let near (c : Nat) : Bool := clusterOf c == clusterOf g.core
  let held (cores : Nat → Bool) (n : Nat) : Bool :=
    let l := s.missesOf cores
    decide (l.length < n) || (match s.openRec g page acc with | some r => l.any fun x => x.uid == r.uid | none => false)
  decide (g.core ≥ 192) || ((s.openRec g page acc).any fun r => r.seq.isSome) || (held mine 32 && held near 128)

/-- The queue of a core's misses, or of its cluster's, is full (R43). -/
def State.queueFull (s : State) (core : Nat) : Bool :=
  decide (core < 192) && (decide ((s.missesOf fun c => c == core).length ≥ 32) ||
    decide ((s.missesOf fun c => clusterOf c == clusterOf core).length ≥ 128))

/-- An access that would miss in every buffer and has no open record to join: with a full queue its instruction does not issue
(R43). -/
def State.wouldMiss (s : State) (g : Agent) (va : Nat) (acc : Access) : Bool :=
  let a := s.pageVa g va
  decide (va < 6 * 2 ^ 55) && g.audit.isNone && (s.openRec g (a / 16384) acc).isNone &&
    (s.tlbFind g (if a / 2 ^ 55 = 4 then some g.die else none) a).isNone

/-- Remove every buffered translation of a page, so that an access walks afresh (R45). -/
def State.tlbDropPage (s : State) (ctx page : Nat) : State :=
  let keep (l : List TlbEntry) : List TlbEntry :=
    l.filter fun e => !(e.ctx == ctx && e.va / e.size == page * 16384 / e.size)
  { s with
    cores := s.cores.map fun e => (e.1, { e.2 with tlb := keep e.2.tlb })
    clusters := s.clusters.map fun e => (e.1, { e.2 with tlb := keep e.2.tlb })
    dies := s.dies.map fun e => (e.1, { e.2 with tlb := keep e.2.tlb }) }

/-! ### Reads and writes by units without a core (signal unit, Hazel, loader) -/

/-- Read `n` consecutive granules of a unit's context at their home slices (R321, R326, R328, R340). -/
def State.unitGets (s : State) (g : Agent) (va : Nat) : Nat → List GUnit × Option Xlat × State
  | 0 => ([], none, s)
  | n + 1 =>
    match s.translate g va .read with
    | (.mem pa _ _ cz, s) =>
      match (if pa < hbmSize then s.homeGet pa (some cz) else s.devGet pa) with
      | (u, s) =>
        match State.unitGets s g (va + 4) n with
        | (us, x, s) => (u :: us, x, s)
    | (x, s) => ([], some x, s)

/-- Write consecutive granules of a unit's context at their home slices; the first fault ends it. -/
def State.unitPuts (s : State) (g : Agent) (va : Nat) : List GUnit → Option Xlat × State
  | [] => (none, s)
  | u :: us =>
    match s.translate g va .write with
    | (.mem pa _ _ cz, s) =>
      State.unitPuts (if pa < hbmSize then s.homePut pa u (some cz) else s.devPut pa u) g (va + 4) us
    | (x, s) => (some x, s)

end Sys2Proof.Machine
end

