-- ==== Sys2Proof/Machine/Ops.lean ====
section
/-! DEFINITION. Registers, operand checks, issue bookkeeping (R166), lane masks and the crew barrier at the end of a cycle
(R169, R260), taking an exception and returning from one (R310 to R317), and context faults (R311). -/

namespace Sys2Proof.Machine

/-! ### Registers -/

/-- A register named by an operand field (R210). -/
inductive Reg where
  | v (n : Nat)
  | s (n : Nat)
  deriving DecidableEq, Repr

/-- A 7-bit field: v0 to v111, then s0 to s15 (R210). -/
def Reg.of7 (f : BitVec 7) : Reg := if f.toNat < 112 then .v f.toNat else .s (f.toNat - 112)
/-- A field that names v registers. -/
def Reg.ofV {w : Nat} (f : BitVec w) : Reg := .v f.toNat
/-- A field that names s registers. -/
def Reg.ofS {w : Nat} (f : BitVec w) : Reg := .s f.toNat
/-- The register `i` places after this one. -/
def Reg.plus : Reg → Nat → Reg
  | .v n, i => .v (n + i)
  | .s n, i => .s (n + i)
/-- A group of registers (R210). -/
def Reg.group (r : Reg) (n : Nat) : List Reg := (span 0 n).map fun i => r.plus i
/-- The register is uniform. -/
def Reg.uniform : Reg → Bool
  | .v _ => false
  | .s _ => true
/-- CHKINFO.REG (R62). -/
def Reg.code : Reg → Nat
  | .v n => n
  | .s n => 0x80 + n

/-- The crew's allocation holds the register (R191). -/
def Crew.has (k : Crew) : Reg → Bool
  | .v n => decide (n < k.decl.vregs)
  | .s n => decide (n < k.decl.sregs)

/-- A lane's unit of a register; an unwritten register holds the zero unit (R192). -/
def Wave.get (w : Wave) (r : Reg) (lane : Nat) : GUnit :=
  match r with
  | .v n => w.v.getD (32 * n + lane) .zero
  | .s n => w.s.getD n .zero
/-- A lane's word of a register. -/
def Wave.word (w : Wave) (r : Reg) (lane : Nat) : Word := (w.get r lane).data
/-- Write a unit. -/
def Wave.set (w : Wave) (r : Reg) (lane : Nat) (u : GUnit) : Wave :=
  match r with
  | .v n => { w with v := w.v.put (32 * n + lane) u .zero }
  | .s n => { w with s := w.s.put n u .zero }
/-- Write a register in the given lanes; a uniform register takes the lowest lane's unit (R193). -/
def Wave.setLanes (w : Wave) (r : Reg) (lanes : List Nat) (f : Nat → GUnit) : Wave :=
  match r with
  | .v _ => lanes.foldl (fun w l => w.set r l (f l)) w
  | .s _ =>
    match lanes with
    | [] => w
    | l :: _ => w.set r l (f l)
/-- A lane's bit of a predicate. -/
def Wave.pred (w : Wave) (n lane : Nat) : Bool := (w.p.getD n 0).getLsbD lane
/-- A lane set with one bit changed. -/
def setBit (x : BitVec 32) (i : Nat) (b : Bool) : BitVec 32 :=
  if b then x ||| (1#32 <<< i) else x &&& ~~~ (1#32 <<< i)
/-! Parity (R60): keys of `Wave.parity`. Those of a crew's and of a core's control registers are CRNs. -/

/-- The bit of predicate n in a lane. -/
def parP (n lane : Nat) : Nat := 0x20000 + 32 * n + lane
/-- Frame j, counted from 0 at the outermost (R162), of a lane's thread, in the hardware return stack. -/
def parFrame (lane j : Nat) : Nat := 0x40000 + 32 * j + lane
/-- Lane mask n. -/
def parQ (n : Nat) : Nat := 16 + n
/-- Control register n of the wave. -/
def parCr (n : Nat) : Nat := 64 + n
/-- A register restored from a record whose code showed a parity failure (R194, R350). -/
def parRestored : Nat := 0x10000
/-- The register or frame with a key has good parity. -/
def Wave.mend (w : Wave) (keys : List Nat) : Wave := { w with parity := w.parity.filter fun k => !keys.contains k }

/-- Write a predicate in the given lanes. -/
def Wave.setPred (w : Wave) (n : Nat) (lanes : List Nat) (f : Nat → Bool) : Wave :=
  { w with p := w.p.put n (lanes.foldl (fun x l => setBit x l (f l)) (w.p.getD n 0)) 0,
           parity := w.parity.filter fun k => !(lanes.map (parP n)).contains k }
/-- A lane mask. -/
def Wave.mask (w : Wave) (n : Nat) : Mask := w.q.getD n ⟨0, 0⟩
/-- Replace a lane mask. -/
def Wave.setMask (w : Wave) (n : Nat) (m : Mask) : Wave := { w with q := w.q.put n m ⟨0, 0⟩ }
/-- The lanes that hold a live thread. -/
def Wave.live (w : Wave) : BitVec 32 := laneSet (w.threads.map fun e => e.1)
/-- The idempotent bit (R184). -/
def Wave.idemBit (w : Wave) : Bool := w.idempc.getLsbD 0
/-- Clear the idempotent bit (R185). -/
def Wave.clearIdem (w : Wave) : Wave := { w with idempc := w.idempc &&& ~~~ 1#64 }
/-- A wave with no thread: what an absent slot stands for. -/
def Wave.empty : Wave := ⟨0, [], [], [], [], [], 0, 0, 0, 0, 0, 0, 0, 0, 0, 0, 0, 64, 0, 0, 0, none, [], none, none, 0, 0, []⟩

/-- The thread in a lane of a wave. -/
def Wave.thread (w : Wave) (l : Nat) : Thread := (w.threads.find l).getD ⟨0, 0, 0, [], 0, 0, false, 0, .ready, 0⟩

/-- TRAPCAUSE.IN (R312). -/
def Wave.inHandler (w : Wave) : Bool := w.trapcause.getLsbD 15

/-! ### Traps -/

/-- A failed check (R61, R62). `addr` is the physical granule address when known. -/
structure Chk where
  site   : Nat
  reg    : Nat
  lane   : Nat
  syn    : BitVec 8
  ue     : Bool
  addr   : Option Nat
  poison : Bool
  deriving DecidableEq, Repr

/-- A trap about to be taken: cause, lowest trapping lane, TRAPADDR, and the failed check of a CHK or HBMUE. -/
structure Trap where
  cause : Cause
  lane  : Nat
  addr  : Nat
  chk   : Option Chk
  deriving DecidableEq, Repr

/-- A check's trap: CHK, or HBMUE on a marked unit (R62). -/
def Chk.trap (c : Chk) : Trap := ⟨if c.ue then .hbmue else .chk, c.lane, 0, some c⟩
/-- A trap without an address (R313): 2^58 is no virtual address, and TRAPADDR and the fault of a context show zero. -/
def Trap.plain (c : Cause) (lane : Nat) : Trap := ⟨c, lane, 2 ^ 58, none⟩

/-- The cause codes (R310). -/
def Cause.code : Cause → Nat
  | .und => 1
  | .ill => 2
  | .conv => 3
  | .align => 4
  | .page => 5
  | .perm => 6
  | .chk => 7
  | .rank => 8
  | .slab => 9
  | .barto => 10
  | .dbl => 11
  | .esc => 12
  | .hbmue => 13
  | .stack => 14
  | .bkpt => 15

/-- Causes that go to the handler when enabled (R310). -/
def Cause.toHandler : Cause → Bool
  | .und | .conv | .align | .rank | .slab | .stack | .bkpt => true
  | _ => false

/-- The origin-buffer entry of a register's lane (R62). -/
def Core.originOf (k : Core) (slot reg lane : Nat) : Option Nat :=
  (k.origin.find? fun o => o.slot == slot && o.reg == reg && o.lane == lane).map fun o => o.pa

/-- Free the origin entry of an overwritten register (R62). -/
def Core.originFree (k : Core) (slot reg lane : Nat) : Core :=
  { k with origin := k.origin.filter fun o => !(o.slot == slot && o.reg == reg && o.lane == lane) }

/-- Enter a bad unit's physical address (R62): 64 entries. -/
def Core.originNote (k : Core) (slot reg lane : Nat) (u : GUnit) (pa : Option Nat) : Core :=
  let k := k.originFree slot reg lane
  match pa with
  | some a => if u.ok || decide (k.origin.length ≥ 64) then k else { k with origin := k.origin ++ [⟨slot, reg, lane, a⟩] }
  | none => k

/-- A consumer checks one unit (R61); syndrome 0xFF at a listed address is SITE 0x0A (R65). -/
def State.chkUnit (s : State) (site reg lane : Nat) (u : GUnit) (addr : Option Nat) : Option Chk :=
  if u.ok then none
  else
    let p := match addr with
      | some a => s.poisoned a u
      | none => false
    some ⟨if p then 0x0A else site, reg, lane, if u.ue then 0 else u.syn, u.ue, addr, p⟩

/-- SITE of a register operand (R62). -/
def Reg.site : Reg → Nat
  | .v _ => 1
  | .s _ => 2

/-- Check one register operand of a lane. -/
def State.chkReg (s : State) (p : Pod) (w : Wave) (r : Reg) (site lane : Nat) : Option Chk :=
  s.chkUnit site r.code lane (w.get r lane) ((s.core p.core).originOf p.slot r.code (if r.uniform then 0 else lane))

/-- Check register operands in every active lane, lowest lane first and in operand order (R61). -/
def State.chkRegs (s : State) (p : Pod) (w : Wave) (rs : List (Reg × Nat)) : Option Chk :=
  p.lanes.findSome? fun l => rs.findSome? fun r => s.chkReg p w r.1 r.2 l

/-- Operands checked under their own class's SITE. -/
def operands (rs : List Reg) : List (Reg × Nat) := rs.map fun r => (r, r.site)

/-- The lowest active lane (R193). -/
def Pod.low (p : Pod) : Nat := p.lanes.headD 0

/-- A parity failure found in a lane (R60): CHK with SITE 0x0B. -/
def parityFail (bad : Bool) (lane : Nat) : Option Chk := if bad then some ⟨0x0B, 0xFF, lane, 0, false, none, false⟩ else none

/-- Parity of the wave's registers that an instruction reads once for the pod (R60). -/
def parityChk (w : Wave) (p : Pod) (keys : List Nat) : Option Chk := parityFail (keys.any fun k => w.parity.contains k) p.low

/-- The control registers of a crew, among them its tile descriptors (R195). -/
def crewCr (n : Nat) : Bool :=
  [0x000, 0x001, 0x003, 0x008, 0x009, 0x00A, 0x00B, 0x020, 0x021, 0x022, 0x028].contains n || (decide (0x100 ≤ n) && decide (n < 0x120))

/-- A control register has bad parity (R60): the crew's, the core's (MISSCAP, and NOPRE as the core holds it), or the wave's. -/
def State.crBad (s : State) (p : Pod) (w : Wave) (k : Crew) (n : Nat) : Bool :=
  if crewCr n then k.body.parity.contains n
  else if n = 0x040 ∨ n = 0x041 then (s.core p.core).parity.contains n
  else w.parity.contains (parCr n)

/-- A source of an instruction: a register under a SITE, a predicate, a lane mask, or a control register. -/
inductive Src where
  | reg (r : Reg) (site : Nat)
  | pred (n : Nat)
  | mask (n : Nat)
  | cr (n : Nat)
  deriving DecidableEq, Repr

/-- Check one source in a lane. -/
def State.chkSrc (s : State) (p : Pod) (w : Wave) (k : Crew) (lane : Nat) : Src → Option Chk
  | .reg r site => s.chkReg p w r site lane
  | .pred n => parityFail (w.parity.contains (parP n lane)) lane
  | .mask n => parityFail (w.parity.contains (parQ n)) lane
  | .cr n => parityFail (s.crBad p w k n) lane

/-- Check an instruction's sources in every active lane, the lowest lane first and in operand order (R60, R61). -/
def State.chkSrcs (s : State) (p : Pod) (w : Wave) (k : Crew) (l : List Src) : Option Chk :=
  p.lanes.findSome? fun lane => l.findSome? (s.chkSrc p w k lane)

/-- Registers checked under their own class's SITE, as sources. -/
def sources (rs : List Reg) : List Src := rs.map fun r => .reg r r.site

/-- CHKINFO (R62). -/
def chkInfo (c : Chk) (poison final : Bool) : BitVec 64 :=
  BitVec.ofNat 64 (c.syn.toNat * 2 ^ 56 + c.lane * 2 ^ 48 + c.site * 2 ^ 40 + c.reg * 2 ^ 32 +
    (if c.ue then 16 else 0) + (if c.addr.isSome then 8 else 0) + (if poison then 4 else 0) + (if final then 2 else 0) + 1)

/-! ### Issue (R166) -/

/-- Among ready threads, the one whose last issue is oldest, ties to the lowest PC (R166). -/
def Wave.oldest (w : Wave) : Option Thread :=
  (w.threads.filter fun e => e.2.hold = .ready).foldl (fun o e =>
    match o with
    | none => some e.2
    | some t => if e.2.last < t.last || (e.2.last == t.last && decide (e.2.pc.toNat < t.pc.toNat)) then some e.2 else o) none

/-- Some ready thread stands at the selected PC. -/
def Wave.selReady (w : Wave) : Bool := w.threads.any fun e => e.2.hold = .ready ∧ e.2.pc = w.sel

/-- End the quantum when its count is reached or no ready thread has the selected PC (R166). A new QUANTUM takes effect
here (R167). -/
def Wave.reselect (w : Wave) (q : Nat) : Wave :=
  if w.quant < w.quantum ∧ w.selReady then w
  else
    match w.oldest with
    | none => w
    | some t => { w with sel := t.pc, quant := 0, quantum := q }

/-- The pod's lanes: every ready thread at the selected PC (R166). -/
def Wave.podLanes (w : Wave) : List Nat :=
  (w.threads.filter fun e => e.2.hold = .ready ∧ e.2.pc = w.sel).map fun e => e.1

/-- The lowest of some PCs. -/
def lowestPc (l : List VAddr) (d : VAddr) : VAddr :=
  match l with
  | [] => d
  | x :: xs => xs.foldl (fun a b => if b.toNat < a.toNat then b else a) x

/-- The issue of a pod is counted in the wave (R166, R187), and each thread goes to its next PC. -/
def Wave.issued (w : Wave) (lanes : List Nat) (stamp quantum : Nat) (count : Bool) (next : Nat → VAddr) : Wave :=
  let w := { w with
    threads := w.threads.mapAll fun i t => if lanes.contains i then { t with pc := next i, last := stamp } else t
    sel := lowestPc (lanes.map next) w.sel
    quant := w.quant + 1
    nprem := if count then w.nprem - 1 else w.nprem
    lastIssue := stamp }
  w.reselect quantum

/-- An instruction has completed for its pod. `count` is false for the `nopre` that sets a window (R187). -/
def State.retireWith (s : State) (p : Pod) (count : Bool) (next : Nat → VAddr) : State :=
  let st := s.stamp + 1
  let ki := (s.wave? p.core p.slot).elim 0 fun w => w.crew
  let q := (s.crew? p.core ki).elim 64 fun k => k.body.quantum
  let s := s.modWave p.core p.slot fun w => w.issued p.lanes st q count next
  { s.modCrew p.core ki fun k => { k with issued := (k.issued + 1) % 2 ^ 48 } with stamp := st }

/-- An instruction that issued earlier is over: its lanes go on after it, and nothing is counted (R285). -/
def Wave.wentOn (w : Wave) (lanes : List Nat) (quantum : Nat) (next : VAddr) : Wave :=
  { w with
    threads := w.threads.mapAll fun i t => if lanes.contains i then { t with pc := next } else t
    sel := next }.reselect quantum

/-- The address after the instruction (R206). -/
def Pod.after (p : Pod) : VAddr := p.pc + BitVec.ofNat 58 p.len

/-- An instruction completes and every lane goes on after it. -/
def State.retire (s : State) (p : Pod) : State := s.retireWith p true fun _ => p.after

/-- Threads of a wave are held for a reason. -/
def Wave.holdLanes (w : Wave) (lanes : List Nat) (h : Hold) : Wave :=
  lanes.foldl (fun w l => w.modThread l fun t => { t with hold := h }) w

/-- An instruction that issued earlier is over (R285). -/
def State.goOn (s : State) (p : Pod) : State :=
  let q := ((s.wave? p.core p.slot).bind fun w => s.crew? p.core w.crew).elim 64 fun k => k.body.quantum
  s.modWave p.core p.slot fun w => w.wentOn p.lanes q p.after

/-- The pod's threads are held at the instruction, which has performed nothing (R44, R262, R315). The port has served them. -/
def State.hold (s : State) (p : Pod) (h : Hold) : State :=
  s.modWave p.core p.slot fun w => { w.holdLanes p.lanes h with lastIssue := s.stamp + 1 }

/-- The issue port that serves a slot of a core, numbered over the device (R165). -/
def portOf (core slot : Nat) : Nat := 4 * core + slot / 8

/-- The number of a wave over the device. -/
def waveNo (core slot : Nat) : Nat := 32 * core + slot

/-- The pod does not issue in this cycle, because a resource that it needs is held: its port is free for another wave's
(R165). -/
def State.stalled (s : State) (p : Pod) : State :=
  { s with ported := s.ported.filter (· != portOf p.core p.slot), kept := waveNo p.core p.slot :: s.kept }

/-- The pod does not issue, and its threads are held at the instruction until what they wait for comes (R125, R175, R181). -/
def State.heldBack (s : State) (p : Pod) (h : Hold) : State :=
  (s.stalled p).modWave p.core p.slot fun w => w.holdLanes p.lanes h

/-- Threads of a wave held for one reason become ready. -/
def Wave.wake (w : Wave) (h : Hold) : Wave :=
  { w with threads := w.threads.mapAll fun _ t => if t.hold = h then { t with hold := .ready } else t }

/-- Threads of a core held for one reason become ready. -/
def State.wakeCore (s : State) (core : Nat) (h : Hold) : State :=
  s.modCore core fun k => { k with waves := k.waves.mapAll fun _ w => w.wake h }

/-! ### Writing registers with origin entries -/

/-- Write a result in the pod's lanes; the overwritten registers' origin entries are freed (R62). -/
def State.writeReg (s : State) (p : Pod) (r : Reg) (f : Nat → GUnit) : State :=
  let k := fun (k : Core) => { k with waves := k.waves.alter p.slot fun w => w.setLanes r p.lanes f }
  s.modCore p.core fun x =>
    let x := k x
    if x.origin.isEmpty then x
    else if r.uniform then x.originFree p.slot r.code 0
    else p.lanes.foldl (fun x l => x.originFree p.slot r.code l) x

/-- Write a predicate in the pod's lanes. -/
def State.writePred (s : State) (p : Pod) (n : Nat) (f : Nat → Bool) : State :=
  s.modWave p.core p.slot fun w => w.setPred n p.lanes f

/-- Clear the idempotent bit of the pod's wave (R185). -/
def State.clearIdem (s : State) (p : Pod) : State := s.modWave p.core p.slot Wave.clearIdem

/-- Set the escaped bit of the pod's crew (R364). -/
def State.escape (s : State) (p : Pod) (w : Wave) : State :=
  s.modCrew p.core w.crew fun k => { k with escaped := true }

/-! ### Release of masks and of the crew barrier, at the end of a cycle -/

/-- Every member of a mask has arrived (R169). -/
def Wave.complete (w : Wave) (q : Nat) : Bool :=
  (w.mask q).member != 0 && (w.mask q).arrived &&& (w.mask q).member == (w.mask q).member

/-- Threads with a bit of a mask's arrival set proceed to their next PC; `join` and `wait` are 4 bytes long (R169). -/
def Wave.releaseMask (w : Wave) (q : Nat) : Wave :=
  let m := w.mask q
  if w.complete q then
    let go (i : Nat) (t : Thread) : Bool := m.arrived.getLsbD i && (match t.hold with
      | .join n => n == q
      | .wait n _ _ => n == q
      | _ => false)
    let preds := (span 0 32).filterMap fun l => (w.threads.find l).bind fun t =>
      if go l t then (match t.hold with | .wait _ pd _ => some (l, pd) | _ => none) else none
    let w := preds.foldl (fun w x => w.setPred x.2 [x.1] fun _ => false) w
    let pcs := w.threads.filterMap fun e => if go e.1 e.2 then some (e.2.pc + 4#58) else none
    let w := { w with
      threads := w.threads.mapAll fun i t => if go i t then { t with hold := .ready, pc := t.pc + 4#58 } else t
      sel := lowestPc pcs w.sel
      quant := 0 }
    w.setMask q { m with arrived := 0 }
  else w

/-- Every complete mask of a wave releases its threads (R169). -/
def Wave.releaseMasks (w : Wave) : Wave := (span 0 12).foldl Wave.releaseMask w

/-- Live members of a crew, by slot and lane. -/
def Core.members (k : Core) (crew : Nat) : List (Nat × Nat × Thread) :=
  (span 0 32).flatMap fun sl =>
    match k.waves.find sl with
    | some w => if w.crew == crew then (span 0 32).filterMap fun l => (w.threads.find l).map fun t => (sl, l, t) else []
    | none => []

/-- The highest rank in use, plus 1. -/
def Core.nextRank (k : Core) (crew : Nat) : Nat := greatest ((k.members crew).map fun x => x.2.2.rank + 1)

/-- The barrier watchdog's count (R365). -/
def CrewBar.cycles (b : CrewBar) (now : Nat) : Nat := b.wdAcc + b.wdSince.elim 0 fun t => now - t
/-- The count pauses. -/
def CrewBar.pause (b : CrewBar) (now : Nat) : CrewBar := { b with wdAcc := b.cycles now, wdSince := none }
/-- The count goes on. -/
def CrewBar.restart (b : CrewBar) (now : Nat) : CrewBar := { b with wdAcc := b.cycles now, wdSince := some now }

/-- A crew enters a phase: the barrier watchdog counts while the crew runs, and not during a shadow, a rollback, a capture
or a stop (R365). -/
def Crew.setPhase (k : Crew) (ph : Phase) (now : Nat) : Crew :=
  { k with
    phase := ph
    body := { k.body with bar := k.body.bar.map fun b => if ph = .run then b.restart now else b.pause now } }

/-- The matrix engine leaves a crew's multiply-accumulate, which goes on when it issues again (R285). -/
def Core.pauseMma (c : Core) (crew : Nat) : Core :=
  { c with waves := c.waves.mapAll fun _ w =>
    if w.crew == crew then { w with mma := w.mma.map fun m => { m with runs := false } } else w }

/-- A crew of a core enters a phase; one that runs on lets `cjoin` into it go on (R175, R188), and one that stops leaves the matrix
engine (R285). -/
def State.setPhase (s : State) (core crew : Nat) (ph : Phase) : State :=
  let s := s.modCrew core crew fun k => k.setPhase ph (s.cycOf core)
  if ph = .run then s.wakeCore core .room else s.modCore core fun c => c.pauseMma crew

/-- The crew barrier's count is met (R260). -/
def Core.barDone (c : Core) (crew : Nat) (b : CrewBar) : Bool :=
  let ms := c.members crew
  if b.count = 0 then !ms.isEmpty && ms.all fun x => decide (x.2.2.hold = .cbar) else decide (b.arrived ≥ b.count)

/-- The test of a crew's barrier at the end of a cycle (R260): when its count is met, arrived threads go to their next PC, the
interval ends, and the shadow is taken before the next issue (R359). A crew that a rollback, a capture or its context's stop
has taken out of its run completes none. -/
def State.testBarrier (s : State) (core crew : Nat) : State :=
  match s.crew? core crew with
  | none => s
  | some k =>
    match k.body.bar with
    | none => s
    | some b =>
      if (s.core core).barDone crew b ∧ (k.phase = .run ∨ k.phase = .shadow) ∧ !(s.ctx k.ctx).stopping then
        let s := s.modCore core fun c => { c with waves := c.waves.mapAll fun _ w =>
          if w.crew == crew then
            let pcs := w.threads.filterMap fun t => if t.2.hold = .cbar then some (t.2.pc + 4#58) else none
            { w with
              threads := w.threads.mapAll fun _ t =>
                if t.hold = .cbar then { t with hold := .ready, pc := t.pc + 4#58 } else t
              sel := if pcs.isEmpty then w.sel else lowestPc pcs w.sel
              quant := if pcs.isEmpty then w.quant else 0 }
          else w }
        (s.modCrew core crew fun k =>
          { k with body := { k.body with bar := none }, bars := (k.bars + 1) % 2 ^ 32 }).setPhase core crew .shadow
      else s

/-! ### Context faults and the handler -/

/-- A context fault (R311): the context stops, and its cluster's Acorn sends FAULT to Hazel (R335, R339). The first fault
of a context is the one recorded. -/
def State.contextFault (s : State) (ctx core lane node : Nat) (cause : Cause) (trapcause : BitVec 64) (pc : VAddr) (addr : Nat) :
    State :=
  if (s.ctx ctx).stopping then s
  else
    (s.modCtx ctx fun c => { c with fault := some ⟨cause, pc, addr, core, lane, node⟩, stopping := true }).sendUp
      (clusterOf core) (.fault cause trapcause pc addr core lane ctx node false)

/-- Thread ids are free, and an `emit` that found none goes on, on whatever core it is held (R161, R181, R188). -/
def State.dropIds (s : State) (ctx : Nat) (out : List Nat) : State :=
  let s := s.modCtx ctx fun c => { c with ids := c.ids.filter fun i => !out.contains i }
  { s with cores := s.cores.mapAll fun _ k => { k with waves := k.waves.mapAll fun _ w => w.wake .room } }

/-- The OUTCOME that a trap gives an audit's replay (R369, R385): 2 for PERM on a page that the replay root does not map, 3 for
any other trap. An access to a page of the lazy window that has no log copy is a binding request, and gives 3. -/
def State.replayFate (s : State) (u : Nat) (g : Agent) (cause : Cause) (addr : Nat) : Nat :=
  let c := s.ctx g.ctx
  let page := s.pageVa g addr / 16384
  let logged := s.hazel.audits.any fun a => a.uid == u && a.pages.any fun e => e.1 == page
  if cause = .perm ∧ (addr / 2 ^ 55 < 4 ∨ addr / 2 ^ 55 = 5) ∧ !logged ∧ !(c.links.any fun e => c.lzb / 16384 + e.1 == page) then 2
  else 3

/-- A command of a link brings a saved crew of an audit's replay. -/
def Cmd.savesReplay (u : Nat) : Cmd → Bool
  | .saved _ e => e.replay == some u
  | _ => false

/-- The end of an audit replay by a trap (R369), with its OUTCOME: every crew of the replay, those that `cleave` made and saved
ones too, is at its end; the context is unaffected. -/
def State.endReplay (s : State) (u fate : Nat) : State :=
  let s := { s with hazel := { s.hazel with
    audits := s.hazel.audits.map fun (a : Audit) => if a.uid == u then { a with fate := some (a.fate.getD fate) } else a
    resumes := s.hazel.resumes.filter fun e => e.replay != some u } }
  s.cores.foldl (fun (s : State) c =>
    c.2.crews.foldl (fun (s : State) k =>
      if k.2.replay == some u then
        let ids := ((s.core c.1).members k.1).map fun x => x.2.2.id
        (s.dropIds k.2.ctx ids).modCore c.1 fun x => { x with
          waves := x.waves.filter fun e => e.2.crew != k.1
          bins := x.bins.filter fun e => e.2.crew != k.1
          crews := x.crews.alter k.1 fun c => { c with phase := .ended } }
      else s) s) s

/-- TRAPCAUSE (R312) for a trap of a pod. -/
def trapcauseOf (p : Pod) (cause : Cause) (lane : Nat) (inH : Bool) : BitVec 64 :=
  BitVec.ofNat 64 (p.word.toNat * 2 ^ 32 + lane * 2 ^ 16 + (if inH then 2 ^ 15 else 0) + (if p.len = 4 then 2 ^ 8 else 0) + cause.code)

/-- The fault is delivered to the context, or ends the replay crew. -/
def State.deliver (s : State) (p : Pod) (w : Wave) (k : Crew) (cause : Cause) (lane addr : Nat) : State :=
  match k.replay with
  | some u => s.endReplay u (s.replayFate u ⟨p.core, p.slot, k.ctx, some (w.thread lane).id, 0, some u, lane⟩ cause addr)
  | none => s.contextFault k.ctx p.core lane k.node cause (trapcauseOf p cause lane w.inHandler) p.pc (addr % 2 ^ 58)

/-- CHK or HBMUE (R62 to R65, R362): final on a poisoned granule, on the second failure of an interval, or (as ESC) when
the escaped bit is set; otherwise the crew rolls back. -/
def State.raiseChk (s : State) (p : Pod) (w : Wave) (k : Crew) (cause : Cause) (c : Chk) : State :=
  let twice := k.retry && (match k.lastBad, c.addr with
    | some a, some b => a == b
    | _, _ => false)
  let final := c.poison || k.retry || k.escaped
  let s := s.modWave p.core p.slot fun w => { w.mend [parCr 0x013, parCr 0x014] with
    chkinfo := chkInfo c (c.poison || twice) final
    chkaddr := BitVec.ofNat 64 ((c.addr.getD 0) / 4 * 4) }
  let addr := c.addr.getD 0
  if c.poison then s.deliver p w k cause c.lane (addr / 4 * 4)
  else if k.retry then
    (if twice then s.poison addr else s).deliver p w k cause c.lane (addr / 4 * 4)
  else if k.escaped then s.deliver p w k .esc c.lane (addr / 4 * 4)
  else (s.modCrew p.core w.crew fun k => { k with retry := true, lastBad := c.addr }).setPhase p.core w.crew (.rollback p.slot)

/-- The trap registers at handler entry or at a breakpoint stop (R312, R313, R315, R317). -/
def Wave.trapRegs (w : Wave) (p : Pod) (cause : Cause) (lane addr : Nat) (inH : Bool) : Wave :=
  { w.mend [parCr 0x030, parCr 0x031, parCr 0x032] with
    trapcause := trapcauseOf p cause lane inH
    trappc := BitVec.ofNat 64 p.pc.toNat
    trapaddr := BitVec.ofNat 64 (addr % 2 ^ 58)
    recs := w.recs.del p.low }

/-- The handler's first instruction (R314). -/
def Wave.entry (w : Wave) : VAddr := BitVec.ofNat 58 (w.ehbase.toNat % 2 ^ 58 / 2 * 2)

/-- Entry to the trap handler (R315): the trap registers, the entered set, the PCs, and the idempotent bit. -/
def State.enterHandler (s : State) (p : Pod) (w : Wave) (cause : Cause) (lane addr : Nat) : State :=
  (s.modWave p.core p.slot fun w =>
    ({ w.trapRegs p cause lane addr true with entered := laneSet p.lanes }).clearIdem).retireWith p true fun _ => w.entry

/-- A breakpoint stop (R317): the crew stops, the trapping pod's threads stand at the `bkpt`, and FAULT reports it. -/
def State.bkptStop (s : State) (p : Pod) (w : Wave) (k : Crew) (lane : Nat) : State :=
  let s := (s.hold p .bkpt).modWave p.core p.slot fun w => w.trapRegs p .bkpt lane 0 false
  let s := (s.modCrew p.core w.crew fun k => { k with bkstop := some (p.slot, laneSet p.lanes) }).setPhase p.core w.crew .stopped
  s.sendUp (clusterOf p.core) (.fault .bkpt (trapcauseOf p .bkpt lane false) p.pc 0 p.core lane k.ctx k.node true)

/-- TAKING AN EXCEPTION (R310, R311, R315 to R317): the instruction of the pod has performed nothing, and the trap has the
fate its cause and the wave's handler state give it. -/
def State.raise (s : State) (p : Pod) (w : Wave) (k : Crew) (t : Trap) : State :=
  match t.chk with
  | some c => s.raiseChk p w k t.cause c
  | none =>
    if k.replay.isSome then s.deliver p w k t.cause t.lane t.addr
    else if !t.cause.toHandler then s.deliver p w k t.cause t.lane t.addr
    else if w.inHandler then
      if p.lanes.any fun l => w.entered.getLsbD l then
        s.deliver p w k (if t.cause = .und then .dbl else t.cause) t.lane t.addr
      else if w.ehbase.getLsbD 0 then s.hold p .handler
      else if t.cause = .bkpt then s.bkptStop p w k t.lane
      else s.deliver p w k t.cause t.lane t.addr
    else if w.ehbase.getLsbD 0 then s.enterHandler p w t.cause t.lane t.addr
    else if t.cause = .bkpt then s.bkptStop p w k t.lane
    else s.deliver p w k t.cause t.lane t.addr

/-- Threads leave the entered set; IN becomes 0 when none remains, and held pods issue again (R315, R316). -/
def Wave.leaveHandler (w : Wave) (lanes : List Nat) : Wave :=
  if w.inHandler then
    let e := w.entered &&& ~~~ laneSet lanes
    if e = 0 then ({ w with entered := 0, trapcause := w.trapcause &&& ~~~ (1#64 <<< 15) }).wake .handler
    else { w with entered := e }
  else w

/-- RETURN FROM AN EXCEPTION (R316): each issuing thread goes to the address in TRAPPC. -/
def State.trapReturn (s : State) (p : Pod) (w : Wave) : State :=
  (s.modWave p.core p.slot fun w => w.leaveHandler p.lanes).retireWith p true fun _ => BitVec.ofNat 58 w.trappc.toNat

/-! ### The form of an instruction's meaning -/

/-- What an instruction does for its pod. -/
inductive Eff where
  /-- It has performed, and has set its threads' PCs. -/
  | done (s : State)
  /-- It raises a trap and has performed nothing. -/
  | trap (s : State) (t : Trap)
  /-- It does not issue, and its threads are held at the instruction (R125, R166, R175, R181). -/
  | held (s : State) (h : Hold)

/-- The outcome of an effect. -/
def Eff.state (e : Eff) (p : Pod) (w : Wave) (k : Crew) : State :=
  match e with
  | .done s => s
  | .trap s t => s.raise p w ((s.crew? p.core w.crew).getD k) t
  | .held s h => s.heldBack p h

/-- The pod waits on the scoreboard or on a busy unit: nothing is performed, and its threads stay ready (R166, R204). -/
def stall (s : State) (p : Pod) : Eff := .done (s.stalled p)

/-- Operand checks precede the effect (R214 step 6). -/
def checked (s : State) (c : Option Chk) (e : Eff) : Eff :=
  match c with
  | some c => .trap s c.trap
  | none => e

/-- The first instruction of a wave restored with a failed parity raises CHK with SITE 0x0B (R194). It comes before the checks of
the instruction's operands and after the conditions that R214 puts before those (DEDUCED, log 103). -/
def wakeChk (s : State) (p : Pod) (w : Wave) (e : Eff) : Eff := checked s (parityChk w p [parRestored]) e

/-- Run an instruction for the issuing pod. Registers beyond the allocation raise PERM first (R191, R214 step 4). -/
def withRegs (s : State) (regs : List Reg) (f : Pod → Wave → Crew → Eff) : Res :=
  match s.pod with
  | none => .fault .noPod
  | some p =>
    match s.wave? p.core p.slot with
    | none => .fault .noPod
    | some w =>
      match s.crew? p.core w.crew with
      | none => .fault .noPod
      | some k =>
        if regs.all k.has then .next ((f p w k).state p w k)
        else .next ((Eff.trap s (.plain .perm p.low)).state p w k)

/-- Run an instruction on which no condition of R214 stands between its registers and the checks of its operands. -/
def withPod (s : State) (regs : List Reg) (f : Pod → Wave → Crew → Eff) : Res :=
  withRegs s regs fun p w k => wakeChk s p w (f p w k)

/-- q0 governs (R173, R214 steps 5 and 6): CONV unless the pod is exactly its member set, and then the checks, q0's first
(R60). -/
def governed (s : State) (p : Pod) (w : Wave) (e : Eff) : Eff :=
  if laneSet p.lanes = (w.mask 0).member then checked s (parityChk w p [parRestored, parQ 0]) e
  else .trap s (.plain .conv p.low)

/-- The first of two checks that fails. -/
def orChk (a b : Option Chk) : Option Chk :=
  match a with
  | some c => some c
  | none => b

end Sys2Proof.Machine
end

