-- ==== Sys2Proof/Machine/Operands.lean ====
section
/-! DEFINITION. Operand forms: immediates (R224, R238), address operands (R199, R246), the translation of every lane's
access before any performs (R39, R44), and the granule accesses of a thread (R69 to R71, R98, R101). -/

namespace Sys2Proof.Machine

/-- `sext` to 32 bits (R224). -/
def sext32 {w : Nat} (i : BitVec w) : Word := i.signExtend 32
/-- `zext` to 32 bits (R224). -/
def zext32 {w : Nat} (i : BitVec w) : Word := i.setWidth 32
/-- The low 32 bits of a number. -/
def w32 (n : Nat) : Word := BitVec.ofNat 32 n
/-- A 64-bit value from a low and a high word (R210). -/
def pair (lo hi : Word) : BitVec 64 := hi ++ lo
/-- The low word. -/
def lo32 (x : BitVec 64) : Word := x.setWidth 32
/-- The high word. -/
def hi32 (x : BitVec 64) : Word := (x >>> 32).setWidth 32

/-- AB0 to AB3 (R198). -/
def Crew.ab (k : Crew) (n : Nat) : Nat := (k.body.ab.getD n 0).toNat

/-- The address of a memory operand (R199): exact; none outside 0 to 2^58 − 1. -/
def addrSum (base reg : Nat) (off : Int) : Option Nat :=
  let a : Int := (base : Int) + reg + off
  if a < 0 ∨ a ≥ 2 ^ 58 then none else some a.toNat

/-- The agent of a lane's thread (R28). -/
def laneAgent (p : Pod) (w : Wave) (k : Crew) (lane : Nat) : Agent :=
  ⟨p.core, p.slot, k.ctx, (w.threads.find lane).map fun t => t.id, k.decl.lines * 128, k.replay, lane⟩

/-- One translated granule: lane, virtual address and place. -/
structure Slotted where
  lane : Nat
  va   : Nat
  at_  : Xlat
  deriving DecidableEq, Repr

/-- An access that waits for a translation (R44): lane, address, condition and level. -/
structure Miss where
  lane  : Nat
  va    : Nat
  cond  : Nat
  level : Nat
  deriving DecidableEq, Repr

/-- What the lanes' addresses come to, before any access performs: the places of the lanes that translate, the lanes that
meet a replayable fault, and the fatal fault that ended the search. -/
structure Found where
  places : List Slotted
  misses : List Miss
  fatal  : Option Trap
  deriving DecidableEq, Repr

/-- The outcome of translating a pod's accesses: the places, the trap, or a state in which the pod waits at the instruction. -/
inductive Gather where
  | ok (l : List Slotted)
  | trap (t : Trap)
  | wait

/-- Translate the granules of one lane's access in order, up to its first fault (R38, R44). `deny` names the places that the
form refuses with PERM (R120). -/
def State.lanePlaces (s : State) (g : Agent) (acc : Access) (deny : Xlat → Bool) : List Nat → Found × State
  | [] => (⟨[], [], none⟩, s)
  | va :: rest =>
    match s.translate g va acc with
    | (.fault c, s) => (⟨[], [], some ⟨c, g.lane, va, none⟩⟩, s)
    | (.replay _ cond level, s) => (⟨[], [⟨g.lane, va, cond, level⟩], none⟩, s)
    | (x, s) =>
      if deny x then (⟨[], [], some ⟨.perm, g.lane, va, none⟩⟩, s)
      else
        match State.lanePlaces s g acc deny rest with
        | (f, s) => ({ f with places := ⟨g.lane, va, x⟩ :: f.places }, s)

/-- The granule addresses of an access. -/
def granules (va n : Nat) : List Nat := (span 0 n).map fun i => va + 4 * i

/-- Form, align and translate the lanes' addresses, lane by lane (R199, R246, R214 step 7): the address sum, alignment,
region and translation of the lowest lane come first, and the first fatal fault ends the search. A sum that is no virtual address
has no address to show (DESIGN CHOICE, log 117). -/
def State.findPlaces (s : State) (p : Pod) (w : Wave) (k : Crew) (acc : Access) (deny : Xlat → Bool) (align n : Nat) :
    List (Nat × Option Nat) → Found × State
  | [] => (⟨[], [], none⟩, s)
  | (lane, none) :: _ => (⟨[], [], some ⟨.page, lane, 0, none⟩⟩, s)
  | (lane, some va) :: rest =>
    if (va % align) ≠ 0 then (⟨[], [], some ⟨.align, lane, va, none⟩⟩, s)
    else
      match s.lanePlaces (laneAgent p w k lane) acc deny (granules va n) with
      | (f, s) =>
        match f.fatal with
        | some t => (⟨[], [], some t⟩, s)
        | none =>
          match State.findPlaces s p w k acc deny align n rest with
          | (f', s) => (⟨f.places ++ f'.places, f.misses ++ f'.misses, f'.fatal⟩, s)

/-- Attach each waiting access to its record, as long as the misses find room (R43, R44): the lanes with their records. -/
def State.attachAll (s : State) (p : Pod) (w : Wave) (k : Crew) (acc : Access) : List Miss → List (Nat × Nat × Nat) × State
  | [] => ([], s)
  | m :: ms =>
    let g := laneAgent p w k m.lane
    let va := s.pageVa g m.va
    if s.missRoom g (va / 16384) acc then
      match s.attach g va (va / 16384) m.cond m.level acc with
      | (u, s) =>
        match State.attachAll s p w k acc ms with
        | (l, s) => ((m.lane, u, m.va) :: l, s)
    else ([], s)

/-- The pod waits at the instruction (R44): each lane on its own record, the lanes that translate with the first of them.
Without a record it waits for room in the cluster's queue, and is ready to try again (R43). -/
def State.holdMisses (s : State) (p : Pod) (l : List (Nat × Nat × Nat)) : State :=
  match l with
  | [] => s.stalled p
  | (_, u, va) :: _ =>
    (s.hold p (.replay u va)).modWave p.core p.slot fun w =>
      l.foldl (fun w x => w.modThread x.1 fun t => { t with hold := .replay x.2.1 x.2.2 }) w

/-- With a full queue of misses, some lane's access would miss: the instruction does not issue (R43). -/
def State.crowded (s : State) (p : Pod) (w : Wave) (k : Crew) (acc : Access) (n : Nat) (l : List (Nat × Option Nat)) : Bool :=
  s.queueFull p.core && l.any fun x => x.2.any fun va => (granules va n).any fun a => s.wouldMiss (laneAgent p w k x.1) a acc

/-- Translate every lane's access before any performs (R39, R43, R44). Where a lane meets a replayable fault and a higher
lane a fatal one, the pod waits first and traps when it issues again: the model's choice (DESIGN CHOICE, log 81). -/
def State.gatherDeny (s : State) (p : Pod) (w : Wave) (k : Crew) (acc : Access) (deny : Xlat → Bool) (align n : Nat)
    (l : List (Nat × Option Nat)) : Gather × State :=
  if s.crowded p w k acc n l then (.wait, s.stalled p)
  else
    match s.findPlaces p w k acc deny align n l with
    | (f, s) =>
      match f.misses, f.fatal with
      | [], some t => (.trap t, s)
      | [], none => (.ok f.places, s)
      | ms, _ =>
        match s.attachAll p w k acc ms with
        | (held, s) => (.wait, s.holdMisses p held)

/-- The addresses of a load or store. -/
def State.gather (s : State) (p : Pod) (w : Wave) (k : Crew) (acc : Access) (align n : Nat)
    (l : List (Nat × Option Nat)) : Gather × State :=
  s.gatherDeny p w k acc (fun _ => false) align n l

/-- Continue with the translated places, or trap or hold. -/
def withPlaces (g : Gather × State) (f : State → List Slotted → Eff) : Eff :=
  match g with
  | (.ok l, s) => f s l
  | (.trap t, s) => .trap s t
  | (.wait, s) => .done s

/-! ### Granule accesses -/

/-- A scratchpad unit of a crew (R67). -/
def Crew.spadGet (k : Crew) (off : Nat) : GUnit := k.spad.getD (off / 4) .zero

/-- Write a scratchpad unit: TOUCHED and INTERVAL of its line are set (R70). -/
def Crew.spadPut (k : Crew) (off : Nat) (u : GUnit) : Crew :=
  { k with
    spad := k.spad.put (off / 4) u .zero
    body := { k.body with touched := k.body.touched ||| (1#2048 <<< (off / 128)) }
    interval := k.interval ||| (1#2048 <<< (off / 128)) }

/-- The counts of a barrier object are complete: ARRIVED ≥ EXPECTED (R126). -/
def Crew.objComplete (k : Crew) (off : Nat) : Bool :=
  decide ((k.spadGet (off + 4)).data.toNat ≥ (k.spadGet off).data.toNat)

/-- Origin key of a scratchpad granule of a crew (R62). -/
def spadKey (off : Nat) : Nat := 0x1000 + off / 4

/-- Write a scratchpad unit and free its origin entry (R62). -/
def State.spadPut (s : State) (core crew off : Nat) (u : GUnit) : State :=
  (s.modCrew core crew fun k => k.spadPut off u).modCore core fun k =>
    if k.origin.isEmpty then k else k.originFree crew (spadKey off) 0

/-- Physical address behind a unit: its own, or that of a scratchpad granule's origin entry (R62). Bit 0 says that the page is an
MS page (R65). -/
def State.sourcePa (s : State) (core crew : Nat) (x : Xlat) : Option Nat :=
  match x with
  | .mem pa _ ms _ => some (if ms then pa + 1 else pa)
  | .spad off => (s.core core).originOf crew (spadKey off) 0
  | _ => none

/-- A thread's load of a granule: scratchpad, L1 when weak, home slice when strong, or a device window (R69, R98, R101). -/
def State.loadAt (s : State) (p : Pod) (w : Wave) (k : Crew) (x : Xlat) (strong : Bool) : GUnit × State :=
  match x with
  | .spad off => (((s.crew? p.core w.crew).getD k).spadGet off, s)
  | .mem pa bind _ cz =>
    if pa ≥ hbmSize then s.devGet pa
    else if strong then s.strongGet p.core pa (some cz)
    else s.weakGet p.core p.slot k.ctx pa bind cz
  | _ => (.zero, s)

/-- A thread's store of a granule. A write to control space or a PCIe window sets the escaped bit (R364). -/
def State.storeAt (s : State) (p : Pod) (w : Wave) (k : Crew) (x : Xlat) (u : GUnit) (strong : Bool) : State :=
  match x with
  | .spad off => s.spadPut p.core w.crew off u
  | .mem pa bind _ cz =>
    if pa ≥ hbmSize then
      let s := s.devPut pa u
      if winKind pa = 3 then s else s.escape p w
    else if strong then s.strongPut p.core k.ctx pa bind u (some cz)
    else s.weakPut p.core p.slot k.ctx pa bind cz u
  | _ => s

/-- Load every translated granule in order. Lanes of one weak load that read one granule receive one value (R100):
`seen` holds the granules already read. In a window that is not cached too they share one read: whether R100 or R101 counts
there is the model's choice (DESIGN CHOICE, log 82). -/
def State.loadFrom (s : State) (p : Pod) (w : Wave) (k : Crew) (strong : Bool) (seen : List (Xlat × GUnit)) :
    List Slotted → List (Nat × GUnit × Option Nat) × State
  | [] => ([], s)
  | x :: xs =>
    match (match seen.find? fun e => e.1 = x.at_ with
      | some e => (e.2, s)
      | none => s.loadAt p w k x.at_ strong) with
    | (u, s) =>
      match State.loadFrom s p w k strong (if strong then [] else (x.at_, u) :: seen) xs with
      | (l, s) => ((x.lane, u, s.sourcePa p.core w.crew x.at_) :: l, s)

/-- Load every translated granule. -/
def State.loadAll (s : State) (p : Pod) (w : Wave) (k : Crew) (strong : Bool) (l : List Slotted) :
    List (Nat × GUnit × Option Nat) × State :=
  s.loadFrom p w k strong [] l

/-- A store that a PCIe port refuses to let out (R20). -/
def Xlat.refuses (x : Xlat) (u : GUnit) : Bool :=
  match x with
  | .mem pa _ _ _ => exitFails pa u
  | _ => false

/-- Store units at translated granules, in order (R100). A failed check at a PCIe port's exit ends the transfer: nothing more of
that lane's access leaves (R20, log 83). `dead` names the lanes whose transfers have ended. -/
def State.storeFrom (s : State) (p : Pod) (w : Wave) (k : Crew) (strong : Bool) (dead : List Nat) : List (Slotted × GUnit) → State
  | [] => s
  | (x, u) :: xs =>
    if dead.contains x.lane then State.storeFrom s p w k strong dead xs
    else State.storeFrom (s.storeAt p w k x.at_ u strong) p w k strong (if x.at_.refuses u then x.lane :: dead else dead) xs

/-- Store units at translated granules. -/
def State.storeAll (s : State) (p : Pod) (w : Wave) (k : Crew) (strong : Bool) (l : List (Slotted × GUnit)) : State :=
  s.storeFrom p w k strong [] l

/-- Put loaded units into a register group, unchanged, noting the origin of bad ones (R62). The units come lane by lane,
`n` per lane. -/
def State.putLoaded (s : State) (p : Pod) (d : Reg) (n : Nat) (l : List (Nat × GUnit × Option Nat)) : State :=
  let lanes := if d.uniform then [p.low] else p.lanes
  lanes.zipIdx.foldl (fun s x =>
    (span 0 n).foldl (fun s i =>
      match l[x.2 * n + i]? with
      | none => s
      | some (_, u, pa) =>
        s.modCore p.core fun c =>
          let c := { c with waves := c.waves.alter p.slot fun w => w.set (d.plus i) x.1 u }
          c.originNote p.slot (d.plus i).code (if d.uniform then 0 else x.1) u pa) s) s

/-- The instruction cache answers, or reads the home slice (R55, R212). -/
def State.icGet (s : State) (core pa : Nat) (cz : Bool) : GUnit × State :=
  match (s.core core).icache.find (pa / 4) with
  | some u => (u, s)
  | none =>
    match (if pa < hbmSize then s.homeGet pa (some cz) else s.devGet pa) with
    | (u, s) => (u, s.modCore core fun k => { k with icache := k.icache.set (pa / 4) u })

/-- An address is in the text region (R26). -/
def inText (a : Int) : Bool := decide (a ≥ 4 * 2 ^ 55) && decide (a < 5 * 2 ^ 55)

end Sys2Proof.Machine
end

