-- ==== Sys2Proof/Machine/Flags.lean ====
section
/-! DEFINITION. The conditions that compares write into predicates (R229, R230, R237). The hardware has no flags register;
its predicates are registers of the wave. -/

namespace Sys2Proof.Machine

/-- The pair is unordered (R229). -/
def fUnord (a b : Word) : Bool := isNan32 a || isNan32 b
/-- Ordered and a = b. -/
def fEq (a b : Word) : Bool := !fUnord a b && num32 a == num32 b
/-- Unordered or a ≠ b. -/
def fNe (a b : Word) : Bool := fUnord a b || num32 a != num32 b
/-- Ordered and a < b. -/
def fLt (a b : Word) : Bool := !fUnord a b && decide (num32 a < num32 b)
/-- Ordered and a ≤ b. -/
def fLe (a b : Word) : Bool := !fUnord a b && decide (num32 a ≤ num32 b)
/-- (a and b) ≠ 0 (R230). -/
def iTst (a b : Word) : Bool := (a &&& b) != 0#32
/-- A compare's result in a uniform register (R237). -/
def boolWord (b : Bool) : Word := if b then 1 else 0

end Sys2Proof.Machine
end

