-- ==== Sys2Proof/Machine/Lane.lean ====
section
/-! DEFINITION. Lane instructions (R218 to R236, R208): integer and bit arithmetic, binary32 and paired 16-bit arithmetic,
compares, selection and predicate logic, conversions, narrow elements, and 64-bit pairs. Each acts in every active lane,
checks its sources and codes its results. -/

namespace Sys2Proof.Machine

/-! ### Shared forms -/

/-- A lane form with a 32-bit result: sources in operand order, destination, and the result in a lane (R218 to R220). -/
def laneOp (s : State) (rs : List Reg) (d : Reg) (f : Wave → Nat → Word) : Res :=
  withPod s (d :: rs) fun p w _ =>
    checked s (s.chkRegs p w (operands rs)) (.done ((s.writeReg p d fun l => coded (f w l)).retire p))

/-- Two 32-bit sources. -/
def lane2 (s : State) (a b d : Reg) (f : Word → Word → Word) : Res :=
  laneOp s [a, b] d fun w l => f (w.word a l) (w.word b l)

/-- One 32-bit source. -/
def lane1 (s : State) (a d : Reg) (f : Word → Word) : Res := laneOp s [a] d fun w l => f (w.word a l)

/-- Two sources and the old destination, which is read (R233), and checked after A and B (DEDUCED, log 115). -/
def lane2d (s : State) (a b d : Reg) (f : Word → Word → Word → Word) : Res :=
  laneOp s [a, b, d] d fun w l => f (w.word a l) (w.word b l) (w.word d l)

/-- A predicate result from register sources and predicates (R229 to R231). -/
def lanePred (s : State) (rs : List Reg) (ps : List Nat) (d : BitVec 3) (f : Wave → Nat → Bool) : Res :=
  withPod s rs fun p w k =>
    checked s (s.chkSrcs p w k (sources rs ++ ps.map .pred))
      (.done ((s.writePred p d.toNat fun l => f w l).retire p))

/-- A compare. -/
def laneCmp (s : State) (a b : Reg) (d : BitVec 3) (f : Word → Word → Bool) : Res :=
  lanePred s [a, b] [] d fun w l => f (w.word a l) (w.word b l)

/-- The 64-bit value of a register pair in a lane (R210). -/
def Wave.dword (w : Wave) (r : Reg) (l : Nat) : BitVec 64 := pair (w.word r l) (w.word (r.plus 1) l)

/-- Write a 64-bit result to a pair (R236). -/
def State.writePair (s : State) (p : Pod) (d : Reg) (f : Nat → BitVec 64) : State :=
  (s.writeReg p d fun l => coded (lo32 (f l))).writeReg p (d.plus 1) fun l => coded (hi32 (f l))

/-- A lane form with a 64-bit result (R236). -/
def laneOp64 (s : State) (rs : List Reg) (d : Reg) (f : Wave → Nat → BitVec 64) : Res :=
  withPod s (d.group 2 ++ rs) fun p w _ =>
    checked s (s.chkRegs p w (operands rs)) (.done ((s.writePair p d (f w)).retire p))

/-- Two 64-bit sources. -/
def lane64 (s : State) (a b d : Reg) (f : BitVec 64 → BitVec 64 → BitVec 64) : Res :=
  laneOp64 s (a.group 2 ++ b.group 2) d fun w l => f (w.dword a l) (w.dword b l)

/-- A 64-bit source and a 32-bit amount. -/
def lane64s (s : State) (a b d : Reg) (f : BitVec 64 → Nat → BitVec 64) : Res :=
  laneOp64 s (a.group 2 ++ [b]) d fun w l => f (w.dword a l) (w.word b l).toNat

/-! ### Integer and bit functions -/

/-- Signed quotient under R152. -/
def idiv32 (a b : Word) : Word := if b = 0 then 0xFFFFFFFF else BitVec.ofInt 32 (a.toInt.tdiv b.toInt)
/-- Signed remainder under R152. -/
def irem32 (a b : Word) : Word := if b = 0 then a else BitVec.ofInt 32 (a.toInt.tmod b.toInt)
/-- Unsigned quotient under R152. -/
def udiv32 (a b : Word) : Word := if b = 0 then 0xFFFFFFFF else w32 (a.toNat / b.toNat)
/-- Unsigned remainder under R152. -/
def urem32 (a b : Word) : Word := if b = 0 then a else w32 (a.toNat % b.toNat)
/-- A signed value clamped to 32 bits (R222). -/
def clamp32 (x : Int) : Word := BitVec.ofInt 32 (min (max x (-2147483648)) 2147483647)
/-- Signed minimum. -/
def imin32 (a b : Word) : Word := if a.sle b then a else b
/-- Signed maximum. -/
def imax32 (a b : Word) : Word := if a.sle b then b else a
/-- Unsigned minimum. -/
def nmin32 (a b : Word) : Word := if a.ule b then a else b
/-- Unsigned maximum. -/
def nmax32 (a b : Word) : Word := if a.ule b then b else a
/-- Shift left by n, 0 when n ≥ 32 (R223). -/
def shl32 (a b : Word) : Word := if b.toNat ≥ 32 then 0 else a <<< b.toNat
/-- Logical shift right by n, 0 when n ≥ 32 (R223). -/
def shr32 (a b : Word) : Word := if b.toNat ≥ 32 then 0 else a >>> b.toNat
/-- Arithmetic shift right; every bit equals a[31] when n ≥ 32 (R223). -/
def sar32 (a b : Word) : Word := if b.toNat ≥ 32 then (if a.msb then 0xFFFFFFFF else 0) else a.sshiftRight b.toNat
/-- Rotate left by b[4:0] (R223). -/
def rotl32 (a : Word) (n : Nat) : Word := a.rotateLeft (n % 32)
/-- Population count (R223). -/
def popc32 (a : Word) : Word := w32 ((span 0 32).filter fun i => a.getLsbD i).length
/-- Leading zero bits; 32 for 0 (R223). -/
def clz32 (a : Word) : Word := w32 (if a = 0 then 32 else 31 - Nat.log2 a.toNat)
/-- Bit reverse (R223). -/
def brev32 (a : Word) : Word := w32 (((span 0 32).filter fun i => a.getLsbD (31 - i)).foldl (fun n i => n + 2 ^ i) 0)
/-- len of R233. -/
def bfLen (b : Word) : Nat := min (b.toNat / 32 % 64) 32
/-- Unsigned bit field (R233). -/
def bfx (a b : Word) : Word := w32 (a.toNat / 2 ^ (b.toNat % 32) % 2 ^ bfLen b)
/-- Signed bit field (R233). -/
def bfxs (a b : Word) : Word := if bfLen b = 0 then 0 else BitVec.ofInt 32 (toSigned (bfLen b) (bfx a b).toNat)
/-- Bit-field insert (R233). -/
def bfi (a b d : Word) : Word :=
  let pos := b.toNat % 32
  let n := min (pos + bfLen b) 32 - pos
  w32 (d.toNat % 2 ^ pos + a.toNat % 2 ^ n * 2 ^ pos + d.toNat / 2 ^ (pos + n) * 2 ^ (pos + n))
/-- The 16-bit element i of a word (R140). -/
def half (a : Word) (i : Nat) : Nat := a.toNat / 65536 ^ i % 65536
/-- The byte i of a word (R140). -/
def byte (a : Word) (i : Nat) : Nat := a.toNat / 256 ^ i % 256

/-! ### Integer arithmetic, major 0x01 -/

/-- IaddN32 (R222). Effect in each active lane as its row. -/
def execIaddN32 (b a d : BitVec 7) (s : State) : Res :=
  lane2 s (.of7 a) (.of7 b) (.of7 d) fun a b => a + b

/-- IsubN32 (R222). Effect in each active lane as its row. -/
def execIsubN32 (b a d : BitVec 7) (s : State) : Res :=
  lane2 s (.of7 a) (.of7 b) (.of7 d) fun a b => a - b

/-- ImulN32 (R222). Effect in each active lane as its row. -/
def execImulN32 (b a d : BitVec 7) (s : State) : Res :=
  lane2 s (.of7 a) (.of7 b) (.of7 d) fun a b => a * b

/-- ImulhiI32 (R222). Effect in each active lane as its row. -/
def execImulhiI32 (b a d : BitVec 7) (s : State) : Res :=
  lane2 s (.of7 a) (.of7 b) (.of7 d) fun a b => BitVec.ofInt 32 (a.toInt * b.toInt / 2 ^ 32)

/-- ImulhiN32 (R222). Effect in each active lane as its row. -/
def execImulhiN32 (b a d : BitVec 7) (s : State) : Res :=
  lane2 s (.of7 a) (.of7 b) (.of7 d) fun a b => w32 (a.toNat * b.toNat / 2 ^ 32)

/-- IminI32 (R222). Effect in each active lane as its row. -/
def execIminI32 (b a d : BitVec 7) (s : State) : Res :=
  lane2 s (.of7 a) (.of7 b) (.of7 d) imin32

/-- IminN32 (R222). Effect in each active lane as its row. -/
def execIminN32 (b a d : BitVec 7) (s : State) : Res :=
  lane2 s (.of7 a) (.of7 b) (.of7 d) nmin32

/-- ImaxI32 (R222). Effect in each active lane as its row. -/
def execImaxI32 (b a d : BitVec 7) (s : State) : Res :=
  lane2 s (.of7 a) (.of7 b) (.of7 d) imax32

/-- ImaxN32 (R222). Effect in each active lane as its row. -/
def execImaxN32 (b a d : BitVec 7) (s : State) : Res :=
  lane2 s (.of7 a) (.of7 b) (.of7 d) nmax32

/-- IabsI32 (R222). Absolute value modulo 2^32. -/
def execIabsI32 (a d : BitVec 7) (s : State) : Res :=
  lane1 s (.of7 a) (.of7 d) fun a => if a.msb then -a else a

/-- IdivI32 (R222). Effect in each active lane as its row. -/
def execIdivI32 (b a d : BitVec 7) (s : State) : Res :=
  lane2 s (.of7 a) (.of7 b) (.of7 d) idiv32

/-- IdivN32 (R222). Effect in each active lane as its row. -/
def execIdivN32 (b a d : BitVec 7) (s : State) : Res :=
  lane2 s (.of7 a) (.of7 b) (.of7 d) udiv32

/-- IremI32 (R222). Effect in each active lane as its row. -/
def execIremI32 (b a d : BitVec 7) (s : State) : Res :=
  lane2 s (.of7 a) (.of7 b) (.of7 d) irem32

/-- IremN32 (R222). Effect in each active lane as its row. -/
def execIremN32 (b a d : BitVec 7) (s : State) : Res :=
  lane2 s (.of7 a) (.of7 b) (.of7 d) urem32

/-- IaddsatI32 (R222). Effect in each active lane as its row. -/
def execIaddsatI32 (b a d : BitVec 7) (s : State) : Res :=
  lane2 s (.of7 a) (.of7 b) (.of7 d) fun a b => clamp32 (a.toInt + b.toInt)

/-- IsubsatI32 (R222). Effect in each active lane as its row. -/
def execIsubsatI32 (b a d : BitVec 7) (s : State) : Res :=
  lane2 s (.of7 a) (.of7 b) (.of7 d) fun a b => clamp32 (a.toInt - b.toInt)

/-! ### Bit operations and immediates, majors 0x02 to 0x07 -/

/-- AndB32 (R223). Effect in each active lane as its row. -/
def execAndB32 (b a d : BitVec 7) (s : State) : Res :=
  lane2 s (.of7 a) (.of7 b) (.of7 d) fun a b => a &&& b

/-- OrB32 (R223). Effect in each active lane as its row. -/
def execOrB32 (b a d : BitVec 7) (s : State) : Res :=
  lane2 s (.of7 a) (.of7 b) (.of7 d) fun a b => a ||| b

/-- XorB32 (R223). Effect in each active lane as its row. -/
def execXorB32 (b a d : BitVec 7) (s : State) : Res :=
  lane2 s (.of7 a) (.of7 b) (.of7 d) fun a b => a ^^^ b

/-- AndnB32 (R223). Effect in each active lane as its row. -/
def execAndnB32 (b a d : BitVec 7) (s : State) : Res :=
  lane2 s (.of7 a) (.of7 b) (.of7 d) fun a b => a &&& ~~~ b

/-- ShlB32 (R223). Effect in each active lane as its row. -/
def execShlB32 (b a d : BitVec 7) (s : State) : Res :=
  lane2 s (.of7 a) (.of7 b) (.of7 d) shl32

/-- ShrN32 (R223). Effect in each active lane as its row. -/
def execShrN32 (b a d : BitVec 7) (s : State) : Res :=
  lane2 s (.of7 a) (.of7 b) (.of7 d) shr32

/-- ShrI32 (R223). Effect in each active lane as its row. -/
def execShrI32 (b a d : BitVec 7) (s : State) : Res :=
  lane2 s (.of7 a) (.of7 b) (.of7 d) sar32

/-- RotlB32 (R223). Effect in each active lane as its row. -/
def execRotlB32 (b a d : BitVec 7) (s : State) : Res :=
  lane2 s (.of7 a) (.of7 b) (.of7 d) fun a b => rotl32 a b.toNat

/-- PopcB32 (R223). One source. -/
def execPopcB32 (a d : BitVec 7) (s : State) : Res :=
  lane1 s (.of7 a) (.of7 d) popc32

/-- ClzB32 (R223). One source. -/
def execClzB32 (a d : BitVec 7) (s : State) : Res :=
  lane1 s (.of7 a) (.of7 d) clz32

/-- BrevB32 (R223). One source. -/
def execBrevB32 (a d : BitVec 7) (s : State) : Res :=
  lane1 s (.of7 a) (.of7 d) brev32

/-- NotB32 (R223). One source. -/
def execNotB32 (a d : BitVec 7) (s : State) : Res :=
  lane1 s (.of7 a) (.of7 d) fun a => ~~~ a

/-- IaddiN32 (R224). d := a + sext(IMM). -/
def execIaddiN32 (i : BitVec 11) (a d : BitVec 7) (s : State) : Res :=
  lane1 s (.of7 a) (.of7 d) fun a => a + sext32 i

/-- AndiB32 (R224). d := a and zext(IMM). -/
def execAndiB32 (i : BitVec 11) (a d : BitVec 7) (s : State) : Res :=
  lane1 s (.of7 a) (.of7 d) fun a => a &&& zext32 i

/-- OriB32 (R224). d := a or zext(IMM). -/
def execOriB32 (i : BitVec 11) (a d : BitVec 7) (s : State) : Res :=
  lane1 s (.of7 a) (.of7 d) fun a => a ||| zext32 i

/-- XoriB32 (R224). d := a xor zext(IMM). -/
def execXoriB32 (i : BitVec 11) (a d : BitVec 7) (s : State) : Res :=
  lane1 s (.of7 a) (.of7 d) fun a => a ^^^ zext32 i

/-- ShliB32 (R224). Amount IMM[4:0]. -/
def execShliB32 (n : BitVec 5) (a d : BitVec 7) (s : State) : Res :=
  lane1 s (.of7 a) (.of7 d) fun a => a <<< n.toNat

/-- ShriN32 (R224). Amount IMM[4:0]. -/
def execShriN32 (n : BitVec 5) (a d : BitVec 7) (s : State) : Res :=
  lane1 s (.of7 a) (.of7 d) fun a => a >>> n.toNat

/-- ShriI32 (R224). Amount IMM[4:0]. -/
def execShriI32 (n : BitVec 5) (a d : BitVec 7) (s : State) : Res :=
  lane1 s (.of7 a) (.of7 d) fun a => a.sshiftRight n.toNat

/-- RotiB32 (R224). Amount IMM[4:0]. -/
def execRotiB32 (n : BitVec 5) (a d : BitVec 7) (s : State) : Res :=
  lane1 s (.of7 a) (.of7 d) fun a => rotl32 a n.toNat

/-! ### Single-precision and paired arithmetic, majors 0x08 to 0x0A and 0x10 to 0x14 -/

/-- FaddF32 (R225). The exact result rounded once under RM. -/
def execFaddF32 (r : BitVec 2) (b a d : BitVec 7) (s : State) : Res :=
  lane2 s (.of7 a) (.of7 b) (.of7 d) (fadd32 r.toNat)

/-- FsubF32 (R225). The exact result rounded once under RM. -/
def execFsubF32 (r : BitVec 2) (b a d : BitVec 7) (s : State) : Res :=
  lane2 s (.of7 a) (.of7 b) (.of7 d) (fsub32 r.toNat)

/-- FmulF32 (R225). The exact result rounded once under RM. -/
def execFmulF32 (r : BitVec 2) (b a d : BitVec 7) (s : State) : Res :=
  lane2 s (.of7 a) (.of7 b) (.of7 d) (fmul32 r.toNat)

/-- FdivF32 (R225). The exact result rounded once under RM. -/
def execFdivF32 (r : BitVec 2) (b a d : BitVec 7) (s : State) : Res :=
  lane2 s (.of7 a) (.of7 b) (.of7 d) (fdiv32 r.toNat)

/-- FminF32 (R226). The smaller operand. -/
def execFminF32 (b a d : BitVec 7) (s : State) : Res :=
  lane2 s (.of7 a) (.of7 b) (.of7 d) (fminmax32 false)

/-- FmaxF32 (R226). The larger operand. -/
def execFmaxF32 (b a d : BitVec 7) (s : State) : Res :=
  lane2 s (.of7 a) (.of7 b) (.of7 d) (fminmax32 true)

/-- FsqrtF32 (R226). The square root rounded under RM. -/
def execFsqrtF32 (r : BitVec 2) (a d : BitVec 7) (s : State) : Res :=
  lane1 s (.of7 a) (.of7 d) (fsqrt32 r.toNat)

/-- FnegF32 (R226). The sign bit inverted. -/
def execFnegF32 (a d : BitVec 7) (s : State) : Res :=
  lane1 s (.of7 a) (.of7 d) fun a => a ^^^ 0x80000000#32

/-- FabsF32 (R226). The sign bit cleared. -/
def execFabsF32 (a d : BitVec 7) (s : State) : Res :=
  lane1 s (.of7 a) (.of7 d) fun a => a &&& 0x7FFFFFFF#32

/-- FcsgnF32 (R226). The sign of b on a. -/
def execFcsgnF32 (b a d : BitVec 7) (s : State) : Res :=
  lane2 s (.of7 a) (.of7 b) (.of7 d) fun a b => (a &&& 0x7FFFFFFF#32) ||| (b &&& 0x80000000#32)

/-- Fadd2F16 (R227). Each 16-bit element on its own. -/
def execFadd2F16 (r : BitVec 2) (b a d : BitVec 7) (s : State) : Res :=
  lane2 s (.of7 a) (.of7 b) (.of7 d) (pair16 flt16 false r.toNat)

/-- Fmul2F16 (R227). Each 16-bit element on its own. -/
def execFmul2F16 (r : BitVec 2) (b a d : BitVec 7) (s : State) : Res :=
  lane2 s (.of7 a) (.of7 b) (.of7 d) (pair16 flt16 true r.toNat)

/-- Fadd2Bf16 (R227). Each 16-bit element on its own. -/
def execFadd2Bf16 (r : BitVec 2) (b a d : BitVec 7) (s : State) : Res :=
  lane2 s (.of7 a) (.of7 b) (.of7 d) (pair16 fltB16 false r.toNat)

/-- Fmul2Bf16 (R227). Each 16-bit element on its own. -/
def execFmul2Bf16 (r : BitVec 2) (b a d : BitVec 7) (s : State) : Res :=
  lane2 s (.of7 a) (.of7 b) (.of7 d) (pair16 fltB16 true r.toNat)

/-- FfmaF32 (R228). a × b + c rounded once, with the mode of the major. -/
def execFfmaF32 (c : BitVec 5) (b : BitVec 6) (a d : BitVec 7) (r : BitVec 2) (s : State) : Res :=
  laneOp s [.of7 a, .ofV b, .ofV c] (.of7 d) fun w l =>
    ffma32 r.toNat (w.word (.of7 a) l) (w.word (.ofV b) l) (w.word (.ofV c) l)

/-- ImadN32 (R228). (a × b + c) modulo 2^32. -/
def execImadN32 (c : BitVec 5) (b : BitVec 6) (a d : BitVec 7) (s : State) : Res :=
  laneOp s [.of7 a, .ofV b, .ofV c] (.of7 d) fun w l =>
    w.word (.of7 a) l * w.word (.ofV b) l + w.word (.ofV c) l

/-! ### Compares, majors 0x0B and 0x0C -/

/-- FceqF32 (R229). Numeric comparison into pD. -/
def execFceqF32 (b a : BitVec 7) (d : BitVec 3) (s : State) : Res :=
  laneCmp s (.of7 a) (.of7 b) d fEq

/-- FcneF32 (R229). Numeric comparison into pD. -/
def execFcneF32 (b a : BitVec 7) (d : BitVec 3) (s : State) : Res :=
  laneCmp s (.of7 a) (.of7 b) d fNe

/-- FcltF32 (R229). Numeric comparison into pD. -/
def execFcltF32 (b a : BitVec 7) (d : BitVec 3) (s : State) : Res :=
  laneCmp s (.of7 a) (.of7 b) d fLt

/-- FcleF32 (R229). Numeric comparison into pD. -/
def execFcleF32 (b a : BitVec 7) (d : BitVec 3) (s : State) : Res :=
  laneCmp s (.of7 a) (.of7 b) d fLe

/-- FcgtF32 (R229). Numeric comparison into pD. -/
def execFcgtF32 (b a : BitVec 7) (d : BitVec 3) (s : State) : Res :=
  laneCmp s (.of7 a) (.of7 b) d fun a b => fLt b a

/-- FcgeF32 (R229). Numeric comparison into pD. -/
def execFcgeF32 (b a : BitVec 7) (d : BitVec 3) (s : State) : Res :=
  laneCmp s (.of7 a) (.of7 b) d fun a b => fLe b a

/-- FcunF32 (R229). Numeric comparison into pD. -/
def execFcunF32 (b a : BitVec 7) (d : BitVec 3) (s : State) : Res :=
  laneCmp s (.of7 a) (.of7 b) d fUnord

/-- FcordF32 (R229). Numeric comparison into pD. -/
def execFcordF32 (b a : BitVec 7) (d : BitVec 3) (s : State) : Res :=
  laneCmp s (.of7 a) (.of7 b) d fun a b => !fUnord a b

/-- IceqB32 (R230). Comparison into pD. -/
def execIceqB32 (b a : BitVec 7) (d : BitVec 3) (s : State) : Res :=
  laneCmp s (.of7 a) (.of7 b) d fun a b => a == b

/-- IcneB32 (R230). Comparison into pD. -/
def execIcneB32 (b a : BitVec 7) (d : BitVec 3) (s : State) : Res :=
  laneCmp s (.of7 a) (.of7 b) d fun a b => a != b

/-- IcltI32 (R230). Comparison into pD. -/
def execIcltI32 (b a : BitVec 7) (d : BitVec 3) (s : State) : Res :=
  laneCmp s (.of7 a) (.of7 b) d fun a b => a.slt b

/-- IcleI32 (R230). Comparison into pD. -/
def execIcleI32 (b a : BitVec 7) (d : BitVec 3) (s : State) : Res :=
  laneCmp s (.of7 a) (.of7 b) d fun a b => a.sle b

/-- IcgtI32 (R230). Comparison into pD. -/
def execIcgtI32 (b a : BitVec 7) (d : BitVec 3) (s : State) : Res :=
  laneCmp s (.of7 a) (.of7 b) d fun a b => b.slt a

/-- IcgeI32 (R230). Comparison into pD. -/
def execIcgeI32 (b a : BitVec 7) (d : BitVec 3) (s : State) : Res :=
  laneCmp s (.of7 a) (.of7 b) d fun a b => b.sle a

/-- IcltN32 (R230). Comparison into pD. -/
def execIcltN32 (b a : BitVec 7) (d : BitVec 3) (s : State) : Res :=
  laneCmp s (.of7 a) (.of7 b) d fun a b => a.ult b

/-- IcleN32 (R230). Comparison into pD. -/
def execIcleN32 (b a : BitVec 7) (d : BitVec 3) (s : State) : Res :=
  laneCmp s (.of7 a) (.of7 b) d fun a b => a.ule b

/-- IcgtN32 (R230). Comparison into pD. -/
def execIcgtN32 (b a : BitVec 7) (d : BitVec 3) (s : State) : Res :=
  laneCmp s (.of7 a) (.of7 b) d fun a b => b.ult a

/-- IcgeN32 (R230). Comparison into pD. -/
def execIcgeN32 (b a : BitVec 7) (d : BitVec 3) (s : State) : Res :=
  laneCmp s (.of7 a) (.of7 b) d fun a b => b.ule a

/-- IctstB32 (R230). Comparison into pD. -/
def execIctstB32 (b a : BitVec 7) (d : BitVec 3) (s : State) : Res :=
  laneCmp s (.of7 a) (.of7 b) d iTst

/-! ### Selection and predicate logic, major 0x0D -/

/-- SelB32 (R231). d := a if pn = 1, else b. -/
def execSelB32 (n : BitVec 3) (b a d : BitVec 7) (s : State) : Res :=
  withPod s [.of7 d, .of7 a, .of7 b] fun p w k =>
    checked s (s.chkSrcs p w k (sources [.of7 a, .of7 b] ++ [.pred n.toNat]))
      (.done ((s.writeReg p (.of7 d) fun l =>
        coded (if w.pred n.toNat l then w.word (.of7 a) l else w.word (.of7 b) l)).retire p))

/-- Pand (R231). Predicate logic. -/
def execPand (b a d : BitVec 3) (s : State) : Res :=
  lanePred s [] [a.toNat, b.toNat] d fun w l => w.pred a.toNat l && w.pred b.toNat l

/-- Por (R231). Predicate logic. -/
def execPor (b a d : BitVec 3) (s : State) : Res :=
  lanePred s [] [a.toNat, b.toNat] d fun w l => w.pred a.toNat l || w.pred b.toNat l

/-- Pxor (R231). Predicate logic. -/
def execPxor (b a d : BitVec 3) (s : State) : Res :=
  lanePred s [] [a.toNat, b.toNat] d fun w l => w.pred a.toNat l != w.pred b.toNat l

/-- Pandn (R231). pa and not pb. -/
def execPandn (b a d : BitVec 3) (s : State) : Res :=
  lanePred s [] [a.toNat, b.toNat] d fun w l => w.pred a.toNat l && !w.pred b.toNat l

/-- Pmov (R231). pd := pa. -/
def execPmov (a d : BitVec 3) (s : State) : Res :=
  lanePred s [] [a.toNat] d fun w l => w.pred a.toNat l

/-- Pnot (R231). pd := not pa. -/
def execPnot (a d : BitVec 3) (s : State) : Res :=
  lanePred s [] [a.toNat] d fun w l => !w.pred a.toNat l

/-- Vtop (R231). pd := 1 if a ≠ 0. -/
def execVtop (a : BitVec 7) (d : BitVec 3) (s : State) : Res :=
  lanePred s [.of7 a] [] d fun w l => w.word (.of7 a) l != 0#32

/-- Ptov (R231). d := 1 if pa = 1, else 0. -/
def execPtov (a : BitVec 3) (d : BitVec 7) (s : State) : Res :=
  withPod s [.of7 d] fun p w k =>
    checked s (s.chkSrcs p w k [.pred a.toNat])
      (.done ((s.writeReg p (.of7 d) fun l => coded (boolWord (w.pred a.toNat l))).retire p))

/-! ### Conversions and narrow elements, majors 0x0E and 0x0F -/

/-- Cvt (R232). Conversion from the format of code s to that of code t (R150, R151). -/
def execCvt (sf t : BitVec 4) (r : BitVec 2) (a d : BitVec 7) (s : State) : Res :=
  let F := (Fmt.ofCode sf.toNat).getD .f32
  let G := (Fmt.ofCode t.toNat).getD .f32
  lane1 s (.of7 a) (.of7 d) fun a => w32 (convert F G r.toNat (a.toNat % 2 ^ F.width))

/-- Pack2B16 (R233). concat(b[15:0], a[15:0]). -/
def execPack2B16 (b a d : BitVec 7) (s : State) : Res :=
  lane2 s (.of7 a) (.of7 b) (.of7 d) fun a b => w32 (half a 0 + 65536 * half b 0)

/-- Pack2B8 (R233). Two bytes into the low half; the high half kept. -/
def execPack2B8 (b a d : BitVec 7) (s : State) : Res :=
  lane2d s (.of7 a) (.of7 b) (.of7 d) fun a b d => w32 (byte a 0 + 256 * byte b 0 + 65536 * half d 1)

/-- Pack2hB8 (R233). Two bytes into the high half; the low half kept. -/
def execPack2hB8 (b a d : BitVec 7) (s : State) : Res :=
  lane2d s (.of7 a) (.of7 b) (.of7 d) fun a b d => w32 (half d 0 + 65536 * (byte a 0 + 256 * byte b 0))

/-- ExtN16 (R233). zext of element b mod 2. -/
def execExtN16 (b a d : BitVec 7) (s : State) : Res :=
  lane2 s (.of7 a) (.of7 b) (.of7 d) fun a b => w32 (half a (b.toNat % 2))

/-- ExtI16 (R233). sext of element b mod 2. -/
def execExtI16 (b a d : BitVec 7) (s : State) : Res :=
  lane2 s (.of7 a) (.of7 b) (.of7 d) fun a b => BitVec.ofInt 32 (toSigned 16 (half a (b.toNat % 2)))

/-- ExtN8 (R233). zext of element b mod 4. -/
def execExtN8 (b a d : BitVec 7) (s : State) : Res :=
  lane2 s (.of7 a) (.of7 b) (.of7 d) fun a b => w32 (byte a (b.toNat % 4))

/-- ExtI8 (R233). sext of element b mod 4. -/
def execExtI8 (b a d : BitVec 7) (s : State) : Res :=
  lane2 s (.of7 a) (.of7 b) (.of7 d) fun a b => BitVec.ofInt 32 (toSigned 8 (byte a (b.toNat % 4)))

/-- BfxN32 (R233). Unsigned bit field. -/
def execBfxN32 (b a d : BitVec 7) (s : State) : Res :=
  lane2 s (.of7 a) (.of7 b) (.of7 d) bfx

/-- BfxI32 (R233). Signed bit field. -/
def execBfxI32 (b a d : BitVec 7) (s : State) : Res :=
  lane2 s (.of7 a) (.of7 b) (.of7 d) bfxs

/-- BfiB32 (R233). Bit-field insert; D is read. -/
def execBfiB32 (b a d : BitVec 7) (s : State) : Res :=
  lane2d s (.of7 a) (.of7 b) (.of7 d) bfi

/-! ### Pair arithmetic, major 0x16 -/

/-- IaddN64 (R236). Modulo 2^64. -/
def execIaddN64 (b a d : BitVec 7) (s : State) : Res :=
  lane64 s (.of7 a) (.of7 b) (.of7 d) fun a b => a + b

/-- IsubN64 (R236). Modulo 2^64. -/
def execIsubN64 (b a d : BitVec 7) (s : State) : Res :=
  lane64 s (.of7 a) (.of7 b) (.of7 d) fun a b => a - b

/-- ImulN64 (R236). Modulo 2^64. -/
def execImulN64 (b a d : BitVec 7) (s : State) : Res :=
  lane64 s (.of7 a) (.of7 b) (.of7 d) fun a b => a * b

/-- ShlB64 (R236). B names 32 bits. -/
def execShlB64 (b a d : BitVec 7) (s : State) : Res :=
  lane64s s (.of7 a) (.of7 b) (.of7 d) fun a n => if n ≥ 64 then 0 else a <<< n

/-- ShrN64 (R236). B names 32 bits. -/
def execShrN64 (b a d : BitVec 7) (s : State) : Res :=
  lane64s s (.of7 a) (.of7 b) (.of7 d) fun a n => if n ≥ 64 then 0 else a >>> n

/-- ShrI64 (R236). B names 32 bits. -/
def execShrI64 (b a d : BitVec 7) (s : State) : Res :=
  lane64s s (.of7 a) (.of7 b) (.of7 d) fun a n => a.sshiftRight (min n 64)

/-- IminI64 (R236). 64-bit minimum or maximum. -/
def execIminI64 (b a d : BitVec 7) (s : State) : Res :=
  lane64 s (.of7 a) (.of7 b) (.of7 d) fun a b => if a.sle b then a else b

/-- ImaxI64 (R236). 64-bit minimum or maximum. -/
def execImaxI64 (b a d : BitVec 7) (s : State) : Res :=
  lane64 s (.of7 a) (.of7 b) (.of7 d) fun a b => if a.sle b then b else a

/-- IminN64 (R236). 64-bit minimum or maximum. -/
def execIminN64 (b a d : BitVec 7) (s : State) : Res :=
  lane64 s (.of7 a) (.of7 b) (.of7 d) fun a b => if a.ule b then a else b

/-- ImaxN64 (R236). 64-bit minimum or maximum. -/
def execImaxN64 (b a d : BitVec 7) (s : State) : Res :=
  lane64 s (.of7 a) (.of7 b) (.of7 d) fun a b => if a.ule b then b else a

/-- ImulwN32 (R236). 64-bit unsigned product. -/
def execImulwN32 (b a d : BitVec 7) (s : State) : Res :=
  laneOp64 s [.of7 a, .of7 b] (.of7 d) fun w l => BitVec.ofNat 64 ((w.word (.of7 a) l).toNat * (w.word (.of7 b) l).toNat)

/-- ImulwI32 (R236). 64-bit signed product. -/
def execImulwI32 (b a d : BitVec 7) (s : State) : Res :=
  laneOp64 s [.of7 a, .of7 b] (.of7 d) fun w l => BitVec.ofInt 64 ((w.word (.of7 a) l).toInt * (w.word (.of7 b) l).toInt)

/-! ### 16-bit forms (R207, R208): D = A = D, B = B, mode .rn -/

/-- MovB32H (R208). mov.b32: B alone is read. -/
def execMovB32H (b : BitVec 5) (d : BitVec 6) (s : State) : Res :=
  lane1 s (.ofV b) (.ofV d) fun b => b

/-- IaddN32H (R208). The 32-bit form with A = D. -/
def execIaddN32H (b : BitVec 5) (d : BitVec 6) (s : State) : Res :=
  lane2 s (.ofV d) (.ofV b) (.ofV d) fun a b => a + b

/-- IsubN32H (R208). The 32-bit form with A = D. -/
def execIsubN32H (b : BitVec 5) (d : BitVec 6) (s : State) : Res :=
  lane2 s (.ofV d) (.ofV b) (.ofV d) fun a b => a - b

/-- ImulN32H (R208). The 32-bit form with A = D. -/
def execImulN32H (b : BitVec 5) (d : BitVec 6) (s : State) : Res :=
  lane2 s (.ofV d) (.ofV b) (.ofV d) fun a b => a * b

/-- AndB32H (R208). The 32-bit form with A = D. -/
def execAndB32H (b : BitVec 5) (d : BitVec 6) (s : State) : Res :=
  lane2 s (.ofV d) (.ofV b) (.ofV d) fun a b => a &&& b

/-- OrB32H (R208). The 32-bit form with A = D. -/
def execOrB32H (b : BitVec 5) (d : BitVec 6) (s : State) : Res :=
  lane2 s (.ofV d) (.ofV b) (.ofV d) fun a b => a ||| b

/-- XorB32H (R208). The 32-bit form with A = D. -/
def execXorB32H (b : BitVec 5) (d : BitVec 6) (s : State) : Res :=
  lane2 s (.ofV d) (.ofV b) (.ofV d) fun a b => a ^^^ b

/-- ShlB32H (R208). The 32-bit form with A = D. -/
def execShlB32H (b : BitVec 5) (d : BitVec 6) (s : State) : Res :=
  lane2 s (.ofV d) (.ofV b) (.ofV d) shl32

/-- ShrN32H (R208). The 32-bit form with A = D. -/
def execShrN32H (b : BitVec 5) (d : BitVec 6) (s : State) : Res :=
  lane2 s (.ofV d) (.ofV b) (.ofV d) shr32

/-- ShrI32H (R208). The 32-bit form with A = D. -/
def execShrI32H (b : BitVec 5) (d : BitVec 6) (s : State) : Res :=
  lane2 s (.ofV d) (.ofV b) (.ofV d) sar32

/-- FaddF32H (R208). The 32-bit form with A = D. -/
def execFaddF32H (b : BitVec 5) (d : BitVec 6) (s : State) : Res :=
  lane2 s (.ofV d) (.ofV b) (.ofV d) (fadd32 0)

/-- FsubF32H (R208). The 32-bit form with A = D. -/
def execFsubF32H (b : BitVec 5) (d : BitVec 6) (s : State) : Res :=
  lane2 s (.ofV d) (.ofV b) (.ofV d) (fsub32 0)

/-- FmulF32H (R208). The 32-bit form with A = D. -/
def execFmulF32H (b : BitVec 5) (d : BitVec 6) (s : State) : Res :=
  lane2 s (.ofV d) (.ofV b) (.ofV d) (fmul32 0)

/-- FminF32H (R208). The 32-bit form with A = D. -/
def execFminF32H (b : BitVec 5) (d : BitVec 6) (s : State) : Res :=
  lane2 s (.ofV d) (.ofV b) (.ofV d) (fminmax32 false)

/-- FmaxF32H (R208). The 32-bit form with A = D. -/
def execFmaxF32H (b : BitVec 5) (d : BitVec 6) (s : State) : Res :=
  lane2 s (.ofV d) (.ofV b) (.ofV d) (fminmax32 true)

/-- IminI32H (R208). The 32-bit form with A = D. -/
def execIminI32H (b : BitVec 5) (d : BitVec 6) (s : State) : Res :=
  lane2 s (.ofV d) (.ofV b) (.ofV d) imin32

end Sys2Proof.Machine
end

