-- ==== Sys2Proof/Machine/Tile.lean ====
section
/-! DEFINITION. Tile descriptors, occupancy and images of matrix registers (R266 to R269), and writes of TDESCn (R267). -/

namespace Sys2Proof.Machine

/-- A tile descriptor's fields (R266). -/
structure TDesc where
  rows  : Nat
  cols  : Nat
  fmt   : Nat
  dense : Bool
  rank  : Nat
  sc    : Bool
  win   : Nat
  soff  : Nat
  deriving DecidableEq, Repr

/-- Read TDESCn (R266). -/
def TDesc.ofBits (b : BitVec 64) : TDesc :=
  ⟨8 * (bvf b 3 3 + 1), 8 * (bvf b 0 3 + 1), bvf b 20 4, b.getLsbD 27, bvf b 28 6, b.getLsbD 34, bvf b 35 5, bvf b 40 2⟩

/-- Write TDESCn (R266). -/
def TDesc.toBits (t : TDesc) : BitVec 64 :=
  BitVec.ofNat 64 ((t.cols / 8 - 1) + (t.rows / 8 - 1) * 2 ^ 3 + t.fmt * 2 ^ 20 + (if t.dense then 2 ^ 27 else 0) +
    t.rank * 2 ^ 28 + (if t.sc then 2 ^ 34 else 0) + t.win * 2 ^ 35 + t.soff * 2 ^ 40)

/-- The element format; the six codes of R266. -/
def TDesc.format (t : TDesc) : Fmt := (Fmt.ofCode t.fmt).getD .bf16

/-- Size of the elements of a dense grid in bytes. -/
def TDesc.gridBytes (t : TDesc) : Nat := t.rows * t.cols * t.format.width / 8

/-- The image's size in bytes (R268). -/
def TDesc.size (t : TDesc) : Nat :=
  if t.rank = 0 then 0
  else if t.dense then t.gridBytes + (if t.sc then t.rows * 8 else 0)
  else t.rank * (t.rows + t.cols) * 2

/-- Occupied slabs (R268). -/
def TDesc.slabs (t : TDesc) : Nat := ceilDiv t.size 256

/-- The descriptor at crew creation: a zero 64×64 bf16 dense tile (R266). -/
def tdescReset : BitVec 64 := 0x000000000820003F

/-- Matrix register n of a crew. -/
def CrewBody.mreg (b : CrewBody) (n : Nat) : MReg := b.mregs.getD n ⟨tdescReset, []⟩

/-- Its descriptor. -/
def CrewBody.tdesc (b : CrewBody) (n : Nat) : TDesc := TDesc.ofBits (b.mreg n).desc

/-- SLABQ.USED (R269). -/
def CrewBody.used (b : CrewBody) : Nat := b.mregs.foldl (fun n e => n + (TDesc.ofBits e.2.desc).slabs) 0

/-- Whether register n may take a new occupancy within the quota (R269). -/
def Crew.fits (k : Crew) (n : Nat) (t : TDesc) : Bool :=
  decide (k.body.used - (k.body.tdesc n).slabs + t.slabs ≤ k.decl.slabq)

/-- An image padded with zero units to whole slabs (R268). -/
def padImage (t : TDesc) (us : List GUnit) : List GUnit :=
  us.take (64 * t.slabs) ++ List.replicate (64 * t.slabs - us.length) .zero

/-- Write a matrix register with its descriptor; origin entries of the register are freed (R62). -/
def State.setTile (s : State) (core crew n : Nat) (t : TDesc) (us : List GUnit) : State :=
  (s.modBody core crew fun b => { b with
    mregs := b.mregs.set n ⟨t.toBits, padImage t us⟩, parity := b.parity.filter (· != 0x100 + n) }).modCore core fun k =>
    { k with origin := k.origin.filter fun o => !(o.slot == 0x100 + crew && o.reg == 0xC0 + n) }

/-- A descriptor that a write of TDESCn may set (R267). -/
def TDesc.writable (t : TDesc) : Bool :=
  [1, 2, 3, 4, 5, 8].contains t.fmt && !(!t.dense && !(t.fmt == 1 || t.fmt == 2)) && decide (t.rank ≤ 32) &&
  !(t.dense && decide (t.rank > 1))

/-- A write of TDESCn, judged whole (R267): none raises SLAB. -/
def State.writeTdesc (s : State) (core crew n : Nat) (k : Crew) (v : BitVec 64) : Option State :=
  let t := { TDesc.ofBits v with sc := false, win := 0, soff := 0 }
  if !t.writable then some s
  else if k.fits n t then some (s.setTile core crew n t [])
  else none

end Sys2Proof.Machine
end

