-- ==== Sys2Proof/Machine/LowRank.lean ====
section
/-! DEFINITION. Tiles as grids of elements with their scales, the group rule (R282), dense values of factored tiles (R289)
and recompression (R291). -/

namespace Sys2Proof.Machine

/-- An element: its code and its block scale. -/
abbrev Elem := Nat × Int

/-- A grid of elements of one format, by rows. -/
structure Grid where
  fmt  : Fmt
  rows : List (List Elem)
  deriving DecidableEq, Repr

/-- The columns of a list of rows. -/
def transposed (n : Nat) (z : α) (rows : List (List α)) : List (List α) :=
  (span 0 n).map fun j => rows.map fun r => r.getD j z

/-- Packed elements of width w, lowest first (R140). -/
def elems (w : Nat) : Nat → Nat → List Nat
  | 0, _ => []
  | n + 1, x => x % 2 ^ w :: elems w n (x / 2 ^ w)

/-- An image as one little-endian number (R268). -/
def imageNat (us : List GUnit) : Nat := us.foldr (fun u n => u.data.toNat + 2 ^ 32 * n) 0

/-- Pack elements of width w into coded granules (R55, R140). -/
def packUnits (w : Nat) (codes : List Nat) : List GUnit :=
  (elems 32 (ceilDiv (w * codes.length) 32) (codes.foldr (fun c n => c + 2 ^ w * n) 0)).map fun x => coded (w32 x)

/-- Pack a grid's rows. -/
def packRows (w : Nat) (rows : List (List Nat)) : List GUnit := packUnits w (rows.flatMap fun r => r)

/-- The scale byte of row i, column j of a scaled tile (R268, R276). -/
def scaleAt (t : TDesc) (img : List GUnit) (i j : Nat) : Int :=
  if t.sc then
    let k := t.soff + j / 32
    let u := img.getD (t.gridBytes / 4 + 2 * i + k / 4) .zero
    scaleOf (u.data.toNat / 256 ^ (k % 4) % 256)
  else 0

/-- The elements of a dense tile; a zero tile holds zeros. -/
def denseGrid (t : TDesc) (img : List GUnit) : Grid :=
  let w := t.format.width
  let rows := chunks t.cols t.rows (elems w (t.rows * t.cols) (imageNat (img.take (ceilDiv t.gridBytes 4))))
  ⟨t.format, rows.zipIdx.map fun r => r.1.zipIdx.map fun x => (x.1, scaleAt t img r.2 x.2)⟩

/-- U of a factored tile (R268). -/
def gridU (t : TDesc) (img : List GUnit) : Grid :=
  ⟨t.format, (chunks t.rank t.rows (elems 16 (t.rows * t.rank) (imageNat img))).map fun r => r.map fun x => (x, 0)⟩

/-- V of a factored tile (R268). -/
def gridV (t : TDesc) (img : List GUnit) : Grid :=
  ⟨t.format, (chunks t.cols t.rank (elems 16 (t.rank * t.cols) (imageNat img / 2 ^ (16 * t.rows * t.rank)))).map fun r =>
    r.map fun x => (x, 0)⟩

/-- A 16-bit float format. -/
def Fmt.half : Fmt → Bool
  | .f16 | .bf16 => true
  | _ => false

/-- The group size of an operand pair (R282). -/
def pairGroup (a b : Fmt) : Option Nat :=
  if a.half && b.half then some 16
  else if (a == .f8e4 || a == .f8e5) && (b == .f8e4 || b == .f8e5) then some 32
  else if a == .i8 && b == .i8 then some 32
  else if a == .ln6 && b == .ln6 then some 64
  else none

/-- The products of a dot product, in groups (R282). -/
def groupsOf (g : Nat) (xs ys : List Elem) : List (List (Nat × Nat × Int)) :=
  let l := xs.zipWith (fun x y => (x.1, y.1, x.2 + y.2)) ys
  chunks g (ceilDiv l.length g) l

/-- An element by the group rule from a starting value (R282). -/
def groupRule (start : Word) (Fa Fb : Fmt) (g : Nat) (xs ys : List Elem) : Word :=
  (groupsOf g xs ys).foldl (fun acc l => kstep acc Fa Fb l) start

/-- A product of grids by the group rule, FP32 results (R282, R287). `n` is the number of B's columns. -/
def mulGrid (A B : Grid) (n g : Nat) : List (List Word) :=
  A.rows.map fun r => (transposed n (0, 0) B.rows).map fun c => groupRule 0 A.fmt B.fmt g r c

/-- An FP32 intermediate as a grid (R282, R284). -/
def grid32 (rows : List (List Word)) : Grid := ⟨.f32, rows.map fun r => r.map fun x => (x.toNat, 0)⟩

/-- FP32 values converted to a format with .rn (R150, R151). -/
def toFmt (F : Fmt) (rows : List (List Word)) : List (List Nat) := rows.map fun r => r.map fun x => convert .f32 F 0 x.toNat

/-- Elements converted to a format, verbatim when equal (R287, R288). -/
def recode (G : Grid) (F : Fmt) : List (List Nat) :=
  G.rows.map fun r => r.map fun x => if G.fmt = F then x.1 else convert G.fmt F 0 x.1

/-- The FP32 value of a scaled element, saturated under R142. -/
def elem32 (F : Fmt) (x : Elem) : Word := w32 (convertScaled F .f32 x.2 x.1)

/-- The exact sum of two decoded values; zero signs as R146. -/
def Dec.add (a b : Dec) : Dec :=
  match a.cls, b.cls with
  | .nan, _ => ⟨.nan, false, 0, 0⟩
  | _, .nan => ⟨.nan, false, 0, 0⟩
  | .inf, .inf => if a.s = b.s then a else ⟨.nan, false, 0, 0⟩
  | .inf, _ => a
  | _, .inf => b
  | .zero, .zero => ⟨.zero, a.s && b.s, 0, 0⟩
  | .zero, _ => b
  | _, .zero => a
  | .finite, .finite =>
    match exactAdd a.s a.m a.e b.s b.m b.e with
    | (s, m, e) => if m = 0 then ⟨.zero, false, 0, 0⟩ else ⟨.finite, s, m, e⟩

/-! ### R291 in f32 words, columns as lists -/

/-- f32 operations with .rn. -/
def fma0 (a b c : Word) : Word := ffma32 0 a b c
/-- −x. -/
def fneg (a : Word) : Word := a ^^^ 0x80000000#32
/-- 1. -/
def fone : Word := 0x3F800000#32

/-- A chain of fused multiply-adds over two columns, from +0. -/
def fdot (xs ys : List Word) : Word := (xs.zip ys).foldl (fun s x => fma0 x.1 x.2 s) 0

/-- Step 1: one column against the columns before it, two passes. Answers the new Q column and the R column. -/
def orthogonalise (Q : List (List Word)) (x : List Word) (r : Nat) : List Word × List Word :=
  let pass (st : List Word × List Word) : List Word × List Word :=
    (Q.zipIdx).foldl (fun st qi =>
      let h := fdot qi.1 st.1
      (qi.1.zipWith (fun a b => fma0 (fneg h) a b) st.1, st.2.set qi.2 (fadd32 0 (st.2.getD qi.2 0) h))) st
  let st := pass (pass (x, List.replicate r 0))
  let nrm := fsqrt32 0 (fdot st.1 st.1)
  (st.1.map fun v => if fEq nrm 0 then 0 else fdiv32 0 v nrm, st.2.set Q.length nrm)

/-- Step 1 for all columns: Q and R by columns. -/
def gramSchmidt (cols : List (List Word)) : List (List Word) × List (List Word) :=
  cols.foldl (fun (st : List (List Word) × List (List Word)) x =>
    match orthogonalise st.1 x cols.length with
    | (q, r) => (st.1 ++ [q], st.2 ++ [r])) ([], [])

/-- Step 3: one rotation of columns p and q of C and W. -/
def rotate (st : List (List Word) × List (List Word)) (pq : Nat × Nat) : List (List Word) × List (List Word) :=
  let cp := st.1.getD pq.1 []
  let cq := st.1.getD pq.2 []
  let al := fdot cp cp
  let be := fdot cq cq
  let ga := fdot cp cq
  if !isNan32 ga && !fEq ga 0 then
    let ze := fdiv32 0 (fsub32 0 be al) (fadd32 0 ga ga)
    let t := fdiv32 0 fone (fadd32 0 (ze &&& 0x7FFFFFFF#32) (fsqrt32 0 (fadd32 0 fone (fmul32 0 ze ze))))
    let t := if fLt ze 0 then fneg t else t
    let cs := fdiv32 0 fone (fsqrt32 0 (fadd32 0 fone (fmul32 0 t t)))
    let sn := fmul32 0 cs t
    let turn (X : List (List Word)) : List (List Word) :=
      let xp := X.getD pq.1 []
      let xq := X.getD pq.2 []
      (X.set pq.1 (xp.zipWith (fun a b => fma0 cs a (fneg (fmul32 0 sn b))) xq)).set pq.2
        (xp.zipWith (fun a b => fma0 sn a (fmul32 0 cs b)) xq)
    (turn st.1, turn st.2)
  else st

/-- The pairs of one sweep. -/
def sweepPairs (r : Nat) : List (Nat × Nat) :=
  (span 0 (r - 1)).flatMap fun p => (span (p + 1) (r - 1 - p)).map fun q => (p, q)

/-- Insert an index so that singular values fall, NaNs last, equal ones in order (step 4). -/
def insertSig (sig : List Word) (k : Nat) : List Nat → List Nat
  | [] => [k]
  | j :: l =>
    let a := sig.getD k 0
    let b := sig.getD j 0
    if (isNan32 b && !isNan32 a) || fLt b a then k :: j :: l else j :: insertSig sig k l

/-- Recompression (R291): factors by columns of U (m long) and of Vt (n long), to columns of U and rows of V. -/
def recompress (U Vt : List (List Word)) (mode : Bool) (tol : Word) (maxrank : Nat) : List (List Word) × List (List Word) :=
  let r := U.length
  let gu := gramSchmidt U
  let gv := gramSchmidt Vt
  let ru := transposed r 0 gu.2
  let rv := transposed r 0 gv.2
  let C := rv.map fun b => ru.map fun a => fdot a b
  let W := (span 0 r).map fun j => (span 0 r).map fun i => if i = j then fone else 0
  let st := (List.replicate 8 (sweepPairs r)).foldl (fun st l => l.foldl rotate st) (C, W)
  let sig := st.1.map fun c => fsqrt32 0 (fdot c c)
  let order := (span 0 r).foldl (fun l k => insertSig sig k l) []
  let thr := if mode then tol else fmul32 0 tol (sig.getD (order.headD 0) 0)
  let kept := (order.takeWhile fun k => fLt thr (sig.getD k 0)).take maxrank
  let fold (Q : List (List Word)) (c : List Word) (len : Nat) : List Word :=
    (Q.zip c).foldl (fun ss x => x.1.zipWith (fun a s => fma0 a x.2 s) ss) (List.replicate len 0)
  (kept.map fun k => fold gu.1 (st.1.getD k []) (U.headD []).length,
   kept.map fun k => fold gv.1 (st.2.getD k []) (Vt.headD []).length)

end Sys2Proof.Machine
end

