-- ==== Sys2Proof/Machine/LaneMove.lean ====
section
/-! DEFINITION. Lane moves and lane-mask moves, major 0x15 (R234, R235, R172). -/

namespace Sys2Proof.Machine

/-- MOV_B32 (R234). d := b; A is not read. -/
def execMovB32 (b _a d : BitVec 7) (s : State) : Res := lane1 s (.of7 b) (.of7 d) fun b => b

/-- The unit that lane i takes of a register of lane j, if j is an active lane (R235). -/
def takeUnit (p : Pod) (w : Wave) (a : Reg) (j : Nat) : Option GUnit :=
  if p.lanes.contains j then some (w.get a j) else none

/-- Checks of `shfl` and `bcast` (R235): in each lane, the A unit it takes, then its own B unit. -/
def moveChk (s : State) (p : Pod) (w : Wave) (a b : Reg) (src : Nat → Nat) : Option Chk :=
  p.lanes.findSome? fun i =>
    match takeUnit p w a (src i) with
    | some u =>
      orChk (s.chkUnit a.site a.code i u ((s.core p.core).originOf p.slot a.code (if a.uniform then 0 else src i)))
        (s.chkReg p w b b.site i)
    | none => s.chkReg p w b b.site i

/-- The shared form of `shfl` and `bcast`: lane i takes a of lane `src i`, or a zero unit (R235). -/
def laneTake (s : State) (a b d : Reg) (src : Pod → Wave → Nat → Nat) : Res :=
  withPod s [d, a, b] fun p w _ =>
    checked s (moveChk s p w a b (src p w))
      (.done ((s.writeReg p d fun i =>
        match takeUnit p w a (src p w i) with
        | some u => coded u.data
        | none => .zero).retire p))

/-- SHFL_B32 (R234). Lane i takes a of the lane that its own b names. -/
def execShflB32 (b a d : BitVec 7) (s : State) : Res :=
  laneTake s (.of7 a) (.of7 b) (.of7 d) fun _ w i => (w.word (.of7 b) i).toNat % 32

/-- BCAST_B32 (R234). Every lane takes a of the lane that the lowest active lane's b names. -/
def execBcastB32 (b a d : BitVec 7) (s : State) : Res :=
  laneTake s (.of7 a) (.of7 b) (.of7 d) fun p w _ => (w.word (.of7 b) p.low).toNat % 32

/-- BALLOT_B32 (R234). The set of active lanes whose predicate is 1. -/
def execBallotB32 (a : BitVec 3) (d : BitVec 7) (s : State) : Res :=
  withPod s [.of7 d] fun p w k =>
    checked s (s.chkSrcs p w k [.pred a.toNat])
      (.done ((s.writeReg p (.of7 d) fun _ => coded (laneSet (p.lanes.filter fun l => w.pred a.toNat l))).retire p))

/-- The shared form of `vall` and `vany`. -/
def vote (s : State) (a d : BitVec 3) (f : List Bool → Bool) : Res :=
  withPod s [] fun p w k =>
    checked s (s.chkSrcs p w k [.pred a.toNat])
      (.done ((s.writePred p d.toNat fun _ => f (p.lanes.map fun l => w.pred a.toNat l)).retire p))

/-- VALL (R234). 1 when the predicate is 1 in every active lane. -/
def execVall (a d : BitVec 3) (s : State) : Res := vote s a d fun l => l.all id

/-- VANY (R234). 1 when the predicate is 1 in some active lane. -/
def execVany (a d : BitVec 3) (s : State) : Res := vote s a d fun l => l.any id

/-- LANEID (R234). -/
def execLaneid (d : BitVec 7) (s : State) : Res := laneOp s [] (.of7 d) fun _ l => w32 l

/-- TID (R234). The thread id, zero-extended. -/
def execTid (d : BitVec 7) (s : State) : Res :=
  laneOp s [] (.of7 d) fun w l => w32 ((w.threads.find l).elim 0 fun t => t.id)

/-- QSET (R172, R234). Once for the wave; CONV when threads have arrived; bits of empty lanes are cleared. -/
def execQset (a d : BitVec 4) (s : State) : Res :=
  withPod s [.ofS a] fun p w _ =>
    if (w.mask d.toNat).arrived ≠ 0 then .trap s (.plain .conv p.low)
    else checked s (s.chkRegs p w (operands [.ofS a]))
      (.done ((s.modWave p.core p.slot fun w =>
        ({ w.setMask d.toNat ⟨w.word (.ofS a) 0 &&& w.live, 0⟩ with
          parity := w.parity.filter (· != parQ d.toNat) }).clearIdem).retire p))

/-- QGET (R234). The member set, the same in every lane. -/
def execQget (a : BitVec 4) (d : BitVec 7) (s : State) : Res :=
  withPod s [.of7 d] fun p w _ =>
    checked s (parityChk w p [parQ a.toNat])
      (.done ((s.writeReg p (.of7 d) fun _ => coded (w.mask a.toNat).member).retire p))

end Sys2Proof.Machine
end

