-- ==== Sys2Proof/Machine/Uniform.lean ====
section
/-! DEFINITION. Uniform instructions, majors 0x18 to 0x1B (R237 to R239), and the control registers (R195 to R202). -/

namespace Sys2Proof.Machine

/-- A uniform form: once for the pod, sources and destination uniform (R237). -/
def uniOp (s : State) (rs : List Reg) (d : Reg) (f : Wave → Word) : Res :=
  withPod s (d :: rs) fun p w _ =>
    checked s (s.chkRegs p w (operands rs)) (.done ((s.writeReg p d fun _ => coded (f w)).retire p))

/-- Two uniform sources. -/
def uni2 (s : State) (a b d : BitVec 6) (f : Word → Word → Word) : Res :=
  uniOp s [.ofS a, .ofS b] (.ofS d) fun w => f (w.word (.ofS a) 0) (w.word (.ofS b) 0)

/-- UADDN32 (R237). As the lane form of the same name, on uniform registers. -/
def execUaddN32 (b a d : BitVec 6) (s : State) : Res := uni2 s a b d fun a b => a + b

/-- USUBN32 (R237). As the lane form of the same name, on uniform registers. -/
def execUsubN32 (b a d : BitVec 6) (s : State) : Res := uni2 s a b d fun a b => a - b

/-- UMULN32 (R237). As the lane form of the same name, on uniform registers. -/
def execUmulN32 (b a d : BitVec 6) (s : State) : Res := uni2 s a b d fun a b => a * b

/-- UMINI32 (R237). As the lane form of the same name, on uniform registers. -/
def execUminI32 (b a d : BitVec 6) (s : State) : Res := uni2 s a b d imin32

/-- UMAXI32 (R237). As the lane form of the same name, on uniform registers. -/
def execUmaxI32 (b a d : BitVec 6) (s : State) : Res := uni2 s a b d imax32

/-- UMINN32 (R237). As the lane form of the same name, on uniform registers. -/
def execUminN32 (b a d : BitVec 6) (s : State) : Res := uni2 s a b d nmin32

/-- UMAXN32 (R237). As the lane form of the same name, on uniform registers. -/
def execUmaxN32 (b a d : BitVec 6) (s : State) : Res := uni2 s a b d nmax32

/-- UANDB32 (R237). As the lane form of the same name, on uniform registers. -/
def execUandB32 (b a d : BitVec 6) (s : State) : Res := uni2 s a b d fun a b => a &&& b

/-- UORB32 (R237). As the lane form of the same name, on uniform registers. -/
def execUorB32 (b a d : BitVec 6) (s : State) : Res := uni2 s a b d fun a b => a ||| b

/-- UXORB32 (R237). As the lane form of the same name, on uniform registers. -/
def execUxorB32 (b a d : BitVec 6) (s : State) : Res := uni2 s a b d fun a b => a ^^^ b

/-- USHLB32 (R237). As the lane form of the same name, on uniform registers. -/
def execUshlB32 (b a d : BitVec 6) (s : State) : Res := uni2 s a b d shl32

/-- USHRN32 (R237). As the lane form of the same name, on uniform registers. -/
def execUshrN32 (b a d : BitVec 6) (s : State) : Res := uni2 s a b d shr32

/-- USHRI32 (R237). As the lane form of the same name, on uniform registers. -/
def execUshrI32 (b a d : BitVec 6) (s : State) : Res := uni2 s a b d sar32

/-- UDIVN32 (R237). As the lane form of the same name, on uniform registers. -/
def execUdivN32 (b a d : BitVec 6) (s : State) : Res := uni2 s a b d udiv32

/-- UREMN32 (R237). As the lane form of the same name, on uniform registers. -/
def execUremN32 (b a d : BitVec 6) (s : State) : Res := uni2 s a b d urem32

/-- USEQB32 (R237). As the lane form of the same name, on uniform registers. -/
def execUseqB32 (b a d : BitVec 6) (s : State) : Res := uni2 s a b d fun a b => boolWord (a == b)

/-- USLTI32 (R237). As the lane form of the same name, on uniform registers. -/
def execUsltI32 (b a d : BitVec 6) (s : State) : Res := uni2 s a b d fun a b => boolWord (a.slt b)

/-- USLTN32 (R237). As the lane form of the same name, on uniform registers. -/
def execUsltN32 (b a d : BitVec 6) (s : State) : Res := uni2 s a b d fun a b => boolWord (a.ult b)

/-- UDIVI32 (R237). As the lane form of the same name, on uniform registers. -/
def execUdivI32 (b a d : BitVec 6) (s : State) : Res := uni2 s a b d idiv32

/-- UREMI32 (R237). As the lane form of the same name, on uniform registers. -/
def execUremI32 (b a d : BitVec 6) (s : State) : Res := uni2 s a b d irem32

/-- UMOV (R237). -/
def execUmov (b d : BitVec 6) (s : State) : Res := uniOp s [.ofS b] (.ofS d) fun w => w.word (.ofS b) 0

/-- UADDI (R238). a + sext(IMM). -/
def execUaddi (i : BitVec 13) (a d : BitVec 6) (s : State) : Res :=
  uniOp s [.ofS a] (.ofS d) fun w => w.word (.ofS a) 0 + sext32 i

/-- UMOVI (R238). sext(IMM). -/
def execUmovi (i : BitVec 13) (d : BitVec 6) (s : State) : Res := uniOp s [] (.ofS d) fun _ => sext32 i

/-! ### Control registers -/

/-- CREWINFO as a lane's thread reads it (R177). -/
def crewInfo (s : State) (p : Pod) (w : Wave) (k : Crew) (lane : Nat) : BitVec 64 :=
  let rank := (w.threads.find lane).elim 0 fun t => t.rank
  BitVec.ofNat 64 (rank * 2 ^ 32 + ((s.core p.core).members w.crew).length * 2 ^ 21 +
    (if k.setn = 0 then 0 else 2 ^ 7) + p.core % 4 * 2 ^ 5 + w.crew)

/-- ALLOC (R200). -/
def allocReg (k : Crew) : BitVec 64 :=
  BitVec.ofNat 64 (k.decl.lines * 2 ^ 36 + k.decl.acc * 2 ^ 32 + k.decl.vregs * 2 ^ 16 + k.decl.sregs * 2 ^ 8 + k.decl.waves)

/-- Read a control register (R195); a thread-view register shows the given lane's view (R239). -/
def crRead (s : State) (p : Pod) (w : Wave) (k : Crew) (crn lane : Nat) : BitVec 64 :=
  if 0x100 ≤ crn ∧ crn < 0x120 then (k.body.mreg (crn - 0x100)).desc
  else match crn with
    | 0x000 => BitVec.ofNat 64 k.body.quantum
    | 0x001 => BitVec.ofNat 64 k.body.binto
    | 0x002 => crewInfo s p w k lane
    | 0x003 => allocReg k
    | 0x008 => BitVec.ofNat 64 (k.ab 0)
    | 0x009 => BitVec.ofNat 64 (k.ab 1)
    | 0x00A => BitVec.ofNat 64 (k.ab 2)
    | 0x00B => BitVec.ofNat 64 (k.ab 3)
    | 0x010 => w.arrive.setWidth 64
    | 0x011 => BitVec.ofNat 64 (w.nprem * 2 ^ 32 + w.lls * 2 ^ 24 + p.slot)
    | 0x012 => w.idempc
    | 0x013 => w.chkinfo
    | 0x014 => w.chkaddr
    | 0x020 => k.body.tol
    | 0x021 => BitVec.ofNat 64 k.body.maxrank
    | 0x022 => BitVec.ofNat 64 (k.body.used * 2 ^ 16 + k.decl.slabq)
    | 0x028 => BitVec.ofNat 64 k.barto
    | 0x030 => w.trapcause
    | 0x031 => w.trappc
    | 0x032 => w.trapaddr
    | 0x033 => w.ehbase
    | 0x040 => (s.core p.core).misscap
    | 0x041 => (s.ctx k.ctx).nopre
    | _ => 0

/-- A program write of ARRIVE (R202). The write performs before the deposits of its cycle, whose increments are kept. -/
def State.writeArrive (s : State) (core slot : Nat) (v : BitVec 64) : State :=
  s.modWave core slot fun w => { w with arrive := v.setWidth 32 + BitVec.ofNat 32 w.landed }

/-- Write a control register (R196, R8): RO registers ignore it, out-of-range fields stay; none raises SLAB (R267). -/
def State.crWrite (s : State) (p : Pod) (w : Wave) (k : Crew) (crn : Nat) (v : BitVec 64) : Option State :=
  if 0x100 ≤ crn ∧ crn < 0x120 then s.writeTdesc p.core w.crew (crn - 0x100) k v
  else match crn with
    | 0x000 =>
      let q := bvf v 0 13
      if q = 0 ∨ q > 4096 then some s else some (s.modBody p.core w.crew fun b => { b with quantum := q })
    | 0x001 =>
      let t := bvf v 0 16
      if t = 0 then some s else some (s.modBody p.core w.crew fun b => { b with binto := t })
    | 0x008 => some (s.modBody p.core w.crew fun b => { b with ab := b.ab.set 0 (v.setWidth 58) })
    | 0x009 => some (s.modBody p.core w.crew fun b => { b with ab := b.ab.set 1 (v.setWidth 58) })
    | 0x00A => some (s.modBody p.core w.crew fun b => { b with ab := b.ab.set 2 (v.setWidth 58) })
    | 0x00B => some (s.modBody p.core w.crew fun b => { b with ab := b.ab.set 3 (v.setWidth 58) })
    | 0x010 => some (s.writeArrive p.core p.slot v)
    | 0x020 => some (s.modBody p.core w.crew fun b => { b with tol := BitVec.ofNat 64 (bvf v 0 33) })
    | 0x021 =>
      let m := bvf v 0 6
      if m = 0 ∨ m > 32 then some s else some (s.modBody p.core w.crew fun b => { b with maxrank := m })
    | 0x031 => some (s.modWave p.core p.slot fun w => { w with trappc := BitVec.ofNat 64 (bvf v 1 57 * 2) })
    | 0x033 => some (s.modWave p.core p.slot fun w => { w with ehbase := BitVec.ofNat 64 (bvf v 0 58) })
    | _ => some s

/-- A program's write reaches the register (R8, R196): the writable ones, but for a field value out of range. -/
def crTakes (crn : Nat) (v : BitVec 64) : Bool :=
  if 0x100 ≤ crn ∧ crn < 0x120 then { TDesc.ofBits v with sc := false, win := 0, soff := 0 }.writable
  else match crn with
    | 0x000 => decide (bvf v 0 13 ≠ 0) && decide (bvf v 0 13 ≤ 4096)
    | 0x001 => decide (bvf v 0 16 ≠ 0)
    | 0x008 | 0x009 | 0x00A | 0x00B | 0x010 | 0x020 | 0x031 | 0x033 => true
    | 0x021 => decide (bvf v 0 6 ≠ 0) && decide (bvf v 0 6 ≤ 32)
    | _ => false

/-- A write gives a control register good parity (R60). -/
def State.crMend (s : State) (p : Pod) (w : Wave) (crn : Nat) : State :=
  if crewCr crn then s.modBody p.core w.crew fun b => { b with parity := b.parity.filter (· != crn) }
  else s.modWave p.core p.slot fun w => { w with parity := w.parity.filter (· != parCr crn) }

/-- CMOV_READ (R239). s := CR[31:0]; s + 1 := CR[63:32], of the lowest active lane's view. -/
def execCmovRead (n : BitVec 12) (d : BitVec 6) (s : State) : Res :=
  withPod s [.ofS d, .s (d.toNat + 1)] fun p w k =>
    checked s (s.chkSrcs p w k [.cr n.toNat])
      (.done ((s.writePair p (.ofS d) fun _ => crRead s p w k n.toNat p.low).retire p))

/-- CMOV_WRITE (R239, R196, R197). MISSCAP and NOPRE are the supervisor's: PERM, and nothing changes. A write of a
descriptor waits while a multiply-accumulate of the crew runs (R204, R272, R294). A write that changes nothing leaves the
register's parity as it was (R60, R196). -/
def execCmovWrite (n : BitVec 12) (d : BitVec 6) (s : State) : Res :=
  withRegs s [.ofS d, .s (d.toNat + 1)] fun p w k =>
    if n = 0x040#12 ∨ n = 0x041#12 then .trap s (.plain .perm p.low)
    else if 0x100 ≤ n.toNat ∧ (s.core p.core).waves.any (fun e => e.2.crew == w.crew && e.2.mma.isSome) then stall s p
    else wakeChk s p w <| checked s (s.chkRegs p w (operands [.ofS d, .s (d.toNat + 1)]))
      (match s.crWrite p w k n.toNat (w.dword (.ofS d) 0) with
      | none => .trap s (.plain .slab p.low)
      | some t => .done ((if crTakes n.toNat (w.dword (.ofS d) 0) then t.crMend p w n.toNat else t).retire p))

end Sys2Proof.Machine
end

