-- ==== Sys2Proof/Machine/Branch.lean ====
section
/-! DEFINITION. Branches, calls and returns (R240 to R243, R162) and literal loads (R212, R244). -/

namespace Sys2Proof.Machine

/-- The exact target of a direct branch: PC + 2 × OFF (R240). -/
def branchTarget (p : Pod) (o : BitVec 20) : Int := (p.pc.toNat : Int) + 2 * o.toInt

/-- The taking lanes of a predicated form: pPN XOR N = 1 (R240). -/
def takers (p : Pod) (w : Wave) (n : BitVec 1) (pn : BitVec 3) : List Nat :=
  p.lanes.filter fun l => w.pred pn.toNat l != (n == 1#1)

/-- A direct branch taken in some lanes (R240, R241). -/
def branch (s : State) (o : BitVec 20) (ps : List Src) (take : Pod → Wave → List Nat) : Res :=
  withPod s [] fun p w k =>
    checked s (s.chkSrcs p w k ps)
      (let t := branchTarget p o
       let ls := take p w
       if !ls.isEmpty && !inText t then .trap s (.plain .perm (ls.headD 0))
       else .done (s.retireWith p true fun l => if ls.contains l then BitVec.ofNat 58 t.toNat else p.after))

/-- BR (R240). -/
def execBr (o : BitVec 20) (s : State) : Res := branch s o [] fun p _ => p.lanes

/-- BR_COND (R240, R243). -/
def execBrCond (o : BitVec 20) (n : BitVec 1) (pn : BitVec 3) (s : State) : Res :=
  branch s o [.pred pn.toNat] fun p w => takers p w n pn

/-- The greatest DEPTH (R162). -/
def maxDepth (privsz : Nat) : Nat := 16 + 2 ^ (privsz - 5)

/-- The private-region address of frame j (R162). -/
def frameVa (privsz j : Nat) : Nat := 5 * 2 ^ 55 + (2 ^ privsz - 8 * (j + 1))

/-- Granules of the frames that a call in some lanes spills (R162): the oldest of 16, frame DEPTH − 16. -/
def spills (w : Wave) (privsz : Nat) (ls : List Nat) : List (Nat × Option Nat) :=
  ls.filterMap fun l =>
    let t := w.thread l
    if t.stack.length ≥ 16 then some (l, some (frameVa privsz (t.depth - 16))) else none

/-- The units of the spilled frames, coded (R55, R162). -/
def spillUnits (w : Wave) (l : List Slotted) : List (Slotted × GUnit) :=
  l.map fun x =>
    let f := (w.thread x.lane).stack.getLastD 0
    (x, coded (if x.va % 8 = 0 then lo32 f else hi32 f))

/-- Push a return address (R162). -/
def Thread.push (t : Thread) (ret : BitVec 64) : Thread :=
  { t with stack := ret :: t.stack.take 15, depth := t.depth + 1 }

/-- A call in the taking lanes to one target (R162, R240, R242): STACK, then the spills' faults, then the frames. -/
def callTo (s : State) (p : Pod) (w : Wave) (k : Crew) (ls : List Nat) (target : VAddr) : Eff :=
  let sz := (s.ctx k.ctx).privsz
  match ls.find? fun l => (w.thread l).depth ≥ maxDepth sz with
  | some l => .trap s (.plain .stack l)
  | none =>
    withPlaces (s.gather p w k .write 4 2 (spills w sz ls)) fun s places =>
      let s := s.storeAll p w k false (spillUnits w places)
      let deep := (spills w sz ls).any fun x =>
        let t := w.thread x.1
        decide (t.depth - 16 + 16 < t.shDepth)
      let s := if deep then s.escape p w else s
      let s := s.modWave p.core p.slot fun w =>
        ls.foldl (fun w l => (w.mend [parFrame l (w.thread l).depth]).modThread l fun t => t.push (BitVec.ofNat 64 (p.pc + 4#58).toNat)) w
      .done (s.retireWith p true fun l => if ls.contains l then target else p.after)

/-- A lane's call spills a frame whose parity is bad: the oldest of 16, frame DEPTH − 16 (R60, R162). -/
def Wave.spillBad (w : Wave) (l : Nat) : Bool :=
  decide ((w.thread l).stack.length ≥ 16) && w.parity.contains (parFrame l ((w.thread l).depth - 16))

/-- Check a call's sources lane by lane: its operands, then the parity of the frame that the lane spills (R60, R61, R162). -/
def State.callChk (s : State) (p : Pod) (w : Wave) (k : Crew) (srcs : List Src) (ls : List Nat) : Option Chk :=
  p.lanes.findSome? fun l => orChk (srcs.findSome? (s.chkSrc p w k l)) (parityFail (ls.contains l && w.spillBad l) l)

/-- A direct call (R240, R241). -/
def call (s : State) (o : BitVec 20) (ps : List Src) (take : Pod → Wave → List Nat) : Res :=
  withPod s [] fun p w k =>
    let ls := take p w
    checked s (s.callChk p w k ps ls)
      (let t := branchTarget p o
       if !ls.isEmpty && !inText t then .trap s (.plain .perm (ls.headD 0))
       else callTo s p w k ls (BitVec.ofNat 58 t.toNat))

/-- CALL (R240). -/
def execCall (o : BitVec 20) (s : State) : Res := call s o [] fun p _ => p.lanes

/-- CALL_COND (R240). -/
def execCallCond (o : BitVec 20) (n : BitVec 1) (pn : BitVec 3) (s : State) : Res :=
  call s o [.pred pn.toNat] fun p w => takers p w n pn

/-- An indirect target that R242 refuses: bits above 57, bit 0, or outside the text region. -/
def badTarget (x : BitVec 64) : Bool := x.toNat % 2 == 1 || !inText x.toNat

/-- JMP (R242). The pair is read once for the pod. -/
def execJmp (a : BitVec 6) (s : State) : Res :=
  withPod s ((Reg.ofS a).group 2) fun p w _ =>
    checked s (s.chkRegs p w (operands ((Reg.ofS a).group 2)))
      (let x := w.dword (.ofS a) 0
       if badTarget x then .trap s (.plain .perm p.low)
       else .done (s.retireWith p true fun _ => x.setWidth 58))

/-- CALLI (R242). -/
def execCalli (a : BitVec 6) (s : State) : Res :=
  withPod s ((Reg.ofS a).group 2) fun p w k =>
    checked s (s.callChk p w k (sources ((Reg.ofS a).group 2)) p.lanes)
      (let x := w.dword (.ofS a) 0
       if badTarget x then .trap s (.plain .perm p.low)
       else callTo s p w k p.lanes (x.setWidth 58))

/-- Frames that a return refills (R162): frame DEPTH − 16 of the depth after the pop. -/
def refills (w : Wave) (privsz : Nat) (ls : List Nat) : List (Nat × Option Nat) :=
  ls.filterMap fun l =>
    let t := w.thread l
    if t.depth ≥ 17 then some (l, some (frameVa privsz (t.depth - 17))) else none

/-- Pop a frame, with the refilled frame at the bottom; DROP is set when DEPTH falls below ENTDEPTH (R162, R343). -/
def Thread.pop (t : Thread) (refill : Option (BitVec 64)) : Thread :=
  let d := t.depth - 1
  { t with stack := t.stack.tail ++ refill.toList, depth := d, drop := t.drop || decide (d < t.entDepth) }

/-- The key of the frame that a lane's return refills (R60, R162). -/
def refilled (w : Wave) (l : Nat) : List Nat :=
  if (w.thread l).depth ≥ 17 then [parFrame l ((w.thread l).depth - 17)] else []

/-- A lane's refilled frame among the loaded granules. -/
def frameOf (l : List (Nat × GUnit × Option Nat)) (lane : Nat) : Option (BitVec 64) :=
  match l.filter fun x => x.1 == lane with
  | [a, b] => some (pair a.2.1.data b.2.1.data)
  | _ => none

/-- The program counter that a popped frame gives: its bits 57 to 1 (R160, R162). -/
def returnPc (f : BitVec 64) : VAddr := f.setWidth 58 &&& ~~~ 1#58

/-- A lane's return reads a frame whose parity is bad: the newest, frame DEPTH − 1 (R60, R162). -/
def Wave.popBad (w : Wave) (l : Nat) : Bool :=
  decide ((w.thread l).depth ≠ 0) && w.parity.contains (parFrame l ((w.thread l).depth - 1))

/-- RET (R242, R162): the parity of the frame that each lane reads (R60), STACK at DEPTH 0, the refill's faults, then its
check (SITE 0x0D). Bit 0 of a program counter is zero (R160), whatever a refilled frame holds there. -/
def execRet (s : State) : Res :=
  withPod s [] fun p w k =>
    checked s (p.lanes.findSome? fun l => parityFail (w.popBad l) l)
      (match p.lanes.find? fun l => (w.thread l).depth = 0 with
      | some l => .trap s (.plain .stack l)
      | none =>
        withPlaces (s.gather p w k .read 4 2 (refills w (s.ctx k.ctx).privsz p.lanes)) fun s places =>
          match s.loadAll p w k false places with
          | (got, s) =>
            checked s (got.findSome? fun x => s.chkUnit 0x0D 0xFF x.1 x.2.1 x.2.2)
              (.done ((s.modWave p.core p.slot fun w =>
                p.lanes.foldl (fun w l => (w.mend (refilled w l)).modThread l fun t => t.pop (frameOf got l)) w).retireWith p true fun l =>
                  returnPc ((w.thread l).stack.headD 0))))

/-- The literal's address: 4 × (PC div 4) + 4 × OFF (R212). -/
def literalVa (p : Pod) (o : BitVec 18) : Int := (p.pc.toNat / 4 * 4 : Nat) + 4 * o.toInt

/-- Read translated text granules through the instruction cache (R212). -/
def State.icAll (s : State) (core : Nat) : List Slotted → List (Nat × GUnit × Option Nat) × State
  | [] => ([], s)
  | x :: xs =>
    match x.at_ with
    | .mem pa _ ms cz =>
      match s.icGet core pa cz with
      | (u, s) =>
        match State.icAll s core xs with
        | (l, s) => ((x.lane, u, some (if ms then pa + 1 else pa)) :: l, s)
    | _ => State.icAll s core xs

/-- A literal load of n granules (R212, R244): one read for the pod, forwarded to every active lane. -/
def literal (s : State) (o : BitVec 18) (d : Reg) (n : Nat) : Res :=
  withPod s (d.group n) fun p w k =>
    let a := literalVa p o
    if !inText a || !inText (a + 4 * (n - 1 : Nat)) then .trap s (.plain .perm p.low)
    else
      withPlaces (s.gather p w k .read 4 n [(p.low, some a.toNat)]) fun s places =>
        match s.icAll p.core places with
        | (got, s) => .done ((s.putLoaded p d n (p.lanes.flatMap fun _ => got)).retire p)

/-- LDL_B32 (R212). -/
def execLdlB32 (o : BitVec 18) (d : BitVec 7) (s : State) : Res := literal s o (.of7 d) 1

/-- LDL_B64 (R212). -/
def execLdlB64 (o : BitVec 18) (d : BitVec 7) (s : State) : Res := literal s o (.of7 d) 2

end Sys2Proof.Machine
end

