-- ==== Sys2Proof/Machine/MemInstr.lean ====
section
/-! DEFINITION. Weak loads and stores, majors 0x21 to 0x26 (R247 to R249), and ordered loads and stores, major 0x27
(R250), with the memory-issue throttle (R183). -/

namespace Sys2Proof.Machine

/-! ### Throttling -/

/-- Throttling acts (R183): LIMIT is not 0 and some wave's score is at least THRESH. -/
def Core.throttling (k : Core) : Bool :=
  decide (bvf k.misscap 0 6 ≠ 0) && k.waves.any fun e => decide (bvf k.misscap 16 8 ≤ e.2.lls)

/-- A wave does not issue a memory instruction now (R183): throttling acts, the wave is not permitted, the instruction
reaches the global, private or text region, and the wave has not been held for 4,096 cycles. -/
def State.throttled (s : State) (p : Pod) (w : Wave) (vas : List (Nat × Option Nat)) : Bool :=
  let c := s.core p.core
  c.throttling && (match c.permitted with | some l => !l.contains p.slot | none => false) &&
  (vas.any fun x => match x.2 with | some va => decide (va < 6 * 2 ^ 55) | none => false) &&
  (match w.heldAt with | some t => decide (s.cycOf p.core < t + 4096) | none => true)

/-- A wave that was held and now issues a memory instruction is held no longer (R183). -/
def State.unheld (s : State) (p : Pod) (w : Wave) : State :=
  if w.heldAt.isSome then s.modWave p.core p.slot fun w => { w with heldAt := none } else s

/-- Keep the wave from a memory instruction, or let the instruction go on (R183). -/
def throttle (s : State) (p : Pod) (w : Wave) (vas : List (Nat × Option Nat)) (f : State → Eff) : Eff :=
  if s.throttled p w vas then
    stall (s.modWave p.core p.slot fun w => { w with heldAt := some (w.heldAt.getD (s.cycOf p.core)) }) p
  else f (s.unheld p w)

/-! ### Shared forms -/

/-- A lane's address BASE(AB[bs]) + zext(a) + 4 × sext(OFF) (R199). -/
def laneVa (w : Wave) (k : Crew) (bs : Nat) (a : Reg) (off : Int) (lane : Nat) : Nat × Option Nat :=
  (lane, addrSum (k.ab bs) (w.word a lane).toNat (4 * off))

/-- The objects whose words some granules belong to (R103, R250): entry 0 is the default object. -/
def State.objects (s : State) (p : Pod) (w : Wave) (k : Crew) (l : List Slotted) : List Nat :=
  (l.map fun x => (s.ctx k.ctx).objectOf (s.pageVa (laneAgent p w k x.lane) x.va)).eraseDups

/-- Release actions on some objects (R117). -/
def State.releases (s : State) (core ctx scope : Nat) (l : List Nat) : State :=
  l.foldl (fun s b => s.release core ctx (some b) scope) s

/-- Acquire actions on some objects (R117). -/
def State.acquires (s : State) (core ctx scope : Nat) (l : List Nat) : State :=
  l.foldl (fun s b => s.acquire core ctx (some b) scope) s

/-- A scope wider than crew (R102). -/
def widerThanCrew (scope : Nat) : Bool := decide (scope > 2)

/-- A load of `n` granules into a group (R247, R248, R250). `ord` is 0 weak, 1 `.rlx`, 2 `.acq`. The accesses of a thread perform at
issue, so in program order, strong `.rlx` accesses of different granules too, although R111 leaves their order open: the model's
choice (DESIGN CHOICE, log 3). -/
def memLoad (s : State) (ord scope align n bs : Nat) (off : Int) (a d : Reg) : Res :=
  withPod s (a :: d.group n) fun p w k =>
    let vas := (if d.uniform then [p.low] else p.lanes).map (laneVa w k bs a off)
    throttle s p w vas fun s =>
    checked s (s.chkSrcs p w k [.cr (8 + bs), .reg a 3])
      (withPlaces (s.gather p w k .read align n vas) fun s places =>
        match s.loadAll p w k (ord != 0) places with
        | (got, s) =>
          let s := s.putLoaded p d n got
          let s := if ord = 2 then s.acquires p.core k.ctx scope (s.objects p w k places) else s
          let s := if ord = 0 then s else s.clearIdem p
          .done (s.retire p))

/-- The units of a store: lane by lane, `n` registers each (R247). -/
def storeUnits (w : Wave) (d : Reg) (n : Nat) (l : List Slotted) : List (Slotted × GUnit) :=
  l.zipIdx.map fun x => (x.1, w.get (d.plus (x.2 % n)) x.1.lane)

/-- A store of `n` granules from a group (R247, R249, R250). `ord` is 0 weak, 1 `.rlx`, 3 `.rel`. -/
def memStore (s : State) (ord scope align n bs : Nat) (off : Int) (ip : Bool) (a d : Reg) : Res :=
  withPod s (a :: d.group n) fun p w k =>
    let vas := p.lanes.map (laneVa w k bs a off)
    throttle s p w vas fun s =>
    checked s (s.chkSrcs p w k [.cr (8 + bs), .reg a 3])
      (withPlaces (s.gather p w k .write align n vas) fun s places =>
        let s := if ord = 3 then s.releases p.core k.ctx scope (s.objects p w k places) else s
        let s := s.storeAll p w k (ord != 0) (storeUnits w d n places)
        let s := if ord != 0 && widerThanCrew scope then s.escape p w else s
        let s := if ip || ord != 0 then s.clearIdem p else s
        .done (s.retire p))

/-! ### Weak loads and stores -/

/-- LD_B32 (R247). -/
def execLdB32 (o : BitVec 8) (b : BitVec 2) (a d : BitVec 7) (s : State) : Res :=
  memLoad s 0 0 4 1 b.toNat o.toInt (.of7 a) (.of7 d)

/-- LD_B64 (R247). -/
def execLdB64 (o : BitVec 8) (b : BitVec 2) (a d : BitVec 7) (s : State) : Res :=
  memLoad s 0 0 4 2 b.toNat o.toInt (.of7 a) (.of7 d)

/-- LD_B128 (R247). -/
def execLdB128 (o : BitVec 8) (b : BitVec 2) (a d : BitVec 7) (s : State) : Res :=
  memLoad s 0 0 4 4 b.toNat o.toInt (.of7 a) (.of7 d)

/-- ST_B32 (R247, R249). -/
def execStB32 (o : BitVec 8) (i : BitVec 1) (b : BitVec 2) (a d : BitVec 7) (s : State) : Res :=
  memStore s 0 0 4 1 b.toNat o.toInt (i == 1#1) (.of7 a) (.of7 d)

/-- ST_B64 (R247, R249). -/
def execStB64 (o : BitVec 8) (i : BitVec 1) (b : BitVec 2) (a d : BitVec 7) (s : State) : Res :=
  memStore s 0 0 4 2 b.toNat o.toInt (i == 1#1) (.of7 a) (.of7 d)

/-- ST_B128 (R247, R249). -/
def execStB128 (o : BitVec 8) (i : BitVec 1) (b : BitVec 2) (a d : BitVec 7) (s : State) : Res :=
  memStore s 0 0 4 4 b.toNat o.toInt (i == 1#1) (.of7 a) (.of7 d)

/-! ### Ordered loads and stores: an ordered b64 is aligned to 8, a weak one to 4 (R246, R250) -/

/-- The alignment of a b64 form of major 0x27: ORD 0 has exactly the effect of the weak form (R250). -/
def ordAlign (o : BitVec 3) : Nat := if o = 0 then 4 else 8

/-- LD_B32_ORD (R250). -/
def execLdB32Ord (g : BitVec 4) (o : BitVec 3) (b : BitVec 2) (a d : BitVec 7) (s : State) : Res :=
  memLoad s o.toNat g.toNat 4 1 b.toNat 0 (.of7 a) (.of7 d)

/-- LD_B64_ORD (R250). -/
def execLdB64Ord (g : BitVec 4) (o : BitVec 3) (b : BitVec 2) (a d : BitVec 7) (s : State) : Res :=
  memLoad s o.toNat g.toNat (ordAlign o) 2 b.toNat 0 (.of7 a) (.of7 d)

/-- ST_B32_ORD (R250). -/
def execStB32Ord (g : BitVec 4) (o : BitVec 3) (b : BitVec 2) (a d : BitVec 7) (s : State) : Res :=
  memStore s o.toNat g.toNat 4 1 b.toNat 0 false (.of7 a) (.of7 d)

/-- ST_B64_ORD (R250). -/
def execStB64Ord (g : BitVec 4) (o : BitVec 3) (b : BitVec 2) (a d : BitVec 7) (s : State) : Res :=
  memStore s o.toNat g.toNat (ordAlign o) 2 b.toNat 0 false (.of7 a) (.of7 d)

end Sys2Proof.Machine
end

