-- ==== Sys2Proof/Machine/Atomic.lean ====
section
/-! DEFINITION. Atomics, majors 0x28 to 0x36 (R120 to R122, R251 to R254). -/

namespace Sys2Proof

/-- Registers that the B operand names (R251, R252). -/
def AtomOp.operands : AtomOp → Nat
  | .casB32 | .mrgB32 | .addN64 | .swpB64 => 2
  | .casB64 => 4
  | _ => 1

/-- A PCIe adapter performs the operation (R254). -/
def AtomOp.pcie : AtomOp → Bool
  | .addN32 | .addN64 | .swpB32 | .swpB64 | .casB32 | .casB64 => true
  | _ => false

end Sys2Proof

namespace Sys2Proof.Machine

/-- A place where an atomic raises PERM: scratchpad, control space, or an operation that PCIe lacks (R254). -/
def atomDeny (op : AtomOp) (x : Xlat) : Bool :=
  match x with
  | .mem pa _ _ _ => winKind pa == 1 || (winKind pa == 2 && !op.pcie)
  | _ => true

/-- What one lane's request comes to: the old units, the trap (R253), or a wait at its unit (R86). -/
inductive LaneAtom where
  | old (us : List GUnit)
  | fail (t : Trap)
  | later

/-- The trap of an atomic unit's answer in a lane (R253); `ms` says that the page is an MS page. -/
def atomLane (lane : Nat) (ms : Bool) (r : AtomRes) : LaneAtom :=
  let at_ (pa : Nat) : Option Nat := some (if ms then pa + 1 else pa)
  match r with
  | .old us => .old us
  | .poisoned pa u => .fail (Chk.trap ⟨0x0A, 0xFF, lane, u.syn, false, at_ pa, true⟩)
  | .marked pa => .fail (Chk.trap ⟨0x08, 0xFF, lane, 0, true, at_ pa, false⟩)
  | .failed pa u => .fail (Chk.trap ⟨0x08, 0xFF, lane, u.syn, false, at_ pa, false⟩)
  | .operand _ u => .fail (Chk.trap ⟨0x09, 0xFF, lane, if u.ue then 0 else u.syn, u.ue, none, false⟩)
  | .later => .later

/-- `n` free units that a device answers with (log 8): coded ones, or units of a peer as it holds them. -/
def State.freeUnits (s : State) (peer : Bool) : Nat → List GUnit × State
  | 0 => ([], s)
  | n + 1 =>
    match s.freeWord with
    | (w, s) =>
      match s.freeWord with
      | (c, s) =>
        match State.freeUnits s peer n with
        | (us, s) => ((if peer then ⟨w, c.setWidth 8, c.getLsbD 8⟩ else coded w) :: us, s)

/-- A peer's atomic unit checks the old units that it holds (R120, R253). Whether the peer's poison list holds a granule is free
(log 8). -/
def State.peerAtomic (s : State) (pa n : Nat) : AtomRes × State :=
  match s.freeOk with
  | (listed, s) =>
    match s.freeUnits true n with
    | (us, s) =>
      ((us.zipIdx.findSome? fun x =>
        let a := pa + 4 * x.2
        if x.1.ue then some (AtomRes.marked a)
        else if x.1.ok then none
        else if listed && x.1.syn == 0xFF#8 then some (.poisoned a x.1)
        else some (.failed a x.1)).getD (.old us), s)

/-- One lane's request (R120, R121): the own L1's line goes home first; then the home slice, the far atomic unit, the
peer or the PCIe adapter performs it. A request to a peer says whether its home slice or its far atomic unit performs it
(R120), and the checks of the peer's unit end it as those of an own one do (R63, R253). An unsuccessful PCIe completion raises PERM and is reported. -/
def State.atomRequest (s : State) (core : Nat) (op : AtomOp) (x : Slotted) (operand : List GUnit) : LaneAtom × State :=
  match x.at_ with
  | .mem pa _ ms cz =>
    if pa < hbmSize then
      let c := s.l1Core core (pa / 128)
      let s := (s.l1Back c (pa / 128)).l1Drop c (pa / 128)
      match (if ms then s.farAtomic pa op operand else (s.homeFill pa cz).homeAtomic pa op operand) with
      | (r, s) => (atomLane x.lane ms r, s)
    else
      let s := s.traffic pa (.atom pa op operand ms)
      if winKind pa = 2 then
        match s.freeOk with
        | (false, s) => (.fail ⟨.perm, x.lane, x.va, none⟩, s.toOsm (.pcieAtomic (pa / 2 ^ 39 - 2) pa))
        | (true, s) =>
          match s.freeUnits false op.words with
          | (us, s) => (.old us, s)
      else
        match s.peerAtomic pa op.words with
        | (r, s) => (atomLane x.lane ms r, s)
  | _ => (.fail ⟨.perm, x.lane, x.va, none⟩, s)

/-- Every lane's request, in ascending lane order (R122, R253). -/
def State.atomRequests (s : State) (core : Nat) (op : AtomOp) (operand : Nat → List GUnit) :
    List Slotted → List (Nat × LaneAtom) × State
  | [] => ([], s)
  | x :: xs =>
    match s.atomRequest core op x (operand x.lane) with
    | (r, s) =>
      match State.atomRequests s core op operand xs with
      | (l, s) => ((x.lane, r) :: l, s)

/-- The trap of the lowest failing lane (R253). -/
def firstFail (l : List (Nat × LaneAtom)) : Option Trap :=
  l.findSome? fun x => match x.2 with | .fail t => some t | _ => none

/-- The old units, lane by lane. -/
def oldUnits (l : List (Nat × LaneAtom)) : List (Nat × GUnit × Option Nat) :=
  l.flatMap fun x => match x.2 with | .old us => us.map fun u => (x.1, u, none) | _ => []

/-- One granule or 8-byte word of each lane: the first granule of its access. -/
def firstOf (n : Nat) (l : List Slotted) : List Slotted :=
  l.zipIdx.filterMap fun x => if x.2 % n = 0 then some x.1 else none

/-- An atomic (R251 to R254). A request that its unit cannot take yet (R86) keeps the whole instruction waiting. `ord` is 0 `.rlx`, 1 `.acq`, 2 `.rel`, 3 `.ar`. -/
def atomic (s : State) (op : AtomOp) (scope ord : Nat) (b a d : Reg) : Res :=
  withPod s (a :: d.group op.words ++ b.group op.operands) fun p w k =>
    let vas := p.lanes.map (laneVa w k 0 a 0)
    throttle s p w vas fun s =>
    checked s (s.chkSrcs p w k (.cr 8 :: .reg a 3 :: (b.group op.operands).map fun r => .reg r 9))
      (withPlaces (s.gatherDeny p w k .atomic (atomDeny op) (4 * op.words) op.words vas) fun s0 places =>
        let s := s0
        let objs := s.objects p w k places
        let s := if ord ≥ 2 then s.releases p.core k.ctx scope objs else s
        match s.atomRequests p.core op (fun l => (b.group op.operands).map fun r => w.get r l) (firstOf op.words places) with
        | (got, s) =>
          let out := places.any fun x => match x.at_ with | .mem pa _ _ _ => winKind pa == 2 | _ => false
          let performed := got.any fun x => match x.2 with | .old _ => true | _ => false
          let s := if performed && (widerThanCrew scope || out) then s.escape p w else s
          if got.any fun x => (match x.2 with | .later => true | _ => false) then stall s0 p
          else match firstFail got with
          | some t => .trap s t
          | none =>
            let s := s.putLoaded p d op.words (oldUnits got)
            let s := if ord = 1 ∨ ord = 3 then s.acquires p.core k.ctx scope objs else s
            .done ((s.clearIdem p).retire p))

/-- ATADD_N32 (R252). -/
def execAtaddN32 (g : BitVec 4) (o : BitVec 2) (b : BitVec 6) (a : BitVec 7) (d : BitVec 6) (s : State) : Res :=
  atomic s .addN32 g.toNat o.toNat (.ofV b) (.of7 a) (.ofV d)

/-- ATFADD_F32 (R252). -/
def execAtfaddF32 (g : BitVec 4) (o : BitVec 2) (b : BitVec 6) (a : BitVec 7) (d : BitVec 6) (s : State) : Res :=
  atomic s .addF32 g.toNat o.toNat (.ofV b) (.of7 a) (.ofV d)

/-- ATMIN_I32 (R252). -/
def execAtminI32 (g : BitVec 4) (o : BitVec 2) (b : BitVec 6) (a : BitVec 7) (d : BitVec 6) (s : State) : Res :=
  atomic s .minI32 g.toNat o.toNat (.ofV b) (.of7 a) (.ofV d)

/-- ATMIN_N32 (R252). -/
def execAtminN32 (g : BitVec 4) (o : BitVec 2) (b : BitVec 6) (a : BitVec 7) (d : BitVec 6) (s : State) : Res :=
  atomic s .minN32 g.toNat o.toNat (.ofV b) (.of7 a) (.ofV d)

/-- ATMAX_I32 (R252). -/
def execAtmaxI32 (g : BitVec 4) (o : BitVec 2) (b : BitVec 6) (a : BitVec 7) (d : BitVec 6) (s : State) : Res :=
  atomic s .maxI32 g.toNat o.toNat (.ofV b) (.of7 a) (.ofV d)

/-- ATMAX_N32 (R252). -/
def execAtmaxN32 (g : BitVec 4) (o : BitVec 2) (b : BitVec 6) (a : BitVec 7) (d : BitVec 6) (s : State) : Res :=
  atomic s .maxN32 g.toNat o.toNat (.ofV b) (.of7 a) (.ofV d)

/-- ATAND_B32 (R252). -/
def execAtandB32 (g : BitVec 4) (o : BitVec 2) (b : BitVec 6) (a : BitVec 7) (d : BitVec 6) (s : State) : Res :=
  atomic s .andB32 g.toNat o.toNat (.ofV b) (.of7 a) (.ofV d)

/-- ATOR_B32 (R252). -/
def execAtorB32 (g : BitVec 4) (o : BitVec 2) (b : BitVec 6) (a : BitVec 7) (d : BitVec 6) (s : State) : Res :=
  atomic s .orB32 g.toNat o.toNat (.ofV b) (.of7 a) (.ofV d)

/-- ATXOR_B32 (R252). -/
def execAtxorB32 (g : BitVec 4) (o : BitVec 2) (b : BitVec 6) (a : BitVec 7) (d : BitVec 6) (s : State) : Res :=
  atomic s .xorB32 g.toNat o.toNat (.ofV b) (.of7 a) (.ofV d)

/-- ATSWP_B32 (R252). -/
def execAtswpB32 (g : BitVec 4) (o : BitVec 2) (b : BitVec 6) (a : BitVec 7) (d : BitVec 6) (s : State) : Res :=
  atomic s .swpB32 g.toNat o.toNat (.ofV b) (.of7 a) (.ofV d)

/-- ATCAS_B32 (R252). -/
def execAtcasB32 (g : BitVec 4) (o : BitVec 2) (b : BitVec 6) (a : BitVec 7) (d : BitVec 6) (s : State) : Res :=
  atomic s .casB32 g.toNat o.toNat (.ofV b) (.of7 a) (.ofV d)

/-- ATMRG_B32 (R252). -/
def execAtmrgB32 (g : BitVec 4) (o : BitVec 2) (b : BitVec 6) (a : BitVec 7) (d : BitVec 6) (s : State) : Res :=
  atomic s .mrgB32 g.toNat o.toNat (.ofV b) (.of7 a) (.ofV d)

/-- ATADD_N64 (R252). -/
def execAtaddN64 (g : BitVec 4) (o : BitVec 2) (b : BitVec 6) (a : BitVec 7) (d : BitVec 6) (s : State) : Res :=
  atomic s .addN64 g.toNat o.toNat (.ofV b) (.of7 a) (.ofV d)

/-- ATSWP_B64 (R252). -/
def execAtswpB64 (g : BitVec 4) (o : BitVec 2) (b : BitVec 6) (a : BitVec 7) (d : BitVec 6) (s : State) : Res :=
  atomic s .swpB64 g.toNat o.toNat (.ofV b) (.of7 a) (.ofV d)

/-- ATCAS_B64 (R252). -/
def execAtcasB64 (g : BitVec 4) (o : BitVec 2) (b : BitVec 6) (a : BitVec 7) (d : BitVec 6) (s : State) : Res :=
  atomic s .casB64 g.toNat o.toNat (.ofV b) (.of7 a) (.ofV d)

end Sys2Proof.Machine
end

