-- ==== Sys2Proof/Machine/CrewOps.lean ====
section
/-! DEFINITION. Operations on crews and waves: formation (R164, R192, R198), removal of threads from waves (R163, R170,
R175), ranks (R176), free lanes and slots, thread ids (R161), cluster sets (R178), and the observation of early stops
(R130). -/

namespace Sys2Proof.Machine

/-! ### Formation -/

/-- A thread at its creation: empty return stack, DEPTH 0 (R162, R181). -/
def Thread.fresh (id rank : Nat) (pc : VAddr) : Thread := ⟨id, rank, pc, [], 0, 0, false, 0, .ready, 0⟩

/-- A wave at its formation (R164, R192, R314): every thread in q0, registers zero units, predicates 0, EHBASE as recorded
for the context. -/
def Wave.fresh (crew : Nat) (handler : BitVec 64) (quantum : Nat) (threads : Map Thread) : Wave :=
  let live := laneSet (threads.map fun e => e.1)
  { Wave.empty with
    crew := crew
    threads := threads
    q := if live = 0 then [] else [(0, ⟨live, 0⟩)]
    ehbase := handler
    sel := lowestPc (threads.map fun e => e.2.pc) 0
    quantum := quantum }

/-- The address bases at crew creation (R198). -/
def baseReset : List VAddr := [0x000000000000000#58, 0x300000000000000#58, 0x280000000000000#58, 0x200000000000000#58]

/-- The control registers and tiles of a crew at its creation (R167, R198, R201, R266, R270, R271). -/
def CrewBody.fresh : CrewBody where
  quantum := 64
  binto := 1024
  ab := baseReset
  tol := 0
  maxrank := 32
  mregs := []
  accs := []
  touched := 0
  bar := none
  stops := []
  parity := []

/-! ### Room -/

/-- Vector wave-registers in use (R190). -/
def Core.vUse (k : Core) : Nat :=
  k.waves.foldl (fun n e => n + (k.crews.find e.2.crew).elim 0 fun c => c.decl.vregs) 0
/-- Uniform wave-registers in use (R190). -/
def Core.sUse (k : Core) : Nat :=
  k.waves.foldl (fun n e => n + (k.crews.find e.2.crew).elim 0 fun c => c.decl.sregs) 0
/-- Free wave slots, lowest first. -/
def Core.freeSlots (k : Core) : List Nat := (span 0 32).filter fun i => (k.waves.find i).isNone
/-- How many more waves of a declaration the core holds: slots and register pools (R190). -/
def Core.waveRoom (k : Core) (vregs sregs : Nat) : Nat :=
  min k.freeSlots.length (min ((4096 - k.vUse) / vregs) ((2048 - k.sUse) / sregs))
/-- Free lanes of a crew's waves, lowest slot and lane first (R175). -/
def Core.freeLanes (k : Core) (crew : Nat) : List (Nat × Nat) :=
  (span 0 32).flatMap fun sl =>
    match k.waves.find sl with
    | some w => if w.crew == crew then ((span 0 32).filter fun i => (w.threads.find i).isNone).map fun i => (sl, i) else []
    | none => []
/-- Where threads may be placed in a crew: free lanes, then lanes of new waves (R175). -/
def Core.homes (k : Core) (crew vregs sregs : Nat) : List (Nat × Nat) :=
  k.freeLanes crew ++ (k.freeSlots.take (k.waveRoom vregs sregs)).flatMap fun s => (span 0 32).map fun i => (s, i)

/-! ### Lanes -/

/-- The parity key of one of a lane's predicates or frames (R60). -/
def laneKey (l k : Nat) : Bool := decide (0x20000 ≤ k) && k % 32 == l

/-- A lane's registers and predicates become zero. -/
def Wave.clearLane (w : Wave) (l : Nat) : Wave :=
  { w with
    v := w.v.filter fun e => e.1 % 32 != l
    parity := w.parity.filter fun k => !laneKey l k
    p := (span 0 8).foldl (fun m n => m.put n (setBit (m.getD n 0) l false) 0) w.p }

/-- A lane takes the registers, predicates and thread of a lane of another wave, and joins q0 (R175). -/
def Wave.adopt (w src : Wave) (from_ dst : Nat) (t : Thread) : Wave :=
  let w := w.clearLane dst
  let w := { w with
    v := src.v.foldr (fun (e : Nat × GUnit) (m : Map GUnit) => if e.1 % 32 == from_ then m.set (e.1 - from_ + dst) e.2 else m) w.v
    threads := w.threads.set dst t
    parity := (src.parity.filter (laneKey from_)).map (fun k => k - from_ + dst) ++ w.parity }
  let w := (span 0 8).foldl (fun w n => if src.pred n from_ then { w with p := w.p.put n (setBit (w.p.getD n 0) dst true) 0 } else w) w
  (w.setMask 0 { w.mask 0 with member := setBit (w.mask 0).member dst true }).clearIdem

/-- Leave a mask (R170). -/
def Wave.leaveMask (w : Wave) (n : Nat) (lanes : List Nat) : Wave :=
  w.setMask n ⟨(w.mask n).member &&& ~~~ laneSet lanes, (w.mask n).arrived &&& ~~~ laneSet lanes⟩

/-- A thread at an `emit` waits for lanes of its pod no longer; it goes on when it waits for none (R181). -/
def Thread.emitGo (t : Thread) (lanes : BitVec 32) : Thread :=
  match t.hold with
  | .emitted m =>
    if m &&& ~~~ lanes = 0 then { t with hold := .ready, pc := t.pc + 4#58 } else { t with hold := .emitted (m &&& ~~~ lanes) }
  | _ => t

/-- Threads leave a wave, by exit or regrouping: every mask, the entered set, the lanes (R163, R170, R316). What they complete is
released at the end of the cycle (R169). -/
def Wave.remove (w : Wave) (lanes : List Nat) (q : Nat) : Wave :=
  let w := { w with threads := Map.mapAll (w.threads.filter fun e => !lanes.contains e.1) fun _ t => t.emitGo (laneSet lanes) }
  let w := (span 0 12).foldl (fun w n => w.leaveMask n lanes) w
  let w := lanes.foldl Wave.clearLane w
  (w.leaveHandler lanes).reselect q

/-- Remove threads from a wave; a slot is freed when its last thread leaves it (R164). -/
def State.removeLanes (s : State) (core slot : Nat) (lanes : List Nat) (quantum : Nat) : State :=
  s.modCore core fun k =>
    let waves := k.waves.alter slot fun w => w.remove lanes quantum
    let freed := (waves.find slot).any fun w => w.threads.isEmpty
    { k with
      waves := waves.filter fun e => !(e.1 == slot && e.2.threads.isEmpty)
      origin := k.origin.filter fun o => !(o.slot == slot && (freed && decide (o.reg < 0xC0) || decide (o.reg < 0x80) && lanes.contains o.lane)) }

/-! ### Ranks and ids -/

/-- Give ranks 0 upwards to threads named by slot and lane (R176). -/
def State.rerank (s : State) (core : Nat) (order : List (Nat × Nat)) : State :=
  s.modCore core fun k => { k with waves := k.waves.mapAll fun sl w =>
    { w with threads := w.threads.mapAll fun l t =>
      match order.idxOf? (sl, l) with
      | some i => { t with rank := i }
      | none => t } }

/-- Renumber a crew densely: old members by rank, then joiners by thread id (R176). -/
def State.renumber (s : State) (core crew : Nat) (joiners : List Nat) : State :=
  let ms := (s.core core).members crew
  let old := sortBy (fun x => x.2.2.rank) (ms.filter fun x => !joiners.contains x.2.2.id)
  let new := sortBy (fun x => x.2.2.id) (ms.filter fun x => joiners.contains x.2.2.id)
  s.rerank core ((old ++ new).map fun x => (x.1, x.2.1))

/-- Thread ids return to the context at the end of the crew's barrier interval (R161, R361). -/
def State.retireIds (s : State) (ctx core crew : Nat) (ids : List Nat) : State :=
  s.modCtx ctx fun c => { c with idsRet := c.idsRet ++ ids.map fun i => (i, core, crew) }

/-- The interval of a crew ends: the ids of its exited threads are free (R161). -/
def State.freeIds (s : State) (ctx core crew : Nat) : State :=
  let out := ((s.ctx ctx).idsRet.filter fun e => e.2.1 == core && e.2.2 == crew).map fun e => e.1
  if out.isEmpty then s
  else (s.dropIds ctx out).modCtx ctx fun c => { c with idsRet := c.idsRet.filter fun e => !(e.2.1 == core && e.2.2 == crew) }

/-- A core is being emptied for a context: a test is asked for, the core is condemned, or it has left the context's partition
(R25, R357, R397). -/
def State.emptying (s : State) (core ctx : Nat) : Bool :=
  (s.core core).testAsked || (s.core core).condemned || !(s.ctx ctx).partition.contains core

/-! ### Timeouts -/

/-- A `wait` whose count has run out (R171): the arrival bit is cleared, the predicate set, and the thread proceeds. -/
def Wave.timeOut (w : Wave) (l : Nat) : Wave :=
  match (w.thread l).hold with
  | .wait q pd _ =>
    let w := w.setMask q { w.mask q with arrived := setBit (w.mask q).arrived l false }
    (w.setPred pd [l] fun _ => true).modThread l fun t => { t with hold := .ready, pc := t.pc + 4#58 }
  | _ => w

/-- Waits of a wave whose count ran out before a cycle (R171). -/
def Wave.expire (w : Wave) (now : Nat) : Wave :=
  ((span 0 32).filter fun l => match (w.thread l).hold with
    | .wait _ _ t => decide (t < now)
    | _ => false).foldl Wave.timeOut w

/-! ### Sets -/

/-- The number of a crew's cluster set in its node; sets are placed in crew order (R333). -/
def Crew.setNo (k : Crew) : Nat := if k.setn = 0 then 0 else k.cidx / k.setn

/-- The crew of a cluster set on a core (R178). -/
def State.setMember (s : State) (core ctx node setNo : Nat) : Option (Nat × Crew) :=
  (s.core core).crews.find? fun e =>
    e.2.setn != 0 && e.2.ctx == ctx && e.2.node == node && e.2.setNo == setNo && decide (e.2.phase ≠ .ended)

/-- The mates of a crew on the cores of its cluster, by core-in-cluster (R178). -/
def State.setMates (s : State) (core : Nat) (k : Crew) : List (Nat × Nat × Crew) :=
  if k.setn = 0 then []
  else (span 0 4).filterMap fun c =>
    (s.setMember (clusterOf core * 4 + c) k.ctx k.node k.setNo).map fun e => (c, e.1, e.2)

/-- A save of the crew's set is pending (R352). -/
def State.setSaving (s : State) (core : Nat) (k : Crew) : Bool :=
  (s.setMates core k).any fun e => e.2.2.preempt.isSome || (match e.2.2.phase with | .capture _ => true | _ => false)

/-- The wave's window ends (R187): where R352 holds an instruction in it, the instruction is to be captured unperformed, and a
save waits for every window (log 38). -/
def State.shutWindow (s : State) (p : Pod) : State := s.modWave p.core p.slot fun w => { w with nprem := 0 }

/-! ### Early stops -/

/-- The trap of a stop, as its observer receives it (R130). -/
def Stop.trap (x : Stop) (lane : Nat) : Trap :=
  match x.cause with
  | .chk => Chk.trap ⟨x.site, 0xFF, lane, x.syn, false, x.addr, x.site == 0x0A⟩
  | .hbmue => Chk.trap ⟨x.site, 0xFF, lane, 0, true, x.addr, false⟩
  | c => ⟨c, lane, x.addr.getD 0, none⟩

/-- The first pending stop that an observer sees. -/
def Crew.stopAt (k : Crew) (sees : Nat → Stop → Bool) : Option (Nat × Stop) := k.body.stops.find? fun e => sees e.1 e.2

/-- An observation point (R130): the first pending stop is observed and its trap raised; otherwise the instruction goes
on. Operations held for the observation issue again. -/
def observe (s : State) (p : Pod) (w : Wave) (k : Crew) (sees : Nat → Stop → Bool) (e : Eff) : Eff :=
  match k.stopAt sees with
  | some (ch, x) =>
    .trap ((s.modBody p.core w.crew fun b => { b with stops := b.stops.del ch }).wakeCore p.core .engine) (x.trap p.low)
  | none => e

/-- A completion is observed: the clean L1 granules of the operations' write footprints are dropped (R114). -/
def State.seeWrites (s : State) (core crew : Nat) (sees : Unseen → Bool) : State :=
  match s.crew? core crew with
  | none => s
  | some k =>
    ((k.unseen.filter sees).foldl (fun s u => s.dropCleanOne (s.l1Core core (u.pa / 128)) u.pa) s).modCrew core crew fun k =>
      { k with unseen := k.unseen.filter fun u => !sees u }

end Sys2Proof.Machine
end

