-- ==== Sys2Proof/Machine/Sync.lean ====
section
/-! DEFINITION. The synchronisation major 0x37 (R255 to R264): fences, bindings, masks, the crew barrier, changes of crew,
barrier objects, write pointers and remote write. -/

namespace Sys2Proof.Machine

/-! ### Fences -/

/-- A fence (R256): release side, then acquire side, on the default object. -/
def fence (s : State) (g : BitVec 4) (rel acq : Bool) : Res :=
  withPod s [] fun p w k =>
    let s := if rel then s.release p.core k.ctx (some 0) g.toNat else s
    let s := if acq then s.acquire p.core k.ctx (some 0) g.toNat else s
    let s := if rel && widerThanCrew g.toNat then s.escape p w else s
    .done ((s.clearIdem p).retire p)

/-- FENCE_ACQ (R256). -/
def execFenceAcq (g : BitVec 4) (s : State) : Res := fence s g false true

/-- FENCE_REL (R256). -/
def execFenceRel (g : BitVec 4) (s : State) : Res := fence s g true false

/-- FENCE_AR (R256). -/
def execFenceAr (g : BitVec 4) (s : State) : Res := fence s g true true

/-! ### Bindings -/

/-- What the walk of a range finds (R257): virtual address, entry address and entry of each leaf, or why it ends. -/
inductive BindWalk where
  | ok (l : List (Nat × Nat × Nat))
  | trap (t : Trap)
  /-- The pod waits at the instruction, in a state that says so. -/
  | wait

/-- Walk the leaves of the range from `va` to `fin` (R257 step 3, R258). A replayable fault holds the instruction (R43, R44). -/
def State.bindWalk (s : State) (p : Pod) (g : Agent) (va fin : Nat) : Nat → BindWalk × State
  | 0 => (.ok [], s)
  | n + 1 =>
    if va ≥ fin then (.ok [], s)
    else match s.walk g.ctx va (s.ctx g.ctx).groot with
      | (.fault c, s) => (.trap ⟨c, p.low, va, none⟩, s)
      | (.replay cond level, s) =>
        if s.missRoom g (va / 16384) .read then
          match s.attach g va (va / 16384) cond level .read with
          | (u, s) => (.wait, s.hold p (.replay u va))
        else (.wait, s.stalled p)
      | (.leaf pte a level, s) =>
        match s.leafCheck g.ctx va pte level false with
        | (some c, s) => (.trap ⟨c, p.low, va, none⟩, s)
        | (none, s) =>
          if va % levelSize level ≠ 0 ∨ va + levelSize level > fin then (.trap ⟨.align, p.low, va, none⟩, s)
          else match State.bindWalk s p g (va + levelSize level) fin n with
            | (.ok l, s) => (.ok ((va, a, pte) :: l), s)
            | r => r

/-- The index that names an object's word, 0 for the default object (R257). -/
def Ctx.bindIndex (c : Ctx) (obj : Nat) : Option Nat :=
  if obj = 0 then some 0
  else (c.bindings.find? fun e => e.2.getLsbD 0 && bvf e.2 4 54 == obj / 16).map fun e => e.1

/-- The lowest-numbered free entry, from 1 upwards (R257 step 2). -/
def Ctx.bindFree (c : Ctx) : Option Nat := (span 1 4095).find? fun i => !(c.bindings.getD i 0).getLsbD 0

/-- Write back and drop every L1 line of a context that is tagged with a binding index (R107). -/
def State.dropBound (s : State) (ctx bind : Nat) : State :=
  s.cores.foldl (fun s e => ((e.2.l1.filter fun l => l.2.ctx == ctx && l.2.bind == bind).map fun l => l.1).foldl
    (fun s l => (s.l1Back e.1 l).l1Drop e.1 l) s) s

/-- A page leaves one binding entry for another (R257). -/
def Ctx.recount (c : Ctx) (old idx : Nat) : Ctx :=
  if old = idx then c
  else { c with bindPages := (c.bindPages.put old (c.bindPages.getD old 0 - 1) 0).set idx (c.bindPages.getD idx 0 + 1) }

/-- Set the BIND of one leaf and complete the change (R257 steps 4 and 5, R107). `new` says that this `bind` made the entry
valid: a leaf that named it already was bound to the default object until now (R104), and its binding changes too. -/
def State.rebind (s : State) (ctx idx : Nat) (new : Bool) (x : Nat × Nat × Nat) : State :=
  let old := field x.2.2 63 52
  if old = idx ∧ !new then s
  else
    let pte := x.2.2 - old * 2 ^ 52 + idx * 2 ^ 52
    let s := s.dropBound ctx old
    let s := if old = idx then s else s.homePuts x.2.1 [coded (BitVec.ofNat 32 pte), coded (BitVec.ofNat 32 (pte / 2 ^ 32))]
    (s.tlbDropPage ctx (x.1 / 16384)).modCtx ctx fun c => c.recount old idx

/-- Entries whose count fell to 0 through this `bind` become invalid, but for the one it allocated (R257). -/
def State.unbind (s : State) (ctx idx : Nat) (olds : List Nat) : State :=
  s.modCtx ctx fun c => { c with bindings := c.bindings.filter fun e =>
    e.1 == idx || !(olds.contains e.1 && decide (c.bindPages.getD e.1 0 = 0)) }

/-- Bind a range that passed its checks (R257). An audit's replay crew walks its pages under its replay root, where a page
without a log copy raises PERM, and changes no table: s(d) takes the index that the entry has or would take (R369, R370,
log 84). -/
def State.bindRange (s : State) (p : Pod) (w : Wave) (k : Crew) (base count obj : Nat) (fin : State → Word → Eff) : Eff :=
  let c := s.ctx k.ctx
  let g := laneAgent p w k p.low
  if count = 0 then fin s (match c.bindIndex obj with | some i => w32 i | none => 0xFFFFFFFF)
  else match (match c.bindIndex obj with | some i => some i | none => c.bindFree) with
    | none => fin s 0xFFFFFFFF
    | some i =>
      if k.replay.isSome then
        match (span 0 count).find? fun j => decide ((s.xlatGlobal g (base + 16384 * j) .read).1 = .fault .perm) with
        | some j => .trap s ⟨.perm, p.low, base + 16384 * j, none⟩
        | none => fin s (w32 i)
      else
        match s.bindWalk p g base (base + 16384 * count) count with
        | (.trap t, s) => .trap s t
        | (.wait, s) => .done s
        | (.ok l, s) =>
          let new := (c.bindIndex obj).isNone
          let s := if new then s.modCtx k.ctx fun c => { c with bindings := c.bindings.set i (BitVec.ofNat 64 (obj + 1)) } else s
          let s := l.foldl (fun s x => s.rebind k.ctx i new x) s
          fin (s.unbind k.ctx i (l.map fun x => field x.2.2 63 52)) (w32 i)

/-- BIND (R257, R258). Once for the pod, as the lowest active lane's thread. -/
def execBind (b a d : BitVec 6) (s : State) : Res :=
  withPod s (.ofS d :: (Reg.ofS a).group 2 ++ (Reg.ofS b).group 2) fun p w k =>
    checked s (s.chkRegs p w (operands ((Reg.ofS a).group 2 ++ (Reg.ofS b).group 2 ++ [.ofS d])))
      (let base := (w.dword (.ofS a) 0).toNat
       let obj := (w.dword (.ofS b) 0).toNat
       let count := (w.word (.ofS d) 0).toNat
       if base % 16384 ≠ 0 then .trap s ⟨.align, p.low, base, none⟩
       else if obj % 16 ≠ 0 then .trap s ⟨.align, p.low, obj, none⟩
       else if count > 65536 then .trap s (.plain .perm p.low)
       else if base ≥ 2 ^ 57 ∨ base + 16384 * count > 2 ^ 57 then .trap s ⟨.perm, p.low, base, none⟩
       else if obj ≥ 2 ^ 57 then .trap s ⟨.perm, p.low, obj, none⟩
       else s.bindRange p w k base count obj fun s r =>
         .done (((s.writeReg p (.ofS d) fun _ => coded r).clearIdem p).retire p))

/-! ### Masks -/

/-- Threads arrive at a mask and block (R169): they are issued, and stand at the instruction until a cycle ends with their release
or their timeout. -/
def State.arrive (s : State) (p : Pod) (q : Nat) (h : Hold) : State :=
  let s := s.modWave p.core p.slot fun w =>
    ((w.holdLanes p.lanes h).setMask q { w.mask q with arrived := (w.mask q).arrived ||| laneSet p.lanes }).clearIdem
  s.retireWith p true fun _ => p.pc

/-- Some active lane is no member of the mask: CONV at the lowest (R169, R259). -/
def notMember (p : Pod) (w : Wave) (q : Nat) : Option Nat := p.lanes.find? fun l => !(w.mask q).member.getLsbD l

/-- JOIN (R169, R259). -/
def execJoin (a : BitVec 4) (s : State) : Res :=
  withPod s [] fun p w _ =>
    checked s (parityChk w p [parQ a.toNat])
      (match notMember p w a.toNat with
      | some l => .trap s (.plain .conv l)
      | none => .done (s.arrive p a.toNat (.join a.toNat)))

/-- LEAVE (R170). A leave by a non-member changes no mask. What it completes is released at the end of the cycle (R169). -/
def execLeave (a : BitVec 4) (s : State) : Res :=
  withPod s [] fun p w _ =>
    checked s (parityChk w p [parQ a.toNat])
      (.done (((s.modWave p.core p.slot fun w => w.leaveMask a.toNat p.lanes).clearIdem p).retire p))

/-- WAIT (R171, R259). A timeout of 0 is judged at the end of the arrival cycle. The checks of its operands come before the CONV of
a thread that is no member: R259 gives no order (DESIGN CHOICE, log 105). -/
def execWait (b : BitVec 6) (a : BitVec 4) (d : BitVec 3) (s : State) : Res :=
  withPod s [.ofS b] fun p w k =>
    checked s (s.chkSrcs p w k [.reg (.ofS b) 2, .mask a.toNat])
      (match notMember p w a.toNat with
      | some l => .trap s (.plain .conv l)
      | none =>
        let n := (w.word (.ofS b) 0).toNat
        .done (s.arrive p a.toNat (.wait a.toNat d.toNat (s.cycOf p.core + n))))

/-! ### The crew barrier -/

/-- Arrivals at the crew barrier (R260): the first pod of a phase gives the count. -/
def arriveBar (b : Option CrewBar) (count n : Nat) (pc : VAddr) (now : Nat) : CrewBar :=
  match b with
  | none => ⟨count, n, pc, 0, some now⟩
  | some b => { b with arrived := b.arrived + n }

/-- CBAR (R260). An observation point for every channel's early stop, before the pod is counted. The barrier is tested at the end
of the cycle. -/
def execCbar (a : BitVec 6) (s : State) : Res :=
  withPod s [.ofS a] fun p w k =>
    checked s (s.chkRegs p w (operands [.ofS a]))
      (let n := (w.word (.ofS a) 0).toNat
       if n > 1024 then .trap s (.plain .perm p.low)
       else observe s p w k (fun _ _ => true)
        (let s := s.modBody p.core w.crew fun b => { b with bar := some (arriveBar b.bar n p.lanes.length p.pc (s.cycOf p.core)) }
         let s := s.modWave p.core p.slot fun w => w.clearIdem.holdLanes p.lanes .cbar
         .done (s.retireWith p true fun _ => p.pc)))

/-! ### Changes of crew -/

/-- A touched crew's barrier interval ends, and its shadow is taken before its next issue (R175, R359). -/
def State.endInterval (s : State) (core crew : Nat) : State :=
  if ((s.core core).members crew).isEmpty then s else s.setPhase core crew .shadow

/-- Move the pod's threads into a crew at given homes (R175, R176, R261). The instruction has been issued. -/
def State.moveThreads (s : State) (p : Pod) (crew : Nat) (homes : List (Nat × Nat)) : State :=
  match s.wave? p.core p.slot with
  | none => s
  | some src =>
    let k := (s.crew? p.core crew).elim (0, 64) fun k => (k.ctx, k.body.quantum)
    let handler := (s.ctx k.1).handler
    let moves := p.lanes.zip homes
    let s := moves.foldl (fun s m =>
      s.modCore p.core fun c =>
        let w := (c.waves.find m.2.1).getD (Wave.fresh crew handler k.2 [])
        let w := if w.threads.isEmpty then { w with sel := p.after } else w
        { c with
          waves := c.waves.set m.2.1 (w.adopt src m.1 m.2.2 { src.thread m.1 with hold := .ready })
          origin := c.origin.map fun o =>
            if o.slot == p.slot && o.lane == m.1 && decide (o.reg < 0x80) then { o with slot := m.2.1, lane := m.2.2 } else o }) s
    let q := (s.crew? p.core src.crew).elim 64 fun k => k.body.quantum
    let s := (s.removeLanes p.core p.slot p.lanes q).modWave p.core p.slot Wave.clearIdem
    let s := s.renumber p.core crew (moves.map fun m => (src.thread m.1).id)
    ((s.endInterval p.core src.crew).endInterval p.core crew).wakeCore p.core .room

/-- Whether a crew that `cjoin` names may be joined (R175): live, of the caller's context, with enough registers. -/
def joinable (s : State) (core : Nat) (k : Crew) (i : Nat) : Option Crew :=
  match s.crew? core i with
  | none => none
  | some t =>
    if t.ctx = k.ctx ∧ t.decl.vregs ≥ k.decl.vregs ∧ t.decl.sregs ≥ k.decl.sregs ∧ t.phase ≠ .ended ∧
      !((s.core core).members i).isEmpty then some t else none

/-- CJOIN (R175, R176, R261). -/
def execCjoin (a : BitVec 6) (s : State) : Res :=
  withPod s [.ofS a] fun p w k =>
    checked s (s.chkRegs p w (operands [.ofS a]))
      (let x := (w.word (.ofS a) 0).toNat
       match joinable s p.core k x with
       | none => .trap s (.plain .perm p.low)
       | some t =>
        if x ≥ 16 then .trap s (.plain .perm p.low)
        else if x = w.crew then .done ((((s.clearIdem p).retire p).renumber p.core x []).endInterval p.core x)
        else if ((s.core p.core).members x).length + p.lanes.length > 1024 then .trap s (.plain .perm p.low)
        else
          let homes := (s.core p.core).homes x t.decl.vregs t.decl.sregs
          if homes.length < p.lanes.length ∨ t.phase ≠ .run then .held s .room
          else .done (((s.clearIdem p).retire p).moveThreads p x homes))

/-- The crew that `cleave` makes (R175): the old crew's allocation of registers and its address bases, nothing else. `save` says
that the core is being emptied, so that the new crew is to be saved too (R357, R397). -/
def Crew.cloven (k : Crew) (now : Nat) (save : Bool) : Crew :=
  { k with
    setn := 0
    audit := none
    decl := { k.decl with acc := 0, lines := 0, slabq := 0, waves := 1 }
    body := { CrewBody.fresh with ab := k.body.ab }
    spad := []
    base := 0
    interval := 0
    wp := [0, 0, 0, 0]
    escaped := false
    retry := false
    lastBad := none
    issued := 0
    ksteps := 0
    bars := 0
    elapsed := 0
    since := now
    bkstop := none
    shadow := none
    slot := none
    grant := none
    preempt := if save then some 1 else none
    refused := false
    unseen := [] }

/-- CLEAVE (R175, R176, R261). It reads AB0 to AB3 (R60). Which free crew-table entry the new crew takes is not fixed (R179): a free choice. -/
def execCleave (s : State) : Res :=
  withPod s [] fun p w k =>
    checked s (s.chkSrcs p w k [.cr 8, .cr 9, .cr 10, .cr 11]) <|
    let c := s.core p.core
    let frees := (span 0 16).filter fun i => (c.crews.find i).isNone
    if frees.isEmpty ∨ c.waveRoom k.decl.vregs k.decl.sregs = 0 then .held s .room
    else match s.freeWord with
      | (r, s) =>
        let i := frees.getD (r.toNat % frees.length) 0
        let slot := c.freeSlots.headD 0
        let s := s.modCore p.core fun c => { c with crews := c.crews.set i (k.cloven (s.cycOf p.core) (s.emptying p.core k.ctx)) }
        .done (((s.clearIdem p).retire p).moveThreads p i ((span 0 32).map fun l => (slot, l)))

/-! ### Barrier objects -/

/-- The four words of a barrier object (R126). -/
def Crew.object (k : Crew) (off : Nat) : List GUnit := (span 0 4).map fun i => k.spadGet (off + 4 * i)

/-- A failed check in a barrier object: SITE 0x0C (R262). -/
def State.objectChk (s : State) (core crew off lane : Nat) (us : List GUnit) : Option Chk :=
  us.zipIdx.findSome? fun x =>
    s.chkUnit 0x0C 0xFF lane x.1 ((s.core core).originOf crew (spadKey (off + 4 * x.2)) 0)

/-- Write the words of a barrier object, coded (R55, R262). -/
def State.objectPut (s : State) (core crew off : Nat) (ws : List Word) : State :=
  ws.zipIdx.foldl (fun s x => s.spadPut core crew (off + 4 * x.2) (coded x.1)) s

/-- The scratchpad region's base (R27). -/
def spadBase : Nat := 6 * 2 ^ 55

/-- A barrier-object instruction (R262): the offset in s(a), its checks, the early stops it observes, the object's checks;
then the effect on its words. -/
def onObject (s : State) (a : Reg) (regs : List Reg) (srcs : List Reg) (sees : Bool)
    (f : State → Pod → Wave → Crew → Nat → List Word → Eff) : Res :=
  withPod s (a :: regs) fun p w k =>
    checked s (s.chkRegs p w (operands (a :: srcs)))
      (let x := (w.word a 0).toNat
       let off := x % 2 ^ 18
       if off % 16 ≠ 0 then .trap s ⟨.align, p.low, spadBase + off, none⟩
       else if x ≥ 2 ^ 18 ∨ off ≥ k.decl.lines * 128 then .trap s ⟨.perm, p.low, spadBase + off, none⟩
       else observe s p w k (fun _ st => sees && st.bar == some off)
        (checked s (s.objectChk p.core w.crew off p.low (k.object off))
          (f s p w k off ((k.object off).map fun u => u.data))))

/-- Word 3 after `binit`: INIT 1, ERR 0, ECAUSE 0, the rest unchanged (R126, R262). -/
def initWord (w : Word) : Word := (w &&& 0xFFFF00F9#32) ||| 4#32

/-- BINIT (R262). -/
def execBinit (b a : BitVec 6) (s : State) : Res :=
  onObject s (.ofS a) [.ofS b] [.ofS b] false fun s p w _ off ws =>
    .done (((s.objectPut p.core w.crew off [w.word (.ofS b) 0, 0, 0, initWord (ws.getD 3 0)]).clearIdem p).retire p)

/-- The update of R127 for `n` bytes and a running CRC: ARRIVED rises, PHASE inverts at the completion. -/
def arriveWords (ws : List Word) (n : Word) (crc : Word) : List Word :=
  let e := ws.getD 0 0
  let old := ws.getD 1 0
  let new := old + n
  let w3 := ws.getD 3 0
  [e, new, crc, if old.ult e && e.ule new then w3 ^^^ 1#32 else w3]

/-- BARRIVE (R127, R262). -/
def execBarrive (b a : BitVec 6) (s : State) : Res :=
  onObject s (.ofS a) [.ofS b] [.ofS b] false fun s p w _ off ws =>
    .done (((s.objectPut p.core w.crew off (arriveWords ws (w.word (.ofS b) 0) (ws.getD 2 0))).clearIdem p).retire p)

/-- The counts of an object are complete (R126). -/
def completeWords (ws : List Word) : Bool := (ws.getD 0 0).ule (ws.getD 1 0)

/-- BWAIT (R262). Threads that block are issued, and stand at the instruction until the object is complete; the operands have
been read (R255). -/
def execBwait (a d : BitVec 6) (s : State) : Res :=
  onObject s (.ofS a) [.ofS d] [] true fun s p w _ off ws =>
    if completeWords ws then
      .done (((s.seeWrites p.core w.crew fun u => u.bar == some off).writeReg p (.ofS d) fun _ => coded (ws.getD 3 0)).retire p)
    else .done ((s.modWave p.core p.slot fun w => w.holdLanes p.lanes (.bwait off d.toNat)).retireWith p true fun _ => p.pc)

/-- A thread's `bwait` waits for the object at an offset: the destination. -/
def Thread.waitsFor (t : Thread) (off : Nat) : Option Nat :=
  match t.hold with
  | .bwait o d => if o = off then some d else none
  | _ => none

/-- The objects that a wave's threads wait for. -/
def Wave.waited (w : Wave) : List Nat :=
  (w.threads.filterMap fun e => match e.2.hold with
    | .bwait o _ => some o
    | _ => none).eraseDups

/-- Threads blocked in `bwait` on a complete object go on: sd := bits [127:96] (R262). -/
def Wave.releaseBwait (w : Wave) (off : Nat) (word : Word) : Wave :=
  let ds := (w.threads.filterMap fun e => e.2.waitsFor off).eraseDups
  let pcs := w.threads.filterMap fun e => if (e.2.waitsFor off).isSome then some (e.2.pc + 4#58) else none
  let w := ds.foldl (fun w d => w.set (.s d) 0 (coded word)) w
  { w with
    threads := w.threads.mapAll fun _ t => if (t.waitsFor off).isSome then { t with hold := .ready, pc := t.pc + 4#58 } else t
    sel := lowestPc pcs w.sel
    quant := 0 }

/-- A wave's threads that wait for an object, once its counts are complete: an early stop that counts into it raises its trap at
the `bwait` (R130, R265); a word that fails its check raises CHK; otherwise they are released, with an acquire at crew
scope (R262). The counts are looked at when the cycle ends: an object that a `binit` of the same cycle made incomplete again
releases nobody (DESIGN CHOICE, log 106). -/
def State.endBwait (s : State) (core slot off : Nat) : State :=
  match s.wave? core slot with
  | none => s
  | some w =>
    match s.crew? core w.crew with
    | none => s
    | some k =>
      let pc := (w.threads.findSome? fun e => (e.2.waitsFor off).map fun _ => e.2.pc).getD 0
      let lanes := w.threads.filterMap fun e => if (e.2.waitsFor off).isSome ∧ e.2.pc = pc then some e.1 else none
      let p : Pod := ⟨core, slot, lanes, pc, 0, 4, none⟩
      if k.phase ≠ .run ∨ (s.ctx k.ctx).stopping ∨ !k.objComplete off then s
      else
        match observe s p w k (fun _ st => st.bar == some off) (checked s (s.objectChk core w.crew off p.low (k.object off))
          (.done ((s.seeWrites core w.crew fun u => u.bar == some off).modCore core fun c =>
            let ds := (w.threads.filterMap fun e => e.2.waitsFor off).eraseDups
            { c with
              waves := c.waves.alter slot fun w => w.releaseBwait off (k.spadGet (off + 12)).data
              origin := c.origin.filter fun o => !(o.slot == slot && ds.any fun d => o.reg == 0x80 + d) }))) with
        | .trap s t => s.raise p w ((s.crew? core w.crew).getD k) t
        | .done s => s
        | .held s _ => s

/-- The end of a cycle releases the waiters of every complete object (R262, R265). -/
def State.endBwaits (s : State) : State :=
  s.cores.foldl (fun s c => c.2.waves.foldl (fun s w => w.2.waited.foldl (fun s off => s.endBwait c.1 w.1 off) s) s) s

/-- BREAD (R262). -/
def execBread (a d : BitVec 6) (s : State) : Res :=
  onObject s (.ofS a) ((Reg.ofS d).group 4) [] true fun s p w _ off ws =>
    let s := if completeWords ws then s.seeWrites p.core w.crew fun u => u.bar == some off else s
    .done (((span 0 4).foldl (fun s i => s.writeReg p ((Reg.ofS d).plus i) fun _ => coded (ws.getD i 0)) s).retire p)

/-! ### Write pointers and remote write -/

/-- RDWP (R80, R131, R263). -/
def execRdwp (b : BitVec 2) (d : BitVec 6) (s : State) : Res :=
  withPod s ((Reg.ofS d).group 2) fun p w k =>
    observe s p w k (fun ch _ => ch == b.toNat)
      (.done (((s.seeWrites p.core w.crew fun u => u.chan == b.toNat).writePair p (.ofS d) fun _ =>
        BitVec.ofNat 64 (k.wp.getD b.toNat 0)).retire p))

/-- RWR (R134, R135, R264). Held while a save of the set is pending (R352), which ends the wave's window (log 38). -/
def execRwr (b a : BitVec 6) (s : State) : Res :=
  withPod s [.ofS a, .ofV b] fun p w k =>
    checked s (s.chkRegs p w (operands [.ofS a]))
      (let x := (w.word (.ofS a) 0).toNat
       let core := clusterOf p.core * 4 + x % 4
       if x ≥ 2 ^ 14 ∨ x / 128 > 111 ∨ k.setn = 0 ∨ core = p.core ∨
          (s.setMember core k.ctx k.node k.setNo).isNone then .trap s (.plain .perm p.low)
       else if s.setSaving p.core k then .held (s.shutWindow p) .engine
       else
        let units := p.lanes.map fun l => (l, w.get (.ofV b) l)
        let s := s.modCore core fun c => { c with
          deposits := c.deposits ++ [⟨p.core, w.crew, k.ctx, k.node, k.setNo, x / 4 % 32, x / 128, units⟩] }
        .done (((s.escape p w).clearIdem p).retire p))

end Sys2Proof.Machine
end

