-- ==== Sys2Proof/Machine/MatMem.lean ====
section
/-! DEFINITION. Matrix loads and stores, major 0x38 (R275 to R280), and the shared form of matrix instructions (R272,
R273). -/

namespace Sys2Proof.Machine

/-! ### Shared form -/

/-- An accumulator of a crew (R194, R285). -/
def CrewBody.acc (b : CrewBody) (n : Nat) : Acc := b.accs.getD n ⟨[]⟩
/-- An element of an accumulator. -/
def Acc.at_ (a : Acc) (i j : Nat) : GUnit := a.el.getD (64 * i + j) .zero
/-- Replace an accumulator. -/
def State.setAcc (s : State) (core crew n : Nat) (a : Acc) : State :=
  s.modBody core crew fun b => { b with accs := b.accs.set n a }

/-- Origin keys of a crew's matrix registers and accumulators (R62). -/
def matSlot (crew : Nat) : Nat := 0x100 + crew

/-- The matrix engine of the core runs another multiply-accumulate, or one of the crew, issued earlier, is still to go on
(R272, R285). -/
def State.matBusy (s : State) (p : Pod) (crew : Nat) : Bool :=
  (s.core p.core).waves.any fun e => match e.2.mma with
    | some m => (e.1 != p.slot || m.pc != p.pc) && (m.runs || e.2.crew == crew)
    | none => false

/-- A matrix instruction (R272, R273): accumulators beyond ACC raise PERM (R191), q0 governs, then its sources are checked:
`crs` are the control registers that it reads first (an address base, MAXRANK, TOL), `regs` its uniform operands and `ms`
its matrix registers, whose descriptors it reads (R60). It waits while the engine runs another wave's
multiply-accumulate. -/
def matrix (s : State) (crs : Crew → List Nat) (regs : List (Reg × Nat)) (ms accs : List Nat) (f : Pod → Wave → Crew → Eff) : Res :=
  withRegs s (regs.map fun r => r.1) fun p w k =>
    if accs.any fun n => decide (n ≥ k.decl.acc) then .trap s (.plain .perm p.low)
    else if s.matBusy p w.crew then stall s p
    else governed s p w (checked s (s.chkSrcs p w k
      ((crs k).map .cr ++ regs.map (fun r => .reg r.1 r.2) ++ ms.map fun n => .cr (0x100 + n))) (f p w k))

/-- The first granule of a tile's elements, factors or scales that fails at the array (R273 step 8). -/
def State.tileChk (s : State) (core crew n : Nat) (t : TDesc) (img : List GUnit) : Option Chk :=
  (img.take (ceilDiv t.size 4)).zipIdx.findSome? fun x =>
    s.chkUnit 0x04 (0xC0 + n) 0 x.1 ((s.core core).originOf (matSlot crew) (0xC0 + n) x.2)

/-- The first element of an accumulator region that fails (R273 step 8). -/
def State.accChk (s : State) (core crew n : Nat) (a : Acc) (rows cols : Nat) : Option Chk :=
  (span 0 rows).findSome? fun i => (span 0 cols).findSome? fun j =>
    s.chkUnit 0x05 (0xE0 + n) 0 (a.at_ i j) ((s.core core).originOf (matSlot crew) (0xE0 + n) (64 * i + j))

/-- Origin entries of loaded granules of a matrix register or accumulator (R62). -/
def State.matOrigins (s : State) (core crew reg : Nat) (l : List (Nat × GUnit × Option Nat)) : State :=
  s.modCore core fun k => l.foldl (fun k x => k.originNote (matSlot crew) reg x.1 x.2.1 x.2.2) k

/-! ### Addresses -/

/-- VA₀ (R275). -/
def matBase (w : Wave) (k : Crew) (bs : Nat) (a : Reg) : Option Nat := addrSum (k.ab bs) (w.word a 0).toNat 0

/-- A row's address; none outside 0 to 2^58 − 1 (R276). -/
def rowVa (va0 : Nat) (pitch : Int) (i : Nat) : Option Nat :=
  let a : Int := (va0 : Int) + i * pitch
  if a < 0 ∨ a ≥ 2 ^ 58 then none else some a.toNat

/-- The rows of an access, for the lowest active lane. -/
def rowVas (p : Pod) (va0 : Nat) (pitch : Int) (n : Nat) : List (Nat × Option Nat) :=
  (span 0 n).map fun i => (p.low, rowVa va0 pitch i)

/-! ### Window tags -/

/-- The tag of the line behind a granule, as its home slice holds it (R93); none outside HBM. -/
def State.tagOf (s : State) (x : Xlat) : Option Nat × State :=
  match x with
  | .mem pa _ _ cz =>
    if pa < hbmSize then
      let s := s.l2Fill (pa / 128) (some cz)
      ((s.l2.find (pa / 128)).bind fun l => l.win, s)
    else (none, s)
  | _ => (none, s)

/-- The window that tags row 0's first byte, looked at ahead (R276): its number and registers, or no window; none where the
byte has no translation, so that the tag is not known. -/
def State.peekWindow (s : State) (p : Pod) (w : Wave) (k : Crew) (va0 : Nat) : Option (Option (Nat × Window)) :=
  match s.translate (laneAgent p w k p.low) va0 .read with
  | (.fault _, _) => none
  | (.replay _ _ _, _) => none
  | (x, s) =>
    match s.tagOf x, x with
    | (some n, s), .mem pa _ _ _ => some (some (n, (s.die (dieOfPa pa)).win.getD n .empty))
    | _, _ => some none

/-- The tags of every line read, in order. -/
def State.tagsOf (s : State) : List Slotted → List (Option Nat) × State
  | [] => ([], s)
  | x :: xs =>
    match s.tagOf x.at_ with
    | (t, s) =>
      match State.tagsOf s xs with
      | (l, s) => (t :: l, s)

/-- A window change is in progress on a die that the load reads (R276). -/
def State.changing (s : State) (l : List Slotted) : Bool :=
  l.any fun x => match x.at_ with
    | .mem pa _ _ _ => decide (pa < hbmSize) && (s.die (dieOfPa pa)).win.any fun e => e.2.next.isSome
    | _ => false

/-- The physical address of a place. -/
def paOf (x : Xlat) : Nat := match x with | .mem pa _ _ _ => pa | _ => 0

/-- The descriptor's format code for WINAn.FMT (R91, R266). -/
def Window.fmtCode (v : Window) : Nat := [3, 4, 5, 8].getD (bvf v.a 60 3) 3

/-- The window conditions of R276 on the rows' physical addresses. -/
def windowRows (v : Window) (cols : Nat) (pas : List Nat) : Bool :=
  (cols == 32 || cols == 64) && pas.all fun pa =>
    (pa - v.base * 2048) % v.perScale == 0 && v.scaleAddr pa % 4 == v.scaleAddr (pas.headD 0) % 4

/-- A row's scale area: the granule that holds its first scale byte and the next one, when it is needed (R276), each with the
physical address that it was read from (R62). -/
def State.scaleArea (s : State) (v : Window) (cols pa : Nat) : List (GUnit × Option Nat) × State :=
  let a := v.scaleAddr pa
  match s.homeGet (a / 4 * 4) none with
  | (u, s) =>
    if (cols = 32 ∧ a % 4 < 3) ∨ (cols = 64 ∧ a % 4 < 2) then ([(u, some (a / 4 * 4)), (.zero, none)], s)
    else match s.homeGet (a / 4 * 4 + 4) none with
      | (u', s) => ([(u, some (a / 4 * 4)), (u', some (a / 4 * 4 + 4))], s)

/-- Every row's scale area. -/
def State.scaleAreas (s : State) (v : Window) (cols : Nat) : List Nat → List (GUnit × Option Nat) × State
  | [] => ([], s)
  | pa :: pas =>
    match s.scaleArea v cols pa with
    | (us, s) =>
      match State.scaleAreas s v cols pas with
      | (us', s) => (us ++ us', s)

/-! ### Tile loads and stores -/

/-- MLD (R276), its faults in the order of R273. SLAB comes at step 5 where row 0's tag says that the load is plain; where it names
a window, the occupancy follows from the window, and SLAB comes after that window's conditions of step 7 (DEDUCED, log 23). -/
def execMld (pt : BitVec 6) (b : BitVec 2) (a : BitVec 4) (d : BitVec 5) (s : State) : Res :=
  matrix s (fun _ => [8 + b.toNat]) [(.ofS a, 3), (.ofS pt, 2)] [d.toNat] [] fun p w k =>
    match matBase w k b.toNat (.ofS a) with
    | none => .trap s ⟨.page, p.low, 0, none⟩
    | some va0 =>
      throttle s p w [(p.low, some va0)] fun s =>
      let t0 := k.body.tdesc d.toNat
      let seen := s.peekWindow p w k va0
      let win := seen.getD none
      let t : TDesc := match win with
        | some (n, v) => { t0 with dense := true, rank := 1, fmt := v.fmtCode, sc := true, win := n, soff := 0 }
        | none => { t0 with dense := true, rank := 1, sc := false, win := 0, soff := 0 }
      let pitch := (w.word (.ofS pt) 0).toInt
      let rowBytes := t.cols * t.format.width / 8
      if (t.cols * t.format.width) % 32 ≠ 0 ∨ !t0.dense then .trap s (.plain .align p.low)
      else if seen == some none && !k.fits d.toNat t then .trap s (.plain .slab p.low)
      else if va0 % 4 ≠ 0 ∨ pitch % 4 ≠ 0 then .trap s ⟨.align, p.low, va0, none⟩
      else
        withPlaces (s.gather p w k .read 4 (rowBytes / 4) (rowVas p va0 pitch t.rows)) fun s places =>
          match s.tagsOf places with
          | (tags, s) =>
            if !tags.all fun x => x == win.map fun e => e.1 then
              (if s.changing places then stall s p else .trap s ⟨.align, p.low, va0, none⟩)
            else
              let pas := (firstOf (rowBytes / 4) places).map fun x => paOf x.at_
              match win with
              | none =>
                match s.loadAll p w k false places with
                | (got, s) =>
                  let s := s.setTile p.core w.crew d.toNat t (got.map fun x => x.2.1)
                  .done ((s.matOrigins p.core w.crew (0xC0 + d.toNat) (got.zipIdx.map fun x => (x.2, x.1.2))).retire p)
              | some (_, v) =>
                let t := { t with soff := v.scaleAddr (pas.headD 0) % 4 }
                if !windowRows v t.cols pas then .trap s ⟨.align, p.low, va0, none⟩
                else if !k.fits d.toNat t then .trap s (.plain .slab p.low)
                else
                  match s.loadAll p w k false places with
                  | (got, s) =>
                    match s.scaleAreas v t.cols pas with
                    | (areas, s) =>
                      let units := got.map (fun x => x.2) ++ areas
                      let s := s.setTile p.core w.crew d.toNat t (units.map fun x => x.1)
                      .done ((s.matOrigins p.core w.crew (0xC0 + d.toNat) (units.zipIdx.map fun x => (x.2, x.1))).retire p)

/-- MST (R277). -/
def execMst (pt : BitVec 6) (i : BitVec 1) (b : BitVec 2) (a : BitVec 4) (d : BitVec 5) (s : State) : Res :=
  matrix s (fun _ => [8 + b.toNat]) [(.ofS a, 3), (.ofS pt, 2)] [d.toNat] [] fun p w k =>
    match matBase w k b.toNat (.ofS a) with
    | none => .trap s ⟨.page, p.low, 0, none⟩
    | some va0 =>
      throttle s p w [(p.low, some va0)] fun s =>
      let t := k.body.tdesc d.toNat
      let pitch := (w.word (.ofS pt) 0).toInt
      let rowBytes := t.cols * t.format.width / 8
      if (t.cols * t.format.width) % 32 ≠ 0 ∨ !t.dense then .trap s (.plain .align p.low)
      else if va0 % 4 ≠ 0 ∨ pitch % 4 ≠ 0 then .trap s ⟨.align, p.low, va0, none⟩
      else
        withPlaces (s.gather p w k .write 4 (rowBytes / 4) (rowVas p va0 pitch t.rows)) fun s places =>
          let img := (k.body.mreg d.toNat).img
          let s := s.storeAll p w k false (places.zipIdx.map fun x => (x.1, img.getD x.2 .zero))
          .done ((if i = 1#1 then s.clearIdem p else s).retire p)

/-- MLDF (R278), its faults in the order of R273. -/
def execMldf (b : BitVec 2) (a : BitVec 4) (d : BitVec 5) (s : State) : Res :=
  matrix s (fun _ => [8 + b.toNat, 0x021]) [(.ofS a, 3)] [d.toNat] [] fun p w k =>
    match matBase w k b.toNat (.ofS a) with
    | none => .trap s ⟨.page, p.low, 0, none⟩
    | some va0 =>
      throttle s p w [(p.low, some va0)] fun s =>
      let t0 := k.body.tdesc d.toNat
      let t := { t0 with sc := false, win := 0, soff := 0 }
      if t.dense then .trap s (.plain .align p.low)
      else if t.rank > k.body.maxrank then .trap s (.plain .rank p.low)
      else if !k.fits d.toNat t then .trap s (.plain .slab p.low)
      else if va0 % 4 ≠ 0 then .trap s ⟨.align, p.low, va0, none⟩
      else
        withPlaces (s.gather p w k .read 4 (t.size / 4) (if t.rank = 0 then [] else [(p.low, some va0)])) fun s places =>
          match s.loadAll p w k false places with
          | (got, s) =>
            let s := s.setTile p.core w.crew d.toNat t (got.map fun x => x.2.1)
            .done ((s.matOrigins p.core w.crew (0xC0 + d.toNat) (got.zipIdx.map fun x => (x.2, x.1.2))).retire p)

/-- MSTF (R278). -/
def execMstf (i : BitVec 1) (b : BitVec 2) (a : BitVec 4) (d : BitVec 5) (s : State) : Res :=
  matrix s (fun _ => [8 + b.toNat]) [(.ofS a, 3)] [d.toNat] [] fun p w k =>
    match matBase w k b.toNat (.ofS a) with
    | none => .trap s ⟨.page, p.low, 0, none⟩
    | some va0 =>
      throttle s p w [(p.low, some va0)] fun s =>
      let t := k.body.tdesc d.toNat
      if t.dense then .trap s (.plain .align p.low)
      else if va0 % 4 ≠ 0 then .trap s ⟨.align, p.low, va0, none⟩
      else
        withPlaces (s.gather p w k .write 4 (t.size / 4) (if t.rank = 0 then [] else [(p.low, some va0)])) fun s places =>
          let img := (k.body.mreg d.toNat).img
          let s := s.storeAll p w k false (places.zipIdx.map fun x => (x.1, img.getD x.2 .zero))
          .done ((if i = 1#1 then s.clearIdem p else s).retire p)

/-! ### Accumulator loads and stores -/

/-- The region word of R279: rows, columns and pitch. -/
def region (x : Word) : Nat × Nat × Nat := (bvf x 20 6 + 1, bvf x 26 6 + 1, bvf x 0 20)

/-- The accumulator elements of a region, in row order. -/
def regionKeys (rows cols : Nat) : List Nat := (span 0 rows).flatMap fun i => (span 0 cols).map fun j => 64 * i + j

/-- ALD (R279). The checkpoint is replaced with the result. -/
def execAld (pt : BitVec 6) (b : BitVec 2) (a : BitVec 4) (d : BitVec 3) (s : State) : Res :=
  matrix s (fun _ => [8 + b.toNat]) [(.ofS a, 3), (.ofS pt, 2)] [] [d.toNat] fun p w k =>
    match matBase w k b.toNat (.ofS a) with
    | none => .trap s ⟨.page, p.low, 0, none⟩
    | some va0 =>
      throttle s p w [(p.low, some va0)] fun s =>
      match region (w.word (.ofS pt) 0) with
      | (rows, cols, pitch) =>
        if va0 % 4 ≠ 0 ∨ pitch % 4 ≠ 0 then .trap s ⟨.align, p.low, va0, none⟩
        else
          withPlaces (s.gather p w k .read 4 cols (rowVas p va0 pitch rows)) fun s places =>
            match s.loadAll p w k false places with
            | (got, s) =>
              let keyed := (regionKeys rows cols).zip got
              let el := keyed.foldl (fun (m : Map GUnit) x => m.put x.1 x.2.2.1 .zero) (k.body.acc d.toNat).el
              let s := s.setAcc p.core w.crew d.toNat ⟨el⟩
              .done ((s.matOrigins p.core w.crew (0xE0 + d.toNat) (keyed.map fun x => (x.1, x.2.2))).retire p)

/-- AST (R279). -/
def execAst (pt : BitVec 6) (i : BitVec 1) (b : BitVec 2) (a : BitVec 4) (d : BitVec 3) (s : State) : Res :=
  matrix s (fun _ => [8 + b.toNat]) [(.ofS a, 3), (.ofS pt, 2)] [] [d.toNat] fun p w k =>
    match matBase w k b.toNat (.ofS a) with
    | none => .trap s ⟨.page, p.low, 0, none⟩
    | some va0 =>
      throttle s p w [(p.low, some va0)] fun s =>
      match region (w.word (.ofS pt) 0) with
      | (rows, cols, pitch) =>
        if va0 % 4 ≠ 0 ∨ pitch % 4 ≠ 0 then .trap s ⟨.align, p.low, va0, none⟩
        else
          withPlaces (s.gather p w k .write 4 cols (rowVas p va0 pitch rows)) fun s places =>
            let acc := (k.body.acc d.toNat).el
            let s := s.storeAll p w k false (places.zip ((regionKeys rows cols).map fun x => acc.getD x .zero))
            .done ((if i = 1#1 then s.clearIdem p else s).retire p)

end Sys2Proof.Machine
end

