-- ==== Sys2Proof/Machine/MatArith.lean ====
section
/-! DEFINITION. Matrix arithmetic and moves, major 0x39 (R281 to R292). Faults follow the order of R273: ALIGN, RANK, SLAB,
CHK; for `mrecomp` and `mfact` SLAB comes last. Every operand tile is checked whole, a zero tile's partner too. -/

namespace Sys2Proof.Machine

/-! ### Multiply-accumulate -/

/-- One k-step on a region of an accumulator (R283): group s of every element. -/
def mmaStep (L R : Grid) (n g s : Nat) (el : Map GUnit) : Map GUnit :=
  let cols := (transposed n (0, 0) R.rows).map fun c => (c.drop (g * s)).take g
  L.rows.zipIdx.foldl (fun (el : Map GUnit) r =>
    let xs := (r.1.drop (g * s)).take g
    cols.zipIdx.foldl (fun (el : Map GUnit) c =>
      let i := 64 * r.2 + c.2
      let ps := xs.zipWith (fun x y => (x.1, y.1, x.2 + y.2)) c.1
      el.put i (coded (kstep (el.getD i .zero).data L.fmt R.fmt ps)) .zero) el) el

/-- The k-steps from s on, n of them. -/
def mmaSteps (L R : Grid) (cols g : Nat) (s : Nat) : Nat → Map GUnit → Map GUnit
  | 0, el => el
  | n + 1, el => mmaSteps L R cols g (s + 1) n (mmaStep L R cols g s el)

/-- Whether a tile is f16 or bf16 without scales (R284, R287). -/
def TDesc.plainHalf (t : TDesc) : Bool := t.format.half && !t.sc

/-- Shapes and formats that `mma` accepts (R282 to R284): the group size and the number of k-steps. -/
def mmaForm (ta tb : TDesc) : Option (Nat × Nat) :=
  if ta.cols ≠ tb.rows then none
  else if ta.dense ∧ tb.dense then (pairGroup ta.format tb.format).map fun g => (g, ceilDiv ta.cols g)
  else if ta.dense then (if ta.plainHalf then some (16, ceilDiv tb.rank 16) else none)
  else if tb.dense then (if tb.plainHalf then some (16, ceilDiv ta.rank 16) else none)
  else none

/-- The two grids whose product is accumulated (R283, R284): phase 1 of a factored operand is formed here. -/
def mmaGrids (ta tb : TDesc) (ia ib : List GUnit) : Grid × Grid :=
  if ta.dense ∧ tb.dense then (denseGrid ta ia, denseGrid tb ib)
  else if ta.dense then (grid32 (mulGrid (denseGrid ta ia) (gridU tb ib) tb.rank 16), gridV tb ib)
  else (gridU ta ia, grid32 (mulGrid (gridV ta ia) (denseGrid tb ib) tb.cols 16))

/-- Set a region of an accumulator to +0 (R283). -/
def zeroRegion (rows cols : Nat) (el : Map GUnit) : Map GUnit :=
  el.filter fun e => !(decide (e.1 / 64 < rows) && decide (e.1 % 64 < cols))

/-- Replace an accumulator and its checkpoint; origin entries of the rewritten region are freed (R62, R285). -/
def State.putAcc (s : State) (core crew n rows cols : Nat) (el : Map GUnit) : State :=
  (s.setAcc core crew n ⟨el⟩).modCore core fun k => { k with
    origin := k.origin.filter fun o => !(o.slot == matSlot crew && o.reg == 0xE0 + n &&
      decide (o.lane / 64 < rows) && decide (o.lane % 64 < cols)) }

/-- `mma` and `mmaz` (R283 to R285). The k-steps done so far stand in the wave; a capture bounds how many more run, and
an instruction that has not run them all stays where it is. Its pod has issued then (R386); when it goes on, it is not counted
again (DESIGN CHOICE, log 104). A zero tile leaves the accumulator as it is (R156). -/
def multiply (s : State) (b a : BitVec 5) (d : BitVec 3) (zero : Bool) : Res :=
  matrix s (fun _ => []) [] [a.toNat, b.toNat] [d.toNat] fun p w k =>
    let ta := k.body.tdesc a.toNat
    let tb := k.body.tdesc b.toNat
    let ia := (k.body.mreg a.toNat).img
    let ib := (k.body.mreg b.toNat).img
    match mmaForm ta tb with
    | none => .trap s (.plain .align p.low)
    | some (g, ns) =>
      let acc := k.body.acc d.toNat
      let going := w.mma.isSome
      checked s (orChk (orChk (s.tileChk p.core w.crew a.toNat ta ia) (s.tileChk p.core w.crew b.toNat tb ib))
          (if zero && !going then none else s.accChk p.core w.crew d.toNat acc ta.rows tb.cols))
        (let el := if zero && !going then zeroRegion ta.rows tb.cols acc.el else acc.el
         let k0 := (w.mma.map fun m => m.steps).getD 0
         let n := match p.klim with
           | none => ns - k0
           | some l => min l (ns - k0)
         let el :=
           if ta.rank = 0 ∨ tb.rank = 0 then el
           else match mmaGrids ta tb ia ib with
             | (L, R) => mmaSteps L R tb.cols g k0 n el
         let s := s.putAcc p.core w.crew d.toNat ta.rows tb.cols el
         let s := s.modCrew p.core w.crew fun k => { k with ksteps := (k.ksteps + n) % 2 ^ 32 }
         let t := if going then s else s.retireWith p true fun _ => p.pc
         .done (if k0 + n < ns then t.modWave p.core p.slot fun w => { w with mma := some ⟨k0 + n, p.pc, true⟩ }
           else if going then (t.modWave p.core p.slot fun w => { w with mma := none }).goOn p
           else s.retire p))

/-- MMA (R283, R284). -/
def execMma (b a : BitVec 5) (d : BitVec 3) (s : State) : Res := multiply s b a d false

/-- MMAZ (R283, R284). -/
def execMmaz (b a : BitVec 5) (d : BitVec 3) (s : State) : Res := multiply s b a d true

/-- MDRAIN (R286). -/
def execMdrain (a : BitVec 3) (d : BitVec 5) (s : State) : Res :=
  matrix s (fun _ => []) [] [d.toNat] [a.toNat] fun p w k =>
    let t : TDesc := { k.body.tdesc d.toNat with dense := true, rank := 1, sc := false, win := 0, soff := 0 }
    let acc := k.body.acc a.toNat
    if !k.fits d.toNat t then .trap s (.plain .slab p.low)
    else checked s (s.accChk p.core w.crew a.toNat acc t.rows t.cols)
      (let codes := (regionKeys t.rows t.cols).map fun i => convert .f32 t.format 0 (acc.el.getD i .zero).data.toNat
       .done ((s.setTile p.core w.crew d.toNat t (packUnits t.format.width codes)).retire p))

/-- ACLR (R286). -/
def execAclr (d : BitVec 3) (s : State) : Res :=
  matrix s (fun _ => []) [] [] [d.toNat] fun p w _ => .done ((s.putAcc p.core w.crew d.toNat 64 64 []).retire p)

/-! ### Products and sums of tiles -/

/-- The tile's descriptor and packed image that an instruction would write. -/
abbrev TileOut := TDesc × List GUnit

/-- A result tile of md's format: shape, kind and rank (R281). -/
def TDesc.result (d : TDesc) (rows cols : Nat) (dense : Bool) (rank : Nat) : TDesc :=
  { d with rows := rows, cols := cols, dense := dense, rank := rank, sc := false, win := 0, soff := 0 }

/-- A tile instruction (R273): ALIGN when the form is not accepted; otherwise the result's descriptor decides RANK and
SLAB, the sources are checked at the array, and the tile is written. A factored result reads MAXRANK, and so does a form that
`reads` names (R60, R270). -/
def tileOp (s : State) (srcs : List Nat) (d : Nat) (form : Crew → Option TDesc) (image : Crew → TDesc → List GUnit)
    (reads : Crew → Bool := fun _ => false) : Res :=
  matrix s (fun k => if reads k || ((form k).any fun t => !t.dense) then [0x021] else []) [] (srcs ++ [d]) [] fun p w k =>
    match form k with
    | none => .trap s (.plain .align p.low)
    | some t =>
      if !t.dense ∧ t.rank > k.body.maxrank then .trap s (.plain .rank p.low)
      else if !k.fits d t then .trap s (.plain .slab p.low)
      else
        checked s (srcs.findSome? fun n => s.tileChk p.core w.crew n (k.body.tdesc n) (k.body.mreg n).img)
          (.done ((s.setTile p.core w.crew d t (if t.rank = 0 then [] else image k t)).retire p))

/-- The form of `mmul` (R287). -/
def mmulForm (a b d : TDesc) : Option TDesc :=
  if a.cols ≠ b.rows then none
  else if a.dense ∧ b.dense then
    (pairGroup a.format b.format).map fun _ => d.result a.rows b.cols true (if a.rank = 0 ∨ b.rank = 0 then 0 else 1)
  else if a.plainHalf && b.plainHalf && d.format.half then
    some (d.result a.rows b.cols false (if a.rank = 0 ∨ b.rank = 0 then 0 else if a.dense then b.rank
      else if b.dense then a.rank else min a.rank b.rank))
  else none

/-- U then V, packed in a 16-bit format. -/
def packFactors (U V : List (List Nat)) : List GUnit := packRows 16 (U ++ V)

/-- The image of `mmul` (R287), both operands of rank at least 1. -/
def mmulImage (a b t : TDesc) (ia ib : List GUnit) : List GUnit :=
  let F := t.format
  if a.dense ∧ b.dense then
    packRows F.width (toFmt F (mulGrid (denseGrid a ia) (denseGrid b ib) b.cols ((pairGroup a.format b.format).getD 16)))
  else if a.dense then
    packFactors (toFmt F (mulGrid (denseGrid a ia) (gridU b ib) b.rank 16)) (recode (gridV b ib) F)
  else if b.dense then
    packFactors (recode (gridU a ia) F) (toFmt F (mulGrid (gridV a ia) (denseGrid b ib) b.cols 16))
  else
    let X := grid32 (mulGrid (gridV a ia) (gridU b ib) b.rank 16)
    if a.rank > b.rank then packFactors (toFmt F (mulGrid (gridU a ia) X b.rank 16)) (recode (gridV b ib) F)
    else packFactors (recode (gridU a ia) F) (toFmt F (mulGrid X (gridV b ib) b.cols 16))

/-- MMUL (R287). -/
def execMmul (b a d : BitVec 5) (s : State) : Res :=
  tileOp s [a.toNat, b.toNat] d.toNat
    (fun k => mmulForm (k.body.tdesc a.toNat) (k.body.tdesc b.toNat) (k.body.tdesc d.toNat))
    fun k t => mmulImage (k.body.tdesc a.toNat) (k.body.tdesc b.toNat) t (k.body.mreg a.toNat).img (k.body.mreg b.toNat).img

/-- The form of `madd` (R288); with `dn`, a factored sum over MAX becomes a dense tile. -/
def maddForm (dn : Bool) (maxrank : Nat) (a b d : TDesc) : Option TDesc :=
  if a.rows ≠ b.rows ∨ a.cols ≠ b.cols then none
  else if a.dense ∨ b.dense ∨ (dn ∧ a.rank + b.rank > maxrank) then some (d.result a.rows a.cols true 1)
  else if d.format.half then some (d.result a.rows a.cols false (a.rank + b.rank))
  else none

/-- Columns of the first grid, then of the second. -/
def sideBySide (X Y : List (List α)) : List (List α) := X.zipWith (· ++ ·) Y

/-- A factored tile's dense element by the group rule over its rank, from a starting value (R288, R289). -/
def addFactored (start : List (List Word)) (U V : Grid) (n : Nat) : List (List Word) :=
  let cols := transposed n (0, 0) V.rows
  (start.zip U.rows).map fun x => (x.1.zip cols).map fun y => groupRule y.1 U.fmt V.fmt 16 x.2 y.2

/-- +0 everywhere. -/
def zeros32 (rows cols : Nat) : List (List Word) := List.replicate rows (List.replicate cols 0)

/-- A 16-bit grid in FP32 codes, exactly. -/
def Grid.widen (G : Grid) : List (List Elem) := G.rows.map fun r => r.map fun x => (convert G.fmt .f32 0 x.1, 0)

/-- The image of `madd` (R288). Two dense tiles are added as exact scaled values and the sum is converted under R150, without the
saturation that R142 gives a scaled element: the model's choice between the two rules (DESIGN CHOICE, log 100). -/
def maddImage (a b t : TDesc) (ia ib : List GUnit) : List GUnit :=
  let F := t.format
  let mixed (x y : TDesc) (ix iy : List GUnit) : List GUnit :=
    let G := denseGrid x ix
    let start := G.rows.map fun r => r.map fun e => elem32 G.fmt e
    packRows F.width (toFmt F (addFactored start (gridU y iy) (gridV y iy) t.cols))
  if a.dense ∧ b.dense then
    let A := denseGrid a ia
    let B := denseGrid b ib
    packRows F.width (A.rows.zipWith (fun r q => r.zipWith (fun x y =>
      F.encode 0 false (((A.fmt.decode x.1).scale x.2).add ((B.fmt.decode y.1).scale y.2))) q) B.rows)
  else if a.dense then mixed a b ia ib
  else if b.dense then mixed b a ib ia
  else if t.dense then
    let U : Grid := ⟨.f32, sideBySide (gridU a ia).widen (gridU b ib).widen⟩
    let V : Grid := ⟨.f32, (gridV a ia).widen ++ (gridV b ib).widen⟩
    packRows F.width (toFmt F (addFactored (zeros32 t.rows t.cols) U V t.cols))
  else
    packFactors (sideBySide (recode (gridU a ia) F) (recode (gridU b ib) F)) (recode (gridV a ia) F ++ recode (gridV b ib) F)

/-- `madd` with and without `.dn` (R288). -/
def addTiles (s : State) (b a d : BitVec 5) (dn : Bool) : Res :=
  tileOp s [a.toNat, b.toNat] d.toNat
    (fun k => maddForm dn k.body.maxrank (k.body.tdesc a.toNat) (k.body.tdesc b.toNat) (k.body.tdesc d.toNat))
    (fun k t => maddImage (k.body.tdesc a.toNat) (k.body.tdesc b.toNat) t (k.body.mreg a.toNat).img (k.body.mreg b.toNat).img)
    fun k => dn && !(k.body.tdesc a.toNat).dense && !(k.body.tdesc b.toNat).dense

/-- MADD (R288). -/
def execMadd (b a d : BitVec 5) (s : State) : Res := addTiles s b a d false

/-- MADD_DN (R288). -/
def execMaddDn (b a d : BitVec 5) (s : State) : Res := addTiles s b a d true

/-! ### Recompression and factorisation -/

/-- A factored result of R291 or of R290's NaN rule: its descriptor and image. -/
def factoredOut (d : TDesc) (rows cols : Nat) (U V : List (List Word)) : TileOut :=
  let t := d.result rows cols false V.length
  (t, packFactors (toFmt t.format (transposed rows 0 U)) (toFmt t.format V))

/-- Rank 1 with every element the default NaN (R290). -/
def nanOut (d : TDesc) (rows cols : Nat) : TileOut :=
  factoredOut d rows cols [List.replicate rows 0x7FC00000#32] [List.replicate cols 0x7FC00000#32]

/-- A decoded element is a NaN or an infinity. -/
def Grid.special (G : Grid) : Bool :=
  G.rows.any fun r => r.any fun x => match (G.fmt.decode x.1).cls with
    | .nan | .inf => true
    | _ => false

/-- `mrecomp` and `mfact` (R290): ALIGN, then CHK, then the result and SLAB. -/
def refactor (s : State) (a d : BitVec 5) (dense : Bool) (out : CrewBody → TDesc → TDesc → List GUnit → TileOut) : Res :=
  matrix s (fun _ => [0x020, 0x021]) [] [a.toNat, d.toNat] [] fun p w k =>
    let ta := k.body.tdesc a.toNat
    let td := k.body.tdesc d.toNat
    let ia := (k.body.mreg a.toNat).img
    if ta.dense ≠ dense ∨ !td.format.half then .trap s (.plain .align p.low)
    else checked s (s.tileChk p.core w.crew a.toNat ta ia)
      (let o := if ta.rank = 0 then (td.result ta.rows ta.cols false 0, []) else out k.body td ta ia
       if !k.fits d.toNat o.1 then .trap s (.plain .slab p.low)
       else .done ((s.setTile p.core w.crew d.toNat o.1 o.2).retire p))

/-- R291 with TOL and MAXRANK as read at collection (R290). -/
def recompressed (b : CrewBody) (td ta : TDesc) (U Vt : List (List Word)) : TileOut :=
  match recompress U Vt (b.tol.getLsbD 32) (b.tol.setWidth 32) b.maxrank with
  | (u, v) => factoredOut td ta.rows ta.cols u v

/-- A grid's values in FP32. -/
def Grid.words (G : Grid) : List (List Word) := G.rows.map fun r => r.map fun x => elem32 G.fmt x

/-- MRECOMP (R290, R291). -/
def execMrecomp (a d : BitVec 5) (s : State) : Res :=
  refactor s a d false fun b td ta ia =>
    let U := gridU ta ia
    let V := gridV ta ia
    if U.special || V.special then nanOut td ta.rows ta.cols
    else recompressed b td ta (transposed ta.rank 0 U.words) V.words

/-- MFACT (R290, R291). -/
def execMfact (a d : BitVec 5) (s : State) : Res :=
  refactor s a d true fun b td ta ia =>
    let A := denseGrid ta ia
    if A.special then nanOut td ta.rows ta.cols
    else recompressed b td ta (transposed ta.cols 0 A.words)
      ((span 0 ta.cols).map fun j => (span 0 ta.cols).map fun i => if i = j then fone else 0)

/-! ### Dense value and moves -/

/-- `mmov` (R292): image and descriptor, verbatim; the copy checks nothing (R55, R61). RANK as R270 states. -/
def moveTile (s : State) (a d : BitVec 5) : Res :=
  matrix s (fun k => if (k.body.tdesc a.toNat).dense then [] else [0x021]) [] [a.toNat, d.toNat] [] fun p w k =>
    let t := k.body.tdesc a.toNat
    if !t.dense ∧ t.rank > k.body.maxrank then .trap s (.plain .rank p.low)
    else if !k.fits d.toNat t then .trap s (.plain .slab p.low)
    else .done ((s.setTile p.core w.crew d.toNat t (k.body.mreg a.toNat).img).retire p)

/-- A of the issuing crew is dense. -/
def State.denseTile (s : State) (n : Nat) : Bool :=
  match s.pod with
  | none => false
  | some p =>
    match (s.wave? p.core p.slot).bind fun w => s.crew? p.core w.crew with
    | none => false
    | some k => (k.body.tdesc n).dense

/-- MDENS (R289). -/
def execMdens (a d : BitVec 5) (s : State) : Res :=
  if s.denseTile a.toNat then moveTile s a d
  else
    tileOp s [a.toNat] d.toNat
      (fun k =>
        let t := k.body.tdesc a.toNat
        some ((k.body.tdesc d.toNat).result t.rows t.cols true (min 1 t.rank)))
      fun k t =>
        let ta := k.body.tdesc a.toNat
        let ia := (k.body.mreg a.toNat).img
        packRows t.format.width (toFmt t.format (addFactored (zeros32 t.rows t.cols) (gridU ta ia) (gridV ta ia) t.cols))

/-- MMOV (R292). -/
def execMmov (a d : BitVec 5) (s : State) : Res := moveTile s a d

/-- MTR (R292). The codes are checked, since the elements are packed anew. -/
def execMtr (a d : BitVec 5) (s : State) : Res :=
  tileOp s [a.toNat] d.toNat
    (fun k =>
      let t := k.body.tdesc a.toNat
      if t.dense ∧ t.sc then none else some (t.result t.cols t.rows t.dense t.rank))
    fun k t =>
      let ta := k.body.tdesc a.toNat
      let ia := (k.body.mreg a.toNat).img
      let codes (G : Grid) : List (List Nat) := G.rows.map fun r => r.map fun x => x.1
      if t.dense then packRows t.format.width (transposed ta.cols 0 (codes (denseGrid ta ia)))
      else packFactors (transposed ta.cols 0 (codes (gridV ta ia))) (transposed ta.rank 0 (codes (gridU ta ia)))

/-- MZERO (R292). -/
def execMzero (d : BitVec 5) (s : State) : Res :=
  matrix s (fun _ => []) [] [d.toNat] [] fun p w k =>
    .done ((s.setTile p.core w.crew d.toNat { k.body.tdesc d.toNat with rank := 0, sc := false, win := 0, soff := 0 } []).retire p)

end Sys2Proof.Machine
end

