-- ==== Sys2Proof/Machine/Async.lean ====
section
/-! DEFINITION. Layout records (R295 to R298), footprints and edges (R123 to R125), and the issue of asynchronous
operations, major 0x3A (R299 to R305). -/

namespace Sys2Proof.Machine

/-! ### Layout records -/

/-- The element format (R295). -/
def LRec.format (r : LRec) : Fmt := (Fmt.ofCode r.fmt).getD .f32
/-- The element width in bits (R295). -/
def LRec.width (r : LRec) : Nat := r.format.width
/-- The element count (R296). -/
def LRec.count (r : LRec) : Nat := r.sizes.foldl (· * ·) 1

/-- Σ ik × STRIDEk for element t over some dimensions (R297). -/
def dimOffset : List Nat → List Int → Nat → Int
  | n :: ns, st :: sts, t => (t % n : Nat) * st + dimOffset ns sts (t / n)
  | _, _, _ => 0

/-- The bit address of element t (R297): the formula counts every stride in elements. -/
def LRec.bitOf (r : LRec) (t : Nat) : Int := 8 * (r.base : Int) + r.boff + r.width * dimOffset r.sizes r.strides t

/-- The least and the greatest of Σ ik × STRIDEk. -/
def dimRange : List Nat → List Int → Int × Int
  | n :: ns, st :: sts =>
    let e : Int := ((n : Int) - 1) * st
    match dimRange ns sts with
    | (lo, hi) => (lo + min 0 e, hi + max 0 e)
  | _, _ => (0, 0)

/-- The first and last bit of a record's elements (R123). -/
def LRec.bits (r : LRec) : Int × Int :=
  match dimRange r.sizes r.strides with
  | (lo, hi) =>
    let b : Int := 8 * (r.base : Int) + r.boff
    (b + r.width * lo, b + r.width * hi + r.width - 1)

/-- The span in whole 128-byte lines; none when there is no element (R123). -/
def LRec.span (r : LRec) : Option (Nat × Nat) :=
  if r.count = 0 then none else some ((r.bits.1 / 1024).toNat, (r.bits.2 / 1024).toNat)

/-- Every element address lies between 0 and 2^58 − 1 (R296): that of its first bit. -/
def LRec.inSpace (r : LRec) : Bool := r.count == 0 || (decide (r.bits.1 ≥ 0) && decide (r.bits.2 + 1 - r.width < 8 * 2 ^ 58))

/-- Every element lies in the scratchpad region. -/
def LRec.inSpad (r : LRec) : Bool :=
  r.count == 0 || (decide (r.bits.1 ≥ 8 * (6 * 2 ^ 55)) && decide (r.bits.2 < 8 * (7 * 2 ^ 55)))

/-- Granule-whole (R298). -/
def LRec.whole (r : LRec) : Bool :=
  r.base % 4 == 0 && r.boff == 0 && r.strides.headD 0 == 1 && r.sizes.headD 0 * r.width % 32 == 0 &&
  r.strides.tail.all fun st => st * r.width % 32 == 0

/-- Read a record from its 32 words (R295, R296); none when it is invalid. -/
def LRec.parse (ws : List Word) : Option LRec :=
  let bs := ws.flatMap wordBytes
  let n (i k : Nat) : Nat := leNat ((bs.drop i).take k)
  let ndim := n 8 1
  let sizes := (Machine.span 0 9).map fun i => n (16 + 4 * i) 4
  let strides := (Machine.span 0 9).map fun i => toSigned 32 (n (52 + 4 * i) 4)
  let r : LRec := ⟨n 0 8, ndim, n 9 1, n 10 1 == 1, n 11 1, BitVec.ofNat 32 (n 12 4), sizes.take ndim, strides.take ndim⟩
  let ok := decide (r.base < 2 ^ 58) && decide (1 ≤ ndim) && decide (ndim ≤ 9) && decide (r.fmt ≤ 9) && decide (n 10 1 ≤ 1) &&
    decide (r.boff ≤ (if r.fmt = 5 then 7 else 0)) && (r.crcv || r.ecrc == 0) &&
    (sizes.drop ndim).all (· == 0) && (strides.drop ndim).all (· == 0) && (bs.drop 88).all (· == 0) &&
    decide (r.count ≤ 4294967295) && r.inSpace
  if ok then some r else none

/-- Dimensions 0 and 1 exchanged: the traversal of `xtr`'s source (R301). -/
def LRec.swap (r : LRec) : LRec :=
  let ex {α : Type} (l : List α) : List α := match l with
    | a :: b :: t => b :: a :: t
    | l => l
  { r with sizes := ex r.sizes, strides := ex r.strides }

/-- The form requirements of R301 and R303. -/
def XForm.accepts (f : XForm) (src dst : LRec) : Bool :=
  dst.whole && src.count == dst.count && (match f with
    | .copy => src.whole && src.width == dst.width
    | .repack => src.width == dst.width
    | .tr => decide (src.ndim ≥ 2) && src.width == dst.width && (src.width != 32 || src.whole)
    | .cvt => true
    | .exp => src.ndim == 1 && src.width == 32 && src.strides.headD 0 == 1 && src.base % 2048 == 0 &&
        src.sizes.headD 0 % 512 == 0 && decide (src.base + 4 * src.count ≤ 2 ^ 57) && decide (src.base < 2 ^ 57) &&
        dst.width == 32 && dst.inSpad
    | .mcast => src.whole && src.width == dst.width && dst.inSpad)

/-! ### Edges -/

/-- Two footprints overlap (R124): lines of one context; in the scratchpad region, lines of one crew. -/
def overlapSpan (sameCtx sameCrew : Bool) (a b : Option (Nat × Nat)) : Bool :=
  match a, b with
  | some x, some y =>
    sameCtx && decide (x.1 ≤ y.2) && decide (y.1 ≤ x.2) && (sameCrew || decide (max x.1 y.1 < 6 * 2 ^ 48))
  | _, _ => false

/-- The operations already held that a new one waits for (R125). -/
def edgesOf (held : List AsyncOp) (ctx crew : Nat) (src dst : LRec) : List Nat :=
  (held.filter fun a =>
    let o (x y : LRec) : Bool := overlapSpan (a.ctx == ctx) (a.crew == crew) x.span y.span
    o src a.dst || o dst a.src || o dst a.dst).map fun a => a.uid

/-! ### Issue -/

/-- The failed check of a layout record: SITE 0x07 (R300). -/
def State.recordChk (s : State) (lane : Nat) (l : List (Nat × GUnit × Option Nat)) : Option Chk :=
  l.findSome? fun x => s.chkUnit 0x07 0xFF lane x.2.1 x.2.2

/-- The rows of R304 up to 7: a trap, or the two records and the barrier object. -/
def asyncRows (s : State) (p : Pod) (k : Crew) (f : XForm) (bw mask : Nat) (ws : List Word) :
    Trap ⊕ (LRec × LRec × Option Nat) :=
  let nb := bitAt bw 31
  let off := bw % 2 ^ 18
  let align : Trap := .plain .align p.low
  let perm : Trap := .plain .perm p.low
  if !nb ∧ off % 16 ≠ 0 then .inl ⟨.align, p.low, spadBase + off, none⟩
  else if field bw 30 18 ≠ 0 ∨ mask ≥ 16 then .inl perm
  else if !nb ∧ off ≥ k.decl.lines * 128 then .inl ⟨.perm, p.low, spadBase + off, none⟩
  else
    match LRec.parse (ws.take 32), LRec.parse (ws.drop 32) with
    | some src, some dst =>
      if (nb ∧ dst.crcv) ∨ src.crcv ∨ !f.accepts src dst then .inl align
      else if f = .mcast ∧ (k.setn = 0 ∨ (lanesOf (BitVec.ofNat 32 mask)).any fun c =>
          (s.setMember (clusterOf p.core * 4 + c) k.ctx k.node k.setNo).isNone) then .inl perm
      else .inr (src, dst, if nb then none else some off)
    | _, _ => .inl align

/-- Hold the operation in the engine scheduler (R125, R300). Every dirty granule in the issuing L1 goes home, those of the read
footprint among them, whichever context wrote them (R114). -/
def State.enqueue (s : State) (p : Pod) (w : Wave) (k : Crew) (f : XForm) (chan mask : Nat) (src dst : LRec)
    (bar : Option Nat) : State :=
  match (s.backAll p.core).fresh with
  | (u, s) =>
    let op : AsyncOp := ⟨u, w.crew, k.ctx, p.slot, p.low, (w.thread p.low).id, chan, f, (if f = .tr then src.swap else src),
      dst, bar, mask, edgesOf (s.core p.core).ops k.ctx w.crew src dst, false, 0, [], [], none, [], none⟩
    s.modCore p.core fun c => { c with ops := c.ops ++ [op] }

/-- A pod that waits for the engine keeps the records that it read (R300). -/
def State.keepRecs (s : State) (p : Pod) (ws : List Word) : State :=
  s.modWave p.core p.slot fun w => { w with recs := w.recs.set p.low ws }

/-- The records of a pod that has gone on are kept no more. -/
def State.dropRecs (s : State) (p : Pod) : State := s.modWave p.core p.slot fun w => { w with recs := w.recs.del p.low }

/-- An asynchronous instruction (R299, R300, R304). `m` names the mask register of `xmcast`. The records are read once
for an instruction: one that waits for the engine keeps what it read (R101, R300, R304). -/
def asyncIssue (s : State) (f : XForm) (ch : BitVec 2) (m : Option (BitVec 6)) (b a : BitVec 6) : Res :=
  let regs := (Reg.ofS a).group 2 ++ [.ofS b] ++ (m.map fun x => Reg.ofS x).toList
  withRegs s regs fun p w k =>
    governed s p w (checked s (s.chkRegs p w (operands regs))
      (let ra := (w.dword (.ofS a) 0).toNat
       let mask := (m.map fun x => (w.word (.ofS x) 0).toNat).getD 0
       if ra ≥ 2 ^ 58 then .trap s (.plain .perm p.low)
       else
        let rest (s : State) (ws : List Word) : Eff :=
          match asyncRows s p k f (w.word (.ofS b) 0).toNat mask ws with
          | .inl t => .trap s t
          | .inr (src, dst, bar) =>
            if f = .mcast ∧ mask = 0 then .done (((s.dropRecs p).clearIdem p).retire p)
            else if (s.core p.core).ops.length ≥ 64 then .held (s.keepRecs p ws) .engine
            else if f = .mcast ∧ s.setSaving p.core k then .held ((s.keepRecs p ws).shutWindow p) .engine
            else
              let s := if f = .mcast ∧ mask ≠ 2 ^ (p.core % 4) then s.escape p w else s
              .done ((((s.enqueue p w k f ch.toNat mask src dst bar).dropRecs p).clearIdem p).retire p)
        match w.recs.find p.low with
        | some ws => rest s ws
        | none =>
          withPlaces (s.gather p w k .read 128 64 [(p.low, some ra)]) fun s places =>
            match s.loadAll p w k false places with
            | (got, s) => checked s (s.recordChk p.low got) (rest s (got.map fun x => x.2.1.data))))

/-- XCOPY (R301). -/
def execXcopy (h : BitVec 2) (b a : BitVec 6) (s : State) : Res := asyncIssue s .copy h none b a

/-- XREPACK (R301). -/
def execXrepack (h : BitVec 2) (b a : BitVec 6) (s : State) : Res := asyncIssue s .repack h none b a

/-- XTR (R301). -/
def execXtr (h : BitVec 2) (b a : BitVec 6) (s : State) : Res := asyncIssue s .tr h none b a

/-- XCVT (R302). -/
def execXcvt (h : BitVec 2) (b a : BitVec 6) (s : State) : Res := asyncIssue s .cvt h none b a

/-- XEXP (R303). -/
def execXexp (h : BitVec 2) (b a : BitVec 6) (s : State) : Res := asyncIssue s .exp h none b a

/-- XMCAST (R132, R301). -/
def execXmcast (h : BitVec 2) (e b a : BitVec 6) (s : State) : Res := asyncIssue s .mcast h (some e) b a

end Sys2Proof.Machine
end

