-- ==== Sys2Proof/Machine/System.lean ====
section
/-! DEFINITION. The system major 0x3B (R306 to R309): thread end, continuation records, regions, random numbers, traps and
places. -/

namespace Sys2Proof.Machine

/-! ### End of a thread, continuation records -/

/-- EXIT (R163). The ids return to the context at the end of the barrier interval (R161), and what the exit completes, a mask or the
crew barrier, is released at the end of the cycle (R169, R260). -/
def execExit (s : State) : Res :=
  withPod s [] fun p w k =>
    let ids := p.lanes.map fun l => (w.thread l).id
    let s := (s.retire p).removeLanes p.core p.slot p.lanes k.body.quantum
    .done ((s.retireIds k.ctx p.core w.crew ids).wakeCore p.core .room)

/-- A bin that may take one more record (R181). -/
def Bin.open_ (b : Bin) (crew : Nat) (pc : VAddr) : Bool :=
  b.crew == crew && b.pc == pc && !b.flush && decide (b.recs.length < 32)

/-- Put a record into the bin of its crew and PC, or into a free bin; a bin that holds 32 forms a wave. None when no bin
takes it (R181). A bin keeps the BINTO in force when its first record arrived: the model's choice, since R181 does not say
which value counts after a write (DESIGN CHOICE, log 96). -/
def binPut (bins : Map Bin) (crew : Nat) (pc : VAddr) (rec_ : List GUnit) (now stamp limit : Nat) : Option (Map Bin) :=
  match bins.find? fun e => e.2.open_ crew pc with
  | some (i, b) =>
    some (bins.set i { b with recs := b.recs ++ [rec_], stamp := stamp, flush := decide (b.recs.length ≥ 31) })
  | none =>
    match (span 0 16).find? fun i => (bins.find i).isNone with
    | some i => some (bins.set i ⟨crew, pc, [rec_], now, limit, false, stamp⟩)
    | none => none

/-- Bins that are about to form waves. -/
def forming (bins : Map Bin) (crew : Nat) : List Bin := (bins.map fun e => e.2).filter fun b => b.flush && b.crew == crew

/-- The bin least recently filled is flushed (R181). -/
def flushOldest (bins : Map Bin) : Map Bin :=
  if bins.any fun e => e.2.flush then bins
  else match (bins.map fun e => (e.2.stamp, e.1)).foldl (fun (o : Option (Nat × Nat)) e =>
      match o with
      | none => some e
      | some m => if e.1 < m.1 then some e else some m) none with
    | some (_, i) => bins.alter i fun b => { b with flush := true }
    | none => bins

/-- Room for the waves that the bins of a crew form (R181): slots and registers, threads, ids. -/
def State.binRoom (s : State) (core crew : Nat) (k : Crew) (bins : Map Bin) : Bool :=
  let f := forming bins crew
  let n := f.foldl (fun n b => n + b.recs.length) 0
  f.isEmpty || (decide (f.length ≤ (s.core core).waveRoom k.decl.vregs k.decl.sregs) &&
    decide (((s.core core).members crew).length + n ≤ 1024) && decide ((s.ctx k.ctx).ids.length + n ≤ 2 ^ 24))

/-- Take the lanes' records one by one, in lane order (R181), up to the first that has to wait: for a bin, with the bin least
recently filled flushed, or for the room of a wave that is forming. The answer names the lanes whose records are taken. -/
def State.takeRecords (s : State) (core crew : Nat) (k : Crew) : List (Nat × VAddr × List GUnit) → Map Bin → List Nat × Map Bin
  | [], bins => ([], bins)
  | (l, pc, r) :: rest, bins =>
    if !s.binRoom core crew k bins then ([], bins)
    else match binPut bins crew pc r (s.cycOf core) s.stamp k.body.binto with
      | none => ([], flushOldest bins)
      | some b =>
        match State.takeRecords s core crew k rest b with
        | (ls, b) => (l :: ls, b)

/-- Lanes at an `emit` have given their records, or wait for nothing more: those that waited for them go on (R181). -/
def Wave.emitGo (w : Wave) (lanes : BitVec 32) : Wave :=
  { w with threads := w.threads.mapAll fun _ t => t.emitGo lanes }

/-- What a pod's threads wait for after an `emit` that is held: those whose records are taken for the others, and, where every
record is taken, all of them for the room of the wave that the last one filled (R181). -/
def Wave.emitHold (w : Wave) (p : Pod) (taken : List Nat) : Wave :=
  let rest := p.lanes.filter fun l => !taken.contains l
  let wait := if rest.isEmpty then taken.getLast?.toList else rest
  (w.holdLanes rest .room).holdLanes taken (.emitted (laneSet wait))

/-- EMIT (R180, R181, R261). A record per lane, in lane order. While a record waits, its pod is held: the threads whose records
are taken already wait for the others, and take no part when the `emit` issues again. It reads BINTO (R60). -/
def execEmit (a : BitVec 6) (s : State) : Res :=
  let r := Reg.ofV a
  withPod s (r.group 16) fun p w k =>
    checked s (s.chkSrcs p w k (sources (r.group 2) ++ [.cr 0x001]))
      (match p.lanes.find? fun l => badTarget (w.dword r l) with
      | some l => .trap s (.plain .perm l)
      | none =>
        let recs := p.lanes.map fun l => (l, BitVec.ofNat 58 (w.dword r l).toNat, (span 0 16).map fun i => w.get (r.plus i) l)
        match s.takeRecords p.core w.crew k recs (s.core p.core).bins with
        | (taken, bins) =>
          let s := s.modCore p.core fun c => { c with bins := bins }
          let given := fun (s : State) => (s.modWave p.core p.slot fun w => w.emitGo (laneSet taken)).clearIdem p
          if taken.isEmpty then .held s .room
          else if taken.length = p.lanes.length ∧ s.binRoom p.core w.crew k bins then .done ((given s).retire p)
          else .done (((given s).stalled p).modWave p.core p.slot fun w => w.emitHold p taken))

/-! ### Regions -/

/-- IDEM (R184). Governed by q0; ENTDEPTH, DROP and IDEMCYC start afresh (R343). -/
def execIdem (s : State) : Res :=
  withRegs s [] fun p w _ => governed s p w
    (.done ((s.modWave p.core p.slot fun w => { w.mend [parCr 0x012] with
      idempc := BitVec.ofNat 64 (p.pc.toNat + 1)
      idemAcc := 0
      idemSince := some (s.cycOf p.core)
      threads := w.threads.mapAll fun _ t => { t with entDepth := t.depth, drop := false } }).retire p))

/-- The remaining length of a window after `nopre` (R187): `remaining` 0 stands for no window. -/
def nopreLength (pending : Bool) (bound remaining n : Nat) : Nat :=
  if remaining = 0 then (if pending then 0 else min n bound) else min n remaining

/-- NOPRE (R187). It reads NOPRE, whose BOUND it needs (R60, R186). The `nopre` that opens or shortens a window is not counted in it. -/
def execNopre (a : BitVec 6) (s : State) : Res :=
  withPod s [.ofS a] fun p w k =>
    checked s (s.chkSrcs p w k [.reg (.ofS a) 2, .cr 0x041])
      (let n := (w.word (.ofS a) 0).toNat
       if n > 65536 then .trap s (.plain .perm p.low)
       else
        let m := nopreLength k.preempt.isSome (bvf (s.ctx k.ctx).nopre 0 17) w.nprem n
        let s := s.modWave p.core p.slot fun w => { w with nprem := m }
        .done (s.retireWith p (m == w.nprem) fun _ => p.after))

/-! ### Random numbers -/

/-- One round of `mix`: halves (lw0, lw1), (hw0, hw1) and the round key (R307). -/
def mixRound (x : (Word × Word) × (Word × Word) × (Word × Word)) : (Word × Word) × (Word × Word) × (Word × Word) :=
  match x with
  | ((lw0, lw1), (hw0, hw1), (k0, k1)) =>
    let m : BitVec 64 := (hw0 + k0).setWidth 64 * 0xE35B4F27#64
    let n : BitVec 64 := (hw1 ^^^ k1).setWidth 64 * 0x8B71D0A9#64
    let f0 := hi32 m ^^^ (lo32 n).rotateLeft 5
    let f1 := hi32 n + (lo32 m).rotateLeft 17
    ((hw0, hw1), (lw0 ^^^ f0, lw1 ^^^ f1), (k0 + 0x7A4D1C93#32, k1.rotateLeft 3 ^^^ 0x2F58B6E1#32))

/-- `n` rounds. -/
def mixRounds : Nat → (Word × Word) × (Word × Word) × (Word × Word) → (Word × Word) × (Word × Word) × (Word × Word)
  | 0, x => x
  | n + 1, x => mixRounds n (mixRound x)

/-- `mix` (R307): four words in, four words out, lowest first. -/
def mix (ctr : List Word) (k0 k1 : Word) : List Word :=
  match mixRounds 10 ((ctr.getD 0 0, ctr.getD 1 0), (ctr.getD 2 0, ctr.getD 3 0), (k0, k1)) with
  | ((lw0, lw1), (hw0, hw1), _) => [lw0, lw1, hw0, hw1]

/-- A lane form from a group of four and an s pair to a group of four (R306). -/
def quadOp (s : State) (b a d : BitVec 6) (f : List Word → BitVec 64 → List Word) : Res :=
  let va := (Reg.ofV a).group 4
  let sb := (Reg.ofS b).group 2
  withPod s ((Reg.ofV d).group 4 ++ va ++ sb) fun p w _ =>
    checked s (s.chkRegs p w (operands (va ++ sb)))
      (let out := fun l => f (va.map fun r => w.word r l) (w.dword (.ofS b) 0)
       .done (((span 0 4).foldl (fun s i => s.writeReg p ((Reg.ofV d).plus i) fun l => coded ((out l).getD i 0)) s).retire p))

/-- RNG (R307). -/
def execRng (b a d : BitVec 6) (s : State) : Res := quadOp s b a d fun c k => mix c (lo32 k) (hi32 k)

/-- A 128-bit number plus a 64-bit one, by words (R308). -/
def add128 (c : List Word) (k : BitVec 64) : List Word :=
  let n := (c.foldr (fun x n => x.toNat + 2 ^ 32 * n) 0 + k.toNat)
  (span 0 4).map fun i => w32 (n / 2 ^ (32 * i))

/-- CADD_N128 (R308). -/
def execCaddN128 (b a d : BitVec 6) (s : State) : Res := quadOp s b a d add128

/-! ### Traps, time and place -/

/-- BKPT (R317). -/
def execBkpt (_i : BitVec 6) (s : State) : Res := withPod s [] fun p _ _ => .trap s (.plain .bkpt p.low)

/-- TRET (R316). UND while IN is 0. It reads TRAPCAUSE and TRAPPC (R60). -/
def execTret (s : State) : Res :=
  withRegs s [] fun p w _ =>
    if w.inHandler then checked s (parityChk w p [parRestored, parCr 0x030, parCr 0x031]) (.done (s.trapReturn p w))
    else .trap s (.plain .und p.low)

/-- TSTAMP (R309). -/
def execTstamp (d : BitVec 6) (s : State) : Res :=
  withPod s ((Reg.ofS d).group 2) fun p _ _ => .done ((s.writePair p (.ofS d) fun _ => BitVec.ofNat 64 s.time).retire p)

/-- COREID (R309). -/
def execCoreid (d : BitVec 6) (s : State) : Res :=
  withPod s [.ofS d] fun p _ _ =>
    .done ((s.writeReg p (.ofS d) fun _ => coded (w32 (p.core + 256 * s.board.domain))).retire p)

end Sys2Proof.Machine
end

