-- ==== Sys2Proof/Machine/EngineEv.lean ====
section
/-! DEFINITION. The engine scheduler and the copy channels at work (R79, R80, R125, R127 to R132, R300 to R303), multicast
arrivals (R132) and remote-write deposits (R134). -/

namespace Sys2Proof.Machine

/-- A step of the device happens only where its rule lets it. -/
def allow (b : Bool) (s : State) : Res := if b then .next s else .fault .notEnabled

/-! ### Operations in the scheduler -/

/-- An operation of a core by its number. -/
def Core.op? (k : Core) (u : Nat) : Option AsyncOp := k.ops.find? fun o => o.uid == u

/-- Change an operation. -/
def State.modOp (s : State) (core u : Nat) (f : AsyncOp → AsyncOp) : State :=
  s.modCore core fun k => { k with ops := k.ops.map fun o => if o.uid == u then f o else o }

/-- An operation leaves the scheduler, and pods held for an entry issue again (R125). -/
def State.dropOp (s : State) (core u : Nat) : State :=
  (s.modCore core fun k => { k with ops := k.ops.filter fun o => o.uid != u }).wakeCore core .engine

/-- The operation's crew has an early stop on the channel that nothing has observed (R130). -/
def Core.stopped (k : Core) (o : AsyncOp) : Bool :=
  match k.crews.find o.crew with
  | some c => (c.body.stops.find o.chan).isSome
  | none => true

/-- The channel may serve an operation (R79, R125, R130): its edges are satisfied, the channel is idle, and no earlier
operation of the channel waits, except behind an unobserved stop. -/
def Core.servable (k : Core) (o : AsyncOp) : Bool :=
  !o.started && !k.stopped o && (o.edges.all fun u => (k.op? u).isNone) &&
  (k.ops.all fun a => a.chan != o.chan || !a.started) &&
  ((k.ops.takeWhile fun a => a.uid != o.uid).all fun a => a.chan != o.chan || k.stopped a)

/-- ENGINE_OP_DISPATCH (R125). An operation without elements leaves at once (R300). -/
def execEngineOpDispatch (s : State) : Res :=
  match s.arg with
  | .engineOpDispatch core u =>
    match (s.core core).op? u with
    | none => .fault .notEnabled
    | some o =>
      if !(s.core core).servable o then .fault .notEnabled
      else if o.dst.count = 0 then .next (s.dropOp core u)
      else .next (s.modOp core u fun o => { o with started := true })
  | _ => .fault .noArg

/-! ### Barrier objects and early stops -/

/-- A crew's scratchpad holds the object at an offset. The object of a multicast may lie beyond a receiver's allocation: then
nothing counts there (DEDUCED, log 37). -/
def Crew.holdsObject (k : Crew) (off : Nat) : Bool := decide (off < k.decl.lines * 128)

/-- One arrival at a barrier object (R127), with the comparison of R128 at the last byte; the failed check of the object
otherwise. -/
def State.objectArrive (s : State) (core crew off : Nat) (bytes : List Byte) (last : Option Word) : Option Chk × State :=
  match s.crew? core crew with
  | none => (none, s)
  | some k =>
    let us := k.object off
    if !k.holdsObject off then (none, s)
    else match s.objectChk core crew off 0 us with
    | some c => (some c, s)
    | none =>
      let ws := us.map fun u => u.data
      let crc := crc32c (ws.getD 2 0) bytes
      let ws := arriveWords ws (w32 bytes.length) crc
      let w3 := ws.getD 3 0
      let w3 := match last with
        | some e => if e = crc then w3 else (w3 &&& 0xFFFF00FF#32) ||| 0x102#32
        | none => w3
      (none, s.objectPut core crew off (ws.set 3 w3))

/-- The words of a barrier object that an early stop writes, by their number (R129): ARRIVED where it is below EXPECTED, and
the word of PHASE, ERR and ECAUSE. EXPECTED and CRC are not written, and keep the codes they have. -/
def stopWords (ws : List Word) (ecause : Nat) : List (Nat × Word) :=
  let e := ws.getD 0 0
  let a := ws.getD 1 0
  let w3 := ws.getD 3 0
  let w3 := if a.ult e then w3 ^^^ 1#32 else w3
  (if a.ult e then [(1, e)] else []) ++ [(3, (w3 &&& 0xFFFF00FF#32) ||| w32 (ecause * 256 + 2))]

/-- The receivers of a multicast that are there: cores and crews (R132). -/
def State.receivers (s : State) (core mask ctx node setNo : Nat) : List (Nat × Nat × Crew) :=
  (lanesOf (BitVec.ofNat 32 mask)).filterMap fun c =>
    let t := clusterOf core * 4 + c
    (s.setMember t ctx node setNo).map fun e => (t, e.1, e.2)

/-- A stream stops early (R129): its barrier objects are completed, which releases their waiters, the stop is kept for its
observation (R130), and the operation leaves, which satisfies the edges held on it. Multicast pieces still on their way, which
only a failed check of a receiver's object can leave there (`State.endStream`), are part of the rest of the stream and do not
arrive: the model's choice (DESIGN CHOICE, log 36). -/
def State.stopStream (s : State) (core : Nat) (o : AsyncOp) (st : Stop) : State :=
  match s.crew? core o.crew with
  | none => s.dropOp core o.uid
  | some k =>
    let at_ : List (Nat × Nat) := match o.form with
      | .mcast => (s.receivers core o.mask k.ctx k.node k.setNo).map fun e => (e.1, e.2.1)
      | _ => [(core, o.crew)]
    let s := match o.bar with
      | none => s
      | some off => (at_.filter fun (e : Nat × Nat) => ((s.crew? e.1 e.2).getD k).holdsObject off).foldl (fun (s : State) (e : Nat × Nat) =>
          (stopWords ((((s.crew? e.1 e.2).getD k).object off).map fun (u : GUnit) => u.data) st.ecause).foldl
            (fun (s : State) (x : Nat × Word) => s.spadPut e.1 e.2 (off + 4 * x.1) (coded x.2)) s) s
    let s := (span (clusterOf core * 4) 4).foldl (fun s c => s.modCore c fun x =>
      { x with arrivals := x.arrivals.filter fun a => !(a.from_ == core && a.op == o.uid) }) s
    (s.modBody core o.crew fun b => { b with stops := b.stops.set o.chan st }).dropOp core o.uid

/-- A stream stops once the multicast pieces that it has sent have arrived (log 36). -/
def State.endStream (s : State) (core : Nat) (o : AsyncOp) (st : Stop) : State :=
  if o.pend.isEmpty then s.stopStream core o st else s.modOp core o.uid fun o => { o with dead := some st, wait := none }

/-! ### Reading the source -/

/-- What an access of an engine meets: a value, an early stop, or an open fault record. -/
inductive Eng (α : Type) where
  | ok (x : α)
  | stop (st : Stop)
  | wait (uid va : Nat)
  | later

/-- Go on with a value; a stop, an open record or a wait ends it. -/
def engThen {α β : Type} (r : Eng α × State) (f : α → State → Eng β × State) : Eng β × State :=
  match r with
  | (.ok x, s) => f x s
  | (.stop st, s) => (.stop st, s)
  | (.wait u va, s) => (.wait u va, s)
  | (.later, s) => (.later, s)

/-- The engine acts as the issuing thread (R114). -/
def AsyncOp.agent (o : AsyncOp) (core : Nat) (k : Crew) : Agent :=
  ⟨core, o.slot, o.ctx, some o.tid, k.decl.lines * 128, k.replay, 32 + o.uid⟩

/-- A name for a granule's place. -/
def placeKey (x : Xlat) : Option Nat :=
  match x with
  | .spad off => some (2 * (off / 4) + 1)
  | .mem pa _ _ _ => some (2 * (pa / 4))
  | _ => none

/-- A fatal fault of the stream: ECAUSE 5 (R129). -/
def faultStop (o : AsyncOp) (c : Cause) (va : Nat) : Stop := ⟨c, 5, 0, 0, some va, o.bar⟩

/-- Translate an address for a stream (R300, R39, R44). A miss that finds no room is made again later (R43). -/
def State.engXlat (s : State) (core : Nat) (o : AsyncOp) (k : Crew) (va : Nat) (acc : Access) : Eng Xlat × State :=
  let g := o.agent core k
  if s.queueFull core && s.wouldMiss g va acc then (.later, s)
  else
    match s.translate g va acc with
    | (.fault c, s) => (.stop (faultStop o c va), s)
    | (.replay _ cond level, s) =>
      let page := s.pageVa g va / 16384
      if s.missRoom g page acc then
        match s.attach g (s.pageVa g va) page cond level acc with
        | (u, s) => (.wait u va, s)
      else (.later, s)
    | (x, s) => (.ok x, s)

/-- Translate addresses in order. -/
def State.engXlats (s : State) (core : Nat) (o : AsyncOp) (k : Crew) (acc : Access) : List Nat → Eng (List (Nat × Xlat)) × State
  | [] => (.ok [], s)
  | va :: vas =>
    engThen (s.engXlat core o k va acc) fun x s =>
      engThen (State.engXlats s core o k acc vas) fun l s => (.ok ((va, x) :: l), s)

/-- A granule that a stream has read: its address, its unit and the physical address behind it (R62). -/
abbrev Got := Nat × GUnit × Option Nat

/-- Read a granule of the source at its home or in scratchpad. Where the operation has overwritten it, it reads what it
held before, or what it holds now: which one is open (R297, log 9). -/
def State.engRead (s : State) (o : AsyncOp) (k : Crew) (x : Xlat) : GUnit × State :=
  match (match x with
    | .spad off => (k.spadGet off, s)
    | .mem pa _ _ cz => if pa < hbmSize then s.homeGet pa (some cz) else s.devGet pa
    | _ => (GUnit.zero, s)) with
  | (u, s) =>
    match (placeKey x).bind fun i => o.snap.find i with
    | some old =>
      match s.freeEarlier with
      | (true, s) => (old, s)
      | (false, s) => (u, s)
    | none => (u, s)

/-- Read translated granules in order. -/
def State.engReads (s : State) (core : Nat) (o : AsyncOp) (k : Crew) : List (Nat × Xlat) → List Got × State
  | [] => ([], s)
  | (va, x) :: l =>
    match s.engRead o k x with
    | (u, s) =>
      match State.engReads s core o k l with
      | (us, s) => ((va, u, s.sourcePa core o.crew x) :: us, s)

/-- A transform input that fails its check: ECAUSE 3, or 6 when the stack marked it (R63, R129). -/
def inputStop (o : AsyncOp) (c : Chk) : Stop :=
  if c.ue then ⟨.hbmue, 6, 7, 0, c.addr, o.bar⟩ else ⟨.chk, 3, c.site, c.syn, c.addr, o.bar⟩

/-- The first unit of a consumer's input that fails. -/
def State.inputChk (s : State) (o : AsyncOp) (l : List Got) : Option Stop :=
  (l.findSome? fun x => s.chkUnit 0x07 0xFF 0 x.2.1 x.2.2).map (inputStop o)

/-! ### Traversal -/

/-- The address of granule i of a granule-whole record, in traversal order (R298). -/
def LRec.granule (r : LRec) (i : Nat) : Nat :=
  let n := r.sizes.headD 0 * r.width / 32
  ((8 * (r.base : Int) + r.width * dimOffset r.sizes.tail r.strides.tail (i / n)) / 8).toNat + 4 * (i % n)

/-- How many granules a record's elements fill. -/
def LRec.granules (r : LRec) : Nat := r.count * r.width / 32

/-- The piece that starts at granule g: at most 32 granules, all in one destination line (R127) and, for `xexp`, of one source
block (R303). -/
def pieceOf (o : AsyncOp) (g : Nat) : List Nat :=
  (span g (min 32 (o.dst.granules - g))).takeWhile fun i =>
    o.dst.granule i / 128 == o.dst.granule g / 128 && (o.form != .exp || i / 512 == g / 512)

/-- The granule addresses that element t touches. -/
def LRec.touches (r : LRec) (t : Nat) : List Nat :=
  let a := (r.bitOf t).toNat
  if a / 32 = (a + r.width - 1) / 32 then [a / 32 * 4] else [a / 32 * 4, a / 32 * 4 + 4]

/-- The code of element t from the granules read. -/
def LRec.elem (r : LRec) (got : List Got) (t : Nat) : Nat :=
  let a := (r.bitOf t).toNat
  let w (va : Nat) : Nat := ((got.find? fun x => x.1 == va).map fun x => x.2.1.data.toNat).getD 0
  (match r.touches t with
  | [x] => w x
  | [x, y] => w x + 2 ^ 32 * w y
  | _ => 0) / 2 ^ (a % 32) % 2 ^ r.width

/-- Destination granules from element codes: granules `gs` of the stream whose first element is `t0` (R140). -/
def gathered (w t0 : Nat) (gs codes : List Nat) : List GUnit :=
  let n := codes.foldr (fun c n => c + 2 ^ w * n) 0
  gs.map fun i => coded (w32 (n / 2 ^ (32 * i - w * t0)))

/-! ### Transforms -/

/-- The scale byte of an element and its granule's check (R302): 0 where the line carries no tag of the record's format. `xs`
holds the translations of the source granules. -/
def State.elemScale (s : State) (o : AsyncOp) (xs : List (Nat × Xlat)) (t : Nat) : Eng Int × State :=
  let a := (o.src.bitOf t).toNat
  match xs.find? fun x => x.1 == a / 32 * 4 with
  | none => (.ok 0, s)
  | some (_, x) =>
    match s.tagOf x, x with
    | (some n, s), .mem pa _ _ _ =>
      let v := (s.die (dieOfPa pa)).win.getD n .empty
      if v.fmtCode ≠ o.src.fmt then (.ok 0, s)
      else
        let sa := v.scaleAddr (pa + a % 32 / 8)
        match s.homeGet (sa / 4 * 4) none with
        | (u, s) =>
          match s.chkUnit 0x07 0xFF 0 u (some (sa / 4 * 4)) with
          | some c => (.stop (inputStop o c), s)
          | none => (.ok (scaleOf (u.data.toNat / 256 ^ (sa % 4) % 256)), s)
    | (_, s), _ => (.ok 0, s)

/-- Convert elements in order (R302). -/
def State.converted (s : State) (o : AsyncOp) (xs : List (Nat × Xlat)) (got : List Got) : List Nat → Eng (List Nat) × State
  | [] => (.ok [], s)
  | t :: ts =>
    engThen (s.elemScale o xs t) fun sc s =>
      engThen (State.converted s o xs got ts) fun l s =>
        (.ok (convertScaled o.src.format o.dst.format sc (o.src.elem got t) :: l), s)

/-- The home slice writes back the lines of a block before a raw fetch (R90); none while a write-back waits. -/
def State.blockBack (s : State) (blk : Nat) : Option State :=
  (span (blk * 16) 16).foldl (fun o l => o.bind fun s => s.l2Back l) (some s)

/-- The units of a block as a raw fetch and its decoding give them (R90, R303): none on a decode error. A unit that the
stack marked is part of the raw stream, and no stream is left (R129). The controller tells Osmium of bad metadata (R81). -/
def State.rawUnits (s : State) (blk : Nat) : Option (List GUnit) × State :=
  let s := (s.metaTouch blk).metaTell blk
  let us := s.blockUnits blk
  (if us.any fun u => u.ue then none else some us, s)

/-- A code that an element transform writes: reserved codes are read as their substitutes and never written (R143). -/
def writtenCode (F : Fmt) (c : Nat) : Nat :=
  match F with
  | .f8e4 => if c = 0x7F then 0xFF else c
  | .ln6 => if c = 0x20 then 0 else c
  | _ => c

/-- What a stream needs of its source before it delivers a piece: the granules that the piece's elements touch, in the order of
their elements (R297, R301). `xexp` reads whole blocks. -/
def AsyncOp.needs (o : AsyncOp) (gs : List Nat) : List Nat :=
  let w := o.dst.width
  let t0 := 32 * gs.headD 0 / w
  let ts := span t0 ((32 * gs.getLastD 0 + 31) / w + 1 - t0)
  match o.form with
  | .copy | .mcast => gs.map o.src.granule
  | .exp => gs.map fun i => o.src.base + 4 * i
  | .tr => if w = 32 then gs.map fun i => (o.src.bitOf i).toNat / 8 else (ts.flatMap o.src.touches).eraseDups
  | .repack | .cvt => (ts.flatMap o.src.touches).eraseDups

/-- The form forwards its units unchanged (R301); the others are consumers. -/
def AsyncOp.forwards (o : AsyncOp) : Bool :=
  match o.form with
  | .copy | .mcast => true
  | .tr => o.dst.width == 32
  | _ => false

/-- Fetch the raw block that a piece of `xexp` comes from (R303): its 512 units, kept for the block's later pieces. In a window
that is no HBM the granules are read as they are. -/
def State.fetchBlock (s : State) (core : Nat) (o : AsyncOp) (k : Crew) (b : Nat) (x : Xlat) : Eng (List Got) × State :=
  let va (i : Nat) : Nat := o.src.base + 2048 * b + 4 * i
  if paOf x ≥ hbmSize then
    match s.engReads core o k ((span 0 512).map fun i => (va i, match x with | .mem pa d m c => Xlat.mem (pa + 4 * i) d m c | y => y)) with
    | (l, s) => (.ok l, s)
  else
    match s.blockBack (paOf x / 2048) with
    | none => (.later, s)
    | some s =>
      match s.rawUnits (paOf x / 2048) with
      | (none, s) => (.stop ⟨.hbmue, 2, 7, 0, none, o.bar⟩, s)
      | (some us, s) =>
        let far := match x with | .mem _ _ true _ => 1 | _ => 0
        (.ok (us.zipIdx.map fun u => (va u.2, u.1, some (paOf x / 2048 * 2048 + 4 * u.2 + far))), s)

/-- Granules of a source as the operation keeps them. -/
def keptSource (l : List Got) : Map (GUnit × Option Nat) := l.foldl (fun (m : Map (GUnit × Option Nat)) x => m.set (x.1 / 4) x.2) []

/-- Granules that the operation has read. -/
def AsyncOp.known (o : AsyncOp) (vas : List Nat) : List Got :=
  vas.filterMap fun va => (o.got.find (va / 4)).map fun x => (va, x)

/-- The source of a piece: the translations of its granules, none of which is read before all are known (R101), then the
granules. A consumer reads and checks each source granule once, before any element that it holds is written (R301): what it
has read is kept with the operation. `ready` runs between the translations and the first read. -/
def State.sourceOf (s : State) (core : Nat) (o : AsyncOp) (k : Crew) (gs : List Nat)
    (ready : State → Eng Xlat × State) : Eng (Xlat × List (Nat × Xlat) × List Got × AsyncOp) × State :=
  let vas := o.needs gs
  if o.form = .exp then
    let b := gs.headD 0 / 512
    if (o.known vas).length = vas.length then
      engThen (ready s) fun d s => (.ok (d, [], o.known vas, o), s)
    else
      engThen (s.engXlat core o k (o.src.base + 2048 * b) .engineRead) fun x s =>
        engThen (ready s) fun d s =>
          engThen (s.fetchBlock core o k b x) fun l s =>
            let o := { o with got := keptSource l }
            (.ok (d, [], o.known vas, o), s)
  else
    engThen (s.engXlats core o k .engineRead vas) fun xs s =>
      engThen (ready s) fun d s =>
        if o.forwards then
          match s.engReads core o k xs with
          | (l, s) => (.ok (d, xs, l, o), s)
        else
          match s.engReads core o k (xs.filter fun x => (o.got.find (x.1 / 4)).isNone) with
          | (l, s) =>
            match s.inputChk o l with
            | some st => (.stop st, s)
            | none =>
              let o := { o with got := l.foldl (fun (m : Map (GUnit × Option Nat)) x => m.set (x.1 / 4) x.2) o.got }
              (.ok (d, xs, o.known vas, o), s)

/-- The units of a piece with the addresses they were read from (R301): forwarded, or made anew from checked granules. The
codes that `xrepack` and `xtr` gather are written as R143 lets them (log 86). -/
def State.transformed (s : State) (o : AsyncOp) (gs : List Nat) (xs : List (Nat × Xlat)) (l : List Got) :
    Eng (List (GUnit × Option Nat)) × State :=
  let w := o.dst.width
  let t0 := 32 * gs.headD 0 / w
  let ts := span t0 ((32 * gs.getLastD 0 + 31) / w + 1 - t0)
  let made (codes : List Nat) : List (GUnit × Option Nat) := (gathered w t0 gs codes).map fun u => (u, none)
  if o.forwards then (.ok (l.map fun x => x.2), s)
  else
    match o.form with
    | .exp =>
      match s.inputChk o l with
      | some st => (.stop st, s)
      | none => (.ok (l.map fun e => (coded e.2.1.data, none)), s)
    | .cvt => engThen (s.converted o xs l ts) fun codes s => (.ok (made codes), s)
    | _ => (.ok (made (ts.map fun t => writtenCode o.dst.format (o.src.elem l t))), s)

/-! ### Delivery -/

/-- An operation whose own footprints overlap (R297). -/
def AsyncOp.selfOverlap (o : AsyncOp) : Bool := overlapSpan true true o.src.span o.dst.span

/-- Deliver one unit of a piece: what the place held is kept for R297, a granule outside scratchpad waits to be seen
(R114), and a bad unit's origin goes with it into scratchpad (R62). -/
def State.deliverUnit (s : State) (core : Nat) (o : AsyncOp) (x : Xlat) (u : GUnit) (from_ : Option Nat) : State :=
  let old : GUnit := match x with
    | .spad off => ((s.crew? core o.crew).elim .zero fun k => k.spadGet off)
    | .mem pa _ _ _ => (s.homeGet pa none).1
    | _ => .zero
  let s := if o.selfOverlap then
      match placeKey x with
      | some i => s.modOp core o.uid fun o => if (o.snap.find i).isSome then o else { o with snap := o.snap.set i old }
      | none => s
    else s
  match x with
  | .spad off => (s.spadPut core o.crew off u).modCore core fun c => c.originNote o.crew (spadKey off) 0 u from_
  | .mem pa _ _ cz =>
    if pa < hbmSize then
      (s.homePut pa u (some cz)).modCrew core o.crew fun k => { k with unseen := ⟨o.chan, o.bar, pa⟩ :: k.unseen }
    else
      let s := s.devPut pa u
      if winKind pa = 3 then s else s.modCrew core o.crew fun k => { k with escaped := true }
  | _ => s

/-- The place of an address in the line of another address, whose place is known. -/
def Xlat.beside (x : Xlat) (va0 va : Nat) : Xlat :=
  match x with
  | .spad off => .spad (off + va - va0)
  | .mem pa b ms cz => .mem (pa + va - va0) b ms cz
  | x => x

/-- Deliver the units of a piece in order, and how many have left. A failed check at a PCIe port's exit ends the transfer: that
unit and the piece's later ones do not leave (R20, log 83). -/
def State.deliverUnits (s : State) (core : Nat) (o : AsyncOp) : List (Xlat × GUnit × Option Nat) → Nat × State
  | [] => (0, s)
  | (x, u, a) :: l =>
    let s := s.deliverUnit core o x u a
    if x.refuses u then (0, s)
    else match State.deliverUnits s core o l with
      | (n, s) => (n + 1, s)

/-- Delivered bytes count in the write pointer (R80). -/
def State.countBytes (s : State) (core crew chan n : Nat) : State :=
  s.modCrew core crew fun k => { k with wp := k.wp.set chan (k.wp.getD chan 0 + n) }

/-- An operation that has performed everything leaves the scheduler (R125). -/
def State.finishOp (s : State) (core u : Nat) : State :=
  match (s.core core).op? u with
  | none => s
  | some o => if o.g ≥ o.dst.granules ∧ o.pend.isEmpty then s.dropOp core u else s

/-- The expected CRC of the last piece (R128). -/
def AsyncOp.expect (o : AsyncOp) (gs : List Nat) : Option Word :=
  if o.dst.crcv && decide (gs.getLastD 0 + 1 ≥ o.dst.granules) then some o.dst.ecrc else none

/-- The check failure of a barrier object stops the stream: ECAUSE 4 (R127). -/
def objectStop (o : AsyncOp) (c : Chk) : Stop :=
  if c.ue then ⟨.hbmue, 4, 0x0C, 0, c.addr, o.bar⟩ else ⟨.chk, 4, c.site, c.syn, c.addr, o.bar⟩

/-- Deliver a piece to the issuing core's scratchpad or to memory. `x` is the place of its first granule. The bytes that have
left count in the write pointer and in the barrier object (R80, R127, R131); with the last byte undelivered no CRC is compared. -/
def State.deliverPiece (s : State) (core : Nat) (o : AsyncOp) (gs : List Nat) (x : Xlat) (us : List (GUnit × Option Nat)) : State :=
  let va0 := o.dst.granule (gs.headD 0)
  match s.deliverUnits core o ((gs.zip us).map fun e => (x.beside va0 (o.dst.granule e.1), e.2)) with
  | (n, s) =>
    let s := s.countBytes core o.crew o.chan (4 * n)
    let s := s.modOp core o.uid fun o => { o with g := o.g + gs.length }
    match o.bar with
    | none => s.finishOp core o.uid
    | some off =>
      if n = 0 then s.finishOp core o.uid
      else match s.objectArrive core o.crew off (unitBytes ((us.take n).map fun u => u.1)) (if n = gs.length then o.expect gs else none) with
        | (none, s) => s.finishOp core o.uid
        | (some c, s) => s.stopStream core o (objectStop o c)

/-- Send a multicast piece to every receiver (R132); PERM in the sender when it passes a receiver's allocation. -/
def State.sendPiece (s : State) (core : Nat) (o : AsyncOp) (k : Crew) (gs : List Nat) (us : List (GUnit × Option Nat)) : State :=
  let offs := gs.map fun i => o.dst.granule i - spadBase
  let rs := s.receivers core o.mask k.ctx k.node k.setNo
  match offs.find? fun off => rs.any fun r => decide (off ≥ r.2.2.decl.lines * 128) with
  | some off => s.endStream core o (faultStop o .perm (spadBase + off))
  | none =>
    let s := rs.foldl (fun s r => s.modCore r.1 fun c => { c with
      arrivals := c.arrivals ++ [⟨core, o.crew, o.uid, gs.headD 0, k.ctx, k.node, k.setNo, offs.zip us, o.bar, o.expect gs⟩] }) s
    (s.modOp core o.uid fun o => { o with
      g := o.g + gs.length
      pend := o.pend ++ rs.map fun r => (gs.headD 0, r.1, 4 * gs.length) }).finishOp core o.uid

/-- Where a piece's first granule goes: translated before the source is read; a multicast's receivers have their own places. -/
def State.pieceTo (s : State) (core : Nat) (o : AsyncOp) (k : Crew) : Eng Xlat × State :=
  if o.form = .mcast then (.ok (.spad 0), s) else s.engXlat core o k (o.dst.granule o.g) .engineWrite

/-- ENGINE_PIECE (R127, R300). -/
def execEnginePiece (s : State) : Res :=
  match s.arg with
  | .enginePiece core u =>
    match (s.core core).op? u with
    | none => .fault .notEnabled
    | some o =>
      match s.crew? core o.crew with
      | none => .fault .notEnabled
      | some k =>
        if !o.started ∨ o.wait.isSome ∨ o.dead.isSome ∨ o.g ≥ o.dst.granules then .fault .notEnabled
        else
          let gs := pieceOf o o.g
          match engThen (s.sourceOf core o k gs fun s => s.pieceTo core o k) fun r s =>
              engThen (s.transformed r.2.2.2 gs r.2.1 r.2.2.1) fun us s => (.ok (r.1, us, r.2.2.2), s) with
          | (.later, _) => .fault .notEnabled
          | (.wait r va, s) => .next (s.modOp core u fun o => { o with wait := some (r, va) })
          | (.stop st, s) => .next (s.endStream core o st)
          | (.ok (x, us, o'), s) =>
            let s := s.modOp core u fun o => { o with got := o'.got }
            if o.form = .mcast then .next (s.sendPiece core o k gs us)
            else .next (s.deliverPiece core o gs x us)
  | _ => .fault .noArg

/-! ### Multicast arrivals and remote writes -/

/-- The sender's side of an arrival: a byte counts once it is performed at every destination core (R131). -/
def State.performed (s : State) (a : Arrival) (core : Nat) : State :=
  match (s.core a.from_).op? a.op with
  | none => s
  | some o =>
    let rest := o.pend.filter fun x => !(x.1 == a.piece && x.2.1 == core)
    let s := s.modOp a.from_ a.op fun o => { o with pend := rest }
    if rest.any fun x => x.1 == a.piece then s else s.countBytes a.from_ a.crew o.chan (4 * a.units.length)

/-- An arrival has performed: a stop that waited for the last one takes effect, and an operation that has performed everything
leaves. -/
def State.arrived (s : State) (a : Arrival) (core : Nat) : State :=
  let s := s.performed a core
  match (s.core a.from_).op? a.op with
  | none => s
  | some o =>
    match o.dead with
    | some st => if o.pend.isEmpty then s.stopStream a.from_ o st else s
    | none => s.finishOp a.from_ a.op

/-- Write a multicast piece into a receiver's scratchpad, with the origins of its bad units (R62, R132). -/
def State.takePiece (s : State) (core crew : Nat) (l : List (Nat × GUnit × Option Nat)) : State :=
  l.foldl (fun s x => (s.spadPut core crew x.1 x.2.1).modCore core fun c => c.originNote crew (spadKey x.1) 0 x.2.1 x.2.2) s

/-- What is on its way to a core in a queue's place `i`, where nothing before it has to land first. -/
def landing (before : α → α → Bool) (l : List α) (i : Nat) : Option α :=
  l[i]?.bind fun a => if (l.take i).any fun b => before b a then none else some a

/-- Pieces of one operation land at a receiver in traversal order; those of different operations in any order (R132, R393). -/
def Arrival.before (a b : Arrival) : Bool := a.from_ == b.from_ && a.op == b.op

/-- Remote writes of one sending crew to one wave land in issue order (R134). -/
def Deposit.before (a b : Deposit) : Bool := a.from_ == b.from_ && a.crew == b.crew && a.slot == b.slot

/-- MULTICAST_ARRIVAL (R132, R364). A receiver that is no longer there takes nothing. A failed check of the receiver's object
stops the stream; the piece itself has been performed there, and counts (R131). -/
def execMulticastArrival (s : State) : Res :=
  match s.arg with
  | .multicastArrival core j =>
    match landing Arrival.before (s.core core).arrivals j with
    | none => .fault .notEnabled
    | some a =>
      let s := s.modCore core fun c => { c with arrivals := c.arrivals.eraseIdx j }
      match s.setMember core a.ctx a.node a.set_ with
      | none => .next (s.arrived a core)
      | some (i, _) =>
        let s := if a.from_ = core then s else s.modCrew core i fun k => { k with escaped := true }
        let s := s.takePiece core i a.units
        match a.bar with
        | none => .next (s.arrived a core)
        | some off =>
          match s.objectArrive core i off (unitBytes (a.units.map fun x => x.2.1)) a.last with
          | (none, s) => .next (s.arrived a core)
          | (some c, s) =>
            let s := s.performed a core
            match (s.core a.from_).op? a.op with
            | none => .next s
            | some o => .next (s.stopStream a.from_ o (objectStop o c))
  | _ => .fault .noArg

/-- A deposit in a wave's register (R134); the increments of a cycle count on top of a write of ARRIVE in it (R202). -/
def Wave.deposit (w : Wave) (reg : Nat) (units : Map GUnit) : Wave :=
  let w := units.foldl (fun w x => w.set (.v reg) x.1 x.2) w
  { w with arrive := w.arrive + 1, landed := w.landed + 1 }

/-- REMOTE_WRITE_DEPOSIT (R134, R135, R264, R364). -/
def execRemoteWriteDeposit (s : State) : Res :=
  match s.arg with
  | .remoteWriteDeposit core j =>
    match landing Deposit.before (s.core core).deposits j with
    | none => .fault .notEnabled
    | some d =>
      let s := s.modCore core fun c => { c with deposits := c.deposits.eraseIdx j }
      match s.setMember core d.ctx d.node d.set_, s.wave? core d.slot with
      | some (i, k), some w =>
        if w.crew ≠ i ∨ d.reg ≥ k.decl.vregs then .next s
        else
          let s := s.modCrew core i fun k => { k with escaped := true }
          let s := s.modWave core d.slot fun w => w.deposit d.reg d.units
          .next (d.units.foldl (fun s x => s.modCore core fun c => c.originFree d.slot d.reg x.1) s)
      | _, _ => .next s
  | _ => .fault .noArg

end Sys2Proof.Machine
end

