-- ==== Sys2Proof/Machine/XlatEv.lean ====
section
/-! DEFINITION. Steps of the translation unit (R33 to R51) and of the memory hierarchy (R73 to R95, R374): walks, fault
records and verdicts, invalidation, atomics at their units, fills and write-backs, growth records, conversions, fusion,
windows and frame wipes. -/

namespace Sys2Proof.Machine

/-! ### Registers of the translation unit -/

/-- Set a bit of XLERR (R50). -/
def State.xlerrSet (s : State) (i : Nat) : State := { s with sup := { s.sup with xlerr := s.sup.xlerr ||| (1#4 <<< i) } }

/-- BASE, LOG and EN of a ring register (R46, R88). -/
def ringBase (r : BitVec 64) : Nat := bvf r 12 36 * 4096
/-- The number of records of a ring. -/
def ringSize (r : BitVec 64) : Nat := 2 ^ bvf r 4 4
/-- The ring is enabled. -/
def ringOn (r : BitVec 64) : Bool := r.getLsbD 0
/-- A ring has room: WR − RD ≠ 2^LOG. -/
def ringRoom (r : BitVec 64) (rd wr : BitVec 32) : Bool := decide ((wr - rd).toNat ≠ ringSize r)

/-- A ring register after a write: LOG outside 4 to 12 and, where it has one, IRQ above 23 stay as they were (R8). -/
def ringWrite (old new : BitVec 64) (irq : Bool) : BitVec 64 :=
  let log := if 4 ≤ bvf new 4 4 ∧ bvf new 4 4 ≤ 12 then bvf new 4 4 else bvf old 4 4
  let iq := if !irq then 0 else if bvf new 48 5 ≤ 23 then bvf new 48 5 else bvf old 48 5
  BitVec.ofNat 64 (iq * 2 ^ 48 + bvf new 12 36 * 2 ^ 12 + log * 2 ^ 4 + bvf new 0 1)

/-- A write of RD would move it past WR (R46). -/
def pastWr (rd wr new : BitVec 32) : Bool := decide ((wr - new).toNat > (wr - rd).toNat)

/-- FRCFG_WRITE (R46). -/
def execFrcfgWrite (s : State) : Res :=
  match s.arg with
  | .frcfgWrite ctx v =>
    if s.inOwned (ringBase v) 0 then .next (s.modCtx ctx fun c => { c with frcfg := ringWrite c.frcfg v false })
    else .next (s.xlerrSet 3)
  | _ => .fault .noArg

/-- FRIDX_WRITE (R46). -/
def execFridxWrite (s : State) : Res :=
  match s.arg with
  | .fridxWrite ctx rd =>
    let c := s.ctx ctx
    if pastWr c.frRd c.frWr rd then .next (s.xlerrSet 2)
    else .next (s.modCtx ctx fun c => { c with frRd := rd, frIrq := false })
  | _ => .fault .noArg

/-! ### Walks and fault records -/

/-- PAGE_WALK (R38, R42): a walk of its own, which fills the buffers or ends. No access waits for it, so it opens no record: an
access that meets the same fault attaches itself (R44). -/
def execPageWalk (s : State) : Res :=
  match s.arg with
  | .pageWalk core ctx va acc =>
    let g : Agent := { unitAgent ctx with core := if core < 192 then core else 0xFFFF }
    if va.toNat ≥ 5 * 2 ^ 55 ∨ ctx ≥ 4096 then .fault .notEnabled
    else
      .next (s.translate g va.toNat acc).2
  | _ => .fault .noArg

/-- A fault record's bytes (R44). -/
def FaultRec.bytes (r : FaultRec) (seq : BitVec 32) : List Byte :=
  withCrc (leBytes r.va 8 ++ leBytes r.ctx 2 ++ leBytes r.core 2 ++ leBytes r.slot 1 ++ leBytes r.cond 1 ++
    leBytes r.access.code 1 ++ leBytes r.level 1 ++ leBytes r.attached.length 4 ++ leBytes seq.toNat 4 ++ leBytes 0 4)

/-- FAULT_RECORD_WRITE (R44, R46). The spec gives a context's first sequence number no value: the model counts from 0, and on
over a ring's lifetimes (DESIGN CHOICE, log 87). -/
def execFaultRecordWrite (s : State) : Res :=
  match s.arg with
  | .faultRecordWrite uid =>
    match s.recs.find? fun r => r.uid == uid && r.seq.isNone with
    | none => .fault .notEnabled
    | some r =>
      let c := s.ctx r.ctx
      if !(ringOn c.frcfg && ringRoom c.frcfg c.frRd c.frWr) then .fault .notEnabled
      else
        let s := s.homePuts (ringBase c.frcfg + 32 * (c.frWr.toNat % ringSize c.frcfg)) (codedBytes (r.bytes c.replaySeq))
        let s := { s with recs := s.recs.map fun (x : FaultRec) => if x.uid == uid then { x with seq := some c.replaySeq } else x }
        let s := if c.frIrq then s else s.irq c.irq 0
        .next (s.modCtx r.ctx fun c => { c with frWr := c.frWr + 1, replaySeq := c.replaySeq + 1, frIrq := true })
  | _ => .fault .noArg

/-- The open record that a write of REPLAY answers (R47). -/
def State.answered (s : State) (ctx : Nat) (res : BitVec 30) (seq : BitVec 32) : Option FaultRec :=
  if res ≠ 0 then none else s.recs.find? fun r => r.ctx == ctx && r.seq == some seq

/-- Close a record. -/
def State.closeRec (s : State) (uid : Nat) : State := { s with recs := s.recs.filter fun r => r.uid != uid }

/-- Threads held on a record. -/
def Hold.onRec (h : Hold) (uid : Nat) : Option Nat :=
  match h with
  | .replay u va => if u == uid then some va else none
  | _ => none

/-- Where the threads held on a record stand: the PCs of their pods. -/
def Wave.heldPcs (w : Wave) (uid : Nat) : List VAddr :=
  w.threads.filterMap fun e => if (e.2.hold.onRec uid).isSome then some e.2.pc else none

/-- A thread waits for a translation. -/
def Hold.translating (h : Hold) : Bool :=
  match h with
  | .replay _ _ => true
  | _ => false

/-- What a thread waits for once a record that holds it is answered: another record that a lane of its pod waits on, or nothing. -/
def Wave.stillHeld (w : Wave) (uid : Nat) (pc : VAddr) : Hold :=
  (w.threads.findSome? fun e =>
    if e.2.pc == pc && e.2.hold.translating && (e.2.hold.onRec uid).isNone then some e.2.hold else none).getD .ready

/-- The accesses held on a record are made again (R45). An instruction issues in all its lanes at once: a pod that waits on
another record too goes on waiting there, and stays attached there, until that one is answered. -/
def Wave.retry (w : Wave) (uid : Nat) : Wave :=
  { w with threads := w.threads.mapAll fun _ t =>
    if (t.hold.onRec uid).isSome then { t with hold := w.stillHeld uid t.pc } else t }

/-- RETRY (R45): every attached access is made again from a fresh walk. -/
def State.retryRec (s : State) (r : FaultRec) : State :=
  let s := s.tlbDropPage r.ctx r.page
  let s := { s with
    cores := s.cores.mapAll fun _ k => { k with
      waves := k.waves.mapAll fun _ w => w.retry r.uid
      ops := k.ops.map fun (o : AsyncOp) => if o.wait.any fun (x : Nat × Nat) => x.1 == r.uid then { o with wait := none } else o }
    hazel := { s.hazel with held := s.hazel.held.filter fun h => h.uid != r.uid } }
  s.closeRec r.uid

/-- The attached pods (R45): core, slot, the lowest of the pod's lanes whose access faulted, PC and address. -/
def State.attachedPods (s : State) (r : FaultRec) : List (Nat × Nat × Nat × VAddr × Nat) :=
  s.cores.flatMap fun c => c.2.waves.flatMap fun w =>
    (w.2.heldPcs r.uid).eraseDups.filterMap fun pc =>
      w.2.threads.findSome? fun t =>
        if t.2.pc = pc ∧ r.attached.contains (c.1, w.1, t.1) then (t.2.hold.onRec r.uid).map fun va => (c.1, w.1, t.1, pc, va)
        else none

/-- FATAL (R45): PAGE at each attached instruction; a stream stops (R39), a unit's access fails (R337, R340). -/
def State.fatalRec (s : State) (r : FaultRec) : State :=
  let s := (s.attachedPods r).foldl (fun s x =>
    match s.wave? x.1 x.2.1 with
    | none => s
    | some w =>
      match s.crew? x.1 w.crew with
      | none => s
      | some k => s.deliver ⟨x.1, x.2.1, [x.2.2.1], x.2.2.2.1, 0, 4, none⟩ w k .page x.2.2.1 x.2.2.2.2) s
  let ops := s.cores.flatMap fun c => (c.2.ops.filter fun o => o.wait.any fun x => x.1 == r.uid).map fun o => (c.1, o)
  let s := ops.foldl (fun s x => s.endStream x.1 x.2 (faultStop x.2 .page ((x.2.wait.map fun w => w.2).getD 0))) s
  let s := { s with hazel := { s.hazel with
    held := s.hazel.held.map fun (h : UnitWait) => if h.uid == r.uid then { h with fatal := true } else h } }
  s.closeRec r.uid

/-- REPLAY_RETRY (R47). -/
def execReplayRetry (s : State) : Res :=
  match s.arg with
  | .replayRetry ctx res seq =>
    match s.answered ctx res seq with
    | none => .next (s.xlerrSet 1)
    | some r => .next (s.retryRec r)
  | _ => .fault .noArg

/-- REPLAY_FATAL (R47). -/
def execReplayFatal (s : State) : Res :=
  match s.arg with
  | .replayFatal ctx res seq =>
    match s.answered ctx res seq with
    | none => .next (s.xlerrSet 1)
    | some r => .next (s.fatalRec r)
  | _ => .fault .noArg

/-- REPLAY_REFUSED (R47). VERDICT 0b00 or 0b11. -/
def execReplayRefused (s : State) : Res :=
  match s.arg with
  | .replayRefused _ v => allow (bvf v 62 2 == 0 || bvf v 62 2 == 3) (s.xlerrSet 1)
  | _ => .fault .noArg

/-! ### Invalidation -/

/-- XLINVA_WRITE (R50). -/
def execXlinvaWrite (s : State) : Res :=
  match s.arg with
  | .xlinvaWrite v =>
    if s.sup.xlinvc.isSome then .next s
    else if bvf v 58 6 ≠ 0 ∨ bvf v 0 14 ≠ 0 then .next (s.xlerrSet 0)
    else .next { s with sup := { s.sup with xlinva := v } }
  | _ => .fault .noArg

/-- A write of XLINVC (R49, R51). -/
def State.xlinvc (s : State) (v : BitVec 64) : State :=
  if s.sup.xlinvc.isSome then s
  else if bvf v 48 4 ≠ 0 ∨ bvf v 1 43 ≠ 0 then s.xlerrSet 0
  else { s with sup := { s.sup with xlinvc := some v } }

/-- XLINV_PAGE (R49). -/
def execXlinvPage (s : State) : Res :=
  match s.arg with
  | .xlinvPage v => allow (!v.getLsbD 45) (s.xlinvc v)
  | _ => .fault .noArg

/-- XLINV_ALL (R49). -/
def execXlinvAll (s : State) : Res :=
  match s.arg with
  | .xlinvAll v => allow (v.getLsbD 45) (s.xlinvc v)
  | _ => .fault .noArg

/-- A buffer entry that a command removes (R49, R50). -/
def TlbEntry.matched (e : TlbEntry) (cmd va : BitVec 64) : Bool :=
  let size := bvf cmd 46 2
  e.ctx == bvf cmd 52 12 && e.text.isSome == cmd.getLsbD 44 &&
  (cmd.getLsbD 45 || ((size == 3 || e.size == ([2 ^ 14, 2 ^ 25, 2 ^ 36].getD size 0)) && e.va / e.size == va.toNat / e.size))

/-- XLINV_COMPLETE (R51). Accesses translated through a removed entry have performed: every dirty L1 granule of the
context goes home. Between the write of XLINVC and this step an access may use the old translation or the new one (R51): the
model's accesses use the buffered one as long as it stands (DESIGN CHOICE, log 88). -/
def execXlinvComplete (s : State) : Res :=
  match s.arg with
  | .xlinvComplete =>
    match s.sup.xlinvc with
    | none => .fault .notEnabled
    | some cmd =>
      let keep (l : List TlbEntry) : List TlbEntry := l.filter fun e => !e.matched cmd s.sup.xlinva
      let s := s.cores.foldl (fun s c => (s.linesOf c.1 (bvf cmd 52 12) none).foldl (fun s l => s.l1Back c.1 l) s) s
      .next { s with
        cores := s.cores.mapAll fun _ c => { c with tlb := keep c.tlb }
        clusters := s.clusters.mapAll fun _ c => { c with tlb := keep c.tlb }
        dies := s.dies.mapAll fun _ d => { d with tlb := keep d.tlb }
        sup := { s.sup with xlinvc := none } }
  | _ => .fault .noArg

/-! ### Home slices and far atomic units -/

/-- The walker's swap of A and D (R35, R76): nothing when the entry is no longer the expected one. -/
def State.swapAD (s : State) (pa : Nat) (expected : BitVec 64) (dirty : Bool) : State :=
  match s.homeGets pa 2 with
  | (us, s) =>
    if (us.getD 1 .zero).data ++ (us.getD 0 .zero).data = expected then (s.setAD pa expected.toNat dirty).2 else s

/-- HOME_ATOMIC (R76). -/
def execHomeAtomic (s : State) : Res :=
  match s.arg with
  | .homeAtomic pa req =>
    if pa ≥ hbmSize then .fault .notEnabled
    else match req with
      | .atom op operand => allow (pa % (4 * op.words) == 0 && operand.length == op.operands) (s.homeAtomic pa op operand).2
      | .setAD e d => allow (pa % 8 == 0) (s.swapAD pa e d)
      | .poison => allow (pa % 4 == 0) (s.poisonHome pa)
  | _ => .fault .noArg

/-- FAR_ATOMIC (R65, R77, R78). The swap of A and D is the home slice's. A request waits while its home slice cannot write the
line back (R77, R86). -/
def execFarAtomic (s : State) : Res :=
  match s.arg with
  | .farAtomic pa req =>
    if pa ≥ hbmSize then .fault .notEnabled
    else match req with
      | .atom op operand =>
        match s.farAtomic pa op operand with
        | (.later, _) => .fault .notEnabled
        | (_, t) => allow (pa % (4 * op.words) == 0 && operand.length == op.operands) t
      | .setAD _ _ => .fault .notEnabled
      | .poison =>
        match s.poisonFar pa with
        | none => .fault .notEnabled
        | some t => allow (pa % 4 == 0) t
  | _ => .fault .noArg

/-- L2_FILL (R75, R81, R85, R93). `cz` is the CZ bit of the page that the access names, where it names one. -/
def execL2Fill (s : State) : Res :=
  match s.arg with
  | .l2Fill line cz => allow (decide (line < hbmSize / 128) && (s.l2.find line).isNone) (s.l2Fill line cz)
  | _ => .fault .noArg

/-- L2_WRITEBACK (R75, R85). A write-back that needs an overflow entry waits while none is free (R86). -/
def execL2Writeback (s : State) : Res :=
  match s.arg with
  | .l2Writeback line =>
    if (s.l2.find line).elim true fun l => l.dirty == 0 then .fault .notEnabled
    else match s.l2Back line with
      | none => .fault .notEnabled
      | some s => .next s
  | _ => .fault .noArg

/-! ### Growth records and conversions -/

/-- A growth record's bytes (R87). -/
def growthBytes (ctl entry : Nat) (p : Parked) (allot : Nat) (seq : BitVec 32) : List Byte :=
  withCrc (leBytes (p.block * 2048) 8 ++ leBytes p.need 1 ++ leBytes allot 1 ++ leBytes ctl 1 ++ leBytes entry 1 ++
    leBytes seq.toNat 4 ++ leBytes 0 12)

/-- GROWTH_RECORD_APPEND (R86 to R88). The spec gives a controller's first sequence number no value: the model counts from 0
(DESIGN CHOICE, log 87). -/
def execGrowthRecordAppend (s : State) : Res :=
  match s.arg with
  | .growthRecordAppend n i =>
    match (s.ctl n).overflow.find i with
    | none => .fault .notEnabled
    | some p =>
      let u := s.sup
      if !(p.pending && ringOn u.grcfg && ringRoom u.grcfg u.grRd u.grWr) then .fault .notEnabled
      else
        let bs := growthBytes n i p (metaAllot (s.metaOf p.block)) (s.ctl n).seq
        let s := s.homePuts (ringBase u.grcfg + 32 * (u.grWr.toNat % ringSize u.grcfg)) (codedBytes bs)
        let s := s.modCtl n fun c => { c with seq := c.seq + 1, overflow := c.overflow.alter i fun p => { p with pending := false } }
        let s := if u.grIrq then s else s.irq (bvf u.grcfg 48 5) 1
        .next { s with sup := { s.sup with grWr := u.grWr + 1, grIrq := true } }
  | _ => .fault .noArg

/-- GRCFG_WRITE (R88). -/
def execGrcfgWrite (s : State) : Res :=
  match s.arg with
  | .grcfgWrite v =>
    if s.inOwned (ringBase v) 0 then .next { s with sup := { s.sup with grcfg := ringWrite s.sup.grcfg v true } }
    else .next { s with sup := { s.sup with grErr := s.sup.grErr ||| 2#2 } }
  | _ => .fault .noArg

/-- GRIDX_WRITE (R88). -/
def execGridxWrite (s : State) : Res :=
  match s.arg with
  | .gridxWrite rd =>
    if pastWr s.sup.grRd s.sup.grWr rd then .next { s with sup := { s.sup with grErr := s.sup.grErr ||| 1#2 } }
    else .next { s with sup := { s.sup with grRd := rd, grIrq := false } }
  | _ => .fault .noArg

/-- Convert a block to an allotment (R84, R86, R89): a parked block keeps the new ALLOT; none while no overflow entry is
free. The controller tells Osmium of bad metadata (R81, R82). What becomes of a block that does not decode, or of a unit that the
stack marks, is the model's choice: zero units take their place and the marks are lost (DESIGN CHOICE, log 77). -/
def State.convertBlock (s : State) (blk allot : Nat) : Option State :=
  let s := (s.metaTouch blk).metaTell blk
  (s.blockWrite blk allot (s.blockUnits blk)).map fun s =>
    if (s.parked? blk).isSome then s.setMeta blk 0 allot else s

/-- CZCMD (R89). BUSY stays set until the conversion, which is one step (R85): CZCMD_COMPLETE. -/
def execCzcmd (s : State) : Res :=
  match s.arg with
  | .czcmd n v =>
    let allot := bvf v 60 4
    let pa := bvf v 11 37 * 2048
    if allot > 8 ∨ bvf v 48 12 ≠ 0 ∨ bvf v 1 10 ≠ 0 ∨ pa ≥ hbmSize ∨ ctlOfPa pa ≠ n ∨ (s.ctl n).czcmd.isSome then
      .next (s.modCtl n fun c => { c with czerr := true })
    else .next (s.modCtl n fun c => { c with czcmd := some (pa / 2048, allot) })
  | _ => .fault .noArg

/-- CZCMD_COMPLETE (R89). -/
def execCzcmdComplete (s : State) : Res :=
  match s.arg with
  | .czcmdComplete n =>
    match (s.ctl n).czcmd with
    | none => .fault .notEnabled
    | some (blk, allot) =>
      match s.convertBlock blk allot with
      | none => .fault .notEnabled
      | some s => .next (s.modCtl n fun c => { c with czcmd := none })
  | _ => .fault .noArg

/-! ### Fusion -/

/-- The first command on its way to an Acorn (R335). -/
def State.headDown (s : State) (cl : Nat) : Option Cmd := (s.cluster cl).down.flight.head?

/-- The Acorn consumes it. -/
def State.consumeDown (s : State) (cl : Nat) : State := s.modCluster cl fun c => { c with down := c.down.consume }

/-- Write back and invalidate the L1s of a cluster, and set its fusion (R73). -/
def State.setFused (s : State) (cl : Nat) (b : Bool) : State :=
  ((span (cl * 4) 4).foldl State.l1Flush s).modCluster cl fun c => { c with fused := b }

/-- The contexts of the crews on a cluster. -/
def State.clusterCtxs (s : State) (cl : Nat) : List Nat :=
  ((span (cl * 4) 4).flatMap fun c => (s.core c).crews.map fun e => e.2.ctx).eraseDups

/-- FUSE (R73). Crews of several contexts leave the cluster unfused. -/
def execFuse (s : State) : Res :=
  match s.arg with
  | .fuse cl =>
    match s.headDown cl with
    | some .fuse =>
      let s := s.consumeDown cl
      .next (if (s.clusterCtxs cl).length ≤ 1 ∧ !(s.cluster cl).fused then s.setFused cl true else s)
    | _ => .fault .notEnabled
  | _ => .fault .noArg

/-- UNFUSE (R73). -/
def execUnfuse (s : State) : Res :=
  match s.arg with
  | .unfuse cl =>
    match s.headDown cl with
    | some .unfuse =>
      let s := s.consumeDown cl
      .next (if (s.cluster cl).fused then s.setFused cl false else s)
    | _ => .fault .notEnabled
  | _ => .fault .noArg

/-! ### Windows and frames -/

/-- The three registers of a window. -/
def Window.triple (w : Window) : BitVec 64 × BitVec 64 × BitVec 64 := (w.a, w.l, w.s)

/-- WINAn as a write leaves it: reserved bits zero, reserved FMT and BLK values unchanged (R8, R91). -/
def winA (old new : BitVec 64) : BitVec 64 :=
  let f := if bvf new 60 3 ≤ 3 then bvf new 60 3 else bvf old 60 3
  BitVec.ofNat 64 (bvf new 63 1 * 2 ^ 63 + f * 2 ^ 60 + bvf new 48 12 * 2 ^ 48 + bvf new 11 37 * 2 ^ 11)

/-- WINDOW_REGISTER_WRITE (R91, R94). -/
def execWindowRegisterWrite (s : State) : Res :=
  match s.arg with
  | .windowRegisterWrite d n r v =>
    if d ≥ 4 ∨ n ≥ 32 then .fault .notEnabled
    else
      let w := (s.die d).win.getD n .empty
      let t := w.next.getD w.triple
      let t := match r with
        | .a => (winA t.1 v, t.2)
        | .l => (t.1, BitVec.ofNat 64 (bvf v 11 37 * 2 ^ 11), t.2.2)
        | .s => (t.1, t.2.1, BitVec.ofNat 64 (bvf v 7 41 * 2 ^ 7))
      .next (s.modDie d fun x => { x with win := x.win.set n { w with next := some t } })
  | _ => .fault .noArg

/-- The lines that a window change writes back and drops (R94). -/
def State.windowLines (s : State) (d n : Nat) (w : Window) : List Nat :=
  (s.l2.filter fun e => dieOfPa (e.1 * 128) == d &&
    (e.2.win == some n || (decide (w.base ≤ e.1 / 16) && decide (e.1 / 16 ≤ w.last)))).map fun e => e.1

/-- WINDOW_CHANGE_COMPLETE (R94). A write-back that must wait (R86) keeps the write from completing. -/
def execWindowChangeComplete (s : State) : Res :=
  match s.arg with
  | .windowChangeComplete d n =>
    match ((s.die d).win.find n).bind fun w => w.next with
    | none => .fault .notEnabled
    | some (a, l, sc) =>
      let w : Window := ⟨a, l, sc, none⟩
      let lines := s.windowLines d n w
      let s := lines.foldl State.l2Evict s
      if lines.any fun x => (s.l2.find x).isSome then .fault .notEnabled
      else .next (s.modDie d fun x => { x with win := x.win.set n w })
  | _ => .fault .noArg

/-- Zero the units of a plain block (R376). -/
def State.zeroBlock (s : State) (blk : Nat) : State :=
  let out (lo n : Nat) (i : Nat) : Bool := decide (i < lo) || decide (i ≥ lo + n)
  { s with
    mem := s.mem.filter fun c => out (blk * 2048) 2048 c.1
    side := s.side.filter fun c => out (blk * 512) 512 c.1
    marks := s.marks.filter (out (blk * 512) 512) }

/-- What of a byte range lies outside another. -/
def cutRange (lo n : Nat) (r : Nat × Nat) : List (Nat × Nat) :=
  let a := r.1
  let b := r.1 + r.2
  if b ≤ lo ∨ lo + n ≤ a then [r]
  else (if a < lo then [(a, lo - a)] else []) ++ (if lo + n < b then [(lo + n, b - (lo + n))] else [])

/-- A range is wiped: it no longer counts as returned (R374). -/
def State.wiped (s : State) (lo n : Nat) : State :=
  { s with osm := { s.osm with returned := s.osm.returned.flatMap (cutRange lo n) } }

/-- Drop every copy of a range of lines in the L1s and the instruction caches, and the metadata lines that lie there: what a
frame held before its wipe is nowhere read again (R374, R380; log 89). -/
def State.dropCopies (s : State) (lo n : Nat) : State :=
  let out (unit a : Nat) : Bool := decide (a * unit < lo) || decide (a * unit ≥ lo + n)
  { s with
    cores := s.cores.mapAll fun _ k => { k with
      l1 := k.l1.filter fun e => out 128 e.1
      icache := k.icache.filter fun e => out 4 e.1 }
    ctls := s.ctls.mapAll fun _ c => { c with mcache := c.mcache.filter fun e => out 64 e.1 } }

/-- Wipe one block of a frame (R95): ALLOT is kept, an overflow entry is freed, cached copies and poison are gone. A block
whose metadata granule fails its check is wiped as a plain block. -/
def State.wipeBlock (s : State) (blk : Nat) : State :=
  let s := { s with l2 := s.l2.filter fun e => e.1 / 16 != blk }
  let s := s.modDie (dieOfPa (blk * 2048)) fun d => { d with poison := d.poison.filter fun a => a / 2048 != blk }
  let s := (s.dropCopies (blk * 2048) 2048).wiped (blk * 2048) 2048
  if s.coded? blk then (s.unpark blk).setMeta blk 0 (metaAllot (s.metaOf blk)) else s.zeroBlock blk

/-- FRAME_WIPE (R95, R374). -/
def execFrameWipe (s : State) : Res :=
  match s.arg with
  | .frameWipe pa => allow (decide (pa < hbmSize) && pa % 16384 == 0) ((span (pa / 2048) 8).foldl State.wipeBlock s)
  | _ => .fault .noArg

end Sys2Proof.Machine
end

