-- ==== Sys2Proof/Machine/Board.lean ====
section
/-! DEFINITION. The board side and the firmware: power and clocks (R20 to R25), the management port (R375 to R379),
memory scrub (R371), what Osmium installs (R40, R41, R92, R319, R374, R381 to R384), registers without a row of their own
(R7), and accesses from outside the cores (R20, R116, R120, R373). -/

namespace Sys2Proof.Machine

/-! ### Power and clocks -/

/-- Every SRAM, register, granule and metadata byte wiped (R8, R376). What leaves the package, the fuses, the board's
progress and the model's own fields are not the device's memory. -/
def State.wipe (s : State) : State :=
  { State.reset with
    out := s.out, agenda := s.agenda, arg := s.arg, free := s.free, stamp := s.stamp, cycle := s.cycle
    board := { s.board with wiping := true } }

/-- A power-up or a loss of power: nothing in the package holds state but the fuses (R24, R375). A condemned core comes back
into placement with it, although R25 names only the next life-cycle change: R24 leaves nothing that could remember the
condemnation (DESIGN CHOICE, log 92). -/
def State.coldReset (s : State) (power : Bool) (b : Boot) : State :=
  { s.wipe with
    cycle := 0
    board := { State.reset.board with power := power, boot := b, life := s.board.life, fuses := s.board.fuses, keys := s.board.keys } }

/-- POWER_ON (R24, R376). -/
def execPowerOn (s : State) : Res :=
  match s.arg with
  | .powerOn => allow (!s.board.power) (s.coldReset true .waitWake)
  | _ => .fault .noArg

/-- POWER_LOSS (R24). -/
def execPowerLoss (s : State) : Res :=
  match s.arg with
  | .powerLoss => allow s.board.power (s.coldReset false .waitWake)
  | _ => .fault .noArg

/-- CLOCK_STEP_DOWN (R23): package power in milliwatts over 1 ms, the hottest junction in °C. -/
def execClockStepDown (s : State) : Res :=
  match s.arg with
  | .clockStepDown d mw c =>
    allow (decide (d < 4) && (decide (mw > 1800000) || decide (c > 105)) && decide ((s.die d).mhz > 1000))
      (s.setClock d ((s.die d).mhz - 100))
  | _ => .fault .noArg

/-- CLOCK_STEP_UP (R23). -/
def execClockStepUp (s : State) : Res :=
  match s.arg with
  | .clockStepUp d ms =>
    allow (decide (d < 4) && decide (ms ≥ 10) && decide ((s.die d).mhz < 2500)) (s.setClock d ((s.die d).mhz + 100))
  | _ => .fault .noArg

/-- THERMAL_TRIP (R23, R379): the frame, then the device stops with all state lost. -/
def execThermalTrip (s : State) : Res :=
  match s.arg with
  | .thermalTrip d c =>
    allow (decide (d < 4) && decide (c ≥ 115) && s.board.power && decide (s.board.boot ≠ .off))
      ((s.frame (.trip d c s.time)).coldReset true .off)
  | _ => .fault .noArg

/-! ### The management port -/

/-- The device runs: power is on and no trip stopped it (R23, R24). -/
def State.alive (s : State) : Bool := s.board.power && decide (s.board.boot ≠ .off)

/-- A frame is for this device: its MAC address, and the port's EtherType (R379). -/
def hdrOurs (h : Hdr) : Bool := h.dst == Config.mac Config.serial && h.etype == 0x88B5#16

/-- A STATUS answer (R379). Sensor readings are free values (log 8). -/
def State.statusFrame (s : State) (seq : BitVec 32) : State :=
  match s.freeWord with
  | (t0, s) => match s.freeWord with
    | (t1, s) => match s.freeWord with
      | (t2, s) => match s.freeWord with
        | (t3, s) => match s.freeWord with
          | (w, s) =>
            s.frame (.status seq s.board.life s.board.boot [t0, t1, t2, t3] w
              ((span 0 8).map fun n => ((s.ctl n).corr, (s.ctl n).uncorr))
              (s.board.images.filterMap fun e => e.2.checked.map fun b => (e.1, b)))

/-- STATUS (R379), also while a wipe runs (R376). -/
def execStatus (s : State) : Res :=
  match s.arg with
  | .status h => allow s.alive (if hdrOurs h then s.statusFrame h.seq else s)
  | _ => .fault .noArg

/-- A frame other than STATUS is answered after the wipe (R376, R385); a frame to another address is dropped (R379). -/
def State.onPort (s : State) (h : Hdr) (t : State) : Res :=
  if hdrOurs h then allow (s.alive && !s.board.wiping) t else allow s.alive s

/-- The number of an image, in the order of R377. -/
def imageNo : ImageKind → Nat
  | .osmium => 0
  | .pewter => 1
  | .controlOs => 2

/-- An image as kept. -/
def State.image (s : State) (i : Nat) : Image := s.board.images.getD i ⟨[], 0, false, none, none, 0⟩

/-- An image's signature verifies under the key that its check uses (R377): the vendor key for Osmium, and for the others the
owner key in DEPLOYED and the vendor key elsewhere. -/
def State.imageOk (s : State) (i : Nat) : Bool :=
  match (s.image i).signer with
  | some .vendor => i == 0 || decide (s.board.life ≠ .deployed)
  | some .owner => i != 0 && decide (s.board.life = .deployed) && s.board.keys.contains .owner
  | none => false

/-- Check an image that is whole and not yet checked, and measure it (R377). -/
def State.checkImage (s : State) (i : Nat) : State :=
  let m := s.image i
  if m.whole ∧ m.checked = none then
    { s with board := { s.board with
      images := s.board.images.set i { m with checked := some (s.imageOk i), measure := Config.sha384 m.bytes } } }
  else s

/-- What boot does next (R377): after WAKE the boot ROM checks the Osmium image and runs it, and Osmium then checks the
others. -/
def State.boots (s : State) : State :=
  let s := if s.board.boot = .waitWake then s else s.checkImage 0
  let s := if s.board.boot = .boot ∧ (s.image 0).checked = some true then { s with board := { s.board with boot := .run } } else s
  if s.board.boot = .run then (s.checkImage 1).checkImage 2 else s

/-- An image runs: Osmium does, and this image passed its check (R377). -/
def State.runsImage (s : State) (i : Nat) : Bool := decide (s.board.boot = .run) && (s.image i).checked == some true

/-- A frame that asks Osmium for something: it is answered with STATUS and starts nothing until Osmium's image has passed its check
and runs (R377; DESIGN CHOICE, log 112). -/
def State.osmiumOnPort (s : State) (h : Hdr) (t : State) : Res :=
  s.onPort h (if s.runsImage 0 then t else s.statusFrame h.seq)

/-- WAKE (R24, R32, R377, R379). -/
def execWake (s : State) : Res :=
  match s.arg with
  | .wake h body =>
    match body with
    | [n] =>
      if n.toNat > 63 then s.onPort h (s.statusFrame h.seq)
      else
        let t := if s.board.boot = .waitWake then
            ({ s with board := { s.board with boot := .boot, domain := n.toNat } }).boots
          else s
        s.onPort h (t.frame (.reply 0x0001 h.seq))
    | _ => s.onPort h (s.statusFrame h.seq)
  | _ => .fault .noArg

/-- IMAGE (R377, R379). Chunks are taken in number order, chunk 0 starts afresh, and the last one makes the image whole; a
chunk of an image that runs is only answered (DESIGN CHOICE, log 90). The key under which the whole image's signature verifies
is the input `signer` (log 10). -/
def execImage (s : State) : Res :=
  match s.arg with
  | .image h kind chunk bytes last signer =>
    let i := imageNo kind
    let old := if chunk = 0 then ⟨[], 0, false, none, none, 0⟩ else s.image i
    let t :=
      if chunk ≠ old.next ∨ old.whole ∨ s.runsImage i then s
      else
        let new : Image := ⟨old.bytes ++ bytes, chunk + 1, last, if last then signer else none, none, 0⟩
        ({ s with board := { s.board with images := s.board.images.set i new } }).boots
    s.onPort h (t.frame (.reply 0x0003 h.seq))
  | _ => .fault .noArg

/-- WIPE_COMPLETE (R376). -/
def execWipeComplete (s : State) : Res :=
  match s.arg with
  | .wipeComplete => allow (s.board.power && s.board.wiping) { s with board := { s.board with wiping := false } }
  | _ => .fault .noArg

/-- The life-cycle state's number (R375, R378). -/
def lifeNo : LifeCycle → Nat
  | .manufacture => 0
  | .provisioned => 1
  | .deployed => 2
  | .returned => 3

/-- The bytes of a set of bits, bit 0 first. -/
def setBytes (l : List Nat) (n : Nat) : List Byte :=
  (span 0 n).map fun i => BitVec.ofNat 8 (((span 0 8).map fun b => if l.contains (8 * i + b) then 2 ^ b else 0).foldl (· + ·) 0)

/-- A context's firewall entries in ascending region: of its own, and shared with its group (R378). -/
def State.firewallBytes (s : State) (ctx : Nat) : List Byte :=
  (s.osm.firewall.filter fun e =>
    (fwKind e.2 == 1 || fwKind e.2 == 2) && fwOwner e.2 == ctx || fwKind e.2 == 3 && fwOwner e.2 == (s.ctx ctx).group).flatMap
      fun e => leBytes e.2.toNat 2

/-- Bytes 0 to 335 of an attestation report (R378). -/
def State.attestBytes (s : State) (ctx : Nat) (nonce : BitVec 256) : List Byte :=
  let c := s.ctx ctx
  let sealed : Nat := match c.sealed with
    | some (g, t) => g.toNat + 2 ^ 24 * t.toNat
    | none => 0
  leBytes 0x4E4C4154 4 ++ leBytes 1 2 ++ leBytes (lifeNo s.board.life) 1 ++ leBytes (if c.sealed.isSome then 1 else 0) 1 ++
  leBytes nonce.toNat 32 ++ leBytes Config.serial.toNat 16 ++
  leBytes (s.image 0).measure.toNat 48 ++ leBytes (s.image 1).measure.toNat 48 ++ leBytes (s.image 2).measure.toNat 48 ++
  leBytes ctx 2 ++ leBytes c.group 2 ++ leBytes 0 4 ++ setBytes c.partition 24 ++ leBytes sealed 8 ++
  leBytes c.measure.toNat 48 ++ leBytes (Config.sha384 (s.firewallBytes ctx)).toNat 48

/-- ATTEST (R378, R379): the report of context 0, signed over bytes 0 to 335 (log 10). Where the device holds no attestation
key (R375) nothing can sign a report: the answer carries none (DESIGN CHOICE, log 91). -/
def execAttest (s : State) : Res :=
  match s.arg with
  | .attest h nonce =>
    let b := s.attestBytes 0 nonce
    s.osmiumOnPort h (s.frame (.attest h.seq (if s.board.keys.contains .attest then b ++ leBytes (Config.signature b).toNat 96 else [])))
  | _ => .fault .noArg

/-- UNKNOWN_FRAME_TYPE (R379). -/
def execUnknownFrameType (s : State) : Res :=
  match s.arg with
  | .unknownFrameType h ty =>
    if 1 ≤ ty.toNat ∧ ty.toNat ≤ 6 then .fault .notEnabled else s.onPort h (s.frame (.reply 0x00FF h.seq))
  | _ => .fault .noArg

/-! ### Scrub -/

/-- SCRUB (R371, R55): words corrected, and the granules of the stack left marked. -/
def execScrub (s : State) : Res :=
  match s.arg with
  | .scrub n corrected bad =>
    if n ≥ 8 ∨ bad.any (fun a => decide (a ≥ hbmSize) || ctlOfPa a != n) then .fault .notEnabled
    else
      .next ({ s with marks := (bad.map fun a => a / 4).foldl (fun m g => if m.contains g then m else g :: m) s.marks }.modCtl n
        fun c => { c with
          newCorr := c.newCorr + corrected
          newUncorr := c.newUncorr + bad.length
          newLast := match bad.getLast? with | some a => (Config.stackRow a).toNat | none => c.newLast })
  | _ => .fault .noArg

/-- SCRUB_COUNT_UPDATE (R371): the counts saturate; a change of UNCORR is reported to Pewter. -/
def execScrubCountUpdate (s : State) : Res :=
  match s.arg with
  | .scrubCountUpdate n =>
    if n ≥ 8 then .fault .notEnabled
    else
      let c := s.ctl n
      let u := min 65535 (c.uncorr + c.newUncorr)
      let s := s.modCtl n fun c => { c with
        corr := min 65535 (c.corr + c.newCorr), uncorr := u, lastu := c.newLast, newCorr := 0, newUncorr := 0 }
      .next (if u = c.uncorr then s else s.toPewter (.uncorr n u))
  | _ => .fault .noArg

/-- ECSCNT_CLEAR (R371). -/
def execEcscntClear (s : State) : Res :=
  match s.arg with
  | .ecscntClear n =>
    if n ≥ 8 then .fault .notEnabled
    else
      let t := s.modCtl n fun c => { c with corr := 0, uncorr := 0 }
      .next (if (s.ctl n).uncorr = 0 then t else t.toPewter (.uncorr n 0))
  | _ => .fault .noArg

/-! ### What Osmium installs -/

/-- Osmium refuses a request: it tells Pewter and changes nothing (R372). -/
def State.refuse (s : State) : State := s.toPewter .refusedRequest

/-- A granted request, or its refusal. -/
def State.request (s : State) (ok : Bool) (t : State) : Res := .next (if ok then t else s.refuse)

/-- Contexts may be installed (R375, R376). -/
def State.contextsOk (s : State) : Bool :=
  !s.board.wiping && (match s.board.life with | .provisioned | .deployed => true | _ => false)

/-- A descriptor's roots, PRIVSZ and reserved bytes (R41). -/
def State.descOk (s : State) (ctx : Nat) (d : BitVec 512) : Bool :=
  let c : Ctx := { Ctx.empty with desc := d }
  s.inTable c.groot 0 ctx && ((span 0 4).all fun i => s.inTable (c.troot i) 0 ctx) &&
  decide (14 ≤ c.privsz) && decide (c.privsz ≤ 30) && bvf d 395 5 == 0 && bvf d 416 32 == 0

/-- DESCRIPTOR_INSTALL (R41, R375). -/
def execDescriptorInstall (s : State) : Res :=
  match s.arg with
  | .descriptorInstall ctx d =>
    if ctx ≥ 4096 then .fault .notEnabled
    else s.request (s.contextsOk && s.descOk ctx d) (s.modCtx ctx fun c => { c with desc := d })
  | _ => .fault .noArg

/-- Some enabled ring of FRCFG or GRCFG lies in a region (R374). -/
def State.ringIn (s : State) (region : Nat) : Bool :=
  let hit (r : BitVec 64) : Bool :=
    ringOn r && decide (ringBase r / 2 ^ 25 ≤ region) && decide (region ≤ (ringBase r + 32 * ringSize r - 1) / 2 ^ 25)
  hit s.sup.grcfg || s.ctxs.any fun e => hit e.2.frcfg

/-- Wipe a region of 32 MiB as R95 wipes its frames. -/
def State.wipeRegion (s : State) (r : Nat) : State := (span (r * 16384) 16384).foldl State.wipeBlock s

/-- FIREWALL_ASSIGN (R40, R374): SUB only with KIND table; the region of an enabled ring stays. A region that was
assigned is wiped before it is assigned otherwise. -/
def execFirewallAssign (s : State) : Res :=
  match s.arg with
  | .firewallAssign r e =>
    if r ≥ 16384 then .fault .notEnabled
    else
      let old := s.fw r
      let same := fwKind old == fwKind e && fwOwner old == fwOwner e
      let t := if fwKind old = 0 ∨ same then s else s.wipeRegion r
      s.request ((fwKind e == 2 || fwSub e == 0) && (same || !s.ringIn r))
        { t with osm := { t.osm with firewall := t.osm.firewall.put r e 0 } }
  | _ => .fault .noArg

/-- QUEUE_OWNER_ASSIGN (R319). -/
def execQueueOwnerAssign (s : State) : Res :=
  match s.arg with
  | .queueOwnerAssign q e =>
    if q ≥ 65536 then .fault .notEnabled
    else s.request (bvf e 12 3 == 0) { s with osm := { s.osm with qown := s.osm.qown.put q e 0 } }
  | _ => .fault .noArg

/-- The slice group of a frame (R75, R381), numbered over the four dies. -/
def groupOf (pa : Nat) : Nat := 6 * dieOfPa pa + pa / 16384 % 6

/-- Two byte ranges meet. -/
def rangesMeet (a m b n : Nat) : Bool := decide (a < b + n) && decide (b < a + m)

/-- The dies of the clusters of a context's partition. -/
def Ctx.dies (c : Ctx) : List Nat := (c.partition.map dieOf).eraseDups

/-- A leaf keeps clear of a sealed partition: a large leaf off every die that holds it, a 16 KiB leaf out of its groups
(R381). -/
def leafClear (g : BitVec 24) (dies : List Nat) (pa size : Nat) : Bool :=
  decide (pa ≥ hbmSize) ||
  (if size = 16384 then !g.getLsbD (groupOf pa)
   else dies.all fun d => !rangesMeet pa size (d * 2 ^ 37) (2 ^ 37))

/-- A seal that Osmium installs (R381): whole clusters that no other context's partition shares, groups of their dies, and
groups and controller slots that no other sealed context holds; the leaves already written keep to it. All zero removes a
seal. -/
def State.sealGood (s : State) (ctx : Nat) (v : BitVec 512) : Bool :=
  let g : BitVec 24 := v.setWidth 24
  let t := bvf v 24 16
  let c := s.ctx ctx
  bvf v 0 40 == 0 ||
  (c.partition != [] && (c.partition.all fun k => (span (clusterOf k * 4) 4).all fun m => c.partition.contains m) &&
  ((span 0 24).all fun i => !g.getLsbD i || c.dies.contains (i / 6)) &&
  (s.ctxs.all fun e => e.1 == ctx ||
    ((c.partition.all fun k => !e.2.partition.contains k) &&
    (match e.2.sealed with
    | none => true
    | some (g', t') => g &&& g' == 0 &&
        ((span 0 4).all fun d => bvf g (6 * d) 6 == 0 || bvf g' (6 * d) 6 == 0 || BitVec.ofNat 16 t &&& t' == 0)))) &&
  (s.osm.leaves.all fun e =>
    if e.2.1 = ctx then decide (e.2.2.1 ≥ hbmSize) || (e.2.2.2 == 16384 && g.getLsbD (groupOf e.2.2.1))
    else leafClear g c.dies e.2.2.1 e.2.2.2))

/-- The rule of sealed partitions for a leaf (R381). -/
def State.sealOk (s : State) (ctx pa level : Nat) : Bool :=
  if pa ≥ hbmSize then true
  else
    (match (s.ctx ctx).sealed with
    | some (g, _) => decide (level = 3) && g.getLsbD (groupOf pa)
    | none => true) &&
    s.ctxs.all fun e =>
      match e.2.sealed with
      | some (g, _) =>
        e.1 == ctx || leafClear g e.2.dies pa (levelSize level)
      | none => true

/-- A frame that Osmium maps, or writes, for a context (R374, R380): R40's check, and for context 0 only its own regions of
HBM. -/
def State.frameHeld (s : State) (ctx pa size : Nat) : Bool :=
  !s.reservedPa pa && s.frameOk ctx pa size &&
  (ctx != 0 || decide (pa ≥ hbmSize) || (span (pa / 2 ^ 25) (max 1 (size / 2 ^ 25))).all fun r =>
    fwKind (s.fw r) == 1 && fwOwner (s.fw r) == 0)

/-- A leaf that Osmium writes for a context (R374, R381): its frame is the context's, keeps the seals, and is none that a context
returned and no wipe has reached. -/
def State.leafOk (s : State) (ctx pte level : Nat) : Bool :=
  let pa := field pte 47 14 * 16384
  s.frameHeld ctx pa (levelSize level) && s.sealOk ctx pa level &&
  s.osm.returned.all fun r => !rangesMeet r.1 r.2 pa (levelSize level)

/-- The binding index of a leaf, 0 of any other entry. -/
def pteBind (p : Nat) : Nat := if bitAt p 0 && bitAt p 1 then field p 63 52 else 0

/-- The HBM frame and size that an entry of a table of a level names as a leaf, valid or not (R34). -/
def pteFrame (p level : Nat) : Option (Nat × Nat) :=
  let a := field p 47 14 * 16384
  if bitAt p 1 && decide (1 ≤ level) && decide (a < hbmSize) then some (a, levelSize level) else none

/-- Osmium's account of the leaves it has written (R374, R381). An entry that ceases to name a frame returns it, but for what
another entry still names; clearing V alone returns nothing (DESIGN CHOICE, log 93). -/
def State.noteLeaf (s : State) (ctx level pa value : Nat) : State :=
  let new := pteFrame value level
  let ls := match new with
    | some (a, n) => s.osm.leaves.set pa (ctx, a, n)
    | none => s.osm.leaves.del pa
  let gone := match s.osm.leaves.find pa with
    | some (_, r) => if new = some r then [] else ls.foldl (fun (l : List (Nat × Nat)) e => l.flatMap (cutRange e.2.2.1 e.2.2.2)) [r]
    | none => []
  { s with osm := { s.osm with leaves := ls, returned := s.osm.returned ++ gone } }

/-- Write a table entry at its home slice. -/
def State.putEntry (s : State) (ctx level pa : Nat) (value : Nat) : State :=
  let s := s.noteLeaf ctx level pa value
  match s.homeGets pa 2 with
  | (us, s) =>
    let old := (us.getD 0 .zero).data.toNat + 2 ^ 32 * (us.getD 1 .zero).data.toNat
    (s.homePuts pa [coded (BitVec.ofNat 32 value), coded (BitVec.ofNat 32 (value / 2 ^ 32))]).modCtx ctx fun c =>
      c.recount (pteBind old) (pteBind value)

/-- PAGE_TABLE_WRITE (R34, R374, R381): an entry of a table of the given level. -/
def execPageTableWrite (s : State) : Res :=
  match s.arg with
  | .pageTableWrite ctx level pa v =>
    if pa % 8 ≠ 0 ∨ level > 3 then .fault .notEnabled
    else
      let p := v.toNat
      let leaf := bitAt p 0 && bitAt p 1
      s.request (s.inTable pa 0 ctx && (!leaf || (decide (level ≥ 1) && s.leafOk ctx p level))) (s.putEntry ctx level pa p)
  | _ => .fault .noArg

/-! ### Format windows -/

/-- The bytes of a window's scale region. -/
def Window.scaleBytes (w : Window) : Nat := ceilDiv ((w.last - w.base + 1) * 2048) w.perScale

/-- The fields of a request are valid: no reserved code, and zero where zero must be (R91, R92). -/
def Window.fieldsOk (w : Window) : Bool :=
  decide (bvf w.a 60 3 ≤ 3) && bvf w.a 0 11 == 0 && bvf w.l 48 16 == 0 && bvf w.l 0 11 == 0 && bvf w.s 48 16 == 0 && bvf w.s 0 7 == 0

/-- The enabled windows of a die but for one: those in force, and those that a write still completing enables (R92, R94). -/
def State.otherWindows (s : State) (d n : Nat) : List Window :=
  ((s.die d).win.filter fun e => e.1 != n).flatMap fun e =>
    (e.2 :: (match e.2.next with | some (a, l, sc) => [⟨a, l, sc, none⟩] | none => [])).filter Window.en

/-- The conditions of R92 on a window's range and scale region. -/
def State.windowOk (s : State) (d n : Nat) (w : Window) : Bool :=
  let lo := w.base * 2048
  let len := (w.last - w.base + 1) * 2048
  let sc := w.scbase * 128
  let owner := bvf w.a 48 12
  let regions (a m : Nat) : Bool := (span (a / 2 ^ 25) ((a + m - 1) / 2 ^ 25 + 1 - a / 2 ^ 25)).all fun r => s.regionOk owner r
  let others := s.otherWindows d n
  decide (w.base ≤ w.last) &&
  decide (lo + len ≤ hbmSize) && decide (sc + w.scaleBytes ≤ hbmSize) &&
  dieOfPa lo == d && dieOfPa (lo + len - 1) == d && dieOfPa sc == d && dieOfPa (sc + w.scaleBytes - 1) == d &&
  regions lo len && regions sc w.scaleBytes &&
  (others.all fun e => !rangesMeet lo len (e.base * 2048) ((e.last + 1 - e.base) * 2048)) &&
  !rangesMeet sc w.scaleBytes lo len &&
  others.all fun e => !rangesMeet sc w.scaleBytes (e.base * 2048) ((e.last + 1 - e.base) * 2048)

/-- WINDOW_INSTALL (R92, R94). The write completes by WINDOW_CHANGE_COMPLETE. Every request is judged whole, one with EN 0 too. -/
def execWindowInstall (s : State) : Res :=
  match s.arg with
  | .windowInstall d n a l sc =>
    if d ≥ 4 ∨ n ≥ 32 then .fault .notEnabled
    else
      let w : Window := ⟨a, l, sc, none⟩
      s.request (w.fieldsOk && s.windowOk d n w) (s.modDie d fun x =>
        { x with win := x.win.set n { x.win.getD n .empty with next := some (a, l, sc) } })
  | _ => .fault .noArg

/-! ### Loading and lazy binding -/

/-- Drop every instruction-cache line that holds a granule of an address range, whole, on every core (R384). A line has 128 bytes
as in the other caches (DEDUCED, log 113). -/
def State.icDrop (s : State) (pa n : Nat) : State :=
  { s with cores := s.cores.mapAll fun _ k =>
      { k with icache := k.icache.filter fun e => !(decide (pa / 128 ≤ e.1 / 32) && decide (e.1 / 32 ≤ (pa + 4 * n - 1) / 128)) } }

/-- Write words at their home slices and let fetches see them. -/
def State.loadWords (s : State) (pa : Nat) (ws : List Word) : State :=
  (s.homePuts pa (ws.map coded)).icDrop pa ws.length

/-- The words of a liveness table (R347): 16 bytes an entry. -/
def liveWords (l : List (BitVec 128)) : List Word := l.flatMap fun m => (span 0 4).map fun i => BitVec.ofNat 32 (m.toNat / 2 ^ (32 * i))

/-- Where text begins, and the liveness side table (R26, R347). -/
def textBase : Nat := 0x200000000000000
/-- Where the liveness side table begins (R347). -/
def liveBase : Nat := 0x240000000000000

/-- The 16 KiB pages that a byte range touches, each by its first byte in the range. -/
def pageStarts (a n : Nat) : List Nat :=
  if n = 0 then [] else (span (a / 16384) ((a + n - 1) / 16384 + 1 - a / 16384)).map fun p => max a (p * 16384)

/-- A copy of `n` bytes for a die at `pa`: in the die's quarter (R30), in frames that R40 gives the context, and mapped by the
die's root at `va` (R30, R383). -/
def State.copyOk (s : State) (ctx d va pa n root : Nat) : Bool :=
  (pageStarts pa n).all (fun a => dieOfPa a == d && s.frameHeld ctx (a / 16384 * 16384) 16384) &&
  (n == 0 || dieOfPa (pa + n - 1) == d) &&
  (pageStarts va n).all fun v =>
    match s.walk ctx v root with
    | (.leaf p _ level, _) => field p 47 14 * 16384 + v % levelSize level == pa + (v - va)
    | _ => false

/-- A global address is mapped, writable, and by a leaf that names the default object (R34, R383). -/
def State.onDefault (s : State) (ctx va : Nat) : Bool :=
  match s.walk ctx va (s.ctx ctx).groot with
  | (.leaf p _ _, _) => bitAt p 6 && (s.ctx ctx).effBind (field p 63 52) == 0
  | _ => false

/-- A global address is unmapped. -/
def State.unmapped (s : State) (ctx va : Nat) : Bool :=
  match s.walk ctx va (s.ctx ctx).groot with
  | (.leaf _ _ _, _) => false
  | _ => true

/-- What an object must be to be loaded (R30, R382, R383): classes, link indices, each die's copies of the text and of its
side table, the lazy window, the sync words and the zero frame, with R40's check of every frame that the loader writes (R380). -/
def State.objectOk (s : State) (ctx : Nat) (o : RynilObject) : Bool :=
  (o.classes.all fun c => c == 0 || c == 9) && decide (o.links.map fun e => e.1).Nodup &&
  o.textOff % 8 == 0 && o.replicas.length == 4 && o.tables.length == 4 && o.troots.length == 4 &&
  (o.troots.all fun r => s.inTable r.toNat 0 ctx) &&
  ((span 0 4).all fun d =>
    let root := (o.troots.getD d 0).toNat
    o.replicas.getD d 0 % 8 == 0 && o.tables.getD d 0 % 16 == 0 &&
    s.copyOk ctx d (textBase + o.textOff) (o.replicas.getD d 0 + o.textOff) (4 * o.text.length) root &&
    s.copyOk ctx d (liveBase + 2 * o.textOff) (o.tables.getD d 0 + 2 * o.textOff) (16 * o.live.length) root) &&
  o.zframe % 16384 == 0 && decide (o.zframe < hbmSize) && s.frameHeld ctx o.zframe 16384 && s.sealOk ctx o.zframe 3 &&
  o.lzb % 16384 == 0 && o.syncb % 16 == 0 &&
  o.links.all fun e =>
    e.2 % 8 == 0 && decide (textBase + o.textOff ≤ e.2) && decide (e.2 + 8 ≤ textBase + o.textOff + 4 * o.text.length) &&
    decide (o.lzb + 16384 * (e.1 + 1) ≤ textBase) && s.unmapped ctx (o.lzb + 16384 * e.1) &&
    decide (o.syncb + 16 * (e.1 + 1) ≤ textBase) && s.onDefault ctx (o.syncb + 16 * e.1)

/-- A descriptor with new text roots (R41). -/
def withTroots (d : BitVec 512) (l : List (BitVec 64)) : BitVec 512 :=
  (l.take 4).zipIdx.foldl (fun d x =>
    (d &&& ~~~ (((0xFFFFFFFFFFFFFFFF#64).setWidth 512) <<< (64 + 64 * x.2))) ||| (BitVec.setWidth 512 x.1 <<< (64 + 64 * x.2))) d

/-- Zero the sync words of the entries (R383), and say whether every one was written. -/
def State.zeroSync (s : State) (ctx syncb : Nat) : List (Nat × Nat) → Bool × State
  | [] => (true, s)
  | e :: l =>
    match s.unitPuts (unitAgent ctx) (syncb + 16 * e.1) (List.replicate 4 .zero) with
    | (none, s) => State.zeroSync s ctx syncb l
    | (some _, s) => (false, s)

/-- What the loader writes for a context before the sync words: the text and the liveness tables, their roots, the handler, the link
table, the lazy window, the measure and the zero frame. Replica d holds text offset 0 at `replicas[d]` and its liveness table at
`tables[d]` (R30, R314, R347, R382, R383). -/
def State.placeObject (s : State) (ctx : Nat) (o : RynilObject) : State :=
  let t := (span 0 4).foldl (fun (t : State) d =>
    (t.loadWords (o.replicas.getD d 0 + o.textOff) o.text).loadWords (o.tables.getD d 0 + 2 * o.textOff) (liveWords o.live)) s
  let t := t.modCtx ctx fun c => { c with
    desc := withTroots c.desc o.troots
    handler := match o.handler with | some h => BitVec.ofNat 64 (h.toNat / 2 * 2 + 1) | none => 0
    links := o.links
    lzb := o.lzb
    syncb := o.syncb
    zframe := o.zframe
    measure := Config.sha384 (o.text.flatMap wordBytes) }
  (span (o.zframe / 2048) 8).foldl State.wipeBlock t

/-- LOAD_OBJECT (R30, R314, R347, R382, R383). A load whose sync words cannot be written is refused. -/
def execLoadObject (s : State) : Res :=
  match s.arg with
  | .loadObject ctx o =>
    if ctx ≥ 4096 then .fault .notEnabled
    else match (s.placeObject ctx o).zeroSync ctx o.syncb o.links with
      | (ok, t) => s.request (s.objectOk ctx o && ok) t
  | _ => .fault .noArg

/-- What Osmium finds on the way to the level-3 entry of a virtual page (R33): its address, a missing table, or a table in a
region that is not the context's (R37, R40). -/
inductive EntryAt where
  | found (addr : Nat)
  | missing
  | foreign
  deriving DecidableEq, Repr

/-- The address of the level-3 entry of a virtual page, down from a table; `n` levels remain. -/
def State.entryAddr (s : State) (ctx va table : Nat) : Nat → EntryAt
  | 0 => if s.inTable table 0 ctx then .found (table + 8 * levelIndex va 3) else .foreign
  | n + 1 =>
    if s.inTable table 0 ctx then
      match s.homeGets (table + 8 * levelIndex va (2 - n)) 2 with
      | (us, _) =>
        let p := (us.getD 0 .zero).data.toNat + 2 ^ 32 * (us.getD 1 .zero).data.toNat
        if bitAt p 0 && !bitAt p 1 then State.entryAddr s ctx va (field p 47 14 * 16384) n else .missing
    else .foreign

/-- The physical address of a text word on a die. -/
def State.textPa (s : State) (ctx die va : Nat) : Option Nat :=
  match s.walk ctx va ((s.ctx ctx).troot die) with
  | (.leaf p _ level, _) => some (field p 47 14 * 16384 + va % levelSize level)
  | _ => none

/-- The copies of a text word that Osmium patches, one on each die where the word is mapped. -/
def State.textCopies (s : State) (ctx va : Nat) : List Nat := (span 0 4).filterMap fun d => s.textPa ctx d va

/-- LINK_PATCH (R384), in R384's order. It waits until the tables of the lazy page are in place (log 102), and is refused where a
table, a copy of the entry or the zero frame is not the context's or breaks a seal (R40, R372, R380, R381). -/
def execLinkPatch (s : State) : Res :=
  match s.arg with
  | .linkPatch ctx i target =>
    let c := s.ctx ctx
    match c.links.find? fun e => e.1 == i with
    | none => .next s.refuse
    | some (_, va) =>
      let page := c.lzb + 16384 * i
      match s.entryAddr ctx page c.groot 3 with
      | .missing => .fault .notEnabled
      | .foreign => .next s.refuse
      | .found ea =>
        let copies := s.textCopies ctx va
        let leaf := c.zframe + 0x23
        let t := copies.foldl (fun (t : State) pa =>
          t.loadWords pa [BitVec.ofNat 32 target.toNat, BitVec.ofNat 32 (target.toNat / 2 ^ 32)]) s
        let t := (t.putEntry ctx 3 ea leaf).tlbDropPage ctx (page / 16384)
        s.request (s.leafOk ctx leaf 3 && copies.all fun pa => s.frameHeld ctx (pa / 16384 * 16384) 16384)
          (t.unitPuts (unitAgent ctx) (c.syncb + 16 * i) [coded 2]).2
  | _ => .fault .noArg

/-! ### Registers without a row of their own -/

/-- DIAGVA after a write (R367). -/
def diagvaWrite (v : BitVec 64) : BitVec 64 := BitVec.ofNat 64 (bvf v 15 43 * 2 ^ 15 + bvf v 0 1)

/-- AUDCTL after a write (R8, R367). -/
def audctlWrite (old v : BitVec 64) : BitVec 64 :=
  let k := if bvf v 7 5 ≤ 20 then bvf v 7 5 else bvf old 7 5
  let l := if 4 ≤ bvf v 3 4 ∧ bvf v 3 4 ≤ 12 then bvf v 3 4 else bvf old 3 4
  BitVec.ofNat 64 (bvf v 12 46 * 2 ^ 12 + k * 2 ^ 7 + l * 8 + bvf v 0 1)

/-- A queue descriptor from its 64 bytes (R322); the count of the queue's node packets and the time of its last signal are not
in it and go on. -/
def queueOf (old : Queue) (v : BitVec 512) : Queue :=
  ⟨bvf v 0 64, bvf v 64 8, v.getLsbD 72, v.getLsbD 73, bvf v 74 2, bvf v 80 16, bvf v 128 64, old.nodes, old.signal⟩

/-- Zero fields and limits of a queue descriptor (R322). -/
def queueOk (v : BitVec 512) : Bool :=
  bvf v 76 4 == 0 && bvf v 96 32 == 0 && bvf v 192 320 == 0 && bvf v 0 6 == 0 && decide (6 ≤ bvf v 64 8) && decide (bvf v 64 8 ≤ 16)

/-- A queue is mapped to a hardware slot (R324). -/
def State.mapped (s : State) (q : Nat) : Option (Nat × Slot) := s.hazel.slots.find? fun e => e.2.queue == q

/-! ### Accesses from outside the cores -/

/-- What a read of a register of control space returns (R7): write-only fields and res0 read zero. A window register reads as
the value in force (R94). -/
def State.ctlRead (s : State) : CtlReg → BitVec 64
  | .frcfg c => (s.ctx c).frcfg
  | .fridx c => (s.ctx c).frRd ++ (s.ctx c).frWr
  | .replay _ => 0
  | .xlinva => 0
  | .xlinvc => if s.sup.xlinvc.isSome then 1 else 0
  | .xlerr => s.sup.xlerr.setWidth 64
  | .grcfg => s.sup.grcfg
  | .gridx => s.sup.grRd ++ s.sup.grWr
  | .grerr => s.sup.grErr.setWidth 64
  | .czcmd n => if (s.ctl n).czcmd.isSome then 1 else 0
  | .czerr n => if (s.ctl n).czerr then 1 else 0
  | .win d n r =>
    let w := (s.die d).win.getD n .empty
    match r with
    | .a => w.a
    | .l => w.l
    | .s => w.s
  | .nopre c => (s.ctx c).nopre
  | .diagva c => (s.ctx c).diagva
  | .audctl c => (s.ctx c).audctl
  | .ecscnt n => BitVec.ofNat 64 ((s.ctl n).corr * 2 ^ 48 + (s.ctl n).uncorr * 2 ^ 32 + (s.ctl n).lastu)
  | .misscap c => (s.core c).misscap

/-- A request at HBM (R116, R120): granules of a load, units of a store, an atomic. The first part is what goes back to the
asker; none while the request waits at its home slice (R86). -/
def State.outside (s : State) (pa : Nat) (req : PeerReq) : Option (List GUnit × State) :=
  match req with
  | .load n => some (s.homeGets pa n)
  | .store us => some ([], s.homePuts pa us)
  | .atom op operand far =>
    match (if far then s.farAtomic pa op operand else s.homeAtomic pa op operand) with
    | (.old us, s) => some (us, s)
    | (.failed _ u, s) => some ([u], s)
    | (.poisoned _ u, s) => some ([u], s)
    | (.marked _, s) => some ([.bad], s)
    | (.operand _ u, s) => some ([u], s)
    | (.later, _) => none
  | .reg _ => some ([], s)

/-- A request at a window onto devices (R31, log 8): what comes back is free. -/
def State.outsideDev (s : State) (pa : Nat) (req : PeerReq) : List GUnit × State :=
  match req with
  | .load n => (span 0 n).foldl (fun (x : List GUnit × State) i =>
      match x.2.devGet (pa + 4 * i) with
      | (u, s) => (x.1 ++ [u], s)) ([], s)
  | .store us => ([], us.zipIdx.foldl (fun (s : State) x => s.devPut (pa + 4 * x.2) x.1) s)
  | .atom op operand ms =>
    (span 0 op.words).foldl (fun (x : List GUnit × State) _ =>
      match x.2.freeWord with
      | (w, s) => (x.1 ++ [coded w], s)) ([], s.traffic pa (.atom pa op operand ms))
  | .reg r => ((span 0 2).map fun i => coded (BitVec.ofNat 32 ((s.ctlRead r).toNat / 2 ^ (32 * i))), s)

end Sys2Proof.Machine

namespace Sys2Proof
open Machine

/-- Bytes that a request touches, and its alignment. -/
def PeerReq.bytes : PeerReq → Nat
  | .load n => 4 * n
  | .store us => 4 * us.length
  | .atom op _ _ => 4 * op.words
  | .reg _ => 8

/-- What a request hears that performs nothing. -/
def PeerReq.nothing (r : PeerReq) : List GUnit :=
  match r with
  | .store _ => []
  | r => List.replicate (r.bytes / 4) .zero

/-- A request is whole and aligned (R99, R246); a register lies in control space. -/
def PeerReq.good (r : PeerReq) (pa : Nat) : Bool :=
  match r with
  | .atom op operand _ => pa % (4 * op.words) == 0 && operand.length == op.operands
  | .reg _ => pa % 8 == 0 && winKind pa == 1
  | _ => pa % 4 == 0

/-- A request whose units are coded by their producer (R55). -/
def PeerReq.coded (r : PeerReq) : PeerReq :=
  match r with
  | .store us => .store (us.map fun u => Machine.coded u.data)
  | .atom op operand far => .atom op (operand.map fun u => Machine.coded u.data) far
  | r => r

end Sys2Proof

namespace Sys2Proof.Machine

/-- PEER_ACCESS (R32, R120): codes travel verbatim over the fabric link (R20). One that names compression metadata does not reach
it (R82): it performs nothing and hears zero units (log 68). -/
def execPeerAccess (s : State) : Res :=
  match s.arg with
  | .peerAccess n pa req =>
    if n ≥ 64 ∨ n = s.board.domain ∨ pa + req.bytes > hbmSize ∨ !req.good pa then .fault .notEnabled
    else match (if s.inMeta pa req.bytes then some (req.nothing, s) else s.outside pa req) with
      | none => .fault .notEnabled
      | some (us, s) =>
        .next { s with out := { s.out with peer := s.out.peer ++ us.zipIdx.map fun x => Traffic.write (pa + 4 * x.2) x.1 } }
  | _ => .fault .noArg

/-- A unit that runs code hears an answer, which it checks as a consumer: a mismatch raises a machine check on it and is
reported to Osmium (R55). -/
def State.hear (s : State) (unit pa : Nat) (us : List GUnit) : State :=
  let s := { s with heard := s.heard.set unit us }
  if us.all fun u => u.ok then s else s.unitBad unit pa

/-- Every region of a byte range is owned by context 0. -/
def State.supervisorRange (s : State) (pa n : Nat) : Bool :=
  (span (pa / 2 ^ 25) ((pa + max 1 n - 1) / 2 ^ 25 + 1 - pa / 2 ^ 25)).all fun r => s.inOwned (r * 2 ^ 25) 0

/-- What a unit that runs code may reach (R371, R373): Osmium everything, any other control space and the regions owned by
context 0, but not the scrub counts. -/
def State.reaches (s : State) (unit pa : Nat) (req : PeerReq) : Bool :=
  unit == 73 || (winKind pa == 1 && (match req with | .reg (.ecscnt _) => false | _ => true)) || s.supervisorRange pa req.bytes

/-- The die of a unit that runs code, none for a number that names no unit (R13, R19, log 94): control core n sits on die n div 6,
Hazel and the security core on die 0, an Acorn with its cluster. -/
def unitDie (n : Nat) : Option Nat :=
  if n < 24 then some (n / 6) else if n = 24 ∨ n = 73 then some 0 else if n < 73 then some ((n - 25) / 12) else none

/-- CONTROL_CORE_ACCESS (R55, R116, R373): an access of a unit that runs code, which are the control cores 0 to 23, Pewter on
Hazel 24 and on the Acorn of cluster c 25 + c, and Osmium on the security core 73 (log 94). The unit codes what it stores and
checks what it hears. An access that it may not make reads zero units or writes nothing, is reported, and raises a machine
check on a control core. -/
def execControlCoreAccess (s : State) : Res :=
  match s.arg with
  | .controlCoreAccess cc pa req =>
    if (unitDie cc).isNone ∨ !req.good pa then .fault .notEnabled
    else if !s.reaches cc pa req then
      let t := (s.toOsm (.refusedAccess cc pa))
      let t := match req with
        | .store _ => t
        | _ => { t with heard := t.heard.set cc (List.replicate (req.bytes / 4) .zero) }
      .next (if cc < 24 then t.machineCheck cc else t)
    else if winKind pa ≠ 0 then
      match s.outsideDev pa req.coded with
      | (us, s) => .next (s.hear cc pa us)
    else
      match s.outside pa req.coded with
      | none => .fault .notEnabled
      | some (us, s) => .next (s.hear cc pa us)
  | _ => .fault .noArg

/-- PCIE_INBOUND_DATA (R20): the port codes what arrives. Compression metadata are out of its reach (R82, log 68). -/
def execPcieInboundData (s : State) : Res :=
  match s.arg with
  | .pcieInboundData port pa ws =>
    allow (decide (port < 2) && pa % 4 == 0 && decide (pa + 4 * ws.length ≤ hbmSize)) (if s.inMeta pa (4 * ws.length) then s else s.homePuts pa (ws.map coded))
  | _ => .fault .noArg

/-- Granules leave through a port until one fails its check (R20). -/
def State.pcieOut (s : State) (port pa : Nat) : Nat → State
  | 0 => s
  | n + 1 =>
    match s.homeGet pa none with
    | (u, s) =>
      if u.ok then State.pcieOut { s with out := { s.out with pcie := s.out.pcie ++ [.write pa u] } } port (pa + 4) n
      else { s with out := { s.out with pcie := s.out.pcie ++ [Traffic.poisoned pa] } }.toOsm (.pcieExit port pa)

/-- PCIE_OUTBOUND_DATA (R20). Compression metadata are out of its reach (R82, log 68). -/
def execPcieOutboundData (s : State) : Res :=
  match s.arg with
  | .pcieOutboundData port pa n =>
    allow (decide (port < 2) && pa % 4 == 0 && decide (pa + 4 * n ≤ hbmSize)) (if s.inMeta pa (4 * n) then s else s.pcieOut port pa n)
  | _ => .fault .noArg

/-! ### Cores and links -/

/-- CORE_CONDEMNED_REPORT (R25, R335). -/
def execCoreCondemnedReport (s : State) : Res :=
  match s.arg with
  | .coreCondemnedReport cl =>
    match (s.cluster cl).up.flight with
    | .condemned c :: _ =>
      .next (((s.modCluster cl fun x => { x with up := x.up.consume }).toPewter (.condemned c)).toOsm (.condemned c))
    | _ => .fault .notEnabled
  | _ => .fault .noArg

/-- A link of a cluster. -/
def Cluster.link (c : Cluster) (d : LinkDir) : Link :=
  match d with
  | .toAcorn => c.down
  | .toHazel => c.up

/-- Change a link of a cluster. -/
def Cluster.modLink (c : Cluster) (d : LinkDir) (f : Link → Link) : Cluster :=
  match d with
  | .toAcorn => { c with down := f c.down }
  | .toHazel => { c with up := f c.up }

/-- COMMAND_CRC_FAILURE (R335): the sender sends the command again, and the third failure in a row takes the cluster out
of placement. -/
def execCommandCrcFailure (s : State) : Res :=
  match s.arg with
  | .commandCrcFailure cl d =>
    if cl ≥ 48 ∨ ((s.cluster cl).link d).flight.isEmpty then .fault .notEnabled
    else
      let s := s.modCluster cl fun c => c.modLink d fun l => { l with fails := l.fails + 1 }
      .next (if ((s.cluster cl).link d).fails = 3 then
          (s.modCluster cl fun c => { c with out := true }).toOsm (.linkDead cl)
        else s)
  | _ => .fault .noArg

/-- SEND_PERMIT_RETURN (R335). -/
def execSendPermitReturn (s : State) : Res :=
  match s.arg with
  | .sendPermitReturn cl d =>
    allow (decide (cl < 48) && decide (((s.cluster cl).link d).back > 0)) (s.modCluster cl fun c => c.modLink d Link.permit)
  | _ => .fault .noArg

end Sys2Proof.Machine
end

