-- ==== Sys2Proof/Machine/Sched.lean ====
section
/-! DEFINITION. The signal unit (R319 to R330): doorbell notifications, queue slots, packets, waits, node records and their
dependences. -/

namespace Sys2Proof.Machine

/-- Full-rate cycles in a microsecond (R21). -/
def usCycles : Nat := 2500

/-- Change Hazel's state. -/
def State.modHazel (s : State) (f : Hazel → Hazel) : State := { s with hazel := f s.hazel }

/-- A queue's descriptor (R322). -/
def State.queue (s : State) (q : Nat) : Queue := s.hazel.queues.getD q .empty
/-- Change a queue's descriptor. -/
def State.modQueue (s : State) (q : Nat) (f : Queue → Queue) : State :=
  s.modHazel fun h => { h with queues := h.queues.set q (f (s.queue q)) }
/-- Change a slot. -/
def State.modSlot (s : State) (i : Nat) (f : Slot → Slot) : State := s.modHazel fun h => { h with slots := h.slots.alter i f }

/-! ### Reads by units -/

/-- The physical address of a unit's word, for its watch and for a report. -/
def State.unitPa (s : State) (ctx va : Nat) : Nat :=
  match s.translate (unitAgent ctx) va .read with
  | (.mem pa _ _ _, _) => pa
  | _ => 2 ^ 48

/-- The physical address of the first of some granules that fails its check. -/
def State.badPa (s : State) (ctx va : Nat) (us : List GUnit) : Nat := s.unitPa ctx (va + 4 * us.findIdx fun u => !u.ok)

/-- Read `n` words for a context as a consumer (R55): the words, or the fault; a failed check is a machine check on Hazel (log 54). -/
def State.unitRead (s : State) (ctx va n : Nat) : Except Xlat (List Word) × State :=
  match s.unitGets (unitAgent ctx) va n with
  | (us, none, s) =>
    if us.all fun u => u.ok then (.ok (us.map fun u => u.data), s) else (.error (.fault .chk), s.unitBad 24 (s.badPa ctx va us))
  | (_, some x, s) => (.error x, s)

/-- The number in two words, low word first. -/
def dwordOf (ws : List Word) : Nat := (ws.getD 0 0).toNat + 2 ^ 32 * (ws.getD 1 0).toNat

/-- The bytes of words. -/
def bytesOf (ws : List Word) : List Byte := ws.flatMap wordBytes

/-- The number in bytes [off + n − 1 : off]. -/
def bytesAt (bs : List Byte) (off n : Nat) : Nat := leNat ((bs.drop off).take n)

/-- A unit's access waits for a verdict, and whether the verdict was FATAL (R45). -/
def State.held? (s : State) (w : Who) : Option Bool := (s.hazel.held.find? fun h => h.who = w).map fun h => h.fatal

/-- A unit's access is attached to its fault record (R44): each is an access of its own, under a fresh number in place of a lane. -/
def State.holdUnit (s : State) (w : Who) (ctx va cond level : Nat) (acc : Access) (core : Nat := 0) : State :=
  match s.fresh with
  | (n, s) => match s.attach { unitAgent ctx with lane := n } va (va / 16384) cond level acc with
  | (u, s) => s.modHazel fun h => { h with held := h.held ++ [⟨w, u, false, va, core⟩] }

/-- The unit's access is over. -/
def State.unhold (s : State) (w : Who) : State := s.modHazel fun h => { h with held := h.held.filter fun x => decide (x.who ≠ w) }

/-! ### Completion records waiting -/

/-- A completion record joins those that wait for the ring (R337), or is discarded with a ring that cannot be used (R340). -/
def State.pendRecord (s : State) (ctx : Nat) (r : Record) : State :=
  s.modCtx ctx fun c => match c.ringDead with
    | some n => { c with ringDead := some (n + 1) }
    | none => { c with pend := c.pend ++ [r] }

/-- FSUM (R338). -/
def fsumOf (pc : VAddr) (addr core lane : Nat) : BitVec 128 :=
  BitVec.ofNat 128 (pc.toNat / 2 + addr % 2 ^ 58 * 2 ^ 57 + core % 256 * 2 ^ 115 + lane % 32 * 2 ^ 123)

/-! ### Slots (R324) -/

/-- The count that the signal word holds (R320). A word that fails its check is a machine check on the signal unit (R55), and
shows no new packets: the count last read stands (log 54). -/
def State.widx (s : State) (q : Nat) : Nat × State :=
  let pa := s.osm.dbbase + 16384 * q
  match s.homeGets pa 2 with
  | (us, s) =>
    if us.all fun u => u.ok then (dwordOf (us.map fun u => u.data), s)
    else (((s.mapped q).map fun x => x.2.widx).getD (s.queue q).read, s.unitBad 24 (pa + 4 * us.findIdx fun u => !u.ok))

/-- The watches of a queue end. -/
def State.unwatch (s : State) (q : Nat) : State :=
  s.modHazel fun h => { h with waits := h.waits.filter fun w => w.queue != q }

/-- Forget the waits of a queue. -/
def State.dropWaits (s : State) (q : Nat) : State := (s.unwatch q).unhold (.wait q)

/-- The lowest free slot. -/
def State.freeSlot (s : State) : Option Nat := (span 0 256).find? fun i => (s.hazel.slots.find i).isNone

/-- A queue takes a slot, and is on the remap list no more. A read of its wait word that is held on a fault record stays held
until the verdict (R326). -/
def State.putSlot (s : State) (i q w : Nat) : State :=
  (s.unwatch q).modHazel fun h => { h with
    slots := h.slots.set i ⟨q, (s.queue q).read, w, s.cycle, if (s.held? (.wait q)).isSome then .waitHeld else .idle, none⟩
    remap := h.remap.filter fun x => x != q }

/-- A slot is unmapped: READ returns to the descriptor. -/
def State.unmapSlot (s : State) (i : Nat) : State :=
  match s.hazel.slots.find i with
  | none => s
  | some x =>
    ((s.modQueue x.queue fun k => { k with read := x.read }).modHazel fun h => { h with slots := h.slots.del i }).unhold (.signal i)

/-- Partway through a packet (R324). A slot reads a packet within one step. -/
def Slot.partway (x : Slot) : Bool := decide (x.state = .waitHeld) || decide (x.state = .signalHeld)

/-- The slot to replace: least recently signalled among those not partway. -/
def State.victim (s : State) : Option (Nat × Slot) :=
  (s.hazel.slots.filter fun e => !e.2.partway).foldl (fun o e =>
    match o with
    | none => some e
    | some m => if (s.queue e.2.queue).signal < (s.queue m.2.queue).signal then some e else o) none

/-- Join the remap list, once. -/
def State.listQueue (s : State) (q : Nat) : State :=
  s.modHazel fun h => if h.remap.contains q then h else { h with remap := h.remap ++ [q] }

/-- A queue without a slot meets a packet error (R325, R327): STOPPED, and a record with status 3. -/
def State.failQueue (s : State) (q : Nat) : State :=
  (((s.dropWaits q).modQueue q fun k => { k with stopped := true }).modHazel fun h =>
    { h with remap := h.remap.filter fun x => x != q }).pendRecord (s.queue q).ctx ⟨0xFFFFF, 3, false, 0, 0⟩

/-- A WIDX more than the ring's size above READ (R325). -/
def Queue.overrun (k : Queue) (w : Nat) : Bool := decide (w > k.read + 2 ^ k.logsize)

/-- A free slot goes to the first queue of the remap list that may be mapped: a queue that is not valid or stopped is never
mapped (R322), and an overrun is a packet error (R325). -/
def State.serveList (s : State) (i : Nat) : List Nat → State
  | [] => s
  | q :: rest =>
    let s := s.modHazel fun h => { h with remap := rest }
    let k := s.queue q
    if !k.valid ∨ k.stopped then State.serveList s i rest
    else match s.widx q with
      | (w, s) => if k.overrun w then State.serveList (s.failQueue q) i rest else s.putSlot i q w

/-- A freed slot goes to the remap list (R324). -/
def State.serveRemap (s : State) : State :=
  match s.freeSlot with
  | some i => s.serveList i s.hazel.remap
  | none => s

/-- QUEUE_SLOT_ASSIGN (R324). -/
def State.assignSlot (s : State) (q w : Nat) : State :=
  match s.freeSlot with
  | some i => s.putSlot i q w
  | none =>
    match s.victim with
    | none => s.listQueue q
    | some (i, x) =>
      let s := s.unmapSlot i
      (if x.widx > x.read then s.listQueue x.queue else s).putSlot i q w

/-- A queue stops (R327, R339): unmapped with STOPPED set; a freed slot goes on. -/
def State.stopQueue (s : State) (q : Nat) : State :=
  let m := s.mapped q
  let s := match m with
    | some (i, _) => s.unmapSlot i
    | none => s
  let s := ((s.dropWaits q).modQueue q fun k => { k with stopped := true }).modHazel fun h =>
    { h with remap := h.remap.filter fun x => x != q }
  if m.isSome then s.serveRemap else s

/-- PACKET_ERROR (R327). -/
def State.packetError (s : State) (q : Nat) : State :=
  (s.stopQueue q).pendRecord (s.queue q).ctx ⟨0xFFFFF, 3, false, 0, 0⟩

/-- An overrun is a packet error (R325, R327). -/
def State.judgeIndex (s : State) (q : Nat) : State :=
  match s.mapped q with
  | some (_, x) => if { s.queue q with read := x.read : Queue }.overrun x.widx then s.packetError q else s
  | none => s

/-- SIGNAL_NOTIFICATION (R320, R322, R324, R325). A WIDX that falls back to READ starts the idle time again. -/
def execSignalNotification (s : State) : Res :=
  match s.arg with
  | .signalNotification q =>
    if !s.hazel.notes.contains q then .fault .notEnabled
    else
      let s := s.modHazel fun h => { h with notes := h.notes.filter fun x => x != q }
      let k := s.queue q
      if !k.valid ∨ k.stopped then .next s
      else match s.fresh with
        | (n, s) =>
          match (s.modQueue q fun k => { k with signal := n }).widx q with
          | (w, s) =>
            match s.mapped q with
            | some (i, _) => .next ((s.modSlot i fun x => { x with
                widx := w
                since := if w ≤ x.read ∧ x.read < x.widx then s.cycle else x.since
                state := if x.state = .empty then .idle else x.state }).judgeIndex q)
            | none => .next (if w > k.read then (s.assignSlot q w).judgeIndex q else s)
  | _ => .fault .noArg

/-- QUEUE_IDLE_UNMAP (R325). A slot that holds a packet is not idle, whatever WIDX says. -/
def execQueueIdleUnmap (s : State) : Res :=
  match s.arg with
  | .queueIdleUnmap i =>
    match s.hazel.slots.find i with
    | none => .fault .notEnabled
    | some x =>
      allow (decide (x.widx ≤ x.read) && x.pkt.isNone && decide (s.cycle ≥ x.since + (s.ctx (s.queue x.queue).ctx).idleus * usCycles))
        (s.unmapSlot i).serveRemap
  | _ => .fault .noArg

/-! ### Packets (R327) -/

/-- All bytes from `off` to the end are zero. -/
def zeroFrom (bs : List Byte) (off : Nat) : Bool := (bs.drop off).all fun b => b == 0

/-- The signal fields of a packet; none when they are out of range. With SIGVA 0 the others are ignored. -/
def sigFields (bs : List Byte) (node : Nat) (param va val op sc : Nat) : Option Packet :=
  let a := bytesAt bs va 8
  if a = 0 then some ⟨node, BitVec.ofNat 64 param, 0, 0, 0, 0⟩
  else if a % 16 ≠ 0 ∨ bytesAt bs op 1 > 1 ∨ bytesAt bs sc 1 < 6 ∨ bytesAt bs sc 1 > 9 then none
  else some ⟨node, BitVec.ofNat 64 param, a, BitVec.ofNat 64 (bytesAt bs val 8), bytesAt bs op 1, bytesAt bs sc 1⟩

/-- The packet in 64 bytes; none is a packet error. -/
def parsePacket (bs : List Byte) : Option Pkt :=
  if bytesAt bs 1 3 ≠ 0 then none
  else match bytesAt bs 0 1 with
    | 0 => some .empty
    | 1 =>
      if bytesAt bs 4 4 > 0xFFFFF ∨ bytesAt bs 8 8 % 256 ≠ 0 ∨ !zeroFrom bs 42 then none
      else (sigFields bs (bytesAt bs 4 4) (bytesAt bs 16 8) 24 32 40 41).map fun p => .node (bytesAt bs 8 8) p
    | 2 =>
      if bytesAt bs 8 8 % 8 ≠ 0 ∨ bytesAt bs 24 1 > 3 ∨ bytesAt bs 25 1 < 6 ∨ bytesAt bs 25 1 > 9 ∨ bytesAt bs 4 4 ≠ 0 ∨
          !zeroFrom bs 26 then none
      else some (.wait (bytesAt bs 8 8) (BitVec.ofNat 64 (bytesAt bs 16 8)) (bytesAt bs 24 1) (bytesAt bs 25 1))
    | 3 =>
      if bytesAt bs 4 4 ≠ 0 ∨ !zeroFrom bs 26 then none else (sigFields bs 0 0 8 16 24 25).map .signal
    | _ => none

/-- A slot with a packet: its queue, descriptor and the packet (none: a packet error). The slot keeps what it has read until it
consumes it, so that a later rewrite has no effect; only an empty packet is read again (R327). -/
def State.nextPacket (s : State) (i : Nat) : Option (Slot × Queue × Option Pkt × State) :=
  match s.hazel.slots.find i with
  | none => none
  | some x =>
    let k := s.queue x.queue
    match x.pkt with
    | some p => some (x, k, some p, s)
    | none =>
      if x.read ≥ x.widx ∨ x.state = .empty then none
      else
        match s.unitRead k.ctx (k.ring + 64 * (x.read % 2 ^ k.logsize)) 16 with
        | (.ok ws, s) =>
          let p := parsePacket (bytesOf ws)
          some (x, k, p, s.modSlot i fun x => { x with pkt := if p = some .empty then none else p })
        | (.error _, s) => some (x, k, none, s)

/-- The packet is consumed; a hold that its queue's wait had is over with it. -/
def State.consumePacket (s : State) (i : Nat) : State :=
  let t := s.modSlot i fun x => { x with
    read := x.read + 1, since := if x.read + 1 ≥ x.widx then s.cycle else x.since, state := .idle, pkt := none }
  match s.hazel.slots.find i with
  | some x => t.unhold (.wait x.queue)
  | none => t

/-- PACKET_EMPTY (R327): the slot waits for the next notification. A packet of no type, or one that cannot be read, is a
packet error. -/
def execPacketEmpty (s : State) : Res :=
  match s.arg with
  | .packetEmpty i =>
    match s.nextPacket i with
    | some (x, _, none, s) => .next (s.packetError x.queue)
    | some (_, _, some .empty, s) => .next (s.modSlot i fun x => { x with state := .empty })
    | _ => .fault .notEnabled
  | _ => .fault .noArg

/-! ### Waits (R326) -/

/-- COND of a wait packet. -/
def condHolds (cond : Nat) (a b : BitVec 64) : Bool :=
  match cond with
  | 0 => a == b
  | 1 => a != b
  | 2 => b.ule a
  | _ => a.ult b

/-- The watch table of the word's die has an entry free. -/
def State.watchRoom (s : State) (pa : Nat) : Bool :=
  decide (pa < hbmSize) &&
  decide ((s.hazel.waits.filter fun w => w.watched && dieOfPa w.pa == dieOfPa pa).length < 1024)

/-- PACKET_WAIT (R326, R327). -/
def execPacketWait (s : State) : Res :=
  match s.arg with
  | .packetWait i =>
    match s.nextPacket i with
    | some (x, k, some (.wait va v cond scope), s) =>
      if s.hazel.waits.any (fun w => w.queue == x.queue) then .fault .notEnabled
      else match s.held? (.wait x.queue) with
        | some false => .fault .notEnabled
        | some true => .next (s.packetError x.queue)
        | none =>
          match s.unitRead k.ctx va 2 with
          | (.error (.replay _ c level), s) =>
            .next ((s.holdUnit (.wait x.queue) k.ctx va c level .read).modSlot i fun x => { x with state := .waitHeld })
          | (.error _, s) => .next (s.packetError x.queue)
          | (.ok ws, s) =>
            if condHolds cond (BitVec.ofNat 64 (dwordOf ws)) v then .next (s.consumePacket i)
            else
              let pa := s.unitPa k.ctx va
              let keep := (s.ctx k.ctx).policy = 0
              let w : Waiting := ⟨x.queue, va, pa, v, cond, scope, s.watchRoom pa, false, if keep then some i else none⟩
              if keep then
                .next ((s.modSlot i fun x => { x with state := .waitHeld }).modHazel fun h => { h with waits := h.waits ++ [w] })
              else .next (((s.unmapSlot i).modHazel fun h => { h with waits := h.waits ++ [w] }).serveRemap)
    | _ => .fault .notEnabled
  | _ => .fault .noArg

/-- The word of a wait is read again (R326): a held slot goes on, a parked queue joins the remap list. The wait of a parked
queue that is no longer valid, or stopped, is forgotten: it is never mapped (R322). -/
def State.recheck (s : State) (w : Waiting) : Res :=
  let ctx := (s.queue w.queue).ctx
  if !(s.queue w.queue).valid ∨ (s.queue w.queue).stopped then .next (s.dropWaits w.queue)
  else match s.held? (.wait w.queue) with
  | some false => .fault .notEnabled
  | some true => .next (s.packetError w.queue)
  | none =>
    match s.unitRead ctx w.va 2 with
    | (.error (.replay _ c level), s) => .next (s.holdUnit (.wait w.queue) ctx w.va c level .read)
    | (.error _, s) => .next (s.packetError w.queue)
    | (.ok ws, s) =>
      if condHolds w.cond (BitVec.ofNat 64 (dwordOf ws)) w.value then
        let s := s.dropWaits w.queue
        match w.slot with
        | some i => .next (s.consumePacket i)
        | none => .next (s.listQueue w.queue).serveRemap
      else .next (s.modHazel fun h => { h with waits := h.waits.map fun x => if x.queue == w.queue then { x with hit := false } else x })

/-- WAIT_WORD_WATCH (R326): a write performed at the watched word. -/
def execWaitWordWatch (s : State) : Res :=
  match s.arg with
  | .waitWordWatch q =>
    match s.hazel.waits.find? fun w => w.queue == q && w.watched && w.hit with
    | some w => s.recheck w
    | none => .fault .notEnabled
  | _ => .fault .noArg

/-- WAIT_WORD_POLL (R326): the poll of a word that no watch covers, every 1 µs. -/
def execWaitWordPoll (s : State) : Res :=
  match s.arg with
  | .waitWordPoll q =>
    match s.hazel.waits.find? fun w => w.queue == q && !w.watched with
    | some w => s.recheck w
    | none => .fault .notEnabled
  | _ => .fault .noArg

/-! ### Completion signals (R118, R337) -/

/-- What a completion signal's write meets. -/
inductive Signal where
  | done
  | wait (cond level : Nat)
  | fatal
  /-- The far atomic unit cannot take the add yet (R86). -/
  | later
  deriving DecidableEq, Repr

/-- The scope of a signal's release (R118): device scope widens to the queue's registered waiter (WAITK), host for a control
core, fabric for a peer, system for a PCIe adapter; a wider scope stays. -/
def promoted (scope waitk : Nat) : Nat := if scope = 6 then 6 + waitk else scope

/-- The release of a signal that the unit has written (R117, R118): every access that it covers has performed at its home,
since every earlier node has completed and the unit holds no line of its own. -/
def State.signalled (s : State) (ctx pa : Nat) (p : Packet) (waitk : Nat) : State :=
  { s with out := { s.out with rels := s.out.rels ++ [(ctx, pa, promoted p.sigsc waitk)] } }

/-- The strong 8-byte write of a signal, with its release (R118, R337). An add that a PCIe adapter does not complete
successfully, or in control space, is PERM (R120). -/
def State.signalWrite (s : State) (ctx waitk : Nat) (p : Packet) : Signal × State :=
  let words := [coded (BitVec.ofNat 32 p.sigval.toNat), coded (BitVec.ofNat 32 (p.sigval.toNat / 2 ^ 32))]
  match s.translate (unitAgent ctx) p.sigva (if p.sigop = 0 then .write else .atomic) with
  | (.mem pa _ ms cz, s) =>
    if pa ≥ hbmSize then
      if p.sigop = 0 then (.done, ((s.devPut pa (words.getD 0 .zero)).devPut (pa + 4) (words.getD 1 .zero)).signalled ctx pa p waitk)
      else if winKind pa = 1 then (.fatal, s)
      else
        let s := s.traffic pa (.atom pa .addN64 words ms)
        match (if winKind pa = 2 then s.freeOk else (true, s)) with
        | (true, s) => (.done, s.signalled ctx pa p waitk)
        | (false, s) => (.fatal, s.toOsm (.pcieAtomic (pa / 2 ^ 39 - 2) pa))
    else if p.sigop = 0 then
      (.done, ((s.homePut pa (words.getD 0 .zero) (some cz)).homePut (pa + 4) (words.getD 1 .zero) (some cz)).signalled ctx pa p waitk)
    else match (if ms then s.farAtomic pa .addN64 words else (s.homeFill pa cz).homeAtomic pa .addN64 words) with
      | (.old _, s) => (.done, s.signalled ctx pa p waitk)
      | (.later, s) => (.later, s)
      | (_, s) => (.fatal, s)
  | (.replay _ c level, s) => (.wait c level, s)
  | (_, s) => (.fatal, s)

/-- PACKET_SIGNAL (R327, R337): after every earlier node of the queue has completed. -/
def execPacketSignal (s : State) : Res :=
  match s.arg with
  | .packetSignal i =>
    match s.nextPacket i with
    | some (x, k, some (.signal p), s) =>
      if s.hazel.pool.any fun n => n.queue == x.queue && n.replay.isNone then
        (if x.state = .signalHeld then .fault .notEnabled else .next (s.modSlot i fun x => { x with state := .signalHeld }))
      else if p.sigva = 0 then .next (s.consumePacket i)
      else match s.held? (.signal i) with
        | some false => .fault .notEnabled
        | some true => .next ((s.unhold (.signal i)).consumePacket i)
        | none =>
          match s.signalWrite k.ctx k.waitk p with
          | (.later, _) => .fault .notEnabled
          | (.wait c level, s) =>
            .next ((s.holdUnit (.signal i) k.ctx p.sigva c level .write).modSlot i fun x => { x with state := .signalHeld })
          | (_, s) => .next (s.consumePacket i)
    | _ => .fault .notEnabled
  | _ => .fault .noArg

/-! ### Node records (R328, R329) -/

/-- FLAGS of a node record. -/
def NodeRec.fuse (r : NodeRec) : Bool := r.flags.getLsbD 0
/-- SET. -/
def NodeRec.set (r : NodeRec) : Bool := r.flags.getLsbD 1
/-- AUDIT. -/
def NodeRec.audited (r : NodeRec) : Bool := r.flags.getLsbD 2
/-- THREC. -/
def NodeRec.threc (r : NodeRec) : Bool := r.flags.getLsbD 3
/-- The crew count C (R329). -/
def NodeRec.crews (r : NodeRec) : Nat := ceilDiv r.threads r.crewsz
/-- The threads of crew c. -/
def NodeRec.size (r : NodeRec) (c : Nat) : Nat := min r.crewsz (r.threads - c * r.crewsz)
/-- The waves of a full crew. -/
def NodeRec.waves (r : NodeRec) : Nat := ceilDiv (min r.crewsz r.threads) 32
/-- The declaration that each crew takes (R190, R67, R269). -/
def NodeRec.decl (r : NodeRec) : Decl := ⟨8 * r.vregs, 16 * r.sregs, r.acc, 8 * r.spad, r.slabq, r.waves⟩

/-- The regions of a record in use: base, length, mode. -/
def regionsOf (bs : List Byte) (n : Nat) : List (Nat × Nat × Nat) :=
  (span 0 n).map fun i => (bytesAt bs (64 + 16 * i) 8, bytesAt bs (72 + 16 * i) 6, bytesAt bs (78 + 16 * i) 1)

/-- The node record in 256 bytes. -/
def nodeRecOf (bs : List Byte) : NodeRec where
  entry := BitVec.ofNat 64 (bytesAt bs 0 8)
  threads := bytesAt bs 8 4
  crewsz := bytesAt bs 12 2
  prio := bytesAt bs 14 1
  flags := BitVec.ofNat 8 (bytesAt bs 15 1)
  setn := bytesAt bs 16 1
  vregs := bytesAt bs 17 1
  sregs := bytesAt bs 18 1
  acc := bytesAt bs 19 1
  spad := bytesAt bs 20 2
  slabq := bytesAt bs 22 2
  latb := bytesAt bs 24 4
  pred := bytesAt bs 28 2
  trec := BitVec.ofNat 64 (bytesAt bs 32 8)
  bto := bytesAt bs 40 4
  regions := regionsOf bs (min 8 (bytesAt bs 30 1))

/-- The zero fields of a node record and NREG (R328). -/
def nodeZeros (bs : List Byte) : Bool :=
  decide (bytesAt bs 30 1 ≤ 8) && bytesAt bs 31 1 == 0 && bytesAt bs 44 20 == 0 && zeroFrom bs 192 &&
  (span 0 8).all fun i => bytesAt bs (79 + 16 * i) 1 == 0 && decide (bytesAt bs (78 + 16 * i) 1 ≤ 3)

/-- The limits of a node record, the fit of a crew on one core, and whole sets (R328, R329). -/
def NodeRec.good (r : NodeRec) : Bool :=
  inText r.entry.toNat && !r.entry.getLsbD 0 &&
  decide (1 ≤ r.threads) && decide (r.threads ≤ 16777215) && decide (1 ≤ r.crewsz) && decide (r.crewsz ≤ 1024) &&
  decide (r.prio ≤ 7) && decide (r.flags.toNat < 16) &&
  (if r.set then decide (2 ≤ r.setn) && decide (r.setn ≤ 4) && r.crews % r.setn == 0 else r.setn == 0) &&
  decide (1 ≤ r.vregs) && decide (r.vregs ≤ 14) && decide (1 ≤ r.sregs) && decide (r.sregs ≤ 4) && decide (r.acc ≤ 8) &&
  decide (r.spad ≤ 256) && decide (r.slabq ≤ 2048) &&
  (if r.threc then r.trec.toNat % 64 == 0 else r.trec == 0) &&
  decide (8 * r.vregs * r.waves ≤ 4096) && decide (16 * r.sregs * r.waves ≤ 2048)

/-- Two footprints meet where one writes (R330). -/
def footprintsMeet (a b : List (Nat × Nat × Nat)) : Bool :=
  a.any fun x => b.any fun y =>
    x.2.1 != 0 && y.2.1 != 0 && x.2.2 != 0 && y.2.2 != 0 && rangesMeet x.1 x.2.1 y.1 y.2.1 &&
    (decide (x.2.2 ≥ 2) || decide (y.2.2 ≥ 2))

/-- The nodes that a new node waits for (R330). -/
def State.edgesOf (s : State) (ctx q nth : Nat) (r : NodeRec) : List Nat :=
  (s.hazel.pool.filter fun a => a.ctx == ctx && a.replay.isNone &&
    (footprintsMeet r.regions a.rec_.regions ||
      (a.queue == q && (r.pred == 0xFFFF || decide (nth ≤ a.nth + r.pred))))).map fun a => a.uid

/-- The nodes that the pool counts (R332). -/
def State.poolRoom (s : State) (ctx : Nat) : Bool :=
  let l := s.hazel.pool.filter fun n => n.replay.isNone
  decide (l.length < 4096) && decide ((l.filter fun n => n.ctx == ctx).length < 1024)

/-- A node enters the ready pool (R328, R330). -/
def State.acceptNode (s : State) (q : Nat) (k : Queue) (p : Packet) (r : NodeRec) : State :=
  let edges := s.edgesOf k.ctx q k.nodes r
  match s.fresh with
  | (u, s) => s.modHazel fun h => { h with pool := h.pool ++ [{
      uid := u, ctx := k.ctx, queue := q, nth := k.nodes, pkt := p, rec_ := r, edges := edges
      ready := if edges.isEmpty then some s.cycle else none
      placed := 0, again := [], ended := 0, sumI := 0, sumK := 0, sumB := 0, late := false, asked := 0, signal := false
      stopped := false, replay := none }] }

/-- PACKET_NODE (R327 to R332). NODE_REFUSE: a refused node places no crew and leaves a record with status 4. -/
def execPacketNode (s : State) : Res :=
  match s.arg with
  | .packetNode i =>
    match s.nextPacket i with
    | some (x, k, some (.node a p), s) =>
      if !s.poolRoom k.ctx then
        (if x.state = .poolFull then .fault .notEnabled else .next (s.modSlot i fun x => { x with state := .poolFull }))
      else match s.unitRead k.ctx a 64 with
        | (.error _, s) => .next (s.packetError x.queue)
        | (.ok ws, s) =>
          let bs := bytesOf ws
          let r := nodeRecOf bs
          let s := if nodeZeros bs && r.good then s.acceptNode x.queue k p r
            else s.pendRecord k.ctx ⟨p.node, 4, false, 0, 0⟩
          .next ((s.modQueue x.queue fun k => { k with nodes := k.nodes + 1 }).consumePacket i)
    | _ => .fault .notEnabled
  | _ => .fault .noArg

end Sys2Proof.Machine
end

