-- ==== Sys2Proof/Machine/Place.lean ====
section
/-! DEFINITION. Hazel's ready pool and placement (R329 to R336, R360), the Acorns' side of the command links (R183, R317,
R335, R357), completion (R331, R337 to R341) and the stop of a context (R311, R339). -/

namespace Sys2Proof.Machine

/-! ### Nodes -/

/-- A node of the pool. -/
def State.node? (s : State) (u : Nat) : Option Node := s.hazel.pool.find? fun n => n.uid == u
/-- Change a node. -/
def State.modNode (s : State) (u : Nat) (f : Node → Node) : State :=
  s.modHazel fun h => { h with pool := h.pool.map fun n => if n.uid == u then f n else n }

/-- An audit in progress. -/
def State.audit? (s : State) (u : Nat) : Option Audit := s.hazel.audits.find? fun a => a.uid == u
/-- Change an audit. -/
def State.modAudit (s : State) (u : Nat) (f : Audit → Audit) : State :=
  s.modHazel fun h => { h with audits := h.audits.map fun a => if a.uid == u then f a else a }

/-- How many crews a node has: one for an audit's replay (R369). -/
def Node.total (n : Node) : Nat := if n.replay.isSome then 1 else n.rec_.crews

/-- Crews per placement: a set goes whole (R333). -/
def Node.width (n : Node) : Nat := if n.replay.isNone && n.rec_.set then n.rec_.setn else 1

/-- The effective priority of work that became ready at a cycle (R333). -/
def State.agedPrio (s : State) (prio since : Nat) : Nat := min 7 (prio + (s.cycle - since) / (1000 * usCycles))

/-- The effective priority of a node; a replay has 0 (R356). -/
def State.nodePrio (s : State) (n : Node) : Nat :=
  if n.replay.isSome then 0 else s.agedPrio n.rec_.prio (n.ready.getD s.cycle)

/-- The first crew index of the next placement: what came back first, then crew order. -/
def State.nextCrew (s : State) (n : Node) : Option Nat :=
  match n.again with
  | c :: _ => some c
  | [] =>
    if n.placed ≥ n.total then none
    else match n.replay with
      | some u => (s.audit? u).map fun a => a.cidx
      | none => some n.placed

/-! ### Room (R67, R190, R269) -/

/-- Accumulators, scratchpad lines and slab quotas in use. -/
def Core.inUse (k : Core) (f : Decl → Nat) : Nat := k.crews.foldl (fun n e => n + f e.2.decl) 0

/-- A run of scratchpad lines is free. -/
def Core.linesFree (k : Core) (base n : Nat) : Bool :=
  decide (base + n ≤ 2048) && (n == 0 || k.crews.all fun e => e.2.decl.lines == 0 || !rangesMeet base n e.2.base e.2.decl.lines)

/-- The core with some crews gone. -/
def Core.without (k : Core) (l : List Nat) : Core :=
  { k with crews := k.crews.filter (fun e => !l.contains e.1), waves := k.waves.filter fun e => !l.contains e.2.crew }

/-- A declaration fits the core's free room, but for its scratchpad lines. -/
def Core.roomFor (k : Core) (d : Decl) : Bool :=
  decide (k.crews.length < 16) && decide (d.waves ≤ k.waveRoom d.vregs d.sregs) &&
  decide (k.inUse (fun x => x.acc) + d.acc ≤ 16) && decide (k.inUse (fun x => x.slabq) + d.slabq ≤ 2048)

/-- Scratchpad lines for every declaration of a list are free, apart from the runs given (R67). -/
def Core.linesBeside (k : Core) (runs : List (Nat × Nat)) : List Decl → Bool
  | [] => true
  | r :: rs => (span 0 2049).any fun b =>
    k.linesFree b r.lines && (runs.all fun x => x.2 == 0 || r.lines == 0 || !rangesMeet b r.lines x.1 x.2) &&
      Core.linesBeside k ((b, r.lines) :: runs) rs

/-- A crew of one declaration with its lines at a base leaves room for crews of others (R67, R190, R269). -/
def Core.beside (k : Core) (d : Decl) (base : Nat) (rs : List Decl) : Bool :=
  let sum (f : Decl → Nat) : Nat := (rs.map f).sum
  decide (k.crews.length + rs.length < 16) && decide (d.waves + sum (fun r => r.waves) ≤ k.freeSlots.length) &&
  decide (k.vUse + d.waves * d.vregs + sum (fun r => r.waves * r.vregs) ≤ 4096) &&
  decide (k.sUse + d.waves * d.sregs + sum (fun r => r.waves * r.sregs) ≤ 2048) &&
  decide (k.inUse (fun x => x.acc) + d.acc + sum (fun r => r.acc) ≤ 16) &&
  decide (k.inUse (fun x => x.slabq) + d.slabq + sum (fun r => r.slabq) ≤ 2048) && k.linesBeside [(base, d.lines)] rs

/-- A crew of a node at a scratchpad base keeps off the resources reserved for other nodes (R346). -/
def Core.spares (k : Core) (node : Nat) (d : Decl) (base : Nat) : Bool :=
  let rs := k.reserved.filter fun r => r.node != node
  rs.isEmpty || (k.without (rs.flatMap fun r => r.taken)).beside d base (rs.map fun r => r.decl)

/-- A node's crew of a declaration fits the core's free room. -/
def Core.fits (k : Core) (node : Nat) (d : Decl) : Bool :=
  k.roomFor d && (span 0 2049).any fun b => k.linesFree b d.lines && k.spares node d b

/-- Crews that a command still on its way places on a core. -/
def State.incoming (s : State) (core : Nat) : Bool :=
  let l := (s.cluster (clusterOf core)).down
  (l.flight ++ l.waiting).any fun c => match c with
    | .place _ ms => ms.any fun m => m.1 == core
    | _ => false

/-- Contexts of the crews on a cluster other than one. -/
def State.foreign (s : State) (cl ctx : Nat) : Bool := (s.clusterCtxs cl).any fun c => c != ctx

/-- A core may take crews at all (R25, R335, R357). One that a context's partition left stays reserved for a crew whose save
was refused its heap run (R397). -/
def State.usable (s : State) (core : Nat) : Bool :=
  let k := s.core core
  decide (core < 192) && !k.condemned && !k.testAsked && !k.testing && !(s.cluster (clusterOf core)).out &&
  k.crews.all fun e => !e.2.refused

/-- A core may take a crew of a context for a node (R74, R333, R346). -/
def State.takes (s : State) (core ctx node : Nat) (d : Decl) : Bool :=
  s.usable core && (s.ctx ctx).partition.contains core && !s.incoming core &&
  !((s.cluster (clusterOf core)).fused && s.foreign (clusterOf core) ctx) && (s.core core).fits node d

/-- The cores on which an audited original ran: its replay goes elsewhere (R356). -/
def State.ranOn (s : State) (replay : Option Nat) : List Nat := ((replay.bind fun u => s.audit? u).map fun a => a.ran).getD []

/-- The cores that a node's next placement may use. -/
def State.coresFor (s : State) (n : Node) : List Nat :=
  (s.ctx n.ctx).partition.filter fun c => s.takes c n.ctx n.uid n.rec_.decl && !(s.ranOn n.replay).contains c

/-- The next crew or set fits somewhere (R333, R25). -/
def State.fitsNode (s : State) (n : Node) : Bool :=
  let l := s.coresFor n
  l.any fun c => decide ((l.filter fun d => clusterOf d == clusterOf c).length ≥ n.width)

/-- The core on which a member of a resume entry goes (R353): a set's member on the core of the cluster that SETCORE names. -/
def ResumeEntry.coreOf (e : ResumeEntry) (core : Nat) (m : SavedCrew) : Nat := if e.set then clusterOf core * 4 + m.setcore else core

/-- What a saved crew needs: its declaration, with the waves that it had. -/
def ResumeEntry.need (e : ResumeEntry) (m : SavedCrew) : Decl := { e.decl with waves := m.waves }

/-- Bins of a core that hold nothing. -/
def Core.freeBins (k : Core) : List Nat := (span 0 16).filter fun i => (k.bins.find i).isNone

/-- The slot granted to a crew. -/
def State.slotFor (s : State) (node cidx : Nat) : Option (Nat × Nat) :=
  (s.hazel.granted.find? fun g => g.1 == node && g.2.1 == cidx).map fun g => g.2.2

/-- A resume entry fits at a core, or on its cluster for a set (R353, R354, R360): room for what each member holds, and its
shadow slot. -/
def State.fitsResume (s : State) (e : ResumeEntry) (core : Nat) : Bool :=
  e.members.all fun m =>
    let c := e.coreOf core m
    s.takes c e.ctx e.node (e.need m) && decide (m.bins ≤ (s.core c).freeBins.length) && (s.slotFor e.node m.cidx).isSome &&
    !(s.ranOn e.replay).contains c

/-- The context may be given crews (R41, R340, R375). -/
def State.dispatchable (s : State) (ctx : Nat) : Bool :=
  let c := s.ctx ctx
  c.valid && !c.stopping && decide (c.pend.length ≤ 256) && s.contextsOk

/-- A node waits for placement. -/
def State.wants (s : State) (n : Node) : Bool :=
  n.ready.isSome && !n.stopped && (s.nextCrew n).isSome && s.dispatchable n.ctx

/-- Effective priority of a resume entry (R353). -/
def State.entryPrio (s : State) (e : ResumeEntry) : Nat := if e.replay.isSome then 0 else s.agedPrio e.prio e.time

/-- Nothing that fits is to be served before work of a priority and acceptance (R333). -/
def State.first (s : State) (prio uid : Nat) : Bool :=
  let before (p u : Nat) : Bool := decide (p > prio) || (p == prio && decide (u < uid))
  (s.hazel.pool.all fun n => !(before (s.nodePrio n) n.uid && s.wants n && s.fitsNode n)) &&
  s.hazel.resumes.all fun e => !(before (s.entryPrio e) e.node && s.dispatchable e.ctx &&
    (s.ctx e.ctx).partition.any fun c => s.fitsResume e c)

/-! ### Shadow slots (R360) -/

/-- The length of a shadow slot in blocks: the largest record of a declaration (R350, R360). -/
def Decl.slen (d : Decl) : Nat :=
  let waves := min 32 (min (4096 / d.vregs) (2048 / d.sregs))
  ceilDiv (1280 + waves * (6528 + 4 * d.sregs + 128 * d.vregs) + 256 * d.slabq + 16384 * d.acc + 128 * d.lines + 64 * 512) 2048

/-- A run of blocks lies in a context's save area (R40, R349). -/
def State.inSaveArea (s : State) (base blocks ctx : Nat) : Bool :=
  base % 2048 == 0 && decide (blocks > 0) &&
  (span (base / 2 ^ 25) ((base + 2048 * blocks - 1) / 2 ^ 25 + 1 - base / 2 ^ 25)).all fun r => s.inTable (r * 2 ^ 25) 3 ctx

/-- Every run of heap blocks in use, by base and length: shadow slots, granted runs, records, and the log copies of audits
(R349, R360, R368). -/
def State.heapRuns (s : State) : List (Nat × Nat) :=
  (s.cores.flatMap fun c => c.2.crews.flatMap fun e => e.2.slot.toList ++ e.2.grant.toList) ++
  (s.hazel.resumes.flatMap fun e => e.members.map fun m => (m.base, m.len)) ++
  (s.clusters.flatMap fun c => (c.2.up.flight ++ c.2.up.waiting).flatMap fun x => match x with
    | .saved _ e => e.members.map fun m => (m.base, m.len)
    | _ => []) ++
  (s.hazel.granted.map fun g => g.2.2) ++ s.hazel.audits.flatMap fun a => a.pages.map fun p => (p.2, 8)

/-- A run lies in a context's save area, clear of the runs in use but for the given ones. -/
def State.runOk (s : State) (base blocks ctx : Nat) (own : List (Nat × Nat)) : Bool :=
  s.inSaveArea base blocks ctx && s.heapRuns.all fun r => own.contains r || !rangesMeet base (2048 * blocks) r.1 (2048 * r.2)

/-- The context and declaration of a node. -/
def State.shapeOf (s : State) (u : Nat) : Option (Nat × Decl) :=
  match s.node? u with
  | some n => some (n.ctx, n.rec_.decl)
  | none => none

/-- A placed crew without a shadow slot: one that `cleave` made, whose Acorn asks for a slot before its first shadow
(R360, log 97). -/
def State.slotless (s : State) (node cidx : Nat) : Option (Nat × Nat × Crew) :=
  s.cores.findSome? fun c => (c.2.crews.find? fun e =>
    e.2.node == node && e.2.cidx == cidx && e.2.slot.isNone && decide (e.2.phase = .shadow)).map fun e => (c.1, e)

/-- SHADOW_SLOT_GRANT (R360). A refusal leaves the crew unplaced. The slot starts as zero units. -/
def execShadowSlotGrant (s : State) : Res :=
  match s.arg with
  | .shadowSlotGrant u c run =>
    match s.slotless u c with
    | some (core, i, k) =>
      match run with
      | none => .next s
      | some base =>
        allow (s.runOk base k.decl.slen k.ctx [])
          (((span (base / 2048) k.decl.slen).foldl State.wipeBlock s).modCrew core i fun k => { k with slot := some (base, k.decl.slen) })
    | none =>
      match s.shapeOf u with
      | none => .fault .notEnabled
      | some (ctx, d) =>
        if (s.slotFor u c).isSome then .fault .notEnabled
        else match run with
          | none => .next s
          | some base =>
            allow (s.runOk base d.slen ctx [])
              (((span (base / 2048) d.slen).foldl State.wipeBlock s).modHazel fun h => { h with granted := h.granted ++ [(u, c, base, d.slen)] })
  | _ => .fault .noArg

/-- A granted slot is taken. -/
def State.takeSlot (s : State) (node cidx : Nat) : State :=
  s.modHazel fun h => { h with granted := h.granted.filter fun g => !(g.1 == node && g.2.1 == cidx) }

/-! ### Placement by Hazel -/

/-- Nothing is reserved for a node any more (R346): its crew has a place, or it is over. -/
def State.unreserve (s : State) (node : Nat) : State :=
  { s with cores := s.cores.mapAll fun _ k => { k with reserved := k.reserved.filter fun r => r.node != node } }

/-- NODE_PLACEMENT (R333, R25, R73, R74): Hazel sends PLACE for the next crew or set to cores of one cluster. A FUSE that the
node asks for follows the PLACE, so that the Acorn judges it with the node's crews resident. -/
def execNodePlacement (s : State) : Res :=
  match s.arg with
  | .nodePlacement u cores =>
    match s.node? u with
    | none => .fault .notEnabled
    | some n =>
      match s.nextCrew n, cores with
      | some c, core :: _ =>
        let cl := clusterOf core
        if !(s.wants n && s.first (s.nodePrio n) n.uid && cores.length == n.width && decide cores.Nodup &&
            cores.all fun x => clusterOf x == cl && (s.coresFor n).contains x) then .fault .notEnabled
        else
          let s := if (s.cluster cl).fused && (s.clusterCtxs cl).isEmpty then s.sendDown cl .unfuse else s
          let s := s.sendDown cl (.place u (cores.zip (span c n.width)))
          let s := if n.rec_.fuse then s.sendDown cl .fuse else s
          .next ((s.unreserve u).modNode u fun n => match n.again with
            | _ :: rest => { n with again := rest }
            | [] => { n with placed := n.placed + n.width })
      | _, _ => .fault .notEnabled
  | _ => .fault .noArg

/-! ### A crew leaves its core -/

/-- A command on its way to the Acorn names a crew no more (R358): PREEMPT finds nothing to capture. -/
def Cmd.forget (core crew : Nat) : Cmd → Cmd
  | .preempt d l => .preempt d (l.filter fun x => !(x.1 == core && x.2.1 == crew))
  | c => c

/-- Everything a crew held is freed, with nothing performed: waves, operations, bins, table entry, shadow slot and held heap
run (R163, R305, R311, R351). A saved crew's threads keep their ids (R161). A PREEMPT on its way and what is reserved for an
arriving crew forget it (R346, R358). -/
def State.freeCrew (s : State) (core crew : Nat) (saved : Bool) : State :=
  match s.crew? core crew with
  | none => s
  | some k =>
    let ids := if saved then [] else ((s.core core).members crew).map fun x => x.2.2.id
    let slots := ((s.core core).waves.filter fun e => e.2.crew == crew).map fun e => e.1
    let s := s.modCluster (clusterOf core) fun x => { x with
      down := { x.down with flight := x.down.flight.map (Cmd.forget core crew), waiting := x.down.waiting.map (Cmd.forget core crew) } }
    let s := s.modCore core fun c => { c with
      reserved := c.reserved.map fun r => { r with taken := r.taken.filter fun i => i != crew }
      crews := c.crews.del crew
      waves := c.waves.filter fun e => e.2.crew != crew
      bins := c.bins.filter fun e => e.2.crew != crew
      ops := c.ops.filter fun o => o.crew != crew
      origin := c.origin.filter fun o =>
        !(if o.slot ≥ 0x100 then o.slot == 0x100 + crew else if o.reg ≥ 0x1000 then o.slot == crew else slots.contains o.slot) }
    let s := (span (clusterOf core * 4) 4).foldl (fun (s : State) d => s.modCore d fun c => { c with
      arrivals := c.arrivals.filter fun a => !(a.from_ == core && a.crew == crew)
      deposits := c.deposits.filter fun a => !(a.from_ == core && a.crew == crew) }) s
    let s := (if ids.isEmpty then s else s.dropIds k.ctx ids).freeIds k.ctx core crew
    (s.wakeCore core .room).wakeCore core .engine

/-- A crew is gone with its ids. -/
def State.dropCrew (s : State) (core crew : Nat) : State := s.freeCrew core crew false

/-- A test starts once its core is idle (R357). -/
def State.startTest (s : State) (core : Nat) : State :=
  s.modCore core fun k => if k.testAsked && k.crews.isEmpty then { k with testing := true } else k

/-! ### Completion (R331, R337) -/

/-- Some crew of a node is live, saved, or on its way. -/
def State.nodeLive (s : State) (u : Nat) : Bool :=
  (s.cores.any fun c => c.2.crews.any fun e => e.2.node == u) ||
  (s.hazel.resumes.any fun e => e.node == u) ||
  s.clusters.any fun c =>
    ((c.2.down.flight ++ c.2.down.waiting).any fun x => match x with | .place v _ => v == u | _ => false) ||
    ((c.2.up.flight ++ c.2.up.waiting).any fun x => match x with
      | .ended _ v _ _ _ _ => v == u
      | .saved _ e => e.node == u
      | _ => false)

/-- A node leaves the pool: its outgoing edges are satisfied (R330), its record joins those waiting (R337). -/
def State.finishNode (s : State) (n : Node) (status cause : Nat) (fsum : BitVec 128) : State :=
  let s := s.modHazel fun h => { h with
    pool := (h.pool.filter fun m => m.uid != n.uid).map fun m =>
      let edges := m.edges.filter fun e => e != n.uid
      { m with edges := edges, ready := if edges.isEmpty && m.ready.isNone then some s.cycle else m.ready }
    reqs := h.reqs.filter fun u => u != n.uid
    granted := h.granted.filter fun g => g.1 != n.uid }
  let s := s.unreserve n.uid
  if n.replay.isSome then s else (s.unhold (.node n.uid)).pendRecord n.ctx ⟨n.pkt.node, status, n.late, cause, fsum⟩

/-- NODE_COMPLETE (R331, R337): every crew has ended. A signal is then to be written. -/
def State.completeNode (s : State) (u : Nat) : State :=
  match s.node? u with
  | none => s
  | some n =>
    if n.stopped ∨ n.placed < n.total ∨ n.again ≠ [] ∨ s.nodeLive u then s
    else if n.pkt.sigva = 0 ∨ n.replay.isSome then s.finishNode n 0 0 0
    else s.modNode u fun n => { n with signal := true }

/-- COMPLETION_SIGNAL_WRITE (R118, R337). -/
def execCompletionSignalWrite (s : State) : Res :=
  match s.arg with
  | .completionSignalWrite u =>
    match s.node? u with
    | none => .fault .notEnabled
    | some n =>
      let bad := fsumOf 0 n.pkt.sigva 0 0
      if !n.signal ∨ n.stopped then .fault .notEnabled
      else match s.held? (.node u) with
        | some false => .fault .notEnabled
        | some true => .next (s.finishNode n 5 0 bad)
        | none =>
          match s.signalWrite n.ctx (s.queue n.queue).waitk n.pkt with
          | (.done, s) => .next (s.finishNode n 0 0 0)
          | (.later, _) => .fault .notEnabled
          | (.wait c level, s) => .next (s.holdUnit (.node u) n.ctx n.pkt.sigva c level .write)
          | (.fatal, s) => .next (s.finishNode n 5 0 bad)
  | _ => .fault .noArg

/-- ENDED (R331, R335, R343). -/
def execEnded (s : State) : Res :=
  match s.arg with
  | .ended cl =>
    match (s.cluster cl).up.flight with
    | .ended _ u _ i ks b :: _ =>
      let s := s.modCluster cl fun x => { x with up := x.up.consume }
      .next ((s.modNode u fun n => { n with ended := n.ended + 1, sumI := n.sumI + i, sumK := n.sumK + ks, sumB := n.sumB + b }).completeNode u)
    | _ => .fault .notEnabled
  | _ => .fault .noArg

/-! ### The stop of a context (R311, R339) -/

/-- Nodes of a stopping context whose crews have stopped leave the pool, the faulting one with STATUS 1, the others with
STATUS 2; the stop is over when none is left, and the records discarded with an unusable ring are reported (R340). -/
def State.reap (s : State) (ctx : Nat) : State :=
  let s := s.hazel.pool.foldl (fun (s : State) n =>
    if n.ctx == ctx && n.stopped && !s.nodeLive n.uid then
      match (s.ctx ctx).fault with
      | some f =>
        if f.node = n.uid then s.finishNode n 1 f.cause.code (fsumOf f.pc f.addr f.core f.lane) else s.finishNode n 2 0 0
      | none => s.finishNode n 2 0 0
    else s) s
  if (s.ctx ctx).stopping && (s.hazel.pool.all fun n => n.ctx != ctx) &&
      (s.cores.all fun c => c.2.crews.all fun e => e.2.ctx != ctx) then
    let s := match (s.ctx ctx).ringDead with
      | some n => s.toPewter (.discarded ctx n)
      | none => s
    s.modCtx ctx fun c => { c with stopping := false, fault := none, ids := [], idsRet := [], ringDead := none }
  else s

/-- Hazel stops a context: its clusters are told, its queues stop, its resume entries, requests and audits go, and its
nodes are to complete with STATUS 1 or 2. -/
def State.stopContext (s : State) (ctx : Nat) : State :=
  let s := s.modCtx ctx fun c => { c with stopping := true }
  let qs := (s.hazel.queues.filter fun e => e.2.ctx == ctx).map fun e => e.1
  let s := qs.foldl State.stopQueue s
  let s := s.modHazel fun h => { h with
    resumes := h.resumes.filter fun e => e.ctx != ctx
    audits := h.audits.filter fun a => a.ctx != ctx
    pool := h.pool.map fun n => if n.ctx == ctx then { n with stopped := true, signal := false } else n }
  let s := (span 0 48).foldl (fun (s : State) cl => if (s.clusterCtxs cl).contains ctx then s.sendDown cl (.cancel ctx) else s) s
  s.reap ctx

/-- FAULT (R335, R339, R317): a context fault stops its context; a breakpoint stop is reported to Pewter. -/
def execFault (s : State) : Res :=
  match s.arg with
  | .fault cl =>
    match (s.cluster cl).up.flight with
    | .fault _ _ pc _ core lane ctx _ stop :: _ =>
      let s := s.modCluster cl fun x => { x with up := x.up.consume }
      .next (if stop then s.toPewter (.breakpoint ctx core lane pc) else s.stopContext ctx)
    | _ => .fault .notEnabled
  | _ => .fault .noArg

/-- The crews of a context on a core. -/
def Core.crewsOf (k : Core) (ctx : Nat) : List Nat := (k.crews.filter fun e => e.2.ctx == ctx).map fun e => e.1

/-- CANCEL (R335, R339): every crew of the context on the cluster is gone before its next instruction. -/
def execCancel (s : State) : Res :=
  match s.arg with
  | .cancel cl =>
    match s.headDown cl with
    | some (.cancel ctx) =>
      let s := s.consumeDown cl
      let s := (span (cl * 4) 4).foldl (fun (s : State) c =>
        (((s.core c).crewsOf ctx).foldl (fun (s : State) k => s.dropCrew c k) s).startTest c) s
      .next (s.reap ctx)
    | _ => .fault .notEnabled
  | _ => .fault .noArg

/-- The context has a crew that is still there. -/
def State.crewsLeft (s : State) (ctx : Nat) : Bool := s.cores.any fun c => c.2.crews.any fun e => e.2.ctx == ctx

/-! ### Event rings (R338, R340, R341) -/

/-- A completion record's bytes (R338). -/
def Record.bytes (r : Record) (time : Nat) : List Byte :=
  withCrc (leBytes time 8 ++ leBytes (r.node % 2 ^ 20 + 2 ^ 20 * r.status + (if r.late then 2 ^ 23 else 0) + 2 ^ 24 * r.cause) 4 ++
    leBytes r.fsum.toNat 16)

/-- The ring cannot be used: the context ends, and the records waiting are discarded with those of its stop (R340). Their
number is reported when the stop is over. -/
def State.ringFault (s : State) (ctx : Nat) (cause : Cause) (addr : Nat) : State :=
  let s := (s.modCtx ctx fun c => { c with ringDead := some c.pend.length, pend := [] }).unhold (.events ctx)
  if (s.ctx ctx).stopping then s.reap ctx
  else (s.modCtx ctx fun c => { c with fault := some ⟨cause, 0, addr, 0xFF, 0, 0⟩ }).stopContext ctx

/-- The interrupt of a context's event ring (R341). -/
def State.eventIrq (s : State) (ctx : Nat) : State :=
  (s.irq (s.ctx ctx).irq 2).modCtx ctx fun c => { c with evCount := 0, evOldest := none }

/-- EVENT_RECORD_WRITE (R337, R338, R340, R341). Records of a context wait for its watchdog dump (R366). -/
def execEventRecordWrite (s : State) : Res :=
  match s.arg with
  | .eventRecordWrite ctx =>
    let c := s.ctx ctx
    let hold (s : State) (va k level : Nat) (acc : Access) : Res := .next (s.holdUnit (.events ctx) ctx va k level acc)
    match c.pend with
    | [] => .fault .notEnabled
    | r :: rest =>
      if c.dump.isSome then .fault .notEnabled
      else match s.held? (.events ctx) with
        | some false => .fault .notEnabled
        | some true => .next (s.ringFault ctx .page c.evbase)
        | none =>
          match s.unitRead ctx c.evrd 2 with
          | (.error (.replay _ k level), s) => hold s c.evrd k level .read
          | (.error (.fault x), s) => .next (s.ringFault ctx x c.evrd)
          | (.error _, s) => .next (s.ringFault ctx .perm c.evrd)
          | (.ok ws, s) =>
            if (BitVec.ofNat 64 c.evwr - BitVec.ofNat 64 (dwordOf ws)).toNat = 2 ^ c.evlog then .fault .notEnabled
            else
              let va := c.evbase + 32 * (c.evwr % 2 ^ c.evlog)
              match s.unitPuts (unitAgent ctx) va (codedBytes (r.bytes s.time)) with
              | (some (.replay _ k level), s) => hold s va k level .write
              | (some (.fault x), s) => .next (s.ringFault ctx x va)
              | (some _, s) => .next (s.ringFault ctx .perm va)
              | (none, s) =>
                let s := s.modCtx ctx fun c => { c with
                  pend := rest, evwr := c.evwr + 1, evCount := c.evCount + 1
                  evOldest := some (c.evOldest.getD s.cycle) }
                .next (if (s.ctx ctx).evCount ≥ c.cnt then s.eventIrq ctx else s)
  | _ => .fault .noArg

/-- EVENT_IRQ_TIMER (R341). -/
def execEventIrqTimer (s : State) : Res :=
  match s.arg with
  | .eventIrqTimer ctx =>
    match (s.ctx ctx).evOldest with
    | none => .fault .notEnabled
    | some t =>
      allow ((s.ctx ctx).timeus != 0 && decide (s.cycle ≥ t + (s.ctx ctx).timeus * usCycles)) (s.eventIrq ctx)
  | _ => .fault .noArg

/-! ### PLACE: a crew is set up (R164, R192, R198, R329, R336) -/

/-- Launch values without thread records (R329). -/
def launchPlain (n : Node) (c i : Nat) : Launch :=
  ⟨BitVec.ofNat 58 n.rec_.entry.toNat,
    [coded (BitVec.ofNat 32 (c * n.rec_.crewsz + i)), coded (BitVec.ofNat 32 c), coded (BitVec.ofNat 32 n.pkt.param.toNat),
      coded (BitVec.ofNat 32 (n.pkt.param.toNat / 2 ^ 32)), coded (BitVec.ofNat 32 n.pkt.node)]⟩

/-- What the front end meets at a crew's thread records (R336), and the address that a fault names (R313, R338). -/
inductive Front where
  | ok (l : List Launch)
  | bad (cause : Cause) (pc : VAddr) (addr : Nat)
  | wait (va cond level : Nat)

/-- Read the records of a crew's threads (R336). -/
def State.front (s : State) (n : Node) : List Nat → Front × State
  | [] => (.ok [], s)
  | t :: ts =>
    let va := n.rec_.trec.toNat + 64 * t
    match s.unitGets (unitAgent n.ctx) va 16 with
    | (_, some (.replay _ k level), s) => (.wait va k level, s)
    | (_, some (.fault x), s) => (.bad x 0 va, s)
    | (_, some _, s) => (.bad .perm 0 va, s)
    | (us, none, s) =>
      let pc := dwordOf ((us.take 2).map fun u => u.data)
      let bad := s.badPa n.ctx va (us.take 2)
      if !((us.take 2).all fun u => u.ok) then (.bad .chk (BitVec.ofNat 58 pc) bad, s.unitBad 24 bad)
      else if badTarget (BitVec.ofNat 64 pc) then (.bad .perm (BitVec.ofNat 58 pc) 0, s)
      else match State.front s n ts with
        | (.ok l, s) => (.ok (⟨BitVec.ofNat 58 pc, us.drop 2⟩ :: l), s)
        | r => r

/-- The order of a crew's threads (R336): bins of one PC in ascending PC give full waves, then the remainders follow. -/
def frontOrder (l : List Launch) : List Nat :=
  let byPc := sortBy (fun i => ((l.map fun x => x.pc.toNat).getD i 0)) (span 0 l.length)
  let pcs := (byPc.map fun i => ((l.map fun x => x.pc.toNat).getD i 0)).dedup
  let bin (pc : Nat) : List Nat := byPc.filter fun i => (l.map fun x => x.pc.toNat).getD i 0 == pc
  let pcs := sortBy id pcs
  (pcs.flatMap fun pc => (bin pc).take ((bin pc).length / 32 * 32)) ++ pcs.flatMap fun pc => (bin pc).drop ((bin pc).length / 32 * 32)

/-- A wave's vector registers from its threads' launch units. -/
def launchRegs (vregs : Nat) (ls : List (Nat × Launch)) : Map GUnit :=
  ls.foldl (fun (m : Map GUnit) x =>
    ((x.2.units.take vregs).zipIdx).foldl (fun (m : Map GUnit) u => m.put (32 * u.2 + x.1) u.1 .zero) m) []

/-- The waves of a launched crew, in order. -/
def launchWaves (crew vregs : Nat) (handler : BitVec 64) (order : List Nat) (ls : List Launch) (ids : List Nat) : List Wave :=
  (chunks 32 (ceilDiv order.length 32) order).map fun ix =>
    let lanes := ix.zipIdx.map fun x => (x.2, x.1)
    let l (i : Nat) : Launch := ls.getD i ⟨0, []⟩
    { Wave.fresh crew handler 64 (lanes.map fun x => (x.1, Thread.fresh (ids.getD x.2 0) x.2 (l x.2).pc)) with
      v := launchRegs vregs (lanes.map fun x => (x.1, l x.2)) }

/-- A crew of a context and node before anything is known of it. -/
def Crew.blank (ctx node : Nat) : Crew where
  ctx := ctx
  node := node
  cidx := 0
  prio := 0
  setn := 0
  fuse := false
  audit := none
  replay := none
  decl := ⟨8, 16, 0, 0, 0, 1⟩
  body := CrewBody.fresh
  barto := 0
  spad := []
  base := 0
  interval := 0
  wp := [0, 0, 0, 0]
  escaped := false
  retry := false
  lastBad := none
  issued := 0
  ksteps := 0
  bars := 0
  elapsed := 0
  since := 0
  phase := .shadow
  bkstop := none
  shadow := none
  slot := none
  grant := none
  preempt := none
  refused := false
  unseen := []

/-- A crew at its launch. Its shadow is taken before its first instruction (R359). -/
def Crew.launched (s : State) (core : Nat) (n : Node) (c waves base : Nat) (slot : Option (Nat × Nat)) (audit : Option Nat) : Crew :=
  { Crew.blank n.ctx n.uid with
    cidx := c
    prio := n.rec_.prio
    setn := if n.rec_.set then n.rec_.setn else 0
    fuse := n.rec_.fuse
    audit := audit
    replay := n.replay
    decl := { n.rec_.decl with waves := waves }
    barto := n.rec_.bto
    base := base
    since := s.cycOf core
    slot := slot }

/-! ### Audit (R368) -/

/-- The pages of a footprint, each once, in region order (R368). -/
def pagesOf (l : List (Nat × Nat × Nat)) : List Nat :=
  (l.flatMap fun r => if r.2.1 = 0 then [] else span (r.1 / 16384) ((r.1 + r.2.1 - 1) / 16384 + 1 - r.1 / 16384)).dedup

/-- Copy a page, with the CZ bit of its leaf (R81), into its log copy. -/
def State.copyPage (s : State) (pa : Nat) (cz : Bool) (log : Nat) : State :=
  (span 0 4096).foldl (fun (s : State) i =>
    match s.homeGet (pa + 4 * i) (some cz) with
    | (u, s) => s.homePut (log + 4 * i) u none) s

/-- Copy the footprint into log blocks; none when a page cannot be read. -/
def State.copyPages (s : State) (ctx log : Nat) : List Nat → Option (List (Nat × Nat)) × State
  | [] => (some [], s)
  | p :: ps =>
    match s.translate (unitAgent ctx) (p * 16384) .read with
    | (.mem pa _ _ cz, s) =>
      if pa ≥ hbmSize then (none, s)
      else match State.copyPages (s.copyPage pa cz log) ctx (log + 16384) ps with
        | (some l, s) => (some ((p, log) :: l), s)
        | r => r
    | (_, s) => (none, s)

/-- An audit record's bytes (R370). -/
def auditBytes (time nodeId cidx core rcore outcome sig rsig : Nat) : List Byte :=
  withCrc (leBytes time 8 ++ leBytes nodeId 4 ++ leBytes cidx 4 ++ leBytes core 1 ++ leBytes rcore 1 ++ leBytes outcome 1 ++
    leBytes 0 1 ++ leBytes sig 4 ++ leBytes rsig 4)

/-- AUDIT_RECORD_WRITE (R370): a full ring, or one that cannot be written, drops the record and counts it, and Osmium reports
the count (to Pewter, log 98). -/
def State.auditRecord (s : State) (ctx node nodeId cidx core rcore outcome sig rsig : Nat) : State :=
  let c := s.ctx ctx
  let s := if outcome = 1 then s.toOsm (.auditMismatch ctx node) else s
  let full (s : State) : State :=
    (s.modCtx ctx fun c => { c with auditOver := c.auditOver + 1 }).toPewter (.auditOver ctx ((s.ctx ctx).auditOver + 1))
  if !c.audctl.getLsbD 0 then s
  else if c.auditWr ≥ 2 ^ bvf c.audctl 3 4 then full s
  else match s.unitPuts (unitAgent ctx) (bvf c.audctl 12 46 * 4096 + 32 * c.auditWr)
      (codedBytes (auditBytes s.time nodeId cidx core rcore outcome sig rsig)) with
    | (none, s) => s.modCtx ctx fun c => { c with auditWr := c.auditWr + 1 }
    | (some _, s) => full s

/-- AUDIT_SELECT (R368): judged before A is incremented; crews of sets are never selected. A footprint without pages needs no
log. `ls` is the crew's launch state, which a replay has again (R369). -/
def State.auditSelect (s : State) (n : Node) (c core : Nat) (log : Option Nat) (ls : List Launch) : Option Nat × State :=
  if !n.rec_.audited ∨ n.replay.isSome then (none, s)
  else
    let x := s.ctx n.ctx
    let chosen := x.audctl.getLsbD 0 && !n.rec_.set && x.auditA % 2 ^ bvf x.audctl 7 5 == 0
    let s := s.modCtx n.ctx fun c => { c with auditA := c.auditA + 1 }
    if !chosen then (none, s)
    else
      let skip (s : State) : Option Nat × State := (none, s.auditRecord n.ctx n.uid n.pkt.node c core 0 4 0 0)
      let all := pagesOf n.rec_.regions
      match (if all.isEmpty then some 0 else log) with
      | none => skip s
      | some base =>
        match s.copyPages n.ctx base all with
        | (none, s) => skip s
        | (some pages, s) =>
          match s.fresh with
          | (u, s) => (some u, s.modHazel fun h => { h with audits := h.audits ++
              [⟨u, n.ctx, n.uid, n.pkt.node, c, core, pages, none, none, n.rec_, [core], ls⟩] })

/-! ### PLACE -/

/-- The choices that the Acorn and Hazel make for a crew are free ones (R67, R161, R179, R360, R368). -/
def State.spotOk (s : State) (n : Node) (c core : Nat) (x : Spot) : Bool :=
  let k := s.core core
  let size := n.rec_.size c
  decide (x.crew < 16) && (k.crews.find x.crew).isNone &&
  x.slots.length == ceilDiv size 32 && decide x.slots.Nodup && (x.slots.all fun w => decide (w < 32) && (k.waves.find w).isNone) &&
  decide (ceilDiv size 32 ≤ k.waveRoom n.rec_.decl.vregs n.rec_.decl.sregs) &&
  k.linesFree x.base n.rec_.decl.lines && k.spares n.uid { n.rec_.decl with waves := x.slots.length } x.base &&
  x.ids.length == size && decide x.ids.Nodup && (x.ids.all fun i => decide (i < 2 ^ 24) && !(s.ctx n.ctx).ids.contains i) &&
  (s.slotFor n.uid c).isSome &&
  (match x.log with
  | none => true
  | some b =>
    let pages := (pagesOf n.rec_.regions).length
    pages == 0 || b % 16384 == 0 && s.runOk b (8 * pages) n.ctx [])

/-- Set up one crew (R329, R331): its first instruction will act as a device-scope acquire on every object. -/
def State.setUp (s : State) (n : Node) (c core : Nat) (x : Spot) (ls : List Launch) : State :=
  match s.auditSelect n c core x.log ls with
  | (audit, s) =>
    let order := if n.rec_.threc then frontOrder ls else span 0 ls.length
    let waves := launchWaves x.crew n.rec_.decl.vregs (s.ctx n.ctx).handler order ls x.ids
    let crew := Crew.launched s core n c x.slots.length x.base (s.slotFor n.uid c) audit
    let s := s.modCore core fun k => { k with
      crews := k.crews.set x.crew crew
      waves := (x.slots.zip waves).foldl (fun (m : Map Wave) e => m.set e.1 e.2) k.waves }
    let s := (s.modCtx n.ctx fun c => { c with ids := c.ids ++ x.ids }).takeSlot n.uid c
    s.acquire core n.ctx none 6

/-- The launch values of a crew's threads: a replay has those of the original (R369). -/
def State.launches (s : State) (n : Node) (c : Nat) : Front × State :=
  match n.replay.bind fun u => s.audit? u with
  | some a => (.ok a.launch, s)
  | none =>
  if n.rec_.threc then s.front n ((span 0 (n.rec_.size c)).map fun i => c * n.rec_.crewsz + i)
  else (.ok ((span 0 (n.rec_.size c)).map fun i => launchPlain n c i), s)

/-- The launch values of a placement's members, in order; the front end's first finding ends it, with its core. -/
def State.allLaunches (s : State) (n : Node) : List (Nat × Nat) → Except (Nat × Front) (List (List Launch)) × State
  | [] => (.ok [], s)
  | (core, c) :: l =>
    match s.launches n c with
    | (.ok ls, s) =>
      match State.allLaunches s n l with
      | (.ok r, s) => (.ok (ls :: r), s)
      | r => r
    | (f, s) => (.error (core, f), s)

/-- Set up the members of a placement. -/
def State.setUps (s : State) (n : Node) (l : List (((Nat × Nat) × Spot) × List Launch)) : State :=
  l.foldl (fun (s : State) x => s.setUp n x.1.1.2 x.1.1.1 x.1.2 x.2) s

/-- The placement came too late for the node's bound (R334). -/
def Node.lateAt (n : Node) (cycle : Nat) : Bool :=
  n.late || (n.rec_.latb != 0 && decide (cycle > n.ready.getD cycle + n.rec_.latb * usCycles))

/-- A core gives a placement failure (R74, R335, R357, R397): it is condemned, its cluster has left placement, a test is pending
or running on it, it has left the context's partition, or its cluster is fused for another context. -/
def State.turnsAway (s : State) (core ctx : Nat) : Bool :=
  let k := s.core core
  let x := s.cluster (clusterOf core)
  k.condemned || x.out || k.testAsked || k.testing || !(s.ctx ctx).partition.contains core ||
    (x.fused && s.foreign (clusterOf core) ctx)

/-- A fused cluster without crews is unfused before a new crew's first instruction (R74). -/
def State.unfuseIdle (s : State) (cl : Nat) : State :=
  if (s.cluster cl).fused && (s.clusterCtxs cl).isEmpty then s.setFused cl false else s

/-- TRAPCAUSE (R312) of a fault without an instruction: its cause. -/
def bareCause (c : Cause) : BitVec 64 := BitVec.ofNat 64 c.code

/-- PLACE (R335, R336, R359, R360). A placement failure goes back to Hazel; the placement of a stopped context is
dropped; an invalid PC in a thread record is a context fault with PERM. -/
def execPlace (s : State) : Res :=
  match s.arg with
  | .place cl spots =>
    match s.headDown cl with
    | some (.place u ms) =>
      match s.node? u with
      | none => .next (s.consumeDown cl)
      | some n =>
        if n.stopped ∨ (s.ctx n.ctx).stopping then .next ((s.consumeDown cl).reap n.ctx)
        else if ms.any fun m => s.turnsAway m.1 n.ctx then
          .next ((s.consumeDown cl).modNode u fun n => { n with again := n.again ++ [(ms.map fun m => m.2).headD 0] })
        else if spots.length ≠ ms.length ∨ !((ms.zip spots).all fun e => s.spotOk n e.1.2 e.1.1 e.2) ∨
            !decide (spots.flatMap fun x => x.ids).Nodup then .fault .notEnabled
        else match s.hazel.held.find? fun h => h.who = .node u with
          | some h =>
            if h.fatal then
              .next (((s.unhold (.node u)).consumeDown cl).contextFault n.ctx h.core 0 u .page (bareCause .page) 0 h.va)
            else .fault .notEnabled
          | none =>
            match s.allLaunches n ms with
            | (.ok ls, t) =>
              .next ((((t.unfuseIdle cl).setUps n ((ms.zip spots).zip ls)).consumeDown cl).modNode u fun n =>
                { n with late := n.lateAt s.cycle })
            | (.error (core, .wait va k level), t) => .next (t.holdUnit (.node u) n.ctx va k level .read core)
            | (.error (core, .bad cause pc addr), t) =>
              .next ((t.consumeDown cl).contextFault n.ctx core 0 u cause (bareCause cause) pc addr)
            | (.error (_, .ok _), _) => .fault .notEnabled
    | _ => .fault .notEnabled
  | _ => .fault .noArg

/-! ### Other commands to Acorns -/

/-- CONTINUE (R317): the trapping pod restarts at TRAPPC + 4 or at the PC that the command names. A crew in the middle of a
shadow, a rollback or a capture stays there, and is stopped no more. -/
def execContinueCrew (s : State) : Res :=
  match s.arg with
  | .continueCrew cl =>
    match s.headDown cl with
    | some (.continue_ core crew pc) =>
      let s := s.consumeDown cl
      match (s.crew? core crew).bind fun k => k.bkstop with
      | none => .next s
      | some (slot, lanes) =>
        let t := (s.wave? core slot).elim 0 fun w => w.trappc
        let a := pc.getD (t + 4)
        if pc.any badTarget then .next s
        else
          let s := s.modWave core slot fun w => { w with
            threads := w.threads.mapAll fun l x => if lanes.getLsbD l then { x with hold := .ready, pc := a.setWidth 58 } else x
            sel := a.setWidth 58
            quant := 0 }
          let s := s.modCrew core crew fun k => { k with bkstop := none }
          .next (if (s.crew? core crew).any fun k => decide (k.phase = .stopped) then s.setPhase core crew .run else s)
    | _ => .fault .notEnabled
  | _ => .fault .noArg

/-- TEST_END (R25, R357): a failed test condemns the core. -/
def execTestEnd (s : State) : Res :=
  match s.arg with
  | .testEnd core passed =>
    if !(s.core core).testing then .fault .notEnabled
    else
      let t := s.modCore core fun k => { k with testing := false, testAsked := false, condemned := k.condemned || !passed }
      .next (if passed then t else t.sendUp (clusterOf core) (.condemned core))
  | _ => .fault .noArg

/-- MISSCAP_WRITE (R183). The waves permitted at the last turn stay so until the next one (DESIGN CHOICE, log 107). -/
def execMisscapWrite (s : State) : Res :=
  match s.arg with
  | .misscapWrite cl =>
    match s.headDown cl with
    | some (.misscap core v) =>
      .next ((s.consumeDown cl).modCore core fun k =>
        let limit := if bvf v 0 6 ≤ 32 then bvf v 0 6 else bvf k.misscap 0 6
        { k with misscap := BitVec.ofNat 64 (bvf v 16 8 * 2 ^ 16 + limit) })
    | _ => .fault .notEnabled
  | _ => .fault .noArg

end Sys2Proof.Machine
end

