-- ==== Sys2Proof/Machine/CrewEv.lean ====
section
/-! DEFINITION. Steps of crews and waves: timeouts, bins (R171, R181), throttling (R182, R183), the end of a crew (R305)
with its audit (R369, R370), the barrier watchdog (R365, R366), and
the live sets of R347 and R348. -/

namespace Sys2Proof.Machine

/-! ### Timeouts and bins -/

/-- WAIT_TIMEOUT (R171): the cycle in which the count runs out has ended for the wave, whose port has issued in it, and its mask is
not complete. Every timeout that is due and not taken so comes when the cycle ends (`State.endCycle`). -/
def execWaitTimeout (s : State) : Res :=
  match s.arg with
  | .waitTimeout core slot lane =>
    match (s.wave? core slot).bind fun w => w.threads.find lane with
    | some t =>
      match t.hold with
      | .wait q _ e => allow (decide (s.cycOf core ≥ e) && s.ported.contains (portOf core slot) &&
          !((s.wave? core slot).getD .empty).complete q) (s.modWave core slot fun w => w.timeOut lane)
      | _ => .fault .notEnabled
    | none => .fault .notEnabled
  | _ => .fault .noArg

/-- BIN_TIMEOUT (R181): the bin is to form a wave. -/
def execBinTimeout (s : State) : Res :=
  match s.arg with
  | .binTimeout core i =>
    match (s.core core).bins.find i with
    | none => .fault .notEnabled
    | some b =>
      allow (!b.flush && decide (s.cycOf core ≥ b.since + b.limit))
        (s.modCore core fun c => { c with bins := c.bins.alter i fun b => { b with flush := true } })
  | _ => .fault .noArg

/-- A continuation record's thread values: v0 to v13 (R180). -/
def recLaunch (pc : VAddr) (r : List GUnit) : Launch := ⟨pc, r.drop 2⟩

/-- The lanes of a wave whose record has gone to a bin that has no room yet (R181). -/
def Wave.emitWaits (w : Wave) : BitVec 32 :=
  laneSet ((w.threads.filter fun e => match e.2.hold with
    | .emitted m => m.getLsbD e.1
    | _ => false).map fun e => e.1)

/-- Threads of a crew whose records filled a bin go on once the waves that its bins form have room (R181). -/
def State.binsGo (s : State) (core crew : Nat) (k : Crew) : State :=
  if s.binRoom core crew k (s.core core).bins then
    s.modCore core fun c => { c with waves := c.waves.mapAll fun _ w => if w.crew == crew then w.emitGo w.emitWaits else w }
  else s

/-- BIN_WAVE_FORM (R181): a new wave in a free slot; ranks continue upwards, renumbered first when they would pass 1,023. A crew
whose last thread has exited, and which is to be captured, forms it too, for a record holds at least one wave (R350). -/
def execBinWaveForm (s : State) : Res :=
  match s.arg with
  | .binWaveForm core i slot ids =>
    match (s.core core).bins.find i with
    | none => .fault .notEnabled
    | some b =>
      match s.crew? core b.crew with
      | none => .fault .notEnabled
      | some k =>
        let n := b.recs.length
        let still := match k.phase with
          | .run => true
          | .capture _ => ((s.core core).members b.crew).isEmpty
          | _ => false
        if !(b.flush && still && !(s.ctx k.ctx).stopping && decide (slot < 32) && (s.wave? core slot).isNone &&
            decide ((s.core core).waveRoom k.decl.vregs k.decl.sregs ≥ 1) &&
            decide (((s.core core).members b.crew).length + n ≤ 1024) && ids.length == n && decide ids.Nodup &&
            ids.all fun x => decide (x < 2 ^ 24) && !(s.ctx k.ctx).ids.contains x) then .fault .notEnabled
        else
          let s := if (s.core core).nextRank b.crew + n > 1024 then s.renumber core b.crew [] else s
          let r0 := (s.core core).nextRank b.crew
          let lanes := span 0 n
          let w := { Wave.fresh b.crew (s.ctx k.ctx).handler k.body.quantum
              (lanes.map fun l => (l, Thread.fresh (ids.getD l 0) (r0 + l) b.pc)) with
            v := launchRegs (min 14 k.decl.vregs) (lanes.map fun l => (l, recLaunch b.pc (b.recs.getD l []))) }
          let s := s.modCore core fun c => { c with bins := c.bins.del i, waves := c.waves.set slot w }
          .next (((s.modCtx k.ctx fun c => { c with ids := c.ids ++ ids }).wakeCore core .room).binsGo core b.crew k)
  | _ => .fault .noArg

/-! ### Throttling -/

/-- Turns of 256 cycles that have passed on a core (R182, R183). -/
def State.turns (s : State) (core : Nat) : Nat := s.cycOf core / 256

/-- LLS_DECAY (R182): once for every 256 cycles. -/
def execLlsDecay (s : State) : Res :=
  match s.arg with
  | .llsDecay core =>
    allow (decide ((s.core core).decays < s.turns core)) (s.modCore core fun c => { c with
      decays := c.decays + 1
      waves := c.waves.mapAll fun _ w => { w with lls := w.lls - w.lls / 8 } })
  | _ => .fault .noArg

/-- THROTTLE_SELECT (R183): every 256 cycles, the LIMIT waves with the highest scores, ties to the lower slot, whether throttling
acts now or not. With LIMIT 0 there is no choice, and no wave is held before the next turn (DESIGN CHOICE, log 107). -/
def execThrottleSelect (s : State) : Res :=
  match s.arg with
  | .throttleSelect core =>
    allow (decide ((s.core core).selects < s.turns core)) (s.modCore core fun c =>
      let ranked := sortBy (fun (e : Nat × Wave) => 255 - e.2.lls) c.waves
      { c with
        selects := s.turns core
        permitted := if bvf c.misscap 0 6 = 0 then none else some ((ranked.take (bvf c.misscap 0 6)).map fun e => e.1) })
  | _ => .fault .noArg

/-- The other slots of the port that serves a slot (R165). -/
def portMates (slot : Nat) : List Nat := (span (slot / 8 * 8) 8).filter fun i => i != slot

/-- THROTTLE_BYPASS (R183): the wave's instruction is issued next, regardless. -/
def execThrottleBypass (s : State) : Res :=
  match s.arg with
  | .throttleBypass core slot =>
    match (s.wave? core slot).bind fun w => w.heldAt with
    | some t => allow (decide (s.cycOf core ≥ t + 4096)) { s with agenda := .issue core slot none (portMates slot) :: s.agenda }
    | none => .fault .notEnabled
  | _ => .fault .noArg

/-- No wave of a crew has an open window (R187). -/
def Core.windowsShut (k : Core) (crew : Nat) : Bool := k.waves.all fun e => e.2.crew != crew || e.2.nprem == 0

/-- A crew leaves a shadow or a rollback: a pre-emption that waits for it is served, else a stop at a breakpoint goes on, else
the crew runs (R187, R317, R355, R385). -/
def State.settle (s : State) (core crew : Nat) : State :=
  match s.crew? core crew with
  | none => s
  | some k =>
    s.setPhase core crew (match k.preempt with
      | some m => if m ≠ 0 ∧ (s.core core).windowsShut crew then .capture m else if k.bkstop.isSome then .stopped else .run
      | none => if k.bkstop.isSome then .stopped else .run)

/-- NOPRE_WINDOW_EXPIRE (R187, R317, R351): a pending request is served before any new window opens, and in a crew that a
breakpoint stopped too. -/
def execNopreWindowExpire (s : State) : Res :=
  match s.arg with
  | .nopreWindowExpire core slot =>
    match s.wave? core slot with
    | none => .fault .notEnabled
    | some w =>
      match s.crew? core w.crew with
      | none => .fault .notEnabled
      | some k =>
        match k.preempt with
        | some m =>
          allow (w.nprem == 0 && (s.core core).windowsShut w.crew && decide (k.phase = .run ∨ k.phase = .stopped) && m != 0)
            (s.setPhase core w.crew (.capture m))
        | none => .fault .notEnabled
  | _ => .fault .noArg

/-! ### Register writes and rejected patterns -/

/-- TDESC_WRITE (R267): over quota, SLAB is raised by the pod of the crew that writes. -/
def execTdescWrite (s : State) : Res :=
  match s.arg with
  | .tdescWrite core crew m v =>
    match s.crew? core crew with
    | none => .fault .notEnabled
    | some k =>
      match s.writeTdesc core crew m.toNat k v with
      | some s => .next s
      | none =>
        match s.pod with
        | some p =>
          if p.core = core ∧ (s.wave? core p.slot).elim false (fun w => w.crew == crew) then
            withPod s [] fun p _ _ => .trap s (.plain .slab p.low)
          else .next s
        | none => .next s
  | _ => .fault .noArg

/-- ARRIVE_WRITE (R202). -/
def execArriveWrite (s : State) : Res :=
  match s.arg with
  | .arriveWrite core slot v =>
    match s.wave? core slot with
    | none => .fault .notEnabled
    | some _ => .next (s.writeArrive core slot v)
  | _ => .fault .noArg

/-- ILLEGAL_ENCODING (R213, R214): ILL or UND at the issuing pod. -/
def execIllegalEncoding (s : State) : Res :=
  match s.arg with
  | .illegalEncoding ill _ => withRegs s [] fun p _ _ => .trap s (.plain (if ill then .ill else .und) p.low)
  | _ => .fault .noArg

/-! ### Live sets -/

/-- The side table's entry for a PC (R347); none makes every allocated register live. -/
def State.liveEntry (s : State) (core ctx : Nat) (pc : VAddr) : Option (BitVec 128) × State :=
  let o := pc.toNat % 2 ^ 55
  if o ≥ 2 ^ 53 then (none, s)
  else match s.unitGets ⟨core, 0xFF, ctx, none, 0, none, 0⟩ (0x240000000000000 + 2 * (o / 8 * 8)) 4 with
    | (us, none, s) =>
      if us.all fun u => u.ok then (some (BitVec.ofNat 128 (us.foldr (fun u n => u.data.toNat + 2 ^ 32 * n) 0)), s)
      else (none, s.unitBad (25 + clusterOf core) (0x240000000000000 + 2 * (o / 8 * 8)))
    | (_, some _, s) => (none, s)

/-- The union of the entries at some PCs (R348). -/
def State.liveAt (s : State) (core ctx : Nat) : List VAddr → Option (BitVec 128) × State
  | [] => (some 0, s)
  | pc :: pcs =>
    match s.liveEntry core ctx pc with
    | (none, s) => (none, s)
    | (some m, s) =>
      match State.liveAt s core ctx pcs with
      | (none, s) => (none, s)
      | (some m', s) => (some (m ||| m'), s)

/-- The live set of a wave at its threads' PCs, or at its region entry; everything while IN is set (R348). -/
def State.waveLive (s : State) (core ctx : Nat) (w : Wave) (atEntry : Bool) : BitVec 128 × State :=
  if w.inHandler then (BitVec.allOnes 128, s)
  else
    let pcs := if atEntry then [BitVec.ofNat 58 (w.idempc.toNat / 2 * 2)] else (w.threads.map fun e => e.2.pc).dedup
    match s.liveAt core ctx pcs with
    | (some m, s) => (m, s)
    | (none, s) => (BitVec.allOnes 128, s)

/-- A live mask holds a vector register. -/
def liveV (m : BitVec 128) (r : Nat) : Bool := m.getLsbD r
/-- A live mask holds a uniform register, four at a time. -/
def liveS (m : BitVec 128) (r : Nat) : Bool := m.getLsbD (112 + r / 4)

/-- The live masks of a crew's waves, at their PCs or at their region entries (R345, R347, R348). -/
def State.masks (s : State) (core ctx : Nat) (atEntry : Bool) : Map Wave → List (BitVec 128) × State
  | [] => ([], s)
  | (_, w) :: l =>
    match s.waveLive core ctx w atEntry with
    | (m, s) =>
      match State.masks s core ctx atEntry l with
      | (ms, s) => (m :: ms, s)

/-! ### What a record keeps of a thread, a wave, a bin (R350, R359) -/

/-- A thread at an instruction boundary: blocked at `join`, `wait` or `cbar`, at a breakpoint, or ready. A `wait` keeps its
remaining count, and an `emit` that has taken the thread's record is behind it. -/
def Thread.frozen (t : Thread) (now : Nat) : Thread :=
  { t with
    pc := match t.hold with
      | .emitted _ => t.pc + 4#58
      | _ => t.pc
    hold := match t.hold with
      | .join q => .join q
      | .wait q pd e => .wait q pd (e - now)
      | .cbar => .cbar
      | .bkpt => .bkpt
      | _ => .ready }

/-- A restored thread. -/
def Thread.thawed (t : Thread) (now : Nat) : Thread :=
  { t with hold := match t.hold with
    | .wait q pd r => .wait q pd (now + r)
    | h => h }

/-- IDEMCYC (R343). -/
def Wave.idemcyc (w : Wave) (now : Nat) : Nat := w.idemAcc + w.idemSince.elim 0 fun t => now - t

/-- The selected PC and the quantum counter after a restore (R354, R362). -/
def Wave.restart (w : Wave) (q : Nat) : Wave :=
  { w with sel := lowestPc ((w.threads.filter fun e => e.2.hold = .ready).map fun e => e.2.pc) w.sel, quant := 0, quantum := q }

/-- A restored wave. -/
def Wave.thawed (w : Wave) (now q : Nat) : Wave :=
  { w with threads := w.threads.mapAll fun _ t => t.thawed now, idemSince := w.idemSince.map fun _ => now }.restart q

/-- A bin with the cycles left before its flush. -/
def Bin.frozen (b : Bin) (now : Nat) : Bin := { b with since := 0, limit := b.limit - (now - b.since) }
/-- A restored bin. -/
def Bin.thawed (b : Bin) (now : Nat) : Bin := { b with since := now }

/-! ### Shadows -/

/-- The crew's asynchronous operations and deposits have completed or stopped (R136, R359). An operation held behind an early
stop that nothing observes does neither, and what waits for it waits on: the model's choice, for the spec gives no way out
(DESIGN CHOICE, log 85). -/
def State.crewQuiet (s : State) (core crew : Nat) : Bool :=
  ((s.core core).ops.all fun o => o.crew != crew) &&
  (span (clusterOf core * 4) 4).all fun d =>
    ((s.core d).deposits.all fun x => !(x.from_ == core && x.crew == crew)) &&
    (s.core d).arrivals.all fun x => !(x.from_ == core && x.crew == crew)

/-- The waves of a crew. -/
def Core.wavesOf (k : Core) (crew : Nat) : Map Wave := k.waves.filter fun e => e.2.crew == crew
/-- The bins of a crew. -/
def Core.binsOf (k : Core) (crew : Nat) : Map Bin := k.bins.filter fun e => e.2.crew == crew

/-! ### The barrier watchdog -/

/-- The state byte of a thread (R350). -/
def Hold.code : Hold → Nat
  | .join _ => 1
  | .wait _ _ _ => 2
  | .cbar => 3
  | .bkpt => 5
  | _ => 0

/-- The dump of R366. -/
def State.dumpBytes (s : State) (core crew : Nat) (k : Crew) (b : CrewBar) : List Byte :=
  let ms := sortBy (fun x => x.2.2.rank) ((s.core core).members crew)
  let id := ((s.node? k.node).map fun n => n.pkt.node).getD 0
  let arrived := (ms.filter fun x => x.2.2.hold = .cbar).map fun x => x.2.2.rank
  withCrc (leBytes 0x4E4C5744 4 ++ leBytes k.ctx 2 ++ leBytes ms.length 2 ++ leBytes id 4 ++ leBytes k.cidx 4 ++
    leBytes core 1 ++ leBytes 0 1 ++ leBytes b.count 2 ++ leBytes b.arrived 2 ++ leBytes 0 2 ++ leBytes b.firstPc.toNat 8 ++
    leBytes (b.cycles (s.cycOf core)) 8 ++ leBytes s.time 8 ++ leBytes 0 12) ++
  setBytes arrived 128 ++
  ms.flatMap fun x => leBytes x.2.2.pc.toNat 8 ++ leBytes x.2.2.id 3 ++ leBytes x.2.2.rank 2 ++ leBytes x.2.2.hold.code 1 ++ leBytes 0 2

/-- BARRIER_WATCHDOG_FIRE (R365, R366): BARTO as a context fault, with the dump kept for the diagnostic area. -/
def execBarrierWatchdogFire (s : State) : Res :=
  match s.arg with
  | .barrierWatchdogFire core crew =>
    match s.crew? core crew with
    | none => .fault .notEnabled
    | some k =>
      match k.body.bar with
      | none => .fault .notEnabled
      | some b =>
        if k.barto = 0 ∨ k.phase ≠ .run ∨ (s.ctx k.ctx).stopping ∨ b.cycles (s.cycOf core) < k.barto * 1024 then .fault .notEnabled
        else match k.replay with
          | some u => .next (s.endReplay u 3)
          | none =>
            let d := codedBytes (s.dumpBytes core crew k b)
            let s := if (s.ctx k.ctx).diagva.getLsbD 0 then s.modCtx k.ctx fun c => { c with dump := some d } else s
            .next (s.contextFault k.ctx core 0 k.node .barto (bareCause .barto) b.firstPc 0)
  | _ => .fault .noArg

/-- The dump is over. -/
def State.endDump (s : State) (ctx : Nat) : State := (s.modCtx ctx fun c => { c with dump := none }).unhold (.dump ctx)

/-- DIAG_DUMP_WRITE (R366): once every crew of the context has stopped; a fatal fault or verdict discards the dump. -/
def execDiagDumpWrite (s : State) : Res :=
  match s.arg with
  | .diagDumpWrite ctx =>
    match (s.ctx ctx).dump with
    | none => .fault .notEnabled
    | some us =>
      if s.crewsLeft ctx then .fault .notEnabled
      else match s.held? (.dump ctx) with
        | some false => .fault .notEnabled
        | some true => .next (s.endDump ctx)
        | none =>
          let va := bvf (s.ctx ctx).diagva 15 43 * 2 ^ 15
          match s.unitPuts (unitAgent ctx) va us with
          | (some (.replay page k level), s) => .next (s.holdUnit (.dump ctx) ctx (page * 16384) k level .write)
          | (_, s) => .next (s.endDump ctx)
  | _ => .fault .noArg

/-! ### The end of a crew -/

/-- The bytes of a region, by an agent's translation; none when a page cannot be read (R369). -/
def State.regionBytes (s : State) (g : Agent) (r : Nat × Nat × Nat) : Option (List Byte) × State :=
  let a := r.1 / 4 * 4
  match s.unitGets g a (ceilDiv (r.1 + r.2.1 - a) 4) with
  | (us, none, s) => (some (((unitBytes us).drop (r.1 - a)).take r.2.1), s)
  | (_, some _, s) => (none, s)

/-- The signature over the regions that the node writes, in order (R369). -/
def State.signature (s : State) (g : Agent) (prev : BitVec 32) : List (Nat × Nat × Nat) → Option (BitVec 32) × State
  | [] => (some prev, s)
  | r :: l =>
    if r.2.2 < 2 then State.signature s g prev l
    else match s.regionBytes g r with
      | (none, s) => (none, s)
      | (some bs, s) => State.signature s g (crc32c prev bs) l

/-- The end of an audited original: its signature, and a replay crew that waits for placement (R369). -/
def State.endOriginal (s : State) (u : Nat) : State :=
  match s.audit? u with
  | none => s
  | some a =>
    match s.signature (unitAgent a.ctx) 0 a.rec_.regions, s.node? a.node with
    | (some sig, s), some n =>
      match (s.modAudit u fun a => { a with sig := some sig }).fresh with
      | (v, s) => s.modHazel fun h => { h with pool := h.pool ++ [{ n with
          uid := v, edges := [], ready := some s.cycle, placed := 0, again := [], ended := 0, sumI := 0, sumK := 0, sumB := 0
          late := false, asked := 0, signal := false, replay := some u }] }
    | (_, s), _ =>
      (s.modHazel fun h => { h with audits := h.audits.filter fun x => x.uid != u }).auditRecord a.ctx a.node a.nodeId a.cidx a.core 0 4 0 0

/-- A crew of a replay is still to end: one on a core, or a saved one unless a trap has ended the replay (R369). -/
def State.replayLeft (s : State) (u : Nat) : Bool :=
  (s.cores.any fun c => c.2.crews.any fun e => e.2.replay == some u) ||
  (s.hazel.resumes.any fun e => e.replay == some u) ||
  ((s.audit? u).any fun a => a.fate.isNone) && s.clusters.any fun c => (c.2.up.flight ++ c.2.up.waiting).any (Cmd.savesReplay u)

/-- The end of a replay's last crew: its record, with OUTCOME 0 or 1, or as its trap gave it (R369, R370). -/
def State.endAudit (s : State) (core u : Nat) : State :=
  match s.audit? u with
  | none => s
  | some a =>
    if s.replayLeft u then s else
    match s.signature { unitAgent a.ctx with audit := some u } 0 a.rec_.regions with
    | (r, s) =>
      let sig := (a.sig.getD 0).toNat
      let rsig := (r.getD 0).toNat
      let outcome := a.fate.getD (if sig = rsig then 0 else 1)
      (s.auditRecord a.ctx a.node a.nodeId a.cidx a.core core outcome sig rsig).modHazel fun h =>
        { h with audits := h.audits.filter fun x => x.uid != u }

/-- A multicast that names the core and that a member of the crew's set issued is still held in that member's scheduler, so
that the crew does not end yet (R392). -/
def State.awaited (s : State) (core : Nat) (k : Crew) : Bool :=
  (s.setMates core k).any fun m => (s.core (clusterOf core * 4 + m.1)).ops.any fun o =>
    o.form == .mcast && o.crew == m.2.1 && o.mask.testBit (core % 4)

/-- CREW_END (R163, R305, R331, R369, R392): the last thread is gone, no bin holds a record, every operation is over, and no
multicast of the set is still to come; a device-scope release on every object, and everything is freed. -/
def execCrewEnd (s : State) : Res :=
  match s.arg with
  | .crewEnd core crew =>
    match s.crew? core crew with
    | none => .fault .notEnabled
    | some k =>
      if !((s.core core).members crew).isEmpty ∨ !((s.core core).binsOf crew).isEmpty ∨ !s.crewQuiet core crew ∨
          s.awaited core k ∨ (s.ctx k.ctx).stopping then .fault .notEnabled
      else
        let s := s.release core k.ctx none 6
        let s := match k.audit with | some u => s.endOriginal u | none => s
        let s := (s.dropCrew core crew).startTest core
        let s := match k.replay with | some u => s.endAudit core u | none => s
        .next (s.sendUp (clusterOf core) (.ended core k.node k.cidx k.issued k.ksteps k.bars))
  | _ => .fault .noArg

end Sys2Proof.Machine
end

