-- ==== Sys2Proof/Machine/Record.lean ====
section
/-! DEFINITION. The record of a saved or flushed crew (R194, R350): its units as the save engine writes them, and the crew
that the resume engine reads from them (R354). -/

namespace Sys2Proof.Machine

/-- Zero bytes. -/
def zeros (n : Nat) : List Byte := List.replicate n 0

/-! ### Writing -/

/-- A thread's block (R350). -/
def Thread.block (t : Thread) : List Byte :=
  let rest : Nat := match t.hold with | .wait _ _ r => r | _ => 0
  leBytes t.pc.toNat 8 ++ leBytes t.depth 4 ++ leBytes (t.id % 2 ^ 24 + 2 ^ 31) 4 ++ leBytes (t.rank % 1024) 4 ++ leBytes t.entDepth 4 ++
  ((span 0 16).flatMap fun i => leBytes (t.stack.getD i 0).toNat 8) ++ leBytes rest 4 ++ leBytes t.hold.code 1 ++
  leBytes (if t.drop then 1 else 0) 1 ++ zeros 34

/-- An empty lane's block. -/
def emptyBlock : List Byte := zeros 156 ++ leBytes 4 1 ++ zeros 35

/-- The header of a wave section. -/
def Wave.header (w : Wave) (live : BitVec 128) (now : Nat) : List Byte :=
  let mma : Nat × Nat := match w.mma with | some m => (4, m.steps) | none => (0, 0)
  leBytes w.live.toNat 4 ++
  leBytes ((if w.idemBit then 1 else 0) + (if w.inHandler then 2 else 0) + mma.1) 1 ++ leBytes mma.2 1 ++ zeros 2 ++
  ([w.idempc, w.arrive.setWidth 64, w.trapcause, w.trappc, w.trapaddr, w.ehbase, w.chkinfo, w.chkaddr].flatMap fun x => leBytes x.toNat 8) ++
  leBytes w.entered.toNat 4 ++ leBytes live.toNat 16 ++ leBytes w.nprem 4 ++ leBytes (w.idemcyc now) 8 ++ zeros 152

/-- The granule of a wave section that shows a register's parity failure (R194, R350): a predicate, a lane mask, a frame of a
lane's return stack, a control register of the wave that the section holds (R195). A wave that still has to report a restored
failure shows it at IDEMPC. -/
def Wave.parityWord (w : Wave) (key : Nat) : Option Nat :=
  if key ≥ 0x40000 then
    let l := key % 32
    let i := (w.thread l).depth - 1 - (key - 0x40000) / 32
    if (key - 0x40000) / 32 < (w.thread l).depth ∧ i < 16 then some (64 + 48 * l + 6 + 2 * i) else none
  else if key ≥ 0x20000 then some (64 + 32 * 48 + (key - 0x20000) / 32)
  else if key = parRestored then some 2
  else if key < 64 then some (64 + 32 * 48 + 8 + 2 * (key - 16))
  else match key - 64 with
    | 0x010 => some 4
    | 0x011 => some 23
    | 0x012 => some 2
    | 0x013 => some 14
    | 0x014 => some 16
    | 0x030 => some 6
    | 0x031 => some 8
    | 0x032 => some 10
    | 0x033 => some 12
    | _ => none

/-- The granule of the crew section that shows the parity failure of a control register of the crew (R194, R350); ALLOC is
rebuilt and not saved (R195). -/
def crewParityWord (crn : Nat) : Option Nat :=
  match crn with
  | 0x000 => some 0
  | 0x001 => some 2
  | 0x008 => some 4
  | 0x009 => some 6
  | 0x00A => some 8
  | 0x00B => some 10
  | 0x020 => some 12
  | 0x021 => some 14
  | 0x022 => some 16
  | 0x028 => some 18
  | _ => none

/-- The granule of the matrix section that shows the parity failure of a tile descriptor. -/
def descParityWord (crn : Nat) : Option Nat := if 0x100 ≤ crn ∧ crn < 0x120 then some (2 * (crn - 0x100)) else none

/-- Granules of a section with a failure shown: the code's complement (R350). -/
def spoilAt (l : List GUnit) (ws : List Nat) : List GUnit := ws.foldl (fun l i => l.modify i fun u => GUnit.spoiled u.data) l

/-- The units of a wave section: header, lanes, predicates, masks, live uniform and vector registers. -/
def Wave.section_ (w : Wave) (live : BitVec 128) (vregs sregs now : Nat) : List GUnit :=
  let f := fun (t : Thread) => t.frozen now
  let head := codedBytes (w.header live now ++
    ((span 0 32).flatMap fun l => match w.threads.find l with | some t => (f t).block | none => emptyBlock) ++
    ((span 0 8).flatMap fun n => leBytes (w.p.getD n 0).toNat 4) ++
    ((span 0 12).flatMap fun n => leBytes (w.mask n).member.toNat 4 ++ leBytes (w.mask n).arrived.toNat 4))
  spoilAt head (w.parity.filterMap w.parityWord) ++ (((span 0 sregs).filter (liveS live)).map fun r => w.s.getD r .zero) ++
  ((span 0 vregs).filter (liveV live)).flatMap fun r => (span 0 32).map fun l =>
    if (w.threads.find l).isSome then w.v.getD (32 * r + l) .zero else .zero

/-- The trap of a pending stop (R350). The address is that of R130's trap. -/
def Stop.bytes (x : Stop) : List Byte :=
  leBytes x.cause.code 1 ++ leBytes (if x.cause = .chk then x.site else 0) 1 ++
  leBytes (if x.cause = .chk then x.syn.toNat else 0) 1 ++
  leBytes ((if x.addr.isSome then 1 else 0) + (if x.bar.isNone then 2 else 0)) 1 ++ leBytes (x.bar.getD 0) 4 ++
  leBytes (x.addr.getD 0) 8 ++ zeros 8

/-- The crew section, 512 bytes. -/
def Crew.section_ (k : Crew) (now : Nat) : List Byte :=
  let b := k.body
  let bar : Nat × Nat × Nat := match b.bar with | some x => (x.count, x.arrived, x.cycles now) | none => (0, 0, 0)
  ([b.quantum, b.binto, k.ab 0, k.ab 1, k.ab 2, k.ab 3, b.tol.toNat, b.maxrank, b.used * 2 ^ 16 + k.decl.slabq, k.barto].flatMap
    fun x => leBytes x 8) ++
  ((span 0 4).flatMap fun i => leBytes (k.wp.getD i 0) 8) ++ leBytes b.touched.toNat 256 ++
  leBytes bar.1 2 ++ leBytes bar.2.1 2 ++
  leBytes (((span 0 4).map fun i => if (b.stops.find i).isSome then 2 ^ i else 0).foldl (· + ·) (if k.bkstop.isSome then 16 else 0)) 1 ++
  ((span 0 4).flatMap fun i => leBytes ((b.stops.find i).elim 0 fun x => x.ecause) 1) ++ zeros 7 ++
  ((span 0 4).flatMap fun i => (b.stops.find i).elim (zeros 24) Stop.bytes) ++ leBytes bar.2.2 8 ++ zeros 24

/-- The scratchpad lines that a record holds. -/
def CrewBody.lines (b : CrewBody) : List Nat := (span 0 2048).filter fun l => b.touched.getLsbD l

/-- The matrix section: descriptors, then the occupied slabs in register order (R268). -/
def CrewBody.matrix (b : CrewBody) : List GUnit :=
  spoilAt (codedBytes ((span 0 32).flatMap fun n => leBytes (b.mreg n).desc.toNat 8)) (b.parity.filterMap descParityWord) ++
  (span 0 32).flatMap fun n => (b.mreg n).img.take (64 * (b.tdesc n).slabs) ++
    List.replicate (64 * (b.tdesc n).slabs - (b.mreg n).img.length) .zero

/-- The bin section: header i is that of bin i. -/
def binSection (bins : Map Bin) (now : Nat) : List GUnit :=
  codedBytes ((span 0 16).flatMap fun i => match bins.find i with
    | some b => leBytes b.pc.toNat 8 ++ leBytes b.recs.length 4 ++ leBytes (b.frozen now).limit 4
    | none => zeros 16) ++
  bins.flatMap fun e => e.2.recs.flatten

/-- Live bytes (R345) for the given live masks of the waves. -/
def liveBytes (k : Crew) (bins : Map Bin) (live : List (BitVec 128)) : Nat :=
  let v (m : BitVec 128) : Nat := ((span 0 k.decl.vregs).filter (liveV m)).length
  let u (m : BitVec 128) : Nat := ((span 0 k.decl.sregs).filter (liveS m)).length
  1280 + (live.map fun m => 6528 + 4 * u m + 128 * v m).sum + 256 * k.body.used + 16384 * k.decl.acc +
    128 * k.body.lines.length + 64 * (bins.map fun e => e.2.recs.length).sum

/-- What a record's header says beside the crew itself. -/
structure Head where
  method  : Nat
  nodeId  : Nat
  setcore : Nat
  elapsed : Nat
  time    : Nat
  deriving DecidableEq, Repr

/-- The units of a record (R350): `live` gives each wave's saved mask. -/
def recordUnits (h : Head) (k : Crew) (waves : Map Wave) (bins : Map Bin) (live : List (BitVec 128)) (now : Nat) : List GUnit :=
  let ws := (waves.zip live).flatMap fun x => x.1.2.section_ x.2 k.decl.vregs k.decl.sregs now
  let accs := (span 0 k.decl.acc).flatMap fun n => (span 0 4096).map fun i => (k.body.accs.getD n ⟨[]⟩).el.getD i .zero
  let spad := k.body.lines.flatMap fun l => (span 0 32).map fun i => k.spad.getD (32 * l + i) .zero
  let mat := k.body.matrix
  let body := spoilAt (codedBytes (k.section_ now)) (k.body.parity.filterMap crewParityWord) ++ ws ++ mat ++ accs ++ spad ++ binSection bins now
  let blocks := ceilDiv (256 + 4 * body.length) 2048
  let body := body ++ List.replicate (512 * blocks - 64 - body.length) .zero
  let moff := 768 + 4 * ws.length
  let aoff := moff + 4 * mat.length
  let poff := aoff + 4 * accs.length
  let noff := poff + 4 * spad.length
  let head := leBytes 0x4E4C4831 4 ++ leBytes 1 2 ++ leBytes k.ctx 2 ++ leBytes h.method 1 ++ leBytes waves.length 1 ++
    leBytes (k.decl.vregs / 8) 1 ++ leBytes (k.decl.sregs / 16) 1 ++ leBytes k.decl.acc 1 ++
    leBytes ((if k.setn ≠ 0 then 1 else 0) + (if k.fuse then 2 else 0) + (if k.audit.isSome then 4 else 0) + (if k.replay.isSome then 8 else 0)) 1 ++
    leBytes k.setn 1 ++ leBytes h.setcore 1 ++ leBytes h.nodeId 4 ++ leBytes k.cidx 4 ++ leBytes k.decl.lines 2 ++
    leBytes k.body.lines.length 2 ++ leBytes k.body.used 2 ++ leBytes (bins.map fun e => e.2.recs.length).sum 2 ++
    leBytes blocks 4 ++ zeros 4 ++ leBytes k.issued 8 ++ leBytes k.ksteps 4 ++ leBytes k.bars 4 ++ leBytes (h.elapsed % 2 ^ 48) 8 ++
    leBytes h.time 8 ++ leBytes moff 4 ++ leBytes aoff 4 ++ leBytes poff 4 ++ leBytes noff 4 ++ zeros 160 ++
    leBytes (crc32c 0 (unitBytes body)).toNat 4
  codedBytes (withCrc head) ++ body

/-! ### Reading -/

/-- A number in the bytes of units, from a byte offset that is a multiple of 4 or inside one word. -/
def unitsAt (us : List GUnit) (off n : Nat) : Nat :=
  bytesAt (unitBytes ((us.drop (off / 4)).take (n / 4 + 2))) (off % 4) n

/-- The header's checks and limits (R354 step 1): MAGIC, VERSION, CTX, METHOD, HCRC, BCRC and every field. -/
def headOk (us : List GUnit) (ctx len : Nat) (methods : List Nat) : Bool :=
  let n := unitsAt us
  n 0 4 == 0x4E4C4831 && n 4 2 == 1 && n 6 2 == ctx && methods.contains (n 8 1) &&
  decide (1 ≤ n 9 1) && decide (n 9 1 ≤ 32) && decide (1 ≤ n 10 1) && decide (n 10 1 ≤ 14) && decide (1 ≤ n 11 1) && decide (n 11 1 ≤ 4) &&
  decide (n 12 1 ≤ 8) && decide (n 13 1 < 16) && (n 14 1 == 0 || (decide (2 ≤ n 14 1) && decide (n 14 1 ≤ 4))) &&
  (bitAt (n 13 1) 0 == decide (n 14 1 ≠ 0)) && decide (n 15 1 < 4) && decide (n 16 4 < 2 ^ 20) &&
  decide (n 24 2 ≤ 2048) && n 24 2 % 8 == 0 && decide (n 26 2 ≤ n 24 2) && decide (n 28 2 ≤ 2048) && decide (n 30 2 ≤ 512) &&
  n 32 4 == len && n 36 4 == 0 && n 46 2 == 0 && n 62 2 == 0 && n 88 160 == 0 &&
  n 252 4 == (crc32c 0 (unitBytes (us.take 63))).toNat && n 248 4 == (crc32c 0 (unitBytes (us.drop 64))).toNat

/-- The crew section's limits (R167, R198, R201, R260, R269 to R271, R350, R365). -/
def crewOk (us : List GUnit) : Bool :=
  let n := unitsAt us
  let stops := n 628 1
  decide (1 ≤ n 256 8) && decide (n 256 8 ≤ 4096) && decide (1 ≤ n 264 8) && decide (n 264 8 ≤ 65535) &&
  decide (n 304 8 < 2 ^ 33) && decide (1 ≤ n 312 8) && decide (n 312 8 ≤ 32) &&
  n 320 2 / 4096 == 0 && decide (n 320 2 ≤ 2048) && n 322 2 == n 28 2 && n 324 4 == 0 && decide (n 28 2 ≤ n 320 2) && n 332 4 == 0 &&
  decide (stops < 32) && decide (n 624 2 ≤ 1024) && decide (n 626 2 ≤ 1024) && n 633 7 == 0 && n 744 24 == 0 &&
  ((span 0 4).all fun i => decide (n (272 + 8 * i) 8 < 2 ^ 58)) &&
  (span 0 4).all fun i =>
    let o := 640 + 24 * i
    if bitAt stops i then
      [5, 6, 7, 13].contains (n o 1) && decide (n (o + 3) 1 < 4) && decide (n (o + 4) 4 < 2 ^ 18) && n (o + 16) 8 == 0
    else n o 24 == 0 && n (629 + i) 1 == 0

/-- A lane block's limits (R162, R350); `deep` is the greatest DEPTH. -/
def laneOk (us : List GUnit) (off deep : Nat) (live : Bool) : Bool :=
  let n (i k : Nat) : Nat := unitsAt us (off + i) k
  n 158 34 == 0 &&
  if live then
    decide (n 0 8 < 2 ^ 58) && n 0 1 % 2 == 0 && decide (n 12 4 < 2 ^ 24 + 2 ^ 31) && decide (n 12 4 ≥ 2 ^ 31) && decide (n 16 4 < 1024) &&
    decide (n 8 4 ≤ deep) && decide (n 20 4 ≤ deep) && [0, 1, 2, 3, 5].contains (n 156 1) && decide (n 157 1 < 2)
  else n 0 156 == 0 && n 156 1 == 4 && n 157 1 == 0

/-- A wave section's limits, and its length in granules (R184, R202, R312 to R314, R350). -/
def waveOk (us : List GUnit) (vregs sregs deep : Nat) (shadow : Bool) : Option Nat :=
  let n := unitsAt us
  let live : BitVec 128 := BitVec.ofNat 128 (n 76 16)
  let lanes := BitVec.ofNat 32 (n 0 4)
  if lanes ≠ 0 && decide (n 4 1 < 8) && decide (n 5 1 ≤ 64) && n 6 2 == 0 && n 104 152 == 0 &&
      (n 92 4 == 0 || shadow && decide (n 92 4 ≤ 65536)) &&
      decide (n 8 8 < 2 ^ 58) && n 20 4 == 0 && [32, 40, 48].all (fun o => decide (n o 8 < 2 ^ 58)) &&
      ((span 0 32).all fun l => laneOk us (256 + 192 * l) deep (lanes.getLsbD l)) then
    some (64 + 32 * 48 + 8 + 24 + ((span 0 sregs).filter (liveS live)).length + 32 * ((span 0 vregs).filter (liveV live)).length)
  else none

/-- The limits of some waves' sections, and the granules that they take. -/
def wavesOk (vregs sregs deep : Nat) (shadow : Bool) : Nat → List GUnit → Option Nat
  | 0, _ => some 0
  | k + 1, us =>
    (waveOk us vregs sregs deep shadow).bind fun n => (wavesOk vregs sregs deep shadow k (us.drop n)).map fun m => n + m

/-- The sections stand where the header says, one after another (R350). -/
def layoutOk (us : List GUnit) (deep : Nat) : Bool :=
  let n := unitsAt us
  let m := us.drop (n 72 4 / 4)
  match wavesOk (8 * n 10 1) (16 * n 11 1) deep (n 8 1 == 3) (n 9 1) (us.drop 192) with
  | none => false
  | some w =>
    n 72 4 == 768 + 4 * w && n 76 4 == n 72 4 + 256 + 256 * n 28 2 && n 80 4 == n 76 4 + 16384 * n 12 1 &&
    n 84 4 == n 80 4 + 128 * n 26 2 && decide (n 84 4 + 256 + 64 * n 30 2 ≤ 2048 * n 32 4) &&
    (((span 0 32).map fun i => (TDesc.ofBits (BitVec.ofNat 64 (unitsAt m (8 * i) 8))).slabs).sum == n 28 2) &&
    (((span 0 2048).filter fun l => bitAt (n (368 + l / 8) 1) (l % 8)).length == n 26 2) &&
    ((span 0 16).all fun i => decide (unitsAt (us.drop (n 84 4 / 4)) (16 * i + 8) 4 ≤ 32)) &&
    ((span 0 16).map fun i => unitsAt (us.drop (n 84 4 / 4)) (16 * i + 8) 4).sum == n 30 2

/-- A record passes its checks (R354 step 1): the header, and the limits of every section (log 76). `deep` is the greatest DEPTH in
the context (R162). -/
def recordOk (us : List GUnit) (ctx len deep : Nat) (methods : List Nat) : Bool :=
  headOk us ctx len methods && crewOk us && layoutOk us deep

/-- The cause of a code (R310). -/
def causeOf (n : Nat) : Cause :=
  match n with
  | 5 => .page
  | 6 => .perm
  | 13 => .hbmue
  | _ => .chk

/-- A pending stop from its trap and ECAUSE. The record holds SITE for CHK only: a marked granule of a barrier object stopped
the stream with ECAUSE 4 and SITE 0x0C, any other with SITE 0x07 (R62, R129, R130). -/
def stopOf (us : List GUnit) (off ecause : Nat) : Stop :=
  let n (i k : Nat) : Nat := unitsAt us (off + i) k
  let cause := causeOf (n 0 1)
  ⟨cause, ecause, if cause = .chk then n 1 1 else if ecause = 4 then 0x0C else 7, BitVec.ofNat 8 (n 2 1), if bitAt (n 3 1) 0 then some (n 8 8) else none,
    if bitAt (n 3 1) 1 then none else some (n 4 4)⟩

/-- A thread from its lane block. Its mask is the one that holds its arrival bit, and `pd` is the predicate of the `wait`
at which it stands (R171). -/
def threadOf (us : List GUnit) (off : Nat) (q pd : Nat) : Thread :=
  let n (i k : Nat) : Nat := unitsAt us (off + i) k
  { id := n 12 4 % 2 ^ 24
    rank := n 16 4 % 1024
    pc := BitVec.ofNat 58 (n 0 8)
    stack := (span 0 (min 16 (n 8 4))).map fun i => BitVec.ofNat 64 (n (24 + 8 * i) 8)
    depth := n 8 4
    entDepth := n 20 4
    drop := bitAt (n 157 1) 0
    shDepth := n 8 4
    hold := match n 156 1 with
      | 1 => .join q
      | 2 => .wait q pd (n 152 4)
      | 3 => .cbar
      | 5 => .bkpt
      | _ => .ready
    last := 0 }

/-- A wave from its section, and the length of the section in granules. `pdOf` reads the predicate of the `wait` at a PC. -/
def waveOf (us : List GUnit) (vregs sregs : Nat) (pdOf : VAddr → Nat) : Wave × Nat :=
  let n := unitsAt us
  let w (i : Nat) : Word := (us.getD i .zero).data
  let p0 := 64 + 32 * 48
  let q0 := p0 + 8
  let live : BitVec 128 := BitVec.ofNat 128 (n 76 16)
  let lanes := lanesOf (w 0)
  let inMask (l : Nat) : Nat := ((span 0 12).find? fun q => (w (q0 + 2 * q + 1)).getLsbD l).getD 0
  let ts := lanes.map fun l => (l, threadOf us (256 + 192 * l) (inMask l) (pdOf (BitVec.ofNat 58 (n (256 + 192 * l) 8))))
  let sl := (span 0 sregs).filter (liveS live)
  let vl := (span 0 vregs).filter (liveV live)
  let s0 := q0 + 24
  let v0 := s0 + sl.length
  let q0pc := ((ts.filter fun t => (w q0).getLsbD t.1).map fun t => t.2.pc)
  ({ Wave.empty with
    threads := ts
    v := vl.zipIdx.foldl (fun (m : Map GUnit) r =>
      (span 0 32).foldl (fun (m : Map GUnit) l => m.put (32 * r.1 + l) (us.getD (v0 + 32 * r.2 + l) .zero) .zero) m) []
    s := sl.zipIdx.foldl (fun (m : Map GUnit) r => m.put r.1 (us.getD (s0 + r.2) .zero) .zero) []
    p := (span 0 8).foldl (fun (m : Map (BitVec 32)) i => m.put i (w (p0 + i)) 0) []
    q := (span 0 12).foldl (fun (m : Map Mask) i => m.put i ⟨w (q0 + 2 * i), w (q0 + 2 * i + 1)⟩ ⟨0, 0⟩) []
    idempc := BitVec.ofNat 64 (n 8 8)
    arrive := BitVec.ofNat 32 (n 16 4)
    trapcause := BitVec.ofNat 64 (n 24 8)
    trappc := BitVec.ofNat 64 (n 32 8)
    trapaddr := BitVec.ofNat 64 (n 40 8)
    ehbase := BitVec.ofNat 64 (n 48 8)
    chkinfo := BitVec.ofNat 64 (n 56 8)
    chkaddr := BitVec.ofNat 64 (n 64 8)
    entered := BitVec.ofNat 32 (n 72 4)
    nprem := n 92 4
    idemAcc := n 96 8
    idemSince := if n 8 8 = 0 then none else some 0
    parity := if (us.take s0).all fun u => u.ok then [] else [parRestored]
    mma := if bitAt (n 4 1) 2 then some ⟨n 5 1, lowestPc q0pc 0, false⟩ else none }, v0 + 32 * vl.length)

/-- The waves of a record, with the granules after them. -/
def wavesOf (vregs sregs : Nat) (pdOf : VAddr → Nat) : Nat → List GUnit → List Wave × List GUnit
  | 0, us => ([], us)
  | k + 1, us =>
    match waveOf us vregs sregs pdOf with
    | (w, n) =>
      match wavesOf vregs sregs pdOf k (us.drop n) with
      | (ws, r) => (w :: ws, r)

/-- The matrix registers of a record: descriptors at the head, slabs after them. -/
def mregsOf (desc : Nat → BitVec 64) (slabs : List GUnit) : List Nat → Map MReg
  | [] => []
  | n :: ns =>
    let k := 64 * (TDesc.ofBits (desc n)).slabs
    (n, ⟨desc n, slabs.take k⟩) :: mregsOf desc (slabs.drop k) ns

/-- The bins of a record: entry PC, cycles left, records. -/
def binsFrom (crew : Nat) (heads : List (VAddr × Nat × Nat)) (us : List GUnit) : List Bin :=
  match heads with
  | [] => []
  | (pc, count, left) :: hs =>
    let rs := chunks 16 count us
    if count = 0 then binsFrom crew hs us
    else ⟨crew, pc, rs, 0, left, decide (count ≥ 32), 0⟩ :: binsFrom crew hs (us.drop (16 * count))

/-- What a record gives back: the crew as it stands before its shadow, its waves in order, its bins. -/
structure Restored where
  crew  : Crew
  waves : List Wave
  bins  : List Bin
  lines : Nat
  deriving DecidableEq, Repr

/-- A crew from a record, on a seed that gives what the record does not: context, node, place, slot, audit (R354 steps 2 to 4). INTERVAL, the escaped bit and the retry allowance start afresh. A control register
or tile descriptor of the crew whose code shows a failure is reported by the first instruction of each wave (R194). -/
def restored (us : List GUnit) (seed : Crew) (crew now : Nat) (pdOf : VAddr → Nat) : Restored :=
  let n := unitsAt us
  let b64 (off : Nat) : BitVec 64 := BitVec.ofNat 64 (n off 8)
  let moff := n 72 4
  let m := us.drop (moff / 4)
  let ws := wavesOf (8 * n 10 1) (16 * n 11 1) pdOf (n 9 1) (us.drop 192)
  let touched : BitVec 2048 := BitVec.ofNat 2048 (leNat (unitBytes ((us.drop 92).take 64)))
  let lines := (span 0 2048).filter fun l => touched.getLsbD l
  let spad := us.drop (n 80 4 / 4)
  let accs := us.drop (n 76 4 / 4)
  let bs := us.drop (n 84 4 / 4)
  let sound := ((us.drop 64).take 128).all (fun u => u.ok) && (m.take 64).all fun u => u.ok
  let waves := if sound then ws.1 else ws.1.map fun w => { w with parity := [parRestored] }
  let first := (ws.1.flatMap fun w => (w.threads.filter fun t => t.2.hold = .cbar).map fun t => t.2)
  let bar : Option CrewBar :=
    if n 626 2 = 0 then none
    else some ⟨n 624 2, n 626 2, ((sortBy (fun (t : Thread) => t.rank) first).map fun t => t.pc).headD 0, n 736 8, none⟩
  let crew_ : Crew := { seed with
    cidx := n 20 4, setn := n 14 1, fuse := bitAt (n 13 1) 1
    decl := ⟨8 * n 10 1, 16 * n 11 1, n 12 1, n 24 2, n 320 2 % 4096, n 9 1⟩
    body := {
      quantum := n 256 8, binto := n 264 8
      ab := (span 0 4).map fun i => BitVec.ofNat 58 (n (272 + 8 * i) 8)
      tol := b64 304, maxrank := n 312 8
      mregs := mregsOf (fun i => BitVec.ofNat 64 (dwordOf (((m.drop (2 * i)).take 2).map fun u => u.data))) (m.drop 64) (span 0 32)
      accs := (span 0 (n 12 1)).map fun i => (i, ⟨((accs.drop (4096 * i)).take 4096).zipIdx.foldl
        (fun (a : Map GUnit) x => a.put x.2 x.1 .zero) []⟩)
      touched := touched, bar := bar
      stops := ((span 0 4).filter fun i => bitAt (n 628 1) i).map fun i => (i, stopOf us (640 + 24 * i) (n (629 + i) 1))
      parity := [] }
    barto := n 328 4
    spad := lines.zipIdx.foldl (fun (a : Map GUnit) l =>
      (span 0 32).foldl (fun (a : Map GUnit) i => a.put (32 * l.1 + i) (spad.getD (32 * l.2 + i) .zero) .zero) a) []
    interval := 0, wp := (span 0 4).map fun i => n (336 + 8 * i) 8
    escaped := false, retry := false, lastBad := none
    issued := n 40 6, ksteps := n 48 4, bars := n 52 4, elapsed := n 56 6, since := now
    phase := .shadow, bkstop := none, shadow := none, grant := none, preempt := none, refused := false, unseen := [] }
  let heads := (span 0 16).map fun i =>
    let h := bs.drop (4 * i)
    let f (off k : Nat) : Nat := unitsAt h off k
    (BitVec.ofNat 58 (f 0 8), f 8 4, f 12 4)
  ⟨crew_, waves, binsFrom crew heads (bs.drop 64), n 24 2⟩

end Sys2Proof.Machine
end

