-- ==== Sys2Proof/Machine/Shadow.lean ====
section
/-! DEFINITION. Barrier-interval shadows and rollback (R359 to R364): a shadow is a record with METHOD 3 in the crew's slot,
and a rollback reads it back. -/

namespace Sys2Proof.Machine

/-- The predicate of the `wait` at a PC, read through the core's text. -/
def State.waitPred (s : State) (core ctx : Nat) (pc : VAddr) : Nat :=
  match s.unitGets ⟨core, 0xFF, ctx, none, 0, none, 0⟩ (pc.toNat / 4 * 4) 2 with
  | (us, none, _) =>
    match decode ((unitBytes us).drop (pc.toNat % 4)) with
    | .ok (.wait _ _ d) _ => d.toNat
    | _ => 0
  | _ => 0

/-- The record in a shadow slot, as its units stand in the heap: its header gives the length (R350). -/
def State.slotRecord (s : State) (slot : Nat × Nat) : List GUnit × State :=
  match s.homeGets slot.1 16 with
  | (h, s) => s.homeGets slot.1 (512 * min slot.2 (unitsAt h 32 4))

/-- The lines that a record's TOUCHED names. -/
def recordLines (us : List GUnit) : List Nat := (span 0 2048).filter fun l => bitAt (unitsAt us (368 + l / 8) 1) (l % 8)

/-- A line's image in a record; zero units where the record holds none. -/
def recordLine (us : List GUnit) (lines : List Nat) (l : Nat) : List GUnit :=
  match lines.idxOf? l with
  | some i => (span 0 32).map fun j => us.getD (unitsAt us 80 4 / 4 + 32 * i + j) .zero
  | none => List.replicate 32 .zero

/-- The scratchpad image that a shadow leaves in the slot (R70, R359): lines whose INTERVAL bit is set are copied, the others
stay as the slot holds them. A crew's first shadow copies every line that is touched. -/
def shadowSpad (k : Crew) (old : List GUnit) : Map GUnit :=
  if k.shadow.isNone then k.spad
  else
    let lines := recordLines old
    k.body.lines.foldl (fun (m : Map GUnit) l =>
      let us := if k.interval.getLsbD l then (span 0 32).map fun j => k.spad.getD (32 * l + j) .zero else recordLine old lines l
      us.zipIdx.foldl (fun (m : Map GUnit) u => m.put (32 * l + u.2) u.1 .zero) m) []

/-- DEPTH at the shadow, of which spills are judged (R364). -/
def Wave.markDepth (w : Wave) : Wave := { w with threads := w.threads.mapAll fun _ t => { t with shDepth := t.depth } }

/-- SHADOW (R359, R361, R364): the crew as it stands is written to its slot, with the lines of the interval copied into the
slot's image; the interval is new. It waits for the crew's operations and deposits; a matrix instruction completes within
a step, or is one that the resume has yet to continue (R354). -/
def execShadow (s : State) : Res :=
  match s.arg with
  | .shadow core crew =>
    match s.crew? core crew with
    | none => .fault .notEnabled
    | some k =>
      match k.slot with
      | none => .fault .notEnabled
      | some slot =>
        if k.phase ≠ .shadow ∨ (s.ctx k.ctx).stopping ∨ !s.crewQuiet core crew then .fault .notEnabled
        else
          let ws := (s.core core).wavesOf crew
          let bins := (s.core core).binsOf crew
          let now := s.cycOf core
          match s.masks core k.ctx false ws with
          | (live, s) =>
            match (if k.shadow.isSome then s.slotRecord slot else ([], s)) with
            | (old, s) =>
              let id := ((s.node? k.node).map fun n => n.pkt.node).getD 0
              let us := recordUnits ⟨3, id, core % 4, k.elapsed + (now - k.since), s.time⟩ { k with spad := shadowSpad k old } ws bins live now
              let sh : Shadow := ⟨ws.map fun e => e.1, bins.map fun e => e.1, (k.body.bar.map fun b => b.firstPc).getD 0⟩
              let s := (s.homePuts slot.1 us).modCore core fun c =>
                { c with waves := c.waves.mapAll fun _ w => if w.crew == crew then w.markDepth else w }
              let s := s.modCrew core crew fun k => { k with
                shadow := some sh, interval := 0, escaped := false, retry := false, lastBad := none }
              .next ((s.settle core crew).freeIds k.ctx core crew)
  | _ => .fault .noArg

/-- Give entries places: their own where it is free, other free places for the rest; none when there are too few. -/
def seats (free own : List Nat) : Option (List Nat) :=
  let spare := free.filter fun i => !own.contains i
  let moved := own.filter fun i => !free.contains i
  if moved.length > spare.length then none
  else some (own.map fun i => if free.contains i then i else spare.getD (moved.idxOf i) 0)

/-- Scratchpad lines of the interval become their shadow image (R362). -/
def restoreLines (spad image : Map GUnit) (interval : BitVec 2048) : Map GUnit :=
  let kept := spad.filter fun e => !interval.getLsbD (e.1 / 32)
  image.foldl (fun (m : Map GUnit) e => if interval.getLsbD (e.1 / 32) then m.set e.1 e.2 else m) kept

/-- What a rollback puts back (R362): the crew's part of a shadow record, its waves and bins, at the places found for them. A
wave keeps its score, and the wave that faulted its CHKINFO and CHKADDR. Thread ids made in the interval are free (R361). Where
the shadow shows a breakpoint stop that has ended since, its pod stands at the `bkpt` and issues it again (DEDUCED, log 108). -/
def State.rolledBack (s : State) (core crew faulty : Nat) (k : Crew) (sh : Shadow) (r : Restored) (ws bs : List Nat) : State :=
  let c := s.core core
  let now := s.cycOf core
  let ids := r.waves.flatMap fun w => w.threads.map fun t => t.2.id
  let gone := (((c.members crew).map fun x => x.2.2.id) ++
    ((s.ctx k.ctx).idsRet.filter fun e => e.2.1 == core && e.2.2 == crew).map fun e => e.1).filter fun i => !ids.contains i
  let old := c.wavesOf crew
  let slots := old.map fun e => e.1
  let back := (ws.zip (sh.slots.zip r.waves)).map fun x =>
    let w := { (if k.bkstop.isNone then x.2.2.wake .bkpt else x.2.2).thawed now r.crew.body.quantum with crew := crew }
    match old.find x.2.1 with
    | some o => (x.1, if x.2.1 = faulty then { w with chkinfo := o.chkinfo, chkaddr := o.chkaddr, lls := o.lls } else { w with lls := o.lls })
    | none => (x.1, w)
  let s := s.modCore core fun c => { c with
    waves := back.foldl (fun (m : Map Wave) e => m.set e.1 e.2) (c.waves.filter fun e => e.2.crew != crew)
    bins := (bs.zip r.bins).foldl (fun (m : Map Bin) e => m.set e.1 ({ e.2 with crew := crew }.thawed now))
      (c.bins.filter fun e => e.2.crew != crew)
    origin := c.origin.filter fun o => !(o.slot ≥ 0x100 && o.slot == 0x100 + crew || o.reg ≥ 0x1000 && o.slot == crew && k.interval.getLsbD ((o.reg - 0x1000) / 32) ||
      o.reg < 0x1000 && slots.contains o.slot) }
  let s := (s.dropIds k.ctx gone).modCtx k.ctx fun c => { c with
    idsRet := c.idsRet.filter fun e => !(e.2.1 == core && e.2.2 == crew) }
  s.modCrew core crew fun k => { k with
    body := { r.crew.body with bar := r.crew.body.bar.map fun b => { b with firstPc := sh.firstPc } }
    spad := restoreLines k.spad r.crew.spad k.interval
    interval := 0 }

/-- ROLLBACK (R355, R361, R362). It waits for the crew's operations and deposits, and for room where its slots or bins
were taken. A shadow record that fails its checks ends the context as a resume's would (log 99). -/
def execRollback (s : State) : Res :=
  match s.arg with
  | .rollback core crew =>
    match s.crew? core crew with
    | none => .fault .notEnabled
    | some k =>
      match k.shadow, k.slot, k.phase with
      | some sh, some slot, .rollback faulty =>
        let c := s.core core
        let others := c.waves.filter fun e => e.2.crew != crew
        let obins := c.bins.filter fun e => e.2.crew != crew
        let room := ({ c with waves := others }).waveRoom k.decl.vregs k.decl.sregs
        if (s.ctx k.ctx).stopping ∨ !s.crewQuiet core crew ∨ sh.slots.length > room then .fault .notEnabled
        else
          match seats ((span 0 32).filter fun i => (Map.find others i).isNone) sh.slots,
              seats ((span 0 16).filter fun i => (Map.find obins i).isNone) sh.bins with
          | some ws, some bs =>
            match s.slotRecord slot with
            | (us, s) =>
              if !recordOk us k.ctx (unitsAt us 32 4) (maxDepth (s.ctx k.ctx).privsz) [3] then
                .next ((s.toOsm (.resumeBad k.ctx slot.1)).contextFault k.ctx core 0 k.node .chk (bareCause .chk) 0 0)
              else
                let r := restored us k crew (s.cycOf core) (s.waitPred core k.ctx)
                .next ((s.rolledBack core crew faulty k sh r ws bs).settle core crew)
          | _, _ => .fault .notEnabled
      | _, _, _ => .fault .notEnabled
  | _ => .fault .noArg

end Sys2Proof.Machine
end

