-- ==== Sys2Proof/Machine/Preempt.lean ====
section
/-! DEFINITION. Pre-emption and the context heap (R334, R344 to R358, R397): the estimator, heap grants, capture, resume and
the replacement of a partition. -/

namespace Sys2Proof.Machine

/-! ### The estimator (R344, R345) -/

/-- A method with its latency and cost: 2 flush, 1 save, 0 drain. -/
structure Est where
  method : Nat
  lat    : Nat
  cost   : Nat
  deriving DecidableEq, Repr

/-- The drain term of a counter: defined when the crew's count and the mean are above 0. -/
def drainTerm (elapsed x sum n : Nat) : Option Nat :=
  if x = 0 ∨ sum = 0 then none else some (ceilDiv (elapsed * (sum - n * x)) (n * x))

/-- The longest of the defined terms. -/
def longest (l : List (Option Nat)) : Option Nat :=
  let d := l.filterMap id
  if d.isEmpty then none else some (greatest d)

/-- A flush is possible (R344, R351): every wave has its idempotent bit, no thread has DROP, and the crew does not stand at a
breakpoint (log 95). -/
def Core.flushable (c : Core) (i : Nat) (k : Crew) : Bool :=
  k.bkstop.isNone && (c.wavesOf i).all fun e => e.2.idemBit && e.2.threads.all fun t => !t.2.drop

/-- The eligible methods of a crew in the order of ties: flush, save, drain (R344). -/
def State.estimate (s : State) (core i : Nat) (k : Crew) : List Est :=
  let ws := (s.core core).wavesOf i
  let bins := (s.core core).binsOf i
  let el := (k.elapsed + (s.cycOf core - k.since)) % 2 ^ 48
  let cpi := if k.issued = 0 then 1 else max 1 (ceilDiv el k.issued)
  let twin := cpi * greatest (ws.map fun e => e.2.nprem)
  let cost (b : Bool) : Nat := 1000 + ceilDiv (liveBytes k bins (s.masks core k.ctx b ws).1) 128 + twin
  let heap := k.grant.isSome
  let flush := if heap && (s.core core).flushable i k then
    [⟨2, cost true, cost true + greatest (ws.map fun e => e.2.idemcyc (s.cycOf core))⟩] else []
  let save := if heap then [⟨1, cost false, cost false⟩] else []
  let drain := match s.node? k.node with
    | none => []
    | some n =>
      if n.ended = 0 then []
      else match longest [drainTerm el k.issued n.sumI n.ended, drainTerm el k.ksteps n.sumK n.ended, drainTerm el k.bars n.sumB n.ended] with
        | some t => [⟨0, t, t⟩]
        | none => []
  flush ++ save ++ drain

/-- The first of least measure. -/
def leastBy (f : Est → Nat) (l : List Est) : Option Est :=
  l.foldl (fun o e => match o with
    | none => some e
    | some m => if f e < f m then some e else some m) none

/-- The method chosen within a budget (R344). -/
def chooseEst (budget : Int) (l : List Est) : Option Est :=
  match leastBy Est.cost (l.filter fun e => decide ((e.lat : Int) ≤ budget)) with
  | some e => some e
  | none => leastBy Est.lat l

/-- A set's estimates: a method is eligible for every member, L the largest, C the sum. -/
def mergeEst (ls : List (List Est)) : List Est :=
  [2, 1, 0].filterMap fun m =>
    let es := ls.map fun l => l.find? fun e => e.method == m
    if es.all fun e => e.isSome then
      some ⟨m, greatest (es.map fun e => (e.map Est.lat).getD 0), (es.map fun e => (e.map Est.cost).getD 0).sum⟩
    else none

/-! ### Candidates and scores (R346) -/

/-- A candidate on a core: its crew-table index there, all its crews, its effective priority and its method. -/
structure Cand where
  crew    : Nat
  members : List (Nat × Nat)
  prio    : Nat
  est     : Est
  deriving DecidableEq, Repr

/-- The crews that move with a crew: its set, or itself. -/
def State.unit (s : State) (core i : Nat) (k : Crew) : List (Nat × Nat × Crew) :=
  if k.setn = 0 then [(core, i, k)] else (s.setMates core k).map fun m => (clusterOf core * 4 + m.1, m.2.1, m.2.2)

/-- The effective priority of a placed crew (R333, R356). -/
def State.crewPrio (s : State) (k : Crew) : Nat :=
  if k.replay.isSome then 0 else match s.node? k.node with
    | some n => s.nodePrio n
    | none => min 7 k.prio

/-- The candidates of a core below a priority, by ascending priority and then cost. -/
def State.candidates (s : State) (core prio : Nat) (budget : Int) : List Cand :=
  let all := (s.core core).crews.filterMap fun e =>
    let u := s.unit core e.1 e.2
    if u.any (fun m => m.2.2.preempt.isSome) || decide (s.crewPrio e.2 ≥ prio) then none
    else (chooseEst budget (mergeEst (u.map fun m => s.estimate m.1 m.2.1 m.2.2))).map fun x =>
      (⟨e.1, u.map fun m => (m.1, m.2.1), s.crewPrio e.2, x⟩ : Cand)
  sortBy Cand.prio (sortBy (fun (c : Cand) => c.est.cost) all)

/-- Take candidates until a node's declaration fits. -/
def takeUntil (k : Core) (node : Nat) (d : Decl) (taken : List Cand) : List Cand → Option (List Cand)
  | [] => if (k.without (taken.map fun c => c.crew)).fits node d then some taken else none
  | c :: cs =>
    if (k.without (taken.map fun c => c.crew)).fits node d then some taken else takeUntil k node d (taken ++ [c]) cs

/-- What arrives: a node's crew or set, or its saved set with the cores that its members need. -/
structure Arriving where
  node   : Nat
  ctx    : Nat
  decl   : Decl
  width  : Nat
  places : Option (List Nat)
  prio   : Nat
  budget : Int
  barred : List Nat
  deriving DecidableEq, Repr

/-- The arrival that a request is made for (R334, R346, R353). -/
def State.arriving (s : State) (n : Node) : Arriving :=
  let budget : Int := (n.rec_.latb * usCycles : Nat) - ((s.cycle - n.ready.getD s.cycle : Nat) : Int)
  match s.hazel.resumes.find? fun e => e.node == n.uid with
  | some e => ⟨n.uid, n.ctx, { e.decl with waves := greatest (e.members.map fun m => m.waves) }, e.members.length,
      if e.set then some (e.members.map fun m => m.setcore) else none, s.nodePrio n, budget, s.ranOn n.replay⟩
  | none => ⟨n.uid, n.ctx, n.rec_.decl, n.width, none, s.nodePrio n, budget, s.ranOn n.replay⟩

/-- A core's score: the largest latency of the crews taken. -/
def State.coreScore (s : State) (a : Arriving) (core : Nat) : Option (Nat × List Cand) :=
  let k := s.core core
  if s.usable core && (s.ctx a.ctx).partition.contains core && !s.incoming core && !a.barred.contains core then
    (takeUntil k a.node a.decl [] (s.candidates core a.prio a.budget)).map fun l => (greatest (l.map fun c => c.est.lat), l)
  else none

/-- A cluster's score for a set: the largest of the SETN least core scores (R346). -/
def State.clusterScore (s : State) (a : Arriving) (cl : Nat) : Option (Nat × List (Nat × List Cand)) :=
  let cores := (span (cl * 4) 4).filter fun c => match a.places with | some ps => ps.contains (c % 4) | none => true
  let scored := cores.filterMap fun c => (s.coreScore a c).map fun x => (x.1, c, x.2)
  let best := (sortBy (fun (x : Nat × Nat × List Cand) => x.1) scored).take a.width
  if best.length < a.width then none
  else some (greatest (best.map fun x => x.1), best.map fun x => (x.2.1, x.2.2))

/-- The least report: cores, with the crews to take on each. -/
def State.leastReport (s : State) (a : Arriving) : Option (List (Nat × List Cand)) :=
  let reports : List (Nat × List (Nat × List Cand)) :=
    if a.width = 1 ∧ a.places.isNone then (span 0 192).filterMap fun c => (s.coreScore a c).map fun x => (x.1, [(c, x.2)])
    else (span 0 48).filterMap fun cl => s.clusterScore a cl
  (reports.foldl (fun (o : Option (Nat × List (Nat × List Cand))) r => match o with
    | none => some r
    | some m => if r.1 < m.1 then some r else some m) none).map fun r => r.2

/-- A request is open for a node: it is ready, has a bound and does not fit (R334). -/
def State.mayAsk (s : State) (n : Node) : Bool := s.wants n && n.rec_.latb != 0 && !s.fitsNode n

/-- Open a request. -/
def State.ask (s : State) (n : Node) : State :=
  (s.modHazel fun h => { h with reqs := if h.reqs.contains n.uid then h.reqs else h.reqs ++ [n.uid] }).modNode n.uid fun x =>
    { x with asked := s.nodePrio n + 1 }

/-- PREEMPTION_REQUEST (R334): the first request of a node. -/
def execPreemptionRequest (s : State) : Res :=
  match s.arg with
  | .preemptionRequest u =>
    match s.node? u with
    | none => .fault .notEnabled
    | some n => allow (s.mayAsk n && n.asked == 0) (s.ask n)
  | _ => .fault .noArg

/-- PRIORITY_RISE (R333, R334): the request is sent again. -/
def execPriorityRise (s : State) : Res :=
  match s.arg with
  | .priorityRise u =>
    match s.node? u with
    | none => .fault .notEnabled
    | some n =>
      if !(s.wants n && decide (s.nodePrio n > n.rec_.prio) && (n.asked == 0 || decide (s.nodePrio n + 1 > n.asked))) then
        .fault .notEnabled
      else .next (if n.asked ≠ 0 ∧ s.mayAsk n then s.ask n else s)
  | _ => .fault .noArg

/-- Runs held for an evaluation go back to Pewter where neither flush nor save was chosen (R349). -/
def State.returnGrants (s : State) (ctx : Nat) (keep : List (Nat × Nat)) : State :=
  (s.ctx ctx).partition.foldl (fun (s : State) c => s.modCore c fun k => { k with
    crews := k.crews.mapAll fun i x => if x.preempt.isNone && !keep.contains (c, i) then { x with grant := none } else x }) s

/-- The live entries that the Acorns read for an evaluation are read with their reports (R347). -/
def State.readLive (s : State) (ctx : Nat) : State :=
  (s.ctx ctx).partition.foldl (fun (s : State) c => (s.core c).crews.foldl (fun (s : State) e =>
    let ws := (s.core c).wavesOf e.1
    ((s.masks c e.2.ctx false ws).2.masks c e.2.ctx true ws).2) s) s

/-- SCORE_REPORT (R344, R346): every Acorn of the partition reports, and Hazel sends PREEMPT to the least, with the time at which
the node's bound ends. The declaration is kept free on the cores chosen. A cluster that is fused for another context is unfused
behind the PREEMPT, so that the crew can take its place (R74, log 71). -/
def execScoreReport (s : State) : Res :=
  match s.arg with
  | .scoreReport u =>
    match s.node? u with
    | none => .fault .notEnabled
    | some n =>
      if !s.hazel.reqs.contains u then .fault .notEnabled
      else
        let s := (s.modHazel fun h => { h with reqs := h.reqs.filter fun x => x != u }).readLive n.ctx
        let a := s.arriving n
        match s.leastReport a with
        | none => .next (s.returnGrants n.ctx [])
        | some l =>
          let cmds := (l.flatMap fun x => x.2.flatMap fun c => c.members.map fun m => (m.1, m.2, c.est.method)).dedup
          let s := s.returnGrants n.ctx ((cmds.filter fun c => c.2.2 != 0).map fun c => (c.1, c.2.1))
          let s := l.foldl (fun (s : State) x => s.modCore x.1 fun k =>
            { k with reserved := k.reserved ++ [⟨u, a.decl, x.2.map fun c => c.crew⟩] }) (s.unreserve u)
          .next (match l with
            | [] => s
            | x :: _ =>
              let cl := clusterOf x.1
              let t := s.sendDown cl (.preempt (n.ready.getD s.cycle + n.rec_.latb * usCycles) cmds)
              if (s.cluster cl).fused && s.foreign cl n.ctx then t.sendDown cl .unfuse else t)
  | _ => .fault .noArg

/-- The blocks that each member of a unit needs for its record now, by a flush or a save (R345, R349), in ascending core. -/
def State.needs (s : State) (flush : Bool) : List (Nat × Nat × Crew) → List Nat × State
  | [] => ([], s)
  | (core, i, k) :: l =>
    match s.masks core k.ctx flush ((s.core core).wavesOf i) with
    | (live, s) =>
      match State.needs s flush l with
      | (ns, s) => (ceilDiv (liveBytes k ((s.core core).binsOf i) live) 2048 :: ns, s)

/-- The run that a unit holds: its base and its length. The members' parts stand one after another (R349, R352). -/
def heldRun (u : List (Nat × Nat × Crew)) : Option (Nat × Nat) :=
  match u with
  | [] => none
  | (_, _, k) :: _ =>
    if u.all fun m => m.2.2.grant.isSome then
      k.grant.map fun g => (g.1, (u.map fun m => (m.2.2.grant.map fun g => g.2).getD 0).sum)
    else none

/-- Hand a run out to the members of a unit, one after another (R349, R352). -/
def State.handRun (s : State) (base : Nat) : List ((Nat × Nat × Crew) × Nat) → State
  | [] => s
  | ((core, i, _), n) :: l =>
    State.handRun (s.modCrew core i fun k => { k with grant := some (base, n), refused := false }) (base + 2048 * n) l

/-- A unit's run goes back to Pewter. -/
def State.giveBack (s : State) (u : List (Nat × Nat × Crew)) : State :=
  u.foldl (fun (s : State) m => s.modCrew m.1 m.2.1 fun k => { k with grant := none }) s

/-- The unit's method at capture: a flush that is no longer possible for every member, because the crew issued on until its
windows closed, is a save (R119, R351, log 95), and so is that of a unit with a member on a core that left the partition (R397). -/
def State.methodNow (s : State) (m : Nat) (u : List (Nat × Nat × Crew)) : Nat :=
  if m = 2 ∧ !(u.all fun x => (s.core x.1).flushable x.2.1 x.2.2 && (s.ctx x.2.2.ctx).partition.contains x.1) then 1 else m

/-- The refusal of an extension (R358): nothing is captured, the unit stays placed and runs on, threads held for its save
issue again, and Hazel chooses again for the arriving node. -/
def State.keepUnit (s : State) (u : List (Nat × Nat × Crew)) : State :=
  let s := u.foldl (fun (s : State) m => s.modCrew m.1 m.2.1 fun k => { k with preempt := none }) (s.giveBack u)
  let s := u.foldl (fun (s : State) m => match m.2.2.phase with
    | .capture _ => s.settle m.1 m.2.1
    | _ => s) s
  let s := u.foldl (fun (s : State) m => s.wakeCore m.1 .engine) s
  u.foldl (fun (s : State) m => ((s.core m.1).reserved.filter fun r => r.taken.contains m.2.1).foldl (fun (s : State) r =>
    (s.modHazel fun h => { h with reqs := if h.reqs.contains r.node then h.reqs else h.reqs ++ [r.node] }).unreserve r.node) s) s

/-- A refused run of a save that has to come (R397): the crews stay placed, and the cores that left the partition stay reserved
for them until a run is granted. -/
def State.keepPlaced (s : State) (u : List (Nat × Nat × Crew)) : State :=
  u.foldl (fun (s : State) m => s.modCrew m.1 m.2.1 fun k =>
    { k with grant := none, refused := !(s.ctx k.ctx).partition.contains m.1 }) s

/-- A save that does not come from an arriving node waits for its run: one for a test, of a condemned core, of a core that left
the partition (R25, R357, R397). -/
def State.mustSave (s : State) (u : List (Nat × Nat × Crew)) : Bool :=
  u.any fun m => s.emptying m.1 m.2.2.ctx

/-- HEAP_GRANT_REPLY (R349, R352, R358, R397): one run for a candidate with all its members, an extension of the run that it
holds, or a refusal. A refusal at capture leaves the crew or set placed, and Hazel chooses again; a save for a test, a
condemned core or a left partition waits. -/
def execHeapGrantReply (s : State) : Res :=
  match s.arg with
  | .heapGrantReply core i run =>
    match s.crew? core i with
    | none => .fault .notEnabled
    | some k =>
      let u := s.unit core i k
      let named := u.any fun m => m.2.2.preempt.isSome
      let m := s.methodNow ((u.findSome? fun m => m.2.2.preempt).getD 1) u
      match s.needs (m == 2) u with
      | (ns, s) =>
        if (s.hazel.reqs.isEmpty && !named) || (heldRun u).any (fun r => decide (r.2 ≥ ns.sum)) then .fault .notEnabled
        else match run with
          | some base =>
            allow (s.runOk base ns.sum k.ctx (u.filterMap fun m => m.2.2.grant) && (heldRun u).all fun r => r.1 == base)
              (s.handRun base (u.zip ns))
          | none => .next (if !named then s.giveBack u else if s.mustSave u then s.keepPlaced u else s.keepUnit u)
  | _ => .fault .noArg

/-- A crew is to be saved or flushed; its issue stops where no window is open (R187, R351). -/
def State.preemptCrew (s : State) (core i m : Nat) : State :=
  let s := s.modCrew core i fun k => { k with preempt := some m }
  match s.crew? core i with
  | none => s
  | some k => if (s.core core).windowsShut i ∧ (k.phase = .run ∨ k.phase = .stopped) then s.setPhase core i (.capture m) else s

/-- A crew is to be saved with all that moves with it, where no pre-emption has named it (R25, R178, R357, R397). -/
def State.saveUnit (s : State) (core i : Nat) (k : Crew) : State :=
  (s.unit core i k).foldl (fun (s : State) m =>
    if ((s.crew? m.1 m.2.1).any fun x => x.preempt.isNone) then s.preemptCrew m.1 m.2.1 1 else s) s

/-- PREEMPT (R351, R355). A crew to be drained runs on; a crew that is gone needs nothing. -/
def execPreempt (s : State) : Res :=
  match s.arg with
  | .preempt cl =>
    match s.headDown cl with
    | some (.preempt _ l) =>
      .next (l.foldl (fun (s : State) x => if x.2.2 = 0 then s else s.preemptCrew x.1 x.2.1 x.2.2) (s.consumeDown cl))
    | _ => .fault .notEnabled
  | _ => .fault .noArg

/-- TEST (R178, R357): the core takes nothing new, and saves what no pre-emption has named, sets whole. -/
def execTest (s : State) : Res :=
  match s.arg with
  | .test cl =>
    match s.headDown cl with
    | some (.test core) =>
      let s := (s.consumeDown cl).modCore core fun k => { k with testAsked := true }
      .next (((s.core core).crews.foldl (fun (s : State) e => s.saveUnit core e.1 e.2) s).startTest core)
    | _ => .fault .notEnabled
  | _ => .fault .noArg

/-! ### Capture (R351, R352) -/

/-- The method with which a crew may be captured now: its issue has stopped and its operations are over. A crew whose last wave
has gone is captured no more; it ends (R350, R358). -/
def State.capturable (s : State) (core i : Nat) (k : Crew) : Option Nat :=
  match k.phase with
  | .capture m => if s.crewQuiet core i && !((s.core core).wavesOf i).isEmpty then some m else none
  | _ => none

/-- The frames below ENTDEPTH that the hardware stack holds no more, because the region spilled them, newest first (R162): read
from the thread's private area. None where one cannot be read or fails its check. -/
def State.lostFrames (s : State) (g : Agent) (privsz : Nat) : List Nat → Option (List (BitVec 64)) × State
  | [] => (some [], s)
  | j :: js =>
    match s.unitGets g (frameVa privsz j) 2 with
    | ([a, b], none, s) =>
      if a.ok && b.ok then
        match State.lostFrames s g privsz js with
        | (some l, s) => (some (pair a.data b.data :: l), s)
        | r => r
      else (none, s)
    | (_, _, s) => (none, s)

/-- A thread as a flush records it, with the newest min(16, ENTDEPTH) frames below ENTDEPTH (R162, R351), and whether they could
all be read. -/
def State.flushedThread (s : State) (g : Agent) (privsz : Nat) (w : Wave) (t : Thread) : Thread × Bool × State :=
  let kept := t.stack.drop (t.depth - t.entDepth)
  let want := min 16 t.entDepth
  let lost := (span 0 (want - kept.length)).map fun i => t.entDepth - 1 - (kept.length + i)
  match s.lostFrames g privsz lost with
  | (l, s) =>
    ({ t with
      pc := BitVec.ofNat 58 (w.idempc.toNat / 2 * 2)
      depth := t.entDepth
      stack := kept ++ l.getD []
      drop := false
      hold := .ready }, l.isSome, s)

/-- The threads of a flushed wave, and the keys of the newest frames of the lanes whose spilled frames could not be read. -/
def State.flushedThreads (s : State) (core slot : Nat) (k : Crew) (w : Wave) : Map Thread → Map Thread × List Nat × State
  | [] => ([], [], s)
  | (l, t) :: ts =>
    match s.flushedThread ⟨core, slot, k.ctx, some t.id, k.decl.lines * 128, k.replay, l⟩ (s.ctx k.ctx).privsz w t with
    | (t', ok, s) =>
      match State.flushedThreads s core slot k w ts with
      | (r, bad, s) => ((l, t') :: r, if ok then bad else parFrame l (t'.depth - 1) :: bad, s)

/-- A wave as a flush records it (R351): at its region entry, with nothing blocked. A lane whose spilled frames could not be read
shows a parity failure in its newest frame (log 75). -/
def State.flushedWave (s : State) (core slot : Nat) (k : Crew) (w : Wave) : Wave × State :=
  match s.flushedThreads core slot k w w.threads with
  | (ts, bad, s) =>
    ({ w with threads := ts, parity := w.parity ++ bad, idemAcc := 0, idemSince := none, mma := none }, s)

/-- The waves of a flushed crew. -/
def State.flushedWaves (s : State) (core : Nat) (k : Crew) : Map Wave → Map Wave × State
  | [] => ([], s)
  | (i, w) :: ws =>
    match s.flushedWave core i k w with
    | (w, s) =>
      match State.flushedWaves s core k ws with
      | (r, s) => ((i, w) :: r, s)

/-- The units of one member's record (R350). -/
def State.memberRecord (s : State) (core i m : Nat) (k : Crew) : List GUnit × State :=
  let ws := (s.core core).wavesOf i
  let bins := (s.core core).binsOf i
  match s.masks core k.ctx (m == 2) ws with
  | (live, s) =>
    match (if m = 2 then s.flushedWaves core k ws else (ws, s)) with
    | (rws, s) =>
      let id := ((s.node? k.node).map fun n => n.pkt.node).getD 0
      (recordUnits ⟨m, id, core % 4, k.elapsed + (s.cycOf core - k.since), s.time⟩ k rws bins live (s.cycOf core), s)

/-- What the record says of a crew stopped at a breakpoint (R317): the stop's PC, core and lane. -/
def State.stopAt (s : State) (core : Nat) (k : Crew) : Option (VAddr × Nat × Nat) :=
  k.bkstop.map fun b => (((s.wave? core b.1).elim 0 fun w => w.trappc.setWidth 58), core, (lanesOf b.2).headD 0)

/-- Write the records of a unit in ascending core, one after another from a base; none while the run is too short (R349, R352). -/
def State.writeRecords (s : State) (m base room : Nat) : List (Nat × Nat × Crew) → Option (List SavedCrew × State)
  | [] => some ([], s)
  | (core, i, k) :: l =>
    match s.memberRecord core i m k with
    | (us, s) =>
      let n := us.length / 512
      if n > room then none
      else match State.writeRecords (s.homePuts base us) m (base + 2048 * n) (room - n) l with
        | none => none
        | some (r, s) =>
          some (⟨core % 4, base, n, k.cidx, ((s.core core).wavesOf i).length, ((s.core core).binsOf i).length, s.stopAt core k⟩ :: r, s)

/-- CAPTURE (R119, R351, R352): the crew, or its whole set, is written to the heap and leaves its core. -/
def execCapture (s : State) : Res :=
  match s.arg with
  | .capture core i =>
    match s.crew? core i with
    | none => .fault .notEnabled
    | some k =>
      let u := s.unit core i k
      match s.capturable core i k, heldRun u with
      | some m, some (base, room) =>
        if (s.ctx k.ctx).stopping ∨ !(u.all fun x => (s.capturable x.1 x.2.1 x.2.2).isSome) then .fault .notEnabled
        else
          let m := s.methodNow m u
          let s := u.foldl (fun (s : State) x => s.release x.1 k.ctx none 6) s
          match s.writeRecords m base room u with
          | none => .fault .notEnabled
          | some (members, s) =>
            match s.fresh with
            | (n, s) =>
              let e : ResumeEntry := ⟨n, k.ctx, k.node, k.prio, s.cycle, k.setn != 0, members, k.replay, k.decl⟩
              let s := u.foldl (fun (s : State) x => (s.freeCrew x.1 x.2.1 true).startTest x.1) s
              .next (s.sendUp (clusterOf core) (.saved core e))
      | _, _ => .fault .notEnabled
  | _ => .fault .noArg

/-- A trap has ended the replay that an entry belongs to (R369). -/
def State.replayOver (s : State) (e : ResumeEntry) : Bool :=
  e.replay.any fun u => (s.audit? u).all fun a => a.fate.isSome

/-- SAVED (R353): a resume entry; that of a context which has stopped meanwhile (R358), or of a replay that a trap has ended
(R369), is dropped. -/
def execSaved (s : State) : Res :=
  match s.arg with
  | .saved cl =>
    match (s.cluster cl).up.flight with
    | .saved _ e :: _ =>
      let s := s.modCluster cl fun x => { x with up := x.up.consume }
      if (s.ctx e.ctx).stopping ∨ (s.node? e.node).isNone then .next (s.reap e.ctx)
      else if s.replayOver e then .next (s.completeNode e.node)
      else .next (s.modHazel fun h => { h with resumes := h.resumes ++ [e] })
    | _ => .fault .notEnabled
  | _ => .fault .noArg

/-! ### Resume (R353, R354) -/

/-- A member of a resume: core, record and the Acorn's choices. -/
structure Member where
  core  : Nat
  saved : SavedCrew
  spot  : Spot
  deriving DecidableEq, Repr

/-- The members of an entry on a core's cluster. -/
def ResumeEntry.seats (e : ResumeEntry) (core : Nat) (spots : List Spot) : List Member :=
  (e.members.zip spots).map fun x => ⟨e.coreOf core x.1, x.1, x.2⟩

/-- The choices fit the core and the record. -/
def State.seatOk (s : State) (e : ResumeEntry) (m : Member) : Bool :=
  let k := s.core m.core
  decide (m.spot.crew < 16) && (k.crews.find m.spot.crew).isNone && m.spot.slots.length == m.saved.waves && decide m.spot.slots.Nodup &&
  (m.spot.slots.all fun w => decide (w < 32) && (k.waves.find w).isNone) && k.linesFree m.spot.base e.decl.lines &&
  k.spares e.node (e.need m.saved) m.spot.base

/-- A record's declaration is the one that the entry was placed with, so that it fits the chosen core (R354 step 1). -/
def declOk (us : List GUnit) (e : ResumeEntry) (m : SavedCrew) : Bool :=
  let n := unitsAt us
  8 * n 10 1 == e.decl.vregs && 16 * n 11 1 == e.decl.sregs && n 12 1 == e.decl.acc && n 24 2 == e.decl.lines && n 9 1 == m.waves &&
  n 320 2 % 4096 == e.decl.slabq && (n 14 1 != 0) == e.set && n 20 4 == m.cidx &&
  (!e.set || n 15 1 == m.setcore) &&
  ((span 0 16).filter fun i => unitsAt (us.drop (n 84 4 / 4)) (16 * i + 8) 4 != 0).length == m.bins

/-- An original that an audit follows runs on another core now (R356). -/
def State.moveAudit (s : State) (audit : Option Nat) (core : Nat) : State :=
  match audit with
  | none => s
  | some u => s.modAudit u fun a => { a with core := core, ran := if a.ran.contains core then a.ran else a.ran ++ [core] }

/-- Set up one restored crew (R354 steps 2 to 5). -/
def State.seat (s : State) (e : ResumeEntry) (m : Member) (us : List GUnit) : State :=
  let audit := (s.hazel.audits.find? fun a => a.node == e.node && a.cidx == m.saved.cidx && e.replay.isNone && a.sig.isNone).map fun a => a.uid
  let seed := { Crew.blank e.ctx e.node with
    prio := e.prio, audit := audit, replay := e.replay, base := m.spot.base, slot := s.slotFor e.node m.saved.cidx }
  let r := restored us seed m.spot.crew (s.cycOf m.core) (s.waitPred m.core e.ctx)
  let ws := (m.spot.slots.zip r.waves).map fun x => (x.1, { (x.2.thawed (s.cycOf m.core) r.crew.body.quantum) with crew := m.spot.crew })
  let stop := ws.findSome? fun x =>
    let l := (x.2.threads.filter fun t => t.2.hold = .bkpt).map fun t => t.1
    if l.isEmpty then none else some (x.1, laneSet l)
  let free := (s.core m.core).freeBins
  let s := s.modCore m.core fun k => { k with
    crews := k.crews.set m.spot.crew { r.crew with bkstop := stop }
    waves := ws.foldl (fun (a : Map Wave) x => a.set x.1 x.2) k.waves
    bins := (free.zip r.bins).foldl (fun (a : Map Bin) x => a.set x.1 ({ x.2 with crew := m.spot.crew }.thawed (s.cycOf m.core))) k.bins }
  ((s.takeSlot e.node m.saved.cidx).moveAudit audit m.core).acquire m.core e.ctx none 6

/-- The records of an entry's members as the heap holds them. -/
def State.records (s : State) : List Member → List (List GUnit) × State
  | [] => ([], s)
  | m :: l =>
    match s.homeGets m.saved.base (512 * m.saved.len) with
    | (us, s) =>
      match State.records s l with
      | (r, s) => (us :: r, s)

/-- RESUME (R353, R354, R356, R359). A record that fails its checks is a context fault with cause CHK. A crew that asks for
fusion asks again (R73). -/
def execResume (s : State) : Res :=
  match s.arg with
  | .resume u core spots =>
    match s.hazel.resumes.find? fun e => e.uid == u with
    | none => .fault .notEnabled
    | some e =>
      let cl := clusterOf core
      let ms := e.seats core spots
      if !(s.dispatchable e.ctx && s.first (s.entryPrio e) e.node && s.fitsResume e core && spots.length == e.members.length &&
          ms.all (s.seatOk e)) then .fault .notEnabled
      else match s.records ms with
        | (rs, s) =>
          let s := s.modHazel fun h => { h with resumes := h.resumes.filter fun x => x.uid != u }
          match (ms.zip rs).find? fun x => !(recordOk x.2 e.ctx x.1.saved.len (maxDepth (s.ctx e.ctx).privsz) [1, 2] && declOk x.2 e x.1.saved) with
          | some x =>
            .next ((s.toOsm (.resumeBad e.ctx x.1.saved.base)).contextFault e.ctx core 0 e.node .chk (bareCause .chk) 0 0)
          | none =>
            let s := (ms.zip rs).foldl (fun (s : State) x => s.seat e x.1 x.2) (s.unfuseIdle cl)
            let s := s.unreserve e.node
            .next (if rs.any fun us => bitAt (unitsAt us 13 1) 1 then s.sendDown cl .fuse else s)
  | _ => .fault .noArg

/-! ### Partitions (R397) -/

/-- A partition keeps the rules of sealed contexts (R381): it takes no core of another one's clusters, and a sealed context
keeps whole clusters, on the dies of its groups, and takes no die on which another context has a large leaf. -/
def State.partitionOk (s : State) (ctx : Nat) (cores : List Nat) : Bool :=
  (s.ctxs.all fun e => e.1 == ctx || e.2.sealed.isNone || cores.all fun c => !e.2.partition.contains c) &&
  match (s.ctx ctx).sealed with
  | none => true
  | some (g, _) =>
    (cores.all fun c => (span (clusterOf c * 4) 4).all fun m => cores.contains m) &&
    ((span 0 24).all fun i => !g.getLsbD i || cores.any fun c => dieOf c == i / 6) &&
    s.osm.leaves.all fun e => e.2.1 == ctx || leafClear g (cores.map dieOf) e.2.2.1 e.2.2.2

/-- PARTITION_REPLACE (R397): crews on cores that leave the partition are to be saved, sets whole. A partition that breaks a seal
is refused (R372, R381). -/
def execPartitionReplace (s : State) : Res :=
  match s.arg with
  | .partitionReplace ctx cores =>
    if ctx ≥ 4096 ∨ !(decide cores.Nodup && cores.all fun c => decide (c < 192)) then .fault .notEnabled
    else
      let left := (s.ctx ctx).partition.filter fun c => !cores.contains c
      if !s.partitionOk ctx cores then s.request false s else
      let s := s.modCtx ctx fun c => { c with partition := sortBy id cores }
      .next (left.foldl (fun (s : State) c => (s.core c).crews.foldl (fun (s : State) e =>
        if e.2.ctx == ctx then s.saveUnit c e.1 e.2 else s) s) s)
  | _ => .fault .noArg

end Sys2Proof.Machine
end

