-- ==== Sys2Proof/Machine/Firm.lean ====
section
/-! DEFINITION. Firmware steps that need Hazel: the stop of every context (R379, R385), life-cycle transitions (R375,
R376), and registers without a row of their own, among them the requests that Hazel turns into commands (R7, R317, R335,
R357). -/

namespace Sys2Proof.Machine

/-! ### Stopping everything -/

/-- Every crew of a context goes at once. -/
def State.dropAll (s : State) (ctx : Nat) : State :=
  s.cores.foldl (fun (s : State) c => (((s.core c.1).crewsOf ctx).foldl (fun (s : State) k => s.dropCrew c.1 k) s).startTest c.1) s

/-- Commands that concern crews of stopped contexts are gone from the links. -/
def Link.clear (l : Link) : Link := { l with flight := [], waiting := [], permits := l.permits + l.flight.length }

/-- Write every record that waits and can be written (R340). -/
def State.drainRecords (s : State) (ctx : Nat) : Nat → State
  | 0 => s
  | n + 1 =>
    match execEventRecordWrite { s with arg := .eventRecordWrite ctx } with
    | .next t => State.drainRecords t ctx n
    | _ => s

/-- Every context stops with STATUS 2 records (R379, R385). -/
def State.stopAll (s : State) : State :=
  let a := s.arg
  let ids := (s.ctxs.filter fun e => e.2.valid).map fun e => e.1
  let s := ids.foldl (fun (s : State) i => s.modCtx i fun c => { c with fault := none }) s
  let s := ids.foldl (fun (s : State) i => (s.stopContext i).dropAll i) s
  let s := { s with clusters := s.clusters.mapAll fun _ c => { c with down := c.down.clear, up := c.up.clear } }
  let s := ids.foldl State.reap s
  { ids.foldl (fun (s : State) i => s.drainRecords i (s.ctx i).pend.length) s with arg := a }

/-- OFF (R379): Osmium's act, when it runs. -/
def execOff (s : State) : Res :=
  match s.arg with
  | .off h => s.osmiumOnPort h (s.stopAll.frame (.reply 0x0006 h.seq))
  | _ => .fault .noArg

/-! ### The life cycle -/

/-- The legal transitions and who signs them (R375). -/
def legalMove (a b : LifeCycle) (g : Signer) : Bool :=
  match a, b, g with
  | .manufacture, .provisioned, .vendor => true
  | .provisioned, .deployed, .vendor => true
  | .provisioned, .returned, .vendor => true
  | .deployed, .provisioned, .owner => true
  | .deployed, .returned, _ => true
  | .returned, .manufacture, .vendor => true
  | _, _, _ => false

/-- The keys that Osmium holds once it is in a state (R375): a transition to PROVISIONED generates the attestation key, one to
DEPLOYED installs the owner's beside it, one to RETURN destroys both (log 91). -/
def keysOf : LifeCycle → List Key
  | .manufacture => [.vendorTest]
  | .provisioned => [.attest]
  | .deployed => [.attest, .owner]
  | .returned => []

/-- LCCMD (R375, R376, R385): a legal transition stops every context, consumes a fuse and wipes; anything else is refused
and changes nothing. The check of the signature is the input `sigOk` (log 10). It is Osmium's act, when it runs (R377). -/
def execLccmd (s : State) : Res :=
  match s.arg with
  | .lccmd h target signer sigOk =>
    if legalMove s.board.life target signer ∧ sigOk ∧ s.board.fuses < 64 then
      let t := s.stopAll.wipe
      s.osmiumOnPort h ({ t with board := { t.board with
        life := target, fuses := s.board.fuses + 1, keys := keysOf target } }.frame (.reply 0x0004 h.seq))
    else s.osmiumOnPort h (s.frame (.reply 0x0004 h.seq))
  | _ => .fault .noArg

/-! ### Requests to Hazel -/

/-- The breakpoint stop of a saved crew (R317). -/
def ResumeEntry.stopped (e : ResumeEntry) (ctx : Nat) : Option (Nat × VAddr × Nat × Nat) :=
  if e.ctx == ctx then e.members.findSome? fun m => m.stop.map fun x => (e.node, x) else none

/-- A crew of a context stopped at a breakpoint, placed or saved (R317): its node, and the PC, core and lane of the stop. -/
def State.stoppedCrew (s : State) (ctx : Nat) : Option (Nat × VAddr × Nat × Nat) :=
  match s.cores.findSome? fun c => c.2.crews.findSome? fun e =>
      if e.2.ctx == ctx then (s.stopAt c.1 e.2).map fun x => (e.2.node, x) else none with
  | some x => some x
  | none =>
    match s.hazel.resumes.findSome? fun e => e.stopped ctx with
    | some x => some x
    | none => s.clusters.findSome? fun c => (c.2.up.flight ++ c.2.up.waiting).findSome? fun x => match x with
      | .saved _ e => e.stopped ctx
      | _ => none

/-- CANCEL of a context (R317, R339, R358): as a context fault; with a crew stopped at a breakpoint, placed or saved, the cause
is BKPT. -/
def State.cancelContext (s : State) (ctx : Nat) : State :=
  let s := match s.stoppedCrew ctx with
    | some (node, pc, core, lane) => s.modCtx ctx fun c => { c with fault := some ⟨.bkpt, pc, 0, core, lane, node⟩ }
    | none => s
  s.stopContext ctx

/-- CORE_CONDEMN (R25): the core leaves placement, its crews are to be saved, sets whole, and the Acorn reports. -/
def execCoreCondemn (s : State) : Res :=
  match s.arg with
  | .coreCondemn c =>
    if c ≥ 192 ∨ (s.core c).condemned then .fault .notEnabled
    else
      let s := s.modCore c fun k => { k with condemned := true }
      .next (((s.core c).crews.foldl (fun (s : State) e => s.saveUnit c e.1 e.2) s).sendUp (clusterOf c) (.condemned c))
  | _ => .fault .noArg

/-- REGISTER_WRITE (R7, R8, R50, R82, R88, R89, R186, R319, R322, R317, R323, R335, R357, R367, R381). -/
def execRegisterWrite (s : State) : Res :=
  match s.arg with
  | .registerWrite r v =>
    let v64 : BitVec 64 := v.setWidth 64
    match r with
    | .xlerr => .next { s with sup := { s.sup with xlerr := s.sup.xlerr &&& ~~~ (v.setWidth 4) } }
    | .grerr => .next { s with sup := { s.sup with grErr := s.sup.grErr &&& ~~~ (v.setWidth 2) } }
    | .czerr n => allow (decide (n < 8)) (s.modCtl n fun c => { c with czerr := c.czerr && !v.getLsbD 0 })
    | .nopre ctx => .next (s.modCtx ctx fun c =>
        { c with nopre := if bvf v 0 17 ≤ 65536 then BitVec.ofNat 64 (bvf v 0 17) else c.nopre })
    | .diagva ctx => s.request (decide (bvf v64 0 58 < 2 ^ 57)) (s.modCtx ctx fun c => { c with diagva := diagvaWrite v64 })
    | .audctl ctx => s.request (decide (bvf v64 0 58 < 2 ^ 57)) (s.modCtx ctx fun c => { c with audctl := audctlWrite c.audctl v64, auditWr := 0 })
    | .sched ctx => .next (s.modCtx ctx fun c => { c with sched := BitVec.ofNat 512 (bvf v 0 192) })
    | .queue q =>
      if q ≥ 65536 ∨ (s.mapped q).isSome then .fault .notEnabled
      else s.request (queueOk v && bvf v 80 16 == bvf (s.osm.qown.getD q 0) 0 12)
        { s with hazel := { s.hazel with queues := s.hazel.queues.set q (queueOf (s.queue q) v) } }
    | .czmbase d =>
      if d ≥ 4 then .fault .notEnabled
      else s.request (s.metaPlace (bvf v 0 48))
        (({ s with osm := { s.osm with czmbase := s.osm.czmbase.set d (bvf v 0 48) } }.modCtl (2 * d) fun c => { c with mcache := [] }).modCtl
          (2 * d + 1) fun c => { c with mcache := [] })
    | .dbbase => s.request (bvf v 0 30 == 0 && decide (bvf v 0 64 < 2 ^ 37))
        { s with osm := { s.osm with dbbase := bvf v 0 64 } }
    | .seal ctx => s.request (s.sealGood ctx v) (s.modCtx ctx fun c =>
        { c with sealed := if bvf v 0 40 = 0 then none else some (v.setWidth 24, BitVec.ofNat 16 (bvf v 24 16)) })
    | .misscap core => allow (decide (core < 192)) (s.sendDown (clusterOf core) (.misscap core v64))
    | .mailTest core => allow (decide (core < 192)) (s.sendDown (clusterOf core) (.test core))
    | .mailContinue core crew named =>
      allow (decide (core < 192)) (s.sendDown (clusterOf core) (.continue_ core crew (if named then some v64 else none)))
    | .mailFuse cl => allow (decide (cl < 48)) (s.sendDown cl .fuse)
    | .mailUnfuse cl => allow (decide (cl < 48)) (s.sendDown cl .unfuse)
    | .mailCancel ctx => .next (s.cancelContext ctx)
  | _ => .fault .noArg

end Sys2Proof.Machine
end

