-- ==== Sys2Proof/Machine/Dispatch.lean ====
section
/-! DEFINITION. Dispatch: one arm per constructor of Instr, in the opcode table's order. -/

namespace Sys2Proof.Machine

def exec (i : Instr) (s : State) : Host.Outcome State Fault Refusal :=
  match i with
  | .powerOn => Sys2Proof.Machine.execPowerOn s
  | .powerLoss => Sys2Proof.Machine.execPowerLoss s
  | .wake => Sys2Proof.Machine.execWake s
  | .status => Sys2Proof.Machine.execStatus s
  | .image => Sys2Proof.Machine.execImage s
  | .lccmd => Sys2Proof.Machine.execLccmd s
  | .wipeComplete => Sys2Proof.Machine.execWipeComplete s
  | .attest => Sys2Proof.Machine.execAttest s
  | .off => Sys2Proof.Machine.execOff s
  | .unknownFrameType => Sys2Proof.Machine.execUnknownFrameType s
  | .clockStepDown => Sys2Proof.Machine.execClockStepDown s
  | .clockStepUp => Sys2Proof.Machine.execClockStepUp s
  | .thermalTrip => Sys2Proof.Machine.execThermalTrip s
  | .coreCondemn => Sys2Proof.Machine.execCoreCondemn s
  | .coreCondemnedReport => Sys2Proof.Machine.execCoreCondemnedReport s
  | .pcieInboundData => Sys2Proof.Machine.execPcieInboundData s
  | .pcieOutboundData => Sys2Proof.Machine.execPcieOutboundData s
  | .pageWalk => Sys2Proof.Machine.execPageWalk s
  | .faultRecordWrite => Sys2Proof.Machine.execFaultRecordWrite s
  | .replayRetry => Sys2Proof.Machine.execReplayRetry s
  | .replayFatal => Sys2Proof.Machine.execReplayFatal s
  | .frcfgWrite => Sys2Proof.Machine.execFrcfgWrite s
  | .fridxWrite => Sys2Proof.Machine.execFridxWrite s
  | .xlinvaWrite => Sys2Proof.Machine.execXlinvaWrite s
  | .xlinvPage => Sys2Proof.Machine.execXlinvPage s
  | .xlinvAll => Sys2Proof.Machine.execXlinvAll s
  | .xlinvComplete => Sys2Proof.Machine.execXlinvComplete s
  | .homeAtomic => Sys2Proof.Machine.execHomeAtomic s
  | .farAtomic => Sys2Proof.Machine.execFarAtomic s
  | .l2Fill => Sys2Proof.Machine.execL2Fill s
  | .l2Writeback => Sys2Proof.Machine.execL2Writeback s
  | .growthRecordAppend => Sys2Proof.Machine.execGrowthRecordAppend s
  | .grcfgWrite => Sys2Proof.Machine.execGrcfgWrite s
  | .gridxWrite => Sys2Proof.Machine.execGridxWrite s
  | .czcmd => Sys2Proof.Machine.execCzcmd s
  | .fuse => Sys2Proof.Machine.execFuse s
  | .unfuse => Sys2Proof.Machine.execUnfuse s
  | .windowRegisterWrite => Sys2Proof.Machine.execWindowRegisterWrite s
  | .windowChangeComplete => Sys2Proof.Machine.execWindowChangeComplete s
  | .frameWipe => Sys2Proof.Machine.execFrameWipe s
  | .engineOpDispatch => Sys2Proof.Machine.execEngineOpDispatch s
  | .enginePiece => Sys2Proof.Machine.execEnginePiece s
  | .multicastArrival => Sys2Proof.Machine.execMulticastArrival s
  | .remoteWriteDeposit => Sys2Proof.Machine.execRemoteWriteDeposit s
  | .waitTimeout => Sys2Proof.Machine.execWaitTimeout s
  | .binTimeout => Sys2Proof.Machine.execBinTimeout s
  | .binWaveForm => Sys2Proof.Machine.execBinWaveForm s
  | .llsDecay => Sys2Proof.Machine.execLlsDecay s
  | .throttleSelect => Sys2Proof.Machine.execThrottleSelect s
  | .throttleBypass => Sys2Proof.Machine.execThrottleBypass s
  | .nopreWindowExpire => Sys2Proof.Machine.execNopreWindowExpire s
  | .crewEnd => Sys2Proof.Machine.execCrewEnd s
  | .tdescWrite => Sys2Proof.Machine.execTdescWrite s
  | .arriveWrite => Sys2Proof.Machine.execArriveWrite s
  | .illegalEncoding => Sys2Proof.Machine.execIllegalEncoding s
  | .rollback => Sys2Proof.Machine.execRollback s
  | .shadow => Sys2Proof.Machine.execShadow s
  | .shadowSlotGrant => Sys2Proof.Machine.execShadowSlotGrant s
  | .barrierWatchdogFire => Sys2Proof.Machine.execBarrierWatchdogFire s
  | .diagDumpWrite => Sys2Proof.Machine.execDiagDumpWrite s
  | .signalNotification => Sys2Proof.Machine.execSignalNotification s
  | .queueIdleUnmap => Sys2Proof.Machine.execQueueIdleUnmap s
  | .packetEmpty => Sys2Proof.Machine.execPacketEmpty s
  | .packetNode => Sys2Proof.Machine.execPacketNode s
  | .packetWait => Sys2Proof.Machine.execPacketWait s
  | .packetSignal => Sys2Proof.Machine.execPacketSignal s
  | .waitWordWatch => Sys2Proof.Machine.execWaitWordWatch s
  | .waitWordPoll => Sys2Proof.Machine.execWaitWordPoll s
  | .nodePlacement => Sys2Proof.Machine.execNodePlacement s
  | .priorityRise => Sys2Proof.Machine.execPriorityRise s
  | .place => Sys2Proof.Machine.execPlace s
  | .ended => Sys2Proof.Machine.execEnded s
  | .completionSignalWrite => Sys2Proof.Machine.execCompletionSignalWrite s
  | .eventRecordWrite => Sys2Proof.Machine.execEventRecordWrite s
  | .eventIrqTimer => Sys2Proof.Machine.execEventIrqTimer s
  | .fault => Sys2Proof.Machine.execFault s
  | .saved => Sys2Proof.Machine.execSaved s
  | .cancel => Sys2Proof.Machine.execCancel s
  | .continueCrew => Sys2Proof.Machine.execContinueCrew s
  | .test => Sys2Proof.Machine.execTest s
  | .testEnd => Sys2Proof.Machine.execTestEnd s
  | .misscapWrite => Sys2Proof.Machine.execMisscapWrite s
  | .preemptionRequest => Sys2Proof.Machine.execPreemptionRequest s
  | .scoreReport => Sys2Proof.Machine.execScoreReport s
  | .heapGrantReply => Sys2Proof.Machine.execHeapGrantReply s
  | .preempt => Sys2Proof.Machine.execPreempt s
  | .capture => Sys2Proof.Machine.execCapture s
  | .resume => Sys2Proof.Machine.execResume s
  | .partitionReplace => Sys2Proof.Machine.execPartitionReplace s
  | .scrub => Sys2Proof.Machine.execScrub s
  | .scrubCountUpdate => Sys2Proof.Machine.execScrubCountUpdate s
  | .ecscntClear => Sys2Proof.Machine.execEcscntClear s
  | .descriptorInstall => Sys2Proof.Machine.execDescriptorInstall s
  | .firewallAssign => Sys2Proof.Machine.execFirewallAssign s
  | .pageTableWrite => Sys2Proof.Machine.execPageTableWrite s
  | .windowInstall => Sys2Proof.Machine.execWindowInstall s
  | .loadObject => Sys2Proof.Machine.execLoadObject s
  | .linkPatch => Sys2Proof.Machine.execLinkPatch s
  | .registerWrite => Sys2Proof.Machine.execRegisterWrite s
  | .movB32H b d => Sys2Proof.Machine.execMovB32H b d s
  | .iaddN32H b d => Sys2Proof.Machine.execIaddN32H b d s
  | .isubN32H b d => Sys2Proof.Machine.execIsubN32H b d s
  | .imulN32H b d => Sys2Proof.Machine.execImulN32H b d s
  | .andB32H b d => Sys2Proof.Machine.execAndB32H b d s
  | .orB32H b d => Sys2Proof.Machine.execOrB32H b d s
  | .xorB32H b d => Sys2Proof.Machine.execXorB32H b d s
  | .shlB32H b d => Sys2Proof.Machine.execShlB32H b d s
  | .shrN32H b d => Sys2Proof.Machine.execShrN32H b d s
  | .shrI32H b d => Sys2Proof.Machine.execShrI32H b d s
  | .faddF32H b d => Sys2Proof.Machine.execFaddF32H b d s
  | .fsubF32H b d => Sys2Proof.Machine.execFsubF32H b d s
  | .fmulF32H b d => Sys2Proof.Machine.execFmulF32H b d s
  | .fminF32H b d => Sys2Proof.Machine.execFminF32H b d s
  | .fmaxF32H b d => Sys2Proof.Machine.execFmaxF32H b d s
  | .iminI32H b d => Sys2Proof.Machine.execIminI32H b d s
  | .iaddN32 b a d => Sys2Proof.Machine.execIaddN32 b a d s
  | .isubN32 b a d => Sys2Proof.Machine.execIsubN32 b a d s
  | .imulN32 b a d => Sys2Proof.Machine.execImulN32 b a d s
  | .imulhiI32 b a d => Sys2Proof.Machine.execImulhiI32 b a d s
  | .imulhiN32 b a d => Sys2Proof.Machine.execImulhiN32 b a d s
  | .iminI32 b a d => Sys2Proof.Machine.execIminI32 b a d s
  | .iminN32 b a d => Sys2Proof.Machine.execIminN32 b a d s
  | .imaxI32 b a d => Sys2Proof.Machine.execImaxI32 b a d s
  | .imaxN32 b a d => Sys2Proof.Machine.execImaxN32 b a d s
  | .iabsI32 a d => Sys2Proof.Machine.execIabsI32 a d s
  | .idivI32 b a d => Sys2Proof.Machine.execIdivI32 b a d s
  | .idivN32 b a d => Sys2Proof.Machine.execIdivN32 b a d s
  | .iremI32 b a d => Sys2Proof.Machine.execIremI32 b a d s
  | .iremN32 b a d => Sys2Proof.Machine.execIremN32 b a d s
  | .iaddsatI32 b a d => Sys2Proof.Machine.execIaddsatI32 b a d s
  | .isubsatI32 b a d => Sys2Proof.Machine.execIsubsatI32 b a d s
  | .andB32 b a d => Sys2Proof.Machine.execAndB32 b a d s
  | .orB32 b a d => Sys2Proof.Machine.execOrB32 b a d s
  | .xorB32 b a d => Sys2Proof.Machine.execXorB32 b a d s
  | .andnB32 b a d => Sys2Proof.Machine.execAndnB32 b a d s
  | .shlB32 b a d => Sys2Proof.Machine.execShlB32 b a d s
  | .shrN32 b a d => Sys2Proof.Machine.execShrN32 b a d s
  | .shrI32 b a d => Sys2Proof.Machine.execShrI32 b a d s
  | .rotlB32 b a d => Sys2Proof.Machine.execRotlB32 b a d s
  | .popcB32 a d => Sys2Proof.Machine.execPopcB32 a d s
  | .clzB32 a d => Sys2Proof.Machine.execClzB32 a d s
  | .brevB32 a d => Sys2Proof.Machine.execBrevB32 a d s
  | .notB32 a d => Sys2Proof.Machine.execNotB32 a d s
  | .iaddiN32 im a d => Sys2Proof.Machine.execIaddiN32 im a d s
  | .andiB32 im a d => Sys2Proof.Machine.execAndiB32 im a d s
  | .oriB32 im a d => Sys2Proof.Machine.execOriB32 im a d s
  | .xoriB32 im a d => Sys2Proof.Machine.execXoriB32 im a d s
  | .shliB32 n a d => Sys2Proof.Machine.execShliB32 n a d s
  | .shriN32 n a d => Sys2Proof.Machine.execShriN32 n a d s
  | .shriI32 n a d => Sys2Proof.Machine.execShriI32 n a d s
  | .rotiB32 n a d => Sys2Proof.Machine.execRotiB32 n a d s
  | .faddF32 r b a d => Sys2Proof.Machine.execFaddF32 r b a d s
  | .fsubF32 r b a d => Sys2Proof.Machine.execFsubF32 r b a d s
  | .fmulF32 r b a d => Sys2Proof.Machine.execFmulF32 r b a d s
  | .fdivF32 r b a d => Sys2Proof.Machine.execFdivF32 r b a d s
  | .fminF32 b a d => Sys2Proof.Machine.execFminF32 b a d s
  | .fmaxF32 b a d => Sys2Proof.Machine.execFmaxF32 b a d s
  | .fsqrtF32 r a d => Sys2Proof.Machine.execFsqrtF32 r a d s
  | .fnegF32 a d => Sys2Proof.Machine.execFnegF32 a d s
  | .fabsF32 a d => Sys2Proof.Machine.execFabsF32 a d s
  | .fcsgnF32 b a d => Sys2Proof.Machine.execFcsgnF32 b a d s
  | .fadd2F16 r b a d => Sys2Proof.Machine.execFadd2F16 r b a d s
  | .fmul2F16 r b a d => Sys2Proof.Machine.execFmul2F16 r b a d s
  | .fadd2Bf16 r b a d => Sys2Proof.Machine.execFadd2Bf16 r b a d s
  | .fmul2Bf16 r b a d => Sys2Proof.Machine.execFmul2Bf16 r b a d s
  | .ffmaF32 c b a d r => Sys2Proof.Machine.execFfmaF32 c b a d r s
  | .imadN32 c b a d => Sys2Proof.Machine.execImadN32 c b a d s
  | .fceqF32 b a d => Sys2Proof.Machine.execFceqF32 b a d s
  | .fcneF32 b a d => Sys2Proof.Machine.execFcneF32 b a d s
  | .fcltF32 b a d => Sys2Proof.Machine.execFcltF32 b a d s
  | .fcleF32 b a d => Sys2Proof.Machine.execFcleF32 b a d s
  | .fcgtF32 b a d => Sys2Proof.Machine.execFcgtF32 b a d s
  | .fcgeF32 b a d => Sys2Proof.Machine.execFcgeF32 b a d s
  | .fcunF32 b a d => Sys2Proof.Machine.execFcunF32 b a d s
  | .fcordF32 b a d => Sys2Proof.Machine.execFcordF32 b a d s
  | .iceqB32 b a d => Sys2Proof.Machine.execIceqB32 b a d s
  | .icneB32 b a d => Sys2Proof.Machine.execIcneB32 b a d s
  | .icltI32 b a d => Sys2Proof.Machine.execIcltI32 b a d s
  | .icleI32 b a d => Sys2Proof.Machine.execIcleI32 b a d s
  | .icgtI32 b a d => Sys2Proof.Machine.execIcgtI32 b a d s
  | .icgeI32 b a d => Sys2Proof.Machine.execIcgeI32 b a d s
  | .icltN32 b a d => Sys2Proof.Machine.execIcltN32 b a d s
  | .icleN32 b a d => Sys2Proof.Machine.execIcleN32 b a d s
  | .icgtN32 b a d => Sys2Proof.Machine.execIcgtN32 b a d s
  | .icgeN32 b a d => Sys2Proof.Machine.execIcgeN32 b a d s
  | .ictstB32 b a d => Sys2Proof.Machine.execIctstB32 b a d s
  | .selB32 n b a d => Sys2Proof.Machine.execSelB32 n b a d s
  | .pand b a d => Sys2Proof.Machine.execPand b a d s
  | .por b a d => Sys2Proof.Machine.execPor b a d s
  | .pxor b a d => Sys2Proof.Machine.execPxor b a d s
  | .pandn b a d => Sys2Proof.Machine.execPandn b a d s
  | .pmov a d => Sys2Proof.Machine.execPmov a d s
  | .pnot a d => Sys2Proof.Machine.execPnot a d s
  | .vtop a d => Sys2Proof.Machine.execVtop a d s
  | .ptov a d => Sys2Proof.Machine.execPtov a d s
  | .cvt sc t r a d => Sys2Proof.Machine.execCvt sc t r a d s
  | .pack2B16 b a d => Sys2Proof.Machine.execPack2B16 b a d s
  | .pack2B8 b a d => Sys2Proof.Machine.execPack2B8 b a d s
  | .pack2hB8 b a d => Sys2Proof.Machine.execPack2hB8 b a d s
  | .extN16 b a d => Sys2Proof.Machine.execExtN16 b a d s
  | .extI16 b a d => Sys2Proof.Machine.execExtI16 b a d s
  | .extN8 b a d => Sys2Proof.Machine.execExtN8 b a d s
  | .extI8 b a d => Sys2Proof.Machine.execExtI8 b a d s
  | .bfxN32 b a d => Sys2Proof.Machine.execBfxN32 b a d s
  | .bfxI32 b a d => Sys2Proof.Machine.execBfxI32 b a d s
  | .bfiB32 b a d => Sys2Proof.Machine.execBfiB32 b a d s
  | .movB32 b a d => Sys2Proof.Machine.execMovB32 b a d s
  | .shflB32 b a d => Sys2Proof.Machine.execShflB32 b a d s
  | .bcastB32 b a d => Sys2Proof.Machine.execBcastB32 b a d s
  | .ballotB32 a d => Sys2Proof.Machine.execBallotB32 a d s
  | .vall a d => Sys2Proof.Machine.execVall a d s
  | .vany a d => Sys2Proof.Machine.execVany a d s
  | .laneid d => Sys2Proof.Machine.execLaneid d s
  | .tid d => Sys2Proof.Machine.execTid d s
  | .qset a d => Sys2Proof.Machine.execQset a d s
  | .qget a d => Sys2Proof.Machine.execQget a d s
  | .iaddN64 b a d => Sys2Proof.Machine.execIaddN64 b a d s
  | .isubN64 b a d => Sys2Proof.Machine.execIsubN64 b a d s
  | .imulN64 b a d => Sys2Proof.Machine.execImulN64 b a d s
  | .shlB64 b a d => Sys2Proof.Machine.execShlB64 b a d s
  | .shrN64 b a d => Sys2Proof.Machine.execShrN64 b a d s
  | .shrI64 b a d => Sys2Proof.Machine.execShrI64 b a d s
  | .iminI64 b a d => Sys2Proof.Machine.execIminI64 b a d s
  | .imaxI64 b a d => Sys2Proof.Machine.execImaxI64 b a d s
  | .iminN64 b a d => Sys2Proof.Machine.execIminN64 b a d s
  | .imaxN64 b a d => Sys2Proof.Machine.execImaxN64 b a d s
  | .imulwN32 b a d => Sys2Proof.Machine.execImulwN32 b a d s
  | .imulwI32 b a d => Sys2Proof.Machine.execImulwI32 b a d s
  | .uaddN32 b a d => Sys2Proof.Machine.execUaddN32 b a d s
  | .usubN32 b a d => Sys2Proof.Machine.execUsubN32 b a d s
  | .umulN32 b a d => Sys2Proof.Machine.execUmulN32 b a d s
  | .uminI32 b a d => Sys2Proof.Machine.execUminI32 b a d s
  | .umaxI32 b a d => Sys2Proof.Machine.execUmaxI32 b a d s
  | .uminN32 b a d => Sys2Proof.Machine.execUminN32 b a d s
  | .umaxN32 b a d => Sys2Proof.Machine.execUmaxN32 b a d s
  | .uandB32 b a d => Sys2Proof.Machine.execUandB32 b a d s
  | .uorB32 b a d => Sys2Proof.Machine.execUorB32 b a d s
  | .uxorB32 b a d => Sys2Proof.Machine.execUxorB32 b a d s
  | .ushlB32 b a d => Sys2Proof.Machine.execUshlB32 b a d s
  | .ushrN32 b a d => Sys2Proof.Machine.execUshrN32 b a d s
  | .ushrI32 b a d => Sys2Proof.Machine.execUshrI32 b a d s
  | .udivN32 b a d => Sys2Proof.Machine.execUdivN32 b a d s
  | .uremN32 b a d => Sys2Proof.Machine.execUremN32 b a d s
  | .umov b d => Sys2Proof.Machine.execUmov b d s
  | .useqB32 b a d => Sys2Proof.Machine.execUseqB32 b a d s
  | .usltI32 b a d => Sys2Proof.Machine.execUsltI32 b a d s
  | .usltN32 b a d => Sys2Proof.Machine.execUsltN32 b a d s
  | .udivI32 b a d => Sys2Proof.Machine.execUdivI32 b a d s
  | .uremI32 b a d => Sys2Proof.Machine.execUremI32 b a d s
  | .uaddi im a d => Sys2Proof.Machine.execUaddi im a d s
  | .umovi im d => Sys2Proof.Machine.execUmovi im d s
  | .cmovRead n sc => Sys2Proof.Machine.execCmovRead n sc s
  | .cmovWrite n sc => Sys2Proof.Machine.execCmovWrite n sc s
  | .br o => Sys2Proof.Machine.execBr o s
  | .brCond o n p => Sys2Proof.Machine.execBrCond o n p s
  | .call o => Sys2Proof.Machine.execCall o s
  | .callCond o n p => Sys2Proof.Machine.execCallCond o n p s
  | .jmp a => Sys2Proof.Machine.execJmp a s
  | .calli a => Sys2Proof.Machine.execCalli a s
  | .ret => Sys2Proof.Machine.execRet s
  | .ldlB32 o d => Sys2Proof.Machine.execLdlB32 o d s
  | .ldlB64 o d => Sys2Proof.Machine.execLdlB64 o d s
  | .ldB32 o sc a d => Sys2Proof.Machine.execLdB32 o sc a d s
  | .ldB64 o sc a d => Sys2Proof.Machine.execLdB64 o sc a d s
  | .ldB128 o sc a d => Sys2Proof.Machine.execLdB128 o sc a d s
  | .stB32 o im sc a d => Sys2Proof.Machine.execStB32 o im sc a d s
  | .stB64 o im sc a d => Sys2Proof.Machine.execStB64 o im sc a d s
  | .stB128 o im sc a d => Sys2Proof.Machine.execStB128 o im sc a d s
  | .ldB32Ord g o sc a d => Sys2Proof.Machine.execLdB32Ord g o sc a d s
  | .ldB64Ord g o sc a d => Sys2Proof.Machine.execLdB64Ord g o sc a d s
  | .stB32Ord g o sc a d => Sys2Proof.Machine.execStB32Ord g o sc a d s
  | .stB64Ord g o sc a d => Sys2Proof.Machine.execStB64Ord g o sc a d s
  | .ataddN32 g o b a d => Sys2Proof.Machine.execAtaddN32 g o b a d s
  | .atfaddF32 g o b a d => Sys2Proof.Machine.execAtfaddF32 g o b a d s
  | .atminI32 g o b a d => Sys2Proof.Machine.execAtminI32 g o b a d s
  | .atminN32 g o b a d => Sys2Proof.Machine.execAtminN32 g o b a d s
  | .atmaxI32 g o b a d => Sys2Proof.Machine.execAtmaxI32 g o b a d s
  | .atmaxN32 g o b a d => Sys2Proof.Machine.execAtmaxN32 g o b a d s
  | .atandB32 g o b a d => Sys2Proof.Machine.execAtandB32 g o b a d s
  | .atorB32 g o b a d => Sys2Proof.Machine.execAtorB32 g o b a d s
  | .atxorB32 g o b a d => Sys2Proof.Machine.execAtxorB32 g o b a d s
  | .atswpB32 g o b a d => Sys2Proof.Machine.execAtswpB32 g o b a d s
  | .atcasB32 g o b a d => Sys2Proof.Machine.execAtcasB32 g o b a d s
  | .atmrgB32 g o b a d => Sys2Proof.Machine.execAtmrgB32 g o b a d s
  | .ataddN64 g o b a d => Sys2Proof.Machine.execAtaddN64 g o b a d s
  | .atswpB64 g o b a d => Sys2Proof.Machine.execAtswpB64 g o b a d s
  | .atcasB64 g o b a d => Sys2Proof.Machine.execAtcasB64 g o b a d s
  | .fenceAcq g => Sys2Proof.Machine.execFenceAcq g s
  | .fenceRel g => Sys2Proof.Machine.execFenceRel g s
  | .fenceAr g => Sys2Proof.Machine.execFenceAr g s
  | .bind b a d => Sys2Proof.Machine.execBind b a d s
  | .join a => Sys2Proof.Machine.execJoin a s
  | .leave a => Sys2Proof.Machine.execLeave a s
  | .wait b a d => Sys2Proof.Machine.execWait b a d s
  | .cbar a => Sys2Proof.Machine.execCbar a s
  | .cjoin a => Sys2Proof.Machine.execCjoin a s
  | .cleave => Sys2Proof.Machine.execCleave s
  | .binit b a => Sys2Proof.Machine.execBinit b a s
  | .barrive b a => Sys2Proof.Machine.execBarrive b a s
  | .bwait a d => Sys2Proof.Machine.execBwait a d s
  | .bread a d => Sys2Proof.Machine.execBread a d s
  | .rdwp b d => Sys2Proof.Machine.execRdwp b d s
  | .rwr b a => Sys2Proof.Machine.execRwr b a s
  | .mld p sc a d => Sys2Proof.Machine.execMld p sc a d s
  | .mst p im sc a d => Sys2Proof.Machine.execMst p im sc a d s
  | .mldf sc a d => Sys2Proof.Machine.execMldf sc a d s
  | .mstf im sc a d => Sys2Proof.Machine.execMstf im sc a d s
  | .ald p sc a d => Sys2Proof.Machine.execAld p sc a d s
  | .ast p im sc a d => Sys2Proof.Machine.execAst p im sc a d s
  | .mma b a d => Sys2Proof.Machine.execMma b a d s
  | .mmaz b a d => Sys2Proof.Machine.execMmaz b a d s
  | .mdrain a d => Sys2Proof.Machine.execMdrain a d s
  | .aclr d => Sys2Proof.Machine.execAclr d s
  | .mmul b a d => Sys2Proof.Machine.execMmul b a d s
  | .madd b a d => Sys2Proof.Machine.execMadd b a d s
  | .maddDn b a d => Sys2Proof.Machine.execMaddDn b a d s
  | .mrecomp a d => Sys2Proof.Machine.execMrecomp a d s
  | .mfact a d => Sys2Proof.Machine.execMfact a d s
  | .mdens a d => Sys2Proof.Machine.execMdens a d s
  | .mmov a d => Sys2Proof.Machine.execMmov a d s
  | .mtr a d => Sys2Proof.Machine.execMtr a d s
  | .mzero d => Sys2Proof.Machine.execMzero d s
  | .xcopy h b a => Sys2Proof.Machine.execXcopy h b a s
  | .xrepack h b a => Sys2Proof.Machine.execXrepack h b a s
  | .xtr h b a => Sys2Proof.Machine.execXtr h b a s
  | .xcvt h b a => Sys2Proof.Machine.execXcvt h b a s
  | .xexp h b a => Sys2Proof.Machine.execXexp h b a s
  | .xmcast h e b a => Sys2Proof.Machine.execXmcast h e b a s
  | .exit => Sys2Proof.Machine.execExit s
  | .emit a => Sys2Proof.Machine.execEmit a s
  | .idem => Sys2Proof.Machine.execIdem s
  | .nopre a => Sys2Proof.Machine.execNopre a s
  | .rng b a d => Sys2Proof.Machine.execRng b a d s
  | .caddN128 b a d => Sys2Proof.Machine.execCaddN128 b a d s
  | .bkpt im => Sys2Proof.Machine.execBkpt im s
  | .tret => Sys2Proof.Machine.execTret s
  | .tstamp d => Sys2Proof.Machine.execTstamp d s
  | .coreid d => Sys2Proof.Machine.execCoreid d s
  | .czcmdComplete => Sys2Proof.Machine.execCzcmdComplete s
  | .replayRefused => Sys2Proof.Machine.execReplayRefused s
  | .commandCrcFailure => Sys2Proof.Machine.execCommandCrcFailure s
  | .sendPermitReturn => Sys2Proof.Machine.execSendPermitReturn s
  | .peerAccess => Sys2Proof.Machine.execPeerAccess s
  | .controlCoreAccess => Sys2Proof.Machine.execControlCoreAccess s
  | .queueOwnerAssign => Sys2Proof.Machine.execQueueOwnerAssign s

end Sys2Proof.Machine
end

