-- ==== Sys2Proof/Machine/Issue.lean ====
section
/-! DEFINITION. What a step is made of: which pod issues (R165, R166), fetching and decoding its instruction (R29, R55, R206,
R213, R214), the moves of the device, and the placing of one instruction where the next step fetches. -/

namespace Sys2Proof.Machine

/-! ### The pod that issues -/

/-- The crew may issue: it is in its run, and its context goes on (R317, R339, R351, R359, R362). -/
def State.mayIssue (s : State) (core : Nat) (w : Wave) : Bool :=
  match s.crew? core w.crew with
  | none => false
  | some k => decide (k.phase = .run) && !(s.ctx k.ctx).stopping

/-- The crew's QUANTUM. -/
def State.quantumOf (s : State) (core : Nat) (w : Wave) : Nat := (s.crew? core w.crew).elim 64 fun k => k.body.quantum

/-- The pod of a wave, once the wave has ended a finished quantum (R166): none when no thread is ready or the crew may not
issue. -/
def State.podOf (s : State) (core slot : Nat) (klim : Option Nat) : Option Pod :=
  match s.wave? core slot with
  | none => none
  | some w =>
    let w' := w.reselect (s.quantumOf core w)
    if s.mayIssue core w ∧ w'.podLanes ≠ [] then some ⟨core, slot, w'.podLanes, w'.sel, 0, 2, klim⟩ else none

/-- The wave ends a finished quantum. -/
def State.reselected (s : State) (core slot : Nat) : State :=
  s.modWave core slot fun w => w.reselect (s.quantumOf core w)

/-- The wave of a port that issues next (R165): among those with a pod ready, but for the ones in `busy` and those that were found
in this cycle to lack a resource, the one that issued least recently; ties go to the lower slot. -/
def State.portPick (s : State) (core port : Nat) (busy : List Nat) : Option Nat :=
  ((s.core core).waves.foldl (fun (o : Option (Nat × Nat)) e =>
    if e.1 / 8 = port ∧ !busy.contains e.1 ∧ !s.kept.contains (waveNo core e.1) ∧ (s.podOf core e.1 none).isSome then
      match o with
      | none => some (e.2.lastIssue, e.1)
      | some y => if e.2.lastIssue < y.1 then some (e.2.lastIssue, e.1) else some y
    else o) none).map fun x => x.2

/-- The next port that has not issued in this cycle and has a pod ready, with its wave; ports follow in core order (R165). -/
def State.pick (s : State) : Option (Nat × Nat) :=
  s.cores.findSome? fun c => (span 0 4).findSome? fun port =>
    if s.ported.contains (4 * c.1 + port) then none else (s.portPick c.1 port []).map fun slot => (c.1, slot)

/-! ### Fetch -/

/-- What fetching finds. -/
inductive Fetched where
  | code (bytes : List Byte)
  | trap (t : Trap)
  /-- The pod waits at the instruction, in a state that says so. -/
  | wait

/-- Fetch the granule that holds an address of the pod's instruction (R29, R43, R55, R206): a failed check is SITE 0x06. -/
def State.fetchGranule (s : State) (p : Pod) (k : Crew) (va : Nat) : Fetched × State :=
  let g : Agent := ⟨p.core, p.slot, k.ctx, none, 0, k.replay, p.low⟩
  if s.queueFull p.core && s.wouldMiss g va .fetch then (.wait, s.stalled p)
  else match s.translate g (va / 4 * 4) .fetch with
  | (.mem pa _ ms cz, s) =>
    match s.icGet p.core pa cz with
    | (u, s) =>
      match s.chkUnit 6 0xFF p.low u (some (if ms then pa + 1 else pa)) with
      | some c => (.trap c.trap, s)
      | none => (.code ((leBytes u.data.toNat 4).drop (va % 4)), s)
  | (.fault c, s) => (.trap ⟨c, p.low, va, none⟩, s)
  | (.replay page cond level, s) =>
    if s.missRoom g page .fetch then
      match s.attach g va page cond level .fetch with
      | (u, s) => (.wait, s.hold p (.replay u va))
    else (.wait, s.stalled p)
  | (.spad _, s) => (.trap ⟨.perm, p.low, va, none⟩, s)

/-- Fetch the pod's instruction: the first halfword, and the second when bit 0 is 1 (R206). The PC wraps at 58 bits. -/
def State.fetch (s : State) (p : Pod) (k : Crew) : Fetched × State :=
  match s.fetchGranule p k p.pc.toNat with
  | (.code bs, s) =>
    if bs.length ≥ 4 ∨ !(bs.headD 0).getLsbD 0 then (.code bs, s)
    else
      match s.fetchGranule p k (p.pc + 2#58).toNat with
      | (.code cs, s) => (.code (bs ++ cs), s)
      | r => r
  | r => r

/-- The instruction's own bits: 16 or 32 (R206). -/
def wordOf (bs : List Byte) (len : Nat) : BitVec 32 := BitVec.ofNat 32 (leNat (bs.take len))

/-- Run a decoded instruction for the pod; a rejected pattern is ILL or UND (R213). -/
def State.runCode (s : State) (p : Pod) (bs : List Byte) : Res :=
  match decode bs with
  | .ok i len => exec i { s with pod := some { p with word := wordOf bs len, len := len } }
  | .ill len => exec .illegalEncoding { s with
      pod := some { p with word := wordOf bs len, len := len }, arg := .illegalEncoding true (wordOf bs len) }
  | .und len => exec .illegalEncoding { s with
      pod := some { p with word := wordOf bs len, len := len }, arg := .illegalEncoding false (wordOf bs len) }
  | .short => .fault .noPod

/-- The wave in a slot issues its pod. -/
def State.issue (s : State) (core slot : Nat) (klim : Option Nat) : Res :=
  match s.podOf core slot klim with
  | none => .fault .notEnabled
  | some p =>
    let s := s.reselected core slot
    match s.wave? core slot with
    | none => .fault .notEnabled
    | some w =>
      match s.crew? core w.crew with
      | none => .fault .notEnabled
      | some k =>
        match s.fetch p k with
        | (.code bs, s) => s.runCode p bs
        | (.trap t, s) => .next ((Eff.trap s t).state p w k)
        | (.wait, s) => .next s

/-! ### Moves -/

/-- Change a stored unit by masks. -/
def flipUnit (u : GUnit) (data : BitVec 32) (code : BitVec 8) : GUnit := { u with data := u.data ^^^ data, code := u.code ^^^ code }

/-! ### The end of a cycle -/

/-- The turns of 256 cycles that are due on a core come next (R182, R183): the scores fall once for each, and the choice of waves
is made. Forty turns bring every score to where it stays, and a core without waves has nothing to do. -/
def State.dueOn (s : State) (core : Nat) : State :=
  let k := s.core core
  let t := s.turns core
  if k.waves.isEmpty then s.modCore core fun k => { k with decays := t, selects := t }
  else
    let n := min 40 (t - k.decays)
    let s := s.modCore core fun k => { k with decays := t - n }
    { s with agenda := List.replicate n (.event (.llsDecay core)) ++ (if k.selects < t then [.event (.throttleSelect core)] else []) ++ s.agenda }

/-- The turns that are due on every core. -/
def State.due (s : State) : State :=
  s.cores.foldl (fun (s : State) c =>
    if c.2.decays < s.turns c.1 ∨ c.2.selects < s.turns c.1 then s.dueOn c.1 else s) s

/-- Complete masks release their threads (R169), and the deposits of the cycle are over (R202). -/
def State.endMasks (s : State) : State :=
  { s with cores := s.cores.mapAll fun _ k => { k with waves := k.waves.mapAll fun _ w => { w.releaseMasks with landed := 0 } } }

/-- The test of every crew's barrier (R260). -/
def State.endBarriers (s : State) : State :=
  s.cores.foldl (fun s c => c.2.crews.foldl (fun s k => if k.2.body.bar.isSome then s.testBarrier c.1 k.1 else s) s) s

/-- Waits whose count ran out in a cycle that has ended (R171). -/
def State.expire (s : State) : State :=
  { s with cores := s.cores.mapAll fun c k => { k with waves := k.waves.mapAll fun _ w => w.expire (s.cycOf c) } }

/-- The end of some cycles, after all that happened in the first of them: complete masks and crew barriers release their threads
(R169, R260), waiters of complete barrier objects go on (R262, R265), the counts of waits that no release met run out (R171),
every port may issue again (R165), and the turns that are due follow. -/
def State.endCycle (s : State) (n : Nat) : State :=
  { { s with pod := none, arg := .none, ported := [], kept := [] }.endMasks.endBarriers.endBwaits with cycle := s.cycle + n }.expire.due

/-! ### Moves -/

/-- The number of the firmware image that a unit of control space runs (log 94): a control core, Hazel and an Acorn, Osmium. -/
def imageOf (unit : Nat) : Nat := if unit < 24 then 2 else if unit < 73 then 1 else 0

/-- The supervisor is Pewter with the operating system's driver (R3): one of their images runs. -/
def State.supervised (s : State) : Bool := s.runsImage 1 || s.runsImage 2

/-- The firmware that writes a register has its image running: Osmium for what it keeps for contexts and for the device, the
supervisor for its own. -/
def State.writes (s : State) (r : SupReg) : Bool :=
  match r with
  | .diagva _ | .audctl _ => s.runsImage 0 && s.supervised
  | .sched _ | .queue _ | .czmbase _ | .dbbase | .seal _ => s.runsImage 0
  | _ => s.supervised

/-- The duties of firmware (R372, R377): a step that Osmium makes needs Osmium, one that Pewter makes needs the Pewter image, one of
the supervisor needs one of its images, and an access of a control core the image of its operating system. An image that fails its
check is not run. -/
def State.runs (s : State) (a : Arg) : Bool :=
  match a with
  | .descriptorInstall _ _ | .firewallAssign _ _ | .queueOwnerAssign _ _ | .pageTableWrite _ _ _ _ | .windowInstall _ _ _ _ _ |
    .windowRegisterWrite _ _ _ _ | .frameWipe _ | .loadObject _ _ | .linkPatch _ _ _ | .ecscntClear _ | .partitionReplace _ _ => s.runsImage 0
  | .nodePlacement _ _ | .preemptionRequest _ | .priorityRise _ | .scoreReport _ | .heapGrantReply _ _ _ | .shadowSlotGrant _ _ _ |
    .resume _ _ _ => s.runsImage 1
  | .controlCoreAccess u _ _ => s.runsImage (imageOf u)
  | .frcfgWrite _ _ | .fridxWrite _ _ | .replayRetry _ _ _ | .replayFatal _ _ _ | .replayRefused _ _ | .xlinvaWrite _ | .xlinvPage _ |
    .xlinvAll _ | .grcfgWrite _ | .gridxWrite _ | .czcmd _ _ => s.supervised
  | .registerWrite r _ => s.writes r
  | _ => true

/-- Perform one move. Without package power only POWER_ON happens, and a device that a trip stopped does nothing until power goes
and comes again (R23, R24). -/
def State.perform (s : State) (m : Move) : Res :=
  if !s.alive ∧ m ≠ .event .powerOn ∧ m ≠ .event .powerLoss then .fault .notEnabled
  else match m with
  | .issue core slot klim busy =>
    let s := if s.ported.contains (portOf core slot) || s.kept.contains (waveNo core slot) then s.endCycle 1 else s
    if s.portPick core (slot / 8) busy = some slot then
      { s with ported := portOf core slot :: s.ported }.issue core slot klim
    else .fault .notEnabled
  | .event a =>
    match a.instr with
    | none => .fault .noArg
    | some i => if s.runs a then exec i { s with arg := a } else .fault .notEnabled
  | .tick n => .next (if n = 0 then s else s.endCycle n)
  | .evict core line => .next (s.l1Evict core line)
  | .evictL2 line => .next (s.l2Evict line)
  | .flip pa data code mark =>
    allow (decide (pa < hbmSize)) (let u := s.hbmUnit pa; s.hbmPut pa { flipUnit u data code with ue := u.ue || mark })
  | .flipL2 pa data code =>
    .next { s with l2 := s.l2.alter (pa / 128) fun l => { l with
      units := l.units.zipIdx.map fun x => if x.2 = pa / 4 % 32 then flipUnit x.1 data code else x.1 } }
  | .flipL1 core pa data code =>
    .next (s.modCore core fun k => { k with l1 := k.l1.alter (pa / 128) fun l => { l with
      units := l.units.alter (pa / 4 % 32) fun u => (flipUnit u.1 data code, u.2) } })
  | .flipSpad core crew gran data code =>
    .next (s.modCrew core crew fun k => { k with
      spad := k.spad.put gran (flipUnit (k.spad.getD gran .zero) data code) .zero })
  | .flipReg core slot reg lane data code =>
    let r := if reg < 0x80 then Reg.v reg else Reg.s (reg - 0x80)
    .next (s.modWave core slot fun w => w.set r lane (flipUnit (w.get r lane) data code))
  | .flipAcc core crew acc el data code =>
    .next (s.modBody core crew fun b => { b with
      accs := b.accs.alter acc fun a => { a with el := a.el.alter el fun u => flipUnit u data code } })
  | .parity core slot reg => .next (s.modWave core slot fun w => { w with
      parity := if w.parity.contains reg then w.parity else reg :: w.parity })
  | .parityCrew core crew crn => .next (s.modBody core crew fun b => { b with
      parity := if b.parity.contains crn then b.parity else crn :: b.parity })
  | .parityCore core crn => .next (s.modCore core fun k => { k with
      parity := if k.parity.contains crn then k.parity else crn :: k.parity })
  | .evictTlb level unit entry =>
    let drop (l : List TlbEntry) : List TlbEntry := l.eraseIdx entry
    .next (match level with
      | 0 => s.modCore unit fun k => { k with tlb := drop k.tlb }
      | 1 => s.modCluster unit fun c => { c with tlb := drop c.tlb }
      | _ => s.modDie unit fun d => { d with tlb := drop d.tlb })

/-- The next move: the agenda's first, else the turn of the next port that may issue, else the cycle ends. -/
def State.move (s : State) : Res :=
  match s.agenda with
  | m :: ms => { s with agenda := ms }.perform m
  | [] =>
    match s.pick with
    | some (core, slot) => s.perform (.issue core slot none [])
    | none => .next (s.endCycle 1)

/-- A move is over. -/
def State.afterMove (s : State) : State := { s with pod := none, arg := .none }

/-- One step: one move happens. -/
def State.advance (s : State) : Res :=
  match s.move with
  | .next t => .next t.afterMove
  | .fault f => .fault f
  | .refused r => .refused r

/-! ### Placing one instruction (log 11) -/

/-- The text address where a placed instruction stands. -/
def placePc : VAddr := 0x200000000001000#58
/-- The HBM frame that holds it. -/
def placePa : Nat := 0x100000
/-- The translation that leads there. -/
def placeTlb : TlbEntry := ⟨1, some 0, 0x200000000000000, 16384, placePa, 0, true, false, true, false, false, false⟩

/-- A crew of one thread with a large allocation. -/
def placeCrew (now : Nat) : Crew where
  ctx := 1
  node := 0
  cidx := 0
  prio := 0
  setn := 0
  fuse := false
  audit := none
  replay := none
  decl := ⟨112, 64, 8, 2048, 2048, 1⟩
  body := CrewBody.fresh
  barto := 0
  spad := []
  base := 0
  interval := 0
  wp := [0, 0, 0, 0]
  escaped := false
  retry := false
  lastBad := none
  issued := 0
  ksteps := 0
  bars := 0
  elapsed := 0
  since := now
  phase := .run
  bkstop := none
  shadow := none
  slot := none
  grant := none
  preempt := none
  refused := false
  unseen := []

/-- One thread in lane 0 of wave slot 0 of core 0, at the placed instruction. -/
def placeWave : Wave :=
  { Wave.fresh 0 0 64 [(0, Thread.fresh 0 0 placePc)] with sel := placePc }

/-- A pod is ready in slot 0 of core 0, or one is made ready (log 11). -/
def State.placeReady (s : State) : State :=
  if (s.podOf 0 0 none).isSome then s
  else
    let t := s.modCore 0 fun k => { k with
      crews := k.crews.set 0 (placeCrew (s.cycOf 0)), waves := k.waves.set 0 placeWave
      tlb := placeTlb :: k.tlb.filter fun e => !(e.ctx == 1 && e.text == some 0) }
    if (s.ctx 1).stopping then t.modCtx 1 fun c => { c with stopping := false } else t

/-- Replace the halfword at a text address of slot 0's context, where it translates. -/
def State.placeHalf (s : State) (ctx va h : Nat) : State :=
  match s.translate ⟨0, 0, ctx, none, 0, none, 0⟩ (va / 4 * 4) .fetch with
  | (.mem pa _ _ _, _) =>
    let old := match s.l2.find (pa / 128) with
      | some l => (l.units.getD (pa / 4 % 32) .zero).data.toNat
      | none => (s.hbmUnit pa).data.toNat
    let u := coded (BitVec.ofNat 32 (if va % 4 = 0 then old / 65536 * 65536 + h else old % 65536 + 65536 * h))
    let t := match s.l2.find (pa / 128) with
      | some _ => s.homePut pa u none
      | none => s.hbmPut pa u
    t.modCore 0 fun k => { k with icache := k.icache.del (pa / 4) }
  | _ => s

/-- The instruction with the given bits stands where the next step fetches (log 11). -/
def State.place (s : State) (nbits w : Nat) : State :=
  let s := s.placeReady
  match s.podOf 0 0 none, s.wave? 0 0 with
  | some p, some v =>
    let ctx := (s.crew? 0 v.crew).elim 0 fun k => k.ctx
    let n := w % 2 ^ nbits
    let t := (s.placeHalf ctx p.pc.toNat (n % 65536)).placeHalf ctx (p.pc + 2#58).toNat (n / 65536 % 65536)
    { t with agenda := .issue 0 0 none (portMates 0) :: t.agenda, ported := t.ported.filter fun i => i != 0
             kept := t.kept.filter fun i => i != 0 }
  | _, _ => s

end Sys2Proof.Machine
end

