-- ==== Sys2Proof/Machine/Step.lean ====
section
/-! DEFINITION. The step of the device, and the placing of an instruction where it fetches. -/

namespace Sys2Proof.Machine

/-- One step (R165, R166): see `State.advance`. -/
def step (s : State) : Host.Outcome State Fault Refusal := s.advance

/-- The state with an instruction placed where `step` fetches its next one: see `State.place` and log 11. -/
def State.withFetchWord (s : State) (nbits w : Nat) : State := s.place nbits w

end Sys2Proof.Machine
end

