-- ==== Sys2Proof/Safety.lean ====
section
/-! DEFINITION. What counts as a safe run, and the reads of state in which claims are stated. -/

namespace Sys2Proof.Machine

/-- The stacks' bytes and codes are held in canonical form. -/
def State.MemOk (s : State) : Prop := Memory.wf s.mem = true ∧ Memory.wf s.side = true

/-- Nothing is issuing and no device step has operands: the state between two steps. -/
def State.Quiet (s : State) : Prop := s.pod = none ∧ s.arg = .none

/-- The unit that the home slice of a physical address holds, or fetches from the stack (R75, R98). -/
def State.home (s : State) (pa : Nat) : GUnit :=
  match s.l2.find (pa / 128) with
  | some l => l.units.getD (pa / 4 % 32) .zero
  | none => (s.ctlLine (pa / 128)).getD (pa / 4 % 32) .zero

/-- What the L1 that serves a core holds of a physical address (R71, R73): the unit and its dirty bit. -/
def State.l1Unit (s : State) (core pa : Nat) : Option (GUnit × Bool) :=
  ((s.core (s.l1Core core (pa / 128))).l1.find (pa / 128)).bind fun l => l.units.find (pa / 4 % 32)

/-- The unit that a weak load by a core finds at a physical address (R71): its L1's, else its home slice's. -/
def State.peek (s : State) (core pa : Nat) : GUnit :=
  match s.l1Unit core pa with
  | some (u, _) => u
  | none => s.home pa

/-- The unit that a weak load by a thread of a context finds (R71, R110): its L1's, else its home slice's. Of a line that another
context filled only the dirty units are current, since that line goes home first (log 111). -/
def State.sees (s : State) (core ctx pa : Nat) : GUnit :=
  match (s.core (s.l1Core core (pa / 128))).l1.find (pa / 128) with
  | some l =>
    match l.units.find (pa / 4 % 32) with
    | some (u, dirty) => if l.ctx = ctx ∨ dirty = true then u else s.home pa
    | none => s.home pa
  | none => s.home pa

/-- The unit that a strong load by a core finds (R98): its own L1's dirty one, else its home slice's. -/
def State.strongPeek (s : State) (core pa : Nat) : GUnit :=
  match s.l1Unit core pa with
  | some (u, true) => u
  | _ => s.home pa

/-- No byte of memory differs between two states, whichever core reads it. -/
def SameMemory (s t : State) : Prop := ∀ core pa, t.peek core pa = s.peek core pa

/-- No byte of memory differs between two states outside some granules, whichever core reads it. -/
def SameMemoryBut (stored : Nat → Prop) (s t : State) : Prop :=
  ∀ core pa, ¬ stored (pa / 4) → t.peek core pa = s.peek core pa

/-- A run of `n` steps from a state is safe when no step stops and memory stays in canonical form. -/
def SafeRun (n : Nat) (s : State) : Prop :=
  ∀ k, k ≤ n → ∃ t, Host.Core.run Sys2Proof.core k s = .next t ∧ t.MemOk

/-! ### The terms of the statements about instructions -/

/-- A pod of a live wave issues (R165, R166): `p` is the pod, whose threads are ready at its PC, `w` its wave and `k` its
crew, and the wave was not restored from a record with a failed parity (R194). -/
structure Issuing (s : State) (p : Pod) (w : Wave) (k : Crew) : Prop where
  pod : s.pod = some p
  wave : s.wave? p.core p.slot = some w
  crew : s.crew? p.core w.crew = some k
  lanes : p.lanes ≠ []
  nodup : p.lanes.Nodup
  bound : ∀ l ∈ p.lanes, l < 32
  ready : ∀ l ∈ p.lanes, ∃ th, w.threads.find l = some th ∧ th.hold = .ready ∧ th.pc = p.pc
  restored : w.parity.contains parRestored = false

/-- The crew's allocation holds the registers (R191). -/
def Granted (k : Crew) (rs : List Reg) : Prop := ∀ r ∈ rs, k.has r = true

/-- The registers' units pass their check in every active lane (R61). -/
def Sound (w : Wave) (p : Pod) (rs : List Reg) : Prop := ∀ l ∈ p.lanes, ∀ r ∈ rs, (w.get r l).ok = true

/-- The registers with these parity keys have good parity (R60). -/
def Clean (w : Wave) (keys : List Nat) : Prop := ∀ k ∈ keys, w.parity.contains k = false

/-- The parity keys of predicates in the pod's lanes (R60, R190). -/
def predKeys (p : Pod) (ns : List Nat) : List Nat := p.lanes.flatMap fun l => ns.map fun n => parP n l

/-- The control registers with these numbers have good parity (R60). -/
def CleanCr (s : State) (p : Pod) (w : Wave) (k : Crew) (ns : List Nat) : Prop := ∀ n ∈ ns, s.crBad p w k n = false

/-- Nothing else moved memory between two states: no line left a cache to make room, since each such choice draws a free value
(R71, R75), and the metadata lines that the controllers hold are what their tables hold (R82). -/
def Undisturbed (s t : State) : Prop :=
  t.free = s.free ∧ ∀ n, ∀ e ∈ (s.ctl n).mcache, ∀ j, j < 16 → e.2.getD j .zero = s.hbmUnit (64 * e.1 + 4 * j)

/-- Nothing else moved memory, and no line that an L1 holds for a context left it or passed to another (R71, log 111). -/
def Steady (s t : State) : Prop :=
  Undisturbed s t ∧ ∀ c line l, (s.core c).l1.find line = some l → ∃ l', (t.core c).l1.find line = some l' ∧ l'.ctx = l.ctx

/-- What an instruction that only writes registers of its wave leaves (R166, R193, R218): `regs` and `preds` name the
registers and predicates it writes, and `next` the PC of each active lane. -/
structure Effect (s t : State) (p : Pod) (w w' : Wave) (k : Crew) (regs : Reg → Prop) (preds : Nat → Prop)
    (next : Nat → VAddr) : Prop where
  wave : t.wave? p.core p.slot = some w'
  regs : ∀ r l, l < 32 → ¬(regs r ∧ (l ∈ p.lanes ∨ r.uniform = true)) → w'.get r l = w.get r l
  preds : ∀ n l, ¬(preds n ∧ l ∈ p.lanes) → w'.pred n l = w.pred n l
  masks : w'.q = w.q ∧ w'.arrive = w.arrive ∧ w'.entered = w.entered ∧ w'.lls = w.lls ∧ w'.mma = w.mma ∧ w'.crew = w.crew
  system : [w'.idempc, w'.chkinfo, w'.chkaddr, w'.trapcause, w'.trappc, w'.trapaddr, w'.ehbase] =
    [w.idempc, w.chkinfo, w.chkaddr, w.trapcause, w.trappc, w.trapaddr, w.ehbase]
  window : w'.nprem = w.nprem - 1
  threads : ∀ l th, w.threads.find l = some th → ∃ n,
    w'.threads.find l = some { th with pc := if l ∈ p.lanes then next l else th.pc, last := n }
  waves : ∀ i, i ≠ p.slot → t.wave? p.core i = s.wave? p.core i
  crew : t.crew? p.core w.crew = some { k with issued := (k.issued + 1) % 2 ^ 48 }
  crews : ∀ i, i ≠ w.crew → t.crew? p.core i = s.crew? p.core i
  core : { t.core p.core with waves := [], crews := [], origin := [] } =
    { s.core p.core with waves := [], crews := [], origin := [] }
  cores : ∀ c, c ≠ p.core → t.core c = s.core c
  rest : { t with cores := s.cores, stamp := s.stamp } = s
  memory : SameMemory s t

/-- A form that writes one register in every active lane and nothing else; a uniform register takes the lowest active
lane's result (R193), and every thread goes on after the instruction (R206). -/
def WritesReg (s : State) (p : Pod) (w : Wave) (k : Crew) (i : Instr) (d : Reg) (f : Nat → GUnit) : Prop :=
  ∃ t w', exec i s = .next t ∧ Effect s t p w w' k (fun r => r = d) (fun _ => False) (fun _ => p.after) ∧
    ∀ l ∈ p.lanes, w'.get d l = f (if d.uniform = true then p.low else l)

/-- A form that writes one register with coded 32-bit results (R55, R219). -/
def WritesWord (s : State) (p : Pod) (w : Wave) (k : Crew) (i : Instr) (d : Reg) (f : Nat → Word) : Prop :=
  WritesReg s p w k i d fun l => coded (f l)

/-- A form that writes a 64-bit result to a pair, low word first (R210). -/
def WritesPair (s : State) (p : Pod) (w : Wave) (k : Crew) (i : Instr) (d : Reg) (f : Nat → BitVec 64) : Prop :=
  ∃ t w', exec i s = .next t ∧
    Effect s t p w w' k (fun r => r = d ∨ r = d.plus 1) (fun _ => False) (fun _ => p.after) ∧
    ∀ l ∈ p.lanes, w'.get d l = coded ((f (if d.uniform = true then p.low else l)).setWidth 32) ∧
      w'.get (d.plus 1) l = coded ((f (if d.uniform = true then p.low else l) >>> 32).setWidth 32)

/-- A form that writes one predicate in every active lane and nothing else (R229 to R231). -/
def WritesPred (s : State) (p : Pod) (w : Wave) (k : Crew) (i : Instr) (d : BitVec 3) (f : Nat → Bool) : Prop :=
  ∃ t w', exec i s = .next t ∧ Effect s t p w w' k (fun _ => False) (fun n => n = d.toNat) (fun _ => p.after) ∧
    ∀ l ∈ p.lanes, w'.pred d.toNat l = f l

/-- A form that only moves the PCs. -/
def Jumps (s : State) (p : Pod) (w : Wave) (k : Crew) (i : Instr) (next : Nat → VAddr) : Prop :=
  ∃ t w', exec i s = .next t ∧ Effect s t p w w' k (fun _ => False) (fun _ => False) next

/-- What a program sees of a thread besides its hold: PC, return stack, id, rank. -/
def Thread.seen (t : Thread) : VAddr × List (BitVec 64) × Nat × Nat × Bool × Nat × Nat :=
  (t.pc, t.stack, t.depth, t.entDepth, t.drop, t.id, t.rank)

/-- What a memory or synchronisation instruction leaves in the registers of its core: `regs` are the registers it writes,
and `move` what becomes of each thread of the pod. Threads that wait may become ready (R126, R183, R262). -/
structure Kept (s t : State) (p : Pod) (w w' : Wave) (k : Crew) (regs : Reg → Prop) (move : Nat → Thread → Thread) :
    Prop where
  wave : t.wave? p.core p.slot = some w'
  regs : ∀ r l, l < 32 → ¬(regs r ∧ (l ∈ p.lanes ∨ r.uniform = true)) → w'.get r l = w.get r l
  preds : ∀ n l, w'.pred n l = w.pred n l
  masks : w'.q = w.q ∧ w'.arrive = w.arrive ∧ w'.entered = w.entered ∧ w'.mma = w.mma ∧ w'.crew = w.crew
  system : [w'.chkinfo, w'.chkaddr, w'.trapcause, w'.trappc, w'.trapaddr, w'.ehbase] =
    [w.chkinfo, w.chkaddr, w.trapcause, w.trappc, w.trapaddr, w.ehbase]
  threads : ∀ l th, w.threads.find l = some th → ∃ th', w'.threads.find l = some th' ∧
    th'.seen = (if l ∈ p.lanes then move l th else th).seen
  waves : ∀ i v, i ≠ p.slot → s.wave? p.core i = some v → ∃ ths, t.wave? p.core i = some { v with threads := ths }
  crew : ∃ k', t.crew? p.core w.crew = some k' ∧ k'.issued = (k.issued + 1) % 2 ^ 48 ∧
    { k'.body with touched := k.body.touched } = k.body ∧ (k'.ctx, k'.node, k'.cidx, k'.decl, k'.barto, k'.wp) =
      (k.ctx, k.node, k.cidx, k.decl, k.barto, k.wp)
  crews : ∀ i, i ≠ w.crew → t.crew? p.core i = s.crew? p.core i
  cores : ∀ c, c ≠ p.core → (t.core c).waves = (s.core c).waves ∧ (t.core c).crews = (s.core c).crews
  misscap : (t.core p.core).misscap = (s.core p.core).misscap
  ctxs : t.ctxs = s.ctxs

/-- Every thread of the pod goes on after the instruction (R206). -/
def Pod.on (p : Pod) (_ : Nat) (th : Thread) : Thread := { th with pc := p.after }

/-- The units in HBM are the same in two states. -/
def SameStacks (s t : State) : Prop := t.mem = s.mem ∧ t.side = s.side

/-- A granule's block lies plainly in the stacks, under metadata that is good (R81, R85). -/
def State.Plain (s : State) (pa : Nat) : Prop := s.coded? (pa / 2048) = false ∧ s.metaGood (pa / 2048) = true

/-- The home slice holds nothing of a line that the stacks do not hold (R75). -/
def State.Clean (s : State) (line : Nat) : Prop := ∀ l, s.l2.find line = some l → l.dirty = 0

/-- A wave with the matrix engine off its multiply-accumulate (R285). -/
def Wave.rested (w : Wave) : Wave := { w with mma := w.mma.map fun m => { m with runs := false } }

/-- Every wave is as it was, but that the matrix engine may have left one (R285). -/
def SameWaves (s t : State) : Prop := ∀ c j, (t.wave? c j).map Wave.rested = (s.wave? c j).map Wave.rested

/-- The granules of HBM that some translated places name. -/
def placed (l : List Slotted) (gran : Nat) : Prop :=
  ∃ x ∈ l, ∃ pa bind ms cz, x.at_ = .mem pa bind ms cz ∧ pa < hbmSize ∧ pa / 4 = gran

/-- The scratchpad granules that some translated places name. -/
def spadPlaced (l : List Slotted) (gran : Nat) : Prop := ∃ x ∈ l, ∃ off, x.at_ = .spad off ∧ off / 4 = gran

/-! ### Rounding -/

/-- The rational that a decoded number stands for (R149): (−1)^s × m × 2^e. -/
def Dec.val (d : Dec) : ℚ := (if d.s then -1 else 1) * d.m * 2 ^ d.e

/-- A decoded number is finite: neither an infinity nor a NaN. -/
def Dec.finite (d : Dec) : Prop := d.cls = .zero ∨ d.cls = .finite

/-- A code of a format that stands for a finite number. -/
def Flt.finite (F : Flt) (x : Nat) : Prop := x < 2 ^ F.width ∧ (F.decode x).finite

/-- `r` is the code of a format to which an exact nonzero value rounds (R144, R145, R148). The value is given by the rationals that
are at most it (`le`) and at least it (`ge`), so that a square root can be one. Beyond the largest number a format without
infinities gives that number. -/
def Flt.Rounds (F : Flt) (rm : Nat) (le ge : ℚ → Prop) (r : Nat) : Prop :=
  let V := fun z => (F.decode z).val
  let below := F.finite r ∧ le (V r) ∧ ∀ z, F.finite z → le (V z) → V z ≤ V r
  let above := F.finite r ∧ ge (V r) ∧ ∀ z, F.finite z → ge (V z) → V r ≤ V z
  let top := if F.inf = true then F.infmag else F.maxmag
  let edge : ℚ := (2 - 2 ^ (-1 - (F.frac : ℤ))) * 2 ^ (F.bias : ℤ)
  (bitAt r (F.width - 1) = true ↔ ge 0) ∧
  (rm = 0 → (F.inf = true → le edge → r = top) ∧ (F.inf = true → ge (-edge) → r = F.sign true top) ∧
    ((F.inf = true → ¬le edge ∧ ¬ge (-edge)) → F.finite r ∧ ∀ z, F.finite z →
      (V z < V r → le ((V z + V r) / 2)) ∧ (V r < V z → ge ((V z + V r) / 2)) ∧
      (V z ≠ V r → le ((V z + V r) / 2) → ge ((V z + V r) / 2) → r % 2 = 0))) ∧
  (rm = 1 → (le 0 → below) ∧ (ge 0 → above)) ∧
  (rm = 2 → ((∃ z, F.finite z ∧ le (V z)) → below) ∧ ((∀ z, F.finite z → ¬le (V z)) → r = F.sign true top)) ∧
  (rm = 3 → ((∃ z, F.finite z ∧ ge (V z)) → above) ∧ ((∀ z, F.finite z → ¬ge (V z)) → r = top))

/-- The sum of two decoded numbers in a format (R145, R146, R225): rounded once, its special cases as IEEE 754 has them. -/
def Flt.Adds (F : Flt) (rm : Nat) (a b : Dec) (r : Nat) : Prop :=
  (a.cls = .nan ∨ b.cls = .nan ∨ (a.cls = .inf ∧ b.cls = .inf ∧ a.s ≠ b.s) → r = F.nan) ∧
  (a.cls = .inf → b.finite ∨ (b.cls = .inf ∧ a.s = b.s) → r = F.sign a.s F.infmag) ∧
  (b.cls = .inf → a.finite → r = F.sign b.s F.infmag) ∧
  (a.finite → b.finite →
    (a.val + b.val = 0 → r = F.sign (if a.s = b.s then a.s else decide (rm = 2)) 0) ∧
    (a.val + b.val ≠ 0 → F.Rounds rm (· ≤ a.val + b.val) (a.val + b.val ≤ ·) r))

/-- The product of two decoded numbers in a format (R145, R146, R225). -/
def Flt.Multiplies (F : Flt) (rm : Nat) (a b : Dec) (r : Nat) : Prop :=
  (a.cls = .nan ∨ b.cls = .nan ∨ (a.cls = .inf ∧ b.cls = .zero) ∨ (a.cls = .zero ∧ b.cls = .inf) → r = F.nan) ∧
  ((a.cls = .inf ∧ (b.cls = .inf ∨ b.cls = .finite)) ∨ (b.cls = .inf ∧ a.cls = .finite) → r = F.sign (a.s != b.s) F.infmag) ∧
  (a.finite → b.finite →
    (a.val * b.val = 0 → r = F.sign (a.s != b.s) 0) ∧
    (a.val * b.val ≠ 0 → F.Rounds rm (· ≤ a.val * b.val) (a.val * b.val ≤ ·) r))

/-- The quotient of two decoded numbers in a format (R145, R146, R225). -/
def Flt.Divides (F : Flt) (rm : Nat) (a b : Dec) (r : Nat) : Prop :=
  (a.cls = .nan ∨ b.cls = .nan ∨ (a.cls = .inf ∧ b.cls = .inf) ∨ (a.cls = .zero ∧ b.cls = .zero) → r = F.nan) ∧
  ((a.cls = .inf ∧ b.finite) ∨ (a.cls = .finite ∧ b.cls = .zero) → r = F.sign (a.s != b.s) F.infmag) ∧
  ((a.finite ∧ b.cls = .inf) ∨ (a.cls = .zero ∧ b.cls = .finite) → r = F.sign (a.s != b.s) 0) ∧
  (a.cls = .finite → b.cls = .finite → F.Rounds rm (· ≤ a.val / b.val) (a.val / b.val ≤ ·) r)

/-- The integer to which a rational rounds under a mode (R150). -/
def RoundsInt (rm : Nat) (v : ℚ) (n : ℤ) : Prop :=
  (rm = 0 → |v - n| ≤ 1 / 2 ∧ (|v - n| = 1 / 2 → n % 2 = 0)) ∧
  (rm = 1 → (0 ≤ v → n = ⌊v⌋) ∧ (v ≤ 0 → n = ⌈v⌉)) ∧ (rm = 2 → n = ⌊v⌋) ∧ (rm = 3 → n = ⌈v⌉)

/-- `r` is the ln6 code of a finite nonzero value under a mode (R151): |x|⁸ and |x|⁴ are compared with powers of two. -/
def LnRounds (rm : Nat) (v : ℚ) (r : Nat) : Prop :=
  let a := |v|
  let down := rm = 1 ∨ (rm = 2 ∧ 0 < v) ∨ (rm = 3 ∧ v < 0)
  let up := (rm = 3 ∧ 0 < v) ∨ (rm = 2 ∧ v < 0)
  ∃ M, M ≤ 31 ∧ r = (if M = 0 then 0 else if v < 0 then 32 + M else M) ∧
    (rm = 0 → ∀ n : ℤ, 2 ^ (2 * n - 33) ≤ a ^ 8 → a ^ 8 < 2 ^ (2 * n - 31) → (M : ℤ) = max 0 (min n 31)) ∧
    (down → (a ^ 4 < 2 ^ (-15 : ℤ) → M = 0) ∧
      ((2 : ℚ) ^ (-15 : ℤ) ≤ a ^ 4 → (2 : ℚ) ^ ((M : ℤ) - 16) ≤ a ^ 4 ∧ (M = 31 ∨ a ^ 4 < 2 ^ ((M : ℤ) - 15)))) ∧
    (up → 1 ≤ M ∧ (M = 31 ∨ a ^ 4 ≤ 2 ^ ((M : ℤ) - 16)) ∧ (M = 1 ∨ (2 : ℚ) ^ ((M : ℤ) - 17) < a ^ 4))

/-- `r` is what a decoded value becomes in a format (R150). -/
def Fmt.Converts (G : Fmt) (rm : Nat) (d : Dec) (r : Nat) : Prop :=
  (∀ F, G.flt? = some F →
    (d.cls = .nan → r = F.nan) ∧ (d.cls = .inf → r = F.sign d.s (if F.inf = true then F.infmag else F.maxmag)) ∧
    (d.cls = .zero → r = F.sign d.s 0) ∧ (d.cls = .finite → F.Rounds rm (· ≤ d.val) (d.val ≤ ·) r)) ∧
  (G = .ln6 → (d.cls = .nan ∨ d.cls = .zero → r = 0) ∧ (d.cls = .inf → r = if d.s then 63 else 31) ∧
    (d.cls = .finite → LnRounds rm d.val r)) ∧
  (G = .i32 ∨ G = .n32 ∨ G = .i8 ∨ G = .n8 →
    let w := G.width
    let lo : ℤ := if G = .i32 ∨ G = .i8 then -2 ^ (w - 1) else 0
    let hi : ℤ := if G = .i32 ∨ G = .i8 then 2 ^ (w - 1) - 1 else 2 ^ w - 1
    let code := fun (n : ℤ) => (n % 2 ^ w).toNat
    (d.cls = .nan ∨ d.cls = .zero → r = 0) ∧ (d.cls = .inf → r = code (if d.s then lo else hi)) ∧
    (d.cls = .finite → ∃ n, RoundsInt rm d.val n ∧ r = code (max lo (min n hi))))

/-! ### Grids -/

/-- Element n of width w of an image, the lowest bits first (R140, R268). -/
def codeAt (img : List GUnit) (w n : Nat) : Nat :=
  (span 0 w).foldr (fun b x => (if (img.getD ((w * n + b) / 32) .zero).data.getLsbD ((w * n + b) % 32) then 1 else 0) + 2 * x) 0

/-- A row of a grid. -/
def Grid.row (G : Grid) (i : Nat) : List Elem := G.rows.getD i []

/-- A column of a grid. -/
def Grid.col (G : Grid) (j : Nat) : List Elem := G.rows.map fun r => r.getD j (0, 0)

/-- Element (i, j) of a grid. -/
def Grid.el (G : Grid) (i j : Nat) : Elem := (G.row i).getD j (0, 0)

/-! ### Layout records -/

/-- The index tuples of a record's elements (R297). -/
def LRec.Index (r : LRec) (ix : List Nat) : Prop :=
  ix.length = r.ndim ∧ ∀ (k : Nat) i, ix[k]? = some i → i < r.sizes.getD k 0

/-- The bit address of the element with an index tuple (R297). -/
def LRec.addr (r : LRec) (ix : List Nat) : ℤ :=
  8 * r.base + r.boff + r.width * (ix.zip r.strides).foldl (fun (x : ℤ) (y : ℕ × ℤ) => x + y.1 * y.2) 0

/-- The span of a record covers a line (R123). -/
def LRec.Covers (r : LRec) (line : Nat) : Prop :=
  ∃ a b, r.Index a ∧ r.Index b ∧ r.addr a / 1024 ≤ line ∧ line ≤ (r.addr b + r.width - 1) / 1024

/-- A record with a size and a stride for each dimension and no element below address 0. -/
def LRec.Placed (r : LRec) : Prop :=
  r.sizes.length = r.ndim ∧ r.strides.length = r.ndim ∧ ∀ ix, r.Index ix → 0 ≤ r.addr ix

/-- The 32 words of a valid record (R295, R296). -/
def LRec.Reads (r : LRec) (ws : List Word) : Prop :=
  let x := fun i => (ws.getD i 0).toNat
  (r.base = x 0 + 2 ^ 32 * x 1 ∧ r.base < 2 ^ 58) ∧ (r.ndim = x 2 % 256 ∧ 1 ≤ r.ndim ∧ r.ndim ≤ 9) ∧
  (r.fmt = x 2 / 2 ^ 8 % 256 ∧ r.fmt ≤ 9) ∧ (x 2 / 2 ^ 16 % 256 = if r.crcv = true then 1 else 0) ∧
  (r.boff = x 2 / 2 ^ 24 ∧ r.boff ≤ if r.fmt = 5 then 7 else 0) ∧
  (r.ecrc = ws.getD 3 0 ∧ (r.crcv = false → r.ecrc = 0)) ∧
  (∀ k, k < 9 → x (4 + k) = r.sizes.getD k 0 ∧ (ws.getD (13 + k) 0).toInt = r.strides.getD k 0) ∧
  (∀ i, 22 ≤ i → i < 32 → x i = 0) ∧ r.sizes.foldl (· * ·) 1 ≤ 4294967295 ∧ r.Placed ∧
  ∀ ix, r.Index ix → r.addr ix < 8 * 2 ^ 58

/-- A granule-whole record (R298). -/
def LRec.Whole (r : LRec) : Prop :=
  r.base % 4 = 0 ∧ r.boff = 0 ∧ r.strides.getD 0 0 = 1 ∧ r.sizes.getD 0 0 * r.width % 32 = 0 ∧
  ∀ k, 1 ≤ k → k < r.ndim → r.strides.getD k 0 * r.width % 32 = 0

/-- A record whose elements lie in the scratchpad region (R27). -/
def LRec.InSpad (r : LRec) : Prop :=
  ∀ ix, r.Index ix → 8 * (6 * 2 ^ 55) ≤ r.addr ix ∧ r.addr ix + r.width ≤ 8 * (7 * 2 ^ 55)

/-- The requirements of a form on its valid records (R301, R303). -/
def XForm.Takes (f : XForm) (src dst : LRec) : Prop :=
  dst.Whole ∧ src.count = dst.count ∧
  match f with
  | .copy => src.Whole ∧ src.width = dst.width
  | .repack => src.width = dst.width
  | .tr => 2 ≤ src.ndim ∧ src.width = dst.width ∧ (src.width = 32 → src.Whole)
  | .cvt => True
  | .exp => src.ndim = 1 ∧ src.width = 32 ∧ src.strides.getD 0 0 = 1 ∧ src.base % 2048 = 0 ∧ src.sizes.getD 0 0 % 512 = 0 ∧
      src.base < 2 ^ 57 ∧ (∀ ix, src.Index ix → src.addr ix + 32 ≤ 8 * 2 ^ 57) ∧ dst.width = 32 ∧ dst.InSpad
  | .mcast => src.Whole ∧ src.width = dst.width ∧ dst.InSpad

/-- A matrix instruction that replaces one matrix register of its crew and nothing else (R266, R268, R273). -/
def WritesTile (s : State) (p : Pod) (w : Wave) (k : Crew) (i : Instr) (d : Nat) (t : TDesc) (us : List GUnit) : Prop :=
  ∃ s' w', exec i s = .next s' ∧ Effect s s' p w w'
    { k with body := { k.body with mregs := k.body.mregs.set d ⟨t.toBits, padImage t us⟩ } }
    (fun _ => False) (fun _ => False) (fun _ => p.after)

/-- A pod may issue a matrix instruction (R173, R272, R273): it is q0's member set, the engine runs no other wave's
multiply-accumulate, and q0, the named control registers and the descriptors of the named matrix registers have good parity
(R60). -/
structure AtArray (s : State) (p : Pod) (w : Wave) (k : Crew) (crs ms : List Nat) : Prop where
  governs : laneSet p.lanes = (w.mask 0).member
  free : s.matBusy p w.crew = false
  mask : Clean w [parQ 0]
  clean : CleanCr s p w k (crs ++ ms.map fun n => 0x100 + n)

end Sys2Proof.Machine
end

