-- ==== Sys2Proof/Certificates/Slice0/Obligations.lean ====
section
/-! DEFINITION. The statements for the provers. Those about an instruction hold for every state in which a pod issues
(`Issuing`), with its registers allocated (`Granted`), its sources sound (`Sound`) and the parity of what it reads good
(`Clean`); what happens where these fail is stated by `ChecksBeforeEffects`. -/

open Sys2Proof Sys2Proof.Machine

/-! ### Lane arithmetic -/

/-- R222 with R152: every form of major 0x01 completes and writes the value of its row in every active lane, with the frame
of `Effect`. -/
def Obligations.IntegerArithmetic : Prop :=
  ∀ (s : State) (p : Pod) (w : Wave) (k : Crew) (b a d : BitVec 7), Issuing s p w k →
    Granted k [.of7 d, .of7 a, .of7 b] → Sound w p [.of7 a, .of7 b] →
    let A := w.word (.of7 a)
    let B := w.word (.of7 b)
    let writes := fun i f => WritesWord s p w k i (.of7 d) f
    writes (.iaddN32 b a d) (fun l => BitVec.ofNat 32 ((A l).toNat + (B l).toNat)) ∧
    writes (.isubN32 b a d) (fun l => BitVec.ofInt 32 ((A l).toNat - (B l).toNat)) ∧
    writes (.imulN32 b a d) (fun l => BitVec.ofNat 32 ((A l).toNat * (B l).toNat)) ∧
    writes (.imulhiI32 b a d) (fun l => BitVec.ofInt 32 ((A l).toInt * (B l).toInt / 2 ^ 32)) ∧
    writes (.imulhiN32 b a d) (fun l => BitVec.ofNat 32 ((A l).toNat * (B l).toNat / 2 ^ 32)) ∧
    writes (.iminI32 b a d) (fun l => BitVec.ofInt 32 (min (A l).toInt (B l).toInt)) ∧
    writes (.iminN32 b a d) (fun l => BitVec.ofNat 32 (min (A l).toNat (B l).toNat)) ∧
    writes (.imaxI32 b a d) (fun l => BitVec.ofInt 32 (max (A l).toInt (B l).toInt)) ∧
    writes (.imaxN32 b a d) (fun l => BitVec.ofNat 32 (max (A l).toNat (B l).toNat)) ∧
    writes (.iabsI32 a d) (fun l => BitVec.ofNat 32 (A l).toInt.natAbs) ∧
    writes (.idivI32 b a d) (fun l => if B l = 0 then 0xFFFFFFFF else BitVec.ofInt 32 ((A l).toInt.tdiv (B l).toInt)) ∧
    writes (.idivN32 b a d) (fun l => if B l = 0 then 0xFFFFFFFF else BitVec.ofNat 32 ((A l).toNat / (B l).toNat)) ∧
    writes (.iremI32 b a d) (fun l => if B l = 0 then A l else BitVec.ofInt 32 ((A l).toInt.tmod (B l).toInt)) ∧
    writes (.iremN32 b a d) (fun l => if B l = 0 then A l else BitVec.ofNat 32 ((A l).toNat % (B l).toNat)) ∧
    writes (.iaddsatI32 b a d) (fun l => BitVec.ofInt 32 (max (-2 ^ 31) (min ((A l).toInt + (B l).toInt) (2 ^ 31 - 1)))) ∧
    writes (.isubsatI32 b a d) (fun l => BitVec.ofInt 32 (max (-2 ^ 31) (min ((A l).toInt - (B l).toInt) (2 ^ 31 - 1))))

/-- R223: every form of major 0x02 completes and writes the value of its row. -/
def Obligations.BitOperations : Prop :=
  ∀ (s : State) (p : Pod) (w : Wave) (k : Crew) (b a d : BitVec 7), Issuing s p w k →
    Granted k [.of7 d, .of7 a, .of7 b] → Sound w p [.of7 a, .of7 b] →
    let A := w.word (.of7 a)
    let B := w.word (.of7 b)
    let n := fun l => (B l).toNat
    let writes := fun i f => WritesWord s p w k i (.of7 d) f
    writes (.andB32 b a d) (fun l => A l &&& B l) ∧
    writes (.orB32 b a d) (fun l => A l ||| B l) ∧
    writes (.xorB32 b a d) (fun l => A l ^^^ B l) ∧
    writes (.andnB32 b a d) (fun l => A l &&& ~~~ B l) ∧
    writes (.shlB32 b a d) (fun l => if n l ≥ 32 then 0 else BitVec.ofNat 32 ((A l).toNat * 2 ^ n l)) ∧
    writes (.shrN32 b a d) (fun l => if n l ≥ 32 then 0 else BitVec.ofNat 32 ((A l).toNat / 2 ^ n l)) ∧
    writes (.shrI32 b a d) (fun l => BitVec.ofInt 32 ((A l).toInt / 2 ^ min (n l) 32)) ∧
    writes (.rotlB32 b a d) (fun l =>
      BitVec.ofNat 32 ((A l).toNat * 2 ^ (n l % 32) + (A l).toNat / 2 ^ (32 - n l % 32))) ∧
    writes (.popcB32 a d) (fun l => BitVec.ofNat 32 ((List.range 32).countP fun i => (A l).getLsbD i)) ∧
    writes (.clzB32 a d) (fun l => BitVec.ofNat 32 ((List.range 33).countP fun i => decide (1 ≤ i) && decide ((A l).toNat < 2 ^ (32 - i)))) ∧
    writes (.brevB32 a d) (fun l => (A l).reverse) ∧
    writes (.notB32 a d) (fun l => ~~~ A l)

/-- R224: every form of majors 0x03 to 0x07 completes and writes the value of its row. -/
def Obligations.Immediates : Prop :=
  ∀ (s : State) (p : Pod) (w : Wave) (k : Crew) (im : BitVec 11) (n : BitVec 5) (a d : BitVec 7), Issuing s p w k →
    Granted k [.of7 d, .of7 a] → Sound w p [.of7 a] →
    let A := w.word (.of7 a)
    let writes := fun i f => WritesWord s p w k i (.of7 d) f
    writes (.iaddiN32 im a d) (fun l => BitVec.ofInt 32 ((A l).toNat + im.toInt)) ∧
    writes (.andiB32 im a d) (fun l => A l &&& BitVec.ofNat 32 im.toNat) ∧
    writes (.oriB32 im a d) (fun l => A l ||| BitVec.ofNat 32 im.toNat) ∧
    writes (.xoriB32 im a d) (fun l => A l ^^^ BitVec.ofNat 32 im.toNat) ∧
    writes (.shliB32 n a d) (fun l => BitVec.ofNat 32 ((A l).toNat * 2 ^ n.toNat)) ∧
    writes (.shriN32 n a d) (fun l => BitVec.ofNat 32 ((A l).toNat / 2 ^ n.toNat)) ∧
    writes (.shriI32 n a d) (fun l => BitVec.ofInt 32 ((A l).toInt / 2 ^ n.toNat)) ∧
    writes (.rotiB32 n a d) (fun l => BitVec.ofNat 32 ((A l).toNat * 2 ^ n.toNat + (A l).toNat / 2 ^ (32 - n.toNat)))

/-- R208: every 16-bit form does what its 32-bit form does with D and A the 6-bit D field, B the 5-bit field and RM .rn. -/
def Obligations.ShortForms : Prop :=
  ∀ (s : State) (p : Pod) (w : Wave) (k : Crew) (b : BitVec 5) (d : BitVec 6), Issuing s p w k →
    Granted k [.ofV d, .ofV b] → Sound w p [.ofV d, .ofV b] →
    let A := w.word (.ofV d)
    let B := w.word (.ofV b)
    let n := fun l => (B l).toNat
    let writes := fun i f => WritesWord s p w k i (.ofV d) f
    writes (.movB32H b d) B ∧
    writes (.iaddN32H b d) (fun l => BitVec.ofNat 32 ((A l).toNat + (B l).toNat)) ∧
    writes (.isubN32H b d) (fun l => BitVec.ofInt 32 ((A l).toNat - (B l).toNat)) ∧
    writes (.imulN32H b d) (fun l => BitVec.ofNat 32 ((A l).toNat * (B l).toNat)) ∧
    writes (.andB32H b d) (fun l => A l &&& B l) ∧
    writes (.orB32H b d) (fun l => A l ||| B l) ∧
    writes (.xorB32H b d) (fun l => A l ^^^ B l) ∧
    writes (.shlB32H b d) (fun l => if n l ≥ 32 then 0 else BitVec.ofNat 32 ((A l).toNat * 2 ^ n l)) ∧
    writes (.shrN32H b d) (fun l => if n l ≥ 32 then 0 else BitVec.ofNat 32 ((A l).toNat / 2 ^ n l)) ∧
    writes (.shrI32H b d) (fun l => BitVec.ofInt 32 ((A l).toInt / 2 ^ min (n l) 32)) ∧
    writes (.faddF32H b d) (fun l => fadd32 0 (A l) (B l)) ∧
    writes (.fsubF32H b d) (fun l => fsub32 0 (A l) (B l)) ∧
    writes (.fmulF32H b d) (fun l => fmul32 0 (A l) (B l)) ∧
    writes (.fminF32H b d) (fun l => fminmax32 false (A l) (B l)) ∧
    writes (.fmaxF32H b d) (fun l => fminmax32 true (A l) (B l)) ∧
    writes (.iminI32H b d) (fun l => BitVec.ofInt 32 (min (A l).toInt (B l).toInt))

/-- R225 to R228: every form of majors 0x08 to 0x0A and 0x10 to 0x14 completes and writes, in every active lane, the named
function of its operands under its mode. The special cases of R225, R226, R228 and R146, for every mode: NaN operands,
opposed infinities, 0 × ∞, division by zero, square roots of negative numbers, minima and maxima with a NaN and with two
zeros. -/
def Obligations.FloatArithmetic : Prop :=
  (∀ (s : State) (p : Pod) (w : Wave) (k : Crew) (r : BitVec 2) (b a d : BitVec 7) (vb : BitVec 6) (vc : BitVec 5),
    Issuing s p w k →
    Granted k [.of7 d, .of7 a, .of7 b, .ofV vb, .ofV vc] → Sound w p [.of7 a, .of7 b, .ofV vb, .ofV vc] →
    let A := w.word (.of7 a)
    let B := w.word (.of7 b)
    let rm := r.toNat
    let writes := fun i f => WritesWord s p w k i (.of7 d) f
    writes (.faddF32 r b a d) (fun l => fadd32 rm (A l) (B l)) ∧
    writes (.fsubF32 r b a d) (fun l => fsub32 rm (A l) (B l)) ∧
    writes (.fmulF32 r b a d) (fun l => fmul32 rm (A l) (B l)) ∧
    writes (.fdivF32 r b a d) (fun l => fdiv32 rm (A l) (B l)) ∧
    writes (.fminF32 b a d) (fun l => fminmax32 false (A l) (B l)) ∧
    writes (.fmaxF32 b a d) (fun l => fminmax32 true (A l) (B l)) ∧
    writes (.fsqrtF32 r a d) (fun l => fsqrt32 rm (A l)) ∧
    writes (.fnegF32 a d) (fun l => BitVec.ofBool (!(A l).msb) ++ (A l).setWidth 31) ∧
    writes (.fabsF32 a d) (fun l => BitVec.ofBool false ++ (A l).setWidth 31) ∧
    writes (.fcsgnF32 b a d) (fun l => BitVec.ofBool (B l).msb ++ (A l).setWidth 31) ∧
    writes (.fadd2F16 r b a d) (fun l => pair16 flt16 false rm (A l) (B l)) ∧
    writes (.fmul2F16 r b a d) (fun l => pair16 flt16 true rm (A l) (B l)) ∧
    writes (.fadd2Bf16 r b a d) (fun l => pair16 fltB16 false rm (A l) (B l)) ∧
    writes (.fmul2Bf16 r b a d) (fun l => pair16 fltB16 true rm (A l) (B l)) ∧
    writes (.ffmaF32 vc vb a d r) (fun l => ffma32 rm (A l) (w.word (.ofV vb) l) (w.word (.ofV vc) l)) ∧
    writes (.imadN32 vc vb a d) (fun l =>
      BitVec.ofNat 32 ((A l).toNat * (w.word (.ofV vb) l).toNat + (w.word (.ofV vc) l).toNat))) ∧
  ∀ (r : BitVec 2) (x y : Word),
    let rm := r.toNat
    let nan : Word := 0x7FC00000
    (isNan32 x = true → fadd32 rm x y = nan ∧ fadd32 rm y x = nan ∧ fsub32 rm x y = nan ∧ fsub32 rm y x = nan ∧
      fmul32 rm x y = nan ∧ fmul32 rm y x = nan ∧ fdiv32 rm x y = nan ∧ fdiv32 rm y x = nan ∧ fsqrt32 rm x = nan ∧
      ffma32 rm x y y = nan ∧ ffma32 rm y x y = nan ∧ ffma32 rm y y x = nan) ∧
    (isNan32 x = true → isNan32 y = false → fminmax32 false x y = y ∧ fminmax32 true x y = y ∧
      fminmax32 false y x = y ∧ fminmax32 true y x = y) ∧
    (isNan32 x = true → isNan32 y = true → fminmax32 false x y = nan ∧ fminmax32 true x y = nan) ∧
    fadd32 rm 0x7F800000 0xFF800000 = nan ∧ fsub32 rm 0x7F800000 0x7F800000 = nan ∧ fmul32 rm 0 0x7F800000 = nan ∧
    fdiv32 rm 0 0 = nan ∧ fdiv32 rm 0x7F800000 0xFF800000 = nan ∧ fdiv32 rm 0x3F800000 0x80000000 = 0xFF800000 ∧
    fdiv32 rm 0xBF800000 0x7F800000 = 0x80000000 ∧ fsqrt32 rm 0xBF800000 = nan ∧ fsqrt32 rm 0x80000000 = 0x80000000 ∧
    fsqrt32 rm 0x7F800000 = 0x7F800000 ∧ fminmax32 false 0 0x80000000 = 0x80000000 ∧ fminmax32 true 0x80000000 0 = 0 ∧
    (isNan32 x = false → ffma32 rm 0 0x7F800000 x = nan)

/-- R144, R145, R146, R148 and R225 to R228: the 32-bit sums, products, quotients, fused sums and square roots, and each element of
the paired 16-bit forms, are the exact result rounded once under the mode, with the special cases of IEEE 754 and the default NaN.
R150 and R151: a conversion decodes its source and gives its target format's code of that value. R153 and R155: a product is exact, and
a group of products is added to an accumulator element with 40 bits below the largest product and one rounding to nearest, which
saturates where an operand is narrow. -/
def Obligations.FloatRounding : Prop :=
  (∀ (r : BitVec 2) (x y z : Word),
    let rm := r.toNat
    let D := fun (w : Word) => flt32.decode w.toNat
    flt32.Adds rm (D x) (D y) (fadd32 rm x y).toNat ∧ flt32.Adds rm (D x) (D y).neg (fsub32 rm x y).toNat ∧
    flt32.Multiplies rm (D x) (D y) (fmul32 rm x y).toNat ∧ flt32.Divides rm (D x) (D y) (fdiv32 rm x y).toNat ∧
    flt32.Adds rm ((D x).mul (D y) 0) (D z) (ffma32 rm x y z).toNat ∧
    ((D x).cls = .finite → (D x).s = false → flt32.Rounds rm (fun q => q < 0 ∨ q * q ≤ (D x).val)
      (fun q => 0 ≤ q ∧ (D x).val ≤ q * q) (fsqrt32 rm x).toNat) ∧
    ∀ F : Flt, F = flt16 ∨ F = fltB16 → ∀ i, i < 2 →
      let half := fun (w : Word) => w.toNat / 65536 ^ i % 65536
      F.Adds rm (F.decode (half x)) (F.decode (half y)) (half (pair16 F false rm x y)) ∧
      F.Multiplies rm (F.decode (half x)) (F.decode (half y)) (half (pair16 F true rm x y))) ∧
  (∀ (a b : Dec) (sc : ℤ),
    let P := a.mul b sc
    (a.cls = .nan ∨ b.cls = .nan ∨ (a.cls = .inf ∧ b.cls = .zero) ∨ (a.cls = .zero ∧ b.cls = .inf) → P.cls = .nan) ∧
    ((a.cls = .inf ∧ (b.cls = .inf ∨ b.cls = .finite)) ∨ (b.cls = .inf ∧ a.cls = .finite) → P.cls = .inf ∧ P.s = (a.s != b.s)) ∧
    (a.cls = .finite → b.cls = .finite → P.cls = .finite ∧ P.s = (a.s != b.s) ∧ P.val = a.val * b.val * 2 ^ sc) ∧
    ((a.cls = .zero ∧ b.finite) ∨ (b.cls = .zero ∧ a.finite) → P.cls = .zero ∧ P.s = (a.s != b.s) ∧ P.val = 0)) ∧
  (∀ (F G : Fmt) (x y : Nat) (sc : ℤ),
    (¬(F = .ln6 ∧ G = .ln6) → product F x G y sc = (F.decode x).mul (G.decode y) sc) ∧
    (F = .ln6 → G = .ln6 →
      let L := x % 32 + y % 32
      let P := product F x G y sc
      (x % 32 = 0 ∨ y % 32 = 0 → P.cls = .zero ∧ P.val = 0) ∧
      (x % 32 ≠ 0 → y % 32 ≠ 0 → P.cls = .finite ∧ P.s = (bitAt x 5 != bitAt y 5) ∧
        |P.val| = ([0x8000, 0x9838, 0xB505, 0xD745].getD (L % 4) 0 : Nat) * 2 ^ ((L / 4 : Nat) - 23 + sc)))) ∧
  (∀ (acc : Word) (F G : Fmt) (xs : List (Nat × Nat × ℤ)),
    let a := flt32.decode acc.toNat
    let ps := xs.map fun x => product F x.1 G x.2.1 x.2.2
    let fin := ps.filter fun p => decide (p.cls = .finite)
    let msb := fun (p : Dec) => (Nat.log2 p.m : ℤ) + p.e
    let k := kstep acc F G xs
    let plus := ∃ p ∈ a :: ps, p.cls = .inf ∧ p.s = false
    let minus := ∃ p ∈ a :: ps, p.cls = .inf ∧ p.s = true
    let bad := (∃ p ∈ a :: ps, p.cls = .nan) ∨ (plus ∧ minus)
    let sat := ∃ H ∈ ([.f8e4, .f8e5, .i8, .ln6] : List Fmt), H = F ∨ H = G
    let top : ℚ := (flt32.decode 0x7F7FFFFF).val
    (bad → k = 0x7FC00000) ∧ (¬bad → plus → k = 0x7F800000) ∧ (¬bad → minus → k = 0xFF800000) ∧
    (a.finite → (∀ p ∈ ps, p.finite) → (fin = [] → k = acc) ∧
      ∀ E, (∃ p ∈ fin, msb p = E) → (∀ p ∈ fin, msb p ≤ E) →
        let S : ℤ := (fin.map fun p => (if p.s = true then -1 else 1) * ⌊|p.val| * 2 ^ (40 - E)⌋).sum
        let v := a.val + S * 2 ^ (E - 40)
        (S = 0 → k = acc) ∧ (S ≠ 0 → v = 0 → k = 0) ∧
        (S ≠ 0 → v ≠ 0 → |v| ≤ top ∨ ¬sat → flt32.Rounds 0 (· ≤ v) (v ≤ ·) k.toNat) ∧
        (S ≠ 0 → top < |v| → sat → k.toNat = flt32.sign (decide (v < 0)) 0x7F7FFFFF))) ∧
  (∀ (F G : Fmt) (rm x : Nat), convert F G rm x = G.encode rm false (F.decode x)) ∧
  ∀ (G : Fmt) (r : BitVec 2) (d : Dec), (d.cls = .finite → d.m ≠ 0) → G.Converts r.toNat d (G.encode r.toNat false d)

/-- R229 and R230: every compare completes and writes the truth of its row into pD of every active lane, and nothing else.
R231: selection and predicate logic complete with the values of their rows. -/
def Obligations.ComparesAndPredicates : Prop :=
  (∀ (s : State) (p : Pod) (w : Wave) (k : Crew) (b a : BitVec 7) (d : BitVec 3), Issuing s p w k →
    Granted k [.of7 a, .of7 b] → Sound w p [.of7 a, .of7 b] →
    let A := w.word (.of7 a)
    let B := w.word (.of7 b)
    let un := fun l => isNan32 (A l) || isNan32 (B l)
    let sets := fun i f => WritesPred s p w k i d f
    sets (.fceqF32 b a d) (fun l => !un l && decide (num32 (A l) = num32 (B l))) ∧
    sets (.fcneF32 b a d) (fun l => un l || decide (num32 (A l) ≠ num32 (B l))) ∧
    sets (.fcltF32 b a d) (fun l => !un l && decide (num32 (A l) < num32 (B l))) ∧
    sets (.fcleF32 b a d) (fun l => !un l && decide (num32 (A l) ≤ num32 (B l))) ∧
    sets (.fcgtF32 b a d) (fun l => !un l && decide (num32 (A l) > num32 (B l))) ∧
    sets (.fcgeF32 b a d) (fun l => !un l && decide (num32 (A l) ≥ num32 (B l))) ∧
    sets (.fcunF32 b a d) un ∧
    sets (.fcordF32 b a d) (fun l => !un l) ∧
    sets (.iceqB32 b a d) (fun l => decide (A l = B l)) ∧
    sets (.icneB32 b a d) (fun l => decide (A l ≠ B l)) ∧
    sets (.icltI32 b a d) (fun l => decide ((A l).toInt < (B l).toInt)) ∧
    sets (.icleI32 b a d) (fun l => decide ((A l).toInt ≤ (B l).toInt)) ∧
    sets (.icgtI32 b a d) (fun l => decide ((A l).toInt > (B l).toInt)) ∧
    sets (.icgeI32 b a d) (fun l => decide ((A l).toInt ≥ (B l).toInt)) ∧
    sets (.icltN32 b a d) (fun l => decide ((A l).toNat < (B l).toNat)) ∧
    sets (.icleN32 b a d) (fun l => decide ((A l).toNat ≤ (B l).toNat)) ∧
    sets (.icgtN32 b a d) (fun l => decide ((A l).toNat > (B l).toNat)) ∧
    sets (.icgeN32 b a d) (fun l => decide ((A l).toNat ≥ (B l).toNat)) ∧
    sets (.ictstB32 b a d) (fun l => decide (A l &&& B l ≠ 0))) ∧
  ∀ (s : State) (p : Pod) (w : Wave) (k : Crew) (n pa pb pd : BitVec 3) (b a d : BitVec 7), Issuing s p w k →
    Granted k [.of7 d, .of7 a, .of7 b] → Sound w p [.of7 a, .of7 b] →
    Clean w (predKeys p [n.toNat, pa.toNat, pb.toNat]) →
    let P := w.pred pa.toNat
    let Q := w.pred pb.toNat
    let sets := fun i f => WritesPred s p w k i pd f
    WritesWord s p w k (.selB32 n b a d) (.of7 d)
      (fun l => if w.pred n.toNat l then w.word (.of7 a) l else w.word (.of7 b) l) ∧
    sets (.pand pb pa pd) (fun l => P l && Q l) ∧
    sets (.por pb pa pd) (fun l => P l || Q l) ∧
    sets (.pxor pb pa pd) (fun l => xor (P l) (Q l)) ∧
    sets (.pandn pb pa pd) (fun l => P l && !Q l) ∧
    sets (.pmov pa pd) P ∧
    sets (.pnot pa pd) (fun l => !P l) ∧
    sets (.vtop a pd) (fun l => decide (w.word (.of7 a) l ≠ 0)) ∧
    WritesWord s p w k (.ptov pa d) (.of7 d) (fun l => if P l then 1 else 0)

/-- R232 and R233: conversions and narrow-element moves complete with the values of their rows; where D is read it must be
sound too. -/
def Obligations.NarrowElements : Prop :=
  ∀ (s : State) (p : Pod) (w : Wave) (k : Crew) (b a d : BitVec 7), Issuing s p w k →
    Granted k [.of7 d, .of7 a, .of7 b] → Sound w p [.of7 a, .of7 b, .of7 d] →
    let A := fun l => (w.word (.of7 a) l).toNat
    let B := fun l => (w.word (.of7 b) l).toNat
    let D := fun l => (w.word (.of7 d) l).toNat
    let pos := fun l => B l % 32
    let len := fun l => min (B l / 32 % 64) 32
    let field := fun l => A l / 2 ^ pos l % 2 ^ len l
    let writes := fun i f => WritesWord s p w k i (.of7 d) f
    (∀ (sf t : BitVec 4) (r : BitVec 2) (F G : Fmt), Fmt.ofCode sf.toNat = some F → Fmt.ofCode t.toNat = some G →
      writes (.cvt sf t r a d) (fun l => BitVec.ofNat 32 (convert F G r.toNat (A l % 2 ^ F.width)))) ∧
    writes (.pack2B16 b a d) (fun l => BitVec.ofNat 32 (A l % 65536 + 65536 * (B l % 65536))) ∧
    writes (.pack2B8 b a d) (fun l => BitVec.ofNat 32 (A l % 256 + 256 * (B l % 256) + 65536 * (D l / 65536))) ∧
    writes (.pack2hB8 b a d) (fun l => BitVec.ofNat 32 (D l % 65536 + 65536 * (A l % 256 + 256 * (B l % 256)))) ∧
    writes (.extN16 b a d) (fun l => BitVec.ofNat 32 (A l / 65536 ^ (B l % 2) % 65536)) ∧
    writes (.extI16 b a d) (fun l => (BitVec.ofNat 16 (A l / 65536 ^ (B l % 2))).signExtend 32) ∧
    writes (.extN8 b a d) (fun l => BitVec.ofNat 32 (A l / 256 ^ (B l % 4) % 256)) ∧
    writes (.extI8 b a d) (fun l => (BitVec.ofNat 8 (A l / 256 ^ (B l % 4))).signExtend 32) ∧
    writes (.bfxN32 b a d) (fun l => BitVec.ofNat 32 (field l)) ∧
    writes (.bfxI32 b a d) (fun l => BitVec.ofInt 32
      (if field l < 2 ^ (len l - 1) ∨ len l = 0 then (field l : Int) else (field l : Int) - 2 ^ len l)) ∧
    writes (.bfiB32 b a d) (fun l =>
      let top := min (pos l + len l) 32
      BitVec.ofNat 32 (D l % 2 ^ pos l + A l % 2 ^ (top - pos l) * 2 ^ pos l + D l / 2 ^ top * 2 ^ top))

/-- R236: every form of major 0x16 completes and writes its 64-bit result to the pair, low word first. -/
def Obligations.PairArithmetic : Prop :=
  ∀ (s : State) (p : Pod) (w : Wave) (k : Crew) (b a d : BitVec 7), Issuing s p w k →
    Granted k ((Reg.of7 d).group 2 ++ ((Reg.of7 a).group 2 ++ (Reg.of7 b).group 2)) →
    Sound w p ((Reg.of7 a).group 2 ++ (Reg.of7 b).group 2) →
    let A := fun l => (w.word (.of7 a) l).toNat + 2 ^ 32 * (w.word ((Reg.of7 a).plus 1) l).toNat
    let B := fun l => (w.word (.of7 b) l).toNat + 2 ^ 32 * (w.word ((Reg.of7 b).plus 1) l).toNat
    let sg := fun (x : Nat) => (BitVec.ofNat 64 x).toInt
    let n := fun l => (w.word (.of7 b) l).toNat
    let x := fun l => (w.word (.of7 a) l)
    let y := fun l => (w.word (.of7 b) l)
    let writes := fun i f => WritesPair s p w k i (.of7 d) f
    writes (.iaddN64 b a d) (fun l => BitVec.ofNat 64 (A l + B l)) ∧
    writes (.isubN64 b a d) (fun l => BitVec.ofInt 64 (A l - B l)) ∧
    writes (.imulN64 b a d) (fun l => BitVec.ofNat 64 (A l * B l)) ∧
    writes (.shlB64 b a d) (fun l => if n l ≥ 64 then 0 else BitVec.ofNat 64 (A l * 2 ^ n l)) ∧
    writes (.shrN64 b a d) (fun l => if n l ≥ 64 then 0 else BitVec.ofNat 64 (A l / 2 ^ n l)) ∧
    writes (.shrI64 b a d) (fun l => BitVec.ofInt 64 (sg (A l) / 2 ^ min (n l) 64)) ∧
    writes (.iminI64 b a d) (fun l => BitVec.ofInt 64 (min (sg (A l)) (sg (B l)))) ∧
    writes (.imaxI64 b a d) (fun l => BitVec.ofInt 64 (max (sg (A l)) (sg (B l)))) ∧
    writes (.iminN64 b a d) (fun l => BitVec.ofNat 64 (min (A l) (B l))) ∧
    writes (.imaxN64 b a d) (fun l => BitVec.ofNat 64 (max (A l) (B l))) ∧
    writes (.imulwN32 b a d) (fun l => BitVec.ofNat 64 ((x l).toNat * (y l).toNat)) ∧
    writes (.imulwI32 b a d) (fun l => BitVec.ofInt 64 ((x l).toInt * (y l).toInt))

/-! ### Lane moves and masks -/

/-- R234 and R235: the lane moves complete with the values of their rows; a lane that is not active gives a zero unit with
code 0x00. -/
def Obligations.LaneMoves : Prop :=
  ∀ (s : State) (p : Pod) (w : Wave) (k : Crew) (b a d : BitVec 7) (pa pd : BitVec 3), Issuing s p w k →
    Granted k [.of7 d, .of7 a, .of7 b] → Sound w p [.of7 a, .of7 b] → Clean w (predKeys p [pa.toNat]) →
    let A := w.word (.of7 a)
    let B := w.word (.of7 b)
    let take := fun j => if j ∈ p.lanes then coded (A j) else (⟨0, 0, false⟩ : GUnit)
    WritesWord s p w k (.movB32 b a d) (.of7 d) B ∧
    WritesReg s p w k (.shflB32 b a d) (.of7 d) (fun l => take ((B l).toNat % 32)) ∧
    WritesReg s p w k (.bcastB32 b a d) (.of7 d) (fun _ => take ((B p.low).toNat % 32)) ∧
    WritesPred s p w k (.vall pa pd) pd (fun _ => p.lanes.all fun l => w.pred pa.toNat l) ∧
    WritesPred s p w k (.vany pa pd) pd (fun _ => p.lanes.any fun l => w.pred pa.toNat l) ∧
    WritesWord s p w k (.laneid d) (.of7 d) (fun l => BitVec.ofNat 32 l) ∧
    WritesWord s p w k (.tid d) (.of7 d) (fun l => BitVec.ofNat 32 ((w.threads.find l).elim 0 fun t => t.id)) ∧
    ∃ x : Word, WritesWord s p w k (.ballotB32 pa d) (.of7 d) (fun _ => x) ∧
      ∀ l, x.getLsbD l = true ↔ l ∈ p.lanes ∧ w.pred pa.toNat l = true

/-- R172 and R185: a write of q0 to q11 by `qset` replaces the member set, with the bits of empty lanes cleared, and, as any write
of a lane mask does, clears the idempotent bit; `qget` reads the member set without changing it; with threads arrived the write raises CONV and changes
nothing itself. -/
def Obligations.MaskMoves : Prop :=
  ∀ (s : State) (p : Pod) (w : Wave) (k : Crew) (q a : BitVec 4) (d : BitVec 7), Issuing s p w k →
    Granted k [.of7 d, .ofS a] → Sound w p [.ofS a] → Clean w [parQ q.toNat] →
    WritesWord s p w k (.qget q d) (.of7 d) (fun _ => (w.mask q.toNat).member) ∧
    ((w.mask q.toNat).arrived ≠ 0 → exec (.qset a q) s = .next (s.raise p w k (.plain .conv p.low))) ∧
    ((w.mask q.toNat).arrived = 0 → ∃ t w', exec (.qset a q) s = .next t ∧ t.wave? p.core p.slot = some w' ∧
      (∀ l, (w'.mask q.toNat).member.getLsbD l = true ↔
        (w.word (.ofS a) 0).getLsbD l = true ∧ (w.threads.find l).isSome = true) ∧
      (w'.mask q.toNat).arrived = 0 ∧ w'.idemBit = false ∧
      (∀ n, n ≠ q.toNat → w'.mask n = w.mask n) ∧
      (∀ r l, w'.get r l = w.get r l) ∧ (∀ n l, w'.pred n l = w.pred n l) ∧
      (∀ l th, w.threads.find l = some th → ∃ n, w'.threads.find l =
        some { th with pc := if l ∈ p.lanes then p.after else th.pc, last := n }) ∧
      [w'.chkinfo, w'.chkaddr, w'.trapcause, w'.trappc, w'.trapaddr, w'.ehbase] =
        [w.chkinfo, w.chkaddr, w.trapcause, w.trappc, w.trapaddr, w.ehbase] ∧
      (∀ c, c ≠ p.core → t.core c = s.core c) ∧ SameMemory s t)

/-! ### Uniform registers and control registers -/

/-- R237 and R238: every uniform form completes and writes its value once to its uniform register. -/
def Obligations.UniformForms : Prop :=
  ∀ (s : State) (p : Pod) (w : Wave) (k : Crew) (b a d : BitVec 6) (im : BitVec 13), Issuing s p w k →
    Granted k [.ofS d, .ofS a, .ofS b] → Sound w p [.ofS a, .ofS b] →
    let A := w.word (.ofS a) 0
    let B := w.word (.ofS b) 0
    let n := B.toNat
    let writes := fun i x => WritesWord s p w k i (.ofS d) fun _ => x
    writes (.uaddN32 b a d) (BitVec.ofNat 32 (A.toNat + B.toNat)) ∧
    writes (.usubN32 b a d) (BitVec.ofInt 32 (A.toNat - B.toNat)) ∧
    writes (.umulN32 b a d) (BitVec.ofNat 32 (A.toNat * B.toNat)) ∧
    writes (.uminI32 b a d) (BitVec.ofInt 32 (min A.toInt B.toInt)) ∧
    writes (.umaxI32 b a d) (BitVec.ofInt 32 (max A.toInt B.toInt)) ∧
    writes (.uminN32 b a d) (BitVec.ofNat 32 (min A.toNat B.toNat)) ∧
    writes (.umaxN32 b a d) (BitVec.ofNat 32 (max A.toNat B.toNat)) ∧
    writes (.uandB32 b a d) (A &&& B) ∧
    writes (.uorB32 b a d) (A ||| B) ∧
    writes (.uxorB32 b a d) (A ^^^ B) ∧
    writes (.ushlB32 b a d) (if n ≥ 32 then 0 else BitVec.ofNat 32 (A.toNat * 2 ^ n)) ∧
    writes (.ushrN32 b a d) (if n ≥ 32 then 0 else BitVec.ofNat 32 (A.toNat / 2 ^ n)) ∧
    writes (.ushrI32 b a d) (BitVec.ofInt 32 (A.toInt / 2 ^ min n 32)) ∧
    writes (.udivN32 b a d) (if B = 0 then 0xFFFFFFFF else BitVec.ofNat 32 (A.toNat / B.toNat)) ∧
    writes (.uremN32 b a d) (if B = 0 then A else BitVec.ofNat 32 (A.toNat % B.toNat)) ∧
    writes (.useqB32 b a d) (if A = B then 1 else 0) ∧
    writes (.usltI32 b a d) (if A.toInt < B.toInt then 1 else 0) ∧
    writes (.usltN32 b a d) (if A.toNat < B.toNat then 1 else 0) ∧
    writes (.udivI32 b a d) (if B = 0 then 0xFFFFFFFF else BitVec.ofInt 32 (A.toInt.tdiv B.toInt)) ∧
    writes (.uremI32 b a d) (if B = 0 then A else BitVec.ofInt 32 (A.toInt.tmod B.toInt)) ∧
    writes (.umov b d) B ∧
    writes (.uaddi im a d) (BitVec.ofInt 32 (A.toNat + im.toInt)) ∧
    writes (.umovi im d) (BitVec.ofInt 32 im.toInt)

/-- R195 to R202, R239, R266, R267 and R270: `cmov` reads a control register of the lowest active lane's view into the pair; what
each register reads as. A program's write of MISSCAP or NOPRE raises PERM, which comes before the checks of the operands (DEDUCED,
log 15). A write of the others sets the register as its field map says; an out-of-range value leaves the field, a write of a
read-only register changes nothing, and a write of a descriptor beyond the quota raises SLAB. A write that reaches the register
gives it good parity, and one that leaves it does not (R60). The deposits of the same cycle come on top of a write of ARRIVE
(R202). -/
def Obligations.ControlRegisters : Prop :=
  ∀ (s : State) (p : Pod) (w : Wave) (k : Crew) (d : BitVec 6), Issuing s p w k →
    Granted k [.ofS d, .s (d.toNat + 1)] →
    let reads := fun (n : Nat) (v : Nat) => crRead s p w k n p.low = BitVec.ofNat 64 v
    (∀ n : BitVec 12, CleanCr s p w k [n.toNat] →
      WritesPair s p w k (.cmovRead n d) (.ofS d) fun _ => crRead s p w k n.toNat p.low) ∧
    reads 0x000 k.body.quantum ∧ reads 0x001 k.body.binto ∧
    reads 0x002 ((w.thread p.low).rank * 2 ^ 32 + ((s.core p.core).members w.crew).length * 2 ^ 21 +
      (if k.setn = 0 then 0 else 2 ^ 7) + p.core % 4 * 2 ^ 5 + w.crew) ∧
    reads 0x003 (k.decl.lines * 2 ^ 36 + k.decl.acc * 2 ^ 32 + k.decl.vregs * 2 ^ 16 + k.decl.sregs * 2 ^ 8 + k.decl.waves) ∧
    (∀ i, i < 4 → reads (8 + i) (k.ab i)) ∧
    reads 0x010 w.arrive.toNat ∧ reads 0x011 (w.nprem * 2 ^ 32 + w.lls * 2 ^ 24 + p.slot) ∧ reads 0x012 w.idempc.toNat ∧
    reads 0x013 w.chkinfo.toNat ∧ reads 0x014 w.chkaddr.toNat ∧ reads 0x020 k.body.tol.toNat ∧ reads 0x021 k.body.maxrank ∧
    reads 0x022 (k.body.used * 2 ^ 16 + k.decl.slabq) ∧ reads 0x028 k.barto ∧ reads 0x030 w.trapcause.toNat ∧
    reads 0x031 w.trappc.toNat ∧ reads 0x032 w.trapaddr.toNat ∧ reads 0x033 w.ehbase.toNat ∧
    reads 0x040 (s.core p.core).misscap.toNat ∧ reads 0x041 (s.ctx k.ctx).nopre.toNat ∧
    (∀ m, m < 32 → reads (0x100 + m) (k.body.mreg m).desc.toNat) ∧
    exec (.cmovWrite 0x040 d) s = .next (s.raise p w k (.plain .perm p.low)) ∧
    exec (.cmovWrite 0x041 d) s = .next (s.raise p w k (.plain .perm p.low)) ∧
    (Sound w p [.ofS d, .s (d.toNat + 1)] →
      let lo := (w.word (.ofS d) 0).toNat
      let x := lo + 2 ^ 32 * (w.word (.s (d.toNat + 1)) 0).toNat
      let write := fun (n : Nat) => Instr.cmovWrite (BitVec.ofNat 12 n) d
      let sets := fun (n : Nat) (b : CrewBody) => ∃ t w', exec (write n) s = .next t ∧
        Effect s t p w w' { k with body := { b with parity := k.body.parity.filter (· != n) } } (fun _ => False)
          (fun _ => False) (fun _ => p.after)
      let keeps := fun (n : Nat) => ∃ t w', exec (write n) s = .next t ∧
        Effect s t p w w' k (fun _ => False) (fun _ => False) (fun _ => p.after)
      (∀ i, i < 4 → sets (8 + i) { k.body with ab := k.body.ab.set i (BitVec.ofNat 58 x) }) ∧
      (1 ≤ lo % 2 ^ 13 → lo % 2 ^ 13 ≤ 4096 → sets 0x000 { k.body with quantum := lo % 2 ^ 13 }) ∧
      (lo % 2 ^ 13 = 0 ∨ 4096 < lo % 2 ^ 13 → keeps 0x000) ∧
      (lo % 2 ^ 16 ≠ 0 → sets 0x001 { k.body with binto := lo % 2 ^ 16 }) ∧
      (lo % 2 ^ 16 = 0 → keeps 0x001) ∧
      sets 0x020 { k.body with tol := BitVec.ofNat 64 (x % 2 ^ 33) } ∧
      (1 ≤ lo % 2 ^ 6 → lo % 2 ^ 6 ≤ 32 → sets 0x021 { k.body with maxrank := lo % 2 ^ 6 }) ∧
      (lo % 2 ^ 6 = 0 ∨ 32 < lo % 2 ^ 6 → keeps 0x021) ∧
      (∀ n ∈ [0x002, 0x003, 0x011, 0x012, 0x013, 0x014, 0x022, 0x028, 0x030, 0x032], keeps n) ∧
      (((s.core p.core).waves.any fun e => e.2.crew == w.crew && e.2.mma.isSome) = false → ∀ m, m < 32 →
        let t := { TDesc.ofBits (BitVec.ofNat 64 x) with sc := false, win := 0, soff := 0 }
        let legal := t.fmt ∈ [1, 2, 3, 4, 5, 8] ∧ (t.dense = true ∨ t.fmt = 1 ∨ t.fmt = 2) ∧ t.rank ≤ 32 ∧
          (t.dense = true → t.rank ≤ 1)
        (¬legal → keeps (0x100 + m)) ∧
        (legal → k.fits m t = false → exec (write (0x100 + m)) s = .next (s.raise p w k (.plain .slab p.low))) ∧
        (legal → k.fits m t = true →
          sets (0x100 + m) { k.body with mregs := k.body.mregs.set m ⟨t.toBits, padImage t []⟩ })) ∧
      (∃ t w', exec (write 0x010) s = .next t ∧ t.wave? p.core p.slot = some w' ∧
        w'.arrive = w.word (.ofS d) 0 + BitVec.ofNat 32 w.landed ∧ ∀ r l, w'.get r l = w.get r l) ∧
      (∃ t w', exec (write 0x031) s = .next t ∧ t.wave? p.core p.slot = some w' ∧
        w'.trappc = BitVec.ofNat 64 (x % 2 ^ 58 / 2 * 2) ∧ ∀ r l, w'.get r l = w.get r l) ∧
      (∃ t w', exec (write 0x033) s = .next t ∧ t.wave? p.core p.slot = some w' ∧
        w'.ehbase = BitVec.ofNat 64 (x % 2 ^ 58) ∧ ∀ r l, w'.get r l = w.get r l))

/-! ### Control flow -/

/-- R240 and R241: a direct branch completes where no lane takes it or its target lies in the text region, and moves the
PCs of the taking lanes to PC + 2 × OFF; otherwise it raises PERM at the lowest taking lane. R242: an indirect jump goes
to the pair's address when bits 63:58 and bit 0 are 0 and it lies in the text region, and raises PERM otherwise. -/
def Obligations.BranchesAndJumps : Prop :=
  (∀ (s : State) (p : Pod) (w : Wave) (k : Crew) (o : BitVec 20) (n : BitVec 1) (pn : BitVec 3), Issuing s p w k →
    let t : Int := (p.pc.toNat : Int) + 2 * o.toInt
    let target : VAddr := BitVec.ofInt 58 t
    let taken := fun l => w.pred pn.toNat l != (n == 1#1)
    let out : Prop := t < 4 * 2 ^ 55 ∨ 5 * 2 ^ 55 ≤ t
    (¬out → Jumps s p w k (.br o) fun _ => target) ∧
    (out → exec (.br o) s = .next (s.raise p w k (.plain .perm p.low))) ∧
    (Clean w (predKeys p [pn.toNat]) →
      ((∀ l ∈ p.lanes, taken l = false) ∨ ¬out →
        Jumps s p w k (.brCond o n pn) fun l => if taken l then target else p.after) ∧
      (out → ∀ l, (p.lanes.find? fun l => taken l) = some l →
        exec (.brCond o n pn) s = .next (s.raise p w k (.plain .perm l))))) ∧
  ∀ (s : State) (p : Pod) (w : Wave) (k : Crew) (a : BitVec 6), Issuing s p w k →
    Granted k [.ofS a, .s (a.toNat + 1)] → Sound w p [.ofS a, .s (a.toNat + 1)] →
    let x := (w.word (.ofS a) 0).toNat + 2 ^ 32 * (w.word (.s (a.toNat + 1)) 0).toNat
    let good := x % 2 = 0 ∧ 4 * 2 ^ 55 ≤ x ∧ x < 5 * 2 ^ 55
    (good → Jumps s p w k (.jmp a) fun _ => BitVec.ofNat 58 x) ∧
    (¬good → exec (.jmp a) s = .next (s.raise p w k (.plain .perm p.low)) ∧
      ((∀ l ∈ p.lanes, w.spillBad l = false) → exec (.calli a) s = .next (s.raise p w k (.plain .perm p.low))))

/-- R162, R240 to R242: a call in some lanes stores the frames that it spills, pushes PC + 4 and goes to its target; the other lanes
go on; at the greatest DEPTH it raises STACK, and with a target outside the text region PERM at the lowest taking lane. A return
goes to the newest frame, pops it, and takes in the refilled frame; at DEPTH 0 it raises STACK. Bit 0 of the program counter is
zero (R160). `s1` is the state after the frames' places are translated. The frames spilled pass their parity, and so do those
popped (R60). A spill performs at its issue, as a weak store (DESIGN CHOICE, log 3): its place then holds the oldest frame's
half, coded; where no line leaves a cache to make room, every byte outside the spilled frames is unchanged, and a return
changes none. -/
def Obligations.CallsAndReturns : Prop :=
  (∀ (s : State) (p : Pod) (w : Wave) (k : Crew) (o : BitVec 20) (n : BitVec 1) (pn : BitVec 3) (a : BitVec 6),
    Issuing s p w k →
    let sz := (s.ctx k.ctx).privsz
    let t : Int := (p.pc.toNat : Int) + 2 * o.toInt
    let x := (w.word (.ofS a) 0).toNat + 2 ^ 32 * (w.word (.s (a.toNat + 1)) 0).toNat
    let takes := p.lanes.filter fun l => w.pred pn.toNat l != (n == 1#1)
    let full := fun (ls : List Nat) => ls.filter fun l => decide (16 ≤ (w.thread l).stack.length)
    let sound := fun (ls : List Nat) => ∀ l ∈ ls, w.spillBad l = false
    let calls := fun (i : Instr) (ls : List Nat) (target : VAddr) => sound ls →
      (∀ l, (ls.find? fun l => decide ((w.thread l).depth ≥ maxDepth sz)) = some l →
        exec i s = .next (s.raise p w k (.plain .stack l))) ∧
      ((∀ l ∈ ls, (w.thread l).depth < maxDepth sz) → ∀ places s1, s.gather p w k .write 4 2 (spills w sz ls) = (.ok places, s1) →
        ∃ t w', exec i s = .next t ∧
          Kept s t p w w' k (fun _ => False) (fun l th =>
            if l ∈ ls then { th with pc := target, stack := BitVec.ofNat 64 (p.pc + 4#58).toNat :: th.stack.take 15, depth := th.depth + 1 }
            else { th with pc := p.after }) ∧
          w'.idempc = w.idempc ∧ (Undisturbed s1 t → SameStacks s1 t) ∧ (Steady s1 t → SameMemoryBut (placed places) s1 t) ∧
          ∀ j l, (full ls)[j]? = some l → ∀ m, m < 2 → ∃ x, places[2 * j + m]? = some x ∧ x.lane = l ∧
            x.va = 5 * 2 ^ 55 + (2 ^ sz - 8 * ((w.thread l).depth - 16 + 1)) + 4 * m ∧
            ∀ pa bind ms cz, x.at_ = .mem pa bind ms cz → pa < hbmSize → Undisturbed s1 t →
              ¬placed (places.drop (2 * j + m + 1)) (pa / 4) →
              t.peek p.core pa = coded (((w.thread l).stack.getLastD 0 >>> (32 * m)).setWidth 32))
    let inside := 4 * 2 ^ 55 ≤ t ∧ t < 5 * 2 ^ 55
    (inside → calls (.call o) p.lanes (BitVec.ofInt 58 t)) ∧
    (¬inside → sound p.lanes → exec (.call o) s = .next (s.raise p w k (.plain .perm p.low))) ∧
    (Clean w (predKeys p [pn.toNat]) →
      (inside ∨ takes = [] → calls (.callCond o n pn) takes (BitVec.ofInt 58 t)) ∧
      (¬inside → sound takes → ∀ l, takes.head? = some l →
        exec (.callCond o n pn) s = .next (s.raise p w k (.plain .perm l)))) ∧
    (Granted k [.ofS a, .s (a.toNat + 1)] → Sound w p [.ofS a, .s (a.toNat + 1)] →
      x % 2 = 0 ∧ 4 * 2 ^ 55 ≤ x ∧ x < 5 * 2 ^ 55 → calls (.calli a) p.lanes (BitVec.ofNat 58 x))) ∧
  ∀ (s : State) (p : Pod) (w : Wave) (k : Crew), Issuing s p w k → (∀ l ∈ p.lanes, w.popBad l = false) →
    let sz := (s.ctx k.ctx).privsz
    (∀ l, (p.lanes.find? fun l => decide ((w.thread l).depth = 0)) = some l →
      exec .ret s = .next (s.raise p w k (.plain .stack l))) ∧
    ((∀ l ∈ p.lanes, (w.thread l).depth ≠ 0) → ∀ places s1, s.gather p w k .read 4 2 (refills w sz p.lanes) = (.ok places, s1) →
      let got := (s1.loadAll p w k false places).1
      (∀ x ∈ got, x.2.1.ok = true) →
      ∃ t w', exec .ret s = .next t ∧
        Kept s t p w w' k (fun _ => False) (fun l th =>
          { th with
            pc := (th.stack.headD 0).setWidth 58 &&& ~~~ 1#58
            stack := th.stack.tail ++ (frameOf got l).toList
            depth := th.depth - 1
            drop := th.drop || decide (th.depth - 1 < th.entDepth) }) ∧
        w'.idempc = w.idempc ∧ (Steady s1 t → SameMemory s1 t))

/-- R212 and R244: a literal load whose address lies in the text region and translates completes: it reads its granules once
through the instruction cache, or else from their home slices, and forwards them to every active lane, and no byte changes
where no line leaves a cache to make room. An address outside the text region raises PERM. -/
def Obligations.LiteralLoads : Prop :=
  ∀ (s : State) (p : Pod) (w : Wave) (k : Crew) (o : BitVec 18) (d : BitVec 7), Issuing s p w k →
    let a : Int := (p.pc.toNat / 4 * 4 : Nat) + 4 * o.toInt
    let D := Reg.of7 d
    let loads := fun (i : Instr) (n : Nat) =>
      Granted k (D.group n) →
      (a < 4 * 2 ^ 55 ∨ 5 * 2 ^ 55 ≤ a + 4 * (n - 1 : Nat) → exec i s = .next (s.raise p w k (.plain .perm p.low))) ∧
      (4 * 2 ^ 55 ≤ a → a + 4 * (n - 1 : Nat) < 5 * 2 ^ 55 →
        ∀ places s1, s.gather p w k .read 4 n [(p.low, some a.toNat)] = (.ok places, s1) →
        ∃ t w', exec i s = .next t ∧ Kept s t p w w' k (fun r => r ∈ D.group n) p.on ∧ w'.idempc = w.idempc ∧
          (Undisturbed s1 t → SameMemory s1 t) ∧
          ∀ l ∈ p.lanes, ∀ m, m < n → ∃ x pa bind ms cz, places[m]? = some x ∧ x.va = a.toNat + 4 * m ∧
            x.at_ = .mem pa bind ms cz ∧
            (pa < hbmSize → Undisturbed s1 t →
              w'.get (D.plus m) l = ((s1.core p.core).icache.find (pa / 4)).getD (s1.home pa)))
    loads (.ldlB32 o d) 1 ∧ loads (.ldlB64 o d) 2

/-! ### Memory -/

/-- R247, R248 and R250: loads complete and put the units they read, unchanged, into the group of each lane: the scratchpad
unit, or, where no line leaves a cache to make room, what the L1 or the home slice holds (R71, R98; of a line that another context
filled a weak load sees only the dirty units: DEDUCED, log 111). That each access performs once, at its issue and in program order,
is the model's choice (DESIGN CHOICE, log 3); R97, R110 and R111 leave more. `s1` is the state after translation; a weak load
then changes no byte where no line leaves a cache or passes to another context. -/
def Obligations.Loads : Prop :=
  ∀ (s : State) (p : Pod) (w : Wave) (k : Crew) (o : BitVec 8) (g : BitVec 4) (r : BitVec 3) (b : BitVec 2) (a d : BitVec 7),
    Issuing s p w k → Sound w p [.of7 a] → CleanCr s p w k [8 + b.toNat] →
    let D := Reg.of7 d
    let lanes := if D.uniform = true then [p.low] else p.lanes
    let loads := fun (i : Instr) (ord align n : Nat) (off : Int) =>
      let vas := lanes.map (laneVa w k b.toNat (.of7 a) off)
      Granted k (.of7 a :: D.group n) → s.throttled p w vas = false →
      ∀ places s1, (s.unheld p w).gather p w k .read align n vas = (.ok places, s1) →
      ∃ t w', exec i s = .next t ∧ Kept s t p w w' k (fun r => r ∈ D.group n) p.on ∧
        w'.idempc = (if ord = 0 then w.idempc else w.clearIdem.idempc) ∧
        (Undisturbed s1 t → SameStacks s1 t) ∧ (ord = 0 → Steady s1 t → SameMemory s1 t) ∧
        (ord = 1 → Steady s1 t → SameMemoryBut (placed places) s1 t) ∧
        ∀ j l, lanes[j]? = some l → ∀ m, m < n → ∃ x va, places[j * n + m]? = some x ∧ x.lane = l ∧
          (laneVa w k b.toNat (.of7 a) off l).2 = some va ∧ x.va = va + 4 * m ∧
          (∀ q, x.at_ = .spad q → w'.get (D.plus m) l = k.spadGet q) ∧
          (∀ pa bind ms cz, x.at_ = .mem pa bind ms cz → pa < hbmSize → Undisturbed s1 t →
            w'.get (D.plus m) l = if ord = 0 then s1.sees p.core k.ctx pa else s1.strongPeek p.core pa)
    loads (.ldB32 o b a d) 0 4 1 o.toInt ∧ loads (.ldB64 o b a d) 0 4 2 o.toInt ∧ loads (.ldB128 o b a d) 0 4 4 o.toInt ∧
    loads (.ldB32Ord g r b a d) r.toNat 4 1 0 ∧ loads (.ldB64Ord g r b a d) r.toNat (if r = 0 then 4 else 8) 2 0

/-- R247, R249, R250, R71 and R98: stores complete and write the group's units, unchanged, at their places, up to a unit that a PCIe
port refuses (R20): in the scratchpad, and, where no line leaves a cache to make room, in memory. That each store performs once,
at its issue and in program order, is the model's choice (DESIGN CHOICE, log 3). Every scratchpad unit and every byte outside the
places that translation gives is then unchanged, whichever core reads it, where the store is weak or relaxed and no line leaves
a cache or passes to another context. An idempotent region ends at a store with IP and at an ordered one (R185). -/
def Obligations.Stores : Prop :=
  ∀ (s : State) (p : Pod) (w : Wave) (k : Crew) (o : BitVec 8) (ip : BitVec 1) (g : BitVec 4) (r : BitVec 3) (b : BitVec 2)
    (a d : BitVec 7), Issuing s p w k → Sound w p [.of7 a] → CleanCr s p w k [8 + b.toNat] →
    let D := Reg.of7 d
    let stores := fun (i : Instr) (ord align n : Nat) (off : Int) (clears : Prop) =>
      let vas := p.lanes.map (laneVa w k b.toNat (.of7 a) off)
      Granted k (.of7 a :: D.group n) → s.throttled p w vas = false →
      ∀ places s1, (s.unheld p w).gather p w k .write align n vas = (.ok places, s1) →
      ∃ t w' k', exec i s = .next t ∧ Kept s t p w w' k (fun _ => False) p.on ∧ t.crew? p.core w.crew = some k' ∧
        (clears → w'.idempc = w.clearIdem.idempc) ∧ (¬clears → w'.idempc = w.idempc) ∧
        (Undisturbed s1 t → SameStacks s1 t) ∧ (ord ≠ 3 → Steady s1 t → SameMemoryBut (placed places) s1 t) ∧
        (∀ y, ¬spadPlaced places (y / 4) → k'.spadGet y = k.spadGet y) ∧
        ∀ j l, p.lanes[j]? = some l → ∀ m, m < n → ∃ x va, places[j * n + m]? = some x ∧ x.lane = l ∧
          (laneVa w k b.toNat (.of7 a) off l).2 = some va ∧ x.va = va + 4 * m ∧
          ((∀ i y, i < m → places[j * n + i]? = some y → y.at_.refuses (w.get (D.plus i) l) = false) →
            (∀ q, x.at_ = .spad q → ¬spadPlaced (places.drop (j * n + m + 1)) (q / 4) → k'.spadGet q = w.get (D.plus m) l) ∧
            ∀ pa bind ms cz, x.at_ = .mem pa bind ms cz → pa < hbmSize → Undisturbed s1 t →
              ¬placed (places.drop (j * n + m + 1)) (pa / 4) → t.peek p.core pa = w.get (D.plus m) l)
    stores (.stB32 o ip b a d) 0 4 1 o.toInt (ip = 1#1) ∧ stores (.stB64 o ip b a d) 0 4 2 o.toInt (ip = 1#1) ∧
    stores (.stB128 o ip b a d) 0 4 4 o.toInt (ip = 1#1) ∧
    stores (.stB32Ord g r b a d) r.toNat 4 1 0 (r ≠ 0) ∧
    stores (.stB64Ord g r b a d) r.toNat (if r = 0 then 4 else 8) 2 0 (r ≠ 0)

/-- R246, R199 and R214: the lowest lane's address decides first: a sum outside 0 to 2^58 − 1 raises PAGE (R313 gives no
address for a sum that is no virtual address, and this statement leaves it open: log 117), one that is not a multiple of
the access's alignment raises ALIGN with that address; nothing is performed. With room in the queues of misses (R43). -/
def Obligations.AddressFaults : Prop :=
  ∀ (s : State) (p : Pod) (w : Wave) (k : Crew) (o : BitVec 8) (ip : BitVec 1) (g : BitVec 4) (r : BitVec 3) (b : BitVec 2)
    (a d : BitVec 7), Issuing s p w k → Sound w p [.of7 a] → CleanCr s p w k [8 + b.toNat] → s.queueFull p.core = false →
    s.throttled p w (p.lanes.map (laneVa w k b.toNat (.of7 a) o.toInt)) = false →
    s.throttled p w ([p.low].map (laneVa w k b.toNat (.of7 a) o.toInt)) = false → Granted k (.of7 a :: (Reg.of7 d).group 4) →
    s.throttled p w (p.lanes.map (laneVa w k b.toNat (.of7 a) 0)) = false →
    s.throttled p w ([p.low].map (laneVa w k b.toNat (.of7 a) 0)) = false → r.toNat ≤ 3 →
    let va := fun (off : Int) => ((k.ab b.toNat : Int) + (w.word (.of7 a) p.low).toNat + 4 * off)
    let faults := fun (i : Instr) (off : Int) (align : Nat) =>
      ((va off < 0 ∨ 2 ^ 58 ≤ va off) → ∃ a, exec i s = .next ((s.unheld p w).raise p w k ⟨.page, p.low, a, none⟩)) ∧
      (0 ≤ va off → va off < 2 ^ 58 → va off % align ≠ 0 →
        exec i s = .next ((s.unheld p w).raise p w k ⟨.align, p.low, (va off).toNat, none⟩))
    faults (.ldB32 o b a d) o.toInt 4 ∧ faults (.ldB64 o b a d) o.toInt 4 ∧ faults (.ldB128 o b a d) o.toInt 4 ∧
    faults (.stB32 o ip b a d) o.toInt 4 ∧ faults (.stB64 o ip b a d) o.toInt 4 ∧ faults (.stB128 o ip b a d) o.toInt 4 ∧
    faults (.ldB32Ord g r b a d) 0 4 ∧ faults (.stB32Ord g r b a d) 0 4 ∧
    (r ≠ 0 → faults (.ldB64Ord g r b a d) 0 8 ∧ faults (.stB64Ord g r b a d) 0 8)

/-- R251 to R253: an atomic whose requests all answer completes, clears the idempotent bit, and puts the old units into its
group. `s1` is the state after translation, and `got` what the requests answer, after the release actions of `.rel`. -/
def Obligations.Atomics : Prop :=
  ∀ (s : State) (p : Pod) (w : Wave) (k : Crew) (g : BitVec 4) (o : BitVec 2) (b : BitVec 6) (a : BitVec 7) (d : BitVec 6),
    Issuing s p w k →
    let B := Reg.ofV b
    let D := Reg.ofV d
    let vas := p.lanes.map (laneVa w k 0 (.of7 a) 0)
    let atom := fun (i : Instr) (op : AtomOp) =>
      let src := B.group op.operands
      Granted k (.of7 a :: (D.group op.words ++ src)) → Sound w p (.of7 a :: src) → CleanCr s p w k [8] →
      s.throttled p w vas = false →
      ∀ places s1, (s.unheld p w).gatherDeny p w k .atomic (atomDeny op) (4 * op.words) op.words vas = (.ok places, s1) →
      let s2 := if o.toNat ≥ 2 then s1.releases p.core k.ctx g.toNat (s1.objects p w k places) else s1
      let got := (s2.atomRequests p.core op (fun l => src.map fun r => w.get r l) (firstOf op.words places)).1
      (∀ x ∈ got, ∃ us, x.2 = .old us) →
      ∃ t w', exec i s = .next t ∧ Kept s t p w w' k (fun r => r ∈ D.group op.words) p.on ∧
        w'.idempc = w.clearIdem.idempc ∧
        ∀ j l, p.lanes[j]? = some l → ∀ m, m < op.words → ∀ u, (oldUnits got)[j * op.words + m]? = some u →
          w'.get (D.plus m) l = u.2.1
    atom (.ataddN32 g o b a d) .addN32 ∧ atom (.atfaddF32 g o b a d) .addF32 ∧ atom (.atminI32 g o b a d) .minI32 ∧
    atom (.atminN32 g o b a d) .minN32 ∧ atom (.atmaxI32 g o b a d) .maxI32 ∧ atom (.atmaxN32 g o b a d) .maxN32 ∧
    atom (.atandB32 g o b a d) .andB32 ∧ atom (.atorB32 g o b a d) .orB32 ∧ atom (.atxorB32 g o b a d) .xorB32 ∧
    atom (.atswpB32 g o b a d) .swpB32 ∧ atom (.atcasB32 g o b a d) .casB32 ∧ atom (.atmrgB32 g o b a d) .mrgB32 ∧
    atom (.ataddN64 g o b a d) .addN64 ∧ atom (.atswpB64 g o b a d) .swpB64 ∧ atom (.atcasB64 g o b a d) .casB64

/-- R76 and R252: an atomic of good units at a home slice answers the old units and leaves the coded result of its row, in
one indivisible step, where no line leaves a cache to make room; a compare that fails leaves memory as it was. The 64-bit forms
take and leave two granules, the low word first. -/
def Obligations.AtomicAtHome : Prop :=
  (∀ (s : State) (pa : Nat) (b0 b1 : GUnit), pa < hbmSize → pa % 4 = 0 → b0.ok = true → b1.ok = true →
    (s.home pa).ok = true → s.poisoned pa (s.home pa) = false →
    let old := (s.home pa).data
    let x := b0.data
    let gives := fun (op : AtomOp) (bs : List GUnit) (new : Word) =>
      let t := (s.homeAtomic pa op bs).2
      Undisturbed s t → (s.homeAtomic pa op bs).1 = .old [s.home pa] ∧ t.home pa = coded new ∧ SameStacks s t ∧
        ∀ a, a / 4 ≠ pa / 4 → t.home a = s.home a
    gives .addN32 [b0] (BitVec.ofNat 32 (old.toNat + x.toNat)) ∧
    gives .addF32 [b0] (fadd32 0 old x) ∧
    gives .minI32 [b0] (BitVec.ofInt 32 (min old.toInt x.toInt)) ∧
    gives .minN32 [b0] (BitVec.ofNat 32 (min old.toNat x.toNat)) ∧
    gives .maxI32 [b0] (BitVec.ofInt 32 (max old.toInt x.toInt)) ∧
    gives .maxN32 [b0] (BitVec.ofNat 32 (max old.toNat x.toNat)) ∧
    gives .andB32 [b0] (old &&& x) ∧ gives .orB32 [b0] (old ||| x) ∧ gives .xorB32 [b0] (old ^^^ x) ∧
    gives .swpB32 [b0] x ∧
    (old = x → gives .casB32 [b0, b1] b1.data) ∧
    (old ≠ x → Undisturbed s (s.homeAtomic pa .casB32 [b0, b1]).2 → (s.homeAtomic pa .casB32 [b0, b1]).1 = .old [s.home pa] ∧
      ∀ a, (s.homeAtomic pa .casB32 [b0, b1]).2.home a = s.home a) ∧
    ∃ new : Word, gives .mrgB32 [b0, b1] new ∧ ∀ j, j < 4 → ∀ i, i < 8 →
      new.getLsbD (8 * j + i) = if b1.data.getLsbD j then x.getLsbD (8 * j + i) else old.getLsbD (8 * j + i)) ∧
  ∀ (s : State) (pa : Nat) (b0 b1 b2 b3 : GUnit), pa < hbmSize → pa % 8 = 0 → (∀ b ∈ [b0, b1, b2, b3], b.ok = true) →
    (∀ a ∈ [pa, pa + 4], (s.home a).ok = true ∧ s.poisoned a (s.home a) = false) →
    let dword := fun (l h : GUnit) => l.data.toNat + 2 ^ 32 * h.data.toNat
    let old := dword (s.home pa) (s.home (pa + 4))
    let gives := fun (op : AtomOp) (bs : List GUnit) (new : Nat) =>
      let t := (s.homeAtomic pa op bs).2
      Undisturbed s t → (s.homeAtomic pa op bs).1 = .old [s.home pa, s.home (pa + 4)] ∧
        t.home pa = coded (BitVec.ofNat 32 new) ∧ t.home (pa + 4) = coded (BitVec.ofNat 32 (new / 2 ^ 32)) ∧ SameStacks s t ∧
        ∀ a, a / 8 ≠ pa / 8 → t.home a = s.home a
    gives .addN64 [b0, b1] (old + dword b0 b1) ∧ gives .swpB64 [b0, b1] (dword b0 b1) ∧
    (old = dword b0 b1 → gives .casB64 [b0, b1, b2, b3] (dword b2 b3)) ∧
    (old ≠ dword b0 b1 → Undisturbed s (s.homeAtomic pa .casB64 [b0, b1, b2, b3]).2 →
      (s.homeAtomic pa .casB64 [b0, b1, b2, b3]).1 = .old [s.home pa, s.home (pa + 4)] ∧
      ∀ a, (s.homeAtomic pa .casB64 [b0, b1, b2, b3]).2.home a = s.home a)

/-! ### Synchronisation -/

/-- R256 and R117: a fence completes and clears the idempotent bit. Where its scope reaches beyond the L1, a release
leaves no dirty granule of the default object in the issuing L1, an acquire no clean one, and both together no line; where
it does not, no byte changes. R257: a `bind` of no page, or with no entry free, changes nothing but its result; one whose
range passes the walk records the object in the entry and answers the entry's index. -/
def Obligations.FencesAndBindings : Prop :=
  (∀ (s : State) (p : Pod) (w : Wave) (k : Crew) (g : BitVec 4), Issuing s p w k →
    let fence := fun (i : Instr) (left : List (Nat × GUnit × Bool) → Prop) =>
      ∃ t w', exec i s = .next t ∧ Kept s t p w w' k (fun _ => False) p.on ∧ w'.idempc = w.clearIdem.idempc ∧
        (Undisturbed s t → SameStacks s t) ∧ (s.wide p.core g.toNat = false → SameMemory s t) ∧
        (s.wide p.core g.toNat = true → ∀ c ∈ s.l1Cores p.core, ∀ line l, (t.core c).l1.find line = some l →
          l.ctx = k.ctx → (s.ctx k.ctx).effBind l.bind = 0 → left l.units)
    fence (.fenceRel g) (fun us => ∀ e ∈ us, e.2.2 = false) ∧
    fence (.fenceAcq g) (fun us => ∀ e ∈ us, e.2.2 = true) ∧
    fence (.fenceAr g) (fun _ => False)) ∧
  ∀ (s : State) (p : Pod) (w : Wave) (k : Crew) (b a d : BitVec 6), Issuing s p w k → k.replay = none →
    Granted k (.ofS d :: ((Reg.ofS a).group 2 ++ (Reg.ofS b).group 2)) →
    Sound w p (.ofS d :: ((Reg.ofS a).group 2 ++ (Reg.ofS b).group 2)) →
    let base := (w.word (.ofS a) 0).toNat + 2 ^ 32 * (w.word (.s (a.toNat + 1)) 0).toNat
    let obj := (w.word (.ofS b) 0).toNat + 2 ^ 32 * (w.word (.s (b.toNat + 1)) 0).toNat
    let count := (w.word (.ofS d) 0).toNat
    let known := (s.ctx k.ctx).bindIndex obj
    let entry := known <|> (s.ctx k.ctx).bindFree
    base % 16384 = 0 → obj % 16 = 0 → count ≤ 65536 → base < 2 ^ 57 → base + 16384 * count ≤ 2 ^ 57 → obj < 2 ^ 57 →
    (count = 0 ∨ entry = none → ∃ t w', exec (.bind b a d) s = .next t ∧
      Kept s t p w w' k (fun r => r = .ofS d) p.on ∧ SameMemory s t ∧
      w'.get (.ofS d) 0 = coded ((if count = 0 then known else entry).elim 0xFFFFFFFF fun i => BitVec.ofNat 32 i)) ∧
    (count ≠ 0 → ∀ i, entry = some i → ∀ l s1,
      s.bindWalk p (laneAgent p w k p.low) base (base + 16384 * count) count = (.ok l, s1) →
      ∃ t w', exec (.bind b a d) s = .next t ∧ t.wave? p.core p.slot = some w' ∧ w'.get (.ofS d) 0 = coded (BitVec.ofNat 32 i) ∧
        (∀ r j, j < 32 → r ≠ .ofS d → w'.get r j = w.get r j) ∧ (Undisturbed s1 t → SameStacks s1 t) ∧
        (known = none → (t.ctx k.ctx).bindings.find i = some (BitVec.ofNat 64 (obj + 1))))

/-- R169 to R171 and R259: `join`, `wait` and `leave` complete: `join` and `wait` arrive at a mask and stand there, `leave` takes the
threads out of the mask and goes on; a thread that is no member raises CONV. At the end of a cycle a mask whose arrival set holds
its member set releases the threads that arrived there, a `wait` among them with its predicate 0, and no other thread of the wave
moves; a `wait` whose count ran out before the cycle goes on with its predicate 1 and leaves the arrival set. -/
def Obligations.MaskArrivals : Prop :=
  (∀ (s : State) (p : Pod) (w : Wave) (k : Crew) (a : BitVec 4) (b : BitVec 6) (d : BitVec 3), Issuing s p w k →
    a.toNat < 12 → Clean w [parQ a.toNat] →
    let m := w.mask a.toNat
    let n := (w.word (.ofS b) 0).toNat
    let becomes := fun (i : Instr) (m' : Mask) (pc : VAddr) (h : Hold) =>
      ∃ t w', exec i s = .next t ∧ t.wave? p.core p.slot = some w' ∧ w'.mask a.toNat = m' ∧
        (∀ q, q ≠ a.toNat → w'.mask q = w.mask q) ∧
        (∀ l th, w.threads.find l = some th → ∃ st, w'.threads.find l = some
          (if l ∈ p.lanes then { th with pc := pc, hold := h, last := st } else th)) ∧
        (∀ r l, w'.get r l = w.get r l) ∧ (∀ n l, w'.pred n l = w.pred n l) ∧ w'.idempc = w.clearIdem.idempc ∧
        (∀ i, i ≠ p.slot → t.wave? p.core i = s.wave? p.core i) ∧ (∀ c, c ≠ p.core → t.core c = s.core c) ∧ SameMemory s t
    (∀ l, (p.lanes.find? fun l => !m.member.getLsbD l) = some l →
      exec (.join a) s = .next (s.raise p w k (.plain .conv l)) ∧
      (Granted k [.ofS b] → Sound w p [.ofS b] → exec (.wait b a d) s = .next (s.raise p w k (.plain .conv l)))) ∧
    ((∀ l ∈ p.lanes, m.member.getLsbD l = true) →
      becomes (.join a) ⟨m.member, m.arrived ||| laneSet p.lanes⟩ p.pc (.join a.toNat) ∧
      (Granted k [.ofS b] → Sound w p [.ofS b] → becomes (.wait b a d) ⟨m.member, m.arrived ||| laneSet p.lanes⟩ p.pc
        (.wait a.toNat d.toNat (s.cycOf p.core + n)))) ∧
    becomes (.leave a) ⟨m.member &&& ~~~ laneSet p.lanes, m.arrived &&& ~~~ laneSet p.lanes⟩ p.after .ready) ∧
  (∀ (w : Wave),
    let w' := w.releaseMasks
    let full := fun q => q < 12 ∧ (w.mask q).member ≠ 0 ∧ (w.mask q).arrived &&& (w.mask q).member = (w.mask q).member
    let goes := fun l (th : Thread) => ∃ q, full q ∧ (w.mask q).arrived.getLsbD l = true ∧
      (th.hold = .join q ∨ ∃ d e, th.hold = .wait q d e)
    (∀ q, (full q → w'.mask q = ⟨(w.mask q).member, 0⟩) ∧ (¬full q → w'.mask q = w.mask q)) ∧
    (∀ l th, w.threads.find l = some th →
      (goes l th → w'.threads.find l = some { th with hold := .ready, pc := th.pc + 4#58 } ∧
        ∀ q d e, th.hold = .wait q d e → w'.pred d l = false) ∧
      (¬goes l th → w'.threads.find l = some th)) ∧
    (∀ n l, (∀ th q e, w.threads.find l = some th → th.hold = .wait q n e → ¬goes l th) → w'.pred n l = w.pred n l) ∧
    ∀ r l, w'.get r l = w.get r l) ∧
  (∀ (w : Wave) (now l : Nat) (th : Thread), l < 32 → w.threads.find l = some th →
    (∀ q d e, th.hold = .wait q d e → e < now →
      (w.expire now).threads.find l = some { th with hold := .ready, pc := th.pc + 4#58 } ∧ (w.expire now).pred d l = true ∧
      ((w.expire now).mask q).arrived.getLsbD l = false) ∧
    ((∀ q d e, th.hold = .wait q d e → now ≤ e) → (w.expire now).threads.find l = some th)) ∧
  ∀ (s : State), SameMemory s s.endMasks ∧ ∀ c i, s.endMasks.wave? c i =
    (s.wave? c i).map fun w => { w.releaseMasks with landed := 0 }

/-- R260: `cbar` completes and counts its threads, which wait there; a count above 1,024 raises PERM, and a pending early stop its
trap before the threads are counted (R130). At the end of the cycle, once the count is reached, or every live member is there where the count is 0, the
barrier completes: every thread of the crew that arrived goes on, and the crew's interval ends; until then nothing happens. -/
def Obligations.CrewBarriers : Prop :=
  (∀ (s : State) (p : Pod) (w : Wave) (k : Crew) (a : BitVec 6), Issuing s p w k →
    Granted k [.ofS a] → Sound w p [.ofS a] →
    let n := (w.word (.ofS a) 0).toNat
    (n > 1024 → exec (.cbar a) s = .next (s.raise p w k (.plain .perm p.low))) ∧
    (n ≤ 1024 → ∀ ch x, k.body.stops.head? = some (ch, x) → ∃ (s1 : State) (k1 : Crew), exec (.cbar a) s = .next (s1.raise p w k1 (x.trap p.low)) ∧
      s1.crew? p.core w.crew = some k1 ∧ k1.body = { k.body with stops := k.body.stops.del ch }) ∧
    (n ≤ 1024 → k.body.stops = [] → ∃ t w' k' b, exec (.cbar a) s = .next t ∧ t.wave? p.core p.slot = some w' ∧
      t.crew? p.core w.crew = some k' ∧ k'.body = { k.body with bar := some b } ∧ k'.bars = k.bars ∧ k'.phase = k.phase ∧
      (k.body.bar = none → b.count = n ∧ b.arrived = p.lanes.length) ∧
      (∀ b0, k.body.bar = some b0 → b.count = b0.count ∧ b.arrived = b0.arrived + p.lanes.length) ∧
      (∀ l th, w.threads.find l = some th → ∃ st, w'.threads.find l = some
        (if l ∈ p.lanes then { th with hold := .cbar, last := st } else th)) ∧
      (∀ r l, w'.get r l = w.get r l) ∧ (∀ n l, w'.pred n l = w.pred n l) ∧ w'.q = w.q ∧ w'.idempc = w.clearIdem.idempc ∧
      (∀ i, i ≠ p.slot → t.wave? p.core i = s.wave? p.core i) ∧ (∀ i, i ≠ w.crew → t.crew? p.core i = s.crew? p.core i) ∧
      (∀ c, c ≠ p.core → t.core c = s.core c) ∧ SameMemory s t)) ∧
  ∀ (s : State) (core crew : Nat) (k : Crew) (b : CrewBar), s.crew? core crew = some k → k.body.bar = some b →
    let ms := (s.core core).members crew
    let t := s.testBarrier core crew
    let met := ((b.count = 0 ∧ ms ≠ [] ∧ ∀ x ∈ ms, x.2.2.hold = .cbar) ∨ (b.count ≠ 0 ∧ b.count ≤ b.arrived)) ∧
      (k.phase = .run ∨ k.phase = .shadow) ∧ (s.ctx k.ctx).stopping = false
    (¬met → t = s) ∧
    (met → (∃ k', t.crew? core crew = some k' ∧ k'.body = { k.body with bar := none } ∧ k'.bars = (k.bars + 1) % 2 ^ 32 ∧
        k'.phase = .shadow) ∧
      (∀ i w, s.wave? core i = some w → ∃ w', t.wave? core i = some w' ∧ (w.crew ≠ crew → w' = w) ∧
        (∀ r l, w'.get r l = w.get r l) ∧ (∀ n l, w'.pred n l = w.pred n l) ∧ w'.q = w.q ∧
        (w.crew = crew → ∀ l th, w.threads.find l = some th → w'.threads.find l = some
          (if th.hold = .cbar then { th with hold := .ready, pc := th.pc + 4#58 } else th))) ∧
      (∀ i, i ≠ crew → t.crew? core i = s.crew? core i) ∧ (∀ c, c ≠ core → t.core c = s.core c) ∧ SameMemory s t)

/-- R175, R176 and R261: `cjoin` and `cleave` complete. `cjoin` of the own crew renumbers its threads and ends the interval; of
another crew that has room it moves the pod's threads there, to the free lanes of its waves first and then to new waves;
`cleave` moves them to a new wave of a new crew with the old one's registers and address bases and nothing else. A moved thread
keeps its PC, stack, id, vector registers and predicates, takes its new wave's uniform registers, joins q0 and no other mask, and
the target's ranks are dense, its old members in their order first and the joiners after them by id. Every crew that the change
touches ends its interval. Without room the pod is held; a crew that may not be joined raises PERM. That the new crew's wave
takes the lowest free slot is log 22 (DEDUCED; R179 leaves the slot open). -/
def Obligations.ChangesOfCrew : Prop :=
  ∀ (s : State) (p : Pod) (w : Wave) (k : Crew) (a : BitVec 6), Issuing s p w k →
    let x := (w.word (.ofS a) 0).toNat
    let c := s.core p.core
    let ids := p.lanes.map fun l => (w.thread l).id
    let perm := s.raise p w k (.plain .perm p.low)
    let moved := fun (t : State) (x l : Nat) (m : Nat × Nat) => ∃ v th, t.wave? p.core m.1 = some v ∧ v.crew = x ∧
      v.threads.find m.2 = some th ∧ v.idemBit = false ∧
      (th.hold, th.pc, th.stack, th.depth, th.id) =
        (.ready, p.after, (w.thread l).stack, (w.thread l).depth, (w.thread l).id) ∧
      (∀ n, v.get (.v n) m.2 = w.get (.v n) l) ∧ (∀ n, n < 8 → v.pred n m.2 = w.pred n l) ∧
      (v.mask 0).member.getLsbD m.2 = true ∧
      (∀ q, q ≠ 0 → v.mask q = ((s.wave? p.core m.1).map fun u => u.mask q).getD ⟨0, 0⟩) ∧
      ∀ n, v.get (.s n) 0 = ((s.wave? p.core m.1).map fun u => u.get (.s n) 0).getD .zero
    let ranked := fun (t : State) (x : Nat) (js : List Nat) =>
      let ms := (t.core p.core).members x
      (∀ m ∈ ms, m.2.2.rank < ms.length) ∧ (ms.map fun m => m.2.2.rank).Nodup ∧
      (∀ m ∈ ms, ∀ m' ∈ ms, m'.2.2.id ∈ js → m.2.2.id ∉ js ∨ m.2.2.id < m'.2.2.id → m.2.2.rank < m'.2.2.rank) ∧
      ∀ m ∈ c.members x, ∀ m' ∈ c.members x, m.2.2.id ∉ js → m'.2.2.id ∉ js → m.2.2.rank < m'.2.2.rank →
        ∃ th th', (m.1, m.2.1, th) ∈ ms ∧ (m'.1, m'.2.1, th') ∈ ms ∧ th.rank < th'.rank
    let ended := fun (t : State) (i : Nat) (old : Crew) => ∃ k', t.crew? p.core i = some k' ∧
      ((t.core p.core).members i ≠ [] → k'.phase = .shadow) ∧ { k'.body with bar := none } = { old.body with bar := none } ∧
      (k'.spad, k'.decl, k'.ctx, k'.node, k'.setn) = (old.spad, old.decl, old.ctx, old.node, old.setn)
    let rest := fun (t : State) (x : Nat) =>
      (∀ v, t.wave? p.core p.slot = some v → ∀ l ∈ p.lanes, v.threads.find l = none) ∧
      (∀ l th, l < 32 → l ∉ p.lanes → w.threads.find l = some th → ∃ v th', t.wave? p.core p.slot = some v ∧
        v.threads.find l = some th' ∧ v.idemBit = false ∧ ((∀ e, th.hold ≠ .emitted e) → th'.seen = th.seen) ∧
        (∀ n, v.get (.v n) l = w.get (.v n) l) ∧ (∀ n, n < 8 → v.pred n l = w.pred n l) ∧
        ∀ q, q < 12 → v.mask q =
          ⟨(w.mask q).member &&& ~~~ laneSet p.lanes, (w.mask q).arrived &&& ~~~ laneSet p.lanes⟩) ∧
      (∀ i u, i ≠ p.slot → s.wave? p.core i = some u → u.crew ≠ x → ∃ v, t.wave? p.core i = some v ∧
        { v with threads := u.threads, mma := u.mma } = u) ∧
      (∀ i, i ≠ w.crew → i ≠ x → t.crew? p.core i = s.crew? p.core i) ∧ (∀ d, d ≠ p.core → t.core d = s.core d) ∧
      t.ctxs = s.ctxs ∧ SameMemory s t ∧ ended t w.crew k
    let may := fun (g : Crew) => g.ctx = k.ctx ∧ k.decl.vregs ≤ g.decl.vregs ∧ k.decl.sregs ≤ g.decl.sregs ∧
      g.phase ≠ .ended ∧ c.members x ≠ []
    (Granted k [.ofS a] → Sound w p [.ofS a] →
      (16 ≤ x ∨ (∀ g, s.crew? p.core x = some g → ¬may g) → exec (.cjoin a) s = .next perm) ∧
      (∀ g, x < 16 → s.crew? p.core x = some g → may g →
        (x = w.crew → ∃ t w', exec (.cjoin a) s = .next t ∧ t.wave? p.core p.slot = some w' ∧ ended t x k ∧ ranked t x [] ∧
          (∀ l th, w.threads.find l = some th → ∃ th', w'.threads.find l = some th' ∧
            (th'.hold, th'.pc, th'.stack, th'.depth, th'.id) =
              (th.hold, if l ∈ p.lanes then p.after else th.pc, th.stack, th.depth, th.id)) ∧
          (∀ r l, w'.get r l = w.get r l) ∧ (∀ n l, w'.pred n l = w.pred n l) ∧ w'.q = w.q ∧ w'.idemBit = false ∧
          (∀ d, d ≠ p.core → t.core d = s.core d) ∧ SameMemory s t) ∧
        (x ≠ w.crew →
          let homes := c.homes x g.decl.vregs g.decl.sregs
          let many := (c.members x).length + p.lanes.length > 1024
          (many → exec (.cjoin a) s = .next perm) ∧
          (¬many → homes.length < p.lanes.length ∨ g.phase ≠ .run → exec (.cjoin a) s = .next (s.heldBack p .room)) ∧
          (¬many → p.lanes.length ≤ homes.length → g.phase = .run →
            (∀ h ∈ homes, h.1 < 32 ∧ h.2 < 32 ∧
              ∀ v, s.wave? p.core h.1 = some v → v.crew = x ∧ v.threads.find h.2 = none) ∧
            (∀ i j v, i < 32 → j < 32 → s.wave? p.core i = some v → v.crew = x → v.threads.find j = none →
              ∃ n, homes[n]? = some (i, j) ∧ ∀ (m : Nat) (h : Nat × Nat), m < n → homes[m]? = some h →
                (s.wave? p.core h.1).isSome = true ∧ (h.1 < i ∨ (h.1 = i ∧ h.2 < j))) ∧
            ∃ t, exec (.cjoin a) s = .next t ∧
              (∀ (j l : Nat) (m : Nat × Nat), p.lanes[j]? = some l → homes[j]? = some m → moved t x l m) ∧ ranked t x ids ∧ rest t x ∧ ended t x g)))) ∧
    (CleanCr s p w k [8, 9, 10, 11] →
      ((∀ i, i < 16 → (c.crews.find i).isSome = true) ∨ c.waveRoom k.decl.vregs k.decl.sregs = 0 →
        exec .cleave s = .next (s.heldBack p .room)) ∧
      ((∃ i, i < 16 ∧ c.crews.find i = none) → c.waveRoom k.decl.vregs k.decl.sregs ≠ 0 →
        ∃ i slot t, i < 16 ∧ c.crews.find i = none ∧ slot < 32 ∧ s.wave? p.core slot = none ∧
          (∀ j, j < slot → (s.wave? p.core j).isSome = true) ∧ exec .cleave s = .next t ∧
          (∀ j l : Nat, p.lanes[j]? = some l → moved t i l (slot, j)) ∧ ranked t i ids ∧ rest t i ∧
          ∃ k', t.crew? p.core i = some k' ∧ k'.phase = .shadow ∧ k'.body = { CrewBody.fresh with ab := k.body.ab } ∧
            k'.decl = { k.decl with acc := 0, lines := 0, slabq := 0, waves := 1 } ∧ k'.spad = [] ∧ k'.setn = 0 ∧
            (k'.ctx, k'.node) = (k.ctx, k.node)))

/-- R126, R127, R262 and R265: `binit`, `barrive`, `bwait` and `bread` complete: `binit` sets an object up, `barrive` adds to its
count and inverts PHASE when the count becomes complete, `bwait` answers word 3 of a complete object and blocks on another, `bread`
answers the four words. Offsets that are not multiples of 16 raise ALIGN, those beyond the allocation PERM; that their fault address
is 6 × 2^55 + the offset is the model's choice (DEDUCED, log 21). At the end of a cycle the threads that wait for a complete object go on with its word 3. R80,
R134, R135, R263 and R264: `rdwp` and `rwr` complete: `rdwp` answers a channel's write pointer; `rwr` sends the lanes' units towards
the named core of the cluster set and goes on, and raises PERM for a target that is not in the set; while a save of the set is
pending it is held, and that this ends its wave's window is the model's choice (DEDUCED, log 38). -/
def Obligations.BarrierObjectsAndRemoteWrites : Prop :=
  (∀ (s : State) (p : Pod) (w : Wave) (k : Crew) (a b d : BitVec 6), Issuing s p w k →
    Granted k (.ofS a :: .ofS b :: .ofS d :: (Reg.ofS d).group 4) → Sound w p [.ofS a, .ofS b] → k.body.stops = [] →
    let x := (w.word (.ofS a) 0).toNat
    let n := w.word (.ofS b) 0
    let word := fun (k : Crew) i => (k.spadGet (x + 4 * i)).data
    let is : List Instr := [.binit b a, .barrive b a, .bwait a d, .bread a d]
    (x % 2 ^ 18 % 16 ≠ 0 → ∀ i ∈ is, exec i s = .next (s.raise p w k ⟨.align, p.low, 6 * 2 ^ 55 + x % 2 ^ 18, none⟩)) ∧
    (x % 2 ^ 18 % 16 = 0 → 2 ^ 18 ≤ x ∨ k.decl.lines * 128 ≤ x % 2 ^ 18 →
      ∀ i ∈ is, exec i s = .next (s.raise p w k ⟨.perm, p.low, 6 * 2 ^ 55 + x % 2 ^ 18, none⟩)) ∧
    (x % 16 = 0 → x < 2 ^ 18 → x < k.decl.lines * 128 → (∀ i, i < 4 → (k.spadGet (x + 4 * i)).ok = true) →
      let becomes := fun (i : Instr) (w0 w1 w2 w3 : Word) => ∃ t w' k', exec i s = .next t ∧
        Kept s t p w w' k (fun _ => False) p.on ∧ w'.idempc = w.clearIdem.idempc ∧ SameMemory s t ∧
        t.crew? p.core w.crew = some k' ∧ [k'.spadGet x, k'.spadGet (x + 4), k'.spadGet (x + 8), k'.spadGet (x + 12)] =
          [coded w0, coded w1, coded w2, coded w3] ∧
        ∀ y, y / 16 ≠ x / 16 → k'.spadGet y = k.spadGet y
      let complete := (word k 0).toNat ≤ (word k 1).toNat
      let completes := (word k 1).toNat < (word k 0).toNat ∧ (word k 0).toNat ≤ (word k 1 + n).toNat
      becomes (.binit b a) n 0 0 ((word k 3 &&& 0xFFFF00F9) ||| 4) ∧
      (completes → becomes (.barrive b a) (word k 0) (word k 1 + n) (word k 2) (word k 3 ^^^ 1)) ∧
      (¬completes → becomes (.barrive b a) (word k 0) (word k 1 + n) (word k 2) (word k 3)) ∧
      (complete → ∃ t w', exec (.bwait a d) s = .next t ∧ Kept s t p w w' k (fun r => r = .ofS d) p.on ∧ SameStacks s t ∧
        w'.get (.ofS d) 0 = coded (word k 3)) ∧
      (¬complete → exec (.bwait a d) s = .next
        ((s.modWave p.core p.slot fun w => w.holdLanes p.lanes (.bwait x d.toNat)).retireWith p true fun _ => p.pc)) ∧
      (complete → k.phase = .run → (s.ctx k.ctx).stopping = false → ∀ slot w l th, s.wave? p.core slot = some w →
        s.crew? p.core w.crew = some k → w.threads.find l = some th → th.hold = .bwait x d.toNat →
        ∃ w', (s.endBwait p.core slot x).wave? p.core slot = some w' ∧ w'.get (.ofS d) 0 = coded (word k 3) ∧
          ∃ th', w'.threads.find l = some th' ∧ th'.hold = .ready ∧ th'.pc = th.pc + 4#58) ∧
      ∃ t w', exec (.bread a d) s = .next t ∧ Kept s t p w w' k (fun r => r ∈ (Reg.ofS d).group 4) p.on ∧ SameStacks s t ∧
        ∀ i, i < 4 → w'.get ((Reg.ofS d).plus i) 0 = coded (word k i))) ∧
  ∀ (s : State) (p : Pod) (w : Wave) (k : Crew) (b : BitVec 2) (a d : BitVec 6) (v : BitVec 6), Issuing s p w k →
    Granted k [.ofS a, .ofV v, .ofS d, .s (d.toNat + 1)] → Sound w p [.ofS a] → k.body.stops = [] →
    let x := (w.word (.ofS a) 0).toNat
    let core := p.core / 4 * 4 + x % 4
    let bad := 2 ^ 14 ≤ x ∨ 111 < x / 128 ∨ k.setn = 0 ∨ core = p.core ∨ s.setMember core k.ctx k.node k.setNo = none
    (∃ t w', exec (.rdwp b d) s = .next t ∧ Kept s t p w w' k (fun r => r = .ofS d ∨ r = .s (d.toNat + 1)) p.on ∧
      SameStacks s t ∧ w'.get (.ofS d) 0 = coded (BitVec.ofNat 32 (k.wp.getD b.toNat 0)) ∧
      w'.get (.s (d.toNat + 1)) 0 = coded (BitVec.ofNat 32 (k.wp.getD b.toNat 0 / 2 ^ 32))) ∧
    (bad → exec (.rwr v a) s = .next (s.raise p w k (.plain .perm p.low))) ∧
    (¬bad → s.setSaving p.core k = true → exec (.rwr v a) s = .next ((s.shutWindow p).heldBack p .engine)) ∧
    (¬bad → s.setSaving p.core k = false → ∃ t w', exec (.rwr v a) s = .next t ∧
      Kept s t p w w' k (fun _ => False) p.on ∧ w'.idempc = w.clearIdem.idempc ∧ SameMemory s t ∧
      (t.core core).deposits = (s.core core).deposits ++ [⟨p.core, w.crew, k.ctx, k.node, k.setNo, x / 4 % 32, x / 128,
        p.lanes.map fun l => (l, w.get (.ofV v) l)⟩])

/-! ### Matrix instructions -/

/-- R173: every matrix instruction, every asynchronous copy, transform or multicast and `idem`, issued from a pod whose lanes
are not exactly the member set of q0, raises CONV, and nothing else happens. The registers and accumulators named are
allocated (`ChecksBeforeEffects`) and the engine is free (R272). -/
def Obligations.GovernedByQ0 : Prop :=
  ∀ (s : State) (p : Pod) (w : Wave) (k : Crew) (pt : BitVec 6) (ip : BitVec 1) (bs : BitVec 2) (a4 : BitVec 4)
    (a b d : BitVec 5) (c c' : BitVec 3) (h : BitVec 2) (x y e : BitVec 6), Issuing s p w k →
    Granted k [.ofS a4, .ofS pt, .ofS x, .s (x.toNat + 1), .ofS y, .ofS e] → c.toNat < k.decl.acc → c'.toNat < k.decl.acc →
    s.matBusy p w.crew = false → laneSet p.lanes ≠ (w.mask 0).member →
    ∀ i ∈ ([.mld pt bs a4 d, .mst pt ip bs a4 d, .mldf bs a4 d, .mstf ip bs a4 d, .ald pt bs a4 c, .ast pt ip bs a4 c,
      .mma b a c, .mmaz b a c, .mdrain c' d, .aclr c, .mmul b a d, .madd b a d, .maddDn b a d, .mrecomp a d, .mfact a d,
      .mdens a d, .mmov a d, .mtr a d, .mzero d, .xcopy h y x, .xrepack h y x, .xtr h y x, .xcvt h y x, .xexp h y x,
      .xmcast h e y x, .idem] : List Instr),
    exec i s = .next (s.raise p w k (.plain .conv p.low))

/-- R281, R287, R288, R289, R292 and the order of R273: a tile instruction raises ALIGN for a form it does not accept, RANK
for a factored result above MAXRANK, SLAB for one beyond the quota; otherwise, with sound sources, it completes and writes the
result's descriptor and image and nothing else (what `mmulForm`, `mmulImage`, `maddImage` and the grids give, `TileFunctions` states).
MAXRANK bounds every instruction that writes a factored tile (R270); that `mtr` is one of them is DEDUCED (log 28), and so are the
dense result of RANK 1 of `madd` with one dense operand and the form that `madd.dn` falls back to (log 29). -/
def Obligations.TileArithmetic : Prop :=
  ∀ (s : State) (p : Pod) (w : Wave) (k : Crew) (a b d : BitVec 5), Issuing s p w k →
    let A := k.body.tdesc a.toNat
    let B := k.body.tdesc b.toNat
    let D := k.body.tdesc d.toNat
    let img := fun (n : BitVec 5) => (k.body.mreg n.toNat).img
    let good := fun (n : BitVec 5) => ∀ u ∈ (img n).take (ceilDiv (k.body.tdesc n.toNat).size 4), u.ok = true
    let raises := fun (i : Instr) (c : Cause) => exec i s = .next (s.raise p w k (.plain c p.low))
    let tile := fun (i : Instr) (srcs : List (BitVec 5)) (form : Option TDesc) (image : TDesc → List GUnit) =>
      AtArray s p w k [0x021] (d.toNat :: srcs.map fun n => n.toNat) →
      (form = none → raises i .align) ∧
      ∀ t, form = some t →
        (t.dense = false → k.body.maxrank < t.rank → raises i .rank) ∧
        (t.dense = true ∨ t.rank ≤ k.body.maxrank → k.fits d.toNat t = false → raises i .slab) ∧
        (t.dense = true ∨ t.rank ≤ k.body.maxrank → k.fits d.toNat t = true → (∀ n ∈ srcs, good n) →
          WritesTile s p w k i d.toNat t (if t.rank = 0 then [] else image t))
    tile (.mmul b a d) [a, b] (mmulForm A B D) (fun t => mmulImage A B t (img a) (img b)) ∧
    tile (.madd b a d) [a, b]
      (if A.rows ≠ B.rows ∨ A.cols ≠ B.cols then none
        else if A.dense = true ∨ B.dense = true then some (D.result A.rows A.cols true 1)
        else if D.format = .f16 ∨ D.format = .bf16 then some (D.result A.rows A.cols false (A.rank + B.rank)) else none)
      (fun t => maddImage A B t (img a) (img b)) ∧
    tile (.maddDn b a d) [a, b]
      (if A.rows ≠ B.rows ∨ A.cols ≠ B.cols then none
        else if A.dense = true ∨ B.dense = true ∨ A.rank + B.rank > k.body.maxrank then some (D.result A.rows A.cols true 1)
        else if D.format = .f16 ∨ D.format = .bf16 then some (D.result A.rows A.cols false (A.rank + B.rank)) else none)
      (fun t => maddImage A B t (img a) (img b)) ∧
    (A.dense = false → tile (.mdens a d) [a] (some (D.result A.rows A.cols true (min 1 A.rank))) (fun t =>
      packRows t.format.width (toFmt t.format
        (addFactored (zeros32 A.rows A.cols) (gridU A (img a)) (gridV A (img a)) A.cols)))) ∧
    tile (.mtr a d) [a] (if A.dense = true ∧ A.sc = true then none else some (A.result A.cols A.rows A.dense A.rank)) (fun _ =>
      let codes := fun (G : Grid) => G.rows.map fun r => r.map fun x => x.1
      if A.dense = true then packRows A.format.width (transposed A.cols 0 (codes (denseGrid A (img a))))
      else packRows 16 (transposed A.cols 0 (codes (gridV A (img a))) ++ transposed A.rank 0 (codes (gridU A (img a)))))

/-- R286, R289 and R292: these forms complete: `mmov`, and `mdens` of a dense tile, copy descriptor and image verbatim; `mzero` leaves a zero tile
of the register's shape; `mdrain` writes the accumulator's region in the register's format; `aclr` clears an accumulator. A factored tile above MAXRANK raises
RANK (R270); that the copies are among the instructions so bounded, and take unchecked units as they are, is DEDUCED (log 28). -/
def Obligations.TileMoves : Prop :=
  ∀ (s : State) (p : Pod) (w : Wave) (k : Crew) (a d : BitVec 5) (c : BitVec 3), Issuing s p w k →
    AtArray s p w k [0x021] [a.toNat, d.toNat] →
    let A := k.body.tdesc a.toNat
    let D := k.body.tdesc d.toNat
    let raises := fun (i : Instr) (c : Cause) => exec i s = .next (s.raise p w k (.plain c p.low))
    let copies := fun (i : Instr) =>
      (A.dense = false → k.body.maxrank < A.rank → raises i .rank) ∧
      (A.dense = true ∨ A.rank ≤ k.body.maxrank →
        (k.fits d.toNat A = false → raises i .slab) ∧
        (k.fits d.toNat A = true → WritesTile s p w k i d.toNat A (k.body.mreg a.toNat).img))
    copies (.mmov a d) ∧ (A.dense = true → copies (.mdens a d)) ∧
    WritesTile s p w k (.mzero d) d.toNat { D with rank := 0, sc := false, win := 0, soff := 0 } [] ∧
    (k.decl.acc ≤ c.toNat → raises (.mdrain c d) .perm ∧ raises (.aclr c) .perm) ∧
    (c.toNat < k.decl.acc →
      let t := { D with dense := true, rank := 1, sc := false, win := 0, soff := 0 }
      let el := fun i j => (k.body.acc c.toNat).at_ i j
      (k.fits d.toNat t = false → raises (.mdrain c d) .slab) ∧
      (k.fits d.toNat t = true → (∀ i j, i < D.rows → j < D.cols → (el i j).ok = true) →
        WritesTile s p w k (.mdrain c d) d.toNat t (packRows t.format.width ((span 0 D.rows).map fun i =>
          (span 0 D.cols).map fun j => convert .f32 t.format 0 (el i j).data.toNat))) ∧
      ∃ t w', exec (.aclr c) s = .next t ∧ Effect s t p w w'
        { k with body := { k.body with accs := k.body.accs.set c.toNat ⟨[]⟩ } } (fun _ => False) (fun _ => False) fun _ => p.after)

/-- R282 to R285: `mma` and `mmaz` complete: `mma` adds the product of two sound tiles to the accumulator's region, k-step after k-step, `mmaz` after
setting the region to +0; a zero tile adds nothing; the k-steps are counted, and nothing else changes. R283: one k-step
changes an element of the region to the k-step of the element with its row of the left tile and its column of the right
one. -/
def Obligations.MultiplyAccumulate : Prop :=
  (∀ (s : State) (p : Pod) (w : Wave) (k : Crew) (a b : BitVec 5) (c : BitVec 3), Issuing s p w k →
    AtArray s p w k [] [a.toNat, b.toNat] → c.toNat < k.decl.acc → w.mma = none → p.klim = none →
    let A := k.body.tdesc a.toNat
    let B := k.body.tdesc b.toNat
    let img := fun (n : BitVec 5) => (k.body.mreg n.toNat).img
    let good := fun (n : BitVec 5) => ∀ u ∈ (img n).take (ceilDiv (k.body.tdesc n.toNat).size 4), u.ok = true
    let acc := k.body.acc c.toNat
    let sum := fun (i : Instr) (start : Map GUnit) (g n : Nat) =>
      let G := mmaGrids A B (img a) (img b)
      let el := if A.rank = 0 ∨ B.rank = 0 then start else mmaSteps G.1 G.2 B.cols g 0 n start
      ∃ t w', exec i s = .next t ∧ Effect s t p w w'
        { k with ksteps := (k.ksteps + n) % 2 ^ 32, body := { k.body with accs := k.body.accs.set c.toNat ⟨el⟩ } }
        (fun _ => False) (fun _ => False) fun _ => p.after
    (mmaForm A B = none → exec (.mma b a c) s = .next (s.raise p w k (.plain .align p.low)) ∧
      exec (.mmaz b a c) s = .next (s.raise p w k (.plain .align p.low))) ∧
    ∀ g n, mmaForm A B = some (g, n) → good a → good b →
      ((∀ i j, i < A.rows → j < B.cols → (acc.at_ i j).ok = true) → sum (.mma b a c) acc.el g n) ∧
      sum (.mmaz b a c) (acc.el.filter fun e => !(decide (e.1 / 64 < A.rows) && decide (e.1 % 64 < B.cols))) g n) ∧
  ∀ (L R : Grid) (n g st : Nat) (el : Map GUnit) (i j : Nat) (row : List Elem), L.rows[i]? = some row → j < n → n ≤ 64 →
    ((mmaStep L R n g st el).getD (64 * i + j) .zero) =
      coded (kstep (el.getD (64 * i + j) .zero).data L.fmt R.fmt
        (((row.drop (g * st)).take g).zipWith (fun x y => (x.1, y.1, x.2 + y.2))
          (((R.rows.map fun r => r.getD j (0, 0)).drop (g * st)).take g)))

/-- R140, R141, R268, R282 to R284, R287 and R288: what the functions that the tile instructions are stated with give. The grids of a
tile are its packed elements with their block scales; the group rule adds the groups of a dot product in turn; and which forms `mmul`
and the multiply-accumulates accept, what they multiply, and every element of the images of `mmul` and `madd`. A sum of two
dense tiles rounds the exact scaled values without the saturation of R142 (DESIGN CHOICE, log 100). -/
def Obligations.TileFunctions : Prop :=
  let halves : List Fmt := [.f16, .bf16]
  let eights : List Fmt := [.f8e4, .f8e5]
  let shaped := fun (t : TDesc) => t.rows % 8 = 0 ∧ t.cols % 8 = 0
  let dot := fun (X Y : Grid) g i j => groupRule 0 X.fmt Y.fmt g (X.row i) (Y.col j)
  (∀ (t : TDesc) (img : List GUnit), shaped t →
    let G := denseGrid t img
    let U := gridU t img
    let V := gridV t img
    (G.fmt, U.fmt, V.fmt) = (t.format, t.format, t.format) ∧
    (G.rows.length, U.rows.length, V.rows.length) = (t.rows, t.rows, t.rank) ∧
    (∀ i j, i < t.rows → j < t.cols → G.el i j = (codeAt img t.format.width (i * t.cols + j),
      if t.sc = true then scaleOf (codeAt img 8 (t.gridBytes + 8 * i + t.soff + j / 32)) else 0)) ∧
    (∀ i j, i < t.rows → j < t.rank → U.el i j = (codeAt img 16 (i * t.rank + j), 0)) ∧
    ∀ i j, i < t.rank → j < t.cols → V.el i j = (codeAt img 16 (t.rows * t.rank + i * t.cols + j), 0)) ∧
  (∀ (start : Word) (Fa Fb : Fmt) (g : Nat) (xs ys : List Elem), 0 < g → xs.length = ys.length →
    (xs = [] → groupRule start Fa Fb g xs ys = start) ∧
    (xs ≠ [] → groupRule start Fa Fb g xs ys = groupRule
      (kstep start Fa Fb ((xs.take g).zipWith (fun x y => (x.1, y.1, x.2 + y.2)) (ys.take g))) Fa Fb g (xs.drop g) (ys.drop g))) ∧
  (∀ (A B : Grid) (n g i j : Nat), i < A.rows.length → j < n → ((mulGrid A B n g).getD i []).getD j 0 = dot A B g i j) ∧
  (∀ (start : List (List Word)) (U V : Grid) (n i j : Nat), i < start.length → i < U.rows.length → j < n →
    j < (start.getD i []).length → ((addFactored start U V n).getD i []).getD j 0 =
      groupRule ((start.getD i []).getD j 0) U.fmt V.fmt 16 (U.row i) (V.col j)) ∧
  (∀ F G : Fmt, pairGroup F G = if F ∈ halves ∧ G ∈ halves then some 16 else if F ∈ eights ∧ G ∈ eights then some 32
    else if F = .i8 ∧ G = .i8 then some 32 else if F = .ln6 ∧ G = .ln6 then some 64 else none) ∧
  (∀ a b d : TDesc,
    let half := fun (t : TDesc) => t.format ∈ halves ∧ t.sc = false
    let tile := fun (dense : Bool) (r : Nat) =>
      some { d with rows := a.rows, cols := b.cols, dense := dense, rank := r, sc := false, win := 0, soff := 0 }
    let none_ := a.rank = 0 ∨ b.rank = 0
    let factored := half a ∧ half b ∧ d.format ∈ halves
    (a.cols ≠ b.rows → mmulForm a b d = none ∧ mmaForm a b = none) ∧
    (a.cols = b.rows → a.dense = true → b.dense = true →
      (pairGroup a.format b.format = none → mmulForm a b d = none ∧ mmaForm a b = none) ∧
      ∀ g, pairGroup a.format b.format = some g →
        mmulForm a b d = tile true (if none_ then 0 else 1) ∧ mmaForm a b = some (g, (a.cols + g - 1) / g)) ∧
    (a.cols = b.rows → a.dense = false ∨ b.dense = false →
      (¬factored → mmulForm a b d = none) ∧
      (factored → mmulForm a b d = tile false (if none_ then 0 else if a.dense = true then b.rank
        else if b.dense = true then a.rank else min a.rank b.rank))) ∧
    (a.cols = b.rows → a.dense = true → b.dense = false → half b →
      (half a → mmaForm a b = some (16, (b.rank + 15) / 16)) ∧ (¬half a → mmaForm a b = none)) ∧
    (a.cols = b.rows → a.dense = false → b.dense = true → half a →
      (half b → mmaForm a b = some (16, (a.rank + 15) / 16)) ∧ (¬half b → mmaForm a b = none)) ∧
    (a.dense = false → b.dense = false → mmaForm a b = none)) ∧
  (∀ (a b : TDesc) (ia ib : List GUnit),
    (a.dense = true → b.dense = true → mmaGrids a b ia ib = (denseGrid a ia, denseGrid b ib)) ∧
    (a.dense = true → b.dense = false →
      mmaGrids a b ia ib = (grid32 (mulGrid (denseGrid a ia) (gridU b ib) b.rank 16), gridV b ib)) ∧
    (a.dense = false → b.dense = true →
      mmaGrids a b ia ib = (gridU a ia, grid32 (mulGrid (gridV a ia) (denseGrid b ib) b.cols 16)))) ∧
  (∀ (a b d t : TDesc) (ia ib : List GUnit), shaped a → shaped b → mmulForm a b d = some t → t.rank ≠ 0 →
    let A := denseGrid a ia
    let B := denseGrid b ib
    let X := grid32 (mulGrid (gridV a ia) (gridU b ib) b.rank 16)
    let out := fun w n => codeAt (mmulImage a b t ia ib) w n
    let c := fun (x : Word) => convert .f32 t.format 0 x.toNat
    let re := fun (F : Fmt) (x : Nat) => if F = t.format then x else convert F t.format 0 x
    let U := fun (r : Nat) (f : Nat → Nat → Nat) => ∀ i k, i < a.rows → k < r → out 16 (i * r + k) = f i k
    let V := fun (r : Nat) (f : Nat → Nat → Nat) => ∀ k j, k < r → j < b.cols → out 16 (a.rows * r + k * b.cols + j) = f k j
    (a.dense = true → b.dense = true → ∀ g, pairGroup a.format b.format = some g → ∀ i j, i < a.rows → j < b.cols →
      out t.format.width (i * b.cols + j) = c (dot A B g i j)) ∧
    (a.dense = true → b.dense = false → U b.rank (fun i k => c (dot A (gridU b ib) 16 i k)) ∧
      V b.rank fun k j => re b.format ((gridV b ib).el k j).1) ∧
    (a.dense = false → b.dense = true → U a.rank (fun i k => re a.format ((gridU a ia).el i k).1) ∧
      V a.rank fun k j => c (dot (gridV a ia) B 16 k j)) ∧
    (a.dense = false → b.dense = false →
      (b.rank < a.rank → U b.rank (fun i k => c (dot (gridU a ia) X 16 i k)) ∧
        V b.rank fun k j => re b.format ((gridV b ib).el k j).1) ∧
      (a.rank ≤ b.rank → U a.rank (fun i k => re a.format ((gridU a ia).el i k).1) ∧
        V a.rank fun k j => c (dot X (gridV b ib) 16 k j)))) ∧
  (∀ (a b t : TDesc) (ia ib : List GUnit), shaped a → shaped b → (b.rows, b.cols) = (a.rows, a.cols) →
    (t.rows, t.cols) = (a.rows, a.cols) →
    let out := fun w n => codeAt (maddImage a b t ia ib) w n
    let c := fun (x : Word) => convert .f32 t.format 0 x.toNat
    let re := fun (F : Fmt) (x : Nat) => if F = t.format then x else convert F t.format 0 x
    let wide := fun (F : Fmt) (l : List Elem) => l.map fun x => (convert F .f32 0 x.1, (0 : ℤ))
    let dense := fun (f : Nat → Nat → Nat) => ∀ i j, i < a.rows → j < a.cols → out t.format.width (i * a.cols + j) = f i j
    let mixed := fun (x y : TDesc) (ix iy : List GUnit) => dense fun i j =>
      c (groupRule (elem32 x.format ((denseGrid x ix).el i j)) y.format y.format 16 ((gridU y iy).row i) ((gridV y iy).col j))
    (a.dense = true → b.dense = true → dense fun i j =>
      let x := (denseGrid a ia).el i j
      let y := (denseGrid b ib).el i j
      t.format.encode 0 false (((a.format.decode x.1).scale x.2).add ((b.format.decode y.1).scale y.2))) ∧
    (a.dense = true → b.dense = false → mixed a b ia ib) ∧ (a.dense = false → b.dense = true → mixed b a ib ia) ∧
    (a.dense = false → b.dense = false → t.dense = true → dense fun i j => c (groupRule 0 .f32 .f32 16
      (wide a.format ((gridU a ia).row i) ++ wide b.format ((gridU b ib).row i))
      (wide a.format ((gridV a ia).col j) ++ wide b.format ((gridV b ib).col j)))) ∧
    (a.dense = false → b.dense = false → t.dense = false → t.format ∈ halves →
      let r := a.rank + b.rank
      (∀ i k, i < a.rows → k < r → out 16 (i * r + k) = if k < a.rank then re a.format ((gridU a ia).el i k).1
        else re b.format ((gridU b ib).el i (k - a.rank)).1) ∧
      ∀ k j, k < r → j < a.cols → out 16 (a.rows * r + k * a.cols + j) = if k < a.rank then re a.format ((gridV a ia).el k j).1
        else re b.format ((gridV b ib).el (k - a.rank) j).1)) ∧
  (∀ a b : Dec, (a.cls = .zero ↔ a.finite ∧ a.m = 0) → (b.cls = .zero ↔ b.finite ∧ b.m = 0) →
    (a.finite → b.finite → (a.add b).finite ∧ (a.add b).val = a.val + b.val ∧
      (a.val + b.val = 0 → (a.add b).cls = .zero ∧ ((a.add b).s = true ↔ a.cls = .zero ∧ b.cls = .zero ∧ a.s = true ∧ b.s = true))) ∧
    (a.cls = .nan ∨ b.cls = .nan ∨ (a.cls = .inf ∧ b.cls = .inf ∧ a.s ≠ b.s) → (a.add b).cls = .nan) ∧
    (a.cls = .inf → b.finite ∨ (b.cls = .inf ∧ a.s = b.s) → a.add b = a) ∧ (b.cls = .inf → a.finite → a.add b = b) ∧
    (∀ e : ℤ, a.cls = .finite → (a.scale e).cls = .finite ∧ (a.scale e).val = a.val * 2 ^ e) ∧
    ∀ e : ℤ, a.cls ≠ .finite → a.scale e = a) ∧
  ∀ (F : Fmt) (x : Elem), (F.decode x.1).cls = .finite →
    let v := (F.decode x.1).val * 2 ^ x.2
    let top : ℚ := (flt32.decode 0x7F7FFFFF).val
    (|v| ≤ top → flt32.Rounds 0 (· ≤ v) (v ≤ ·) (elem32 F x).toNat) ∧
    (top < |v| → x.2 ≠ 0 → (elem32 F x).toNat = flt32.sign (decide (v < 0)) 0x7F7FFFFF)

/-- R290 and R291: `mrecomp` of a factored tile and `mfact` of a dense one raise ALIGN for another form; otherwise, with a
sound source, both complete and write a factored tile: rank 0 from a zero tile, rank 1 of NaNs from a tile with a NaN or an infinity,
the recompression else; SLAB when it does not fit. The recompression's steps: the columns that step 1 makes orthogonal one after
the other, the core of step 2, the rotations of step 3, and the columns that steps 4 to 6 keep, those of the greatest singular
values above the threshold, at most MAXRANK. -/
def Obligations.Recompression : Prop :=
  let dot := fun (a b : List Word) => (a.zip b).foldl (fun s y => ffma32 0 y.1 y.2 s) 0
  let one : Word := 0x3F800000
  let minus := fun (w : Word) => w ^^^ 0x80000000
  (∀ (cols : List (List Word)) (x : List Word),
    let g := gramSchmidt cols
    let h := gramSchmidt (cols ++ [x])
    let zero := fun (w : Word) => isNan32 w = false ∧ num32 w = 0
    gramSchmidt [] = ([], []) ∧ g.1.length = cols.length ∧ g.2.length = cols.length ∧
    let away := fun (q c : List Word) => c.zipWith (fun a b => ffma32 0 (minus (dot c q)) a b) q
    let left := fun n => ((g.1 ++ g.1).take n).foldl away x
    let y := left (2 * cols.length)
    let nrm := fsqrt32 0 (dot y y)
    ∃ q r, h.1 = g.1 ++ [q] ∧ h.2.getD cols.length [] = r ∧ r.length = cols.length + 1 ∧ q.length = y.length ∧
      (∀ j, j < y.length → (zero nrm → q.getD j 0 = 0) ∧ (¬zero nrm → q.getD j 0 = fdiv32 0 (y.getD j 0) nrm)) ∧
      r.getD cols.length 0 = nrm ∧ ∀ i, i < cols.length →
        let c := g.1.getD i []
        r.getD i 0 = fadd32 0 (fadd32 0 0 (dot c (left i))) (dot c (left (cols.length + i)))) ∧
  (∀ (C W : List (List Word)) (p q : Nat), p < q → q < C.length → W.length = C.length →
    (∀ c ∈ C, c.length = C.length) → (∀ c ∈ W, c.length = C.length) →
    let t := rotate (C, W) (p, q)
    let cp := C.getD p []
    let cq := C.getD q []
    let ga := dot cp cq
    (isNan32 ga = true ∨ num32 ga = 0 → t = (C, W)) ∧
    (isNan32 ga = false → num32 ga ≠ 0 →
      let ze := fdiv32 0 (fsub32 0 (dot cq cq) (dot cp cp)) (fadd32 0 ga ga)
      let t0 := fdiv32 0 one (fadd32 0 (ze &&& 0x7FFFFFFF) (fsqrt32 0 (fadd32 0 one (fmul32 0 ze ze))))
      let tt := if isNan32 ze = false ∧ num32 ze < 0 then minus t0 else t0
      let cs := fdiv32 0 one (fsqrt32 0 (fadd32 0 one (fmul32 0 tt tt)))
      let sn := fmul32 0 cs tt
      ∀ X Y : List (List Word), (X = C ∧ Y = t.1) ∨ (X = W ∧ Y = t.2) → Y.length = X.length ∧
        (∀ j, j ≠ p → j ≠ q → Y.getD j [] = X.getD j []) ∧
        ∀ i, i < C.length →
          let xp := (X.getD p []).getD i 0
          let xq := (X.getD q []).getD i 0
          (Y.getD p []).getD i 0 = ffma32 0 cs xp (minus (fmul32 0 sn xq)) ∧
          (Y.getD q []).getD i 0 = ffma32 0 sn xp (fmul32 0 cs xq))) ∧
  (∀ (U Vt : List (List Word)) (mode : Bool) (tol : Word) (maxrank m n : Nat), Vt.length = U.length →
    (∀ c ∈ U, c.length = m) → (∀ c ∈ Vt, c.length = n) →
    let r := U.length
    let gu := gramSchmidt U
    let gv := gramSchmidt Vt
    let row := fun (g : List (List Word)) i => g.map fun c => c.getD i 0
    let core := (List.range r).map fun j => (List.range r).map fun i => dot (row gu.2 i) (row gv.2 j)
    let ident := (List.range r).map fun j => (List.range r).map fun i => if i = j then one else 0
    let pairs := (List.range r).flatMap fun p => ((List.range r).filter fun q => decide (p < q)).map fun q => (p, q)
    let st := (List.range 8).foldl (fun st _ => pairs.foldl rotate st) (core, ident)
    let sig := fun k => fsqrt32 0 (dot (st.1.getD k []) (st.1.getD k []))
    let above := fun (a b : Word) => isNan32 a = false ∧ isNan32 b = false ∧ num32 b < num32 a
    let out := recompress U Vt mode tol maxrank
    ∃ kept : List Nat, kept.Nodup ∧ (∀ k ∈ kept, k < r) ∧ kept.length ≤ maxrank ∧
      (∀ i j a b : Nat, i < j → kept[i]? = some a → kept[j]? = some b → ¬above (sig b) (sig a) ∧ (num32 (sig a) = num32 (sig b) → a < b)) ∧
      (∀ k, k < r → k ∉ kept → kept.length = maxrank ∨ ∀ t, (mode = true ∧ t = tol) ∨
        (mode = false ∧ ∃ b, b < r ∧ (∀ c, c < r → ¬above (sig c) (sig b)) ∧ t = fmul32 0 tol (sig b)) → ¬above (sig k) t) ∧
      (mode = true → ∀ k ∈ kept, above (sig k) tol) ∧
      (mode = false → ∀ k ∈ kept, ∀ b, b < r → isNan32 (sig b) = false → (∀ c, c < r → ¬above (sig c) (sig b)) →
        above (sig k) (fmul32 0 tol (sig b))) ∧
      out.1.length = kept.length ∧ out.2.length = kept.length ∧
      ∀ j k, kept[j]? = some k →
        (∀ i, i < m → (out.1.getD j []).getD i 0 = dot (row gu.1 i) (st.1.getD k [])) ∧
        ∀ l, l < n → (out.2.getD j []).getD l 0 = dot (row gv.1 l) (st.2.getD k [])) ∧
  ∀ (s : State) (p : Pod) (w : Wave) (k : Crew) (a d : BitVec 5), Issuing s p w k →
    AtArray s p w k [0x020, 0x021] [a.toNat, d.toNat] →
    let A := k.body.tdesc a.toNat
    let D := k.body.tdesc d.toNat
    let I := (k.body.mreg a.toNat).img
    let raises := fun (i : Instr) (c : Cause) => exec i s = .next (s.raise p w k (.plain c p.low))
    let half := D.format = .f16 ∨ D.format = .bf16
    let tol := (k.body.tol.getLsbD 32, k.body.tol.setWidth 32)
    let ident := (span 0 A.cols).map fun j => (span 0 A.cols).map fun i => if i = j then (0x3F800000 : Word) else 0
    let writes := fun (i : Instr) (special : Bool) (U Vt : List (List Word)) =>
      let f := recompress U Vt tol.1 tol.2 k.body.maxrank
      let o : TileOut := if A.rank = 0 then (D.result A.rows A.cols false 0, [])
        else if special then factoredOut D A.rows A.cols [List.replicate A.rows 0x7FC00000] [List.replicate A.cols 0x7FC00000]
        else factoredOut D A.rows A.cols f.1 f.2
      (k.fits d.toNat o.1 = false → raises i .slab) ∧ (k.fits d.toNat o.1 = true → WritesTile s p w k i d.toNat o.1 o.2)
    (A.dense = true ∨ ¬half → raises (.mrecomp a d) .align) ∧
    (A.dense = false ∨ ¬half → raises (.mfact a d) .align) ∧
    ((∀ u ∈ I.take (ceilDiv A.size 4), u.ok = true) → half →
      (A.dense = false → writes (.mrecomp a d) ((gridU A I).special || (gridV A I).special)
        (transposed A.rank 0 (gridU A I).words) (gridV A I).words) ∧
      (A.dense = true → writes (.mfact a d) (denseGrid A I).special (transposed A.cols 0 (denseGrid A I).words) ident))

/-- R275 to R279: matrix and accumulator loads complete and replace the register with the units read, unchanged: for `mld` a dense
tile, with its scales and their window when the lines carry a window's tag. Matrix and accumulator stores complete and write the
register's units, unchanged, at their places, up to a unit that a PCIe port refuses (R20): in the scratchpad, and, where no line
leaves a cache to make room, in memory (R71); what lies outside the places that translation gives is unchanged where no line leaves
a cache or passes to another context. That each access performs once, at its issue and in program order, is the model's choice
(DESIGN CHOICE, log 3); that the row's tag is looked at before SLAB is read from the rules (DEDUCED, log 23). `s1` is the state
after translation. -/
def Obligations.MatrixLoadsAndStores : Prop :=
  ∀ (s : State) (p : Pod) (w : Wave) (k : Crew) (pt : BitVec 6) (ip : BitVec 1) (bs : BitVec 2) (a : BitVec 4) (d : BitVec 5)
    (c : BitVec 3) (va : Nat), Issuing s p w k →
    Granted k [.ofS a, .ofS pt] → Sound w p [.ofS a, .ofS pt] →
    matBase w k bs.toNat (.ofS a) = some va → va % 4 = 0 → s.throttled p w [(p.low, some va)] = false →
    let s0 := s.unheld p w
    let T := k.body.tdesc d.toNat
    let img := (k.body.mreg d.toNat).img
    let pitch := (w.word (.ofS pt) 0).toInt
    let rowUnits := T.cols * T.format.width / 8 / 4
    let loads := fun (i : Instr) (s1 : State) (places : List Slotted) (body : List GUnit → CrewBody) =>
      ∃ t w' k' us, exec i s = .next t ∧ Kept s t p w w' { k with body := body us } (fun _ => False) p.on ∧
        w'.idempc = w.idempc ∧ t.crew? p.core w.crew = some k' ∧ k'.body = body us ∧ k'.spad = k.spad ∧
        us.length = places.length ∧ (Steady s1 t → SameMemory s1 t) ∧
        (∀ (j : Nat) x q, places[j]? = some x → x.at_ = .spad q → us[j]? = some (k.spadGet q)) ∧
        ∀ (j : Nat) x pa bind ms cz, places[j]? = some x → x.at_ = .mem pa bind ms cz → pa < hbmSize → Undisturbed s1 t →
          us[j]? = some (s1.sees p.core k.ctx pa)
    let tile := fun (t : TDesc) us => { k.body with mregs := k.body.mregs.set d.toNat ⟨t.toBits, padImage t us⟩ }
    let stores := fun (i : Instr) (n : Nat) (vas : List (Nat × Option Nat)) (unit : Nat → GUnit) =>
      ∀ places s1, s0.gather p w k .write 4 n vas = (.ok places, s1) →
      ∃ t w' k', exec i s = .next t ∧ Kept s t p w w' k (fun _ => False) p.on ∧ t.crew? p.core w.crew = some k' ∧
        w'.idempc = (if ip = 1#1 then w.clearIdem.idempc else w.idempc) ∧
        (Undisturbed s1 t → SameStacks s1 t) ∧ (Steady s1 t → SameMemoryBut (placed places) s1 t) ∧
        (∀ y, ¬spadPlaced places (y / 4) → k'.spadGet y = k.spadGet y) ∧
        ∀ (j : Nat) x, places[j]? = some x →
          (∀ (i : Nat) y, places[i]? = some y → y.at_.refuses (unit i) = false) →
          (∀ q, x.at_ = .spad q → ¬spadPlaced (places.drop (j + 1)) (q / 4) → k'.spadGet q = unit j) ∧
          ∀ pa bind ms cz, x.at_ = .mem pa bind ms cz → pa < hbmSize → Undisturbed s1 t →
            ¬placed (places.drop (j + 1)) (pa / 4) → t.peek p.core pa = unit j
    (AtArray s p w k [8 + bs.toNat] [d.toNat] →
      (∀ t n places s1, pitch % 4 = 0 → T.dense = true →
        t = { T with dense := true, rank := 1, sc := false, win := 0, soff := 0 } → n = T.cols * T.format.width / 8 →
        T.cols * T.format.width % 32 = 0 → s0.peekWindow p w k va = some none → k.fits d.toNat t = true →
        s0.gather p w k .read 4 (n / 4) (rowVas p va pitch T.rows) = (.ok places, s1) →
        ((s1.tagsOf places).1.all fun x => x == none) = true → loads (.mld pt bs a d) s1 places (tile t)) ∧
      (∀ v m t n places s1, pitch % 4 = 0 → T.dense = true → s0.peekWindow p w k va = some (some (m, v)) →
        t = { T with dense := true, rank := 1, fmt := v.fmtCode, sc := true, win := m, soff := 0 } →
        n = T.cols * t.format.width / 8 → T.cols * t.format.width % 32 = 0 →
        s0.gather p w k .read 4 (n / 4) (rowVas p va pitch T.rows) = (.ok places, s1) →
        ((s1.tagsOf places).1.all fun x => x == some m) = true →
        let pas := (firstOf (n / 4) places).map fun x => paOf x.at_
        let t' := { t with soff := v.scaleAddr (pas.headD 0) % 4 }
        windowRows v T.cols pas = true → k.fits d.toNat t' = true →
        let s2 := ((s1.tagsOf places).2.loadAll p w k false places).2
        loads (.mld pt bs a d) s1 places fun us => tile t' (us ++ (s2.scaleAreas v T.cols pas).1.map fun x => x.1)) ∧
      (pitch % 4 = 0 → T.dense = true → T.cols * T.format.width % 32 = 0 →
        stores (.mst pt ip bs a d) rowUnits (rowVas p va pitch T.rows) fun j => img.getD j .zero) ∧
      (T.dense = false → stores (.mstf ip bs a d) (T.size / 4) (if T.rank = 0 then [] else [(p.low, some va)])
        fun j => img.getD j .zero)) ∧
    (AtArray s p w k [8 + bs.toNat, 0x021] [d.toNat] →
      ∀ t places s1, T.dense = false → t = { T with sc := false, win := 0, soff := 0 } → T.rank ≤ k.body.maxrank →
        k.fits d.toNat t = true →
        s0.gather p w k .read 4 (t.size / 4) (if t.rank = 0 then [] else [(p.low, some va)]) = (.ok places, s1) →
        loads (.mldf bs a d) s1 places (tile t)) ∧
    (AtArray s p w k [8 + bs.toNat] [] → c.toNat < k.decl.acc →
      ∀ rows cols pch, region (w.word (.ofS pt) 0) = (rows, cols, pch) → pch % 4 = 0 →
        (∀ places s1, s0.gather p w k .read 4 cols (rowVas p va pch rows) = (.ok places, s1) →
          loads (.ald pt bs a c) s1 places fun us =>
            let el := ((regionKeys rows cols).zip us).foldl (fun (m : Map GUnit) x => m.put x.1 x.2 .zero) (k.body.acc c.toNat).el
            { k.body with accs := k.body.accs.set c.toNat ⟨el⟩ }) ∧
        stores (.ast pt ip bs a c) cols (rowVas p va pch rows) fun j => (k.body.acc c.toNat).at_ (j / cols) (j % cols))

/-! ### Asynchronous operations -/

/-- R123 to R125, R295, R296, R298 to R301, R303 and R304: an asynchronous instruction whose records read soundly raises the trap of
the first row that holds; else an `xmcast` of no receiver does nothing; else the pod waits while 64 operations are queued, an
`xmcast` also while a save of its set is pending, and keeps the records that it read, which it then does not read again; and
otherwise it completes and joins the queue with its records, its barrier object and an edge to every earlier overlapping operation.
That the barrier offset's fault address is 6 × 2^55 + the offset (DEDUCED, log 21) and that a held `xmcast` ends its wave's window
(DEDUCED, log 38) are the model's choices. -/
def Obligations.AsyncIssue : Prop :=
  ∀ (s : State) (p : Pod) (w : Wave) (k : Crew) (h : BitVec 2) (e b a : BitVec 6), Issuing s p w k →
    Granted k [.ofS a, .s (a.toNat + 1), .ofS b, .ofS e] → Sound w p [.ofS a, .s (a.toNat + 1), .ofS b, .ofS e] →
    laneSet p.lanes = (w.mask 0).member → Clean w [parQ 0] →
    let ra := (w.word (.ofS a) 0).toNat + 2 ^ 32 * (w.word (.s (a.toNat + 1)) 0).toNat
    let bw := (w.word (.ofS b) 0).toNat
    let nb := 2 ^ 31 ≤ bw
    let off := bw % 2 ^ 18
    let issues := fun (i : Instr) (f : XForm) (mask : Nat) =>
      let served := fun (s2 : State) (ws : List Word) =>
        let traps := fun (t : Trap) => exec i s = .next (s2.raise p w ((s2.crew? p.core w.crew).getD k) t)
        let whole := nb ∨ off % 16 = 0
        let zeros := bw / 2 ^ 18 % 2 ^ 13 = 0 ∧ mask < 16
        let inside := nb ∨ off < k.decl.lines * 128
        let takes := fun (src dst : LRec) => src.Reads (ws.take 32) ∧ dst.Reads (ws.drop 32) ∧ (nb → dst.crcv = false) ∧
          src.crcv = false ∧ f.Takes src dst
        (¬whole → traps ⟨.align, p.low, 6 * 2 ^ 55 + off, none⟩) ∧
        (whole → ¬zeros → traps (.plain .perm p.low)) ∧
        (whole → zeros → ¬inside → traps ⟨.perm, p.low, 6 * 2 ^ 55 + off, none⟩) ∧
        (whole → zeros → inside → (∀ src dst, ¬takes src dst) → traps (.plain .align p.low)) ∧
        (whole → zeros → inside → ∀ src dst, takes src dst →
          let served := k.setn ≠ 0 ∧ ∀ c, c < 4 → mask.testBit c = true →
            (s2.setMember (p.core / 4 * 4 + c) k.ctx k.node k.setNo).isSome = true
          (f = .mcast → ¬served → traps (.plain .perm p.low)) ∧
          (f = .mcast → served → mask = 0 → exec i s = .next (((s2.dropRecs p).clearIdem p).retire p)) ∧
          (f ≠ .mcast ∨ (served ∧ mask ≠ 0) → 64 ≤ (s2.core p.core).ops.length →
            exec i s = .next ((s2.keepRecs p ws).heldBack p .engine)) ∧
          (f = .mcast → served → mask ≠ 0 → (s2.core p.core).ops.length < 64 → s2.setSaving p.core k = true →
            exec i s = .next (((s2.keepRecs p ws).shutWindow p).heldBack p .engine)) ∧
          (f ≠ .mcast ∨ (served ∧ mask ≠ 0 ∧ s2.setSaving p.core k = false) → (s2.core p.core).ops.length < 64 →
            ∃ t w' op, exec i s = .next t ∧ Kept s t p w w' k (fun _ => False) p.on ∧ w'.idempc = w.clearIdem.idempc ∧
              w'.recs.find p.low = none ∧ (Undisturbed s2 t → SameStacks s2 t) ∧
              (t.core p.core).ops = (s2.core p.core).ops ++ [op] ∧
              op.crew = w.crew ∧ op.ctx = k.ctx ∧ op.chan = h.toNat ∧ op.form = f ∧ op.dst = dst ∧
              op.bar = (if nb then none else some off) ∧
              op.mask = mask ∧ op.src = (if f = .tr then src.swap else src) ∧ op.started = false ∧ op.g = 0 ∧
              ((∀ a ∈ (s2.core p.core).ops, a.src.Placed ∧ a.dst.Placed) → ∀ n, n ∈ op.edges ↔
                ∃ a ∈ (s2.core p.core).ops, a.uid = n ∧ a.ctx = k.ctx ∧ ∃ line, (a.crew = w.crew ∨ line < 6 * 2 ^ 48) ∧
                  ((a.dst.Covers line ∧ (src.Covers line ∨ dst.Covers line)) ∨ (a.src.Covers line ∧ dst.Covers line)))))
      (2 ^ 58 ≤ ra → exec i s = .next (s.raise p w k (.plain .perm p.low))) ∧
      (ra < 2 ^ 58 → ∀ ws, ws.length = 64 → w.recs.find p.low = some ws → served s ws) ∧
      (ra < 2 ^ 58 → w.recs.find p.low = none →
        ∀ places s1, s.gather p w k .read 128 64 [(p.low, some ra)] = (.ok places, s1) →
        let got := (s1.loadAll p w k false places).1
        (∀ x ∈ got, x.2.1.ok = true) → served (s1.loadAll p w k false places).2 (got.map fun x => x.2.1.data))
    issues (.xcopy h b a) .copy 0 ∧ issues (.xrepack h b a) .repack 0 ∧ issues (.xtr h b a) .tr 0 ∧
    issues (.xcvt h b a) .cvt 0 ∧ issues (.xexp h b a) .exp 0 ∧ issues (.xmcast h e b a) .mcast (w.word (.ofS e) 0).toNat

/-! ### The system instructions -/

/-- R163 and R261: `exit` completes and takes the pod's threads out of their wave and its masks and gives their ids back at the end of
the crew's barrier interval; no byte changes. R180, R181 and R261: `emit` completes and puts one record of sixteen units per lane
into the bins and goes on, with the threads whose records an earlier issue took; a record goes to the bin of its crew and PC, or
else to a free bin, or else has the bin least recently filled flushed; while a record waits for a bin or for the room of a wave, the pod
is held with the records taken so far in their bins; a record with a bad entry PC raises PERM. That records go one by one in lane order,
and how a partly taken pod is held, is the model's choice (DEDUCED, log 39), and that a bin keeps the BINTO of its first record
(DESIGN CHOICE, log 96). -/
def Obligations.ThreadsExitAndEmit : Prop :=
  (∀ (s : State) (p : Pod) (w : Wave) (k : Crew), Issuing s p w k →
    ∃ t, exec .exit s = .next t ∧ SameMemory s t ∧
      (∀ w', t.wave? p.core p.slot = some w' → (∀ r l, w'.get r l = w.get r l) ∧ ∀ l ∈ p.lanes, w'.threads.find l = none ∧
        ∀ n, n < 12 → (w'.mask n).member.getLsbD l = false) ∧
      (t.ctx k.ctx).idsRet = (s.ctx k.ctx).idsRet ++ p.lanes.map fun l => ((w.thread l).id, p.core, w.crew)) ∧
  ∀ (s : State) (p : Pod) (w : Wave) (k : Crew) (a : BitVec 6), Issuing s p w k →
    let take := s.takeRecords p.core w.crew k
    let fits := fun (b : Map Bin) =>
      let f := (b.map fun e => e.2).filter fun b => b.flush && b.crew == w.crew
      let n := (f.map fun b => b.recs.length).sum
      f = [] ∨ (f.length ≤ (s.core p.core).waveRoom k.decl.vregs k.decl.sregs ∧
        ((s.core p.core).members w.crew).length + n ≤ 1024 ∧ (s.ctx k.ctx).ids.length + n ≤ 2 ^ 24)
    (∀ b, take [] b = ([], b)) ∧
    (∀ (b : Map Bin) (l : Nat) (pc : VAddr) (r : List GUnit) rest,
      let suits := fun (e : Nat × Bin) => decide (e.2.crew = w.crew ∧ e.2.pc = pc ∧ e.2.flush = false ∧ e.2.recs.length < 32)
      let got := take ((l, pc, r) :: rest) b
      let goes := fun (b' : Map Bin) => got = (l :: (take rest b').1, (take rest b').2)
      (¬fits b → got = ([], b)) ∧
      (fits b → ∀ e, b.find? suits = some e →
        goes (b.set e.1 { e.2 with recs := e.2.recs ++ [r], stamp := s.stamp, flush := decide (31 ≤ e.2.recs.length) })) ∧
      (fits b → b.find? suits = none →
        (∀ i, i < 16 → b.find i = none → (∀ j, j < i → b.find j ≠ none) →
          goes (b.set i ⟨w.crew, pc, [r], s.cycOf p.core, k.body.binto, false, s.stamp⟩)) ∧
        ((∀ i, i < 16 → b.find i ≠ none) → got.1 = [] ∧ ((∃ e ∈ b, e.2.flush = true) → got.2 = b) ∧
          ((∀ e ∈ b, e.2.flush = false) → ∃ e ∈ b, (∀ f ∈ b, e.2.stamp ≤ f.2.stamp) ∧
            got.2 = b.alter e.1 fun x => { x with flush := true })))) ∧
    let r := fun i => Reg.v (a.toNat + i)
    Granted k ((Reg.ofV a).group 16) → Sound w p [r 0, r 1] → CleanCr s p w k [0x001] →
    let pc := fun l => (w.word (r 0) l).toNat + 2 ^ 32 * (w.word (r 1) l).toNat
    let bad := fun l => decide (pc l % 2 = 1 ∨ pc l < 4 * 2 ^ 55 ∨ 5 * 2 ^ 55 ≤ pc l)
    let recs := p.lanes.map fun l => (l, BitVec.ofNat 58 (pc l), (span 0 16).map fun i => w.get (r i) l)
    let taken := (take recs (s.core p.core).bins).1
    let bins := (take recs (s.core p.core).bins).2
    let s0 := s.modCore p.core fun c => { c with bins := bins }
    let left := p.lanes.filter fun l => !taken.contains l
    (∀ l, p.lanes.find? bad = some l → exec (.emit a) s = .next (s.raise p w k (.plain .perm l))) ∧
    ((∀ l ∈ p.lanes, bad l = false) →
      (taken = [] → exec (.emit a) s = .next (s0.heldBack p .room)) ∧
      (taken ≠ [] → ∃ t w', exec (.emit a) s = .next t ∧ t.wave? p.core p.slot = some w' ∧
        w'.idempc = w.clearIdem.idempc ∧ SameMemory s t ∧ (t.core p.core).bins = bins ∧ (∀ r l, w'.get r l = w.get r l) ∧
        (∀ l th m, w.threads.find l = some th → th.hold = .emitted m → ∃ th', w'.threads.find l = some th' ∧
          let rest := m &&& ~~~ laneSet taken
          (rest = 0 → th'.hold = .ready ∧ th'.pc = th.pc + 4) ∧ (rest ≠ 0 → th'.hold = .emitted rest ∧ th'.pc = th.pc)) ∧
        (left = [] → fits bins → (∀ l ∈ p.lanes, ∃ th, w'.threads.find l = some th ∧ th.hold = .ready ∧ th.pc = p.after) ∧
          ((∀ e ∈ w.threads, ∀ m, e.2.hold ≠ .emitted m) → Kept s t p w w' k (fun _ => False) p.on)) ∧
        (left ≠ [] ∨ ¬fits bins → ∀ l ∈ p.lanes, ∃ th, w'.threads.find l = some th ∧ th.pc = p.pc ∧
          th.hold = if l ∈ taken then .emitted (laneSet (if left = [] then taken.getLast?.toList else left)) else .room)))

/-- R184, R187 and R343: `idem` and `nopre` complete: `idem` opens an idempotent region at its own PC with every thread's entry depth
noted, since the region is the wave's (DEDUCED, log 47); `nopre` opens or shortens a window, its length bounded by NOPRE and by a
window already open, none while a pre-emption is pending, and one that leaves the window as it is counts in it (DEDUCED, log 40); a
length above 65,536 raises PERM. -/
def Obligations.RegionsOpen : Prop :=
  ∀ (s : State) (p : Pod) (w : Wave) (k : Crew) (a : BitVec 6), Issuing s p w k →
    Granted k [.ofS a] → Sound w p [.ofS a] →
    let n := (w.word (.ofS a) 0).toNat
    let bound := (s.ctx k.ctx).nopre.toNat % 2 ^ 17
    let m := if w.nprem ≠ 0 then min n w.nprem else if k.preempt = none then min n bound else 0
    (laneSet p.lanes = (w.mask 0).member → Clean w [parQ 0] → ∃ t w', exec .idem s = .next t ∧ t.wave? p.core p.slot = some w' ∧
      w'.idempc = BitVec.ofNat 64 (p.pc.toNat + 1) ∧ w'.idemAcc = 0 ∧ w'.idemSince = some (s.cycOf p.core) ∧
      (∀ r l, w'.get r l = w.get r l) ∧ SameMemory s t ∧
      ∀ l th, w.threads.find l = some th → ∃ th', w'.threads.find l = some th' ∧ th'.entDepth = th.depth ∧ th'.drop = false ∧
        th'.pc = if l ∈ p.lanes then p.after else th.pc) ∧
    (CleanCr s p w k [0x041] → n > 65536 → exec (.nopre a) s = .next (s.raise p w k (.plain .perm p.low))) ∧
    (CleanCr s p w k [0x041] → n ≤ 65536 → ∃ t w', exec (.nopre a) s = .next t ∧ Kept s t p w w' k (fun _ => False) p.on ∧ SameMemory s t ∧
      w'.idempc = w.idempc ∧ w'.nprem = if m = w.nprem then m - 1 else m)

/-- R308: `cadd.n128` completes and writes the sum, modulo 2^128, of the 128-bit counter and the 64-bit number to the group of four,
whatever its source group, and nothing else. -/
def Obligations.CounterAdd : Prop :=
  ∀ (s : State) (p : Pod) (w : Wave) (k : Crew) (b a d : BitVec 6), Issuing s p w k →
    let src := (Reg.ofV a).group 4 ++ (Reg.ofS b).group 2
    Granted k ((Reg.ofV d).group 4 ++ src) → Sound w p src →
    let n := fun (w : Wave) (r : BitVec 6) l => (w.word (.v r.toNat) l).toNat + 2 ^ 32 * (w.word (.v (r.toNat + 1)) l).toNat +
      2 ^ 64 * (w.word (.v (r.toNat + 2)) l).toNat + 2 ^ 96 * (w.word (.v (r.toNat + 3)) l).toNat
    ∃ t w', exec (.caddN128 b a d) s = .next t ∧
      Effect s t p w w' k (fun r => r ∈ (Reg.ofV d).group 4) (fun _ => False) (fun _ => p.after) ∧
      ∀ l ∈ p.lanes, n w' d l = (n w a l + (w.word (.ofS b) 0).toNat + 2 ^ 32 * (w.word (.s (b.toNat + 1)) 0).toNat) % 2 ^ 128 ∧
        ∀ i, i < 4 → (w'.get (.v (d.toNat + i)) l).ok = true

/-- R307 and R309: `rng`, `tstamp` and `coreid` complete: `rng` writes the four words of the generator; `tstamp` writes the time base and `coreid` the place. -/
def Obligations.NumbersAndPlaces : Prop :=
  ∀ (s : State) (p : Pod) (w : Wave) (k : Crew) (b a d : BitVec 6), Issuing s p w k →
    let src := (Reg.ofV a).group 4 ++ (Reg.ofS b).group 2
    let times := fun (x y : Word) => x.toNat * y.toNat
    let round := fun (c : Word × Word × Word × Word × Word × Word) =>
      let (lw0, lw1, hw0, hw1, k0, k1) := c
      let m := times (hw0 + k0) 0xE35B4F27
      let n := times (hw1 ^^^ k1) 0x8B71D0A9
      let f0 := BitVec.ofNat 32 (m / 2 ^ 32) ^^^ (BitVec.ofNat 32 n).rotateLeft 5
      let f1 := BitVec.ofNat 32 (n / 2 ^ 32) + (BitVec.ofNat 32 m).rotateLeft 17
      (hw0, hw1, lw0 ^^^ f0, lw1 ^^^ f1, k0 + 0x7A4D1C93, k1.rotateLeft 3 ^^^ 0x2F58B6E1)
    let mixed := fun (ctr : List Word) (k0 k1 : Word) =>
      let (lw0, lw1, hw0, hw1, _) := (List.range 10).foldl (fun c _ => round c)
        (ctr.getD 0 0, ctr.getD 1 0, ctr.getD 2 0, ctr.getD 3 0, k0, k1)
      [lw0, lw1, hw0, hw1]
    (Granted k ((Reg.ofV d).group 4 ++ src) → Sound w p src →
      ∃ t w', exec (.rng b a d) s = .next t ∧
        Effect s t p w w' k (fun r => r ∈ (Reg.ofV d).group 4) (fun _ => False) (fun _ => p.after) ∧
        ∀ l ∈ p.lanes, ∀ i, i < 4 → w'.get (.v (d.toNat + i)) l =
          coded ((mixed ((span 0 4).map fun j => w.word (.v (a.toNat + j)) l) (w.word (.ofS b) 0)
            (w.word (.s (b.toNat + 1)) 0)).getD i 0)) ∧
    (Granted k [.ofS d, .s (d.toNat + 1)] →
      WritesPair s p w k (.tstamp d) (.ofS d) (fun _ => BitVec.ofNat 64 (s.cycle * 2 / 5)) ∧
      WritesWord s p w k (.coreid d) (.ofS d) (fun _ => BitVec.ofNat 32 (p.core + 256 * s.board.domain)))

/-! ### Checks and exceptions -/

/-- R60, R61 and R191, in the order of R214: in each of these forms a register beyond the allocation raises PERM before anything is
read; then the first failing operand of the lowest failing lane raises its CHK or HBMUE with that register and its SITE, and a
register, a mask, a predicate or a stack frame of bad parity raises CHK with SITE 0x0B at the lowest lane whose bit, or whose register,
it is. Loads, stores and atomics are stated where no throttle acts; the forms that q0 governs where it does and the engine is free. -/
def Obligations.ChecksBeforeEffects : Prop :=
  ∀ (s : State) (p : Pod) (w : Wave) (k : Crew) (a b d : BitVec 7) (x y z : BitVec 6) (q q' : BitVec 3) (m m' : BitVec 4)
    (r : BitVec 2) (vc : BitVec 5) (n ip : BitVec 1) (o : BitVec 20) (c : BitVec 12) (e : BitVec 5) (off : BitVec 8), Issuing s p w k →
    let A := Reg.of7 a
    let B := Reg.of7 b
    let D := Reg.of7 d
    let V := Reg.ofV z
    let own := fun (r : Reg) => (r, if r.uniform = true then 2 else 1)
    let checks := fun (s0 : State) (i : Instr) (ds : List Reg) (srcs : List (Reg × Nat)) =>
      ((∃ r ∈ ds ++ srcs.map fun x => x.1, k.has r = false) → exec i s = .next (s.raise p w k (.plain .perm p.low))) ∧
      (Granted k (ds ++ srcs.map fun x => x.1) → ∀ l x, (p.lanes.find? fun l => srcs.any fun x => !(w.get x.1 l).ok) = some l →
        (srcs.find? fun x => !(w.get x.1 l).ok) = some x →
        ∃ f : Chk, exec i s = .next (s0.raise p w k ⟨if (w.get x.1 l).ue then .hbmue else .chk, l, 0, some f⟩) ∧
          f.lane = l ∧ f.reg = x.1.code ∧ f.ue = (w.get x.1 l).ue ∧ f.site = if f.poison = true then 0x0A else x.2)
    let spoilt := fun (s0 : State) (i : Instr) (l : Nat) =>
      exec i s = .next (s0.raise p w k ⟨.chk, l, 0, some ⟨0x0B, 0xFF, l, 0, false, none, false⟩⟩)
    let fails := spoilt s
    let lane : List (Instr × List Reg × List Reg) := [(.iaddN32 b a d, [D], [A, B]), (.idivI32 b a d, [D], [A, B]),
      (.shlB32 b a d, [D], [A, B]), (.popcB32 a d, [D], [A]), (.faddF32 r b a d, [D], [A, B]), (.fsqrtF32 r a d, [D], [A]),
      (.ffmaF32 vc x a d r, [D], [A, .ofV x, .ofV vc]), (.fceqF32 b a q, [], [A, B]), (.icltI32 b a q, [], [A, B]),
      (.vtop a q, [], [A]), (.pack2B8 b a d, [], [A, B, D]), (.bfxN32 b a d, [D], [A, B]), (.movB32 b a d, [D], [B]),
      (.iaddN64 b a d, D.group 2, A.group 2 ++ B.group 2), (.imulwN32 b a d, D.group 2, [A, B]),
      (.uaddN32 y x z, [.ofS z], [.ofS x, .ofS y]), (.umov y z, [.ofS z], [.ofS y]), (.jmp x, [], (Reg.ofS x).group 2),
      (.cbar x, [], [.ofS x]), (.cjoin x, [], [.ofS x]), (.nopre x, [], [.ofS x]), (.wait x m q, [], [.ofS x]),
      (.bind y x z, [], (Reg.ofS x).group 2 ++ (Reg.ofS y).group 2 ++ [.ofS z]), (.binit y x, [], [.ofS x, .ofS y]),
      (.barrive y x, [], [.ofS x, .ofS y]), (.bwait x z, [.ofS z], [.ofS x]), (.bread x z, (Reg.ofS z).group 4, [.ofS x]),
      (.rwr y x, [.ofV y], [.ofS x]), (.caddN128 y x z, (Reg.ofV z).group 4, (Reg.ofV x).group 4 ++ (Reg.ofS y).group 2),
      (.rng y x z, (Reg.ofV z).group 4, (Reg.ofV x).group 4 ++ (Reg.ofS y).group 2)]
    let memory : List (Instr × List Reg × List (Reg × Nat)) := [(.ldB32 off r a d, [D], [(A, 3)]),
      (.ldB64 off r a d, D.group 2, [(A, 3)]), (.ldB128 off r a d, D.group 4, [(A, 3)]), (.stB32 off ip r a d, [D], [(A, 3)]),
      (.stB64 off ip r a d, D.group 2, [(A, 3)]), (.stB128 off ip r a d, D.group 4, [(A, 3)]),
      (.ldB32Ord m q r a d, [D], [(A, 3)]), (.ldB64Ord m q r a d, D.group 2, [(A, 3)]), (.stB32Ord m q r a d, [D], [(A, 3)]),
      (.stB64Ord m q r a d, D.group 2, [(A, 3)])]
    let g := Reg.ofV y
    let atomics : List (Instr × List Reg × List (Reg × Nat)) := [(.ataddN32 m r y a z, [V], [(A, 3), (g, 9)]),
      (.atfaddF32 m r y a z, [V], [(A, 3), (g, 9)]), (.atminI32 m r y a z, [V], [(A, 3), (g, 9)]),
      (.atmaxN32 m r y a z, [V], [(A, 3), (g, 9)]), (.atandB32 m r y a z, [V], [(A, 3), (g, 9)]),
      (.atswpB32 m r y a z, [V], [(A, 3), (g, 9)]), (.atcasB32 m r y a z, [V], [(A, 3), (g, 9), (g.plus 1, 9)]),
      (.ataddN64 m r y a z, V.group 2, [(A, 3), (g, 9), (g.plus 1, 9)]),
      (.atswpB64 m r y a z, V.group 2, [(A, 3), (g, 9), (g.plus 1, 9)]),
      (.atcasB64 m r y a z, V.group 2, [(A, 3), (g, 9), (g.plus 1, 9), (g.plus 2, 9), (g.plus 3, 9)])]
    let matrix : List (Instr × List (Reg × Nat)) := [(.mld x r m e, [(.ofS m, 3), (.ofS x, 2)]),
      (.mst x ip r m e, [(.ofS m, 3), (.ofS x, 2)]), (.mldf r m e, [(.ofS m, 3)]), (.mstf ip r m e, [(.ofS m, 3)])]
    let accs : List Instr := [.ald x r m q, .ast x ip r m q]
    let async := fun (i : Instr) (rs : List Reg) => checks s i [] ((rs.map own))
    (∀ f ∈ lane, checks s f.1 f.2.1 (f.2.2.map own)) ∧
    ((w.mask m.toNat).arrived = 0 → checks s (.qset m' m) [] [own (.ofS m')]) ∧
    (CleanCr s p w k [0x001] → Granted k (V.group 16) → checks s (.emit z) [] [own V, own (V.plus 1)]) ∧
    ((s.core p.core).throttling = false →
      (CleanCr s p w k [8 + r.toNat] → ∀ f ∈ memory, checks (s.unheld p w) f.1 f.2.1 f.2.2) ∧
      (CleanCr s p w k [8] → ∀ f ∈ atomics, checks (s.unheld p w) f.1 f.2.1 f.2.2) ∧
      (∀ f ∈ memory, Granted k (f.2.1 ++ f.2.2.map fun x => x.1) → s.crBad p w k (8 + r.toNat) = true →
        spoilt (s.unheld p w) f.1 p.low)) ∧
    (AtArray s p w k [8 + r.toNat, 0x021] [e.toNat] → (∀ f ∈ matrix, checks s f.1 [] f.2) ∧
      (q.toNat < k.decl.acc → ∀ i ∈ accs, checks s i [] [(.ofS m, 3), (.ofS x, 2)])) ∧
    (laneSet p.lanes = (w.mask 0).member → Clean w [parQ 0] →
      (∀ i ∈ ([.xcopy r y x, .xrepack r y x, .xtr r y x, .xcvt r y x, .xexp r y x] : List Instr),
        async i ((Reg.ofS x).group 2 ++ [.ofS y])) ∧
      async (.xmcast r z y x) ((Reg.ofS x).group 2 ++ [.ofS y, .ofS z])) ∧
    (k.decl.acc ≤ q.toNat → (∀ i ∈ ([.mma e e q, .mmaz e e q, .mdrain q e, .aclr q] : List Instr),
        exec i s = .next (s.raise p w k (.plain .perm p.low))) ∧
      (Granted k [.ofS m, .ofS x] → ∀ i ∈ accs, exec i s = .next (s.raise p w k (.plain .perm p.low)))) ∧
    (∀ f ∈ ([(.pand q' q q, [q.toNat, q'.toNat]), (.pmov q q', [q.toNat]), (.brCond o n q, [q.toNat])] : List (Instr × List Nat)),
      ∀ l, (p.lanes.find? fun l => f.2.any fun n => w.parity.contains (parP n l)) = some l → fails f.1 l) ∧
    (∀ i ∈ ([.join m, .leave m] : List Instr), w.parity.contains (parQ m.toNat) = true → fails i p.low) ∧
    (Granted k [.ofS x] → Sound w p [.ofS x] → w.parity.contains (parQ m.toNat) = true → fails (.wait x m q) p.low) ∧
    (laneSet p.lanes = (w.mask 0).member → w.parity.contains (parQ 0) = true → fails .idem p.low) ∧
    (∀ l, (p.lanes.find? fun l => decide ((w.thread l).depth ≠ 0) && w.parity.contains (parFrame l ((w.thread l).depth - 1))) = some l →
      fails .ret l) ∧
    (∀ l, (p.lanes.find? fun l => decide (16 ≤ (w.thread l).stack.length) &&
        w.parity.contains (parFrame l ((w.thread l).depth - 16))) = some l → fails (.call o) l) ∧
    (w.inHandler = true → w.parity.contains (parCr 0x030) = true ∨ w.parity.contains (parCr 0x031) = true → fails .tret p.low) ∧
    (Granted k [.ofS z] → Sound w p [.ofS z] → s.crBad p w k 0x041 = true → fails (.nopre z) p.low) ∧
    (Granted k [.ofS z, .s (z.toNat + 1)] → s.crBad p w k c.toNat = true → fails (.cmovRead c z) p.low)

/-- R310 to R313 and R315 to R317: what becomes of a trap without a failed check, for a crew that is no audit replay: a cause that goes
to an enabled handler enters it; inside the handler it is a context fault, DBL for UND; a pod outside the entered set waits; a
breakpoint without a handler stops the crew; everything else is a context fault. `bkpt` completes by raising BKPT, from every state;
`tret` in the handler completes and sends the pod's threads to TRAPPC and takes them out of the entered set, IN falling with the
last, and outside the handler it raises UND. That a context fault leaves the TRAP registers (DEDUCED, log 12), and that a pod with some
entered lanes is in the handler (DEDUCED, log 13), are the model's choices. -/
def Obligations.TrapsAndReturns : Prop :=
 (  ∀ (s : State) (p : Pod) (w : Wave) (k : Crew) (c : Cause) (lane addr : Nat), Issuing s p w k → k.replay = none →
    let t := s.raise p w k ⟨c, lane, addr, none⟩
    let on := w.ehbase.getLsbD 0 = true
    let handled := c ∈ ([.und, .conv, .align, .rank, .slab, .stack, .bkpt] : List Cause)
    let inside := ∃ l ∈ p.lanes, w.entered.getLsbD l = true
    let info := fun (inH : Nat) => BitVec.ofNat 64
      (p.word.toNat * 2 ^ 32 + lane * 2 ^ 16 + inH * 2 ^ 15 + (if p.len = 4 then 2 ^ 8 else 0) + c.code)
    let faults := fun (c : Cause) => SameMemory s t ∧ t.cores = s.cores ∧ (t.ctx k.ctx).stopping = true ∧
      ((s.ctx k.ctx).stopping = false → (t.ctx k.ctx).fault = some ⟨c, p.pc, addr % 2 ^ 58, p.core, lane, k.node⟩) ∧
      ∀ x, x ≠ k.ctx → t.ctx x = s.ctx x
    (w.inHandler = false → handled → on → ∃ w', t.wave? p.core p.slot = some w' ∧ SameMemory s t ∧ t.ctxs = s.ctxs ∧
      w'.trapcause = info 1 ∧ w'.trappc = BitVec.ofNat 64 p.pc.toNat ∧ w'.trapaddr = BitVec.ofNat 64 (addr % 2 ^ 58) ∧
      w'.entered = laneSet p.lanes ∧ w'.idempc = w.clearIdem.idempc ∧ (w'.chkinfo, w'.chkaddr, w'.ehbase) = (w.chkinfo, w.chkaddr, w.ehbase) ∧
      (∀ r l, w'.get r l = w.get r l) ∧ (∀ n l, w'.pred n l = w.pred n l) ∧ w'.q = w.q ∧
      ∀ l th, w.threads.find l = some th → ∃ th', w'.threads.find l = some th' ∧
        th'.seen = (if l ∈ p.lanes then { th with pc := BitVec.ofNat 58 (w.ehbase.toNat % 2 ^ 58 / 2 * 2) } else th).seen) ∧
    (w.inHandler = true → handled → inside → faults (if c = .und then .dbl else c)) ∧
    (w.inHandler = true → handled → ¬inside → on → t = s.hold p .handler) ∧
    (¬inside ∨ w.inHandler = false → c = .bkpt → ¬on → ∃ w' k', t.wave? p.core p.slot = some w' ∧ t.crew? p.core w.crew = some k' ∧
      SameMemory s t ∧ t.ctxs = s.ctxs ∧ k'.phase = .stopped ∧ w'.trapcause = info 0 ∧
      w'.trappc = BitVec.ofNat 64 p.pc.toNat ∧ (∀ r l, w'.get r l = w.get r l) ∧
      ∀ l ∈ p.lanes, ∃ th, w'.threads.find l = some th ∧ th.pc = p.pc ∧ th.hold = .bkpt) ∧
    (¬handled ∨ (¬on ∧ c ≠ .bkpt ∧ (w.inHandler = false ∨ ¬inside)) → faults c)) ∧
  ∀ (s : State) (p : Pod) (w : Wave) (k : Crew) (im : BitVec 6), Issuing s p w k →
    exec (.bkpt im) s = .next (s.raise p w k (.plain .bkpt p.low)) ∧
    (w.inHandler = false → exec .tret s = .next (s.raise p w k (.plain .und p.low))) ∧
    (w.inHandler = true → Clean w [parCr 0x030, parCr 0x031] → ∃ t w', exec .tret s = .next t ∧ t.wave? p.core p.slot = some w' ∧
      SameMemory s t ∧ (∀ r l, w'.get r l = w.get r l) ∧ (∀ n l, w'.pred n l = w.pred n l) ∧ w'.q = w.q ∧
      [w'.idempc, w'.chkinfo, w'.chkaddr, w'.trappc, w'.trapaddr, w'.ehbase] =
        [w.idempc, w.chkinfo, w.chkaddr, w.trappc, w.trapaddr, w.ehbase] ∧
      w'.entered = w.entered &&& ~~~ laneSet p.lanes ∧ (w'.inHandler = true ↔ w'.entered ≠ 0) ∧
      ∀ l ∈ p.lanes, ∃ th, w'.threads.find l = some th ∧ th.pc = BitVec.ofNat 58 w.trappc.toNat ∧ th.hold = .ready)

/-- R62 to R65 and R362: a failed check writes CHKINFO, with its syndrome, lane, SITE and register, and CHKADDR, and changes no register;
the first failure of an interval makes the crew roll back; with the escaped bit set, on a poisoned granule or at the second
failure it is final and faults the context, as ESC where only the escaped bit makes it so. That a final check leaves TRAPCAUSE, TRAPPC
and TRAPADDR is read from the rules (DEDUCED, log 12). -/
def Obligations.FailedChecks : Prop :=
  ∀ (s : State) (p : Pod) (w : Wave) (k : Crew) (c : Chk), Issuing s p w k → k.replay = none →
    c.lane < 32 → c.site < 256 → c.reg < 256 →
    let t := s.raise p w k c.trap
    let addr := (c.addr.getD 0) / 4 * 4
    ∃ w', t.wave? p.core p.slot = some w' ∧ (∀ r l, w'.get r l = w.get r l) ∧ (∀ n l, w'.pred n l = w.pred n l) ∧
      w'.threads = w.threads ∧ w'.q = w.q ∧
      [w'.idempc, w'.trapcause, w'.trappc, w'.trapaddr, w'.ehbase] = [w.idempc, w.trapcause, w.trappc, w.trapaddr, w.ehbase] ∧
      w'.chkaddr = BitVec.ofNat 64 addr ∧
      (w'.chkinfo.extractLsb' 56 8).toNat = c.syn.toNat ∧ (w'.chkinfo.extractLsb' 48 8).toNat = c.lane ∧
      (w'.chkinfo.extractLsb' 40 8).toNat = c.site ∧ (w'.chkinfo.extractLsb' 32 8).toNat = c.reg ∧
      w'.chkinfo.extractLsb' 5 27 = 0 ∧ w'.chkinfo.getLsbD 4 = c.ue ∧ w'.chkinfo.getLsbD 3 = c.addr.isSome ∧
      (w'.chkinfo.getLsbD 2 = true ↔ c.poison = true ∨ (k.retry = true ∧ ∃ a, k.lastBad = some a ∧ c.addr = some a)) ∧
      (w'.chkinfo.getLsbD 1 = true ↔ c.poison = true ∨ k.retry = true ∨ k.escaped = true) ∧ w'.chkinfo.getLsbD 0 = true ∧
      (c.poison = false → k.retry = false → k.escaped = false → SameMemory s t ∧ t.ctxs = s.ctxs ∧
        t.crew? p.core w.crew =
          some (({ k with retry := true, lastBad := c.addr } : Crew).setPhase (.rollback p.slot) (s.cycOf p.core))) ∧
      (c.poison = true ∨ k.retry = true ∨ k.escaped = true → (s.ctx k.ctx).stopping = false →
        (t.ctx k.ctx).stopping = true ∧ (t.ctx k.ctx).fault = some ⟨if c.poison = false ∧ k.retry = false then .esc
          else if c.ue = true then .hbmue else .chk, p.pc, addr % 2 ^ 58, p.core, c.lane, k.node⟩)

/-! ### Steps of the device -/

/-- R80, R125, R127, R129, R131, R132, R134, R202 and R300: each step of the engines completes. ENGINE_OP_DISPATCH starts an operation
that the channel may serve, or lets it leave where it has no element. ENGINE_PIECE delivers a piece whose source reads soundly, or
sends it to the receivers of a multicast: the write pointer counts the bytes that left, the operation goes on behind it, and every
granule of the place holds its unit; a piece that meets a replayable fault waits on its record, and one that meets a stop ends the
stream, with nothing of the piece delivered; that pieces are as long as their line allows is read from the rules (both DEDUCED, log
33). MULTICAST_ARRIVAL puts the piece into the receiver's scratchpad and counts it, in its barrier object too unless that lies beyond
the receiver's allocation (DEDUCED, log 37); after a failed check of a receiver's object the rest of the stream does not arrive
(DESIGN CHOICE, log 36). REMOTE_WRITE_DEPOSIT writes the register of its lanes and adds 1 to ARRIVE. -/
def Obligations.EngineSteps : Prop :=
  ∀ (s : State) (core u j : Nat) (o : AsyncOp) (k : Crew) (a : Arrival) (d : Deposit) (i : Nat) (w : Wave),
    (s.arg = .engineOpDispatch core u → (s.core core).op? u = some o → (s.core core).servable o = true →
      (o.dst.count = 0 → exec .engineOpDispatch s = .next (s.dropOp core u)) ∧
      (o.dst.count ≠ 0 → ∃ t, exec .engineOpDispatch s = .next t ∧ (t.core core).op? u = some { o with started := true } ∧
        (t.core core).waves = (s.core core).waves ∧ (t.core core).crews = (s.core core).crews ∧ SameMemory s t)) ∧
    (s.arg = .enginePiece core u → (s.core core).op? u = some o → s.crew? core o.crew = some k → o.started = true →
      o.wait = none → o.dead = none → o.g < o.dst.granules →
      let gs := pieceOf o o.g
      let src := s.sourceOf core o k gs fun s => s.pieceTo core o k
      (∀ r va s1, src = (.wait r va, s1) →
        exec .enginePiece s = .next (s1.modOp core u fun o => { o with wait := some (r, va) })) ∧
      (∀ st s1, src = (.stop st, s1) → exec .enginePiece s = .next (s1.endStream core o st)) ∧
      ∀ x xs l o' s1, src = (.ok (x, xs, l, o'), s1) →
        (∀ st s2, s1.transformed o' gs xs l = (.stop st, s2) → exec .enginePiece s = .next (s2.endStream core o st)) ∧
        ∀ us s2, s1.transformed o' gs xs l = (.ok us, s2) →
          let s3 := s2.modOp core u fun o => { o with got := o'.got }
          let at_ := fun (base i : Nat) => base + o.dst.granule i - o.dst.granule o.g
          (o.form = .mcast → exec .enginePiece s = .next (s3.sendPiece core o k gs us)) ∧
          (o.form ≠ .mcast → exec .enginePiece s = .next (s3.deliverPiece core o gs x us)) ∧
          (o.form ≠ .mcast → o.bar = none → o.chan < k.wp.length → ∃ t k', exec .enginePiece s = .next t ∧ t.crew? core o.crew = some k' ∧
            k'.wp.getD o.chan 0 = k.wp.getD o.chan 0 + 4 * ((gs.zip us).takeWhile fun e =>
              !(x.beside (o.dst.granule o.g) (o.dst.granule e.1)).refuses e.2.1).length ∧
            (∀ o1, (t.core core).op? u = some o1 → o1.g = o.g + gs.length) ∧
            (∀ off, x = .spad off → (gs.map fun i => at_ off i / 4).Nodup → ∀ e ∈ gs.zip us, k'.spadGet (at_ off e.1) = e.2.1) ∧
            ∀ pa b ms cz, x = .mem pa b ms cz → (∀ i ∈ gs, at_ pa i < hbmSize) → (gs.map fun i => at_ pa i / 4).Nodup →
              Undisturbed s2 t → ∀ e ∈ gs.zip us, t.home (at_ pa e.1) = e.2.1)) ∧
    (s.arg = .multicastArrival core j → (s.core core).arrivals[j]? = some a →
      (∀ b ∈ (s.core core).arrivals.take j, b.from_ ≠ a.from_ ∨ b.op ≠ a.op) →
      let rest := (s.core core).arrivals.eraseIdx j
      let s0 := s.modCore core fun c => { c with arrivals := rest }
      (s.setMember core a.ctx a.node a.set_ = none → exec .multicastArrival s = .next (s0.arrived a core)) ∧
      ((s.setMember core a.ctx a.node a.set_).map (fun x => x.1) = some i → s.crew? core i = some k →
        let s1 := (if a.from_ = core then s0 else s0.modCrew core i fun k => { k with escaped := true }).takePiece core i a.units
        (a.bar = none ∨ (∃ off, a.bar = some off ∧ k.decl.lines * 128 ≤ off) → exec .multicastArrival s = .next (s1.arrived a core)) ∧
        (∀ off s2, a.bar = some off →
          s1.objectArrive core i off (unitBytes (a.units.map fun x => x.2.1)) a.last = (none, s2) →
          exec .multicastArrival s = .next (s2.arrived a core)) ∧
        (∀ off c s2, a.bar = some off →
          s1.objectArrive core i off (unitBytes (a.units.map fun x => x.2.1)) a.last = (some c, s2) →
          exec .multicastArrival s = .next (match ((s2.performed a core).core a.from_).op? a.op with
            | none => s2.performed a core
            | some o => (s2.performed a core).stopStream a.from_ o (objectStop o c))) ∧
        (a.bar = none → (∀ x, (s.core a.from_).op? a.op = some x → x.dead = none) → (a.units.map fun x => x.1 / 4).Nodup →
          ∃ t k', exec .multicastArrival s = .next t ∧ t.crew? core i = some k' ∧
            k'.escaped = (k.escaped || decide (a.from_ ≠ core)) ∧
            (∀ x ∈ a.units, k'.spadGet x.1 = x.2.1) ∧ k'.decl = k.decl ∧ (t.core core).arrivals = rest ∧
            (a.from_ ≠ core → k'.wp = k.wp ∧ (t.core core).waves = (s.core core).waves) ∧ SameMemory s t))) ∧
    (s.arg = .remoteWriteDeposit core j → (s.core core).deposits[j]? = some d →
      (∀ b ∈ (s.core core).deposits.take j, b.from_ ≠ d.from_ ∨ b.crew ≠ d.crew ∨ b.slot ≠ d.slot) →
      let rest := (s.core core).deposits.eraseIdx j
      ((s.wave? core d.slot = none ∨ s.setMember core d.ctx d.node d.set_ = none) →
        exec .remoteWriteDeposit s = .next (s.modCore core fun c => { c with deposits := rest })) ∧
      (s.wave? core d.slot = some w → s.setMember core d.ctx d.node d.set_ = some (i, k) →
        (w.crew ≠ i ∨ k.decl.vregs ≤ d.reg → exec .remoteWriteDeposit s = .next (s.modCore core fun c => { c with deposits := rest })) ∧
        (w.crew = i → d.reg < k.decl.vregs → (∀ x ∈ d.units, x.1 < 32) → (d.units.map fun x => x.1).Nodup →
          ∃ t w', exec .remoteWriteDeposit s = .next t ∧ t.wave? core d.slot = some w' ∧ w'.arrive = w.arrive + 1 ∧
            (∀ x ∈ d.units, w'.get (.v d.reg) x.1 = x.2) ∧
            (∀ r l, l < 32 → ¬(r = .v d.reg ∧ l ∈ d.units.map fun x => x.1) → w'.get r l = w.get r l) ∧
            w'.threads = w.threads ∧ w'.q = w.q ∧ (t.core core).deposits = rest ∧ SameMemory s t)))

/-- R26 to R42 and R369: what a translation answers. The region decides first, then the bounds of the private area and of the
scratchpad, and a replay's pages; a buffered translation answers unless it is the first write through its leaf; else the walk
goes level by level, the leaf is judged in R38's order, and a leaf that passes has A set, and D on a write, at its home and is
buffered for its context and, for text, its die. The model's choices: a page of a replay outside its log copies raises PERM, and
the leaves of its root have MS 0 and CZ 1 (DESIGN CHOICE, log 109); only a walk enters a translation in a buffer (DESIGN CHOICE,
log 78). -/
def Obligations.TranslationOutcomes : Prop :=
  ∀ (s s1 : State) (g : Agent) (va a pte level root table size pa ctx n : Nat) (acc : Access) (e : TlbEntry) (x : Audit)
    (text : Bool) (us : List GUnit) (o : Walk),
    let r := va / 2 ^ 55
    let off := va % 2 ^ 55
    let page := va / 16384
    let c := s.ctx g.ctx
    let out := s.translate g va acc
    let fails := fun (k : Cause) (t : State) => out = (.fault k, t)
    let waits := fun (cond level : Nat) (t : State) => out = (.replay page cond level, t)
    let near := fun (e : TlbEntry) => (e ∈ (s.die g.die).tlb ∨
        (g.core < 192 ∧ (e ∈ (s.core g.core).tlb ∨ e ∈ (s.cluster (g.core / 4)).tlb))) ∧
      e.ctx = g.ctx ∧ e.text = (if text = true then some g.die else none) ∧ va / e.size = e.va / e.size
    let found := s.tlbFind g (if text = true then some g.die else none) va
    (acc = .fetch → r ≠ 4 → fails .perm s) ∧
    (acc ≠ .fetch → 7 ≤ r → fails .page s) ∧
    (acc ≠ .fetch → r = 6 → (off < 2 ^ 18 → off < g.bytes → out = (.spad off, s)) ∧
      (2 ^ 18 ≤ off ∨ g.bytes ≤ off → fails .perm s)) ∧
    (acc ≠ .fetch → r = 5 → (g.tid = none → fails .page s) ∧ ∀ tid, g.tid = some tid →
      let formed := c.privb + tid * 2 ^ c.privsz + off
      (2 ^ 30 ≤ off ∨ 2 ^ c.privsz ≤ off ∨ 2 ^ 57 ≤ formed → fails .page s) ∧
      (off < 2 ^ 30 → off < 2 ^ c.privsz → formed < 2 ^ 57 → out = s.translate g formed acc)) ∧
    (acc ≠ .fetch → r = 4 → acc.writes = true → fails .perm s) ∧
    (acc ≠ .fetch → r < 4 → ∀ u, g.audit = some u → (s.hazel.audits.find? fun y => y.uid == u) = some x →
      ((x.pages.find? fun y => y.1 == page) = none → fails .perm s) ∧
      ∀ i log, (x.pages.find? fun y => y.1 == page) = some (i, log) → out = (.mem (log + va % 16384) 0 false true, s)) ∧
    ((r < 4 ∧ acc ≠ .fetch ∧ g.audit = none ∧ text = false) ∨ (r = 4 ∧ acc.writes = false ∧ text = true) →
      root = (if text = true then c.troot g.die else c.groot) →
      (∀ e, found = some e → near e) ∧ (found = none → ∀ e, ¬near e) ∧
      (found = some e → e.size = 2 ^ (47 - 11 * level) → 1 ≤ level → level ≤ 3 → ¬(acc.writes = true ∧ e.d = false ∧ e.w = true) →
        let hit := out = (.mem (e.pa + va % e.size) e.bind e.ms e.cz, s)
        (acc = .fetch → if e.x = true then hit else fails .page s) ∧
        (acc.writes = true → if e.w = true then hit else waits 2 level s) ∧
        (acc ≠ .fetch → acc.writes = false → if e.r = true then hit else waits 3 level s)) ∧
      (found = none ∨ (found = some e ∧ acc.writes = true ∧ e.d = false ∧ e.w = true) →
        (s.inTable root 0 g.ctx = false → fails .perm (s.toOsm (.tableRegion g.ctx root va))) ∧
        (s.inTable root 0 g.ctx = true → s.walkFrom g.ctx va root 4 = (o, s1) →
          (∀ k, o = .fault k → fails k s1) ∧ (∀ cond l, o = .replay cond l → waits cond l s1) ∧
          (o = .leaf pte a level →
            let frame := field pte 47 14 * 16384
            let bad := (level = 2 ∧ field pte 24 14 ≠ 0) ∨ (level = 1 ∧ field pte 35 14 ≠ 0) ∨
              (pte.testBit 6 = true ∧ pte.testBit 5 = false) ∨ (pte.testBit 10 = true ∧ pte.testBit 11 = true) ∨
              (text = true ∧ pte.testBit 6 = true) ∨ 2 ^ 48 ≤ frame ∨ (2 ^ 41 ≤ frame ∧ frame < 2 ^ 47) ∨
              (2 ^ 47 ≤ frame ∧ (2 ^ 39 ≤ frame % 2 ^ 41 ∨ (frame - 2 ^ 47) / 2 ^ 41 = s1.board.domain))
            let passes := s1.frameOk g.ctx frame (2 ^ (47 - 11 * level)) = true
            (bad → fails .page s1) ∧
            (¬bad → ¬passes → fails .perm (s1.toOsm (.firewall g.ctx frame va))) ∧
            (¬bad → passes →
              (acc = .fetch → pte.testBit 7 = false → fails .page s1) ∧
              (acc.writes = true → pte.testBit 6 = false → waits 2 level s1) ∧
              (acc ≠ .fetch → acc.writes = false → pte.testBit 5 = false → waits 3 level s1) ∧
              ((acc = .fetch ∧ pte.testBit 7 = true) ∨ (acc.writes = true ∧ pte.testBit 6 = true) ∨
                  (acc ≠ .fetch ∧ acc.writes = false ∧ pte.testBit 5 = true) → ∃ t y,
                out = (.mem (frame + va % 2 ^ (47 - 11 * level)) (field pte 63 52) (pte.testBit 10) (pte.testBit 11), t) ∧
                t.tlbFind g (if text = true then some g.die else none) va = some y ∧
                (y.ctx, y.pa, y.size, y.bind, y.r, y.w, y.x, y.ms, y.cz) = (g.ctx, frame, 2 ^ (47 - 11 * level), field pte 63 52,
                  pte.testBit 5, pte.testBit 6, pte.testBit 7, pte.testBit 10, pte.testBit 11) ∧
                (acc.writes = true → y.d = true) ∧
                let marked := BitVec.ofNat 64 pte ||| 0x100 ||| (if acc.writes = true then 0x200 else 0)
                (root % 16384 = 0 → Undisturbed s1 t →
                  (marked = BitVec.ofNat 64 pte → SameMemory s1 t) ∧
                  (marked ≠ BitVec.ofNat 64 pte → t.home a = coded (marked.setWidth 32) ∧
                    t.home (a + 4) = coded ((marked >>> 32).setWidth 32) ∧
                    ∀ q, q / 8 ≠ a / 8 → t.home q = s1.home q)))))))) ∧
    (level + n = 3 → a = table + 8 * (va / 2 ^ (47 - 11 * level) % 2048) → s.homeGets a 2 = (us, s1) →
      let walk := s.walkFrom ctx va table (n + 1)
      (table % 16384 = 0 → table < hbmSize → Undisturbed s s1 → us = [s.home a, s.home (a + 4)] ∧ SameMemory s s1) ∧
      ((us.all fun u => u.ok) = false → walk = (.fault .page, s1.toOsm (.tableCode ctx a va))) ∧
      ((us.all fun u => u.ok) = true → pte = (us.getD 0 .zero).data.toNat + 2 ^ 32 * (us.getD 1 .zero).data.toNat →
        let next := field pte 47 14 * 16384
        let reserved := field pte 51 48 ≠ 0 ∨ field pte 13 12 ≠ 0 ∨ field pte 4 2 ≠ 0 ∨
          (pte.testBit 1 = false ∧ (field pte 63 52 ≠ 0 ∨ field pte 11 5 ≠ 0))
        (pte.testBit 0 = false → walk = (.replay 1 level, s1)) ∧
        (pte.testBit 0 = true → reserved → walk = (.fault .page, s1)) ∧
        (pte.testBit 0 = true → ¬reserved →
          (pte.testBit 1 = true → walk = if level = 0 then (.fault .page, s1) else (.leaf pte a level, s1)) ∧
          (pte.testBit 1 = false → level = 3 → walk = (.fault .page, s1)) ∧
          (pte.testBit 1 = false → level ≠ 3 → walk = if s1.inTable next 0 ctx = true then s1.walkFrom ctx va next n
            else (.fault .perm, s1.toOsm (.tableRegion ctx next va)))))) ∧
    (let b := s.osm.dbbase
      let mine := fun (i : Nat) =>
        let f := (s.osm.firewall.getD i 0).toNat
        (f / 2 ^ 14 = 1 ∧ f % 4096 = ctx) ∨ (f / 2 ^ 14 = 3 ∧ f % 4096 = (s.ctx ctx).group)
      let passes := s.frameOk ctx pa size = true
      (pa < b + 2 ^ 30 → b < pa + size →
        let q := (s.osm.qown.getD ((pa - b) / 16384) 0).toNat
        (passes ↔ size = 16384 ∧ (ctx = 0 ∨ (q.testBit 15 = true ∧ q % 4096 = ctx)))) ∧
      (¬(pa < b + 2 ^ 30 ∧ b < pa + size) → (ctx = 0 → passes) ∧ (ctx ≠ 0 →
        (pa < 2 ^ 39 → size ≤ 2 ^ 25 → (passes ↔ mine (pa / 2 ^ 25))) ∧
        (pa < 2 ^ 39 → size = 2 ^ 36 → (passes ↔ ∀ i, i < 2048 → mine (pa / 2 ^ 25 + i))) ∧
        (2 ^ 39 ≤ pa → pa < 2 ^ 40 → ¬passes) ∧
        (2 ^ 40 ≤ pa → pa < 2 ^ 41 → (passes ↔ (s.ctx ctx).pcie (pa / 2 ^ 39 - 2) = true)) ∧
        (2 ^ 47 ≤ pa → (passes ↔ (s.ctx ctx).peer ((pa - 2 ^ 47) / 2 ^ 41) = true)))))

/-- R7, R38, R42 to R47 and R49 to R51: a walk of its own ends with the state that translation leaves (`TranslationOutcomes` says what
that is), and opens no record; a record is written to its ring with the context's next sequence number (what the first one is, is the
model's choice: log 87) and interrupts once; a verdict that answers a record closes it; refused writes of the units' registers set their bit of
XLERR and change nothing else, and a write of FRCFG ignores reserved bits (DEDUCED, log 45); a completed invalidation leaves no
buffered translation that the command names, and writes dirty granules of the context back (DEDUCED, log 43). -/
def Obligations.TranslationSteps : Prop :=
  ∀ (s : State) (ctx uid core : Nat) (v : BitVec 64) (rd seq : BitVec 32) (res : BitVec 30) (r : FaultRec) (va : VAddr)
    (acc : Access),
    let xlerr := fun (i : Nat) => { s with sup := { s.sup with xlerr := s.sup.xlerr ||| (1#4 <<< i) } }
    let ring := bvf v 12 36 * 4096
    (s.arg = .pageWalk core ctx va acc → va.toNat < 5 * 2 ^ 55 → ctx < 4096 →
      let g : Agent := { unitAgent ctx with core := if core < 192 then core else 0xFFFF }
      exec .pageWalk s = .next (s.translate g va.toNat acc).2) ∧
    (s.arg = .faultRecordWrite uid → (s.recs.find? fun r => r.uid == uid && r.seq.isNone) = some r →
      let c := s.ctx r.ctx
      c.frcfg.getLsbD 0 = true → (c.frWr - c.frRd).toNat ≠ 2 ^ bvf c.frcfg 4 4 → ∃ t, exec .faultRecordWrite s = .next t ∧
        (t.ctx r.ctx).frWr = c.frWr + 1 ∧ (t.ctx r.ctx).replaySeq = c.replaySeq + 1 ∧ (t.ctx r.ctx).frIrq = true ∧
        t.out.irqs = (if c.frIrq = true then s.out.irqs else s.out.irqs ++ [(c.irq, 0)]) ∧
        (∀ x ∈ t.recs, x.uid = uid → x.seq = some c.replaySeq) ∧ (Undisturbed s t → SameStacks s t)) ∧
    (s.arg = .frcfgWrite ctx v →
      (s.inOwned ring 0 = false → exec .frcfgWrite s = .next (xlerr 3)) ∧
      (s.inOwned ring 0 = true → ∃ t, exec .frcfgWrite s = .next t ∧ SameMemory s t ∧ t.cores = s.cores ∧
        bvf (t.ctx ctx).frcfg 12 36 = bvf v 12 36 ∧ bvf (t.ctx ctx).frcfg 0 1 = bvf v 0 1 ∧
        (4 ≤ bvf v 4 4 → bvf v 4 4 ≤ 12 → bvf (t.ctx ctx).frcfg 4 4 = bvf v 4 4) ∧
        (bvf v 4 4 < 4 ∨ 12 < bvf v 4 4 → bvf (t.ctx ctx).frcfg 4 4 = bvf (s.ctx ctx).frcfg 4 4))) ∧
    (s.arg = .fridxWrite ctx rd →
      let c := s.ctx ctx
      ((c.frWr - c.frRd).toNat < (c.frWr - rd).toNat → exec .fridxWrite s = .next (xlerr 2)) ∧
      ((c.frWr - rd).toNat ≤ (c.frWr - c.frRd).toNat → ∃ t, exec .fridxWrite s = .next t ∧ SameMemory s t ∧
        t.ctx ctx = { c with frRd := rd, frIrq := false } ∧ ∀ x, x ≠ ctx → t.ctx x = s.ctx x)) ∧
    (s.arg = .replayRetry ctx res seq →
      (s.answered ctx res seq = none → exec .replayRetry s = .next (xlerr 1)) ∧
      (s.answered ctx res seq = some r → ∃ t, exec .replayRetry s = .next t ∧ (∀ x ∈ t.recs, x.uid ≠ r.uid) ∧
        t.ctxs = s.ctxs ∧ SameMemory s t ∧ ∀ c ∈ t.cores, ∀ w ∈ c.2.waves, ∀ th ∈ w.2.threads, ∀ a, th.2.hold ≠ .replay r.uid a)) ∧
    (s.arg = .replayFatal ctx res seq →
      (s.answered ctx res seq = none → exec .replayFatal s = .next (xlerr 1)) ∧
      (s.answered ctx res seq = some r → ∃ t, exec .replayFatal s = .next t ∧ ∀ x ∈ t.recs, x.uid ≠ r.uid)) ∧
    (s.arg = .replayRefused ctx v → bvf v 62 2 = 0 ∨ bvf v 62 2 = 3 → exec .replayRefused s = .next (xlerr 1)) ∧
    (s.arg = .xlinvaWrite v →
      (s.sup.xlinvc.isSome = true → exec .xlinvaWrite s = .next s) ∧
      (s.sup.xlinvc = none → bvf v 58 6 ≠ 0 ∨ bvf v 0 14 ≠ 0 → exec .xlinvaWrite s = .next (xlerr 0)) ∧
      (s.sup.xlinvc = none → bvf v 58 6 = 0 → bvf v 0 14 = 0 →
        exec .xlinvaWrite s = .next { s with sup := { s.sup with xlinva := v } })) ∧
    (∀ i : Instr, (i = .xlinvPage ∧ s.arg = .xlinvPage v ∧ v.getLsbD 45 = false) ∨
        (i = .xlinvAll ∧ s.arg = .xlinvAll v ∧ v.getLsbD 45 = true) →
      (s.sup.xlinvc.isSome = true → exec i s = .next s) ∧
      (s.sup.xlinvc = none → bvf v 48 4 ≠ 0 ∨ bvf v 1 43 ≠ 0 → exec i s = .next (xlerr 0)) ∧
      (s.sup.xlinvc = none → bvf v 48 4 = 0 → bvf v 1 43 = 0 →
        exec i s = .next { s with sup := { s.sup with xlinvc := some v } })) ∧
    (s.arg = .xlinvComplete → s.sup.xlinvc = some v → ∃ t, exec .xlinvComplete s = .next t ∧ t.sup.xlinvc = none ∧
      (Undisturbed s t → SameStacks s t) ∧ (∀ c ∈ t.cores, ∀ e ∈ c.2.tlb, e.matched v s.sup.xlinva = false) ∧
      (∀ c ∈ t.clusters, ∀ e ∈ c.2.tlb, e.matched v s.sup.xlinva = false) ∧
      ∀ c ∈ t.dies, ∀ e ∈ c.2.tlb, e.matched v s.sup.xlinva = false)

/-- R35, R65, R75 to R78, R81 to R89 and R253: what the far atomic unit, the poison of a granule, the swap of A and D, the
write-back of a line and the conversion of a block leave in memory. A far atomic and a poison work on the stack, the home slice
giving up its line; an atomic that its checks stop writes nothing; a block goes to its new allotment with the units that it held,
plainly, compressed where it fits, else parked. The model's choices: a conversion that does not fit parks the block (DEDUCED, log
44); the block of a write-back that must wait holds the request too (R86). -/
def Obligations.UnitOperations : Prop :=
  ∀ (s : State) (pa line blk allot : Nat) (op : AtomOp) (bs : List GUnit) (v : BitVec 64) (dirty : Bool) (l : L2Line) (pk : Parked),
    s.MemOk → (∀ n, ∀ e ∈ (s.ctl n).mcache, e.2.length = 16) →
    (s.l2Back (pa / 128) = none → s.farAtomic pa op bs = (.later, s) ∧ s.poisonFar pa = none) ∧
    (pa < hbmSize → s.Plain pa → s.Clean (pa / 128) →
      let far := s.farAtomic pa op bs
      let old := (span 0 op.words).map fun i => s.hbmUnit (pa + 4 * i)
      let value := old.foldr (fun u n => u.data.toNat + 2 ^ 32 * n) 0
      let good := ∀ i, i < op.words → (s.hbmUnit (pa + 4 * i)).ok = true ∧ s.poisoned (pa + 4 * i) (s.hbmUnit (pa + 4 * i)) = false
      let kept := fun (t : State) => (∀ a, t.hbmUnit a = s.hbmUnit a) ∧ t.cores = s.cores
      (pa % (4 * op.words) = 0 → (bs.all fun b => b.ok) = true → good → far.1 = .old old ∧ far.2.l2.find (pa / 128) = none ∧
        (op.apply value (bs.map fun b => b.data) = none → kept far.2) ∧
        ∀ new, op.apply value (bs.map fun b => b.data) = some new → far.2.cores = s.cores ∧
          (∀ i, i < op.words → far.2.hbmUnit (pa + 4 * i) = coded (BitVec.ofNat 32 (new / 2 ^ (32 * i)))) ∧
          ∀ a, (∀ i, i < op.words → a / 4 ≠ pa / 4 + i) → far.2.hbmUnit a = s.hbmUnit a) ∧
      (∀ b i, (bs.zipIdx.find? fun x => !x.1.ok) = some (b, i) → far.1 = .operand i b ∧ kept far.2) ∧
      (op.words = 1 → pa % 4 = 0 → (bs.all fun b => b.ok) = true →
        let u := s.hbmUnit pa
        (s.poisoned pa u = true → far.1 = .poisoned pa u ∧ kept far.2) ∧
        (s.poisoned pa u = false → u.ue = true → far.1 = .marked pa ∧ kept far.2) ∧
        (s.poisoned pa u = false → u.ue = false → u.ok = false → far.1 = .failed pa u ∧ kept far.2)) ∧
      (pa % 4 = 0 → ∃ t, s.poisonFar pa = some t ∧ t.l2.find (pa / 128) = none ∧ t.cores = s.cores ∧
        t.hbmUnit pa = ⟨(s.hbmUnit pa).data, gc8 (s.hbmUnit pa).data ^^^ 0xFF, false⟩ ∧
        (∀ a, a / 4 ≠ pa / 4 → t.hbmUnit a = s.hbmUnit a) ∧
        let list := (s.die (pa / 2 ^ 37)).poison
        (list.contains pa = true ∨ list.length < 1024 → (t.die (pa / 2 ^ 37)).poison.contains pa = true ∧ t.out = s.out) ∧
        (list.contains pa = false → 1024 ≤ list.length → (t.die (pa / 2 ^ 37)).poison = list ∧
          t.out.osm = s.out.osm ++ [.poisonFull pa]))) ∧
    (pa < hbmSize → pa % 8 = 0 → let t := s.swapAD pa v dirty
      Undisturbed s t →
      let marked := v ||| 0x100 ||| (if dirty = true then 0x200 else 0)
      ((s.home (pa + 4)).data ++ (s.home pa).data ≠ v ∨ marked = v → SameMemory s t) ∧
      ((s.home (pa + 4)).data ++ (s.home pa).data = v → marked ≠ v → t.home pa = coded (marked.setWidth 32) ∧
        t.home (pa + 4) = coded ((marked >>> 32).setWidth 32) ∧ ∀ a, a / 8 ≠ pa / 8 → t.home a = s.home a)) ∧
    (s.l2.find line = some l → s.Plain (128 * line) → ∃ t, s.l2Back line = some t ∧
      t.l2.find line = some { l with dirty := 0 } ∧ t.cores = s.cores ∧
      (∀ i, i < 32 → t.hbmUnit (128 * line + 4 * i) =
        if l.dirty.getLsbD i = true then l.units.getD i .zero else s.hbmUnit (128 * line + 4 * i)) ∧
      ∀ a, a / 128 ≠ line → t.hbmUnit a = s.hbmUnit a) ∧
    (blk < 2 ^ 28 → allot ≤ 8 → (s.metaUnit blk).ok = true → s.metaPa blk / 2048 ≠ blk → (s.blockUnits blk).length = 512 →
      let us := s.blockUnits blk
      let need := blockSize us
      let o := (s.ctl (ctlOfPa (blk * 2048))).overflow
      let plain := fun (t : State) => ∀ i, i < 512 → t.hbmUnit (blk * 2048 + 4 * i) = us.getD i .zero
      (allot = 0 → ∃ t, s.convertBlock blk allot = some t ∧ t.metaOf blk = 0 ∧ plain t ∧
        (s.parked? blk = none → t.parked? blk = none)) ∧
      (allot ≠ 0 → need ≤ allot → ∃ t, s.convertBlock blk allot = some t ∧
        (s.parked? blk = none → t.metaOf blk = BitVec.ofNat 8 (16 * need + allot) ∧ t.parked? blk = none) ∧
        (need = 8 → plain t) ∧
        (need ≠ 8 → t.storedStream blk need = some (bytesBits (streamBytes (320 * need) (encodeBlock us))))) ∧
      (allot ≠ 0 → allot < need → s.parked? blk = none →
        ((∀ i, i < 64 → (o.find i).isSome = true) → s.convertBlock blk allot = none) ∧
        ((∃ i, i < 64 ∧ o.find i = none) → ∃ t i, s.convertBlock blk allot = some t ∧ i < 64 ∧ o.find i = none ∧
          (t.ctl (ctlOfPa (blk * 2048))).overflow.find i = some ⟨blk, us, need, true⟩ ∧ t.metaOf blk = BitVec.ofNat 8 allot ∧
          ∀ a, a / 4 ≠ s.metaPa blk / 4 → t.hbmUnit a = s.hbmUnit a)) ∧
      (∀ i, allot ≠ 0 → allot < need → s.parked? blk = some (i, pk) → ∃ t, s.convertBlock blk allot = some t ∧
        (t.ctl (ctlOfPa (blk * 2048))).overflow.find i = some ⟨blk, us, need, true⟩ ∧ t.metaOf blk = BitVec.ofNat 8 allot))

/-- R65, R73, R75 to R78, R85 to R95: atomics at their units, fills and write-backs of home slices, growth records,
conversions of blocks, fusion, format windows and frame wipes complete where their rules let them, with the effects named
here (`UnitOperations` says what the far atomic unit, the swap of A and D and a conversion leave). The model's choices: a write of GRCFG
ignores reserved bits (DEDUCED, log 45); a conversion that does not fit parks the block (DEDUCED, log 44), and units that fail in
it become zero units (DESIGN CHOICE, log 77); the home slice poisons where the far unit would wait (DESIGN CHOICE, log 79); the
first sequence number is not stated (log 87); a wipe of a frame drops every copy of it (DEDUCED, log 89). -/
def Obligations.MemorySteps : Prop :=
  ∀ (s : State) (pa line n i d cl : Nat) (op : AtomOp) (us : List GUnit) (v : BitVec 64) (rd : BitVec 32) (dirty : Bool)
    (l : L2Line) (p : Parked) (reg : WinReg) (cz : Option Bool),
    (pa < hbmSize → pa % (4 * op.words) = 0 → us.length = op.operands →
      (s.arg = .homeAtomic pa (.atom op us) → exec .homeAtomic s = .next (s.homeAtomic pa op us).2) ∧
      (s.arg = .farAtomic pa (.atom op us) → (s.farAtomic pa op us).1 ≠ .later →
        exec .farAtomic s = .next (s.farAtomic pa op us).2)) ∧
    (s.arg = .farAtomic pa .poison → pa < hbmSize → pa % 4 = 0 → ∀ t, s.poisonFar pa = some t → exec .farAtomic s = .next t) ∧
    (s.arg = .homeAtomic pa (.setAD v dirty) → pa < hbmSize → pa % 8 = 0 → exec .homeAtomic s = .next (s.swapAD pa v dirty)) ∧
    (s.arg = .homeAtomic pa .poison → pa < hbmSize → pa % 4 = 0 → ∃ t, exec .homeAtomic s = .next t ∧
      (Undisturbed s t → t.home pa = ⟨(s.home pa).data, gc8 (s.home pa).data ^^^ 0xFF, false⟩ ∧
        ∀ a, a / 4 ≠ pa / 4 → t.home a = s.home a) ∧
      ((s.die (pa / 2 ^ 37)).poison.length < 1024 → (t.die (pa / 2 ^ 37)).poison.contains pa = true)) ∧
    (s.arg = .l2Fill line cz → line < hbmSize / 128 → s.l2.find line = none → ∃ t, exec .l2Fill s = .next t ∧
      (Undisturbed s t → SameMemory s t ∧ SameStacks s t ∧
        ∃ x, t.l2.find line = some x ∧ x.units = s.ctlLine line ∧ x.dirty = 0)) ∧
    (s.arg = .l2Writeback line → s.l2.find line = some l → l.dirty ≠ 0 → ∀ s1, s.l2Back line = some s1 →
      ∃ t, exec .l2Writeback s = .next t ∧ t.l2.find line = some { l with dirty := 0 } ∧ t.cores = s.cores ∧
        ∀ x, x ≠ line → t.l2.find x = s.l2.find x) ∧
    (s.arg = .growthRecordAppend n i → (s.ctl n).overflow.find i = some p → p.pending = true → s.sup.grcfg.getLsbD 0 = true →
      (s.sup.grWr - s.sup.grRd).toNat ≠ 2 ^ bvf s.sup.grcfg 4 4 → ∃ t, exec .growthRecordAppend s = .next t ∧
        t.sup.grWr = s.sup.grWr + 1 ∧ t.sup.grIrq = true ∧ (t.ctl n).seq = (s.ctl n).seq + 1 ∧
        (Undisturbed s t → (t.ctl n).overflow.find i = some { p with pending := false } ∧ SameStacks s t)) ∧
    (s.arg = .grcfgWrite v →
      (s.inOwned (bvf v 12 36 * 4096) 0 = false →
        exec .grcfgWrite s = .next { s with sup := { s.sup with grErr := s.sup.grErr ||| 2 } }) ∧
      (s.inOwned (bvf v 12 36 * 4096) 0 = true → ∃ t, exec .grcfgWrite s = .next t ∧ SameMemory s t ∧ t.cores = s.cores ∧
        bvf t.sup.grcfg 12 36 = bvf v 12 36 ∧ bvf t.sup.grcfg 0 1 = bvf v 0 1)) ∧
    (s.arg = .gridxWrite rd →
      ((s.sup.grWr - s.sup.grRd).toNat < (s.sup.grWr - rd).toNat →
        exec .gridxWrite s = .next { s with sup := { s.sup with grErr := s.sup.grErr ||| 1 } }) ∧
      ((s.sup.grWr - rd).toNat ≤ (s.sup.grWr - s.sup.grRd).toNat →
        exec .gridxWrite s = .next { s with sup := { s.sup with grRd := rd, grIrq := false } })) ∧
    (s.arg = .czcmd n v →
      let blk := bvf v 11 37
      let bad := 8 < bvf v 60 4 ∨ bvf v 48 12 ≠ 0 ∨ bvf v 1 10 ≠ 0 ∨ hbmSize ≤ blk * 2048 ∨ ctlOfPa (blk * 2048) ≠ n ∨
        (s.ctl n).czcmd.isSome = true
      (bad → exec .czcmd s = .next (s.modCtl n fun c => { c with czerr := true })) ∧
      (¬bad → exec .czcmd s = .next (s.modCtl n fun c => { c with czcmd := some (blk, bvf v 60 4) }))) ∧
    (s.arg = .czcmdComplete n → ∀ blk allot s1, (s.ctl n).czcmd = some (blk, allot) → s.convertBlock blk allot = some s1 →
      exec .czcmdComplete s = .next (s1.modCtl n fun c => { c with czcmd := none })) ∧
    (s.arg = .fuse cl → s.headDown cl = some .fuse → ∃ t, exec .fuse s = .next t ∧ (Undisturbed s t → SameStacks s t) ∧
      ((t.cluster cl).fused = true ↔ (s.cluster cl).fused = true ∨ (s.clusterCtxs cl).length ≤ 1) ∧
      ((t.cluster cl).fused = true → (s.cluster cl).fused = false → ∀ j, j < 4 → (t.core (cl * 4 + j)).l1 = [])) ∧
    (s.arg = .unfuse cl → s.headDown cl = some .unfuse → ∃ t, exec .unfuse s = .next t ∧ (Undisturbed s t → SameStacks s t) ∧
      (t.cluster cl).fused = false ∧ ((s.cluster cl).fused = true → ∀ j, j < 4 → (t.core (cl * 4 + j)).l1 = [])) ∧
    (s.arg = .windowRegisterWrite d n reg v → d < 4 → n < 32 → ∃ t x, exec .windowRegisterWrite s = .next t ∧ SameMemory s t ∧
      (t.die d).win.find n = some x ∧
      let old := (s.die d).win.getD n .empty
      (x.a, x.l, x.s) = (old.a, old.l, old.s) ∧ x.next.isSome = true) ∧
    (s.arg = .windowChangeComplete d n → ∀ old a b c, (s.die d).win.find n = some old → old.next = some (a, b, c) →
      s.windowLines d n ⟨a, b, c, none⟩ = [] → ∃ t, exec .windowChangeComplete s = .next t ∧
        (t.die d).win.find n = some ⟨a, b, c, none⟩ ∧ SameMemory s t) ∧
    (s.arg = .frameWipe pa → pa < hbmSize → pa % 16384 = 0 → ∃ t, exec .frameWipe s = .next t ∧
      (∀ e ∈ t.l2, e.1 / 128 ≠ pa / 16384) ∧ (∀ c ∈ t.cores, ∀ e ∈ c.2.l1, e.1 / 128 ≠ pa / 16384) ∧
      (∀ c ∈ s.mem, c.1 / 16384 ≠ pa / 16384 → (∀ b, b < 8 → c.1 / 4 ≠ s.metaPa (pa / 2048 + b) / 4) → c ∈ t.mem) ∧
      (Undisturbed s t → (∀ b, b < 8 → s.metaPa (pa / 2048 + b) / 16384 ≠ pa / 16384) →
        ∀ j, j < 16384 → s.coded? ((pa + j) / 2048) = false → Memory.get t.mem (pa + j) = 0))

/-- R23, R24, R375 to R379: power and thermal events reset the package or stop it, clocks step by 100 MHz within their
bounds, and each frame of the management port that is for the device is answered as its row says; a frame for another address
is dropped. The model's choices: no frame but STATUS is served during a wipe (DEDUCED, log 46); OFF records no context fault
(DEDUCED, log 67); a chunk of an image out of order, or of a running one, is answered and not stored (DESIGN CHOICE, log 90); hashes,
signatures and addresses are opaque (DESIGN CHOICE, log 10); ATTEST without a key has an empty report (DESIGN CHOICE, log 91);
LCCMD, ATTEST and OFF before Osmium runs are answered with STATUS (DESIGN CHOICE, log 112). -/
def Obligations.BoardSteps : Prop :=
  ∀ (s : State) (d mw c : Nat) (h : Hdr) (body : List Byte) (kind : ImageKind) (ch : Nat) (last ok : Bool)
    (target : LifeCycle) (signer : Signer) (key : Option Signer) (nonce : BitVec 256) (ty : BitVec 16),
    let on := s.board.power = true ∧ s.board.boot ≠ .off
    let port := on ∧ s.board.wiping = false ∧ hdrOurs h = true
    let fresh := fun (t : State) (power : Bool) (b : Boot) => t.mem = [] ∧ t.side = [] ∧ t.l2 = [] ∧ t.cores = [] ∧ t.ctxs = [] ∧
      t.cycle = 0 ∧ (t.board.power, t.board.boot, t.board.life, t.board.fuses) = (power, b, s.board.life, s.board.fuses)
    let runs := s.board.boot = .run ∧ (s.board.images.find 0).bind (fun m => m.checked) = some true
    let status := fun (t : State) => ∃ temps watts, t.out.frames = s.out.frames ++ [.status h.seq s.board.life
        s.board.boot temps watts ((span 0 8).map fun n => ((s.ctl n).corr, (s.ctl n).uncorr))
        (s.board.images.filterMap fun e => e.2.checked.map fun b => (e.1, b))] ∧ t.board = s.board
    let stepped := fun (t : State) (mhz : Nat) => (t.die d).mhz = mhz ∧
      ((t.die d).tlb, (t.die d).poison, (t.die d).win) = ((s.die d).tlb, (s.die d).poison, (s.die d).win) ∧
      (∀ x, x ≠ d → t.die x = s.die x) ∧ SameMemory s t ∧ t.cores = s.cores
    (s.arg = .powerOn → s.board.power = false → ∃ t, exec .powerOn s = .next t ∧ fresh t true .waitWake) ∧
    (s.arg = .powerLoss → s.board.power = true → ∃ t, exec .powerLoss s = .next t ∧ fresh t false .waitWake) ∧
    (s.arg = .thermalTrip d c → d < 4 → 115 ≤ c → on → ∃ t, exec .thermalTrip s = .next t ∧ fresh t true .off ∧
      t.out.frames = s.out.frames ++ [.trip d c (s.cycle * 2 / 5)]) ∧
    (s.arg = .clockStepDown d mw c → d < 4 → 1800000 < mw ∨ 105 < c → 1000 < (s.die d).mhz → ∃ t, exec .clockStepDown s = .next t ∧
      stepped t ((s.die d).mhz - 100)) ∧
    (s.arg = .clockStepUp d mw → d < 4 → 10 ≤ mw → (s.die d).mhz < 2500 → ∃ t, exec .clockStepUp s = .next t ∧
      stepped t ((s.die d).mhz + 100)) ∧
    (s.arg = .status h → on → hdrOurs h = true → ∃ t, exec .status s = .next t ∧ status t) ∧
    (∀ n : Byte, s.arg = .wake h [n] → port → n.toNat ≤ 63 → ∃ t, exec .wake s = .next t ∧
      t.out.frames = s.out.frames ++ [.reply 1 h.seq] ∧ (s.board.boot ≠ .waitWake → t.board = s.board) ∧
      (s.board.boot = .waitWake → t.board.domain = n.toNat ∧ (t.board.boot = .boot ∨ t.board.boot = .run))) ∧
    (s.arg = .image h kind ch body last key → port → ∃ t, exec .image s = .next t ∧
      t.out.frames = s.out.frames ++ [.reply 3 h.seq] ∧ SameMemory s t ∧
      (ch = 0 → s.runsImage (imageNo kind) = false → ∃ m, t.board.images.find (imageNo kind) = some m ∧
        (m.bytes, m.next, m.whole) = (body, 1, last) ∧
        (last = true → s.board.boot = .run →
          m.checked = some (t.imageOk (imageNo kind)) ∧ m.measure = Config.sha384 body)) ∧
      (ch ≠ 0 → ch ≠ (s.image (imageNo kind)).next → t.board = s.board)) ∧
    (port → ¬runs → (s.arg = .lccmd h target signer ok → ∃ t, exec .lccmd s = .next t ∧ status t) ∧
      (s.arg = .attest h nonce → ∃ t, exec .attest s = .next t ∧ status t) ∧
      (s.arg = .off h → ∃ t, exec .off s = .next t ∧ status t)) ∧
    (s.arg = .lccmd h target signer ok → port → runs →
      let good := legalMove s.board.life target signer = true ∧ ok = true ∧ s.board.fuses < 64
      (¬good → exec .lccmd s = .next (s.frame (.reply 4 h.seq))) ∧
      (good → ∃ t l, exec .lccmd s = .next t ∧ t.out.frames = l ++ [.reply 4 h.seq] ∧ t.mem = [] ∧ t.side = [] ∧ t.l2 = [] ∧
        t.cores = [] ∧ t.ctxs = [] ∧ (t.board.life, t.board.fuses, t.board.wiping) = (target, s.board.fuses + 1, true))) ∧
    (s.arg = .wipeComplete → s.board.power = true → s.board.wiping = true →
      exec .wipeComplete s = .next { s with board := { s.board with wiping := false } }) ∧
    (s.arg = .attest h nonce → port → runs → exec .attest s = .next (s.frame (.attest h.seq
      (if s.board.keys.contains .attest = true then
        s.attestBytes 0 nonce ++ leBytes (Config.signature (s.attestBytes 0 nonce)).toNat 96 else [])))) ∧
    (s.arg = .off h → port → runs → ∃ t l, exec .off s = .next t ∧ t.out.frames = l ++ [.reply 6 h.seq]) ∧
    (s.arg = .unknownFrameType h ty → port → ty.toNat = 0 ∨ 6 < ty.toNat →
      exec .unknownFrameType s = .next (s.frame (.reply 0x00FF h.seq))) ∧
    (on → hdrOurs h = false → (s.arg = .status h → exec .status s = .next s) ∧ (s.arg = .wake h body → exec .wake s = .next s) ∧
      (s.arg = .image h kind ch body last key → exec .image s = .next s) ∧
      (s.arg = .lccmd h target signer ok → exec .lccmd s = .next s) ∧ (s.arg = .attest h nonce → exec .attest s = .next s) ∧
      (s.arg = .off h → exec .off s = .next s) ∧
      (s.arg = .unknownFrameType h ty → ty.toNat = 0 ∨ 6 < ty.toNat → exec .unknownFrameType s = .next s))

/-! ### The machine -/

/-- R206, R213 and R214: worked words of the spec decode to the instructions that they stand for, and worked patterns are
rejected as the spec says; the first two bytes of a 16-bit instruction decide. -/
def Obligations.DecodesWorkedWords : Prop :=
  decode [0x74, 0x48] = .ok (.faddF32H 9 3) 2 ∧
  decode [0xC3, 0xC2, 0x1C, 0x01] = .ok (.ldB32 1 0 0x73 5) 4 ∧
  decode [0xCF, 0x80, 0x5C, 0x66] = .ok (.stB32Ord 6 3 0 0x72 1) 4 ∧
  decode [0x51, 0x21, 0x5E, 0x60] = .ok (.ataddN32 6 0 5 0x71 2) 4 ∧
  decode [0xB9, 0x88, 0x00, 0x00] = .ok (.brCond 8 0 1) 4 ∧
  decode [0xCF, 0x80, 0x5C, 0x6A] = .und 4 ∧ decode [0xCF, 0x80, 0x5C, 0x64] = .und 4 ∧
  decode [0xCF, 0x80, 0x5C, 0xC6] = .und 4 ∧ decode [0x2F, 0x00, 0x00, 0x00] = .und 4 ∧
  decode [0xC3, 0xC2, 0x9C, 0x01] = .und 4 ∧ decode [0x00, 0x00, 0x00, 0x00] = .ill 2 ∧
  decode [0xFF, 0xFF, 0xFF, 0xFF] = .ill 4

/-- R206 to R211: decoding the encoding of a well-formed instruction gives it back with its length, with every operand at
every value that the encoding admits, whatever follows in the stream; a row without an encoding is a step of the
device. -/
def Obligations.EncodingsDecode : Prop :=
  (∀ i : Instr, i.wf = true → ∀ c, encode i = some c → ∀ rest, decode (c.bytes ++ rest) = .ok i c.len) ∧
  ∀ i : Instr, encode i = none → ∃ a : Arg, a.instr = some i

/-- R206 to R213: the stream that decodes to an instruction begins with that instruction's encoding, so a word has one
meaning and no bit of it is ignored, and the instruction is well-formed. -/
def Obligations.WordsHaveOneMeaning : Prop :=
  ∀ (bs : List Byte) (i : Instr) (n : Nat), decode bs = .ok i n →
    i.wf = true ∧ ∃ c, encode i = some c ∧ c.len = n ∧ bs.take n = c.bytes

/-- R53, R54 and R157: the granule code is linear, has the values worked in the spec, and leaves a nonzero syndrome on every
single, double, odd and 8-bit burst error of a sound unit, its 40 bits in the order of the codeword: data above code. -/
def Obligations.CodeDetectsErrors : Prop :=
  (∀ a b : Word, gc8 (a ^^^ b) = gc8 a ^^^ gc8 b) ∧ gc8 0 = 0 ∧ gc8 0x3F800000 = 0x16 ∧ gc8 1 = 0x2F ∧
  ∀ (u : GUnit) (e : BitVec 40), u.syn = 0 →
    (∃ i j, i < 40 ∧ j < 40 ∧ e = 1#40 <<< i ||| 1#40 <<< j) ∨
      ((span 0 40).filter fun i => e.getLsbD i).length % 2 = 1 ∨
      (∃ i b, i ≤ 32 ∧ 0 < b ∧ b < 256 ∧ e = BitVec.ofNat 40 (b * 2 ^ i)) →
    ({ u with data := u.data ^^^ e.extractLsb' 8 32, code := u.code ^^^ e.extractLsb' 0 8 } : GUnit).syn ≠ 0

/-- R165, R166, R206 and R29: a step in which a port issues fetches at the PC of the pod that its wave selects, through the
instruction cache or the home slice of the granule's translation, and is what `exec` makes of the decoded instruction; then the
move is over. A step of the device is what `exec` makes of its row. Where no port can issue, the cycle ends. That the agenda
chooses what happens next is the model's own (log 1). -/
def Obligations.StepRunsDecoded : Prop :=
  ∀ (s s1 : State) (core slot : Nat) (klim : Option Nat) (busy : List Nat) (p : Pod) (w : Wave) (k : Crew) (rest : List Move),
    (∀ (a : Arg) (i : Instr) (t : State), s.agenda = .event a :: rest → a.instr = some i →
      s.alive = true ∨ a = .powerOn ∨ a = .powerLoss → s.runs a = true →
      exec i { s with agenda := rest, arg := a } = .next t → step s = .next t.afterMove) ∧
    (s.agenda = [] → s.pick = none → step s = .next (s.endCycle 1).afterMove) ∧
    ((s.agenda = .issue core slot klim busy :: rest ∧ s1 = { s with agenda := rest }) ∨
        (s.agenda = [] ∧ s.pick = some (core, slot) ∧ (klim, busy) = (none, []) ∧ s1 = s) →
      s.alive = true →
      let s2 := if s1.ported.contains (portOf core slot) = true ∨ s1.kept.contains (waveNo core slot) = true then s1.endCycle 1 else s1
      s2.portPick core (slot / 8) busy = some slot →
      let s3 := { s2 with ported := portOf core slot :: s2.ported }
      s3.podOf core slot klim = some p →
      let s4 := s3.reselected core slot
      s4.wave? core slot = some w → s4.crew? core w.crew = some k →
      p.core = core ∧ p.slot = slot ∧ p.pc = w.sel ∧ p.lanes = w.podLanes ∧
      (∀ bs i len s5, s4.fetch p k = (.code bs, s5) → decode bs = .ok i len →
        let r := exec i { s5 with pod := some { p with word := wordOf bs len, len := len } }
        (∀ t, r = .next t → step s = .next t.afterMove) ∧ (∀ f, r = .fault f → step s = .fault f)) ∧
      (∀ bs ill len s5 t, s4.fetch p k = (.code bs, s5) → decode bs = (if ill = true then .ill len else .und len) →
        exec .illegalEncoding { s5 with
          pod := some { p with word := wordOf bs len, len := len }, arg := .illegalEncoding ill (wordOf bs len) } = .next t →
        step s = .next t.afterMove) ∧
      (∀ t s5, s4.fetch p k = (.trap t, s5) → s5.crew? core w.crew = some k →
        step s = .next (s5.raise p w k t).afterMove) ∧
      (∀ s5, s4.fetch p k = (.wait, s5) → step s = .next s5.afterMove) ∧
      ∀ va pa bind ms cz s5 f s6, s4.queueFull core = false →
        s4.translate ⟨core, slot, k.ctx, none, 0, k.replay, p.low⟩ (va / 4 * 4) .fetch = (.mem pa bind ms cz, s5) →
        pa < hbmSize → s4.fetchGranule p k va = (f, s6) → Undisturbed s5 s6 →
        let u := ((s5.core core).icache.find (pa / 4)).getD (s5.home pa)
        (u.ok = true → f = .code ((leBytes u.data.toNat 4).drop (va % 4))) ∧
        (u.ok = false → ∃ t, f = .trap t ∧ (t.cause = .chk ∨ t.cause = .hbmue)))

/-- R8, R21, R24, R182 and R376: after a cold reset memory reads as zero units, no crew is placed, every die runs at the
full clock, the controller waits for WAKE with wiped images, and the per-context registers, the scores, the rings, the metadata
bases and the doorbell base read 0. The life-cycle state, with no transition used, is the model's choice (log 2). -/
def Obligations.ResetState : Prop :=
  let s := State.reset
  s.MemOk ∧ s.Quiet ∧ (∀ pa, Memory.get s.mem pa = 0 ∧ s.home pa = .zero) ∧ (∀ core pa, s.peek core pa = .zero) ∧
  (∀ c i, s.crew? c i = none ∧ s.wave? c i = none) ∧ (∀ d, (s.die d).mhz = 2500 ∧ (s.die d).poison = []) ∧
  (∀ x, (s.ctx x).valid = false ∧ (s.ctx x).frcfg = 0 ∧ (s.ctx x).nopre = 0 ∧ (s.ctx x).bindings = []) ∧
  (∀ c, (s.core c).misscap = 0 ∧ (s.core c).condemned = false) ∧ (∀ c, (s.cluster c).fused = false) ∧
  (s.sup.grcfg, s.sup.xlerr, s.sup.grErr) = (0, 0, 0) ∧ s.board.boot = .waitWake ∧ s.board.images = [] ∧
  s.cycle = 0 ∧ s.hazel.pool = [] ∧ s.osm.dbbase = 0 ∧ (∀ d, s.osm.czmbase.getD d 0 = 0) ∧
  s.board.life = .manufacture ∧ s.board.fuses = 0

/-- Every step keeps memory in its canonical form (the form is the model's), and leaves the state quiet: from every state, not
only from those that a run reaches. -/
def Obligations.StepKeepsMemOk : Prop :=
  ∀ s t : State, s.MemOk → step s = .next t → t.MemOk ∧ t.Quiet

/-- R7, R40, R41, R82, R92, R94, R319, R322, R374, R375, R381 to R384: what Osmium installs. A request that breaks a rule of
its row changes nothing but the report to Pewter; any other has the effect named here. A patch of a link writes the target into
every die's copy of the entry, drops its instruction-cache lines, maps the lazy page to the zero frame and then writes 2 to the sync
word. The model's choices: a region whose KIND or OWNER changes is wiped (DEDUCED, log 52); what seals and partitions must be
(DEDUCED, log 50), and windows (DEDUCED, log 53); the level of a table is an operand (DESIGN CHOICE, log 51); requests to Hazel
are mailbox registers (DESIGN CHOICE, log 66); when a patch waits or is refused (DESIGN CHOICE, log 102). -/
def Obligations.InstallSteps : Prop :=
  ∀ (s : State) (ctx r q d n i level pa core crew cl : Nat) (v : BitVec 512) (e : BitVec 16) (pte a l sc tgt : BitVec 64)
    (o : RynilObject) (reg : SupReg) (named : Bool),
    let refused := fun (i : Instr) => exec i s = .next (s.toPewter .refusedRequest)
    let kept := fun (t : State) => SameMemory s t ∧ t.cores = s.cores
    let running := fun (t : State) => ∀ c, (t.core c).waves = (s.core c).waves ∧ (t.core c).crews = (s.core c).crews
    let v64 : BitVec 64 := v.setWidth 64
    (s.arg = .descriptorInstall ctx v → ctx < 4096 →
      let good := (s.board.life = .provisioned ∨ s.board.life = .deployed) ∧ s.board.wiping = false ∧ s.descOk ctx v = true
      (¬good → refused .descriptorInstall) ∧
      (good → ∃ t, exec .descriptorInstall s = .next t ∧ kept t ∧ t.ctx ctx = { s.ctx ctx with desc := v } ∧
        ∀ x, x ≠ ctx → t.ctx x = s.ctx x)) ∧
    (s.arg = .firewallAssign r e → r < 16384 →
      let same := fwKind (s.fw r) = fwKind e ∧ fwOwner (s.fw r) = fwOwner e
      let good := (fwKind e = 2 ∨ fwSub e = 0) ∧ (same ∨ s.ringIn r = false)
      (¬good → refused .firewallAssign) ∧
      (good → ∃ t, exec .firewallAssign s = .next t ∧ running t ∧ t.fw r = e ∧ (∀ x, x ≠ r → t.fw x = s.fw x) ∧
        (same ∨ fwKind (s.fw r) = 0 → SameMemory s t) ∧
        (¬same → fwKind (s.fw r) ≠ 0 → ∀ pa, pa / 2 ^ 25 = r → t.l2.find (pa / 128) = none ∧
          (Undisturbed s t → (∀ b, b / 16384 = r → s.metaPa b / 2 ^ 25 ≠ r) → s.coded? (pa / 2048) = false →
            Memory.get t.mem pa = 0)))) ∧
    (s.arg = .queueOwnerAssign q e → q < 65536 →
      (bvf e 12 3 ≠ 0 → refused .queueOwnerAssign) ∧
      (bvf e 12 3 = 0 → ∃ t, exec .queueOwnerAssign s = .next t ∧ kept t ∧ t.osm.qown.getD q 0 = e ∧
        ∀ x, x ≠ q → t.osm.qown.getD x 0 = s.osm.qown.getD x 0)) ∧
    (s.arg = .pageTableWrite ctx level pa pte → pa % 8 = 0 → level ≤ 3 →
      let leaf := pte.getLsbD 0 = true ∧ pte.getLsbD 1 = true
      let good := s.inTable pa 0 ctx = true ∧ (leaf → 1 ≤ level ∧ s.leafOk ctx pte.toNat level = true)
      (¬good → refused .pageTableWrite) ∧
      (good → ∃ t, exec .pageTableWrite s = .next t ∧ running t ∧ (Undisturbed s t → t.home pa = coded (pte.setWidth 32) ∧
        t.home (pa + 4) = coded ((pte >>> 32).setWidth 32) ∧ ∀ x, x / 8 ≠ pa / 8 → t.home x = s.home x))) ∧
    (s.arg = .windowInstall d n a l sc → d < 4 → n < 32 →
      let w : Window := ⟨a, l, sc, none⟩
      let good := w.fieldsOk = true ∧ s.windowOk d n w = true
      (¬good → refused .windowInstall) ∧
      (good → ∃ t x, exec .windowInstall s = .next t ∧ kept t ∧ (t.die d).win.find n = some x ∧
        let old := (s.die d).win.getD n .empty
        (x.a, x.l, x.s) = (old.a, old.l, old.s) ∧ x.next = some (a, l, sc))) ∧
    (s.arg = .loadObject ctx o → ctx < 4096 →
      let good := s.objectOk ctx o = true ∧ ((s.placeObject ctx o).zeroSync ctx o.syncb o.links).1 = true
      (¬good → refused .loadObject) ∧
      (good → ∃ t, exec .loadObject s = .next t ∧ running t ∧
        ((t.ctx ctx).links, (t.ctx ctx).lzb, (t.ctx ctx).syncb, (t.ctx ctx).zframe) = (o.links, o.lzb, o.syncb, o.zframe) ∧
        (t.ctx ctx).measure = Config.sha384 (o.text.flatMap wordBytes) ∧
        (o.handler = none → (t.ctx ctx).handler = 0) ∧
        (∀ h, o.handler = some h → (t.ctx ctx).handler = BitVec.ofNat 64 (h.toNat / 2 * 2 + 1)) ∧
        ∀ x, x ≠ ctx → (t.ctx x).desc = (s.ctx x).desc)) ∧
    (s.arg = .linkPatch ctx i tgt →
      let c := s.ctx ctx
      let entry := c.links.find? fun e => e.1 == i
      let at_ := s.entryAddr ctx (c.lzb + 16384 * i) c.groot 3
      let leaf := c.zframe + 0x23
      let lo := fun (x : BitVec 64) => coded (x.setWidth 32)
      let hi := fun (x : BitVec 64) => coded ((x >>> 32).setWidth 32)
      (entry = none → refused .linkPatch) ∧
      (∀ x, entry = some x →
        let copies := s.textCopies ctx x.2
        let good := s.leafOk ctx leaf 3 = true ∧ ∀ pa ∈ copies, s.frameHeld ctx (pa / 16384 * 16384) 16384 = true
        (at_ = .missing → exec .linkPatch s = .fault .notEnabled) ∧ (at_ = .foreign → refused .linkPatch) ∧
        ∀ ea, at_ = .found ea → (¬good → refused .linkPatch) ∧
          (good → ∃ u t, exec .linkPatch s = .next t ∧ t = (u.unitPuts (unitAgent ctx) (c.syncb + 16 * i) [coded 2]).2 ∧ running t ∧
            (∀ d pa y, pa ∈ copies → y / 32 = pa / 128 → (t.core d).icache.find y = none) ∧
            (∀ d, ∀ y ∈ (u.core d).tlb, y.ctx = ctx → y.text = none → y.size = 16384 →
              y.va / 16384 ≠ (c.lzb + 16384 * i) / 16384) ∧
            ((∀ pa ∈ ea :: copies, pa % 8 = 0 ∧ pa < hbmSize) → ((ea :: copies).map fun pa => pa / 8).Nodup → Undisturbed s u →
              (∀ pa ∈ copies, u.home pa = lo tgt ∧ u.home (pa + 4) = hi tgt) ∧
              u.home ea = lo (BitVec.ofNat 64 leaf) ∧ u.home (ea + 4) = hi (BitVec.ofNat 64 leaf)) ∧
            ∀ pa b ms cz u1, u.translate (unitAgent ctx) (c.syncb + 16 * i) .write = (.mem pa b ms cz, u1) → pa < hbmSize →
              Undisturbed u1 t → t.home pa = coded 2))) ∧
    (s.arg = .registerWrite reg v →
      (reg = .xlerr → exec .registerWrite s =
        .next { s with sup := { s.sup with xlerr := s.sup.xlerr &&& ~~~ (v.setWidth 4) } }) ∧
      (reg = .grerr → exec .registerWrite s =
        .next { s with sup := { s.sup with grErr := s.sup.grErr &&& ~~~ (v.setWidth 2) } }) ∧
      (reg = .czerr n → n < 8 → ∃ t, exec .registerWrite s = .next t ∧ kept t ∧
        (t.ctl n).czerr = ((s.ctl n).czerr && !v.getLsbD 0)) ∧
      (reg = .nopre ctx → ∃ t, exec .registerWrite s = .next t ∧ kept t ∧
        (bvf v 0 17 ≤ 65536 → t.ctx ctx = { s.ctx ctx with nopre := BitVec.ofNat 64 (bvf v 0 17) }) ∧
        (65536 < bvf v 0 17 → t.ctx ctx = s.ctx ctx)) ∧
      (reg = .diagva ctx →
        (2 ^ 57 ≤ bvf v 0 58 → refused .registerWrite) ∧
        (bvf v 0 58 < 2 ^ 57 → ∃ t, exec .registerWrite s = .next t ∧ kept t ∧
          bvf (t.ctx ctx).diagva 15 43 = bvf v 15 43 ∧ (t.ctx ctx).diagva.getLsbD 0 = v.getLsbD 0)) ∧
      (reg = .audctl ctx →
        (2 ^ 57 ≤ bvf v 0 58 → refused .registerWrite) ∧
        (bvf v 0 58 < 2 ^ 57 → ∃ t, exec .registerWrite s = .next t ∧ kept t ∧
          bvf (t.ctx ctx).audctl 12 46 = bvf v 12 46 ∧ bvf (t.ctx ctx).audctl 0 1 = bvf v 0 1 ∧
          (bvf v 7 5 ≤ 20 → bvf (t.ctx ctx).audctl 7 5 = bvf v 7 5) ∧
          (20 < bvf v 7 5 → bvf (t.ctx ctx).audctl 7 5 = bvf (s.ctx ctx).audctl 7 5))) ∧
      (reg = .sched ctx → ∃ t, exec .registerWrite s = .next t ∧ kept t ∧ bvf (t.ctx ctx).sched 0 192 = bvf v 0 192) ∧
      (reg = .queue q → q < 65536 → s.mapped q = none →
        let good := queueOk v = true ∧ bvf v 80 16 = bvf (s.osm.qown.getD q 0) 0 12
        (¬good → refused .registerWrite) ∧
        (good → ∃ t, exec .registerWrite s = .next t ∧ kept t ∧ t.queue q = queueOf (s.queue q) v ∧
          ∀ x, x ≠ q → t.queue x = s.queue x)) ∧
      (reg = .czmbase d → d < 4 →
        let pa := bvf v 0 48
        let good := pa + 2 ^ 26 ≤ hbmSize ∧ ∀ r, pa / 2 ^ 25 ≤ r → r ≤ (pa + 2 ^ 26 - 1) / 2 ^ 25 → fwKind (s.fw r) = 2 ∧ fwSub (s.fw r) = 1
        (¬good → refused .registerWrite) ∧
        (good → ∃ t, exec .registerWrite s = .next t ∧ t.cores = s.cores ∧ SameStacks s t ∧ t.osm.czmbase.find d = some pa)) ∧
      (reg = .dbbase →
        let good := bvf v 0 30 = 0 ∧ bvf v 0 64 < 2 ^ 37
        (¬good → refused .registerWrite) ∧
        (good → ∃ t, exec .registerWrite s = .next t ∧ kept t ∧ t.osm.dbbase = bvf v 0 64)) ∧
      (reg = .seal ctx →
        (s.sealGood ctx v = false → refused .registerWrite) ∧
        (s.sealGood ctx v = true → ∃ t, exec .registerWrite s = .next t ∧ kept t ∧
          ((t.ctx ctx).sealed = none ↔ bvf v 0 40 = 0) ∧
          ∀ g x, (t.ctx ctx).sealed = some (g, x) → g = v.setWidth 24 ∧ x = BitVec.ofNat 16 (bvf v 24 16))) ∧
      (core < 192 →
        (reg = .misscap core → exec .registerWrite s = .next (s.sendDown (core / 4) (.misscap core v64))) ∧
        (reg = .mailTest core → exec .registerWrite s = .next (s.sendDown (core / 4) (.test core))) ∧
        (reg = .mailContinue core crew named → exec .registerWrite s =
          .next (s.sendDown (core / 4) (.continue_ core crew (if named = true then some v64 else none))))) ∧
      (cl < 48 →
        (reg = .mailFuse cl → exec .registerWrite s = .next (s.sendDown cl .fuse)) ∧
        (reg = .mailUnfuse cl → exec .registerWrite s = .next (s.sendDown cl .unfuse))) ∧
      (reg = .mailCancel ctx → ∃ t, exec .registerWrite s = .next t ∧ running t ∧
        ∀ q k, s.hazel.queues.find q = some k → k.ctx = ctx → (t.queue q).stopped = true))

/-- R20, R25, R82, R116, R120, R335, R371 and R373: accesses from outside the cores are performed at the home slices, or refused
with a report and a machine check; none reaches the compression metadata, and data that a PCIe adapter brings in may reach any other
address of HBM (DEDUCED, log 68); the transfer that a failed exit check ends is the piece at hand (DEDUCED, log 83); the numbers of the
units that run code, 0 to 23 and 24 to 73, are the model's (DESIGN CHOICE, log 94); scrub counts are kept and reported; a core or a
link that fails leaves placement. -/
def Obligations.OutsideSteps : Prop :=
  ∀ (s : State) (port pa n c cl cc peer : Nat) (ws : List Word) (us : List GUnit) (req : PeerReq) (op : AtomOp) (far : Bool)
    (bad : List Nat) (dir : LinkDir) (rest : List Cmd) (reg : CtlReg),
    let stored := fun (t : State) (us : List GUnit) => (∀ i, i < us.length → t.home (pa + 4 * i) = us.getD i .zero) ∧
      ∀ x, x / 4 < pa / 4 ∨ pa / 4 + us.length ≤ x / 4 → t.home x = s.home x
    let granules := (span 0 n).map fun i => s.home (pa + 4 * i)
    (s.arg = .peerAccess peer pa req → peer < 64 → peer ≠ s.board.domain → pa + req.bytes ≤ hbmSize → req.good pa = true →
      (s.inMeta pa req.bytes = true → ∃ t, exec .peerAccess s = .next t ∧ t.cores = s.cores ∧ SameMemory s t ∧
        (req = .load n → t.out.peer = s.out.peer ++ (span 0 n).map fun i => Traffic.write (pa + 4 * i) .zero) ∧
        (req = .store us → t.out.peer = s.out.peer)) ∧
      (s.inMeta pa req.bytes = false →
      (req = .load n → ∃ t, exec .peerAccess s = .next t ∧ t.cores = s.cores ∧ (Undisturbed s t → SameMemory s t ∧
        t.out.peer = s.out.peer ++ granules.zipIdx.map fun x => Traffic.write (pa + 4 * x.2) x.1)) ∧
      (req = .store us → ∃ t, exec .peerAccess s = .next t ∧ t.cores = s.cores ∧ (Undisturbed s t → stored t us)) ∧
      (req = .atom op us far → far = false ∨ (s.farAtomic pa op us).1 ≠ .later →
        ∃ t, exec .peerAccess s = .next t ∧ t.cores = s.cores ∧
        ∀ x, t.home x = (if far = true then s.farAtomic pa op us else s.homeAtomic pa op us).2.home x))) ∧
    (s.arg = .controlCoreAccess cc pa req → cc < 74 → req.good pa = true →
      (s.reaches cc pa req = false → ∃ t, exec .controlCoreAccess s = .next t ∧ SameMemory s t ∧
        t.out.mchk = s.out.mchk ++ (if cc < 24 then [cc] else []) ∧ t.out.osm = s.out.osm ++ [.refusedAccess cc pa] ∧
        (req = .load n → t.heard.find cc = some (List.replicate n .zero))) ∧
      (s.reaches cc pa req = true → 2 ^ 39 ≤ pa → pa + req.bytes ≤ 2 ^ 40 →
        ∃ t, exec .controlCoreAccess s = .next t ∧ SameMemory s t ∧
          (req = .store us → t.out.ctrl = s.out.ctrl ++ us.zipIdx.map fun x => Traffic.write (pa + 4 * x.2) (coded x.1.data)) ∧
          (req = .load n → ∃ l, t.heard.find cc = some l ∧ l.length = n) ∧
          (req = .reg reg → t.out = s.out ∧ t.heard.find cc = some [coded ((s.ctlRead reg).setWidth 32),
            coded ((s.ctlRead reg >>> 32).setWidth 32)])) ∧
      (s.reaches cc pa req = true → pa + req.bytes ≤ hbmSize → pa < hbmSize →
        (req = .load n → ∃ t, exec .controlCoreAccess s = .next t ∧ t.cores = s.cores ∧ (Undisturbed s t → SameMemory s t ∧
          t.heard.find cc = some granules ∧
          (granules.all (fun g => g.ok) = true → t.out.mchk = s.out.mchk) ∧
          (granules.all (fun g => g.ok) = false → t.out.mchk = s.out.mchk ++ [cc] ∧
            ∃ l, t.out.osm = l ++ [.machineCheck cc pa]))) ∧
        (req = .store us → ∃ t, exec .controlCoreAccess s = .next t ∧ t.cores = s.cores ∧
          (Undisturbed s t → stored t (us.map fun u => coded u.data))) ∧
        (req = .atom op us far →
          let done := if far = true then s.farAtomic pa op (us.map fun u => coded u.data) else s.homeAtomic pa op (us.map fun u => coded u.data)
          far = false ∨ done.1 ≠ .later → ∃ t, exec .controlCoreAccess s = .next t ∧ t.cores = s.cores ∧
            (∀ x, t.home x = done.2.home x) ∧ ∀ old, done.1 = .old old → t.heard.find cc = some old))) ∧
    (s.arg = .pcieInboundData port pa ws → port < 2 → pa % 4 = 0 → pa + 4 * ws.length ≤ hbmSize →
      (s.inMeta pa (4 * ws.length) = true → exec .pcieInboundData s = .next s) ∧
      (s.inMeta pa (4 * ws.length) = false → ∃ t, exec .pcieInboundData s = .next t ∧ t.cores = s.cores ∧ (Undisturbed s t → stored t (ws.map coded)))) ∧
    (s.arg = .pcieOutboundData port pa n → port < 2 → pa % 4 = 0 → pa + 4 * n ≤ hbmSize →
      (s.inMeta pa (4 * n) = true → exec .pcieOutboundData s = .next s) ∧
      (s.inMeta pa (4 * n) = false → ∃ t, exec .pcieOutboundData s = .next t ∧ t.cores = s.cores ∧ (Undisturbed s t → SameMemory s t ∧
        (granules.all (fun g => g.ok) = true → t.out.pcie = s.out.pcie ++
          (span 0 n).map fun i => Traffic.write (pa + 4 * i) (s.home (pa + 4 * i))) ∧
        (∀ i, granules.findIdx? (fun g => !g.ok) = some i → (∃ l, t.out.osm = l ++ [.pcieExit port (pa + 4 * i)]) ∧
          t.out.pcie.length = s.out.pcie.length + i + 1)))) ∧
    (s.arg = .coreCondemn c → c < 192 → (s.core c).condemned = false → ∃ t, exec .coreCondemn s = .next t ∧
      SameMemory s t ∧ (t.core c).condemned = true ∧ (∀ x, x ≠ c → (t.core x).condemned = (s.core x).condemned) ∧
      (t.cluster (c / 4)).up = (s.cluster (c / 4)).up.send (.condemned c) ∧ SameWaves s t ∧
      ∀ x k, s.crew? c x = some k → ∀ y ∈ s.unit c x k, ∀ k0, s.crew? y.1 y.2.1 = some k0 →
        ∃ k', t.crew? y.1 y.2.1 = some k' ∧ k'.preempt.isSome = true ∧ (k'.spad, k'.decl) = (k0.spad, k0.decl)) ∧
    (s.arg = .coreCondemnedReport cl → (s.cluster cl).up.flight = .condemned c :: rest →
      ∃ t, exec .coreCondemnedReport s = .next t ∧ SameMemory s t ∧ (t.cluster cl).up.flight = rest ∧
        t.out.pewter = s.out.pewter ++ [.condemned c] ∧ t.out.osm = s.out.osm ++ [.condemned c]) ∧
    (s.arg = .commandCrcFailure cl dir → cl < 48 → ((s.cluster cl).link dir).flight ≠ [] →
      ∃ t, exec .commandCrcFailure s = .next t ∧ SameMemory s t ∧
        (t.cluster cl).link dir = { (s.cluster cl).link dir with fails := ((s.cluster cl).link dir).fails + 1 } ∧
        (((s.cluster cl).link dir).fails = 2 → (t.cluster cl).out = true ∧ t.out.osm = s.out.osm ++ [.linkDead cl]) ∧
        (((s.cluster cl).link dir).fails ≠ 2 → (t.cluster cl).out = (s.cluster cl).out ∧ t.out = s.out)) ∧
    (s.arg = .sendPermitReturn cl dir → cl < 48 → 0 < ((s.cluster cl).link dir).back →
      ∃ t, exec .sendPermitReturn s = .next t ∧ SameMemory s t ∧
        let old := (s.cluster cl).link dir
        let new := (t.cluster cl).link dir
        new.back = old.back - 1 ∧ new.flight ++ new.waiting = old.flight ++ old.waiting ∧
        (old.waiting = [] → new.permits = old.permits + 1) ∧
        (old.waiting ≠ [] → new.permits = old.permits ∧ new.waiting = old.waiting.tail)) ∧
    (s.arg = .scrub n c bad → n < 8 → (∀ a ∈ bad, a < hbmSize ∧ ctlOfPa a = n) → ∃ t, exec .scrub s = .next t ∧
      SameStacks s t ∧ t.cores = s.cores ∧ (t.ctl n).newCorr = (s.ctl n).newCorr + c ∧
      (t.ctl n).newUncorr = (s.ctl n).newUncorr + bad.length ∧ ∀ a ∈ bad, t.marks.contains (a / 4) = true) ∧
    (s.arg = .scrubCountUpdate n → n < 8 → ∃ t, exec .scrubCountUpdate s = .next t ∧ SameMemory s t ∧
      let old := s.ctl n
      let u := min 65535 (old.uncorr + old.newUncorr)
      ((t.ctl n).corr, (t.ctl n).uncorr, (t.ctl n).lastu) = (min 65535 (old.corr + old.newCorr), u, old.newLast) ∧
      t.out.pewter = if u = old.uncorr then s.out.pewter else s.out.pewter ++ [.uncorr n u]) ∧
    (s.arg = .ecscntClear n → n < 8 → ∃ t, exec .ecscntClear s = .next t ∧ SameMemory s t ∧
      ((t.ctl n).corr, (t.ctl n).uncorr) = (0, 0) ∧
      t.out.pewter = if (s.ctl n).uncorr = 0 then s.out.pewter else s.out.pewter ++ [.uncorr n 0])

/-- R320 and R322 to R330: a notification maps a queue with packets to a slot and updates its index, an overrun stops it; an
idle slot is unmapped; a packet is judged as read: an error stops the queue with a record, a node enters the pool or is
refused with a record, a wait or a signal goes on, is held, or parks its queue. The model's own choices: a packet or a node
record that fails its checks is a packet error (log 54, DEDUCED), PACKET_EMPTY judges a packet of a reserved type (log 55, DESIGN
CHOICE), a wait under policy 0 keeps its slot, a parked queue that is notified is mapped again with its held read, and a signal
whose write fails for good consumes its packet (log 56, DEDUCED). -/
def Obligations.SignalSteps : Prop :=
  ∀ (s s1 s2 : State) (q i w a va cond scope : Nat) (v : BitVec 64) (x : Slot) (k : Queue) (p : Packet) (ws : List Word)
    (wt : Waiting),
    (s.arg = .signalNotification q → s.hazel.notes.contains q = true →
      let s0 := s.modHazel fun h => { h with notes := h.notes.filter fun x => x != q }
      let noted := { s0 with stamp := s0.stamp + 1 }.modQueue q fun k => { k with signal := s0.stamp + 1 }
      let d := s.queue q
      (d.valid = false ∨ d.stopped = true → exec .signalNotification s = .next s0) ∧
      (d.valid = true → d.stopped = false → noted.widx q = (w, s1) →
        (s.mapped q = none → w ≤ d.read → exec .signalNotification s = .next s1) ∧
        (s.mapped q = none → d.read < w → w ≤ d.read + 2 ^ d.logsize → s.freeSlot = some i →
          ∃ t y, exec .signalNotification s = .next t ∧ t.hazel.slots.find i = some y ∧
            (y.queue, y.read, y.widx, y.since, y.pkt) = (q, d.read, w, s.cycle, none) ∧
            (s1.held? (.wait q) = none → y.state = .idle) ∧ (s1.held? (.wait q) ≠ none → y.state = .waitHeld) ∧
            (Undisturbed s t → SameMemory s t)) ∧
        (s.mapped q = some (i, x) → s.hazel.slots.find i = some x → w ≤ x.read + 2 ^ d.logsize →
          ∃ t y, exec .signalNotification s = .next t ∧ t.hazel.slots.find i = some y ∧
            (y.queue, y.read, y.widx, y.pkt) = (q, x.read, w, x.pkt) ∧
            y.since = (if w ≤ x.read ∧ x.read < x.widx then s.cycle else x.since) ∧ (Undisturbed s t → SameMemory s t)) ∧
        (s.mapped q = some (i, x) → s.hazel.slots.find i = some x → x.read + 2 ^ d.logsize < w →
          ∃ t, exec .signalNotification s = .next t ∧ (t.queue q).stopped = true ∧
            ((s.ctx d.ctx).ringDead = none → ∃ l, (t.ctx d.ctx).pend = l ++ [⟨0xFFFFF, 3, false, 0, 0⟩])))) ∧
    (s.arg = .queueIdleUnmap i → s.hazel.slots.find i = some x → x.widx ≤ x.read → x.pkt = none →
      x.since + (s.ctx (s.queue x.queue).ctx).idleus * 2500 ≤ s.cycle →
      ∃ t, exec .queueIdleUnmap s = .next t ∧ (t.queue x.queue).read = x.read ∧ (Undisturbed s t → SameMemory s t)) ∧
    (s.arg = .packetEmpty i →
      (s.nextPacket i = some (x, k, none, s1) → ∃ t, exec .packetEmpty s = .next t ∧ (t.queue x.queue).stopped = true ∧
        ((s1.ctx (s1.queue x.queue).ctx).ringDead = none →
          ∃ l, (t.ctx (s1.queue x.queue).ctx).pend = l ++ [⟨0xFFFFF, 3, false, 0, 0⟩])) ∧
      (s.nextPacket i = some (x, k, some .empty, s1) →
        exec .packetEmpty s = .next (s1.modSlot i fun y => { y with state := .empty }))) ∧
    (s.arg = .packetNode i → s.nextPacket i = some (x, k, some (.node a p), s1) →
      (s1.poolRoom k.ctx = false → x.state ≠ .poolFull →
        exec .packetNode s = .next (s1.modSlot i fun y => { y with state := .poolFull })) ∧
      (∀ f, s1.poolRoom k.ctx = true → s1.unitRead k.ctx a 64 = (.error f, s2) →
        ∃ t, exec .packetNode s = .next t ∧ (t.queue x.queue).stopped = true) ∧
      (s1.poolRoom k.ctx = true → s1.unitRead k.ctx a 64 = (.ok ws, s2) →
        let r := nodeRecOf (bytesOf ws)
        let good := nodeZeros (bytesOf ws) = true ∧ r.good = true
        ∃ t, exec .packetNode s = .next t ∧ (t.queue x.queue).nodes = (s2.queue x.queue).nodes + 1 ∧
          (∀ y, s2.hazel.slots.find i = some y → ∃ z, t.hazel.slots.find i = some z ∧ z.read = y.read + 1) ∧
          (good → t.ctxs = s2.ctxs ∧ ∃ n, t.hazel.pool = s2.hazel.pool ++ [n] ∧
            (n.ctx, n.queue, n.pkt, n.rec_, n.placed, n.stopped) = (k.ctx, x.queue, p, r, 0, false) ∧
            n.edges = s2.edgesOf k.ctx x.queue k.nodes r ∧ (n.ready.isSome = true ↔ n.edges = [])) ∧
          (¬good → t.hazel.pool = s2.hazel.pool ∧ ((s2.ctx k.ctx).ringDead = none →
            (t.ctx k.ctx).pend = (s2.ctx k.ctx).pend ++ [⟨p.node, 4, false, 0, 0⟩])))) ∧
    (s.arg = .packetWait i → s.nextPacket i = some (x, k, some (.wait va v cond scope), s1) →
      s1.hazel.waits.any (fun y => y.queue == x.queue) = false →
      (s1.held? (.wait x.queue) = some true → ∃ t, exec .packetWait s = .next t ∧ (t.queue x.queue).stopped = true) ∧
      (∀ n c l, s1.held? (.wait x.queue) = none → s1.unitRead k.ctx va 2 = (.error (.replay n c l), s2) →
        ∃ t, ∃ h ∈ t.hazel.held, exec .packetWait s = .next t ∧ (h.who, h.fatal) = (.wait x.queue, false) ∧
          ∃ r ∈ t.recs, r.uid = h.uid) ∧
      (s1.held? (.wait x.queue) = none → s1.unitRead k.ctx va 2 = (.ok ws, s2) →
        let now := condHolds cond (BitVec.ofNat 64 (dwordOf ws)) v
        (now = true → exec .packetWait s = .next (s2.consumePacket i)) ∧
        (now = false → (s2.ctx k.ctx).policy = 0 ∨ s2.hazel.remap.contains x.queue = false →
          ∃ t y, exec .packetWait s = .next t ∧ y ∈ t.hazel.waits ∧
            (y.queue, y.va, y.value, y.cond, y.hit) = (x.queue, va, v, cond, false) ∧
            (y.slot = if (s2.ctx k.ctx).policy = 0 then some i else none)))) ∧
    (s.arg = .packetSignal i → s.nextPacket i = some (x, k, some (.signal p), s1) →
      let before := s1.hazel.pool.any fun n => n.queue == x.queue && n.replay.isNone
      (before = true → x.state ≠ .signalHeld →
        exec .packetSignal s = .next (s1.modSlot i fun y => { y with state := .signalHeld })) ∧
      (before = false → p.sigva = 0 → exec .packetSignal s = .next (s1.consumePacket i)) ∧
      (before = false → p.sigva ≠ 0 → s1.held? (.signal i) = none →
        (s1.signalWrite k.ctx k.waitk p = (.done, s2) ∨ s1.signalWrite k.ctx k.waitk p = (.fatal, s2) →
          exec .packetSignal s = .next (s2.consumePacket i)) ∧
        (∀ c l, s1.signalWrite k.ctx k.waitk p = (.wait c l, s2) → ∃ t, ∃ h ∈ t.hazel.held, exec .packetSignal s = .next t ∧
          (h.who, h.fatal) = (.signal i, false) ∧ ∃ r ∈ t.recs, r.uid = h.uid)) ∧
      (before = false → p.sigva ≠ 0 → s1.held? (.signal i) = some true →
        exec .packetSignal s = .next ((s1.unhold (.signal i)).consumePacket i))) ∧
    ∀ j : Instr, (j = .waitWordWatch ∧ s.arg = .waitWordWatch q ∧
          (s.hazel.waits.find? fun y => y.queue == q && y.watched && y.hit) = some wt) ∨
        (j = .waitWordPoll ∧ s.arg = .waitWordPoll q ∧ (s.hazel.waits.find? fun y => y.queue == q && !y.watched) = some wt) →
      ((s.queue q).valid = false ∨ (s.queue q).stopped = true → exec j s = .next (s.dropWaits q)) ∧
      ((s.queue q).valid = true → (s.queue q).stopped = false → s.held? (.wait q) = some true →
        ∃ t, exec j s = .next t ∧ (t.queue q).stopped = true) ∧
      ((s.queue q).valid = true → (s.queue q).stopped = false → s.held? (.wait q) = none → s.unitRead (s.queue q).ctx wt.va 2 = (.ok ws, s2) →
        let now := condHolds wt.cond (BitVec.ofNat 64 (dwordOf ws)) wt.value
        (now = true → ∃ t, exec j s = .next t ∧ (∀ y ∈ t.hazel.waits, y.queue ≠ q) ∧
          (wt.slot = none → t.hazel.remap.contains q = true ∨ (∃ y, t.mapped q = some y) ∨ (t.queue q).stopped = true)) ∧
        (now = false → ∃ t, exec j s = .next t ∧ SameMemory s2 t ∧ ∃ y ∈ t.hazel.waits, y.queue = q ∧ y.hit = false))

/-- R25, R73, R74, R183, R317, R329, R331, R333, R335 to R341, R357 and R360: Hazel sends PLACE for the next crew or set, and
FUSE behind it for a node that asks for fusion; an Acorn sets the crew up with the launch values of its threads; a crew's end
is counted and the last one completes its node, with its signal and its record; records go to the event ring; a fault stops
its context, and a stopped context's crews go; the other commands to an Acorn have the effects named here. The model's own
choices: a PLACE that is turned away comes back in the same step (log 65, DESIGN CHOICE), a placed crew without a slot asks for
one by SHADOW_SLOT_GRANT (log 97, DEDUCED), a stop is over when its last crew and node have gone (logs 57 and 67, DEDUCED), and a
write of MISSCAP leaves the permitted waves (log 107, DESIGN CHOICE). -/
def Obligations.SchedulingSteps : Prop :=
  ∀ (s s1 s2 : State) (u c core cl ctx i n base : Nat) (cores : List Nat) (nd : Node) (ms : List (Nat × Nat))
    (spots : List Spot) (rest : List Cmd) (pend : List Record) (r : Record) (ws : List Word) (d : Decl) (k : Crew)
    (pc : Option (BitVec 64)) (v : BitVec 64) (passed : Bool),
    let running := fun (t : State) => ∀ c, (t.core c).waves = (s.core c).waves ∧ (t.core c).crews = (s.core c).crews
    let recorded := fun (s0 t : State) (status : Nat) (fsum : BitVec 128) =>
      t.node? u = none ∧ ((s0.ctx nd.ctx).ringDead = none →
        (t.ctx nd.ctx).pend = (s0.ctx nd.ctx).pend ++ [⟨nd.pkt.node, status, nd.late, 0, fsum⟩])
    (s.arg = .nodePlacement u (core :: cores) → s.node? u = some nd → s.nextCrew nd = some c → cl = core / 4 →
      s.wants nd = true → s.first (s.nodePrio nd) nd.uid = true → (core :: cores).length = nd.width →
      (core :: cores).Nodup → (∀ x ∈ core :: cores, x / 4 = cl ∧ (s.coresFor nd).contains x = true) →
      ∃ t nd' l, exec .nodePlacement s = .next t ∧ running t ∧
        (t.cluster cl).down.flight ++ (t.cluster cl).down.waiting =
          l ++ .place u ((core :: cores).zip (span c nd.width)) :: (if nd.rec_.fuse = true then [.fuse] else []) ∧
        t.node? u = some nd' ∧ (nd.again = [] → nd'.placed = nd.placed + nd.width) ∧
        (∀ x l, nd.again = x :: l → nd'.again = l ∧ nd'.placed = nd.placed)) ∧
    (s.arg = .shadowSlotGrant u c none → s.node? u ≠ none → s.slotFor u c = none → exec .shadowSlotGrant s = .next s) ∧
    (s.arg = .shadowSlotGrant u c (some base) →
      (s.slotless u c = none → s.shapeOf u = some (ctx, d) → s.slotFor u c = none → s.runOk base d.slen ctx [] = true →
        ∃ t, exec .shadowSlotGrant s = .next t ∧ running t ∧ t.slotFor u c = some (base, d.slen)) ∧
      (s.slotless u c = some (core, i, k) → s.crew? core i = some k → s.runOk base k.decl.slen k.ctx [] = true →
        ∃ t, exec .shadowSlotGrant s = .next t ∧ t.crew? core i = some { k with slot := some (base, k.decl.slen) } ∧
          ∀ c, (t.core c).waves = (s.core c).waves)) ∧
    (s.arg = .place cl spots → s.headDown cl = some (.place u ms) →
      (s.node? u = none → exec .place s = .next (s.consumeDown cl)) ∧
      (s.node? u = some nd →
        (nd.stopped = true ∨ (s.ctx nd.ctx).stopping = true → ∃ t, exec .place s = .next t ∧ running t) ∧
        (nd.stopped = false → (s.ctx nd.ctx).stopping = false →
          ((ms.any fun m => s.turnsAway m.1 nd.ctx) = true → ∃ t nd', exec .place s = .next t ∧ running t ∧
            t.node? u = some nd' ∧ nd'.again = nd.again ++ [(ms.map fun m => m.2).headD 0]) ∧
          (ms = [(core, c)] → ∀ x, spots = [x] → s.turnsAway core nd.ctx = false → s.spotOk nd c core x = true →
            s.held? (.node u) = none → nd.rec_.threc = false → nd.replay = none → 0 < nd.rec_.vregs →
            ∃ t k', exec .place s = .next t ∧ t.crew? core x.crew = some k' ∧
              (k'.ctx, k'.node, k'.cidx, k'.phase, k'.base) = (nd.ctx, u, c, .shadow, x.base) ∧ k'.slot = s.slotFor u c ∧
              ∀ j, j < nd.rec_.size c → ∃ w th, t.wave? core (x.slots.getD (j / 32) 0) = some w ∧ w.crew = x.crew ∧
                w.threads.find (j % 32) = some th ∧ th.pc = BitVec.ofNat 58 nd.rec_.entry.toNat ∧ th.rank = j ∧
                th.hold = .ready ∧ w.get (.v 0) (j % 32) = coded (BitVec.ofNat 32 (c * nd.rec_.crewsz + j)) ∧
                w.get (.v 1) (j % 32) = coded (BitVec.ofNat 32 c) ∧
                w.get (.v 2) (j % 32) = coded (BitVec.ofNat 32 nd.pkt.param.toNat) ∧
                w.get (.v 4) (j % 32) = coded (BitVec.ofNat 32 nd.pkt.node))))) ∧
    (∀ spots ls cause a f, s.arg = .place cl spots → s.headDown cl = some (.place u ms) → s.node? u = some nd →
      nd.stopped = false → (s.ctx nd.ctx).stopping = false → (ms.any fun m => s.turnsAway m.1 nd.ctx) = false →
      spots.length = ms.length → ((ms.zip spots).all fun e => s.spotOk nd e.1.2 e.1.1 e.2) = true →
      (spots.flatMap fun x => x.ids).Nodup → s.held? (.node u) = none →
      (s.allLaunches nd ms = (.error (core, .bad cause ls a), s1) → ∃ t, exec .place s = .next t ∧
        (t.ctx nd.ctx).stopping = true ∧ (t.ctx nd.ctx).fault = some ⟨cause, ls, a, core, 0, u⟩) ∧
      (s.allLaunches nd ms = (.error (core, .wait a f i), s1) → ∃ t, ∃ h ∈ t.hazel.held, exec .place s = .next t ∧
        (h.who, h.fatal, h.va, h.core) = (.node u, false, a, core) ∧ ∃ r ∈ t.recs, r.uid = h.uid)) ∧
    (∀ i ks b x, s.arg = .ended cl → (s.cluster cl).up.flight = .ended core u c i ks b :: rest → s.node? u = some nd →
      let s0 := s.modCluster cl fun x => { x with up := x.up.consume }
      (nd.stopped = true → ∃ t nd', exec .ended s = .next t ∧ t.node? u = some nd' ∧
        (nd'.ended, nd'.sumI, nd'.sumK, nd'.sumB) = (nd.ended + 1, nd.sumI + i, nd.sumK + ks, nd.sumB + b)) ∧
      (nd.stopped = false → nd.total ≤ nd.placed → nd.again = [] → s0.nodeLive u = false → nd.replay = none →
        (nd.pkt.sigva = 0 → ∃ t, exec .ended s = .next t ∧ recorded s t 0 0 ∧ (t.cluster cl).up.flight = rest) ∧
        (nd.pkt.sigva ≠ 0 → ∃ t nd', exec .ended s = .next t ∧ t.node? u = some nd' ∧ nd'.signal = true)) ∧
      (x = u → s0.nodeLive u = true → ∃ t nd', exec .ended s = .next t ∧ t.node? x = some nd' ∧ nd'.ended = nd.ended + 1)) ∧
    (s.arg = .completionSignalWrite u → s.node? u = some nd → nd.signal = true → nd.stopped = false → nd.replay = none →
      let write := s.signalWrite nd.ctx (s.queue nd.queue).waitk nd.pkt
      (s.held? (.node u) = none →
        (write = (.done, s1) → ∃ t, exec .completionSignalWrite s = .next t ∧ recorded s1 t 0 0) ∧
        (write = (.fatal, s1) → ∃ t, exec .completionSignalWrite s = .next t ∧ recorded s1 t 5 (fsumOf 0 nd.pkt.sigva 0 0)) ∧
        (∀ x l, write = (.wait x l, s1) → ∃ t, ∃ h ∈ t.hazel.held, exec .completionSignalWrite s = .next t ∧
          (h.who, h.fatal) = (.node u, false) ∧ ∃ r ∈ t.recs, r.uid = h.uid)) ∧
      (s.held? (.node u) = some true → ∃ t, exec .completionSignalWrite s = .next t ∧
        recorded s t 5 (fsumOf 0 nd.pkt.sigva 0 0))) ∧
    (s.arg = .eventRecordWrite ctx → (s.ctx ctx).pend = r :: pend → (s.ctx ctx).dump = none → s.held? (.events ctx) = none →
      let x := s.ctx ctx
      s.unitRead ctx x.evrd 2 = (.ok ws, s1) →
      (BitVec.ofNat 64 x.evwr - BitVec.ofNat 64 (dwordOf ws)).toNat ≠ 2 ^ x.evlog →
      let put := s1.unitPuts (unitAgent ctx) (x.evbase + 32 * (x.evwr % 2 ^ x.evlog)) (codedBytes (r.bytes s1.time))
      (put = (none, s2) → ∃ t, exec .eventRecordWrite s = .next t ∧ (t.ctx ctx).pend = pend ∧
        (t.ctx ctx).evwr = (s2.ctx ctx).evwr + 1 ∧
        ((s2.ctx ctx).evCount + 1 < (s2.ctx ctx).cnt → t.out.irqs = s2.out.irqs) ∧
        ((s2.ctx ctx).cnt ≤ (s2.ctx ctx).evCount + 1 → t.out.irqs = s2.out.irqs ++ [((s2.ctx ctx).irq, 2)])) ∧
      (∀ f, put = (some (.fault f), s2) → ∃ t, exec .eventRecordWrite s = .next t ∧ (t.ctx ctx).pend = [])) ∧
    (s.arg = .eventIrqTimer ctx → (s.ctx ctx).evOldest = some n → (s.ctx ctx).timeus ≠ 0 →
      n + (s.ctx ctx).timeus * 2500 ≤ s.cycle → ∃ t, exec .eventIrqTimer s = .next t ∧ SameMemory s t ∧
        t.out.irqs = s.out.irqs ++ [((s.ctx ctx).irq, 2)] ∧
        ((t.ctx ctx).evCount, (t.ctx ctx).evOldest) = (0, none)) ∧
    (∀ cause tc pc addr lane stop, s.arg = .fault cl →
      (s.cluster cl).up.flight = .fault cause tc pc addr core lane ctx u stop :: rest →
      (stop = true → ∃ t, exec .fault s = .next t ∧ SameMemory s t ∧ running t ∧
        t.out.pewter = s.out.pewter ++ [.breakpoint ctx core lane pc]) ∧
      (stop = false → ∃ t, exec .fault s = .next t ∧ running t ∧
        (∀ q x, s.hazel.queues.find q = some x → x.ctx = ctx → (t.queue q).stopped = true) ∧
        (∀ e ∈ t.hazel.resumes, e.ctx ≠ ctx) ∧ ∀ a ∈ t.hazel.audits, a.ctx ≠ ctx)) ∧
    (s.arg = .cancel cl → s.headDown cl = some (.cancel ctx) → ∃ t, exec .cancel s = .next t ∧
      (∀ x, x / 4 = cl → ∀ e ∈ (t.core x).crews, e.2.ctx ≠ ctx) ∧ SameStacks s t) ∧
    (∀ slot lanes w, s.arg = .continueCrew cl → s.headDown cl = some (.continue_ core i pc) → s.crew? core i = some k →
      k.bkstop = some (slot, lanes) → s.wave? core slot = some w →
      (pc.any badTarget = true → exec .continueCrew s = .next (s.consumeDown cl)) ∧
      (pc.any badTarget = false → ∃ t w' k', exec .continueCrew s = .next t ∧ t.wave? core slot = some w' ∧ t.crew? core i = some k' ∧
        (k'.bkstop, k'.phase) = (none, if k.phase = .stopped then .run else k.phase) ∧ SameMemory s t ∧
        ∀ l th, w.threads.find l = some th →
          (lanes.getLsbD l = true → w'.threads.find l =
            some { th with hold := .ready, pc := (pc.getD (w.trappc + 4)).setWidth 58 }) ∧
          (lanes.getLsbD l = false → th.hold ≠ .room → w'.threads.find l = some th))) ∧
    (s.arg = .test cl → s.headDown cl = some (.test core) → ∃ t, exec .test s = .next t ∧ SameMemory s t ∧
      (t.core core).testAsked = true ∧ ((s.core core).crews = [] → (t.core core).testing = true) ∧
      SameWaves s t ∧
      (∀ c j k, s.crew? c j = some k → ∃ k', t.crew? c j = some k' ∧
        (k'.ctx, k'.node, k'.cidx, k'.decl, k'.spad) = (k.ctx, k.node, k.cidx, k.decl, k.spad) ∧
        (k.preempt.isSome = true → k' = k)) ∧
      ∀ j k, s.crew? core j = some k → ∀ y ∈ s.unit core j k, (s.crew? y.1 y.2.1).isSome = true →
        ∃ k', t.crew? y.1 y.2.1 = some k' ∧ k'.preempt.isSome = true) ∧
    (s.arg = .testEnd core passed → (s.core core).testing = true → ∃ t, exec .testEnd s = .next t ∧ SameMemory s t ∧
      ((t.core core).testing, (t.core core).testAsked) = (false, false) ∧
      (passed = true → t.clusters = s.clusters ∧ (t.core core).condemned = (s.core core).condemned) ∧
      (passed = false → (t.core core).condemned = true ∧
        (t.cluster (core / 4)).up = (s.cluster (core / 4)).up.send (.condemned core))) ∧
    (s.arg = .misscapWrite cl → s.headDown cl = some (.misscap core v) → ∃ t, exec .misscapWrite s = .next t ∧ SameMemory s t ∧
      bvf (t.core core).misscap 16 8 = bvf v 16 8 ∧
      (bvf v 0 6 ≤ 32 → bvf (t.core core).misscap 0 6 = bvf v 0 6) ∧
      (32 < bvf v 0 6 → bvf (t.core core).misscap 0 6 = bvf (s.core core).misscap 0 6))

/-- R333, R334, R344 to R356, R358 to R362 and R397: requests for pre-emption rise and are answered; a unit of crews is granted
one run or is refused it; a commanded crew is captured once its windows are shut and its operations over, leaves its core and
waits as a resume entry; a record that passes its checks is restored, one that does not ends its context; a shadow is taken
and a rollback restores what the shadow's record holds; the crews on cores that leave a partition are to be saved. The model's
own choices, all DEDUCED: one run for a unit, whose base an extension keeps (log 64), a flush that is no longer possible is a
save (log 95), a shadow's record that fails its checks ends the context as a resume's does (logs 76 and 99), what the record has
no field for is kept beside it (log 48), a rollback finds places for waves whose slots are taken (log 70), and UNFUSE follows
the PREEMPT to a cluster that is fused for another context (log 71). -/
def Obligations.PreemptSteps : Prop :=
  ∀ (s s1 : State) (u c core i m base room cl ctx dl : Nat) (n : Node) (k : Crew) (cores ns : List Nat) (x : Nat × List Cand)
    (l : List (Nat × List Cand)) (cmds : List (Nat × Nat × Nat)) (rest : List Cmd) (e : ResumeEntry) (spots : List Spot)
    (rs : List (List GUnit)) (members : List SavedCrew) (sh : Shadow) (slot : Nat × Nat) (us : List GUnit) (ws bs : List Nat),
    let settled := fun (t : State) (k' : Crew) =>
      ((k.preempt = none ∨ k.preempt = some 0 ∨ (t.core core).windowsShut i = false) →
        k'.phase = if k.bkstop.isSome = true then .stopped else .run) ∧
      ∀ m, k.preempt = some m → m ≠ 0 → (t.core core).windowsShut i = true → k'.phase = .capture m
    (s.arg = .preemptionRequest u → s.node? u = some n → s.mayAsk n = true → n.asked = 0 →
      ∃ t n', exec .preemptionRequest s = .next t ∧ t.hazel.reqs.contains u = true ∧ t.node? u = some n' ∧
        n'.asked = s.nodePrio n + 1 ∧ t.cores = s.cores) ∧
    (s.arg = .priorityRise u → s.node? u = some n → s.wants n = true → n.rec_.prio < s.nodePrio n →
      (n.asked = 0 ∨ n.asked ≠ 0 ∧ n.asked < s.nodePrio n + 1 ∧ s.mayAsk n = false → exec .priorityRise s = .next s) ∧
      (n.asked ≠ 0 → n.asked < s.nodePrio n + 1 → s.mayAsk n = true → ∃ t n', exec .priorityRise s = .next t ∧
        t.hazel.reqs.contains u = true ∧ t.node? u = some n' ∧ n'.asked = s.nodePrio n + 1)) ∧
    (s.arg = .scoreReport u → s.node? u = some n → s.hazel.reqs.contains u = true →
      let s0 := (s.modHazel fun h => { h with reqs := h.reqs.filter fun y => y != u }).readLive n.ctx
      (s0.leastReport (s0.arriving n) = none → ∃ t, exec .scoreReport s = .next t ∧ t.hazel.reqs.contains u = false ∧
        ∀ c, (t.cluster c).down = (s.cluster c).down) ∧
      (s0.leastReport (s0.arriving n) = some (x :: l) → ∃ t cmds, exec .scoreReport s = .next t ∧
        t.hazel.reqs.contains u = false ∧
        (∀ y ∈ x :: l, ∃ r ∈ (t.core y.1).reserved, (r.node, r.decl) = (u, (s0.arriving n).decl)) ∧
        (∀ c r, r ∈ (s.core c).reserved → r.node ≠ u → r ∈ (t.core c).reserved) ∧
        (let sent := (s.cluster (x.1 / 4)).down.send (.preempt (n.ready.getD s.cycle + n.rec_.latb * 2500) cmds)
        (t.cluster (x.1 / 4)).down = if (s.cluster (x.1 / 4)).fused = true ∧ s.foreign (x.1 / 4) n.ctx = true
          then sent.send .unfuse else sent) ∧
        ∀ y ∈ cmds, ∃ z ∈ x :: l, ∃ d ∈ z.2, (y.1, y.2.1) ∈ d.members ∧ y.2.2 = d.est.method)) ∧
    (s.crew? core i = some k →
      let un := s.unit core i k
      s.needs (s.methodNow ((un.findSome? fun y => y.2.2.preempt).getD 1) un == 2) un = (ns, s1) →
      let named := un.any fun y => y.2.2.preempt.isSome
      (∀ y ∈ un, s.crew? y.1 y.2.1 = some y.2.2) → s1.hazel.reqs ≠ [] ∨ named = true →
      (∀ r, heldRun un = some r → r.2 < ns.sum) →
      (s.arg = .heapGrantReply core i (some base) → (s1.runOk base ns.sum k.ctx (un.filterMap fun y => y.2.2.grant)) = true →
        (∀ r, heldRun un = some r → r.1 = base) →
        ∃ t, exec .heapGrantReply s = .next t ∧ (Undisturbed s t → SameMemory s t) ∧
          (∀ c, (t.core c).waves = (s.core c).waves) ∧
          (∀ y ∈ un, ∃ k', t.crew? y.1 y.2.1 = some k' ∧ k'.grant.isSome = true) ∧
          (k.setn = 0 → t.crew? core i = some { k with grant := some (base, ns.sum), refused := false })) ∧
      (s.arg = .heapGrantReply core i none →
        (named = false → ∃ t, exec .heapGrantReply s = .next t ∧
          ∀ y ∈ un, t.crew? y.1 y.2.1 = some { y.2.2 with grant := none }) ∧
        (named = true → s1.mustSave un = true → ∃ t, exec .heapGrantReply s = .next t ∧
          ∀ y ∈ un, t.crew? y.1 y.2.1 = some { y.2.2 with
            grant := none, refused := !(s.ctx y.2.2.ctx).partition.contains y.1 }) ∧
        (named = true → s1.mustSave un = false → ∃ t, exec .heapGrantReply s = .next t ∧
          ∀ y ∈ un, ∃ k', t.crew? y.1 y.2.1 = some k' ∧ (k'.grant, k'.preempt, k'.spad) = (none, none, y.2.2.spad) ∧
            (∀ m, k'.phase ≠ .capture m) ∧ ∀ r ∈ (s.core y.1).reserved, r.taken.contains y.2.1 = true →
              t.hazel.reqs.contains r.node = true))) ∧
    (s.arg = .preempt cl → s.headDown cl = some (.preempt dl cmds) → ∃ t, exec .preempt s = .next t ∧ SameMemory s t ∧
      (∀ y ∈ cmds, y.2.2 ≠ 0 → ∀ k, s.crew? y.1 y.2.1 = some k → ∃ k', t.crew? y.1 y.2.1 = some k' ∧
        k'.preempt.isSome = true ∧ { k'.body with bar := k.body.bar } = k.body ∧ k'.spad = k.spad) ∧ SameWaves s t) ∧
    (s.arg = .capture core i → s.crew? core i = some k → s.capturable core i k = some m → (s.ctx k.ctx).stopping = false →
      let un := s.unit core i k
      heldRun un = some (base, room) → (∀ y ∈ un, (s.capturable y.1 y.2.1 y.2.2).isSome = true) →
      (un.foldl (fun s y => s.release y.1 k.ctx none 6) s).writeRecords (s.methodNow m un) base room un = some (members, s1) →
      ∃ t e, exec .capture s = .next t ∧ (∀ y ∈ un, t.crew? y.1 y.2.1 = none) ∧
        (e.ctx, e.node, e.members, e.decl, e.replay, e.time) = (k.ctx, k.node, members, k.decl, k.replay, s1.cycle) ∧
        (t.cluster (core / 4)).up = (s1.cluster (core / 4)).up.send (.saved core e)) ∧
    (s.arg = .saved cl → (s.cluster cl).up.flight = .saved c e :: rest →
      ((s.ctx e.ctx).stopping = false → s.node? e.node ≠ none → s.replayOver e = false → ∃ t, exec .saved s = .next t ∧
        t.hazel.resumes = s.hazel.resumes ++ [e] ∧ SameMemory s t) ∧
      ((s.ctx e.ctx).stopping = true ∨ s.node? e.node = none ∨ s.replayOver e = true → ∃ t, exec .saved s = .next t ∧
        t.hazel.resumes = s.hazel.resumes ∧ SameMemory s t)) ∧
    (s.arg = .resume u core spots → (s.hazel.resumes.find? fun e => e.uid == u) = some e → s.dispatchable e.ctx = true →
      s.first (s.entryPrio e) e.node = true → s.fitsResume e core = true → spots.length = e.members.length →
      (e.seats core spots).all (s.seatOk e) = true → s.records (e.seats core spots) = (rs, s1) →
      let ms := (e.seats core spots).zip rs
      let sound := fun (y : Member × List GUnit) => recordOk y.2 e.ctx y.1.saved.len (maxDepth (s1.ctx e.ctx).privsz) [1, 2] && declOk y.2 e y.1.saved
      (ms.any (fun y => !sound y) = true → ∃ t, exec .resume s = .next t ∧
        (∀ y ∈ t.hazel.resumes, y.uid ≠ u) ∧ (t.ctx e.ctx).stopping = true) ∧
      (ms.all sound = true → ∃ t, exec .resume s = .next t ∧ (∀ y ∈ t.hazel.resumes, y.uid ≠ u) ∧
        (∀ y ∈ ms, ∃ k', t.crew? y.1.core y.1.spot.crew = some k' ∧ k'.node = e.node) ∧
        ((rs.any fun us => bitAt (unitsAt us 13 1) 1) = true → ∃ l,
          (t.cluster (core / 4)).down.flight ++ (t.cluster (core / 4)).down.waiting = l ++ [.fuse]))) ∧
    (s.arg = .shadow core i → s.crew? core i = some k → k.slot = some slot → k.phase = .shadow →
      (s.ctx k.ctx).stopping = false → s.crewQuiet core i = true →
      ∃ t k', exec .shadow s = .next t ∧ t.crew? core i = some k' ∧
        k'.shadow = some ⟨((s.core core).wavesOf i).map fun y => y.1, ((s.core core).binsOf i).map fun y => y.1,
          (k.body.bar.map fun b => b.firstPc).getD 0⟩ ∧
        { k'.body with bar := k.body.bar } = k.body ∧
        (k'.spad, k'.interval, k'.escaped, k'.retry, k'.lastBad) = (k.spad, 0, false, false, none) ∧ settled t k' ∧
        ∀ j w, s.wave? core j = some w → ∃ w', t.wave? core j = some w' ∧ (w'.v, w'.s, w'.p, w'.q) = (w.v, w.s, w.p, w.q) ∧
          ∀ q th, w.threads.find q = some th → ∃ th', w'.threads.find q = some th' ∧ th'.seen = th.seen ∧
            (th.hold ≠ .room → th'.hold = th.hold)) ∧
    (s.arg = .rollback core i → s.crew? core i = some k → k.shadow = some sh → k.slot = some slot → k.phase = .rollback m →
      (s.ctx k.ctx).stopping = false → s.crewQuiet core i = true →
      let others := (s.core core).waves.filter fun e => e.2.crew != i
      let obins := (s.core core).bins.filter fun e => e.2.crew != i
      sh.slots.length ≤ ({ s.core core with waves := others }).waveRoom k.decl.vregs k.decl.sregs →
      seats ((span 0 32).filter fun j => (Map.find others j).isNone) sh.slots = some ws →
      seats ((span 0 16).filter fun j => (Map.find obins j).isNone) sh.bins = some bs →
      s.slotRecord slot = (us, s1) →
      let deep := maxDepth (s1.ctx k.ctx).privsz
      (recordOk us k.ctx (unitsAt us 32 4) deep [3] = false → ∃ t, exec .rollback s = .next t ∧ (t.ctx k.ctx).stopping = true) ∧
      (recordOk us k.ctx (unitsAt us 32 4) deep [3] = true →
        let r := restored us k i (s1.cycOf core) (s1.waitPred core k.ctx)
        ∃ t k', exec .rollback s = .next t ∧ t.crew? core i = some k' ∧
          { k'.body with bar := r.crew.body.bar } = r.crew.body ∧ k'.interval = 0 ∧ settled t k' ∧
          k'.spad = restoreLines k.spad r.crew.spad k.interval ∧
          (ws.Nodup → sh.slots.length = r.waves.length → ∀ y ∈ ws.zip r.waves, ∃ w', t.wave? core y.1 = some w' ∧
            (w'.v, w'.s, w'.p, w'.q, w'.idempc, w'.arrive, w'.nprem) =
              (y.2.v, y.2.s, y.2.p, y.2.q, y.2.idempc, y.2.arrive, y.2.nprem)) ∧
          ∀ j w, s.wave? core j = some w → w.crew ≠ i → j ∉ ws →
            ∃ ths, t.wave? core j = some { w with threads := ths })) ∧
    (s.arg = .partitionReplace ctx cores → ctx < 4096 → cores.Nodup → (∀ c ∈ cores, c < 192) →
      (s.partitionOk ctx cores = false → exec .partitionReplace s = .next s.refuse) ∧
      (s.partitionOk ctx cores = true →
        ∃ t, exec .partitionReplace s = .next t ∧ SameMemory s t ∧ (t.ctx ctx).partition = sortBy id cores ∧
          SameWaves s t ∧
          ∀ c ∈ (s.ctx ctx).partition, c ∉ cores → ∀ i k, s.crew? c i = some k → k.ctx = ctx →
            ∀ y ∈ s.unit c i k, (s.crew? y.1 y.2.1).isSome = true →
              ∃ k', t.crew? y.1 y.2.1 = some k' ∧ k'.preempt.isSome = true))

/-- R163, R165, R171, R181 to R183, R187, R202, R213, R267, R305, R339, R365, R366 and R392: steps of the crews and waves of a core:
waits and bins that time out, throttling and its turns of 256 cycles, the end of a window, writes of registers that have a row
of their own, a rejected pattern, the barrier watchdog and its dump, and the end of a crew, for which a multicast that names its
core is waited. Times count the cycles of the core's die. The model's own choices: a bin keeps the limit of its first record (log
96, DESIGN CHOICE), and the permitted waves of a turn are chosen by rank whether throttling acts or not (log 107, DESIGN CHOICE). -/
def Obligations.CrewSteps : Prop :=
  ∀ (s s1 : State) (core slot lane q pd e i crew ctx : Nat) (w : Wave) (th : Thread) (b : Bin) (k : Crew) (ids : List Nat)
    (m : BitVec 5) (v : BitVec 64) (ill : Bool) (word : BitVec 32) (p : Pod) (cb : CrewBar) (us : List GUnit),
    (s.arg = .waitTimeout core slot lane → s.wave? core slot = some w → w.threads.find lane = some th →
      th.hold = .wait q pd e → e ≤ s.cycOf core → lane < 32 → s.ported.contains (portOf core slot) = true →
      w.complete q = false → ∃ t w', exec .waitTimeout s = .next t ∧ SameMemory s t ∧
        t.wave? core slot = some w' ∧ w'.threads.find lane = some { th with hold := .ready, pc := th.pc + 4 } ∧
        w'.pred pd lane = true ∧ (w'.mask q).arrived.getLsbD lane = false ∧ (w'.mask q).member = (w.mask q).member ∧
        (∀ j, j ≠ lane → w'.threads.find j = w.threads.find j) ∧ ∀ r l, w'.get r l = w.get r l) ∧
    (s.arg = .binTimeout core i → (s.core core).bins.find i = some b → b.flush = false → b.since + b.limit ≤ s.cycOf core →
      ∃ t, exec .binTimeout s = .next t ∧ (t.core core).bins.find i = some { b with flush := true } ∧ SameMemory s t) ∧
    (s.arg = .binWaveForm core i slot ids → (s.core core).bins.find i = some b → s.crew? core b.crew = some k →
      b.flush = true → k.phase = .run ∨ (k.phase = .capture pd ∧ (s.core core).members b.crew = []) → (s.ctx k.ctx).stopping = false → slot < 32 → s.wave? core slot = none →
      1 ≤ (s.core core).waveRoom k.decl.vregs k.decl.sregs → ((s.core core).members b.crew).length + b.recs.length ≤ 1024 →
      b.recs.length ≤ 32 → ids.length = b.recs.length → ids.Nodup → (∀ x ∈ ids, x < 2 ^ 24 ∧ (s.ctx k.ctx).ids.contains x = false) →
      ∃ t w', exec .binWaveForm s = .next t ∧ SameMemory s t ∧ t.wave? core slot = some w' ∧ w'.crew = b.crew ∧
        (t.core core).bins.find i = none ∧ (t.ctx k.ctx).ids = (s.ctx k.ctx).ids ++ ids ∧
        ∀ j, j < b.recs.length → ∃ th, w'.threads.find j = some th ∧ th.pc = b.pc ∧ th.id = ids.getD j 0 ∧ th.hold = .ready ∧
          ∀ r, r < min 14 k.decl.vregs → (∀ x ∈ b.recs, x.length = 16) →
            w'.get (.v r) j = (b.recs.getD j []).getD (r + 2) .zero) ∧
    (s.arg = .llsDecay core → (s.core core).decays < s.cycOf core / 256 → ∃ t, exec .llsDecay s = .next t ∧ SameMemory s t ∧
      (t.core core).decays = (s.core core).decays + 1 ∧
      ∀ j w, s.wave? core j = some w → t.wave? core j = some { w with lls := w.lls - w.lls / 8 }) ∧
    (s.arg = .throttleSelect core → (s.core core).selects < s.cycOf core / 256 →
      ∃ t, exec .throttleSelect s = .next t ∧ SameMemory s t ∧ (t.core core).selects = s.cycOf core / 256 ∧
        (bvf (s.core core).misscap 0 6 = 0 → (t.core core).permitted = none) ∧
        (bvf (s.core core).misscap 0 6 ≠ 0 → ∃ l, (t.core core).permitted = some l ∧
          l.length = min (bvf (s.core core).misscap 0 6) (s.core core).waves.length ∧
          ∀ j ∈ l, (s.wave? core j).isSome = true)) ∧
    (s.arg = .throttleBypass core slot → s.wave? core slot = some w → w.heldAt = some e → e + 4096 ≤ s.cycOf core →
      exec .throttleBypass s = .next { s with agenda := .issue core slot none (portMates slot) :: s.agenda }) ∧
    (s.arg = .nopreWindowExpire core slot → s.wave? core slot = some w → s.crew? core w.crew = some k →
      k.preempt = some i → i ≠ 0 → w.nprem = 0 → (s.core core).windowsShut w.crew = true → k.phase = .run ∨ k.phase = .stopped →
      ∃ t, exec .nopreWindowExpire s = .next t ∧ SameMemory s t ∧
        t.crew? core w.crew = some (k.setPhase (.capture i) (s.cycOf core)) ∧ SameWaves s t) ∧
    (s.arg = .tdescWrite core crew m v → s.crew? core crew = some k →
      (∀ t, s.writeTdesc core crew m.toNat k v = some t → exec .tdescWrite s = .next t ∧ SameMemory s t) ∧
      (s.writeTdesc core crew m.toNat k v = none → s.pod = none → exec .tdescWrite s = .next s) ∧
      (s.writeTdesc core crew m.toNat k v = none → Issuing s p w k → p.core = core → w.crew = crew →
        exec .tdescWrite s = .next (s.raise p w k (.plain .slab p.low)))) ∧
    (s.arg = .arriveWrite core slot v → s.wave? core slot = some w → ∃ t, exec .arriveWrite s = .next t ∧ SameMemory s t ∧
      t.wave? core slot = some { w with arrive := v.setWidth 32 + BitVec.ofNat 32 w.landed } ∧ ∀ j, j ≠ slot → t.wave? core j = s.wave? core j) ∧
    (s.arg = .illegalEncoding ill word → Issuing s p w k →
      exec .illegalEncoding s = .next (s.raise p w k (.plain (if ill = true then .ill else .und) p.low))) ∧
    (s.arg = .barrierWatchdogFire core crew → s.crew? core crew = some k → k.body.bar = some cb → k.barto ≠ 0 → k.phase = .run →
      (s.ctx k.ctx).stopping = false → k.barto * 1024 ≤ cb.cycles (s.cycOf core) → k.replay = none →
      ∃ t, exec .barrierWatchdogFire s = .next t ∧ SameMemory s t ∧ (t.ctx k.ctx).stopping = true ∧
        (t.ctx k.ctx).fault = some ⟨.barto, cb.firstPc, 0, core, 0, k.node⟩ ∧
        ((s.ctx k.ctx).diagva.getLsbD 0 = true → (t.ctx k.ctx).dump = some (codedBytes (s.dumpBytes core crew k cb))) ∧
        ((s.ctx k.ctx).diagva.getLsbD 0 = false → (t.ctx k.ctx).dump = (s.ctx k.ctx).dump)) ∧
    (s.arg = .diagDumpWrite ctx → (s.ctx ctx).dump = some us → s.crewsLeft ctx = false → s.held? (.dump ctx) = none →
      let put := s.unitPuts (unitAgent ctx) (bvf (s.ctx ctx).diagva 15 43 * 2 ^ 15) us
      ((∀ n c l, put.1 ≠ some (.replay n c l)) → ∃ t, exec .diagDumpWrite s = .next t ∧ SameMemory put.2 t ∧
        (t.ctx ctx).dump = none) ∧
      (∀ n c l, put = (some (.replay n c l), s1) → ∃ t, ∃ h ∈ t.hazel.held, exec .diagDumpWrite s = .next t ∧
        (h.who, h.fatal) = (.dump ctx, false) ∧ (∃ r ∈ t.recs, r.uid = h.uid) ∧ (t.ctx ctx).dump = (s1.ctx ctx).dump)) ∧
    (s.arg = .crewEnd core crew → s.crew? core crew = some k → s.awaited core k = true →
      exec .crewEnd s = .fault .notEnabled) ∧
    (s.arg = .crewEnd core crew → s.crew? core crew = some k → ((s.core core).members crew) = [] →
      ((s.core core).binsOf crew) = [] → s.crewQuiet core crew = true → s.awaited core k = false → (s.ctx k.ctx).stopping = false →
      k.audit = none → k.replay = none → ∃ t, exec .crewEnd s = .next t ∧ t.crew? core crew = none ∧
        (t.cluster (core / 4)).up = (s.cluster (core / 4)).up.send (.ended core k.node k.cidx k.issued k.ksteps k.bars) ∧
        ∀ j w, t.wave? core j = some w → w.crew ≠ crew)
end

