-- ==== Sys2Proof/Laws/Maps.lean ====
section
/-! SUPPORT. Laws of the sparse maps: reading after writing, and the canonical form of a memory. -/

namespace Sys2Proof.Machine

/-- All keys of a map are at least a bound. -/
def Map.above {α : Type} (m : Map α) (b : Nat) : Prop := ∀ e ∈ m, b ≤ e.1

theorem Map.rising_cons {α : Type} (k : Nat) (v : α) (m : Map α) :
    Map.rising ((k, v) :: m) = true ↔ m.above (k + 1) ∧ Map.rising m = true := by
  induction m generalizing k v with
  | nil => simp [Map.rising, Map.above]
  | cons e m ih =>
    obtain ⟨j, w⟩ := e
    constructor
    · intro h
      simp only [Map.rising, Bool.and_eq_true, decide_eq_true_eq] at h
      refine ⟨?_, h.2⟩
      have := ((ih j w).1 h.2).1
      intro e he
      rcases List.mem_cons.1 he with rfl | he
      · exact h.1
      · exact Nat.le_trans (by omega) (this e he)
    · intro h
      simp only [Map.rising, Bool.and_eq_true, decide_eq_true_eq]
      exact ⟨h.1 (j, w) (by simp), h.2⟩

theorem Map.above_set {α : Type} {m : Map α} {b i : Nat} (x : α) (h : m.above b) (hi : b ≤ i) : (Map.set m i x).above b := by
  induction m with
  | nil => intro e he; simp only [Map.set, List.mem_singleton] at he; subst he; exact hi
  | cons e m ih =>
    obtain ⟨k, v⟩ := e
    have hm : Map.above m b := fun e he => h e (List.mem_cons_of_mem _ he)
    intro e he
    unfold Map.set at he
    split at he
    · rcases List.mem_cons.1 he with rfl | he
      · exact hi
      · exact h e he
    · split at he
      · rcases List.mem_cons.1 he with rfl | he
        · exact hi
        · exact hm e he
      · rcases List.mem_cons.1 he with rfl | he
        · exact h _ (by simp)
        · exact ih hm e he

theorem Map.above_del {α : Type} {m : Map α} {b : Nat} (i : Nat) (h : m.above b) : (Map.del m i).above b := by
  induction m with
  | nil => exact h
  | cons e m ih =>
    obtain ⟨k, v⟩ := e
    have hm : Map.above m b := fun e he => h e (List.mem_cons_of_mem _ he)
    intro e he
    unfold Map.del at he
    split at he
    · exact ih hm e he
    · rcases List.mem_cons.1 he with rfl | he
      · exact h _ (by simp)
      · exact ih hm e he

/-- Setting an entry keeps the keys rising. -/
theorem Map.rising_set {α : Type} {m : Map α} (i : Nat) (x : α) (h : Map.rising m = true) : Map.rising (Map.set m i x) = true := by
  induction m with
  | nil => rfl
  | cons e m ih =>
    obtain ⟨k, v⟩ := e
    have hh := (Map.rising_cons k v m).1 h
    unfold Map.set
    split
    · refine (Map.rising_cons i x _).2 ⟨?_, h⟩
      intro e he
      rcases List.mem_cons.1 he with rfl | he
      · omega
      · exact Nat.le_trans (by omega) (hh.1 e he)
    · split
      · rename_i hk
        have : k = i := by simpa using hk
        subst this
        exact (Map.rising_cons k x m).2 hh
      · rename_i h1 h2
        have : k ≠ i := by simpa using h2
        exact (Map.rising_cons k v _).2 ⟨Map.above_set x hh.1 (by omega), ih hh.2⟩

/-- Removing an entry keeps the keys rising. -/
theorem Map.rising_del {α : Type} {m : Map α} (i : Nat) (h : Map.rising m = true) : Map.rising (Map.del m i) = true := by
  induction m with
  | nil => rfl
  | cons e m ih =>
    obtain ⟨k, v⟩ := e
    have hh := (Map.rising_cons k v m).1 h
    unfold Map.del
    split
    · exact ih hh.2
    · exact (Map.rising_cons k v _).2 ⟨Map.above_del i hh.1, ih hh.2⟩

theorem Map.mem_set {α : Type} {m : Map α} {i : Nat} {x : α} {e : Nat × α} (h : e ∈ Map.set m i x) : e = (i, x) ∨ e ∈ m := by
  induction m with
  | nil => exact .inl (by simpa [Map.set] using h)
  | cons f m ih =>
    obtain ⟨k, v⟩ := f
    unfold Map.set at h
    split at h
    · exact List.mem_cons.1 h
    · split at h
      · exact (List.mem_cons.1 h).imp_right (List.mem_cons_of_mem _)
      · rcases List.mem_cons.1 h with rfl | h
        · exact .inr (by simp)
        · exact (ih h).imp_right (List.mem_cons_of_mem _)

theorem Map.mem_del {α : Type} {m : Map α} {i : Nat} {e : Nat × α} (h : e ∈ Map.del m i) : e ∈ m := by
  induction m with
  | nil => exact h
  | cons f m ih =>
    obtain ⟨k, v⟩ := f
    unfold Map.del at h
    split at h
    · exact List.mem_cons_of_mem _ (ih h)
    · rcases List.mem_cons.1 h with rfl | h
      · simp
      · exact List.mem_cons_of_mem _ (ih h)

/-- A key outside a map whose keys are above it. -/
theorem Map.find_above {α : Type} {m : Map α} {i : Nat} (h : m.above (i + 1)) : Map.find m i = none := by
  induction m with
  | nil => rfl
  | cons e m ih =>
    obtain ⟨k, v⟩ := e
    have hk : i + 1 ≤ k := h (k, v) (by simp)
    have : (k == i) = false := by simp; omega
    simp only [Map.find, this, Bool.false_eq_true, if_false]
    exact ih fun e he => h e (List.mem_cons_of_mem _ he)

/-- Reading the entry that was set. -/
@[simp] theorem Map.find_set_self {α : Type} (m : Map α) (i : Nat) (x : α) : Map.find (Map.set m i x) i = some x := by
  induction m with
  | nil => simp [Map.set, Map.find]
  | cons e m ih =>
    obtain ⟨k, v⟩ := e
    unfold Map.set
    split
    · simp [Map.find]
    · split
      · simp [Map.find]
      · rename_i h2
        simp only [Map.find, h2, if_false, Bool.false_eq_true]
        exact ih

/-- Setting leaves every other entry alone. -/
theorem Map.find_set_ne {α : Type} (m : Map α) {i j : Nat} (x : α) (h : i ≠ j) : Map.find (Map.set m i x) j = Map.find m j := by
  have hb : (i == j) = false := by simpa using h
  induction m with
  | nil => simp [Map.set, Map.find, hb]
  | cons e m ih =>
    obtain ⟨k, v⟩ := e
    unfold Map.set
    split
    · simp only [Map.find, hb, Bool.false_eq_true, if_false]
    · split
      · rename_i h2
        have : k = i := by simpa using h2
        subst this
        simp only [Map.find, hb, Bool.false_eq_true, if_false]
      · simp only [Map.find, ih]

/-- Removing leaves every other entry alone. -/
theorem Map.find_del_ne {α : Type} (m : Map α) {i j : Nat} (h : i ≠ j) : Map.find (Map.del m i) j = Map.find m j := by
  induction m with
  | nil => rfl
  | cons e m ih =>
    obtain ⟨k, v⟩ := e
    unfold Map.del
    split
    · rename_i h2
      have h3 : k = i := by simpa using h2
      have : (k == j) = false := by simpa [h3] using h
      simp only [Map.find, this, Bool.false_eq_true, if_false, ih]
    · simp only [Map.find, ih]

/-- A removed entry is absent. -/
@[simp] theorem Map.find_del_self {α : Type} (m : Map α) (i : Nat) : Map.find (Map.del m i) i = none := by
  induction m with
  | nil => rfl
  | cons e m ih =>
    obtain ⟨k, v⟩ := e
    unfold Map.del
    split
    · exact ih
    · rename_i h2
      simp only [Map.find, h2, if_false, Bool.false_eq_true, ih]

/-- Reading an entry that was put. -/
@[simp] theorem Map.getD_put_self {α : Type} [DecidableEq α] (m : Map α) (i : Nat) (x z : α) :
    Map.getD (Map.put m i x z) i z = x := by
  unfold Map.put Map.getD
  split
  · next h => rw [Map.find_del_self]; exact h.symm
  · rw [Map.find_set_self]; rfl

/-- Putting an entry leaves every other one alone. -/
theorem Map.getD_put_ne {α : Type} [DecidableEq α] (m : Map α) {i j : Nat} (x z y : α) (h : i ≠ j) :
    Map.getD (Map.put m i x z) j y = Map.getD m j y := by
  unfold Map.put Map.getD
  split
  · rw [Map.find_del_ne m h]
  · rw [Map.find_set_ne m x h]

/-! ### Memory -/

/-- Reading the byte that was written. -/
theorem Memory.get_put_self (m : List Host.Cell) (a : Nat) (b : Byte) : Memory.get (Memory.put m a b) a = b :=
  Map.getD_put_self m a b 0

/-- Writing a byte leaves every other byte alone. -/
theorem Memory.get_put_ne (m : List Host.Cell) {a c : Nat} (b : Byte) (h : a ≠ c) :
    Memory.get (Memory.put m a b) c = Memory.get m c := Map.getD_put_ne m b 0 0 h

/-- Writing a byte keeps the canonical form. -/
theorem Memory.wf_put {m : List Host.Cell} (a : Nat) (b : Byte) (h : Memory.wf m = true) : Memory.wf (Memory.put m a b) = true := by
  simp only [Memory.wf, Bool.and_eq_true, List.all_eq_true, bne_iff_ne] at h ⊢
  unfold Memory.put Map.put
  split
  · exact ⟨Map.rising_del a h.1, fun e he => h.2 e (Map.mem_del he)⟩
  · rename_i hb
    refine ⟨Map.rising_set a b h.1, fun e he => ?_⟩
    rcases Map.mem_set he with rfl | he
    · exact hb
    · exact h.2 e he

/-- Empty memory is canonical. -/
theorem Memory.wf_nil : Memory.wf [] = true := rfl

/-- Filtering keeps the canonical form. -/
theorem Map.rising_filter {α : Type} {m : Map α} (f : Nat × α → Bool) (h : Map.rising m = true) :
    Map.rising (m.filter f) = true := by
  induction m with
  | nil => rfl
  | cons e m ih =>
    obtain ⟨k, v⟩ := e
    have hh := (Map.rising_cons k v m).1 h
    rw [List.filter_cons]
    split
    · exact (Map.rising_cons k v _).2 ⟨fun e he => hh.1 e (List.mem_of_mem_filter he), ih hh.2⟩
    · exact ih hh.2

theorem Memory.wf_filter {m : List Host.Cell} (f : Host.Cell → Bool) (h : Memory.wf m = true) : Memory.wf (m.filter f) = true := by
  simp only [Memory.wf, Bool.and_eq_true, List.all_eq_true, bne_iff_ne] at h ⊢
  exact ⟨Map.rising_filter f h.1, fun e he => h.2 e (List.mem_of_mem_filter he)⟩

end Sys2Proof.Machine
end

