-- ==== Sys2Proof/Laws/State.lean ====
section
/-! SUPPORT. What each update of the state leaves alone, one lemma per field; and reading back what was updated. -/

namespace Sys2Proof.Machine

@[simp] theorem State.setCore_mem (s : State) (c : Nat) (x : Core) : (s.setCore c x).mem = s.mem := rfl
@[simp] theorem State.setCore_side (s : State) (c : Nat) (x : Core) : (s.setCore c x).side = s.side := rfl
@[simp] theorem State.setCore_marks (s : State) (c : Nat) (x : Core) : (s.setCore c x).marks = s.marks := rfl
@[simp] theorem State.setCore_l2 (s : State) (c : Nat) (x : Core) : (s.setCore c x).l2 = s.l2 := rfl
@[simp] theorem State.setCore_clusters (s : State) (c : Nat) (x : Core) : (s.setCore c x).clusters = s.clusters := rfl
@[simp] theorem State.setCore_dies (s : State) (c : Nat) (x : Core) : (s.setCore c x).dies = s.dies := rfl
@[simp] theorem State.setCore_ctls (s : State) (c : Nat) (x : Core) : (s.setCore c x).ctls = s.ctls := rfl
@[simp] theorem State.setCore_ctxs (s : State) (c : Nat) (x : Core) : (s.setCore c x).ctxs = s.ctxs := rfl
@[simp] theorem State.setCore_recs (s : State) (c : Nat) (x : Core) : (s.setCore c x).recs = s.recs := rfl
@[simp] theorem State.setCore_hazel (s : State) (c : Nat) (x : Core) : (s.setCore c x).hazel = s.hazel := rfl
@[simp] theorem State.setCore_sup (s : State) (c : Nat) (x : Core) : (s.setCore c x).sup = s.sup := rfl
@[simp] theorem State.setCore_osm (s : State) (c : Nat) (x : Core) : (s.setCore c x).osm = s.osm := rfl
@[simp] theorem State.setCore_board (s : State) (c : Nat) (x : Core) : (s.setCore c x).board = s.board := rfl
@[simp] theorem State.setCore_out (s : State) (c : Nat) (x : Core) : (s.setCore c x).out = s.out := rfl
@[simp] theorem State.setCore_pod (s : State) (c : Nat) (x : Core) : (s.setCore c x).pod = s.pod := rfl
@[simp] theorem State.setCore_arg (s : State) (c : Nat) (x : Core) : (s.setCore c x).arg = s.arg := rfl
@[simp] theorem State.setCore_agenda (s : State) (c : Nat) (x : Core) : (s.setCore c x).agenda = s.agenda := rfl
@[simp] theorem State.setCore_cycle (s : State) (c : Nat) (x : Core) : (s.setCore c x).cycle = s.cycle := rfl
@[simp] theorem State.setCore_stamp (s : State) (c : Nat) (x : Core) : (s.setCore c x).stamp = s.stamp := rfl
@[simp] theorem State.setCore_free (s : State) (c : Nat) (x : Core) : (s.setCore c x).free = s.free := rfl
@[simp] theorem State.setCore_heard (s : State) (c : Nat) (x : Core) : (s.setCore c x).heard = s.heard := rfl
@[simp] theorem State.setCore_ported (s : State) (c : Nat) (x : Core) : (s.setCore c x).ported = s.ported := rfl
@[simp] theorem State.setCore_kept (s : State) (c : Nat) (x : Core) : (s.setCore c x).kept = s.kept := rfl

@[simp] theorem State.modCore_mem (s : State) (c : Nat) (f : Core → Core) : (s.modCore c f).mem = s.mem := rfl
@[simp] theorem State.modCore_side (s : State) (c : Nat) (f : Core → Core) : (s.modCore c f).side = s.side := rfl
@[simp] theorem State.modCore_marks (s : State) (c : Nat) (f : Core → Core) : (s.modCore c f).marks = s.marks := rfl
@[simp] theorem State.modCore_l2 (s : State) (c : Nat) (f : Core → Core) : (s.modCore c f).l2 = s.l2 := rfl
@[simp] theorem State.modCore_clusters (s : State) (c : Nat) (f : Core → Core) : (s.modCore c f).clusters = s.clusters := rfl
@[simp] theorem State.modCore_dies (s : State) (c : Nat) (f : Core → Core) : (s.modCore c f).dies = s.dies := rfl
@[simp] theorem State.modCore_ctls (s : State) (c : Nat) (f : Core → Core) : (s.modCore c f).ctls = s.ctls := rfl
@[simp] theorem State.modCore_ctxs (s : State) (c : Nat) (f : Core → Core) : (s.modCore c f).ctxs = s.ctxs := rfl
@[simp] theorem State.modCore_recs (s : State) (c : Nat) (f : Core → Core) : (s.modCore c f).recs = s.recs := rfl
@[simp] theorem State.modCore_hazel (s : State) (c : Nat) (f : Core → Core) : (s.modCore c f).hazel = s.hazel := rfl
@[simp] theorem State.modCore_sup (s : State) (c : Nat) (f : Core → Core) : (s.modCore c f).sup = s.sup := rfl
@[simp] theorem State.modCore_osm (s : State) (c : Nat) (f : Core → Core) : (s.modCore c f).osm = s.osm := rfl
@[simp] theorem State.modCore_board (s : State) (c : Nat) (f : Core → Core) : (s.modCore c f).board = s.board := rfl
@[simp] theorem State.modCore_out (s : State) (c : Nat) (f : Core → Core) : (s.modCore c f).out = s.out := rfl
@[simp] theorem State.modCore_pod (s : State) (c : Nat) (f : Core → Core) : (s.modCore c f).pod = s.pod := rfl
@[simp] theorem State.modCore_arg (s : State) (c : Nat) (f : Core → Core) : (s.modCore c f).arg = s.arg := rfl
@[simp] theorem State.modCore_agenda (s : State) (c : Nat) (f : Core → Core) : (s.modCore c f).agenda = s.agenda := rfl
@[simp] theorem State.modCore_cycle (s : State) (c : Nat) (f : Core → Core) : (s.modCore c f).cycle = s.cycle := rfl
@[simp] theorem State.modCore_stamp (s : State) (c : Nat) (f : Core → Core) : (s.modCore c f).stamp = s.stamp := rfl
@[simp] theorem State.modCore_free (s : State) (c : Nat) (f : Core → Core) : (s.modCore c f).free = s.free := rfl
@[simp] theorem State.modCore_heard (s : State) (c : Nat) (f : Core → Core) : (s.modCore c f).heard = s.heard := rfl
@[simp] theorem State.modCore_ported (s : State) (c : Nat) (f : Core → Core) : (s.modCore c f).ported = s.ported := rfl
@[simp] theorem State.modCore_kept (s : State) (c : Nat) (f : Core → Core) : (s.modCore c f).kept = s.kept := rfl

@[simp] theorem State.modCluster_mem (s : State) (c : Nat) (f : Cluster → Cluster) : (s.modCluster c f).mem = s.mem := rfl
@[simp] theorem State.modCluster_side (s : State) (c : Nat) (f : Cluster → Cluster) : (s.modCluster c f).side = s.side := rfl
@[simp] theorem State.modCluster_marks (s : State) (c : Nat) (f : Cluster → Cluster) : (s.modCluster c f).marks = s.marks := rfl
@[simp] theorem State.modCluster_l2 (s : State) (c : Nat) (f : Cluster → Cluster) : (s.modCluster c f).l2 = s.l2 := rfl
@[simp] theorem State.modCluster_cores (s : State) (c : Nat) (f : Cluster → Cluster) : (s.modCluster c f).cores = s.cores := rfl
@[simp] theorem State.modCluster_dies (s : State) (c : Nat) (f : Cluster → Cluster) : (s.modCluster c f).dies = s.dies := rfl
@[simp] theorem State.modCluster_ctls (s : State) (c : Nat) (f : Cluster → Cluster) : (s.modCluster c f).ctls = s.ctls := rfl
@[simp] theorem State.modCluster_ctxs (s : State) (c : Nat) (f : Cluster → Cluster) : (s.modCluster c f).ctxs = s.ctxs := rfl
@[simp] theorem State.modCluster_recs (s : State) (c : Nat) (f : Cluster → Cluster) : (s.modCluster c f).recs = s.recs := rfl
@[simp] theorem State.modCluster_hazel (s : State) (c : Nat) (f : Cluster → Cluster) : (s.modCluster c f).hazel = s.hazel := rfl
@[simp] theorem State.modCluster_sup (s : State) (c : Nat) (f : Cluster → Cluster) : (s.modCluster c f).sup = s.sup := rfl
@[simp] theorem State.modCluster_osm (s : State) (c : Nat) (f : Cluster → Cluster) : (s.modCluster c f).osm = s.osm := rfl
@[simp] theorem State.modCluster_board (s : State) (c : Nat) (f : Cluster → Cluster) : (s.modCluster c f).board = s.board := rfl
@[simp] theorem State.modCluster_out (s : State) (c : Nat) (f : Cluster → Cluster) : (s.modCluster c f).out = s.out := rfl
@[simp] theorem State.modCluster_pod (s : State) (c : Nat) (f : Cluster → Cluster) : (s.modCluster c f).pod = s.pod := rfl
@[simp] theorem State.modCluster_arg (s : State) (c : Nat) (f : Cluster → Cluster) : (s.modCluster c f).arg = s.arg := rfl
@[simp] theorem State.modCluster_agenda (s : State) (c : Nat) (f : Cluster → Cluster) : (s.modCluster c f).agenda = s.agenda := rfl
@[simp] theorem State.modCluster_cycle (s : State) (c : Nat) (f : Cluster → Cluster) : (s.modCluster c f).cycle = s.cycle := rfl
@[simp] theorem State.modCluster_stamp (s : State) (c : Nat) (f : Cluster → Cluster) : (s.modCluster c f).stamp = s.stamp := rfl
@[simp] theorem State.modCluster_free (s : State) (c : Nat) (f : Cluster → Cluster) : (s.modCluster c f).free = s.free := rfl
@[simp] theorem State.modCluster_heard (s : State) (c : Nat) (f : Cluster → Cluster) : (s.modCluster c f).heard = s.heard := rfl
@[simp] theorem State.modCluster_ported (s : State) (c : Nat) (f : Cluster → Cluster) : (s.modCluster c f).ported = s.ported := rfl
@[simp] theorem State.modCluster_kept (s : State) (c : Nat) (f : Cluster → Cluster) : (s.modCluster c f).kept = s.kept := rfl

@[simp] theorem State.modDie_mem (s : State) (c : Nat) (f : Die → Die) : (s.modDie c f).mem = s.mem := rfl
@[simp] theorem State.modDie_side (s : State) (c : Nat) (f : Die → Die) : (s.modDie c f).side = s.side := rfl
@[simp] theorem State.modDie_marks (s : State) (c : Nat) (f : Die → Die) : (s.modDie c f).marks = s.marks := rfl
@[simp] theorem State.modDie_l2 (s : State) (c : Nat) (f : Die → Die) : (s.modDie c f).l2 = s.l2 := rfl
@[simp] theorem State.modDie_cores (s : State) (c : Nat) (f : Die → Die) : (s.modDie c f).cores = s.cores := rfl
@[simp] theorem State.modDie_clusters (s : State) (c : Nat) (f : Die → Die) : (s.modDie c f).clusters = s.clusters := rfl
@[simp] theorem State.modDie_ctls (s : State) (c : Nat) (f : Die → Die) : (s.modDie c f).ctls = s.ctls := rfl
@[simp] theorem State.modDie_ctxs (s : State) (c : Nat) (f : Die → Die) : (s.modDie c f).ctxs = s.ctxs := rfl
@[simp] theorem State.modDie_recs (s : State) (c : Nat) (f : Die → Die) : (s.modDie c f).recs = s.recs := rfl
@[simp] theorem State.modDie_hazel (s : State) (c : Nat) (f : Die → Die) : (s.modDie c f).hazel = s.hazel := rfl
@[simp] theorem State.modDie_sup (s : State) (c : Nat) (f : Die → Die) : (s.modDie c f).sup = s.sup := rfl
@[simp] theorem State.modDie_osm (s : State) (c : Nat) (f : Die → Die) : (s.modDie c f).osm = s.osm := rfl
@[simp] theorem State.modDie_board (s : State) (c : Nat) (f : Die → Die) : (s.modDie c f).board = s.board := rfl
@[simp] theorem State.modDie_out (s : State) (c : Nat) (f : Die → Die) : (s.modDie c f).out = s.out := rfl
@[simp] theorem State.modDie_pod (s : State) (c : Nat) (f : Die → Die) : (s.modDie c f).pod = s.pod := rfl
@[simp] theorem State.modDie_arg (s : State) (c : Nat) (f : Die → Die) : (s.modDie c f).arg = s.arg := rfl
@[simp] theorem State.modDie_agenda (s : State) (c : Nat) (f : Die → Die) : (s.modDie c f).agenda = s.agenda := rfl
@[simp] theorem State.modDie_cycle (s : State) (c : Nat) (f : Die → Die) : (s.modDie c f).cycle = s.cycle := rfl
@[simp] theorem State.modDie_stamp (s : State) (c : Nat) (f : Die → Die) : (s.modDie c f).stamp = s.stamp := rfl
@[simp] theorem State.modDie_free (s : State) (c : Nat) (f : Die → Die) : (s.modDie c f).free = s.free := rfl
@[simp] theorem State.modDie_heard (s : State) (c : Nat) (f : Die → Die) : (s.modDie c f).heard = s.heard := rfl
@[simp] theorem State.modDie_ported (s : State) (c : Nat) (f : Die → Die) : (s.modDie c f).ported = s.ported := rfl
@[simp] theorem State.modDie_kept (s : State) (c : Nat) (f : Die → Die) : (s.modDie c f).kept = s.kept := rfl

@[simp] theorem State.modCtl_mem (s : State) (c : Nat) (f : Ctl → Ctl) : (s.modCtl c f).mem = s.mem := rfl
@[simp] theorem State.modCtl_side (s : State) (c : Nat) (f : Ctl → Ctl) : (s.modCtl c f).side = s.side := rfl
@[simp] theorem State.modCtl_marks (s : State) (c : Nat) (f : Ctl → Ctl) : (s.modCtl c f).marks = s.marks := rfl
@[simp] theorem State.modCtl_l2 (s : State) (c : Nat) (f : Ctl → Ctl) : (s.modCtl c f).l2 = s.l2 := rfl
@[simp] theorem State.modCtl_cores (s : State) (c : Nat) (f : Ctl → Ctl) : (s.modCtl c f).cores = s.cores := rfl
@[simp] theorem State.modCtl_clusters (s : State) (c : Nat) (f : Ctl → Ctl) : (s.modCtl c f).clusters = s.clusters := rfl
@[simp] theorem State.modCtl_dies (s : State) (c : Nat) (f : Ctl → Ctl) : (s.modCtl c f).dies = s.dies := rfl
@[simp] theorem State.modCtl_ctxs (s : State) (c : Nat) (f : Ctl → Ctl) : (s.modCtl c f).ctxs = s.ctxs := rfl
@[simp] theorem State.modCtl_recs (s : State) (c : Nat) (f : Ctl → Ctl) : (s.modCtl c f).recs = s.recs := rfl
@[simp] theorem State.modCtl_hazel (s : State) (c : Nat) (f : Ctl → Ctl) : (s.modCtl c f).hazel = s.hazel := rfl
@[simp] theorem State.modCtl_sup (s : State) (c : Nat) (f : Ctl → Ctl) : (s.modCtl c f).sup = s.sup := rfl
@[simp] theorem State.modCtl_osm (s : State) (c : Nat) (f : Ctl → Ctl) : (s.modCtl c f).osm = s.osm := rfl
@[simp] theorem State.modCtl_board (s : State) (c : Nat) (f : Ctl → Ctl) : (s.modCtl c f).board = s.board := rfl
@[simp] theorem State.modCtl_out (s : State) (c : Nat) (f : Ctl → Ctl) : (s.modCtl c f).out = s.out := rfl
@[simp] theorem State.modCtl_pod (s : State) (c : Nat) (f : Ctl → Ctl) : (s.modCtl c f).pod = s.pod := rfl
@[simp] theorem State.modCtl_arg (s : State) (c : Nat) (f : Ctl → Ctl) : (s.modCtl c f).arg = s.arg := rfl
@[simp] theorem State.modCtl_agenda (s : State) (c : Nat) (f : Ctl → Ctl) : (s.modCtl c f).agenda = s.agenda := rfl
@[simp] theorem State.modCtl_cycle (s : State) (c : Nat) (f : Ctl → Ctl) : (s.modCtl c f).cycle = s.cycle := rfl
@[simp] theorem State.modCtl_stamp (s : State) (c : Nat) (f : Ctl → Ctl) : (s.modCtl c f).stamp = s.stamp := rfl
@[simp] theorem State.modCtl_free (s : State) (c : Nat) (f : Ctl → Ctl) : (s.modCtl c f).free = s.free := rfl
@[simp] theorem State.modCtl_heard (s : State) (c : Nat) (f : Ctl → Ctl) : (s.modCtl c f).heard = s.heard := rfl
@[simp] theorem State.modCtl_ported (s : State) (c : Nat) (f : Ctl → Ctl) : (s.modCtl c f).ported = s.ported := rfl
@[simp] theorem State.modCtl_kept (s : State) (c : Nat) (f : Ctl → Ctl) : (s.modCtl c f).kept = s.kept := rfl

@[simp] theorem State.modCtx_mem (s : State) (c : Nat) (f : Ctx → Ctx) : (s.modCtx c f).mem = s.mem := rfl
@[simp] theorem State.modCtx_side (s : State) (c : Nat) (f : Ctx → Ctx) : (s.modCtx c f).side = s.side := rfl
@[simp] theorem State.modCtx_marks (s : State) (c : Nat) (f : Ctx → Ctx) : (s.modCtx c f).marks = s.marks := rfl
@[simp] theorem State.modCtx_l2 (s : State) (c : Nat) (f : Ctx → Ctx) : (s.modCtx c f).l2 = s.l2 := rfl
@[simp] theorem State.modCtx_cores (s : State) (c : Nat) (f : Ctx → Ctx) : (s.modCtx c f).cores = s.cores := rfl
@[simp] theorem State.modCtx_clusters (s : State) (c : Nat) (f : Ctx → Ctx) : (s.modCtx c f).clusters = s.clusters := rfl
@[simp] theorem State.modCtx_dies (s : State) (c : Nat) (f : Ctx → Ctx) : (s.modCtx c f).dies = s.dies := rfl
@[simp] theorem State.modCtx_ctls (s : State) (c : Nat) (f : Ctx → Ctx) : (s.modCtx c f).ctls = s.ctls := rfl
@[simp] theorem State.modCtx_recs (s : State) (c : Nat) (f : Ctx → Ctx) : (s.modCtx c f).recs = s.recs := rfl
@[simp] theorem State.modCtx_hazel (s : State) (c : Nat) (f : Ctx → Ctx) : (s.modCtx c f).hazel = s.hazel := rfl
@[simp] theorem State.modCtx_sup (s : State) (c : Nat) (f : Ctx → Ctx) : (s.modCtx c f).sup = s.sup := rfl
@[simp] theorem State.modCtx_osm (s : State) (c : Nat) (f : Ctx → Ctx) : (s.modCtx c f).osm = s.osm := rfl
@[simp] theorem State.modCtx_board (s : State) (c : Nat) (f : Ctx → Ctx) : (s.modCtx c f).board = s.board := rfl
@[simp] theorem State.modCtx_out (s : State) (c : Nat) (f : Ctx → Ctx) : (s.modCtx c f).out = s.out := rfl
@[simp] theorem State.modCtx_pod (s : State) (c : Nat) (f : Ctx → Ctx) : (s.modCtx c f).pod = s.pod := rfl
@[simp] theorem State.modCtx_arg (s : State) (c : Nat) (f : Ctx → Ctx) : (s.modCtx c f).arg = s.arg := rfl
@[simp] theorem State.modCtx_agenda (s : State) (c : Nat) (f : Ctx → Ctx) : (s.modCtx c f).agenda = s.agenda := rfl
@[simp] theorem State.modCtx_cycle (s : State) (c : Nat) (f : Ctx → Ctx) : (s.modCtx c f).cycle = s.cycle := rfl
@[simp] theorem State.modCtx_stamp (s : State) (c : Nat) (f : Ctx → Ctx) : (s.modCtx c f).stamp = s.stamp := rfl
@[simp] theorem State.modCtx_free (s : State) (c : Nat) (f : Ctx → Ctx) : (s.modCtx c f).free = s.free := rfl
@[simp] theorem State.modCtx_heard (s : State) (c : Nat) (f : Ctx → Ctx) : (s.modCtx c f).heard = s.heard := rfl
@[simp] theorem State.modCtx_ported (s : State) (c : Nat) (f : Ctx → Ctx) : (s.modCtx c f).ported = s.ported := rfl
@[simp] theorem State.modCtx_kept (s : State) (c : Nat) (f : Ctx → Ctx) : (s.modCtx c f).kept = s.kept := rfl

@[simp] theorem State.modWave_mem (s : State) (c w : Nat) (f : Wave → Wave) : (s.modWave c w f).mem = s.mem := rfl
@[simp] theorem State.modWave_side (s : State) (c w : Nat) (f : Wave → Wave) : (s.modWave c w f).side = s.side := rfl
@[simp] theorem State.modWave_marks (s : State) (c w : Nat) (f : Wave → Wave) : (s.modWave c w f).marks = s.marks := rfl
@[simp] theorem State.modWave_l2 (s : State) (c w : Nat) (f : Wave → Wave) : (s.modWave c w f).l2 = s.l2 := rfl
@[simp] theorem State.modWave_clusters (s : State) (c w : Nat) (f : Wave → Wave) : (s.modWave c w f).clusters = s.clusters := rfl
@[simp] theorem State.modWave_dies (s : State) (c w : Nat) (f : Wave → Wave) : (s.modWave c w f).dies = s.dies := rfl
@[simp] theorem State.modWave_ctls (s : State) (c w : Nat) (f : Wave → Wave) : (s.modWave c w f).ctls = s.ctls := rfl
@[simp] theorem State.modWave_ctxs (s : State) (c w : Nat) (f : Wave → Wave) : (s.modWave c w f).ctxs = s.ctxs := rfl
@[simp] theorem State.modWave_recs (s : State) (c w : Nat) (f : Wave → Wave) : (s.modWave c w f).recs = s.recs := rfl
@[simp] theorem State.modWave_hazel (s : State) (c w : Nat) (f : Wave → Wave) : (s.modWave c w f).hazel = s.hazel := rfl
@[simp] theorem State.modWave_sup (s : State) (c w : Nat) (f : Wave → Wave) : (s.modWave c w f).sup = s.sup := rfl
@[simp] theorem State.modWave_osm (s : State) (c w : Nat) (f : Wave → Wave) : (s.modWave c w f).osm = s.osm := rfl
@[simp] theorem State.modWave_board (s : State) (c w : Nat) (f : Wave → Wave) : (s.modWave c w f).board = s.board := rfl
@[simp] theorem State.modWave_out (s : State) (c w : Nat) (f : Wave → Wave) : (s.modWave c w f).out = s.out := rfl
@[simp] theorem State.modWave_pod (s : State) (c w : Nat) (f : Wave → Wave) : (s.modWave c w f).pod = s.pod := rfl
@[simp] theorem State.modWave_arg (s : State) (c w : Nat) (f : Wave → Wave) : (s.modWave c w f).arg = s.arg := rfl
@[simp] theorem State.modWave_agenda (s : State) (c w : Nat) (f : Wave → Wave) : (s.modWave c w f).agenda = s.agenda := rfl
@[simp] theorem State.modWave_cycle (s : State) (c w : Nat) (f : Wave → Wave) : (s.modWave c w f).cycle = s.cycle := rfl
@[simp] theorem State.modWave_stamp (s : State) (c w : Nat) (f : Wave → Wave) : (s.modWave c w f).stamp = s.stamp := rfl
@[simp] theorem State.modWave_free (s : State) (c w : Nat) (f : Wave → Wave) : (s.modWave c w f).free = s.free := rfl
@[simp] theorem State.modWave_heard (s : State) (c w : Nat) (f : Wave → Wave) : (s.modWave c w f).heard = s.heard := rfl
@[simp] theorem State.modWave_ported (s : State) (c w : Nat) (f : Wave → Wave) : (s.modWave c w f).ported = s.ported := rfl
@[simp] theorem State.modWave_kept (s : State) (c w : Nat) (f : Wave → Wave) : (s.modWave c w f).kept = s.kept := rfl

@[simp] theorem State.modCrew_mem (s : State) (c k : Nat) (f : Crew → Crew) : (s.modCrew c k f).mem = s.mem := rfl
@[simp] theorem State.modCrew_side (s : State) (c k : Nat) (f : Crew → Crew) : (s.modCrew c k f).side = s.side := rfl
@[simp] theorem State.modCrew_marks (s : State) (c k : Nat) (f : Crew → Crew) : (s.modCrew c k f).marks = s.marks := rfl
@[simp] theorem State.modCrew_l2 (s : State) (c k : Nat) (f : Crew → Crew) : (s.modCrew c k f).l2 = s.l2 := rfl
@[simp] theorem State.modCrew_clusters (s : State) (c k : Nat) (f : Crew → Crew) : (s.modCrew c k f).clusters = s.clusters := rfl
@[simp] theorem State.modCrew_dies (s : State) (c k : Nat) (f : Crew → Crew) : (s.modCrew c k f).dies = s.dies := rfl
@[simp] theorem State.modCrew_ctls (s : State) (c k : Nat) (f : Crew → Crew) : (s.modCrew c k f).ctls = s.ctls := rfl
@[simp] theorem State.modCrew_ctxs (s : State) (c k : Nat) (f : Crew → Crew) : (s.modCrew c k f).ctxs = s.ctxs := rfl
@[simp] theorem State.modCrew_recs (s : State) (c k : Nat) (f : Crew → Crew) : (s.modCrew c k f).recs = s.recs := rfl
@[simp] theorem State.modCrew_hazel (s : State) (c k : Nat) (f : Crew → Crew) : (s.modCrew c k f).hazel = s.hazel := rfl
@[simp] theorem State.modCrew_sup (s : State) (c k : Nat) (f : Crew → Crew) : (s.modCrew c k f).sup = s.sup := rfl
@[simp] theorem State.modCrew_osm (s : State) (c k : Nat) (f : Crew → Crew) : (s.modCrew c k f).osm = s.osm := rfl
@[simp] theorem State.modCrew_board (s : State) (c k : Nat) (f : Crew → Crew) : (s.modCrew c k f).board = s.board := rfl
@[simp] theorem State.modCrew_out (s : State) (c k : Nat) (f : Crew → Crew) : (s.modCrew c k f).out = s.out := rfl
@[simp] theorem State.modCrew_pod (s : State) (c k : Nat) (f : Crew → Crew) : (s.modCrew c k f).pod = s.pod := rfl
@[simp] theorem State.modCrew_arg (s : State) (c k : Nat) (f : Crew → Crew) : (s.modCrew c k f).arg = s.arg := rfl
@[simp] theorem State.modCrew_agenda (s : State) (c k : Nat) (f : Crew → Crew) : (s.modCrew c k f).agenda = s.agenda := rfl
@[simp] theorem State.modCrew_cycle (s : State) (c k : Nat) (f : Crew → Crew) : (s.modCrew c k f).cycle = s.cycle := rfl
@[simp] theorem State.modCrew_stamp (s : State) (c k : Nat) (f : Crew → Crew) : (s.modCrew c k f).stamp = s.stamp := rfl
@[simp] theorem State.modCrew_free (s : State) (c k : Nat) (f : Crew → Crew) : (s.modCrew c k f).free = s.free := rfl
@[simp] theorem State.modCrew_heard (s : State) (c k : Nat) (f : Crew → Crew) : (s.modCrew c k f).heard = s.heard := rfl
@[simp] theorem State.modCrew_ported (s : State) (c k : Nat) (f : Crew → Crew) : (s.modCrew c k f).ported = s.ported := rfl
@[simp] theorem State.modCrew_kept (s : State) (c k : Nat) (f : Crew → Crew) : (s.modCrew c k f).kept = s.kept := rfl

@[simp] theorem State.modBody_mem (s : State) (c k : Nat) (f : CrewBody → CrewBody) : (s.modBody c k f).mem = s.mem := rfl
@[simp] theorem State.modBody_side (s : State) (c k : Nat) (f : CrewBody → CrewBody) : (s.modBody c k f).side = s.side := rfl
@[simp] theorem State.modBody_marks (s : State) (c k : Nat) (f : CrewBody → CrewBody) : (s.modBody c k f).marks = s.marks := rfl
@[simp] theorem State.modBody_l2 (s : State) (c k : Nat) (f : CrewBody → CrewBody) : (s.modBody c k f).l2 = s.l2 := rfl
@[simp] theorem State.modBody_clusters (s : State) (c k : Nat) (f : CrewBody → CrewBody) : (s.modBody c k f).clusters = s.clusters := rfl
@[simp] theorem State.modBody_dies (s : State) (c k : Nat) (f : CrewBody → CrewBody) : (s.modBody c k f).dies = s.dies := rfl
@[simp] theorem State.modBody_ctls (s : State) (c k : Nat) (f : CrewBody → CrewBody) : (s.modBody c k f).ctls = s.ctls := rfl
@[simp] theorem State.modBody_ctxs (s : State) (c k : Nat) (f : CrewBody → CrewBody) : (s.modBody c k f).ctxs = s.ctxs := rfl
@[simp] theorem State.modBody_recs (s : State) (c k : Nat) (f : CrewBody → CrewBody) : (s.modBody c k f).recs = s.recs := rfl
@[simp] theorem State.modBody_hazel (s : State) (c k : Nat) (f : CrewBody → CrewBody) : (s.modBody c k f).hazel = s.hazel := rfl
@[simp] theorem State.modBody_sup (s : State) (c k : Nat) (f : CrewBody → CrewBody) : (s.modBody c k f).sup = s.sup := rfl
@[simp] theorem State.modBody_osm (s : State) (c k : Nat) (f : CrewBody → CrewBody) : (s.modBody c k f).osm = s.osm := rfl
@[simp] theorem State.modBody_board (s : State) (c k : Nat) (f : CrewBody → CrewBody) : (s.modBody c k f).board = s.board := rfl
@[simp] theorem State.modBody_out (s : State) (c k : Nat) (f : CrewBody → CrewBody) : (s.modBody c k f).out = s.out := rfl
@[simp] theorem State.modBody_pod (s : State) (c k : Nat) (f : CrewBody → CrewBody) : (s.modBody c k f).pod = s.pod := rfl
@[simp] theorem State.modBody_arg (s : State) (c k : Nat) (f : CrewBody → CrewBody) : (s.modBody c k f).arg = s.arg := rfl
@[simp] theorem State.modBody_agenda (s : State) (c k : Nat) (f : CrewBody → CrewBody) : (s.modBody c k f).agenda = s.agenda := rfl
@[simp] theorem State.modBody_cycle (s : State) (c k : Nat) (f : CrewBody → CrewBody) : (s.modBody c k f).cycle = s.cycle := rfl
@[simp] theorem State.modBody_stamp (s : State) (c k : Nat) (f : CrewBody → CrewBody) : (s.modBody c k f).stamp = s.stamp := rfl
@[simp] theorem State.modBody_free (s : State) (c k : Nat) (f : CrewBody → CrewBody) : (s.modBody c k f).free = s.free := rfl
@[simp] theorem State.modBody_heard (s : State) (c k : Nat) (f : CrewBody → CrewBody) : (s.modBody c k f).heard = s.heard := rfl
@[simp] theorem State.modBody_ported (s : State) (c k : Nat) (f : CrewBody → CrewBody) : (s.modBody c k f).ported = s.ported := rfl
@[simp] theorem State.modBody_kept (s : State) (c k : Nat) (f : CrewBody → CrewBody) : (s.modBody c k f).kept = s.kept := rfl

@[simp] theorem State.toOsm_mem (s : State) (r : Report) : (s.toOsm r).mem = s.mem := rfl
@[simp] theorem State.toOsm_side (s : State) (r : Report) : (s.toOsm r).side = s.side := rfl
@[simp] theorem State.toOsm_marks (s : State) (r : Report) : (s.toOsm r).marks = s.marks := rfl
@[simp] theorem State.toOsm_l2 (s : State) (r : Report) : (s.toOsm r).l2 = s.l2 := rfl
@[simp] theorem State.toOsm_cores (s : State) (r : Report) : (s.toOsm r).cores = s.cores := rfl
@[simp] theorem State.toOsm_clusters (s : State) (r : Report) : (s.toOsm r).clusters = s.clusters := rfl
@[simp] theorem State.toOsm_dies (s : State) (r : Report) : (s.toOsm r).dies = s.dies := rfl
@[simp] theorem State.toOsm_ctls (s : State) (r : Report) : (s.toOsm r).ctls = s.ctls := rfl
@[simp] theorem State.toOsm_ctxs (s : State) (r : Report) : (s.toOsm r).ctxs = s.ctxs := rfl
@[simp] theorem State.toOsm_recs (s : State) (r : Report) : (s.toOsm r).recs = s.recs := rfl
@[simp] theorem State.toOsm_hazel (s : State) (r : Report) : (s.toOsm r).hazel = s.hazel := rfl
@[simp] theorem State.toOsm_sup (s : State) (r : Report) : (s.toOsm r).sup = s.sup := rfl
@[simp] theorem State.toOsm_osm (s : State) (r : Report) : (s.toOsm r).osm = s.osm := rfl
@[simp] theorem State.toOsm_board (s : State) (r : Report) : (s.toOsm r).board = s.board := rfl
@[simp] theorem State.toOsm_pod (s : State) (r : Report) : (s.toOsm r).pod = s.pod := rfl
@[simp] theorem State.toOsm_arg (s : State) (r : Report) : (s.toOsm r).arg = s.arg := rfl
@[simp] theorem State.toOsm_agenda (s : State) (r : Report) : (s.toOsm r).agenda = s.agenda := rfl
@[simp] theorem State.toOsm_cycle (s : State) (r : Report) : (s.toOsm r).cycle = s.cycle := rfl
@[simp] theorem State.toOsm_stamp (s : State) (r : Report) : (s.toOsm r).stamp = s.stamp := rfl
@[simp] theorem State.toOsm_free (s : State) (r : Report) : (s.toOsm r).free = s.free := rfl
@[simp] theorem State.toOsm_heard (s : State) (r : Report) : (s.toOsm r).heard = s.heard := rfl
@[simp] theorem State.toOsm_ported (s : State) (r : Report) : (s.toOsm r).ported = s.ported := rfl
@[simp] theorem State.toOsm_kept (s : State) (r : Report) : (s.toOsm r).kept = s.kept := rfl

@[simp] theorem State.toPewter_mem (s : State) (r : Report) : (s.toPewter r).mem = s.mem := rfl
@[simp] theorem State.toPewter_side (s : State) (r : Report) : (s.toPewter r).side = s.side := rfl
@[simp] theorem State.toPewter_marks (s : State) (r : Report) : (s.toPewter r).marks = s.marks := rfl
@[simp] theorem State.toPewter_l2 (s : State) (r : Report) : (s.toPewter r).l2 = s.l2 := rfl
@[simp] theorem State.toPewter_cores (s : State) (r : Report) : (s.toPewter r).cores = s.cores := rfl
@[simp] theorem State.toPewter_clusters (s : State) (r : Report) : (s.toPewter r).clusters = s.clusters := rfl
@[simp] theorem State.toPewter_dies (s : State) (r : Report) : (s.toPewter r).dies = s.dies := rfl
@[simp] theorem State.toPewter_ctls (s : State) (r : Report) : (s.toPewter r).ctls = s.ctls := rfl
@[simp] theorem State.toPewter_ctxs (s : State) (r : Report) : (s.toPewter r).ctxs = s.ctxs := rfl
@[simp] theorem State.toPewter_recs (s : State) (r : Report) : (s.toPewter r).recs = s.recs := rfl
@[simp] theorem State.toPewter_hazel (s : State) (r : Report) : (s.toPewter r).hazel = s.hazel := rfl
@[simp] theorem State.toPewter_sup (s : State) (r : Report) : (s.toPewter r).sup = s.sup := rfl
@[simp] theorem State.toPewter_osm (s : State) (r : Report) : (s.toPewter r).osm = s.osm := rfl
@[simp] theorem State.toPewter_board (s : State) (r : Report) : (s.toPewter r).board = s.board := rfl
@[simp] theorem State.toPewter_pod (s : State) (r : Report) : (s.toPewter r).pod = s.pod := rfl
@[simp] theorem State.toPewter_arg (s : State) (r : Report) : (s.toPewter r).arg = s.arg := rfl
@[simp] theorem State.toPewter_agenda (s : State) (r : Report) : (s.toPewter r).agenda = s.agenda := rfl
@[simp] theorem State.toPewter_cycle (s : State) (r : Report) : (s.toPewter r).cycle = s.cycle := rfl
@[simp] theorem State.toPewter_stamp (s : State) (r : Report) : (s.toPewter r).stamp = s.stamp := rfl
@[simp] theorem State.toPewter_free (s : State) (r : Report) : (s.toPewter r).free = s.free := rfl
@[simp] theorem State.toPewter_heard (s : State) (r : Report) : (s.toPewter r).heard = s.heard := rfl
@[simp] theorem State.toPewter_ported (s : State) (r : Report) : (s.toPewter r).ported = s.ported := rfl
@[simp] theorem State.toPewter_kept (s : State) (r : Report) : (s.toPewter r).kept = s.kept := rfl

@[simp] theorem State.irq_mem (s : State) (a b : Nat) : (s.irq a b).mem = s.mem := rfl
@[simp] theorem State.irq_side (s : State) (a b : Nat) : (s.irq a b).side = s.side := rfl
@[simp] theorem State.irq_marks (s : State) (a b : Nat) : (s.irq a b).marks = s.marks := rfl
@[simp] theorem State.irq_l2 (s : State) (a b : Nat) : (s.irq a b).l2 = s.l2 := rfl
@[simp] theorem State.irq_cores (s : State) (a b : Nat) : (s.irq a b).cores = s.cores := rfl
@[simp] theorem State.irq_clusters (s : State) (a b : Nat) : (s.irq a b).clusters = s.clusters := rfl
@[simp] theorem State.irq_dies (s : State) (a b : Nat) : (s.irq a b).dies = s.dies := rfl
@[simp] theorem State.irq_ctls (s : State) (a b : Nat) : (s.irq a b).ctls = s.ctls := rfl
@[simp] theorem State.irq_ctxs (s : State) (a b : Nat) : (s.irq a b).ctxs = s.ctxs := rfl
@[simp] theorem State.irq_recs (s : State) (a b : Nat) : (s.irq a b).recs = s.recs := rfl
@[simp] theorem State.irq_hazel (s : State) (a b : Nat) : (s.irq a b).hazel = s.hazel := rfl
@[simp] theorem State.irq_sup (s : State) (a b : Nat) : (s.irq a b).sup = s.sup := rfl
@[simp] theorem State.irq_osm (s : State) (a b : Nat) : (s.irq a b).osm = s.osm := rfl
@[simp] theorem State.irq_board (s : State) (a b : Nat) : (s.irq a b).board = s.board := rfl
@[simp] theorem State.irq_pod (s : State) (a b : Nat) : (s.irq a b).pod = s.pod := rfl
@[simp] theorem State.irq_arg (s : State) (a b : Nat) : (s.irq a b).arg = s.arg := rfl
@[simp] theorem State.irq_agenda (s : State) (a b : Nat) : (s.irq a b).agenda = s.agenda := rfl
@[simp] theorem State.irq_cycle (s : State) (a b : Nat) : (s.irq a b).cycle = s.cycle := rfl
@[simp] theorem State.irq_stamp (s : State) (a b : Nat) : (s.irq a b).stamp = s.stamp := rfl
@[simp] theorem State.irq_free (s : State) (a b : Nat) : (s.irq a b).free = s.free := rfl
@[simp] theorem State.irq_heard (s : State) (a b : Nat) : (s.irq a b).heard = s.heard := rfl
@[simp] theorem State.irq_ported (s : State) (a b : Nat) : (s.irq a b).ported = s.ported := rfl
@[simp] theorem State.irq_kept (s : State) (a b : Nat) : (s.irq a b).kept = s.kept := rfl

@[simp] theorem State.frame_mem (s : State) (r : Frame) : (s.frame r).mem = s.mem := rfl
@[simp] theorem State.frame_side (s : State) (r : Frame) : (s.frame r).side = s.side := rfl
@[simp] theorem State.frame_marks (s : State) (r : Frame) : (s.frame r).marks = s.marks := rfl
@[simp] theorem State.frame_l2 (s : State) (r : Frame) : (s.frame r).l2 = s.l2 := rfl
@[simp] theorem State.frame_cores (s : State) (r : Frame) : (s.frame r).cores = s.cores := rfl
@[simp] theorem State.frame_clusters (s : State) (r : Frame) : (s.frame r).clusters = s.clusters := rfl
@[simp] theorem State.frame_dies (s : State) (r : Frame) : (s.frame r).dies = s.dies := rfl
@[simp] theorem State.frame_ctls (s : State) (r : Frame) : (s.frame r).ctls = s.ctls := rfl
@[simp] theorem State.frame_ctxs (s : State) (r : Frame) : (s.frame r).ctxs = s.ctxs := rfl
@[simp] theorem State.frame_recs (s : State) (r : Frame) : (s.frame r).recs = s.recs := rfl
@[simp] theorem State.frame_hazel (s : State) (r : Frame) : (s.frame r).hazel = s.hazel := rfl
@[simp] theorem State.frame_sup (s : State) (r : Frame) : (s.frame r).sup = s.sup := rfl
@[simp] theorem State.frame_osm (s : State) (r : Frame) : (s.frame r).osm = s.osm := rfl
@[simp] theorem State.frame_board (s : State) (r : Frame) : (s.frame r).board = s.board := rfl
@[simp] theorem State.frame_pod (s : State) (r : Frame) : (s.frame r).pod = s.pod := rfl
@[simp] theorem State.frame_arg (s : State) (r : Frame) : (s.frame r).arg = s.arg := rfl
@[simp] theorem State.frame_agenda (s : State) (r : Frame) : (s.frame r).agenda = s.agenda := rfl
@[simp] theorem State.frame_cycle (s : State) (r : Frame) : (s.frame r).cycle = s.cycle := rfl
@[simp] theorem State.frame_stamp (s : State) (r : Frame) : (s.frame r).stamp = s.stamp := rfl
@[simp] theorem State.frame_free (s : State) (r : Frame) : (s.frame r).free = s.free := rfl
@[simp] theorem State.frame_heard (s : State) (r : Frame) : (s.frame r).heard = s.heard := rfl
@[simp] theorem State.frame_ported (s : State) (r : Frame) : (s.frame r).ported = s.ported := rfl
@[simp] theorem State.frame_kept (s : State) (r : Frame) : (s.frame r).kept = s.kept := rfl

@[simp] theorem State.sendUp_mem (s : State) (a : Nat) (c : Cmd) : (s.sendUp a c).mem = s.mem := rfl
@[simp] theorem State.sendUp_side (s : State) (a : Nat) (c : Cmd) : (s.sendUp a c).side = s.side := rfl
@[simp] theorem State.sendUp_marks (s : State) (a : Nat) (c : Cmd) : (s.sendUp a c).marks = s.marks := rfl
@[simp] theorem State.sendUp_l2 (s : State) (a : Nat) (c : Cmd) : (s.sendUp a c).l2 = s.l2 := rfl
@[simp] theorem State.sendUp_cores (s : State) (a : Nat) (c : Cmd) : (s.sendUp a c).cores = s.cores := rfl
@[simp] theorem State.sendUp_dies (s : State) (a : Nat) (c : Cmd) : (s.sendUp a c).dies = s.dies := rfl
@[simp] theorem State.sendUp_ctls (s : State) (a : Nat) (c : Cmd) : (s.sendUp a c).ctls = s.ctls := rfl
@[simp] theorem State.sendUp_ctxs (s : State) (a : Nat) (c : Cmd) : (s.sendUp a c).ctxs = s.ctxs := rfl
@[simp] theorem State.sendUp_recs (s : State) (a : Nat) (c : Cmd) : (s.sendUp a c).recs = s.recs := rfl
@[simp] theorem State.sendUp_hazel (s : State) (a : Nat) (c : Cmd) : (s.sendUp a c).hazel = s.hazel := rfl
@[simp] theorem State.sendUp_sup (s : State) (a : Nat) (c : Cmd) : (s.sendUp a c).sup = s.sup := rfl
@[simp] theorem State.sendUp_osm (s : State) (a : Nat) (c : Cmd) : (s.sendUp a c).osm = s.osm := rfl
@[simp] theorem State.sendUp_board (s : State) (a : Nat) (c : Cmd) : (s.sendUp a c).board = s.board := rfl
@[simp] theorem State.sendUp_out (s : State) (a : Nat) (c : Cmd) : (s.sendUp a c).out = s.out := rfl
@[simp] theorem State.sendUp_pod (s : State) (a : Nat) (c : Cmd) : (s.sendUp a c).pod = s.pod := rfl
@[simp] theorem State.sendUp_arg (s : State) (a : Nat) (c : Cmd) : (s.sendUp a c).arg = s.arg := rfl
@[simp] theorem State.sendUp_agenda (s : State) (a : Nat) (c : Cmd) : (s.sendUp a c).agenda = s.agenda := rfl
@[simp] theorem State.sendUp_cycle (s : State) (a : Nat) (c : Cmd) : (s.sendUp a c).cycle = s.cycle := rfl
@[simp] theorem State.sendUp_stamp (s : State) (a : Nat) (c : Cmd) : (s.sendUp a c).stamp = s.stamp := rfl
@[simp] theorem State.sendUp_free (s : State) (a : Nat) (c : Cmd) : (s.sendUp a c).free = s.free := rfl
@[simp] theorem State.sendUp_heard (s : State) (a : Nat) (c : Cmd) : (s.sendUp a c).heard = s.heard := rfl
@[simp] theorem State.sendUp_ported (s : State) (a : Nat) (c : Cmd) : (s.sendUp a c).ported = s.ported := rfl
@[simp] theorem State.sendUp_kept (s : State) (a : Nat) (c : Cmd) : (s.sendUp a c).kept = s.kept := rfl

@[simp] theorem State.sendDown_mem (s : State) (a : Nat) (c : Cmd) : (s.sendDown a c).mem = s.mem := rfl
@[simp] theorem State.sendDown_side (s : State) (a : Nat) (c : Cmd) : (s.sendDown a c).side = s.side := rfl
@[simp] theorem State.sendDown_marks (s : State) (a : Nat) (c : Cmd) : (s.sendDown a c).marks = s.marks := rfl
@[simp] theorem State.sendDown_l2 (s : State) (a : Nat) (c : Cmd) : (s.sendDown a c).l2 = s.l2 := rfl
@[simp] theorem State.sendDown_cores (s : State) (a : Nat) (c : Cmd) : (s.sendDown a c).cores = s.cores := rfl
@[simp] theorem State.sendDown_dies (s : State) (a : Nat) (c : Cmd) : (s.sendDown a c).dies = s.dies := rfl
@[simp] theorem State.sendDown_ctls (s : State) (a : Nat) (c : Cmd) : (s.sendDown a c).ctls = s.ctls := rfl
@[simp] theorem State.sendDown_ctxs (s : State) (a : Nat) (c : Cmd) : (s.sendDown a c).ctxs = s.ctxs := rfl
@[simp] theorem State.sendDown_recs (s : State) (a : Nat) (c : Cmd) : (s.sendDown a c).recs = s.recs := rfl
@[simp] theorem State.sendDown_hazel (s : State) (a : Nat) (c : Cmd) : (s.sendDown a c).hazel = s.hazel := rfl
@[simp] theorem State.sendDown_sup (s : State) (a : Nat) (c : Cmd) : (s.sendDown a c).sup = s.sup := rfl
@[simp] theorem State.sendDown_osm (s : State) (a : Nat) (c : Cmd) : (s.sendDown a c).osm = s.osm := rfl
@[simp] theorem State.sendDown_board (s : State) (a : Nat) (c : Cmd) : (s.sendDown a c).board = s.board := rfl
@[simp] theorem State.sendDown_out (s : State) (a : Nat) (c : Cmd) : (s.sendDown a c).out = s.out := rfl
@[simp] theorem State.sendDown_pod (s : State) (a : Nat) (c : Cmd) : (s.sendDown a c).pod = s.pod := rfl
@[simp] theorem State.sendDown_arg (s : State) (a : Nat) (c : Cmd) : (s.sendDown a c).arg = s.arg := rfl
@[simp] theorem State.sendDown_agenda (s : State) (a : Nat) (c : Cmd) : (s.sendDown a c).agenda = s.agenda := rfl
@[simp] theorem State.sendDown_cycle (s : State) (a : Nat) (c : Cmd) : (s.sendDown a c).cycle = s.cycle := rfl
@[simp] theorem State.sendDown_stamp (s : State) (a : Nat) (c : Cmd) : (s.sendDown a c).stamp = s.stamp := rfl
@[simp] theorem State.sendDown_free (s : State) (a : Nat) (c : Cmd) : (s.sendDown a c).free = s.free := rfl
@[simp] theorem State.sendDown_heard (s : State) (a : Nat) (c : Cmd) : (s.sendDown a c).heard = s.heard := rfl
@[simp] theorem State.sendDown_ported (s : State) (a : Nat) (c : Cmd) : (s.sendDown a c).ported = s.ported := rfl
@[simp] theorem State.sendDown_kept (s : State) (a : Nat) (c : Cmd) : (s.sendDown a c).kept = s.kept := rfl

@[simp] theorem State.hold_mem (s : State) (p : Pod) (h : Hold) : (s.hold p h).mem = s.mem := rfl
@[simp] theorem State.hold_side (s : State) (p : Pod) (h : Hold) : (s.hold p h).side = s.side := rfl
@[simp] theorem State.hold_marks (s : State) (p : Pod) (h : Hold) : (s.hold p h).marks = s.marks := rfl
@[simp] theorem State.hold_l2 (s : State) (p : Pod) (h : Hold) : (s.hold p h).l2 = s.l2 := rfl
@[simp] theorem State.hold_clusters (s : State) (p : Pod) (h : Hold) : (s.hold p h).clusters = s.clusters := rfl
@[simp] theorem State.hold_dies (s : State) (p : Pod) (h : Hold) : (s.hold p h).dies = s.dies := rfl
@[simp] theorem State.hold_ctls (s : State) (p : Pod) (h : Hold) : (s.hold p h).ctls = s.ctls := rfl
@[simp] theorem State.hold_ctxs (s : State) (p : Pod) (h : Hold) : (s.hold p h).ctxs = s.ctxs := rfl
@[simp] theorem State.hold_recs (s : State) (p : Pod) (h : Hold) : (s.hold p h).recs = s.recs := rfl
@[simp] theorem State.hold_hazel (s : State) (p : Pod) (h : Hold) : (s.hold p h).hazel = s.hazel := rfl
@[simp] theorem State.hold_sup (s : State) (p : Pod) (h : Hold) : (s.hold p h).sup = s.sup := rfl
@[simp] theorem State.hold_osm (s : State) (p : Pod) (h : Hold) : (s.hold p h).osm = s.osm := rfl
@[simp] theorem State.hold_board (s : State) (p : Pod) (h : Hold) : (s.hold p h).board = s.board := rfl
@[simp] theorem State.hold_out (s : State) (p : Pod) (h : Hold) : (s.hold p h).out = s.out := rfl
@[simp] theorem State.hold_pod (s : State) (p : Pod) (h : Hold) : (s.hold p h).pod = s.pod := rfl
@[simp] theorem State.hold_arg (s : State) (p : Pod) (h : Hold) : (s.hold p h).arg = s.arg := rfl
@[simp] theorem State.hold_agenda (s : State) (p : Pod) (h : Hold) : (s.hold p h).agenda = s.agenda := rfl
@[simp] theorem State.hold_cycle (s : State) (p : Pod) (h : Hold) : (s.hold p h).cycle = s.cycle := rfl
@[simp] theorem State.hold_stamp (s : State) (p : Pod) (h : Hold) : (s.hold p h).stamp = s.stamp := rfl
@[simp] theorem State.hold_free (s : State) (p : Pod) (h : Hold) : (s.hold p h).free = s.free := rfl
@[simp] theorem State.hold_heard (s : State) (p : Pod) (h : Hold) : (s.hold p h).heard = s.heard := rfl
@[simp] theorem State.hold_ported (s : State) (p : Pod) (h : Hold) : (s.hold p h).ported = s.ported := rfl
@[simp] theorem State.hold_kept (s : State) (p : Pod) (h : Hold) : (s.hold p h).kept = s.kept := rfl

@[simp] theorem State.retireWith_mem (s : State) (p : Pod) (b : Bool) (f : Nat → VAddr) : (s.retireWith p b f).mem = s.mem := rfl
@[simp] theorem State.retireWith_side (s : State) (p : Pod) (b : Bool) (f : Nat → VAddr) : (s.retireWith p b f).side = s.side := rfl
@[simp] theorem State.retireWith_marks (s : State) (p : Pod) (b : Bool) (f : Nat → VAddr) : (s.retireWith p b f).marks = s.marks := rfl
@[simp] theorem State.retireWith_l2 (s : State) (p : Pod) (b : Bool) (f : Nat → VAddr) : (s.retireWith p b f).l2 = s.l2 := rfl
@[simp] theorem State.retireWith_clusters (s : State) (p : Pod) (b : Bool) (f : Nat → VAddr) : (s.retireWith p b f).clusters = s.clusters := rfl
@[simp] theorem State.retireWith_dies (s : State) (p : Pod) (b : Bool) (f : Nat → VAddr) : (s.retireWith p b f).dies = s.dies := rfl
@[simp] theorem State.retireWith_ctls (s : State) (p : Pod) (b : Bool) (f : Nat → VAddr) : (s.retireWith p b f).ctls = s.ctls := rfl
@[simp] theorem State.retireWith_ctxs (s : State) (p : Pod) (b : Bool) (f : Nat → VAddr) : (s.retireWith p b f).ctxs = s.ctxs := rfl
@[simp] theorem State.retireWith_recs (s : State) (p : Pod) (b : Bool) (f : Nat → VAddr) : (s.retireWith p b f).recs = s.recs := rfl
@[simp] theorem State.retireWith_hazel (s : State) (p : Pod) (b : Bool) (f : Nat → VAddr) : (s.retireWith p b f).hazel = s.hazel := rfl
@[simp] theorem State.retireWith_sup (s : State) (p : Pod) (b : Bool) (f : Nat → VAddr) : (s.retireWith p b f).sup = s.sup := rfl
@[simp] theorem State.retireWith_osm (s : State) (p : Pod) (b : Bool) (f : Nat → VAddr) : (s.retireWith p b f).osm = s.osm := rfl
@[simp] theorem State.retireWith_board (s : State) (p : Pod) (b : Bool) (f : Nat → VAddr) : (s.retireWith p b f).board = s.board := rfl
@[simp] theorem State.retireWith_out (s : State) (p : Pod) (b : Bool) (f : Nat → VAddr) : (s.retireWith p b f).out = s.out := rfl
@[simp] theorem State.retireWith_pod (s : State) (p : Pod) (b : Bool) (f : Nat → VAddr) : (s.retireWith p b f).pod = s.pod := rfl
@[simp] theorem State.retireWith_arg (s : State) (p : Pod) (b : Bool) (f : Nat → VAddr) : (s.retireWith p b f).arg = s.arg := rfl
@[simp] theorem State.retireWith_agenda (s : State) (p : Pod) (b : Bool) (f : Nat → VAddr) : (s.retireWith p b f).agenda = s.agenda := rfl
@[simp] theorem State.retireWith_cycle (s : State) (p : Pod) (b : Bool) (f : Nat → VAddr) : (s.retireWith p b f).cycle = s.cycle := rfl
@[simp] theorem State.retireWith_free (s : State) (p : Pod) (b : Bool) (f : Nat → VAddr) : (s.retireWith p b f).free = s.free := rfl
@[simp] theorem State.retireWith_heard (s : State) (p : Pod) (b : Bool) (f : Nat → VAddr) : (s.retireWith p b f).heard = s.heard := rfl
@[simp] theorem State.retireWith_ported (s : State) (p : Pod) (b : Bool) (f : Nat → VAddr) : (s.retireWith p b f).ported = s.ported := rfl
@[simp] theorem State.retireWith_kept (s : State) (p : Pod) (b : Bool) (f : Nat → VAddr) : (s.retireWith p b f).kept = s.kept := rfl

@[simp] theorem State.retire_mem (s : State) (p : Pod) : (s.retire p).mem = s.mem := rfl
@[simp] theorem State.retire_side (s : State) (p : Pod) : (s.retire p).side = s.side := rfl
@[simp] theorem State.retire_marks (s : State) (p : Pod) : (s.retire p).marks = s.marks := rfl
@[simp] theorem State.retire_l2 (s : State) (p : Pod) : (s.retire p).l2 = s.l2 := rfl
@[simp] theorem State.retire_clusters (s : State) (p : Pod) : (s.retire p).clusters = s.clusters := rfl
@[simp] theorem State.retire_dies (s : State) (p : Pod) : (s.retire p).dies = s.dies := rfl
@[simp] theorem State.retire_ctls (s : State) (p : Pod) : (s.retire p).ctls = s.ctls := rfl
@[simp] theorem State.retire_ctxs (s : State) (p : Pod) : (s.retire p).ctxs = s.ctxs := rfl
@[simp] theorem State.retire_recs (s : State) (p : Pod) : (s.retire p).recs = s.recs := rfl
@[simp] theorem State.retire_hazel (s : State) (p : Pod) : (s.retire p).hazel = s.hazel := rfl
@[simp] theorem State.retire_sup (s : State) (p : Pod) : (s.retire p).sup = s.sup := rfl
@[simp] theorem State.retire_osm (s : State) (p : Pod) : (s.retire p).osm = s.osm := rfl
@[simp] theorem State.retire_board (s : State) (p : Pod) : (s.retire p).board = s.board := rfl
@[simp] theorem State.retire_out (s : State) (p : Pod) : (s.retire p).out = s.out := rfl
@[simp] theorem State.retire_pod (s : State) (p : Pod) : (s.retire p).pod = s.pod := rfl
@[simp] theorem State.retire_arg (s : State) (p : Pod) : (s.retire p).arg = s.arg := rfl
@[simp] theorem State.retire_agenda (s : State) (p : Pod) : (s.retire p).agenda = s.agenda := rfl
@[simp] theorem State.retire_cycle (s : State) (p : Pod) : (s.retire p).cycle = s.cycle := rfl
@[simp] theorem State.retire_free (s : State) (p : Pod) : (s.retire p).free = s.free := rfl
@[simp] theorem State.retire_heard (s : State) (p : Pod) : (s.retire p).heard = s.heard := rfl
@[simp] theorem State.retire_ported (s : State) (p : Pod) : (s.retire p).ported = s.ported := rfl
@[simp] theorem State.retire_kept (s : State) (p : Pod) : (s.retire p).kept = s.kept := rfl

@[simp] theorem State.writeReg_mem (s : State) (p : Pod) (r : Reg) (f : Nat → GUnit) : (s.writeReg p r f).mem = s.mem := rfl
@[simp] theorem State.writeReg_side (s : State) (p : Pod) (r : Reg) (f : Nat → GUnit) : (s.writeReg p r f).side = s.side := rfl
@[simp] theorem State.writeReg_marks (s : State) (p : Pod) (r : Reg) (f : Nat → GUnit) : (s.writeReg p r f).marks = s.marks := rfl
@[simp] theorem State.writeReg_l2 (s : State) (p : Pod) (r : Reg) (f : Nat → GUnit) : (s.writeReg p r f).l2 = s.l2 := rfl
@[simp] theorem State.writeReg_clusters (s : State) (p : Pod) (r : Reg) (f : Nat → GUnit) : (s.writeReg p r f).clusters = s.clusters := rfl
@[simp] theorem State.writeReg_dies (s : State) (p : Pod) (r : Reg) (f : Nat → GUnit) : (s.writeReg p r f).dies = s.dies := rfl
@[simp] theorem State.writeReg_ctls (s : State) (p : Pod) (r : Reg) (f : Nat → GUnit) : (s.writeReg p r f).ctls = s.ctls := rfl
@[simp] theorem State.writeReg_ctxs (s : State) (p : Pod) (r : Reg) (f : Nat → GUnit) : (s.writeReg p r f).ctxs = s.ctxs := rfl
@[simp] theorem State.writeReg_recs (s : State) (p : Pod) (r : Reg) (f : Nat → GUnit) : (s.writeReg p r f).recs = s.recs := rfl
@[simp] theorem State.writeReg_hazel (s : State) (p : Pod) (r : Reg) (f : Nat → GUnit) : (s.writeReg p r f).hazel = s.hazel := rfl
@[simp] theorem State.writeReg_sup (s : State) (p : Pod) (r : Reg) (f : Nat → GUnit) : (s.writeReg p r f).sup = s.sup := rfl
@[simp] theorem State.writeReg_osm (s : State) (p : Pod) (r : Reg) (f : Nat → GUnit) : (s.writeReg p r f).osm = s.osm := rfl
@[simp] theorem State.writeReg_board (s : State) (p : Pod) (r : Reg) (f : Nat → GUnit) : (s.writeReg p r f).board = s.board := rfl
@[simp] theorem State.writeReg_out (s : State) (p : Pod) (r : Reg) (f : Nat → GUnit) : (s.writeReg p r f).out = s.out := rfl
@[simp] theorem State.writeReg_pod (s : State) (p : Pod) (r : Reg) (f : Nat → GUnit) : (s.writeReg p r f).pod = s.pod := rfl
@[simp] theorem State.writeReg_arg (s : State) (p : Pod) (r : Reg) (f : Nat → GUnit) : (s.writeReg p r f).arg = s.arg := rfl
@[simp] theorem State.writeReg_agenda (s : State) (p : Pod) (r : Reg) (f : Nat → GUnit) : (s.writeReg p r f).agenda = s.agenda := rfl
@[simp] theorem State.writeReg_cycle (s : State) (p : Pod) (r : Reg) (f : Nat → GUnit) : (s.writeReg p r f).cycle = s.cycle := rfl
@[simp] theorem State.writeReg_stamp (s : State) (p : Pod) (r : Reg) (f : Nat → GUnit) : (s.writeReg p r f).stamp = s.stamp := rfl
@[simp] theorem State.writeReg_free (s : State) (p : Pod) (r : Reg) (f : Nat → GUnit) : (s.writeReg p r f).free = s.free := rfl
@[simp] theorem State.writeReg_heard (s : State) (p : Pod) (r : Reg) (f : Nat → GUnit) : (s.writeReg p r f).heard = s.heard := rfl
@[simp] theorem State.writeReg_ported (s : State) (p : Pod) (r : Reg) (f : Nat → GUnit) : (s.writeReg p r f).ported = s.ported := rfl
@[simp] theorem State.writeReg_kept (s : State) (p : Pod) (r : Reg) (f : Nat → GUnit) : (s.writeReg p r f).kept = s.kept := rfl

@[simp] theorem State.writePred_mem (s : State) (p : Pod) (n : Nat) (f : Nat → Bool) : (s.writePred p n f).mem = s.mem := rfl
@[simp] theorem State.writePred_side (s : State) (p : Pod) (n : Nat) (f : Nat → Bool) : (s.writePred p n f).side = s.side := rfl
@[simp] theorem State.writePred_marks (s : State) (p : Pod) (n : Nat) (f : Nat → Bool) : (s.writePred p n f).marks = s.marks := rfl
@[simp] theorem State.writePred_l2 (s : State) (p : Pod) (n : Nat) (f : Nat → Bool) : (s.writePred p n f).l2 = s.l2 := rfl
@[simp] theorem State.writePred_clusters (s : State) (p : Pod) (n : Nat) (f : Nat → Bool) : (s.writePred p n f).clusters = s.clusters := rfl
@[simp] theorem State.writePred_dies (s : State) (p : Pod) (n : Nat) (f : Nat → Bool) : (s.writePred p n f).dies = s.dies := rfl
@[simp] theorem State.writePred_ctls (s : State) (p : Pod) (n : Nat) (f : Nat → Bool) : (s.writePred p n f).ctls = s.ctls := rfl
@[simp] theorem State.writePred_ctxs (s : State) (p : Pod) (n : Nat) (f : Nat → Bool) : (s.writePred p n f).ctxs = s.ctxs := rfl
@[simp] theorem State.writePred_recs (s : State) (p : Pod) (n : Nat) (f : Nat → Bool) : (s.writePred p n f).recs = s.recs := rfl
@[simp] theorem State.writePred_hazel (s : State) (p : Pod) (n : Nat) (f : Nat → Bool) : (s.writePred p n f).hazel = s.hazel := rfl
@[simp] theorem State.writePred_sup (s : State) (p : Pod) (n : Nat) (f : Nat → Bool) : (s.writePred p n f).sup = s.sup := rfl
@[simp] theorem State.writePred_osm (s : State) (p : Pod) (n : Nat) (f : Nat → Bool) : (s.writePred p n f).osm = s.osm := rfl
@[simp] theorem State.writePred_board (s : State) (p : Pod) (n : Nat) (f : Nat → Bool) : (s.writePred p n f).board = s.board := rfl
@[simp] theorem State.writePred_out (s : State) (p : Pod) (n : Nat) (f : Nat → Bool) : (s.writePred p n f).out = s.out := rfl
@[simp] theorem State.writePred_pod (s : State) (p : Pod) (n : Nat) (f : Nat → Bool) : (s.writePred p n f).pod = s.pod := rfl
@[simp] theorem State.writePred_arg (s : State) (p : Pod) (n : Nat) (f : Nat → Bool) : (s.writePred p n f).arg = s.arg := rfl
@[simp] theorem State.writePred_agenda (s : State) (p : Pod) (n : Nat) (f : Nat → Bool) : (s.writePred p n f).agenda = s.agenda := rfl
@[simp] theorem State.writePred_cycle (s : State) (p : Pod) (n : Nat) (f : Nat → Bool) : (s.writePred p n f).cycle = s.cycle := rfl
@[simp] theorem State.writePred_stamp (s : State) (p : Pod) (n : Nat) (f : Nat → Bool) : (s.writePred p n f).stamp = s.stamp := rfl
@[simp] theorem State.writePred_free (s : State) (p : Pod) (n : Nat) (f : Nat → Bool) : (s.writePred p n f).free = s.free := rfl
@[simp] theorem State.writePred_heard (s : State) (p : Pod) (n : Nat) (f : Nat → Bool) : (s.writePred p n f).heard = s.heard := rfl
@[simp] theorem State.writePred_ported (s : State) (p : Pod) (n : Nat) (f : Nat → Bool) : (s.writePred p n f).ported = s.ported := rfl
@[simp] theorem State.writePred_kept (s : State) (p : Pod) (n : Nat) (f : Nat → Bool) : (s.writePred p n f).kept = s.kept := rfl

@[simp] theorem State.clearIdem_mem (s : State) (p : Pod) : (s.clearIdem p).mem = s.mem := rfl
@[simp] theorem State.clearIdem_side (s : State) (p : Pod) : (s.clearIdem p).side = s.side := rfl
@[simp] theorem State.clearIdem_marks (s : State) (p : Pod) : (s.clearIdem p).marks = s.marks := rfl
@[simp] theorem State.clearIdem_l2 (s : State) (p : Pod) : (s.clearIdem p).l2 = s.l2 := rfl
@[simp] theorem State.clearIdem_clusters (s : State) (p : Pod) : (s.clearIdem p).clusters = s.clusters := rfl
@[simp] theorem State.clearIdem_dies (s : State) (p : Pod) : (s.clearIdem p).dies = s.dies := rfl
@[simp] theorem State.clearIdem_ctls (s : State) (p : Pod) : (s.clearIdem p).ctls = s.ctls := rfl
@[simp] theorem State.clearIdem_ctxs (s : State) (p : Pod) : (s.clearIdem p).ctxs = s.ctxs := rfl
@[simp] theorem State.clearIdem_recs (s : State) (p : Pod) : (s.clearIdem p).recs = s.recs := rfl
@[simp] theorem State.clearIdem_hazel (s : State) (p : Pod) : (s.clearIdem p).hazel = s.hazel := rfl
@[simp] theorem State.clearIdem_sup (s : State) (p : Pod) : (s.clearIdem p).sup = s.sup := rfl
@[simp] theorem State.clearIdem_osm (s : State) (p : Pod) : (s.clearIdem p).osm = s.osm := rfl
@[simp] theorem State.clearIdem_board (s : State) (p : Pod) : (s.clearIdem p).board = s.board := rfl
@[simp] theorem State.clearIdem_out (s : State) (p : Pod) : (s.clearIdem p).out = s.out := rfl
@[simp] theorem State.clearIdem_pod (s : State) (p : Pod) : (s.clearIdem p).pod = s.pod := rfl
@[simp] theorem State.clearIdem_arg (s : State) (p : Pod) : (s.clearIdem p).arg = s.arg := rfl
@[simp] theorem State.clearIdem_agenda (s : State) (p : Pod) : (s.clearIdem p).agenda = s.agenda := rfl
@[simp] theorem State.clearIdem_cycle (s : State) (p : Pod) : (s.clearIdem p).cycle = s.cycle := rfl
@[simp] theorem State.clearIdem_stamp (s : State) (p : Pod) : (s.clearIdem p).stamp = s.stamp := rfl
@[simp] theorem State.clearIdem_free (s : State) (p : Pod) : (s.clearIdem p).free = s.free := rfl
@[simp] theorem State.clearIdem_heard (s : State) (p : Pod) : (s.clearIdem p).heard = s.heard := rfl
@[simp] theorem State.clearIdem_ported (s : State) (p : Pod) : (s.clearIdem p).ported = s.ported := rfl
@[simp] theorem State.clearIdem_kept (s : State) (p : Pod) : (s.clearIdem p).kept = s.kept := rfl

@[simp] theorem State.wakeCore_mem (s : State) (c : Nat) (h : Hold) : (s.wakeCore c h).mem = s.mem := rfl
@[simp] theorem State.wakeCore_side (s : State) (c : Nat) (h : Hold) : (s.wakeCore c h).side = s.side := rfl
@[simp] theorem State.wakeCore_marks (s : State) (c : Nat) (h : Hold) : (s.wakeCore c h).marks = s.marks := rfl
@[simp] theorem State.wakeCore_l2 (s : State) (c : Nat) (h : Hold) : (s.wakeCore c h).l2 = s.l2 := rfl
@[simp] theorem State.wakeCore_clusters (s : State) (c : Nat) (h : Hold) : (s.wakeCore c h).clusters = s.clusters := rfl
@[simp] theorem State.wakeCore_dies (s : State) (c : Nat) (h : Hold) : (s.wakeCore c h).dies = s.dies := rfl
@[simp] theorem State.wakeCore_ctls (s : State) (c : Nat) (h : Hold) : (s.wakeCore c h).ctls = s.ctls := rfl
@[simp] theorem State.wakeCore_ctxs (s : State) (c : Nat) (h : Hold) : (s.wakeCore c h).ctxs = s.ctxs := rfl
@[simp] theorem State.wakeCore_recs (s : State) (c : Nat) (h : Hold) : (s.wakeCore c h).recs = s.recs := rfl
@[simp] theorem State.wakeCore_hazel (s : State) (c : Nat) (h : Hold) : (s.wakeCore c h).hazel = s.hazel := rfl
@[simp] theorem State.wakeCore_sup (s : State) (c : Nat) (h : Hold) : (s.wakeCore c h).sup = s.sup := rfl
@[simp] theorem State.wakeCore_osm (s : State) (c : Nat) (h : Hold) : (s.wakeCore c h).osm = s.osm := rfl
@[simp] theorem State.wakeCore_board (s : State) (c : Nat) (h : Hold) : (s.wakeCore c h).board = s.board := rfl
@[simp] theorem State.wakeCore_out (s : State) (c : Nat) (h : Hold) : (s.wakeCore c h).out = s.out := rfl
@[simp] theorem State.wakeCore_pod (s : State) (c : Nat) (h : Hold) : (s.wakeCore c h).pod = s.pod := rfl
@[simp] theorem State.wakeCore_arg (s : State) (c : Nat) (h : Hold) : (s.wakeCore c h).arg = s.arg := rfl
@[simp] theorem State.wakeCore_agenda (s : State) (c : Nat) (h : Hold) : (s.wakeCore c h).agenda = s.agenda := rfl
@[simp] theorem State.wakeCore_cycle (s : State) (c : Nat) (h : Hold) : (s.wakeCore c h).cycle = s.cycle := rfl
@[simp] theorem State.wakeCore_stamp (s : State) (c : Nat) (h : Hold) : (s.wakeCore c h).stamp = s.stamp := rfl
@[simp] theorem State.wakeCore_free (s : State) (c : Nat) (h : Hold) : (s.wakeCore c h).free = s.free := rfl
@[simp] theorem State.wakeCore_heard (s : State) (c : Nat) (h : Hold) : (s.wakeCore c h).heard = s.heard := rfl
@[simp] theorem State.wakeCore_ported (s : State) (c : Nat) (h : Hold) : (s.wakeCore c h).ported = s.ported := rfl
@[simp] theorem State.wakeCore_kept (s : State) (c : Nat) (h : Hold) : (s.wakeCore c h).kept = s.kept := rfl

/-- Reading the core that was changed. -/
@[simp] theorem State.core_modCore_self (s : State) (c : Nat) (f : Core → Core) : (s.modCore c f).core c = f (s.core c) := by
  simp [State.modCore, State.setCore, State.core, Map.getD]

/-- Changing a core leaves the others alone. -/
theorem State.core_modCore_ne (s : State) {c d : Nat} (f : Core → Core) (h : c ≠ d) : (s.modCore c f).core d = s.core d := by
  simp [State.modCore, State.setCore, State.core, Map.getD, Map.find_set_ne _ _ h]

@[simp] theorem State.ctx_modCtx_self (s : State) (c : Nat) (f : Ctx → Ctx) : (s.modCtx c f).ctx c = f (s.ctx c) := by
  simp [State.modCtx, State.ctx, Map.getD]

theorem State.ctx_modCtx_ne (s : State) {c d : Nat} (f : Ctx → Ctx) (h : c ≠ d) : (s.modCtx c f).ctx d = s.ctx d := by
  simp [State.modCtx, State.ctx, Map.getD, Map.find_set_ne _ _ h]

@[simp] theorem State.ctl_modCtl_self (s : State) (c : Nat) (f : Ctl → Ctl) : (s.modCtl c f).ctl c = f (s.ctl c) := by
  simp [State.modCtl, State.ctl, Map.getD]

theorem State.ctl_modCtl_ne (s : State) {c d : Nat} (f : Ctl → Ctl) (h : c ≠ d) : (s.modCtl c f).ctl d = s.ctl d := by
  simp [State.modCtl, State.ctl, Map.getD, Map.find_set_ne _ _ h]

@[simp] theorem State.die_modDie_self (s : State) (c : Nat) (f : Die → Die) : (s.modDie c f).die c = f (s.die c) := by
  simp [State.modDie, State.die, Map.getD]

theorem State.die_modDie_ne (s : State) {c d : Nat} (f : Die → Die) (h : c ≠ d) : (s.modDie c f).die d = s.die d := by
  simp [State.modDie, State.die, Map.getD, Map.find_set_ne _ _ h]

@[simp] theorem State.cluster_modCluster_self (s : State) (c : Nat) (f : Cluster → Cluster) :
    (s.modCluster c f).cluster c = f (s.cluster c) := by
  simp [State.modCluster, State.cluster, Map.getD]

/-- Changing the entries in place. -/
theorem Map.find_alter {α : Type} (m : Map α) (i j : Nat) (f : α → α) :
    Map.find (Map.alter m i f) j = if i = j then (Map.find m j).map f else Map.find m j := by
  induction m with
  | nil => simp [Map.alter, Map.find]
  | cons e m ih =>
    obtain ⟨k, v⟩ := e
    have ih' : Map.find (List.map (fun e : Nat × α => if (e.1 == i) = true then (e.1, f e.2) else e) m) j =
        if i = j then (Map.find m j).map f else Map.find m j := ih
    by_cases hki : k = i
    · subst hki
      by_cases hkj : k = j
      · subst hkj; simp [Map.alter, Map.find]
      · have : (k == j) = false := by simpa using hkj
        simp [Map.alter, Map.find, this, hkj] at ih' ⊢
        exact ih'
    · have h1 : (k == i) = false := by simpa using hki
      by_cases hkj : k = j
      · subst hkj
        have : ¬ i = k := fun h => hki h.symm
        simp [Map.alter, Map.find, hki, this]
      · have h2 : (k == j) = false := by simpa using hkj
        simp only [Map.alter, List.map_cons, h1, Bool.false_eq_true, if_false, Map.find, h2]
        exact ih'

/-- Changing the entries in place keeps the keys. -/
theorem Map.find_mapAll {α : Type} (m : Map α) (f : Nat → α → α) (j : Nat) :
    Map.find (Map.mapAll m f) j = (Map.find m j).map (f j) := by
  induction m with
  | nil => rfl
  | cons e m ih =>
    obtain ⟨k, v⟩ := e
    by_cases hkj : k = j
    · subst hkj; simp [Map.mapAll, Map.find]
    · have h2 : (k == j) = false := by simpa using hkj
      simp only [Map.mapAll, List.map_cons, Map.find, h2, Bool.false_eq_true, if_false]
      exact ih

/-- Reading the wave that was changed. -/
@[simp] theorem State.wave_modWave_self (s : State) (c w : Nat) (f : Wave → Wave) :
    (s.modWave c w f).wave? c w = (s.wave? c w).map f := by
  simp [State.modWave, State.wave?, Map.find_alter]

/-- Changing a wave leaves the others alone. -/
theorem State.wave_modWave_ne (s : State) {c w d v : Nat} (f : Wave → Wave) (h : ¬ (c = d ∧ w = v)) :
    (s.modWave c w f).wave? d v = s.wave? d v := by
  by_cases hc : c = d
  · subst hc
    have : w ≠ v := fun e => h ⟨rfl, e⟩
    simp [State.modWave, State.wave?, Map.find_alter, this]
  · simp [State.modWave, State.wave?, State.core_modCore_ne _ _ hc]

/-- Reading the crew that was changed. -/
@[simp] theorem State.crew_modCrew_self (s : State) (c k : Nat) (f : Crew → Crew) :
    (s.modCrew c k f).crew? c k = (s.crew? c k).map f := by
  simp [State.modCrew, State.crew?, Map.find_alter]

/-- Changing a crew leaves the others alone. -/
theorem State.crew_modCrew_ne (s : State) {c k d j : Nat} (f : Crew → Crew) (h : ¬ (c = d ∧ k = j)) :
    (s.modCrew c k f).crew? d j = s.crew? d j := by
  by_cases hc : c = d
  · subst hc
    have : k ≠ j := fun e => h ⟨rfl, e⟩
    simp [State.modCrew, State.crew?, Map.find_alter, this]
  · simp [State.modCrew, State.crew?, State.core_modCore_ne _ _ hc]

end Sys2Proof.Machine
end

