-- ==== Sys2Proof/Laws/Effect.lean ====
section
/-! SUPPORT. What the shared operations of an instruction's meaning do, said once: the operand checks of an issuing pod, the
writing of registers and predicates, and the retirement of an instruction (R55, R61, R166, R191, R193, R206). -/

namespace Sys2Proof.Machine

/-! ### Operand checks -/

/-- An issuing pod with its registers allocated runs the body. -/
theorem withPod_ok {s : State} {p : Pod} {w : Wave} {k : Crew} (h : Issuing s p w k) {rs : List Reg} (hg : Granted k rs)
    (f : Pod → Wave → Crew → Eff) : withPod s rs f = .next ((f p w k).state p w k) := by
  have ha : (rs.all fun r => k.has r) = true := List.all_eq_true.2 hg
  unfold withPod withRegs
  simp only [h.pod, h.wave, h.crew]
  rw [if_pos ha]
  simp [wakeChk, checked, parityChk, parityFail, -List.contains_eq_mem, h.restored]

/-- A register beyond the allocation raises PERM before anything else (R191, R214). -/
theorem withPod_perm {s : State} {p : Pod} {w : Wave} {k : Crew} (h : Issuing s p w k) {rs : List Reg}
    (hg : ∃ r ∈ rs, k.has r = false) (f : Pod → Wave → Crew → Eff) :
    withPod s rs f = .next (s.raise p w k (.plain .perm p.low)) := by
  have ha : ¬(rs.all fun r => k.has r) = true := by
    obtain ⟨r, hr, hk⟩ := hg
    intro ha
    exact absurd (List.all_eq_true.1 ha r hr) (by simp [hk])
  unfold withPod withRegs
  simp only [h.pod, h.wave, h.crew]
  rw [if_neg ha]
  simp [Eff.state, h.crew]

/-- An issuing pod with its registers allocated runs the body of an instruction that has conditions before its operand checks. -/
theorem withRegs_ok {s : State} {p : Pod} {w : Wave} {k : Crew} (h : Issuing s p w k) {rs : List Reg} (hg : Granted k rs)
    (f : Pod → Wave → Crew → Eff) : withRegs s rs f = .next ((f p w k).state p w k) := by
  have ha : (rs.all fun r => k.has r) = true := List.all_eq_true.2 hg
  unfold withRegs
  simp only [h.pod, h.wave, h.crew]
  rw [if_pos ha]

/-- A wave that was not restored with a failed image passes on to the operand checks (R194). -/
theorem wakeChk_ok {s : State} {p : Pod} {w : Wave} {k : Crew} (h : Issuing s p w k) (e : Eff) : wakeChk s p w e = e := by
  simp [wakeChk, checked, parityChk, parityFail, -List.contains_eq_mem, h.restored]

/-- The pod is exactly q0's members, and q0 is sound: the body runs (R173). -/
theorem governed_ok {s : State} {p : Pod} {w : Wave} {k : Crew} (h : Issuing s p w k) (hq : laneSet p.lanes = (w.mask 0).member)
    (hp : w.parity.contains (parQ 0) = false) (e : Eff) : governed s p w e = e := by
  simp [governed, hq, checked, parityChk, parityFail, -List.contains_eq_mem, h.restored, hp]

/-- The pod is not q0's members: CONV before every operand check (R173, R214). -/
theorem governed_conv {s : State} {p : Pod} {w : Wave} (hq : laneSet p.lanes ≠ (w.mask 0).member) (e : Eff) :
    governed s p w e = .trap s (.plain .conv p.low) := by
  simp [governed, hq]

theorem chkUnit_ok (s : State) (site reg lane : Nat) {u : GUnit} (a : Option Nat) (h : u.ok = true) :
    s.chkUnit site reg lane u a = none := by simp [State.chkUnit, h]

theorem chkRegs_ok {s : State} {p : Pod} {w : Wave} {rs : List (Reg × Nat)}
    (h : Sound w p (rs.map fun r => r.1)) : s.chkRegs p w rs = none := by
  unfold State.chkRegs
  refine List.findSome?_eq_none_iff.2 fun l hl => List.findSome?_eq_none_iff.2 fun r hr => ?_
  exact chkUnit_ok _ _ _ _ _ (h l hl r.1 (List.mem_map.2 ⟨r, hr, rfl⟩))

theorem chkOperands_ok {s : State} {p : Pod} {w : Wave} {rs : List Reg} (h : Sound w p rs) :
    s.chkRegs p w (operands rs) = none :=
  chkRegs_ok (by simpa [operands, Function.comp_def] using h)

theorem parityChk_ok {w : Wave} {p : Pod} {keys : List Nat} (h : Clean w keys) : parityChk w p keys = none := by
  have : (keys.any fun k => w.parity.contains k) = false :=
    List.any_eq_false.2 fun k hk => by simp only [h k hk]; exact Bool.false_ne_true
  simp only [parityChk, this, parityFail, Bool.false_eq_true, if_false]

/-- Sources that pass in every lane raise nothing (R60, R61). -/
theorem chkSrcs_ok {s : State} {p : Pod} {w : Wave} {k : Crew} {l : List Src}
    (h : ∀ lane ∈ p.lanes, ∀ x ∈ l, s.chkSrc p w k lane x = none) : s.chkSrcs p w k l = none :=
  List.findSome?_eq_none_iff.2 fun lane hl => List.findSome?_eq_none_iff.2 fun x hx => h lane hl x hx

theorem chkReg_ok {s : State} {p : Pod} {w : Wave} {rs : List Reg} (h : Sound w p rs) {r : Reg} (hr : r ∈ rs) (site : Nat)
    {lane : Nat} (hl : lane ∈ p.lanes) : s.chkReg p w r site lane = none := chkUnit_ok _ _ _ _ _ (h lane hl r hr)

/-- Sound registers and predicates of good parity pass as sources. -/
theorem chkSrcs_preds_ok {s : State} {p : Pod} {w : Wave} {k : Crew} {rs : List Reg} {ps : List Nat} (hs : Sound w p rs)
    (hp : Clean w (predKeys p ps)) : s.chkSrcs p w k (sources rs ++ ps.map .pred) = none := by
  refine chkSrcs_ok fun lane hl x hx => ?_
  rcases List.mem_append.1 hx with hx | hx
  · obtain ⟨r, hr, rfl⟩ := List.mem_map.1 hx
    exact chkReg_ok hs hr _ hl
  · obtain ⟨n, hn, rfl⟩ := List.mem_map.1 hx
    have := hp (parP n lane) (List.mem_flatMap.2 ⟨lane, hl, List.mem_map.2 ⟨n, hn, rfl⟩⟩)
    simp only [State.chkSrc, this, parityFail, Bool.false_eq_true, if_false]

/-! ### Holding threads -/

/-- Holding lanes changes threads alone. -/
theorem Wave.holdLanes_keeps (w : Wave) (ls : List Nat) (h : Hold) : { w.holdLanes ls h with threads := w.threads } = w := by
  unfold Wave.holdLanes
  induction ls generalizing w with
  | nil => rfl
  | cons l ls ih => exact (congrArg (fun x : Wave => { x with threads := w.threads }) (ih (w.modThread l fun t => { t with hold := h }))).trans rfl

@[simp] theorem Wave.get_holdLanes (w : Wave) (ls : List Nat) (h : Hold) (r : Reg) (l : Nat) : (w.holdLanes ls h).get r l = w.get r l := by
  have e := congrArg (fun x : Wave => x.get r l) (w.holdLanes_keeps ls h)
  exact e

@[simp] theorem Wave.pred_holdLanes (w : Wave) (ls : List Nat) (h : Hold) (n l : Nat) : (w.holdLanes ls h).pred n l = w.pred n l := by
  have e := congrArg (fun x : Wave => x.pred n l) (w.holdLanes_keeps ls h)
  exact e

@[simp] theorem Wave.mask_holdLanes (w : Wave) (ls : List Nat) (h : Hold) (q : Nat) : (w.holdLanes ls h).mask q = w.mask q := by
  have e := congrArg (fun x : Wave => x.mask q) (w.holdLanes_keeps ls h)
  exact e

/-- A pod that does not issue gives its port back and changes nothing else (R165). -/
theorem State.stalled_keeps (s : State) (p : Pod) : { s.stalled p with ported := s.ported, kept := s.kept } = s := rfl

@[simp] theorem State.wave_stalled (s : State) (p : Pod) (c i : Nat) : (s.stalled p).wave? c i = s.wave? c i := rfl
@[simp] theorem State.crew_stalled (s : State) (p : Pod) (c i : Nat) : (s.stalled p).crew? c i = s.crew? c i := rfl

/-- A pod that is held back changes its own wave alone: its lanes wait (R125, R166). -/
@[simp] theorem State.wave_heldBack (s : State) (p : Pod) (h : Hold) :
    (s.heldBack p h).wave? p.core p.slot = (s.wave? p.core p.slot).map fun w => w.holdLanes p.lanes h := by
  simp [State.heldBack]

/-! ### Registers of a wave -/

@[simp] theorem Wave.set_threads (w : Wave) (r : Reg) (l : Nat) (u : GUnit) : (w.set r l u).threads = w.threads := by
  cases r <;> rfl

/-- What a change of a wave's registers keeps: everything but the two register files. -/
def SameButRegs (w w' : Wave) : Prop := { w' with v := w.v, s := w.s } = w

theorem Wave.set_same (w : Wave) (r : Reg) (l : Nat) (u : GUnit) : SameButRegs w (w.set r l u) := by
  cases r <;> rfl

theorem SameButRegs.trans {a b c : Wave} (h : SameButRegs a b) (g : SameButRegs b c) : SameButRegs a c := by
  unfold SameButRegs at *; rw [← h, ← g]

theorem foldl_set_same (r : Reg) (f : Nat → GUnit) (ls : List Nat) (w : Wave) :
    SameButRegs w (ls.foldl (fun w l => w.set r l (f l)) w) := by
  induction ls generalizing w with
  | nil => rfl
  | cons l ls ih => exact (w.set_same r l (f l)).trans (ih _)

theorem Wave.setLanes_same (w : Wave) (r : Reg) (ls : List Nat) (f : Nat → GUnit) : SameButRegs w (w.setLanes r ls f) := by
  cases r with
  | v n => exact foldl_set_same _ _ _ _
  | s n =>
    cases ls with
    | nil => rfl
    | cons l ls => rfl

/-- Reading the lane that was written. -/
theorem Wave.get_set_self (w : Wave) (r : Reg) (l : Nat) (u : GUnit) : (w.set r l u).get r l = u := by
  cases r <;> simp [Wave.set, Wave.get]

/-- Writing a lane leaves another register alone. -/
theorem Wave.get_set_ne (w : Wave) {r r' : Reg} {l l' : Nat} (u : GUnit) (hl : l < 32) (hl' : l' < 32)
    (h : r' ≠ r ∨ (l' ≠ l ∧ r.uniform = false)) : (w.set r l u).get r' l' = w.get r' l' := by
  cases r with
  | v n =>
    cases r' with
    | v m =>
      refine Map.getD_put_ne _ _ _ _ ?_
      rcases h with h | h
      · have : m ≠ n := fun e => h (by rw [e])
        omega
      · omega
    | s m => rfl
  | s n =>
    cases r' with
    | v m => rfl
    | s m =>
      refine Map.getD_put_ne _ _ _ _ ?_
      rcases h with h | h
      · intro e; exact h (by rw [e])
      · simp [Reg.uniform] at h

theorem get_foldl_set_other (r : Reg) (f : Nat → GUnit) (ls : List Nat) (hb : ∀ l ∈ ls, l < 32) {r' : Reg} {l' : Nat}
    (hl' : l' < 32) (h : r' ≠ r ∨ (l' ∉ ls ∧ r.uniform = false)) (w : Wave) :
    (ls.foldl (fun w l => w.set r l (f l)) w).get r' l' = w.get r' l' := by
  induction ls generalizing w with
  | nil => rfl
  | cons l ls ih =>
    have hh : r' ≠ r ∨ (l' ∉ ls ∧ r.uniform = false) := h.imp_right fun x => ⟨fun y => x.1 (List.mem_cons_of_mem _ y), x.2⟩
    have := ih (fun x hx => hb x (List.mem_cons_of_mem _ hx)) hh (w.set r l (f l))
    rw [List.foldl_cons, this]
    exact w.get_set_ne _ (hb l (by simp)) hl' (h.imp_right fun x => ⟨fun y => x.1 (by simp [y]), x.2⟩)

theorem get_foldl_set_lane (n : Nat) (f : Nat → GUnit) (ls : List Nat) (hb : ∀ l ∈ ls, l < 32) {l : Nat} (hl : l ∈ ls)
    (w : Wave) : (ls.foldl (fun w l => w.set (.v n) l (f l)) w).get (.v n) l = f l := by
  induction ls generalizing w with
  | nil => simp at hl
  | cons x ls ih =>
    rw [List.foldl_cons]
    by_cases hx : l ∈ ls
    · exact ih (fun y hy => hb y (List.mem_cons_of_mem _ hy)) hx _
    · have hlx : l = x := by simpa [hx] using hl
      subst hlx
      rw [get_foldl_set_other (.v n) f ls (fun y hy => hb y (List.mem_cons_of_mem _ hy)) (hb l (by simp)) (.inr ⟨hx, rfl⟩)]
      exact Wave.get_set_self _ _ _ _

theorem Wave.get_uniform (w : Wave) (n l l' : Nat) : w.get (.s n) l = w.get (.s n) l' := rfl

/-- The written register in the pod's lanes (R193). -/
theorem Wave.get_setLanes_self (w : Wave) (r : Reg) (ls : List Nat) (f : Nat → GUnit) (hb : ∀ l ∈ ls, l < 32) {l : Nat}
    (hl : l ∈ ls) : (w.setLanes r ls f).get r l = f (if r.uniform = true then ls.headD 0 else l) := by
  cases r with
  | v n => exact get_foldl_set_lane n f ls hb hl w
  | s n =>
    cases ls with
    | nil => simp at hl
    | cons x ls =>
      simp only [Wave.setLanes, Reg.uniform, if_true, List.headD_cons]
      rw [Wave.get_uniform _ n l x]
      exact Wave.get_set_self _ _ _ _

/-- Every other register, and every inactive lane of the written one, is unchanged (R218). -/
theorem Wave.get_setLanes_other (w : Wave) (r : Reg) (ls : List Nat) (f : Nat → GUnit) (hb : ∀ l ∈ ls, l < 32) {r' : Reg}
    {l' : Nat} (hl' : l' < 32) (h : ¬(r' = r ∧ (l' ∈ ls ∨ r'.uniform = true))) :
    (w.setLanes r ls f).get r' l' = w.get r' l' := by
  cases r with
  | v n =>
    refine get_foldl_set_other (.v n) f ls hb hl' ?_ w
    by_cases hr : r' = .v n
    · exact .inr ⟨fun x => h ⟨hr, .inl x⟩, rfl⟩
    · exact .inl hr
  | s n =>
    have hr : r' ≠ .s n := fun e => h ⟨e, .inr (by rw [e]; rfl)⟩
    cases ls with
    | nil => rfl
    | cons x ls => exact w.get_set_ne _ (hb x (by simp)) hl' (.inl hr)

/-! ### Predicates -/

theorem getLsbD_setBit (x : BitVec 32) (i j : Nat) (b : Bool) (hi : i < 32) :
    (setBit x i b).getLsbD j = if j = i then b else x.getLsbD j := by
  unfold setBit
  by_cases hj : j < 32
  · by_cases h : j = i
    · subst h
      cases b <;> simp [hj]
    · have h2 : ¬(i ≤ j ∧ (1#32).getLsbD (j - i) = true) := by
        rintro ⟨h3, h4⟩
        have : j - i ≠ 0 := by omega
        simp [BitVec.getLsbD_one, this] at h4
      cases b
      · simp only [Bool.false_eq_true, if_false, h, BitVec.getLsbD_and, BitVec.getLsbD_not, BitVec.getLsbD_shiftLeft, hj,
          decide_true, Bool.true_and]
        by_cases h3 : j < i
        · simp [h3]
        · have : j - i ≠ 0 := by omega
          simp [h3, BitVec.getLsbD_one, this]
      · simp only [if_true, h, if_false, BitVec.getLsbD_or, BitVec.getLsbD_shiftLeft, hj, decide_true, Bool.true_and]
        by_cases h3 : j < i
        · simp [h3]
        · have : j - i ≠ 0 := by omega
          simp [h3, BitVec.getLsbD_one, this]
  · have : j ≠ i := by omega
    have hx : x.getLsbD j = false := BitVec.getLsbD_of_ge _ _ (by omega)
    rw [if_neg this, hx]
    exact BitVec.getLsbD_of_ge _ _ (by omega)

theorem getLsbD_foldl_setBit (f : Nat → Bool) (ls : List Nat) (hb : ∀ l ∈ ls, l < 32) (x : BitVec 32) (j : Nat) :
    (ls.foldl (fun x l => setBit x l (f l)) x).getLsbD j = if j ∈ ls then f j else x.getLsbD j := by
  induction ls generalizing x with
  | nil => simp
  | cons l ls ih =>
    rw [List.foldl_cons, ih (fun y hy => hb y (List.mem_cons_of_mem _ hy)), getLsbD_setBit _ _ _ _ (hb l (by simp))]
    by_cases h1 : j ∈ ls
    · simp [h1]
    · by_cases h2 : j = l
      · simp [h2]
      · simp [h1, h2]

theorem Wave.pred_setPred (w : Wave) (n : Nat) (ls : List Nat) (f : Nat → Bool) (hb : ∀ l ∈ ls, l < 32) (m j : Nat) :
    (w.setPred n ls f).pred m j = if m = n ∧ j ∈ ls then f j else w.pred m j := by
  unfold Wave.pred Wave.setPred
  by_cases h : m = n
  · subst h
    simp only [Map.getD_put_self, getLsbD_foldl_setBit f ls hb, true_and]
  · rw [if_neg (fun x => h x.1)]
    simp only
    rw [Map.getD_put_ne _ _ _ _ (Ne.symm h)]

/-! ### Retirement -/

/-- Ending a quantum changes the selected PC and the quantum's counters only (R166). -/
theorem Wave.reselect_keeps (w : Wave) (q : Nat) (a : VAddr) (b c : Nat) :
    { w.reselect q with sel := a, quant := b, quantum := c } = { w with sel := a, quant := b, quantum := c } := by
  unfold Wave.reselect
  split
  · rfl
  · split <;> rfl

theorem Wave.reselect_threads (w : Wave) (q : Nat) : (w.reselect q).threads = w.threads :=
  congrArg (fun x => x.threads) (w.reselect_keeps q 0 0 0)

theorem Wave.reselect_nprem (w : Wave) (q : Nat) : (w.reselect q).nprem = w.nprem :=
  congrArg (fun x => x.nprem) (w.reselect_keeps q 0 0 0)

/-- What an issue leaves of a wave: everything but its threads and its issue bookkeeping. -/
theorem Wave.issued_keeps (w : Wave) (ls : List Nat) (st q : Nat) (c : Bool) (next : Nat → VAddr) :
    { w.issued ls st q c next with
      threads := w.threads, sel := w.sel, quant := w.quant, quantum := w.quantum, nprem := w.nprem
      lastIssue := w.lastIssue } = w := by
  unfold Wave.issued
  simp only
  exact congrArg (fun (x : Wave) => { x with threads := w.threads, nprem := w.nprem, lastIssue := w.lastIssue })
    (Wave.reselect_keeps _ q w.sel w.quant w.quantum)

theorem Wave.issued_threads (w : Wave) (ls : List Nat) (st q : Nat) (c : Bool) (next : Nat → VAddr) :
    (w.issued ls st q c next).threads =
      w.threads.mapAll fun i t => if ls.contains i then { t with pc := next i, last := st } else t := by
  unfold Wave.issued; rw [Wave.reselect_threads]

theorem Wave.issued_nprem (w : Wave) (ls : List Nat) (st q : Nat) (c : Bool) (next : Nat → VAddr) :
    (w.issued ls st q c next).nprem = if c then w.nprem - 1 else w.nprem := by
  unfold Wave.issued; rw [Wave.reselect_nprem]

/-- Memory reads the same when nothing but registers changed. -/
theorem SameMemory.of_eq {s t : State} (h : { t with cores := s.cores, stamp := s.stamp } = s)
    (hl : ∀ c, (t.core c).l1 = (s.core c).l1) : SameMemory s t := by
  intro c pa
  have h1 : t.l2 = s.l2 := congrArg (fun x => x.l2) h
  have h2 : t.clusters = s.clusters := congrArg (fun x => x.clusters) h
  have h3 : t.ctlLine (pa / 128) = s.ctlLine (pa / 128) := congrArg (fun x => x.ctlLine (pa / 128)) h
  unfold State.peek
  have h4 : t.l1Core c (pa / 128) = s.l1Core c (pa / 128) := by unfold State.l1Core State.cluster; rw [h2]
  unfold State.l1Unit State.home; rw [h4, hl, h1, h3]

/-- A state in which nothing differs but registers of the pod's wave and origin entries of its core. -/
structure Local (s t : State) (p : Pod) (w w1 : Wave) (regs : Reg → Prop) (preds : Nat → Prop) : Prop where
  wave : t.wave? p.core p.slot = some w1
  same : { w1 with v := w.v, s := w.s, p := w.p, parity := w.parity } = w
  regs : ∀ r l, l < 32 → ¬(regs r ∧ (l ∈ p.lanes ∨ r.uniform = true)) → w1.get r l = w.get r l
  preds : ∀ n l, ¬(preds n ∧ l ∈ p.lanes) → w1.pred n l = w.pred n l
  waves : ∀ i, i ≠ p.slot → t.wave? p.core i = s.wave? p.core i
  crews : (t.core p.core).crews = (s.core p.core).crews
  core : { t.core p.core with waves := [], crews := [], origin := [] } =
    { s.core p.core with waves := [], crews := [], origin := [] }
  cores : ∀ c, c ≠ p.core → t.core c = s.core c
  rest : { t with cores := s.cores } = s

theorem Local.refl {s : State} {p : Pod} {w : Wave} {k : Crew} (h : Issuing s p w k) (regs : Reg → Prop)
    (preds : Nat → Prop) : Local s s p w w regs preds where
  wave := h.wave
  same := rfl
  regs _ _ _ _ := rfl
  preds _ _ _ := rfl
  waves _ _ := rfl
  crews := rfl
  core := rfl
  cores _ _ := rfl
  rest := rfl

theorem foldl_originFree (ls : List Nat) (a b : Nat) (k : Core) :
    ∃ o, ls.foldl (fun x l => x.originFree a b l) k = { k with origin := o } := by
  induction ls generalizing k with
  | nil => exact ⟨k.origin, rfl⟩
  | cons l ls ih =>
    obtain ⟨o, ho⟩ := ih (k.originFree a b l)
    exact ⟨o, ho⟩

/-- A register write of the pod is a local change (R62, R193). -/
theorem writeReg_local {s t : State} {p : Pod} {w w1 : Wave} {regs : Reg → Prop} {preds : Nat → Prop}
    (h : Local s t p w w1 regs preds) (hb : ∀ l ∈ p.lanes, l < 32) (r : Reg) (hr : regs r) (f : Nat → GUnit) :
    Local s (t.writeReg p r f) p w (w1.setLanes r p.lanes f) regs preds := by
  have hc : ∃ o, (t.writeReg p r f).core p.core =
      { t.core p.core with waves := (t.core p.core).waves.alter p.slot fun w => w.setLanes r p.lanes f, origin := o } := by
    unfold State.writeReg
    simp only [State.core_modCore_self]
    split
    · exact ⟨_, rfl⟩
    · split
      · exact ⟨_, rfl⟩
      · exact foldl_originFree _ _ _ _
  obtain ⟨o, ho⟩ := hc
  have hw := h.wave
  unfold State.wave? at hw
  have hs := w1.setLanes_same r p.lanes f
  have hp : ∀ n l, (w1.setLanes r p.lanes f).pred n l = w1.pred n l := fun n l => by
    have : (w1.setLanes r p.lanes f).p = w1.p := congrArg (fun x => x.p) hs
    unfold Wave.pred; rw [this]
  refine ⟨?_, ?_, ?_, ?_, ?_, ?_, ?_, ?_, ?_⟩
  · unfold State.wave?; rw [ho]
    simp only [Map.find_alter, hw, if_true, Option.map_some]
  · have h1 : { w1.setLanes r p.lanes f with v := w.v, s := w.s, p := w.p, parity := w.parity } =
        { { w1.setLanes r p.lanes f with v := w1.v, s := w1.s } with v := w.v, s := w.s, p := w.p, parity := w.parity } := rfl
    rw [h1]; unfold SameButRegs at hs; rw [hs]; exact h.same
  · intro r' l hl hn
    have : ¬(r' = r ∧ (l ∈ p.lanes ∨ r'.uniform = true)) := fun x => hn ⟨by rw [x.1]; exact hr, x.2⟩
    rw [w1.get_setLanes_other r p.lanes f hb hl this]
    exact h.regs r' l hl hn
  · intro n l hn; rw [hp]; exact h.preds n l hn
  · intro i hi
    have := h.waves i hi
    unfold State.wave? at this ⊢
    rw [ho, ← this]
    simp only [Map.find_alter, Ne.symm hi, if_false]
  · rw [ho]; exact h.crews
  · rw [ho]; exact h.core
  · intro c hc
    have : (t.writeReg p r f).core c = t.core c := by
      unfold State.writeReg; rw [State.core_modCore_ne _ _ (Ne.symm hc)]
    rw [this]; exact h.cores c hc
  · exact h.rest

/-- A predicate write of the pod is a local change. -/
theorem writePred_local {s t : State} {p : Pod} {w w1 : Wave} {regs : Reg → Prop} {preds : Nat → Prop}
    (h : Local s t p w w1 regs preds) (hb : ∀ l ∈ p.lanes, l < 32) (n : Nat) (hn : preds n) (f : Nat → Bool) :
    Local s (t.writePred p n f) p w (w1.setPred n p.lanes f) regs preds := by
  have ho : (t.writePred p n f).core p.core =
      { t.core p.core with waves := (t.core p.core).waves.alter p.slot fun w => w.setPred n p.lanes f } := by
    unfold State.writePred State.modWave; rw [State.core_modCore_self]
  have hw := h.wave
  unfold State.wave? at hw
  refine ⟨?_, ?_, ?_, ?_, ?_, ?_, ?_, ?_, ?_⟩
  · unfold State.wave?; rw [ho]
    simp only [Map.find_alter, hw, if_true, Option.map_some]
  · exact h.same
  · exact h.regs
  · intro m l hm
    rw [w1.pred_setPred n p.lanes f hb]
    rw [if_neg (fun (x : m = n ∧ l ∈ p.lanes) => hm ⟨by rw [x.1]; exact hn, x.2⟩)]
    exact h.preds m l hm
  · intro i hi
    have := h.waves i hi
    unfold State.wave? at this ⊢
    rw [ho, ← this]
    simp only [Map.find_alter, Ne.symm hi, if_false]
  · rw [ho]; exact h.crews
  · rw [ho]; exact h.core
  · intro c hc
    have : (t.writePred p n f).core c = t.core c := by
      unfold State.writePred State.modWave; rw [State.core_modCore_ne _ _ (Ne.symm hc)]
    rw [this]; exact h.cores c hc
  · exact h.rest

/-- Retiring an instruction after a local change (R166): the pod's threads go to their next PCs, the crew counts the
instruction, and nothing else changes. -/
theorem retireWith_effect {s t : State} {p : Pod} {w w1 : Wave} {k : Crew} {regs : Reg → Prop} {preds : Nat → Prop}
    (hi : Issuing s p w k) (h : Local s t p w w1 regs preds) (next : Nat → VAddr) :
    ∃ w', Effect s (t.retireWith p true next) p w w' k regs preds next ∧
      (∀ r l, w'.get r l = w1.get r l) ∧ ∀ n l, w'.pred n l = w1.pred n l := by
  have hcr : w1.crew = w.crew := congrArg (fun x => x.crew) h.same
  have hkc : t.crew? p.core w.crew = some k := by
    have := hi.crew; unfold State.crew? at this ⊢; rw [h.crews]; exact this
  have ht : t.retireWith p true next =
      { (t.modWave p.core p.slot fun w => w.issued p.lanes (t.stamp + 1) k.body.quantum true next).modCrew p.core w.crew
          (fun k => { k with issued := (k.issued + 1) % 2 ^ 48 }) with stamp := t.stamp + 1 } := by
    unfold State.retireWith
    simp only [h.wave, Option.elim_some, hcr, hkc]
  generalize hw' : w1.issued p.lanes (t.stamp + 1) k.body.quantum true next = w' at *
  have hkeep := w1.issued_keeps p.lanes (t.stamp + 1) k.body.quantum true next
  have hthr := w1.issued_threads p.lanes (t.stamp + 1) k.body.quantum true next
  have hnp := w1.issued_nprem p.lanes (t.stamp + 1) k.body.quantum true next
  rw [hw'] at hkeep hthr hnp
  have hget : ∀ r l, w'.get r l = w1.get r l := by
    intro r l
    have h1 : w'.v = w1.v := congrArg (fun x => x.v) hkeep
    have h2 : w'.s = w1.s := congrArg (fun x => x.s) hkeep
    cases r <;> simp only [Wave.get, h1, h2]
  have hpred : ∀ n l, w'.pred n l = w1.pred n l := by
    intro n l
    have h1 : w'.p = w1.p := congrArg (fun x => x.p) hkeep
    simp only [Wave.pred, h1]
  have hco : (t.retireWith p true next).core p.core =
      { t.core p.core with
        waves := (t.core p.core).waves.alter p.slot fun w => w.issued p.lanes (t.stamp + 1) k.body.quantum true next
        crews := (t.core p.core).crews.alter w.crew fun k => { k with issued := (k.issued + 1) % 2 ^ 48 } } := by
    rw [ht]
    change State.core ((t.modWave _ _ _).modCrew _ _ _) p.core = _
    unfold State.modCrew State.modWave
    simp only [State.core_modCore_self]
  have hne : ∀ c, c ≠ p.core → (t.retireWith p true next).core c = t.core c := by
    intro c hc
    rw [ht]
    change State.core ((t.modWave _ _ _).modCrew _ _ _) c = _
    unfold State.modCrew State.modWave
    rw [State.core_modCore_ne _ _ (Ne.symm hc), State.core_modCore_ne _ _ (Ne.symm hc)]
  have hwave := h.wave
  unfold State.wave? at hwave
  have hrest : { t.retireWith p true next with cores := s.cores, stamp := s.stamp } = s := by
    have := h.rest
    rw [ht]
    calc _ = { { t with cores := s.cores } with stamp := s.stamp } := rfl
      _ = s := by rw [this]
  have hcore : { (t.retireWith p true next).core p.core with waves := [], crews := [], origin := [] } =
      { s.core p.core with waves := [], crews := [], origin := [] } := by rw [hco]; exact h.core
  have hcores : ∀ c, c ≠ p.core → (t.retireWith p true next).core c = s.core c :=
    fun c hc => (hne c hc).trans (h.cores c hc)
  refine ⟨w', ⟨?_, ?_, ?_, ?_, ?_, ?_, ?_, ?_, ?_, ?_, hcore, hcores, hrest, ?_⟩, hget, hpred⟩
  · unfold State.wave?; rw [hco]
    simp only [Map.find_alter, hwave, if_true, Option.map_some, hw']
  · intro r l hl hn; rw [hget]; exact h.regs r l hl hn
  · intro n l hn; rw [hpred]; exact h.preds n l hn
  · have e := congrArg (fun (x : Wave) => (x.q, x.arrive, x.entered, x.lls, x.mma, x.crew)) hkeep
    have e' := congrArg (fun (x : Wave) => (x.q, x.arrive, x.entered, x.lls, x.mma, x.crew)) h.same
    dsimp only at e e'
    simpa only [Prod.mk.injEq] using e.trans e'
  · have e := congrArg (fun (x : Wave) => [x.idempc, x.chkinfo, x.chkaddr, x.trapcause, x.trappc, x.trapaddr, x.ehbase]) hkeep
    have e' := congrArg (fun (x : Wave) => [x.idempc, x.chkinfo, x.chkaddr, x.trapcause, x.trappc, x.trapaddr, x.ehbase]) h.same
    dsimp only at e e'
    exact e.trans e'
  · rw [hnp, if_pos rfl, show w1.nprem = w.nprem from congrArg (fun x => x.nprem) h.same]
  · intro l th hth
    refine ⟨if l ∈ p.lanes then t.stamp + 1 else th.last, ?_⟩
    have e : w1.threads = w.threads := congrArg (fun x => x.threads) h.same
    rw [hthr, Map.find_mapAll, e, hth, Option.map_some]
    by_cases hm : l ∈ p.lanes
    · simp [hm]
    · simp [hm]
  · intro i hi'
    have := h.waves i hi'
    unfold State.wave? at this ⊢
    rw [hco, ← this]
    simp only [Map.find_alter, Ne.symm hi', if_false]
  · unfold State.crew? at hkc ⊢
    rw [hco]
    simp only [Map.find_alter, hkc, if_true, Option.map_some]
  · intro i hi'
    unfold State.crew?
    rw [hco]
    simp only [Map.find_alter, Ne.symm hi', if_false, h.crews]
  · refine SameMemory.of_eq hrest fun c => ?_
    by_cases hc : c = p.core
    · subst hc; exact congrArg (fun x => x.l1) hcore
    · rw [hcores c hc]

end Sys2Proof.Machine
end

