-- ==== Sys2Proof/Laws/Encoding.lean ====
section
/-! SUPPORT. What the decoder does on a word, field by field: the lemmas that the round trip of each instruction cites. -/

namespace Sys2Proof.Laws

/-- Concatenation as a number. -/
theorem app_nat {n m : Nat} (x : BitVec n) (y : BitVec m) : (x ++ y).toNat = x.toNat * 2 ^ m + y.toNat := by
  rw [BitVec.toNat_append, Nat.shiftLeft_eq, Nat.mul_comm, Nat.two_pow_add_eq_or_of_lt y.isLt]

/-- A mask acts on the parts of a concatenation. -/
theorem and_app {n m : Nat} (x a : BitVec n) (y b : BitVec m) : (x ++ y) &&& (a ++ b) = (x &&& a) ++ (y &&& b) := by
  apply BitVec.eq_of_getLsbD_eq
  intro i _
  simp only [BitVec.getLsbD_and, BitVec.getLsbD_append]
  split <;> rfl

/-- A field of a word, as a number. -/
theorem ext_eq {n : Nat} (w : BitVec n) (s l v : Nat) (h : w.toNat / 2 ^ s % 2 ^ l = v) :
    w.extractLsb' s l = BitVec.ofNat l v := by
  subst h
  apply BitVec.eq_of_toNat_eq
  simp [Nat.shiftRight_eq_div_pow]

/-- A field of a word that holds an operand. -/
theorem ext_op {n l : Nat} (w : BitVec n) (s : Nat) (x : BitVec l) (h : w.toNat / 2 ^ s % 2 ^ l = x.toNat) :
    w.extractLsb' s l = x := by
  rw [ext_eq w s l _ h, BitVec.ofNat_toNat, BitVec.setWidth_eq]

/-- The bytes of a word whose bit 0 is 1 decode as that word (R206). -/
theorem decode_word (w : BitVec 32) (h : w.toNat % 2 = 1) : decode (Code.word w).bytes = decodeWord w := by
  have e : BitVec.ofNat 8 (w.toNat / 256 / 256 / 256) ++ BitVec.ofNat 8 (w.toNat / 256 / 256) ++
      BitVec.ofNat 8 (w.toNat / 256) ++ BitVec.ofNat 8 w.toNat = w := by
    apply BitVec.eq_of_toNat_eq
    rw [app_nat, app_nat, app_nat]
    have := w.isLt
    simp only [BitVec.toNat_ofNat]
    omega
  have h0 : (BitVec.ofNat 8 w.toNat).getLsbD 0 = true := by
    simp only [BitVec.getLsbD_ofNat, Nat.testBit_zero, h]; decide
  simp only [Code.bytes, bytesOfNat, decode, h0, if_true, e]

/-- The bytes of a halfword whose bit 0 is 0 decode as that halfword (R206). -/
theorem decode_half (w : BitVec 16) (h : w.toNat % 2 = 0) : decode (Code.half w).bytes = decodeHalf w := by
  have e : BitVec.ofNat 8 (w.toNat / 256) ++ BitVec.ofNat 8 w.toNat = w := by
    apply BitVec.eq_of_toNat_eq
    rw [app_nat]
    have := w.isLt
    simp only [BitVec.toNat_ofNat]
    omega
  have h0 : (BitVec.ofNat 8 w.toNat).getLsbD 0 = false := by
    simp only [BitVec.getLsbD_ofNat, Nat.testBit_zero, h]; decide
  simp only [Code.bytes, bytesOfNat, decode, h0, if_false, Bool.false_eq_true, e]

/-- A word of a legal major opcode that a row takes decodes to that row's instruction when it is well formed. -/
theorem decodeWord_ok (w : BitVec 32) (i : Instr) (m : Nat) (h : w.extractLsb' 1 6 = BitVec.ofNat 6 m)
    (h0 : (BitVec.ofNat 6 m).toNat ≠ 0) (h1 : (BitVec.ofNat 6 m).toNat ≠ 0x3F) (hd : decode32 w = some i)
    (hw : i.wf = true) : decodeWord w = .ok i 4 := by
  unfold decodeWord
  simp only [h, hd, hw, h0, h1, or_self, if_true, if_false]

/-- A halfword that a row takes decodes to that row's instruction when it is well formed. -/
theorem decodeHalf_ok (w : BitVec 16) (i : Instr) (h : w.toNat ≠ 0) (hd : decode16 w = some i) (hw : i.wf = true) :
    decodeHalf w = .ok i 2 := by
  unfold decodeHalf
  rw [if_neg (fun e => h (by rw [e]; rfl)), hd]
  simp only [hw, if_true]

end Sys2Proof.Laws
end

