-- ==== Sys2Proof/Laws/Lane.lean ====
section
/-! SUPPORT. Everything that the shared forms of lane and uniform instructions do for an issuing pod: the registers they
write, and their frame (R193, R206, R218 to R220, R237). -/

namespace Sys2Proof.Machine

/-- A lane form with a 32-bit result. -/
theorem laneOp_effect {s : State} {p : Pod} {w : Wave} {k : Crew} (h : Issuing s p w k) {rs : List Reg} {d : Reg}
    (hg : Granted k (d :: rs)) (hs : Sound w p rs) (f : Wave → Nat → Word) :
    ∃ t w', laneOp s rs d f = .next t ∧ Effect s t p w w' k (fun r => r = d) (fun _ => False) (fun _ => p.after) ∧
      ∀ l ∈ p.lanes, w'.get d l = coded (f w (if d.uniform = true then p.low else l)) := by
  unfold laneOp
  rw [withPod_ok h hg, chkOperands_ok hs]
  have hl := writeReg_local (Local.refl h (fun r => r = d) (fun _ => False)) h.bound d rfl fun l => coded (f w l)
  obtain ⟨w', he, hr, -⟩ := retireWith_effect h hl fun _ => p.after
  refine ⟨_, w', rfl, he, fun l hm => ?_⟩
  rw [hr, w.get_setLanes_self d p.lanes _ h.bound hm]
  rfl

/-- A lane form that writes a predicate. -/
theorem lanePred_effect {s : State} {p : Pod} {w : Wave} {k : Crew} (h : Issuing s p w k) {rs : List Reg} {ps : List Nat}
    (hg : Granted k rs) (hs : Sound w p rs) (hp : Clean w (predKeys p ps)) (d : BitVec 3) (f : Wave → Nat → Bool) :
    ∃ t w', lanePred s rs ps d f = .next t ∧
      Effect s t p w w' k (fun _ => False) (fun n => n = d.toNat) (fun _ => p.after) ∧
      ∀ l ∈ p.lanes, w'.pred d.toNat l = f w l := by
  unfold lanePred
  rw [withPod_ok h hg, chkSrcs_preds_ok hs hp]
  have hl := writePred_local (Local.refl h (fun _ => False) (fun n => n = d.toNat)) h.bound d.toNat rfl fun l => f w l
  obtain ⟨w', he, -, hr⟩ := retireWith_effect h hl fun _ => p.after
  refine ⟨_, w', rfl, he, fun l hm => ?_⟩
  rw [hr, w.pred_setPred _ _ _ h.bound, if_pos ⟨rfl, hm⟩]

theorem Reg.plus_ne (r : Reg) {i j : Nat} (h : i ≠ j) : r.plus i ≠ r.plus j := by
  cases r <;> simp [Reg.plus, h]

theorem Reg.plus_zero (r : Reg) : r.plus 0 = r := by cases r <;> rfl

theorem Reg.uniform_plus (r : Reg) (i : Nat) : (r.plus i).uniform = r.uniform := by cases r <;> rfl

/-- Writing a pair is a local change; both halves read back. -/
theorem writePair_effect {s : State} {p : Pod} {w : Wave} {k : Crew} (h : Issuing s p w k) (d : Reg) (f : Nat → BitVec 64) :
    ∃ w', Effect s ((s.writePair p d f).retire p) p w w' k (fun r => r = d ∨ r = d.plus 1) (fun _ => False) (fun _ => p.after) ∧
      ∀ l ∈ p.lanes, w'.get d l = coded ((f (if d.uniform = true then p.low else l)).setWidth 32) ∧
        w'.get (d.plus 1) l = coded ((f (if d.uniform = true then p.low else l) >>> 32).setWidth 32) := by
  have hl := writeReg_local (Local.refl h (fun r => r = d ∨ r = d.plus 1) (fun _ => False)) h.bound d (.inl rfl)
    fun l => coded (lo32 (f l))
  have hl := writeReg_local hl h.bound (d.plus 1) (.inr rfl) fun l => coded (hi32 (f l))
  obtain ⟨w', he, hr, -⟩ := retireWith_effect h hl fun _ => p.after
  refine ⟨w', he, fun l hm => ⟨?_, ?_⟩⟩
  · rw [hr, Wave.get_setLanes_other _ _ _ _ h.bound (h.bound l hm)
      (fun x => absurd x.1 (by have := d.plus_ne (i := 0) (j := 1) (by decide); rwa [d.plus_zero] at this))]
    rw [w.get_setLanes_self d p.lanes _ h.bound hm]; rfl
  · rw [hr, Wave.get_setLanes_self _ _ _ _ h.bound hm, d.uniform_plus]; rfl

/-- A lane form with a 64-bit result. -/
theorem laneOp64_effect {s : State} {p : Pod} {w : Wave} {k : Crew} (h : Issuing s p w k) {rs : List Reg} {d : Reg}
    (hg : Granted k (d.group 2 ++ rs)) (hs : Sound w p rs) (f : Wave → Nat → BitVec 64) :
    ∃ t w', laneOp64 s rs d f = .next t ∧
      Effect s t p w w' k (fun r => r = d ∨ r = d.plus 1) (fun _ => False) (fun _ => p.after) ∧
      ∀ l ∈ p.lanes, w'.get d l = coded ((f w (if d.uniform = true then p.low else l)).setWidth 32) ∧
        w'.get (d.plus 1) l = coded ((f w (if d.uniform = true then p.low else l) >>> 32).setWidth 32) := by
  unfold laneOp64
  rw [withPod_ok h hg, chkOperands_ok hs]
  obtain ⟨w', he, hr⟩ := writePair_effect h d (f w)
  exact ⟨_, w', rfl, he, hr⟩

/-- A uniform form. -/
theorem uniOp_effect {s : State} {p : Pod} {w : Wave} {k : Crew} (h : Issuing s p w k) {rs : List Reg} {d : Reg}
    (hg : Granted k (d :: rs)) (hs : Sound w p rs) (f : Wave → Word) :
    ∃ t w', uniOp s rs d f = .next t ∧ Effect s t p w w' k (fun r => r = d) (fun _ => False) (fun _ => p.after) ∧
      ∀ l ∈ p.lanes, w'.get d l = coded (f w) := by
  obtain ⟨t, w', ht, he, hr⟩ := laneOp_effect h hg hs fun w _ => f w
  exact ⟨t, w', ht, he, hr⟩

end Sys2Proof.Machine
end

