-- ==== Sys2Proof/Laws/Memory.lean ====
section
/-! SUPPORT. Every memory operation keeps the canonical form of the stacks' bytes and codes. -/

namespace Sys2Proof.Machine

/-- What leaves `mem` and `side` alone keeps their form. -/
theorem State.MemOk.of_eq {s t : State} (h : s.MemOk) (hm : t.mem = s.mem) (hs : t.side = s.side) : t.MemOk := by
  unfold State.MemOk; rw [hm, hs]; exact h

theorem memOk_foldl {α : Type} (f : State → α → State) (l : List α) (h : ∀ s x, s.MemOk → (f s x).MemOk) {s : State}
    (hs : s.MemOk) : (l.foldl f s).MemOk := by
  induction l generalizing s with
  | nil => exact hs
  | cons x l ih => exact ih (h s x hs)

theorem State.hbmPut_memOk {s : State} (pa : Nat) (u : GUnit) (h : s.MemOk) : (s.hbmPut pa u).MemOk :=
  ⟨Memory.wf_put _ _ (Memory.wf_put _ _ (Memory.wf_put _ _ (Memory.wf_put _ _ h.1))), Memory.wf_put _ _ h.2⟩

theorem State.hbmPuts_memOk (us : List GUnit) {s : State} (pa : Nat) (h : s.MemOk) : (s.hbmPuts pa us).MemOk := by
  induction us generalizing s pa with
  | nil => exact h
  | cons u us ih => exact ih _ (s.hbmPut_memOk pa u h)

theorem wf_foldl_put (l : List (Byte × Nat)) (f : Nat → Nat) {m : List Host.Cell} (h : Memory.wf m = true) :
    Memory.wf (l.foldl (fun m x => Memory.put m (f x.2) x.1) m) = true := by
  induction l generalizing m with
  | nil => exact h
  | cons x l ih => exact ih (Memory.wf_put _ _ h)

theorem State.sectorPut_memOk {s : State} (a : Nat) (bs : List Byte) (h : s.MemOk) : (s.sectorPut a bs).MemOk :=
  ⟨wf_foldl_put _ (fun i => a + i) h.1, wf_foldl_put _ (fun i => a / 4 + i) h.2⟩

theorem State.sectorsPut_memOk (n : Nat) {s : State} (a : Nat) (bs : List Byte) (h : s.MemOk) : (s.sectorsPut a n bs).MemOk := by
  induction n generalizing s a bs with
  | zero => exact h
  | succ n ih => exact ih _ _ (s.sectorPut_memOk a _ h)

theorem State.modCtl_memOk {s : State} (n : Nat) (f : Ctl → Ctl) (h : s.MemOk) : (s.modCtl n f).MemOk := h
theorem State.modDie_memOk {s : State} (n : Nat) (f : Die → Die) (h : s.MemOk) : (s.modDie n f).MemOk := h
theorem State.modCore_memOk {s : State} (n : Nat) (f : Core → Core) (h : s.MemOk) : (s.modCore n f).MemOk := h
theorem State.modWave_memOk {s : State} (c w : Nat) (f : Wave → Wave) (h : s.MemOk) : (s.modWave c w f).MemOk := h
theorem State.toOsm_memOk {s : State} (r : Report) (h : s.MemOk) : (s.toOsm r).MemOk := h
theorem State.toPewter_memOk {s : State} (r : Report) (h : s.MemOk) : (s.toPewter r).MemOk := h

theorem State.unpark_memOk {s : State} (blk : Nat) (h : s.MemOk) : (s.unpark blk).MemOk := by
  unfold State.unpark; split
  · exact h
  · exact h

theorem State.metaTouch_memOk {s : State} (blk : Nat) (h : s.MemOk) : (s.metaTouch blk).MemOk := by
  unfold State.metaTouch; simp only; split <;> exact h

theorem State.metaTell_memOk {s : State} (blk : Nat) (h : s.MemOk) : (s.metaTell blk).MemOk := by
  unfold State.metaTell
  split
  · exact h
  · split <;> exact h

theorem State.metaPut_memOk {s : State} (pa : Nat) (u : GUnit) (h : s.MemOk) : (s.metaPut pa u).MemOk := s.hbmPut_memOk pa u h

theorem State.setMeta_memOk {s : State} (blk a b : Nat) (h : s.MemOk) : (s.setMeta blk a b).MemOk := by
  have ht := s.metaTouch_memOk blk h
  unfold State.setMeta
  simp only
  split
  · exact ht
  · exact State.metaPut_memOk _ _ ht

theorem State.freeWord_memOk {s : State} (h : s.MemOk) : s.freeWord.2.MemOk := h

theorem State.park_memOk {s t : State} (blk : Nat) (us : List GUnit) (n : Nat) (h : s.MemOk) (ht : s.park blk us n = some t) :
    t.MemOk := by
  unfold State.park at ht
  split at ht
  · cases ht; exact h
  · simp only at ht
    split at ht
    · cases ht
    · cases ht; exact h

theorem State.blockWrite_memOk {s t : State} (blk a : Nat) (us : List GUnit) (h : s.MemOk)
    (ht : s.blockWrite blk a us = some t) : t.MemOk := by
  have hu := fun x y => State.setMeta_memOk blk x y (s.unpark_memOk blk h)
  unfold State.blockWrite at ht
  split at ht
  · cases ht; exact State.hbmPuts_memOk us _ (hu 0 0)
  · simp only at ht
    split at ht
    · exact s.park_memOk blk us _ h ht
    · split at ht
      · cases ht; exact State.hbmPuts_memOk us _ (hu _ _)
      · cases ht; exact State.sectorsPut_memOk _ _ _ (hu _ _)

theorem State.ctlMerge_memOk {s t : State} (line : Nat) (us : List GUnit) (d : BitVec 32) (h : s.MemOk)
    (ht : s.ctlMerge line us d = some t) : t.MemOk := by
  have hm := State.metaTell_memOk (line / 16) (s.metaTouch_memOk (line / 16) h)
  unfold State.ctlMerge at ht
  simp only at ht
  split at ht
  · split at ht
    · cases ht; exact hm
    · exact State.blockWrite_memOk _ _ _ hm ht
  · cases ht
    refine memOk_foldl _ _ (fun s i hs => ?_) hm
    split
    · exact s.hbmPut_memOk _ _ hs
    · exact hs

theorem State.l2Back_memOk {s t : State} (line : Nat) (h : s.MemOk) (ht : s.l2Back line = some t) : t.MemOk := by
  unfold State.l2Back at ht
  split at ht
  · cases ht; exact h
  · split at ht
    · cases ht; exact h
    · split at ht
      · cases ht
      · rename_i hc
        cases ht
        exact (s.ctlMerge_memOk _ _ _ h hc).of_eq rfl rfl

theorem State.l2EvictOne_memOk (ls : List Nat) {s : State} (h : s.MemOk) : (s.l2EvictOne ls).MemOk := by
  induction ls with
  | nil => exact h
  | cons l ls ih =>
    unfold State.l2EvictOne
    split
    · rename_i hb
      exact (s.l2Back_memOk l h hb).of_eq rfl rfl
    · exact ih

theorem State.l2Room_memOk {s : State} (line : Nat) (h : s.MemOk) : (s.l2Room line).MemOk := by
  unfold State.l2Room
  simp only
  split
  · exact h
  · exact State.l2EvictOne_memOk _ (s.freeWord_memOk h)

theorem State.l2Fetch_memOk {s : State} (line : Nat) (tag : Option Nat) (h : s.MemOk) : (s.l2Fetch line tag).MemOk := by
  have ht := State.metaTouch_memOk (line / 16) (s.l2Room_memOk line h)
  unfold State.l2Fetch
  exact ht.of_eq rfl rfl

theorem State.czTell_memOk {s : State} (blk : Nat) (cz : Option Bool) (h : s.MemOk) : (s.czTell blk cz).MemOk := by
  unfold State.czTell
  split
  · split <;> exact h
  · exact h

theorem State.l2FillOne_memOk {s : State} (line : Nat) (cz : Option Bool) (tag : Option Nat) (h : s.MemOk) :
    (s.l2FillOne line cz tag).MemOk := by
  unfold State.l2FillOne
  split
  · exact h
  · exact State.czTell_memOk _ _ (State.metaTell_memOk _ (s.l2Fetch_memOk line tag h))

theorem State.l2Fill_memOk {s : State} (line : Nat) (cz : Option Bool) (h : s.MemOk) : (s.l2Fill line cz).MemOk := by
  unfold State.l2Fill
  split
  · exact h
  · exact State.l2FillOne_memOk _ _ _ (memOk_foldl _ _ (fun s i hs => s.l2FillOne_memOk _ _ _ hs) h)

theorem State.homeGet_memOk {s : State} (pa : Nat) (cz : Option Bool) (h : s.MemOk) : (s.homeGet pa cz).2.MemOk := by
  have := s.l2Fill_memOk (pa / 128) cz h
  unfold State.homeGet
  simp only
  split <;> exact this

theorem State.noteWrite_memOk {s : State} (pa : Nat) (h : s.MemOk) : (s.noteWrite pa).MemOk := by
  unfold State.noteWrite
  simp only
  split <;> exact h

theorem State.unpoison_memOk {s : State} (pa : Nat) (h : s.MemOk) : (s.unpoison pa).MemOk := by
  unfold State.unpoison; simp only; split <;> exact h

theorem State.l2Put_memOk {s : State} (pa : Nat) (u : GUnit) (cz : Option Bool) (h : s.MemOk) : (s.l2Put pa u cz).MemOk :=
  s.l2Fill_memOk (pa / 128) cz h

theorem State.homePut_memOk {s : State} (pa : Nat) (u : GUnit) (cz : Option Bool) (h : s.MemOk) : (s.homePut pa u cz).MemOk :=
  State.noteWrite_memOk _ (State.unpoison_memOk _ (s.l2Put_memOk pa u cz h))

theorem State.homePuts_memOk (us : List GUnit) {s : State} (pa : Nat) (h : s.MemOk) : (s.homePuts pa us).MemOk := by
  induction us generalizing s pa with
  | nil => exact h
  | cons u us ih => exact ih _ (s.homePut_memOk pa u none h)

theorem State.homeGets_memOk (n : Nat) {s : State} (pa : Nat) (h : s.MemOk) : (s.homeGets pa n).2.MemOk := by
  induction n generalizing s pa with
  | zero => exact h
  | succ n ih => exact ih (pa + 4) (s.homeGet_memOk pa none h)

theorem State.l2Evict_memOk {s : State} (line : Nat) (h : s.MemOk) : (s.l2Evict line).MemOk := by
  unfold State.l2Evict
  split
  · exact h
  · rename_i hb
    exact (s.l2Back_memOk line h hb).of_eq rfl rfl

theorem State.homeAtomic_memOk {s : State} (pa : Nat) (op : AtomOp) (x : List GUnit) (h : s.MemOk) :
    (s.homeAtomic pa op x).2.MemOk := by
  have hg := State.homeGets_memOk op.words pa h
  unfold State.homeAtomic
  simp only
  split
  · exact hg
  · exact State.homePuts_memOk _ _ hg

theorem State.farLine_memOk {s t : State} (line : Nat) (h : s.MemOk) (ht : s.farLine line = some t) : t.MemOk := by
  unfold State.farLine at ht
  cases hb : s.l2Back line with
  | none => simp [hb] at ht
  | some u =>
    simp only [hb, Option.map_some, Option.some.injEq] at ht
    subst ht
    exact State.metaTell_memOk _ (State.metaTouch_memOk _ ((s.l2Back_memOk line h hb).of_eq rfl rfl))

theorem State.farPuts_memOk {s t : State} (pa : Nat) (us : List GUnit) (h : s.MemOk) (ht : s.farPuts pa us = some t) :
    t.MemOk := s.ctlMerge_memOk _ _ _ h ht

theorem State.farAtomic_memOk {s : State} (pa : Nat) (op : AtomOp) (x : List GUnit) (h : s.MemOk) :
    (s.farAtomic pa op x).2.MemOk := by
  unfold State.farAtomic
  split
  · exact h
  · rename_i t hl
    have ht := s.farLine_memOk _ h hl
    split
    · exact ht
    · split
      · rename_i hc
        exact memOk_foldl _ _ (fun s i hs => State.noteWrite_memOk _ (State.unpoison_memOk _ hs)) (State.farPuts_memOk _ _ ht hc)
      · exact h

theorem State.poisonList_memOk {s : State} (a : Nat) (h : s.MemOk) : (s.poisonList a).MemOk := by
  unfold State.poisonList
  simp only
  split
  · exact h
  · split <;> exact h

theorem State.poisonHome_memOk {s : State} (a : Nat) (h : s.MemOk) : (s.poisonHome a).MemOk :=
  State.poisonList_memOk a (State.l2Put_memOk a _ none (s.homeGet_memOk a none h))

theorem State.poisonFar_memOk {s t : State} (a : Nat) (h : s.MemOk) (ht : s.poisonFar a = some t) : t.MemOk := by
  unfold State.poisonFar at ht
  obtain ⟨u, hu, hm⟩ := Option.bind_eq_some_iff.1 ht
  obtain ⟨v, hv, rfl⟩ := Option.map_eq_some_iff.1 hm
  exact State.poisonList_memOk a (State.farPuts_memOk _ _ (s.farLine_memOk _ h hu) hv)

theorem State.traffic_memOk {s : State} (pa : Nat) (t : Traffic) (h : s.MemOk) : (s.traffic pa t).MemOk := by
  unfold State.traffic; split <;> exact h

theorem State.poison_memOk {s : State} (pa : Nat) (h : s.MemOk) : (s.poison pa).MemOk := by
  have hh := s.poisonHome_memOk (pa / 4 * 4) h
  unfold State.poison
  simp only
  split
  · split
    · cases hf : s.poisonFar (pa / 4 * 4) with
      | none => exact hh
      | some t => exact s.poisonFar_memOk _ h hf
    · exact hh
  · split
    · exact s.traffic_memOk _ _ h
    · exact h

theorem State.devGet_memOk {s : State} (pa : Nat) (h : s.MemOk) : (s.devGet pa).2.MemOk := by
  have ht := State.freeWord_memOk (s.traffic_memOk pa (.read pa) h)
  unfold State.devGet
  simp only
  split
  · exact State.freeWord_memOk ht
  · exact ht

theorem State.devPut_memOk {s : State} (pa : Nat) (u : GUnit) (h : s.MemOk) : (s.devPut pa u).MemOk := by
  unfold State.devPut; split <;> exact s.traffic_memOk pa _ h

theorem State.l1Back_memOk {s : State} (c line : Nat) (h : s.MemOk) : (s.l1Back c line).MemOk := by
  unfold State.l1Back
  split
  · exact h
  · refine State.modCore_memOk c _ (memOk_foldl _ _ (fun s e hs => ?_) h)
    split
    · exact s.homePut_memOk _ _ _ hs
    · exact hs

theorem State.l1Drop_memOk {s : State} (c line : Nat) (h : s.MemOk) : (s.l1Drop c line).MemOk := h

theorem State.l1Evict_memOk {s : State} (c line : Nat) (h : s.MemOk) : (s.l1Evict c line).MemOk := by
  unfold State.l1Evict
  split
  · exact h
  · exact State.modCore_memOk _ _ (State.l1Drop_memOk _ _ (s.l1Back_memOk c line h))

theorem State.l1BackOne_memOk {s : State} (c pa : Nat) (h : s.MemOk) : (s.l1BackOne c pa).MemOk := by
  unfold State.l1BackOne
  split
  · exact h
  · split
    · exact State.modCore_memOk _ _ (s.homePut_memOk pa _ _ h)
    · exact h

theorem State.vtaLookup_memOk {s : State} (c slot line : Nat) (h : s.MemOk) : (s.vtaLookup c slot line).MemOk := by
  unfold State.vtaLookup; simp only; split <;> exact h

theorem State.l1Room_memOk {s : State} (c line : Nat) (h : s.MemOk) : (s.l1Room c line).MemOk := by
  unfold State.l1Room
  simp only
  split
  · exact h
  · split
    · exact h
    · exact State.l1Evict_memOk _ _ (s.freeWord_memOk h)

theorem State.ownLine_memOk {s : State} (c line ctx : Nat) (h : s.MemOk) : (s.ownLine c line ctx).MemOk := by
  unfold State.ownLine
  split
  · exact h
  · split
    · exact h
    · exact State.l1Drop_memOk _ _ (s.l1Back_memOk c line h)

theorem State.weakGet_memOk {s : State} (c slot ctx pa bind : Nat) (cz : Bool) (h : s.MemOk) :
    (s.weakGet c slot ctx pa bind cz).2.MemOk := by
  have ho := s.ownLine_memOk (s.l1Core c (pa / 128)) (pa / 128) ctx h
  unfold State.weakGet
  simp only
  split
  · exact ho
  · exact State.modCore_memOk _ _ (State.l2Fill_memOk _ _ (State.l1Room_memOk _ _ (State.vtaLookup_memOk _ _ _ ho)))

theorem State.weakPut_memOk {s : State} (c slot ctx pa bind : Nat) (cz : Bool) (u : GUnit) (h : s.MemOk) :
    (s.weakPut c slot ctx pa bind cz u).MemOk := by
  have ho := s.ownLine_memOk (s.l1Core c (pa / 128)) (pa / 128) ctx h
  unfold State.weakPut
  simp only
  split
  · exact State.modCore_memOk _ _ ho
  · exact State.modCore_memOk _ _ (State.l1Room_memOk _ _ (State.vtaLookup_memOk _ _ _ ho))

theorem State.dropCleanOne_memOk {s : State} (c pa : Nat) (h : s.MemOk) : (s.dropCleanOne c pa).MemOk := h

theorem State.strongGet_memOk {s : State} (c pa : Nat) (cz : Option Bool) (h : s.MemOk) : (s.strongGet c pa cz).2.MemOk :=
  State.homeGet_memOk _ _ (State.dropCleanOne_memOk _ _ (s.l1BackOne_memOk _ _ h))

theorem State.strongPut_memOk {s : State} (c ctx pa bind : Nat) (u : GUnit) (cz : Option Bool) (h : s.MemOk) :
    (s.strongPut c ctx pa bind u cz).MemOk :=
  State.modCore_memOk _ _ (State.ownLine_memOk _ _ _ (State.homePut_memOk _ _ _ (s.l1BackOne_memOk _ _ h)))

theorem State.release_memOk {s : State} (c ctx : Nat) (o : Option Nat) (scope : Nat) (h : s.MemOk) :
    (s.release c ctx o scope).MemOk := by
  unfold State.release
  split
  · exact memOk_foldl _ _ (fun s c hs => memOk_foldl _ _ (fun s l hs => s.l1Back_memOk c l hs) hs) h
  · exact h

theorem State.acquire_memOk {s : State} (c ctx : Nat) (o : Option Nat) (scope : Nat) (h : s.MemOk) :
    (s.acquire c ctx o scope).MemOk := by
  unfold State.acquire
  split
  · exact memOk_foldl _ _ (fun s c hs => memOk_foldl _ _ (fun s l hs => State.modCore_memOk c _ hs) hs) h
  · exact h

theorem State.l1Flush_memOk {s : State} (c : Nat) (h : s.MemOk) : (s.l1Flush c).MemOk := by
  unfold State.l1Flush
  exact memOk_foldl (fun s l => (s.l1Back c l).l1Drop c l) _ (fun s l hs => (s.l1Back_memOk c l hs).of_eq rfl rfl) h

end Sys2Proof.Machine
end

