-- ==== Sys2Proof/Laws/PerInstr.lean ====
section
/-! SUPPORT. One lemma per instruction: its encoding decodes to it, with every operand at every value that the encoding
admits (R206 to R213). -/

namespace Sys2Proof.Laws

/-- Decoding the encoding of a well-formed instruction gives it back, with its length. Steps of the device have no encoding. -/
def RoundTrip.Statement (i : Instr) : Prop :=
  i.wf = true → ∀ c, encode i = some c → decode c.bytes = .ok i c.len

theorem RoundTrip.powerOn : RoundTrip.Statement .powerOn := fun _ _ h => nomatch h

theorem RoundTrip.powerLoss : RoundTrip.Statement .powerLoss := fun _ _ h => nomatch h

theorem RoundTrip.wake : RoundTrip.Statement .wake := fun _ _ h => nomatch h

theorem RoundTrip.status : RoundTrip.Statement .status := fun _ _ h => nomatch h

theorem RoundTrip.image : RoundTrip.Statement .image := fun _ _ h => nomatch h

theorem RoundTrip.lccmd : RoundTrip.Statement .lccmd := fun _ _ h => nomatch h

theorem RoundTrip.wipeComplete : RoundTrip.Statement .wipeComplete := fun _ _ h => nomatch h

theorem RoundTrip.attest : RoundTrip.Statement .attest := fun _ _ h => nomatch h

theorem RoundTrip.off : RoundTrip.Statement .off := fun _ _ h => nomatch h

theorem RoundTrip.unknownFrameType : RoundTrip.Statement .unknownFrameType := fun _ _ h => nomatch h

theorem RoundTrip.clockStepDown : RoundTrip.Statement .clockStepDown := fun _ _ h => nomatch h

theorem RoundTrip.clockStepUp : RoundTrip.Statement .clockStepUp := fun _ _ h => nomatch h

theorem RoundTrip.thermalTrip : RoundTrip.Statement .thermalTrip := fun _ _ h => nomatch h

theorem RoundTrip.coreCondemn : RoundTrip.Statement .coreCondemn := fun _ _ h => nomatch h

theorem RoundTrip.coreCondemnedReport : RoundTrip.Statement .coreCondemnedReport := fun _ _ h => nomatch h

theorem RoundTrip.pcieInboundData : RoundTrip.Statement .pcieInboundData := fun _ _ h => nomatch h

theorem RoundTrip.pcieOutboundData : RoundTrip.Statement .pcieOutboundData := fun _ _ h => nomatch h

theorem RoundTrip.pageWalk : RoundTrip.Statement .pageWalk := fun _ _ h => nomatch h

theorem RoundTrip.faultRecordWrite : RoundTrip.Statement .faultRecordWrite := fun _ _ h => nomatch h

theorem RoundTrip.replayRetry : RoundTrip.Statement .replayRetry := fun _ _ h => nomatch h

theorem RoundTrip.replayFatal : RoundTrip.Statement .replayFatal := fun _ _ h => nomatch h

theorem RoundTrip.frcfgWrite : RoundTrip.Statement .frcfgWrite := fun _ _ h => nomatch h

theorem RoundTrip.fridxWrite : RoundTrip.Statement .fridxWrite := fun _ _ h => nomatch h

theorem RoundTrip.xlinvaWrite : RoundTrip.Statement .xlinvaWrite := fun _ _ h => nomatch h

theorem RoundTrip.xlinvPage : RoundTrip.Statement .xlinvPage := fun _ _ h => nomatch h

theorem RoundTrip.xlinvAll : RoundTrip.Statement .xlinvAll := fun _ _ h => nomatch h

theorem RoundTrip.xlinvComplete : RoundTrip.Statement .xlinvComplete := fun _ _ h => nomatch h

theorem RoundTrip.homeAtomic : RoundTrip.Statement .homeAtomic := fun _ _ h => nomatch h

theorem RoundTrip.farAtomic : RoundTrip.Statement .farAtomic := fun _ _ h => nomatch h

theorem RoundTrip.l2Fill : RoundTrip.Statement .l2Fill := fun _ _ h => nomatch h

theorem RoundTrip.l2Writeback : RoundTrip.Statement .l2Writeback := fun _ _ h => nomatch h

theorem RoundTrip.growthRecordAppend : RoundTrip.Statement .growthRecordAppend := fun _ _ h => nomatch h

theorem RoundTrip.grcfgWrite : RoundTrip.Statement .grcfgWrite := fun _ _ h => nomatch h

theorem RoundTrip.gridxWrite : RoundTrip.Statement .gridxWrite := fun _ _ h => nomatch h

theorem RoundTrip.czcmd : RoundTrip.Statement .czcmd := fun _ _ h => nomatch h

theorem RoundTrip.fuse : RoundTrip.Statement .fuse := fun _ _ h => nomatch h

theorem RoundTrip.unfuse : RoundTrip.Statement .unfuse := fun _ _ h => nomatch h

theorem RoundTrip.windowRegisterWrite : RoundTrip.Statement .windowRegisterWrite := fun _ _ h => nomatch h

theorem RoundTrip.windowChangeComplete : RoundTrip.Statement .windowChangeComplete := fun _ _ h => nomatch h

theorem RoundTrip.frameWipe : RoundTrip.Statement .frameWipe := fun _ _ h => nomatch h

theorem RoundTrip.engineOpDispatch : RoundTrip.Statement .engineOpDispatch := fun _ _ h => nomatch h

theorem RoundTrip.enginePiece : RoundTrip.Statement .enginePiece := fun _ _ h => nomatch h

theorem RoundTrip.multicastArrival : RoundTrip.Statement .multicastArrival := fun _ _ h => nomatch h

theorem RoundTrip.remoteWriteDeposit : RoundTrip.Statement .remoteWriteDeposit := fun _ _ h => nomatch h

theorem RoundTrip.waitTimeout : RoundTrip.Statement .waitTimeout := fun _ _ h => nomatch h

theorem RoundTrip.binTimeout : RoundTrip.Statement .binTimeout := fun _ _ h => nomatch h

theorem RoundTrip.binWaveForm : RoundTrip.Statement .binWaveForm := fun _ _ h => nomatch h

theorem RoundTrip.llsDecay : RoundTrip.Statement .llsDecay := fun _ _ h => nomatch h

theorem RoundTrip.throttleSelect : RoundTrip.Statement .throttleSelect := fun _ _ h => nomatch h

theorem RoundTrip.throttleBypass : RoundTrip.Statement .throttleBypass := fun _ _ h => nomatch h

theorem RoundTrip.nopreWindowExpire : RoundTrip.Statement .nopreWindowExpire := fun _ _ h => nomatch h

theorem RoundTrip.crewEnd : RoundTrip.Statement .crewEnd := fun _ _ h => nomatch h

theorem RoundTrip.tdescWrite : RoundTrip.Statement .tdescWrite := fun _ _ h => nomatch h

theorem RoundTrip.arriveWrite : RoundTrip.Statement .arriveWrite := fun _ _ h => nomatch h

theorem RoundTrip.illegalEncoding : RoundTrip.Statement .illegalEncoding := fun _ _ h => nomatch h

theorem RoundTrip.rollback : RoundTrip.Statement .rollback := fun _ _ h => nomatch h

theorem RoundTrip.shadow : RoundTrip.Statement .shadow := fun _ _ h => nomatch h

theorem RoundTrip.shadowSlotGrant : RoundTrip.Statement .shadowSlotGrant := fun _ _ h => nomatch h

theorem RoundTrip.barrierWatchdogFire : RoundTrip.Statement .barrierWatchdogFire := fun _ _ h => nomatch h

theorem RoundTrip.diagDumpWrite : RoundTrip.Statement .diagDumpWrite := fun _ _ h => nomatch h

theorem RoundTrip.signalNotification : RoundTrip.Statement .signalNotification := fun _ _ h => nomatch h

theorem RoundTrip.queueIdleUnmap : RoundTrip.Statement .queueIdleUnmap := fun _ _ h => nomatch h

theorem RoundTrip.packetEmpty : RoundTrip.Statement .packetEmpty := fun _ _ h => nomatch h

theorem RoundTrip.packetNode : RoundTrip.Statement .packetNode := fun _ _ h => nomatch h

theorem RoundTrip.packetWait : RoundTrip.Statement .packetWait := fun _ _ h => nomatch h

theorem RoundTrip.packetSignal : RoundTrip.Statement .packetSignal := fun _ _ h => nomatch h

theorem RoundTrip.waitWordWatch : RoundTrip.Statement .waitWordWatch := fun _ _ h => nomatch h

theorem RoundTrip.waitWordPoll : RoundTrip.Statement .waitWordPoll := fun _ _ h => nomatch h

theorem RoundTrip.nodePlacement : RoundTrip.Statement .nodePlacement := fun _ _ h => nomatch h

theorem RoundTrip.priorityRise : RoundTrip.Statement .priorityRise := fun _ _ h => nomatch h

theorem RoundTrip.place : RoundTrip.Statement .place := fun _ _ h => nomatch h

theorem RoundTrip.ended : RoundTrip.Statement .ended := fun _ _ h => nomatch h

theorem RoundTrip.completionSignalWrite : RoundTrip.Statement .completionSignalWrite := fun _ _ h => nomatch h

theorem RoundTrip.eventRecordWrite : RoundTrip.Statement .eventRecordWrite := fun _ _ h => nomatch h

theorem RoundTrip.eventIrqTimer : RoundTrip.Statement .eventIrqTimer := fun _ _ h => nomatch h

theorem RoundTrip.fault : RoundTrip.Statement .fault := fun _ _ h => nomatch h

theorem RoundTrip.saved : RoundTrip.Statement .saved := fun _ _ h => nomatch h

theorem RoundTrip.cancel : RoundTrip.Statement .cancel := fun _ _ h => nomatch h

theorem RoundTrip.continueCrew : RoundTrip.Statement .continueCrew := fun _ _ h => nomatch h

theorem RoundTrip.test : RoundTrip.Statement .test := fun _ _ h => nomatch h

theorem RoundTrip.testEnd : RoundTrip.Statement .testEnd := fun _ _ h => nomatch h

theorem RoundTrip.misscapWrite : RoundTrip.Statement .misscapWrite := fun _ _ h => nomatch h

theorem RoundTrip.preemptionRequest : RoundTrip.Statement .preemptionRequest := fun _ _ h => nomatch h

theorem RoundTrip.scoreReport : RoundTrip.Statement .scoreReport := fun _ _ h => nomatch h

theorem RoundTrip.heapGrantReply : RoundTrip.Statement .heapGrantReply := fun _ _ h => nomatch h

theorem RoundTrip.preempt : RoundTrip.Statement .preempt := fun _ _ h => nomatch h

theorem RoundTrip.capture : RoundTrip.Statement .capture := fun _ _ h => nomatch h

theorem RoundTrip.resume : RoundTrip.Statement .resume := fun _ _ h => nomatch h

theorem RoundTrip.partitionReplace : RoundTrip.Statement .partitionReplace := fun _ _ h => nomatch h

theorem RoundTrip.scrub : RoundTrip.Statement .scrub := fun _ _ h => nomatch h

theorem RoundTrip.scrubCountUpdate : RoundTrip.Statement .scrubCountUpdate := fun _ _ h => nomatch h

theorem RoundTrip.ecscntClear : RoundTrip.Statement .ecscntClear := fun _ _ h => nomatch h

theorem RoundTrip.descriptorInstall : RoundTrip.Statement .descriptorInstall := fun _ _ h => nomatch h

theorem RoundTrip.firewallAssign : RoundTrip.Statement .firewallAssign := fun _ _ h => nomatch h

theorem RoundTrip.pageTableWrite : RoundTrip.Statement .pageTableWrite := fun _ _ h => nomatch h

theorem RoundTrip.windowInstall : RoundTrip.Statement .windowInstall := fun _ _ h => nomatch h

theorem RoundTrip.loadObject : RoundTrip.Statement .loadObject := fun _ _ h => nomatch h

theorem RoundTrip.linkPatch : RoundTrip.Statement .linkPatch := fun _ _ h => nomatch h

theorem RoundTrip.registerWrite : RoundTrip.Statement .registerWrite := fun _ _ h => nomatch h

theorem RoundTrip.movB32H (b : BitVec 5) (d : BitVec 6) : RoundTrip.Statement (.movB32H b d) := by
  intro hwf c hc
  obtain rfl := Option.some.inj hc
  have hn : (b ++ d ++ 0#5 : BitVec 16).toNat = ((b.toNat) * 2 ^ 6 + d.toNat) * 2 ^ 5 + 0 := by
    rw [app_nat, app_nat]; rfl
  have lb := b.isLt
  have ld := d.isLt
  have hz : ¬ (b.toNat = 0 ∧ d.toNat = 0) := fun h => by
    have hb : b = 0 := BitVec.eq_of_toNat_eq h.1
    have hd : d = 0 := BitVec.eq_of_toNat_eq h.2
    subst hb; subst hd; exact absurd hwf (by decide)
  generalize (b ++ d ++ 0#5 : BitVec 16) = w at *
  show decode (Code.half w).bytes = _
  rw [decode_half w (by omega)]
  refine decodeHalf_ok w _ (by omega) ?_ hwf
  unfold decode16; rw [ext_eq w 1 4 0 (by omega)]
  exact congrArg some (congr (congrArg Instr.movB32H (ext_op w 11 b (by omega))) (ext_op w 5 d (by omega)))

theorem RoundTrip.iaddN32H (b : BitVec 5) (d : BitVec 6) : RoundTrip.Statement (.iaddN32H b d) := by
  intro hwf c hc
  obtain rfl := Option.some.inj hc
  have hn : (b ++ d ++ 2#5 : BitVec 16).toNat = ((b.toNat) * 2 ^ 6 + d.toNat) * 2 ^ 5 + 2 := by
    rw [app_nat, app_nat]; rfl
  have lb := b.isLt
  have ld := d.isLt
  generalize (b ++ d ++ 2#5 : BitVec 16) = w at *
  show decode (Code.half w).bytes = _
  rw [decode_half w (by omega)]
  refine decodeHalf_ok w _ (by omega) ?_ hwf
  unfold decode16; rw [ext_eq w 1 4 1 (by omega)]
  exact congrArg some (congr (congrArg Instr.iaddN32H (ext_op w 11 b (by omega))) (ext_op w 5 d (by omega)))

theorem RoundTrip.isubN32H (b : BitVec 5) (d : BitVec 6) : RoundTrip.Statement (.isubN32H b d) := by
  intro hwf c hc
  obtain rfl := Option.some.inj hc
  have hn : (b ++ d ++ 4#5 : BitVec 16).toNat = ((b.toNat) * 2 ^ 6 + d.toNat) * 2 ^ 5 + 4 := by
    rw [app_nat, app_nat]; rfl
  have lb := b.isLt
  have ld := d.isLt
  generalize (b ++ d ++ 4#5 : BitVec 16) = w at *
  show decode (Code.half w).bytes = _
  rw [decode_half w (by omega)]
  refine decodeHalf_ok w _ (by omega) ?_ hwf
  unfold decode16; rw [ext_eq w 1 4 2 (by omega)]
  exact congrArg some (congr (congrArg Instr.isubN32H (ext_op w 11 b (by omega))) (ext_op w 5 d (by omega)))

theorem RoundTrip.imulN32H (b : BitVec 5) (d : BitVec 6) : RoundTrip.Statement (.imulN32H b d) := by
  intro hwf c hc
  obtain rfl := Option.some.inj hc
  have hn : (b ++ d ++ 6#5 : BitVec 16).toNat = ((b.toNat) * 2 ^ 6 + d.toNat) * 2 ^ 5 + 6 := by
    rw [app_nat, app_nat]; rfl
  have lb := b.isLt
  have ld := d.isLt
  generalize (b ++ d ++ 6#5 : BitVec 16) = w at *
  show decode (Code.half w).bytes = _
  rw [decode_half w (by omega)]
  refine decodeHalf_ok w _ (by omega) ?_ hwf
  unfold decode16; rw [ext_eq w 1 4 3 (by omega)]
  exact congrArg some (congr (congrArg Instr.imulN32H (ext_op w 11 b (by omega))) (ext_op w 5 d (by omega)))

theorem RoundTrip.andB32H (b : BitVec 5) (d : BitVec 6) : RoundTrip.Statement (.andB32H b d) := by
  intro hwf c hc
  obtain rfl := Option.some.inj hc
  have hn : (b ++ d ++ 8#5 : BitVec 16).toNat = ((b.toNat) * 2 ^ 6 + d.toNat) * 2 ^ 5 + 8 := by
    rw [app_nat, app_nat]; rfl
  have lb := b.isLt
  have ld := d.isLt
  generalize (b ++ d ++ 8#5 : BitVec 16) = w at *
  show decode (Code.half w).bytes = _
  rw [decode_half w (by omega)]
  refine decodeHalf_ok w _ (by omega) ?_ hwf
  unfold decode16; rw [ext_eq w 1 4 4 (by omega)]
  exact congrArg some (congr (congrArg Instr.andB32H (ext_op w 11 b (by omega))) (ext_op w 5 d (by omega)))

theorem RoundTrip.orB32H (b : BitVec 5) (d : BitVec 6) : RoundTrip.Statement (.orB32H b d) := by
  intro hwf c hc
  obtain rfl := Option.some.inj hc
  have hn : (b ++ d ++ 10#5 : BitVec 16).toNat = ((b.toNat) * 2 ^ 6 + d.toNat) * 2 ^ 5 + 10 := by
    rw [app_nat, app_nat]; rfl
  have lb := b.isLt
  have ld := d.isLt
  generalize (b ++ d ++ 10#5 : BitVec 16) = w at *
  show decode (Code.half w).bytes = _
  rw [decode_half w (by omega)]
  refine decodeHalf_ok w _ (by omega) ?_ hwf
  unfold decode16; rw [ext_eq w 1 4 5 (by omega)]
  exact congrArg some (congr (congrArg Instr.orB32H (ext_op w 11 b (by omega))) (ext_op w 5 d (by omega)))

theorem RoundTrip.xorB32H (b : BitVec 5) (d : BitVec 6) : RoundTrip.Statement (.xorB32H b d) := by
  intro hwf c hc
  obtain rfl := Option.some.inj hc
  have hn : (b ++ d ++ 12#5 : BitVec 16).toNat = ((b.toNat) * 2 ^ 6 + d.toNat) * 2 ^ 5 + 12 := by
    rw [app_nat, app_nat]; rfl
  have lb := b.isLt
  have ld := d.isLt
  generalize (b ++ d ++ 12#5 : BitVec 16) = w at *
  show decode (Code.half w).bytes = _
  rw [decode_half w (by omega)]
  refine decodeHalf_ok w _ (by omega) ?_ hwf
  unfold decode16; rw [ext_eq w 1 4 6 (by omega)]
  exact congrArg some (congr (congrArg Instr.xorB32H (ext_op w 11 b (by omega))) (ext_op w 5 d (by omega)))

theorem RoundTrip.shlB32H (b : BitVec 5) (d : BitVec 6) : RoundTrip.Statement (.shlB32H b d) := by
  intro hwf c hc
  obtain rfl := Option.some.inj hc
  have hn : (b ++ d ++ 14#5 : BitVec 16).toNat = ((b.toNat) * 2 ^ 6 + d.toNat) * 2 ^ 5 + 14 := by
    rw [app_nat, app_nat]; rfl
  have lb := b.isLt
  have ld := d.isLt
  generalize (b ++ d ++ 14#5 : BitVec 16) = w at *
  show decode (Code.half w).bytes = _
  rw [decode_half w (by omega)]
  refine decodeHalf_ok w _ (by omega) ?_ hwf
  unfold decode16; rw [ext_eq w 1 4 7 (by omega)]
  exact congrArg some (congr (congrArg Instr.shlB32H (ext_op w 11 b (by omega))) (ext_op w 5 d (by omega)))

theorem RoundTrip.shrN32H (b : BitVec 5) (d : BitVec 6) : RoundTrip.Statement (.shrN32H b d) := by
  intro hwf c hc
  obtain rfl := Option.some.inj hc
  have hn : (b ++ d ++ 16#5 : BitVec 16).toNat = ((b.toNat) * 2 ^ 6 + d.toNat) * 2 ^ 5 + 16 := by
    rw [app_nat, app_nat]; rfl
  have lb := b.isLt
  have ld := d.isLt
  generalize (b ++ d ++ 16#5 : BitVec 16) = w at *
  show decode (Code.half w).bytes = _
  rw [decode_half w (by omega)]
  refine decodeHalf_ok w _ (by omega) ?_ hwf
  unfold decode16; rw [ext_eq w 1 4 8 (by omega)]
  exact congrArg some (congr (congrArg Instr.shrN32H (ext_op w 11 b (by omega))) (ext_op w 5 d (by omega)))

theorem RoundTrip.shrI32H (b : BitVec 5) (d : BitVec 6) : RoundTrip.Statement (.shrI32H b d) := by
  intro hwf c hc
  obtain rfl := Option.some.inj hc
  have hn : (b ++ d ++ 18#5 : BitVec 16).toNat = ((b.toNat) * 2 ^ 6 + d.toNat) * 2 ^ 5 + 18 := by
    rw [app_nat, app_nat]; rfl
  have lb := b.isLt
  have ld := d.isLt
  generalize (b ++ d ++ 18#5 : BitVec 16) = w at *
  show decode (Code.half w).bytes = _
  rw [decode_half w (by omega)]
  refine decodeHalf_ok w _ (by omega) ?_ hwf
  unfold decode16; rw [ext_eq w 1 4 9 (by omega)]
  exact congrArg some (congr (congrArg Instr.shrI32H (ext_op w 11 b (by omega))) (ext_op w 5 d (by omega)))

theorem RoundTrip.faddF32H (b : BitVec 5) (d : BitVec 6) : RoundTrip.Statement (.faddF32H b d) := by
  intro hwf c hc
  obtain rfl := Option.some.inj hc
  have hn : (b ++ d ++ 20#5 : BitVec 16).toNat = ((b.toNat) * 2 ^ 6 + d.toNat) * 2 ^ 5 + 20 := by
    rw [app_nat, app_nat]; rfl
  have lb := b.isLt
  have ld := d.isLt
  generalize (b ++ d ++ 20#5 : BitVec 16) = w at *
  show decode (Code.half w).bytes = _
  rw [decode_half w (by omega)]
  refine decodeHalf_ok w _ (by omega) ?_ hwf
  unfold decode16; rw [ext_eq w 1 4 10 (by omega)]
  exact congrArg some (congr (congrArg Instr.faddF32H (ext_op w 11 b (by omega))) (ext_op w 5 d (by omega)))

theorem RoundTrip.fsubF32H (b : BitVec 5) (d : BitVec 6) : RoundTrip.Statement (.fsubF32H b d) := by
  intro hwf c hc
  obtain rfl := Option.some.inj hc
  have hn : (b ++ d ++ 22#5 : BitVec 16).toNat = ((b.toNat) * 2 ^ 6 + d.toNat) * 2 ^ 5 + 22 := by
    rw [app_nat, app_nat]; rfl
  have lb := b.isLt
  have ld := d.isLt
  generalize (b ++ d ++ 22#5 : BitVec 16) = w at *
  show decode (Code.half w).bytes = _
  rw [decode_half w (by omega)]
  refine decodeHalf_ok w _ (by omega) ?_ hwf
  unfold decode16; rw [ext_eq w 1 4 11 (by omega)]
  exact congrArg some (congr (congrArg Instr.fsubF32H (ext_op w 11 b (by omega))) (ext_op w 5 d (by omega)))

theorem RoundTrip.fmulF32H (b : BitVec 5) (d : BitVec 6) : RoundTrip.Statement (.fmulF32H b d) := by
  intro hwf c hc
  obtain rfl := Option.some.inj hc
  have hn : (b ++ d ++ 24#5 : BitVec 16).toNat = ((b.toNat) * 2 ^ 6 + d.toNat) * 2 ^ 5 + 24 := by
    rw [app_nat, app_nat]; rfl
  have lb := b.isLt
  have ld := d.isLt
  generalize (b ++ d ++ 24#5 : BitVec 16) = w at *
  show decode (Code.half w).bytes = _
  rw [decode_half w (by omega)]
  refine decodeHalf_ok w _ (by omega) ?_ hwf
  unfold decode16; rw [ext_eq w 1 4 12 (by omega)]
  exact congrArg some (congr (congrArg Instr.fmulF32H (ext_op w 11 b (by omega))) (ext_op w 5 d (by omega)))

theorem RoundTrip.fminF32H (b : BitVec 5) (d : BitVec 6) : RoundTrip.Statement (.fminF32H b d) := by
  intro hwf c hc
  obtain rfl := Option.some.inj hc
  have hn : (b ++ d ++ 26#5 : BitVec 16).toNat = ((b.toNat) * 2 ^ 6 + d.toNat) * 2 ^ 5 + 26 := by
    rw [app_nat, app_nat]; rfl
  have lb := b.isLt
  have ld := d.isLt
  generalize (b ++ d ++ 26#5 : BitVec 16) = w at *
  show decode (Code.half w).bytes = _
  rw [decode_half w (by omega)]
  refine decodeHalf_ok w _ (by omega) ?_ hwf
  unfold decode16; rw [ext_eq w 1 4 13 (by omega)]
  exact congrArg some (congr (congrArg Instr.fminF32H (ext_op w 11 b (by omega))) (ext_op w 5 d (by omega)))

theorem RoundTrip.fmaxF32H (b : BitVec 5) (d : BitVec 6) : RoundTrip.Statement (.fmaxF32H b d) := by
  intro hwf c hc
  obtain rfl := Option.some.inj hc
  have hn : (b ++ d ++ 28#5 : BitVec 16).toNat = ((b.toNat) * 2 ^ 6 + d.toNat) * 2 ^ 5 + 28 := by
    rw [app_nat, app_nat]; rfl
  have lb := b.isLt
  have ld := d.isLt
  generalize (b ++ d ++ 28#5 : BitVec 16) = w at *
  show decode (Code.half w).bytes = _
  rw [decode_half w (by omega)]
  refine decodeHalf_ok w _ (by omega) ?_ hwf
  unfold decode16; rw [ext_eq w 1 4 14 (by omega)]
  exact congrArg some (congr (congrArg Instr.fmaxF32H (ext_op w 11 b (by omega))) (ext_op w 5 d (by omega)))

theorem RoundTrip.iminI32H (b : BitVec 5) (d : BitVec 6) : RoundTrip.Statement (.iminI32H b d) := by
  intro hwf c hc
  obtain rfl := Option.some.inj hc
  have hn : (b ++ d ++ 30#5 : BitVec 16).toNat = ((b.toNat) * 2 ^ 6 + d.toNat) * 2 ^ 5 + 30 := by
    rw [app_nat, app_nat]; rfl
  have lb := b.isLt
  have ld := d.isLt
  generalize (b ++ d ++ 30#5 : BitVec 16) = w at *
  show decode (Code.half w).bytes = _
  rw [decode_half w (by omega)]
  refine decodeHalf_ok w _ (by omega) ?_ hwf
  unfold decode16; rw [ext_eq w 1 4 15 (by omega)]
  exact congrArg some (congr (congrArg Instr.iminI32H (ext_op w 11 b (by omega))) (ext_op w 5 d (by omega)))

theorem RoundTrip.iaddN32 (b : BitVec 7) (a : BitVec 7) (d : BitVec 7) : RoundTrip.Statement (.iaddN32 b a d) := by
  intro hwf c hc
  obtain rfl := Option.some.inj hc
  have hn : (0#4 ++ b ++ a ++ d ++ 3#7 : BitVec 32).toNat = ((((0) * 2 ^ 7 + b.toNat) * 2 ^ 7 + a.toNat) * 2 ^ 7 + d.toNat) * 2 ^ 7 + 3 := by
    rw [app_nat, app_nat, app_nat, app_nat]; rfl
  have hm : (0#4 ++ b ++ a ++ d ++ 3#7) &&& (15#4 ++ 0#7 ++ 0#7 ++ 0#7 ++ 127#7) = (0#4 ++ 0#7 ++ 0#7 ++ 0#7 ++ 3#7) := by
    rw [and_app, and_app, and_app, and_app]; simp only [BitVec.and_zero]; rfl
  have lb := b.isLt
  have la := a.isLt
  have ld := d.isLt
  generalize (0#4 ++ b ++ a ++ d ++ 3#7 : BitVec 32) = w at *
  replace hm : w &&& 0xF000007F#32 = 0x00000003#32 := hm
  show decode (Code.word w).bytes = _
  rw [decode_word w (by omega)]
  have f0 := ext_eq w 1 6 1 (by omega)
  refine decodeWord_ok w _ 1 f0 (by decide) (by decide) ?_ hwf
  unfold decode32; rw [f0]
  show dec01 w = _
  have e0 := ext_op w 21 b (by omega)
  have e1 := ext_op w 14 a (by omega)
  have e2 := ext_op w 7 d (by omega)
  unfold dec01; rw [ext_eq w 28 4 0 (by omega)]
  show row32 w _ _ (.iaddN32 (w.extractLsb' 21 7) (w.extractLsb' 14 7) (w.extractLsb' 7 7)) = _
  rw [e0, e1, e2]; exact if_pos hm

theorem RoundTrip.isubN32 (b : BitVec 7) (a : BitVec 7) (d : BitVec 7) : RoundTrip.Statement (.isubN32 b a d) := by
  intro hwf c hc
  obtain rfl := Option.some.inj hc
  have hn : (1#4 ++ b ++ a ++ d ++ 3#7 : BitVec 32).toNat = ((((1) * 2 ^ 7 + b.toNat) * 2 ^ 7 + a.toNat) * 2 ^ 7 + d.toNat) * 2 ^ 7 + 3 := by
    rw [app_nat, app_nat, app_nat, app_nat]; rfl
  have hm : (1#4 ++ b ++ a ++ d ++ 3#7) &&& (15#4 ++ 0#7 ++ 0#7 ++ 0#7 ++ 127#7) = (1#4 ++ 0#7 ++ 0#7 ++ 0#7 ++ 3#7) := by
    rw [and_app, and_app, and_app, and_app]; simp only [BitVec.and_zero]; rfl
  have lb := b.isLt
  have la := a.isLt
  have ld := d.isLt
  generalize (1#4 ++ b ++ a ++ d ++ 3#7 : BitVec 32) = w at *
  replace hm : w &&& 0xF000007F#32 = 0x10000003#32 := hm
  show decode (Code.word w).bytes = _
  rw [decode_word w (by omega)]
  have f0 := ext_eq w 1 6 1 (by omega)
  refine decodeWord_ok w _ 1 f0 (by decide) (by decide) ?_ hwf
  unfold decode32; rw [f0]
  show dec01 w = _
  have e0 := ext_op w 21 b (by omega)
  have e1 := ext_op w 14 a (by omega)
  have e2 := ext_op w 7 d (by omega)
  unfold dec01; rw [ext_eq w 28 4 1 (by omega)]
  show row32 w _ _ (.isubN32 (w.extractLsb' 21 7) (w.extractLsb' 14 7) (w.extractLsb' 7 7)) = _
  rw [e0, e1, e2]; exact if_pos hm

theorem RoundTrip.imulN32 (b : BitVec 7) (a : BitVec 7) (d : BitVec 7) : RoundTrip.Statement (.imulN32 b a d) := by
  intro hwf c hc
  obtain rfl := Option.some.inj hc
  have hn : (2#4 ++ b ++ a ++ d ++ 3#7 : BitVec 32).toNat = ((((2) * 2 ^ 7 + b.toNat) * 2 ^ 7 + a.toNat) * 2 ^ 7 + d.toNat) * 2 ^ 7 + 3 := by
    rw [app_nat, app_nat, app_nat, app_nat]; rfl
  have hm : (2#4 ++ b ++ a ++ d ++ 3#7) &&& (15#4 ++ 0#7 ++ 0#7 ++ 0#7 ++ 127#7) = (2#4 ++ 0#7 ++ 0#7 ++ 0#7 ++ 3#7) := by
    rw [and_app, and_app, and_app, and_app]; simp only [BitVec.and_zero]; rfl
  have lb := b.isLt
  have la := a.isLt
  have ld := d.isLt
  generalize (2#4 ++ b ++ a ++ d ++ 3#7 : BitVec 32) = w at *
  replace hm : w &&& 0xF000007F#32 = 0x20000003#32 := hm
  show decode (Code.word w).bytes = _
  rw [decode_word w (by omega)]
  have f0 := ext_eq w 1 6 1 (by omega)
  refine decodeWord_ok w _ 1 f0 (by decide) (by decide) ?_ hwf
  unfold decode32; rw [f0]
  show dec01 w = _
  have e0 := ext_op w 21 b (by omega)
  have e1 := ext_op w 14 a (by omega)
  have e2 := ext_op w 7 d (by omega)
  unfold dec01; rw [ext_eq w 28 4 2 (by omega)]
  show row32 w _ _ (.imulN32 (w.extractLsb' 21 7) (w.extractLsb' 14 7) (w.extractLsb' 7 7)) = _
  rw [e0, e1, e2]; exact if_pos hm

theorem RoundTrip.imulhiI32 (b : BitVec 7) (a : BitVec 7) (d : BitVec 7) : RoundTrip.Statement (.imulhiI32 b a d) := by
  intro hwf c hc
  obtain rfl := Option.some.inj hc
  have hn : (3#4 ++ b ++ a ++ d ++ 3#7 : BitVec 32).toNat = ((((3) * 2 ^ 7 + b.toNat) * 2 ^ 7 + a.toNat) * 2 ^ 7 + d.toNat) * 2 ^ 7 + 3 := by
    rw [app_nat, app_nat, app_nat, app_nat]; rfl
  have hm : (3#4 ++ b ++ a ++ d ++ 3#7) &&& (15#4 ++ 0#7 ++ 0#7 ++ 0#7 ++ 127#7) = (3#4 ++ 0#7 ++ 0#7 ++ 0#7 ++ 3#7) := by
    rw [and_app, and_app, and_app, and_app]; simp only [BitVec.and_zero]; rfl
  have lb := b.isLt
  have la := a.isLt
  have ld := d.isLt
  generalize (3#4 ++ b ++ a ++ d ++ 3#7 : BitVec 32) = w at *
  replace hm : w &&& 0xF000007F#32 = 0x30000003#32 := hm
  show decode (Code.word w).bytes = _
  rw [decode_word w (by omega)]
  have f0 := ext_eq w 1 6 1 (by omega)
  refine decodeWord_ok w _ 1 f0 (by decide) (by decide) ?_ hwf
  unfold decode32; rw [f0]
  show dec01 w = _
  have e0 := ext_op w 21 b (by omega)
  have e1 := ext_op w 14 a (by omega)
  have e2 := ext_op w 7 d (by omega)
  unfold dec01; rw [ext_eq w 28 4 3 (by omega)]
  show row32 w _ _ (.imulhiI32 (w.extractLsb' 21 7) (w.extractLsb' 14 7) (w.extractLsb' 7 7)) = _
  rw [e0, e1, e2]; exact if_pos hm

theorem RoundTrip.imulhiN32 (b : BitVec 7) (a : BitVec 7) (d : BitVec 7) : RoundTrip.Statement (.imulhiN32 b a d) := by
  intro hwf c hc
  obtain rfl := Option.some.inj hc
  have hn : (4#4 ++ b ++ a ++ d ++ 3#7 : BitVec 32).toNat = ((((4) * 2 ^ 7 + b.toNat) * 2 ^ 7 + a.toNat) * 2 ^ 7 + d.toNat) * 2 ^ 7 + 3 := by
    rw [app_nat, app_nat, app_nat, app_nat]; rfl
  have hm : (4#4 ++ b ++ a ++ d ++ 3#7) &&& (15#4 ++ 0#7 ++ 0#7 ++ 0#7 ++ 127#7) = (4#4 ++ 0#7 ++ 0#7 ++ 0#7 ++ 3#7) := by
    rw [and_app, and_app, and_app, and_app]; simp only [BitVec.and_zero]; rfl
  have lb := b.isLt
  have la := a.isLt
  have ld := d.isLt
  generalize (4#4 ++ b ++ a ++ d ++ 3#7 : BitVec 32) = w at *
  replace hm : w &&& 0xF000007F#32 = 0x40000003#32 := hm
  show decode (Code.word w).bytes = _
  rw [decode_word w (by omega)]
  have f0 := ext_eq w 1 6 1 (by omega)
  refine decodeWord_ok w _ 1 f0 (by decide) (by decide) ?_ hwf
  unfold decode32; rw [f0]
  show dec01 w = _
  have e0 := ext_op w 21 b (by omega)
  have e1 := ext_op w 14 a (by omega)
  have e2 := ext_op w 7 d (by omega)
  unfold dec01; rw [ext_eq w 28 4 4 (by omega)]
  show row32 w _ _ (.imulhiN32 (w.extractLsb' 21 7) (w.extractLsb' 14 7) (w.extractLsb' 7 7)) = _
  rw [e0, e1, e2]; exact if_pos hm

theorem RoundTrip.iminI32 (b : BitVec 7) (a : BitVec 7) (d : BitVec 7) : RoundTrip.Statement (.iminI32 b a d) := by
  intro hwf c hc
  obtain rfl := Option.some.inj hc
  have hn : (5#4 ++ b ++ a ++ d ++ 3#7 : BitVec 32).toNat = ((((5) * 2 ^ 7 + b.toNat) * 2 ^ 7 + a.toNat) * 2 ^ 7 + d.toNat) * 2 ^ 7 + 3 := by
    rw [app_nat, app_nat, app_nat, app_nat]; rfl
  have hm : (5#4 ++ b ++ a ++ d ++ 3#7) &&& (15#4 ++ 0#7 ++ 0#7 ++ 0#7 ++ 127#7) = (5#4 ++ 0#7 ++ 0#7 ++ 0#7 ++ 3#7) := by
    rw [and_app, and_app, and_app, and_app]; simp only [BitVec.and_zero]; rfl
  have lb := b.isLt
  have la := a.isLt
  have ld := d.isLt
  generalize (5#4 ++ b ++ a ++ d ++ 3#7 : BitVec 32) = w at *
  replace hm : w &&& 0xF000007F#32 = 0x50000003#32 := hm
  show decode (Code.word w).bytes = _
  rw [decode_word w (by omega)]
  have f0 := ext_eq w 1 6 1 (by omega)
  refine decodeWord_ok w _ 1 f0 (by decide) (by decide) ?_ hwf
  unfold decode32; rw [f0]
  show dec01 w = _
  have e0 := ext_op w 21 b (by omega)
  have e1 := ext_op w 14 a (by omega)
  have e2 := ext_op w 7 d (by omega)
  unfold dec01; rw [ext_eq w 28 4 5 (by omega)]
  show row32 w _ _ (.iminI32 (w.extractLsb' 21 7) (w.extractLsb' 14 7) (w.extractLsb' 7 7)) = _
  rw [e0, e1, e2]; exact if_pos hm

theorem RoundTrip.iminN32 (b : BitVec 7) (a : BitVec 7) (d : BitVec 7) : RoundTrip.Statement (.iminN32 b a d) := by
  intro hwf c hc
  obtain rfl := Option.some.inj hc
  have hn : (6#4 ++ b ++ a ++ d ++ 3#7 : BitVec 32).toNat = ((((6) * 2 ^ 7 + b.toNat) * 2 ^ 7 + a.toNat) * 2 ^ 7 + d.toNat) * 2 ^ 7 + 3 := by
    rw [app_nat, app_nat, app_nat, app_nat]; rfl
  have hm : (6#4 ++ b ++ a ++ d ++ 3#7) &&& (15#4 ++ 0#7 ++ 0#7 ++ 0#7 ++ 127#7) = (6#4 ++ 0#7 ++ 0#7 ++ 0#7 ++ 3#7) := by
    rw [and_app, and_app, and_app, and_app]; simp only [BitVec.and_zero]; rfl
  have lb := b.isLt
  have la := a.isLt
  have ld := d.isLt
  generalize (6#4 ++ b ++ a ++ d ++ 3#7 : BitVec 32) = w at *
  replace hm : w &&& 0xF000007F#32 = 0x60000003#32 := hm
  show decode (Code.word w).bytes = _
  rw [decode_word w (by omega)]
  have f0 := ext_eq w 1 6 1 (by omega)
  refine decodeWord_ok w _ 1 f0 (by decide) (by decide) ?_ hwf
  unfold decode32; rw [f0]
  show dec01 w = _
  have e0 := ext_op w 21 b (by omega)
  have e1 := ext_op w 14 a (by omega)
  have e2 := ext_op w 7 d (by omega)
  unfold dec01; rw [ext_eq w 28 4 6 (by omega)]
  show row32 w _ _ (.iminN32 (w.extractLsb' 21 7) (w.extractLsb' 14 7) (w.extractLsb' 7 7)) = _
  rw [e0, e1, e2]; exact if_pos hm

theorem RoundTrip.imaxI32 (b : BitVec 7) (a : BitVec 7) (d : BitVec 7) : RoundTrip.Statement (.imaxI32 b a d) := by
  intro hwf c hc
  obtain rfl := Option.some.inj hc
  have hn : (7#4 ++ b ++ a ++ d ++ 3#7 : BitVec 32).toNat = ((((7) * 2 ^ 7 + b.toNat) * 2 ^ 7 + a.toNat) * 2 ^ 7 + d.toNat) * 2 ^ 7 + 3 := by
    rw [app_nat, app_nat, app_nat, app_nat]; rfl
  have hm : (7#4 ++ b ++ a ++ d ++ 3#7) &&& (15#4 ++ 0#7 ++ 0#7 ++ 0#7 ++ 127#7) = (7#4 ++ 0#7 ++ 0#7 ++ 0#7 ++ 3#7) := by
    rw [and_app, and_app, and_app, and_app]; simp only [BitVec.and_zero]; rfl
  have lb := b.isLt
  have la := a.isLt
  have ld := d.isLt
  generalize (7#4 ++ b ++ a ++ d ++ 3#7 : BitVec 32) = w at *
  replace hm : w &&& 0xF000007F#32 = 0x70000003#32 := hm
  show decode (Code.word w).bytes = _
  rw [decode_word w (by omega)]
  have f0 := ext_eq w 1 6 1 (by omega)
  refine decodeWord_ok w _ 1 f0 (by decide) (by decide) ?_ hwf
  unfold decode32; rw [f0]
  show dec01 w = _
  have e0 := ext_op w 21 b (by omega)
  have e1 := ext_op w 14 a (by omega)
  have e2 := ext_op w 7 d (by omega)
  unfold dec01; rw [ext_eq w 28 4 7 (by omega)]
  show row32 w _ _ (.imaxI32 (w.extractLsb' 21 7) (w.extractLsb' 14 7) (w.extractLsb' 7 7)) = _
  rw [e0, e1, e2]; exact if_pos hm

theorem RoundTrip.imaxN32 (b : BitVec 7) (a : BitVec 7) (d : BitVec 7) : RoundTrip.Statement (.imaxN32 b a d) := by
  intro hwf c hc
  obtain rfl := Option.some.inj hc
  have hn : (8#4 ++ b ++ a ++ d ++ 3#7 : BitVec 32).toNat = ((((8) * 2 ^ 7 + b.toNat) * 2 ^ 7 + a.toNat) * 2 ^ 7 + d.toNat) * 2 ^ 7 + 3 := by
    rw [app_nat, app_nat, app_nat, app_nat]; rfl
  have hm : (8#4 ++ b ++ a ++ d ++ 3#7) &&& (15#4 ++ 0#7 ++ 0#7 ++ 0#7 ++ 127#7) = (8#4 ++ 0#7 ++ 0#7 ++ 0#7 ++ 3#7) := by
    rw [and_app, and_app, and_app, and_app]; simp only [BitVec.and_zero]; rfl
  have lb := b.isLt
  have la := a.isLt
  have ld := d.isLt
  generalize (8#4 ++ b ++ a ++ d ++ 3#7 : BitVec 32) = w at *
  replace hm : w &&& 0xF000007F#32 = 0x80000003#32 := hm
  show decode (Code.word w).bytes = _
  rw [decode_word w (by omega)]
  have f0 := ext_eq w 1 6 1 (by omega)
  refine decodeWord_ok w _ 1 f0 (by decide) (by decide) ?_ hwf
  unfold decode32; rw [f0]
  show dec01 w = _
  have e0 := ext_op w 21 b (by omega)
  have e1 := ext_op w 14 a (by omega)
  have e2 := ext_op w 7 d (by omega)
  unfold dec01; rw [ext_eq w 28 4 8 (by omega)]
  show row32 w _ _ (.imaxN32 (w.extractLsb' 21 7) (w.extractLsb' 14 7) (w.extractLsb' 7 7)) = _
  rw [e0, e1, e2]; exact if_pos hm

theorem RoundTrip.iabsI32 (a : BitVec 7) (d : BitVec 7) : RoundTrip.Statement (.iabsI32 a d) := by
  intro hwf c hc
  obtain rfl := Option.some.inj hc
  have hn : (1152#11 ++ a ++ d ++ 3#7 : BitVec 32).toNat = (((1152) * 2 ^ 7 + a.toNat) * 2 ^ 7 + d.toNat) * 2 ^ 7 + 3 := by
    rw [app_nat, app_nat, app_nat]; rfl
  have hm : (1152#11 ++ a ++ d ++ 3#7) &&& (2047#11 ++ 0#7 ++ 0#7 ++ 127#7) = (1152#11 ++ 0#7 ++ 0#7 ++ 3#7) := by
    rw [and_app, and_app, and_app]; simp only [BitVec.and_zero]; rfl
  have la := a.isLt
  have ld := d.isLt
  generalize (1152#11 ++ a ++ d ++ 3#7 : BitVec 32) = w at *
  replace hm : w &&& 0xFFE0007F#32 = 0x90000003#32 := hm
  show decode (Code.word w).bytes = _
  rw [decode_word w (by omega)]
  have f0 := ext_eq w 1 6 1 (by omega)
  refine decodeWord_ok w _ 1 f0 (by decide) (by decide) ?_ hwf
  unfold decode32; rw [f0]
  show dec01 w = _
  have e0 := ext_op w 14 a (by omega)
  have e1 := ext_op w 7 d (by omega)
  unfold dec01; rw [ext_eq w 28 4 9 (by omega)]
  show row32 w _ _ (.iabsI32 (w.extractLsb' 14 7) (w.extractLsb' 7 7)) = _
  rw [e0, e1]; exact if_pos hm

theorem RoundTrip.idivI32 (b : BitVec 7) (a : BitVec 7) (d : BitVec 7) : RoundTrip.Statement (.idivI32 b a d) := by
  intro hwf c hc
  obtain rfl := Option.some.inj hc
  have hn : (10#4 ++ b ++ a ++ d ++ 3#7 : BitVec 32).toNat = ((((10) * 2 ^ 7 + b.toNat) * 2 ^ 7 + a.toNat) * 2 ^ 7 + d.toNat) * 2 ^ 7 + 3 := by
    rw [app_nat, app_nat, app_nat, app_nat]; rfl
  have hm : (10#4 ++ b ++ a ++ d ++ 3#7) &&& (15#4 ++ 0#7 ++ 0#7 ++ 0#7 ++ 127#7) = (10#4 ++ 0#7 ++ 0#7 ++ 0#7 ++ 3#7) := by
    rw [and_app, and_app, and_app, and_app]; simp only [BitVec.and_zero]; rfl
  have lb := b.isLt
  have la := a.isLt
  have ld := d.isLt
  generalize (10#4 ++ b ++ a ++ d ++ 3#7 : BitVec 32) = w at *
  replace hm : w &&& 0xF000007F#32 = 0xA0000003#32 := hm
  show decode (Code.word w).bytes = _
  rw [decode_word w (by omega)]
  have f0 := ext_eq w 1 6 1 (by omega)
  refine decodeWord_ok w _ 1 f0 (by decide) (by decide) ?_ hwf
  unfold decode32; rw [f0]
  show dec01 w = _
  have e0 := ext_op w 21 b (by omega)
  have e1 := ext_op w 14 a (by omega)
  have e2 := ext_op w 7 d (by omega)
  unfold dec01; rw [ext_eq w 28 4 10 (by omega)]
  show row32 w _ _ (.idivI32 (w.extractLsb' 21 7) (w.extractLsb' 14 7) (w.extractLsb' 7 7)) = _
  rw [e0, e1, e2]; exact if_pos hm

theorem RoundTrip.idivN32 (b : BitVec 7) (a : BitVec 7) (d : BitVec 7) : RoundTrip.Statement (.idivN32 b a d) := by
  intro hwf c hc
  obtain rfl := Option.some.inj hc
  have hn : (11#4 ++ b ++ a ++ d ++ 3#7 : BitVec 32).toNat = ((((11) * 2 ^ 7 + b.toNat) * 2 ^ 7 + a.toNat) * 2 ^ 7 + d.toNat) * 2 ^ 7 + 3 := by
    rw [app_nat, app_nat, app_nat, app_nat]; rfl
  have hm : (11#4 ++ b ++ a ++ d ++ 3#7) &&& (15#4 ++ 0#7 ++ 0#7 ++ 0#7 ++ 127#7) = (11#4 ++ 0#7 ++ 0#7 ++ 0#7 ++ 3#7) := by
    rw [and_app, and_app, and_app, and_app]; simp only [BitVec.and_zero]; rfl
  have lb := b.isLt
  have la := a.isLt
  have ld := d.isLt
  generalize (11#4 ++ b ++ a ++ d ++ 3#7 : BitVec 32) = w at *
  replace hm : w &&& 0xF000007F#32 = 0xB0000003#32 := hm
  show decode (Code.word w).bytes = _
  rw [decode_word w (by omega)]
  have f0 := ext_eq w 1 6 1 (by omega)
  refine decodeWord_ok w _ 1 f0 (by decide) (by decide) ?_ hwf
  unfold decode32; rw [f0]
  show dec01 w = _
  have e0 := ext_op w 21 b (by omega)
  have e1 := ext_op w 14 a (by omega)
  have e2 := ext_op w 7 d (by omega)
  unfold dec01; rw [ext_eq w 28 4 11 (by omega)]
  show row32 w _ _ (.idivN32 (w.extractLsb' 21 7) (w.extractLsb' 14 7) (w.extractLsb' 7 7)) = _
  rw [e0, e1, e2]; exact if_pos hm

theorem RoundTrip.iremI32 (b : BitVec 7) (a : BitVec 7) (d : BitVec 7) : RoundTrip.Statement (.iremI32 b a d) := by
  intro hwf c hc
  obtain rfl := Option.some.inj hc
  have hn : (12#4 ++ b ++ a ++ d ++ 3#7 : BitVec 32).toNat = ((((12) * 2 ^ 7 + b.toNat) * 2 ^ 7 + a.toNat) * 2 ^ 7 + d.toNat) * 2 ^ 7 + 3 := by
    rw [app_nat, app_nat, app_nat, app_nat]; rfl
  have hm : (12#4 ++ b ++ a ++ d ++ 3#7) &&& (15#4 ++ 0#7 ++ 0#7 ++ 0#7 ++ 127#7) = (12#4 ++ 0#7 ++ 0#7 ++ 0#7 ++ 3#7) := by
    rw [and_app, and_app, and_app, and_app]; simp only [BitVec.and_zero]; rfl
  have lb := b.isLt
  have la := a.isLt
  have ld := d.isLt
  generalize (12#4 ++ b ++ a ++ d ++ 3#7 : BitVec 32) = w at *
  replace hm : w &&& 0xF000007F#32 = 0xC0000003#32 := hm
  show decode (Code.word w).bytes = _
  rw [decode_word w (by omega)]
  have f0 := ext_eq w 1 6 1 (by omega)
  refine decodeWord_ok w _ 1 f0 (by decide) (by decide) ?_ hwf
  unfold decode32; rw [f0]
  show dec01 w = _
  have e0 := ext_op w 21 b (by omega)
  have e1 := ext_op w 14 a (by omega)
  have e2 := ext_op w 7 d (by omega)
  unfold dec01; rw [ext_eq w 28 4 12 (by omega)]
  show row32 w _ _ (.iremI32 (w.extractLsb' 21 7) (w.extractLsb' 14 7) (w.extractLsb' 7 7)) = _
  rw [e0, e1, e2]; exact if_pos hm

theorem RoundTrip.iremN32 (b : BitVec 7) (a : BitVec 7) (d : BitVec 7) : RoundTrip.Statement (.iremN32 b a d) := by
  intro hwf c hc
  obtain rfl := Option.some.inj hc
  have hn : (13#4 ++ b ++ a ++ d ++ 3#7 : BitVec 32).toNat = ((((13) * 2 ^ 7 + b.toNat) * 2 ^ 7 + a.toNat) * 2 ^ 7 + d.toNat) * 2 ^ 7 + 3 := by
    rw [app_nat, app_nat, app_nat, app_nat]; rfl
  have hm : (13#4 ++ b ++ a ++ d ++ 3#7) &&& (15#4 ++ 0#7 ++ 0#7 ++ 0#7 ++ 127#7) = (13#4 ++ 0#7 ++ 0#7 ++ 0#7 ++ 3#7) := by
    rw [and_app, and_app, and_app, and_app]; simp only [BitVec.and_zero]; rfl
  have lb := b.isLt
  have la := a.isLt
  have ld := d.isLt
  generalize (13#4 ++ b ++ a ++ d ++ 3#7 : BitVec 32) = w at *
  replace hm : w &&& 0xF000007F#32 = 0xD0000003#32 := hm
  show decode (Code.word w).bytes = _
  rw [decode_word w (by omega)]
  have f0 := ext_eq w 1 6 1 (by omega)
  refine decodeWord_ok w _ 1 f0 (by decide) (by decide) ?_ hwf
  unfold decode32; rw [f0]
  show dec01 w = _
  have e0 := ext_op w 21 b (by omega)
  have e1 := ext_op w 14 a (by omega)
  have e2 := ext_op w 7 d (by omega)
  unfold dec01; rw [ext_eq w 28 4 13 (by omega)]
  show row32 w _ _ (.iremN32 (w.extractLsb' 21 7) (w.extractLsb' 14 7) (w.extractLsb' 7 7)) = _
  rw [e0, e1, e2]; exact if_pos hm

theorem RoundTrip.iaddsatI32 (b : BitVec 7) (a : BitVec 7) (d : BitVec 7) : RoundTrip.Statement (.iaddsatI32 b a d) := by
  intro hwf c hc
  obtain rfl := Option.some.inj hc
  have hn : (14#4 ++ b ++ a ++ d ++ 3#7 : BitVec 32).toNat = ((((14) * 2 ^ 7 + b.toNat) * 2 ^ 7 + a.toNat) * 2 ^ 7 + d.toNat) * 2 ^ 7 + 3 := by
    rw [app_nat, app_nat, app_nat, app_nat]; rfl
  have hm : (14#4 ++ b ++ a ++ d ++ 3#7) &&& (15#4 ++ 0#7 ++ 0#7 ++ 0#7 ++ 127#7) = (14#4 ++ 0#7 ++ 0#7 ++ 0#7 ++ 3#7) := by
    rw [and_app, and_app, and_app, and_app]; simp only [BitVec.and_zero]; rfl
  have lb := b.isLt
  have la := a.isLt
  have ld := d.isLt
  generalize (14#4 ++ b ++ a ++ d ++ 3#7 : BitVec 32) = w at *
  replace hm : w &&& 0xF000007F#32 = 0xE0000003#32 := hm
  show decode (Code.word w).bytes = _
  rw [decode_word w (by omega)]
  have f0 := ext_eq w 1 6 1 (by omega)
  refine decodeWord_ok w _ 1 f0 (by decide) (by decide) ?_ hwf
  unfold decode32; rw [f0]
  show dec01 w = _
  have e0 := ext_op w 21 b (by omega)
  have e1 := ext_op w 14 a (by omega)
  have e2 := ext_op w 7 d (by omega)
  unfold dec01; rw [ext_eq w 28 4 14 (by omega)]
  show row32 w _ _ (.iaddsatI32 (w.extractLsb' 21 7) (w.extractLsb' 14 7) (w.extractLsb' 7 7)) = _
  rw [e0, e1, e2]; exact if_pos hm

theorem RoundTrip.isubsatI32 (b : BitVec 7) (a : BitVec 7) (d : BitVec 7) : RoundTrip.Statement (.isubsatI32 b a d) := by
  intro hwf c hc
  obtain rfl := Option.some.inj hc
  have hn : (15#4 ++ b ++ a ++ d ++ 3#7 : BitVec 32).toNat = ((((15) * 2 ^ 7 + b.toNat) * 2 ^ 7 + a.toNat) * 2 ^ 7 + d.toNat) * 2 ^ 7 + 3 := by
    rw [app_nat, app_nat, app_nat, app_nat]; rfl
  have hm : (15#4 ++ b ++ a ++ d ++ 3#7) &&& (15#4 ++ 0#7 ++ 0#7 ++ 0#7 ++ 127#7) = (15#4 ++ 0#7 ++ 0#7 ++ 0#7 ++ 3#7) := by
    rw [and_app, and_app, and_app, and_app]; simp only [BitVec.and_zero]; rfl
  have lb := b.isLt
  have la := a.isLt
  have ld := d.isLt
  generalize (15#4 ++ b ++ a ++ d ++ 3#7 : BitVec 32) = w at *
  replace hm : w &&& 0xF000007F#32 = 0xF0000003#32 := hm
  show decode (Code.word w).bytes = _
  rw [decode_word w (by omega)]
  have f0 := ext_eq w 1 6 1 (by omega)
  refine decodeWord_ok w _ 1 f0 (by decide) (by decide) ?_ hwf
  unfold decode32; rw [f0]
  show dec01 w = _
  have e0 := ext_op w 21 b (by omega)
  have e1 := ext_op w 14 a (by omega)
  have e2 := ext_op w 7 d (by omega)
  unfold dec01; rw [ext_eq w 28 4 15 (by omega)]
  show row32 w _ _ (.isubsatI32 (w.extractLsb' 21 7) (w.extractLsb' 14 7) (w.extractLsb' 7 7)) = _
  rw [e0, e1, e2]; exact if_pos hm

theorem RoundTrip.andB32 (b : BitVec 7) (a : BitVec 7) (d : BitVec 7) : RoundTrip.Statement (.andB32 b a d) := by
  intro hwf c hc
  obtain rfl := Option.some.inj hc
  have hn : (0#4 ++ b ++ a ++ d ++ 5#7 : BitVec 32).toNat = ((((0) * 2 ^ 7 + b.toNat) * 2 ^ 7 + a.toNat) * 2 ^ 7 + d.toNat) * 2 ^ 7 + 5 := by
    rw [app_nat, app_nat, app_nat, app_nat]; rfl
  have hm : (0#4 ++ b ++ a ++ d ++ 5#7) &&& (15#4 ++ 0#7 ++ 0#7 ++ 0#7 ++ 127#7) = (0#4 ++ 0#7 ++ 0#7 ++ 0#7 ++ 5#7) := by
    rw [and_app, and_app, and_app, and_app]; simp only [BitVec.and_zero]; rfl
  have lb := b.isLt
  have la := a.isLt
  have ld := d.isLt
  generalize (0#4 ++ b ++ a ++ d ++ 5#7 : BitVec 32) = w at *
  replace hm : w &&& 0xF000007F#32 = 0x00000005#32 := hm
  show decode (Code.word w).bytes = _
  rw [decode_word w (by omega)]
  have f0 := ext_eq w 1 6 2 (by omega)
  refine decodeWord_ok w _ 2 f0 (by decide) (by decide) ?_ hwf
  unfold decode32; rw [f0]
  show dec02 w = _
  have e0 := ext_op w 21 b (by omega)
  have e1 := ext_op w 14 a (by omega)
  have e2 := ext_op w 7 d (by omega)
  unfold dec02; rw [ext_eq w 28 4 0 (by omega)]
  show row32 w _ _ (.andB32 (w.extractLsb' 21 7) (w.extractLsb' 14 7) (w.extractLsb' 7 7)) = _
  rw [e0, e1, e2]; exact if_pos hm

theorem RoundTrip.orB32 (b : BitVec 7) (a : BitVec 7) (d : BitVec 7) : RoundTrip.Statement (.orB32 b a d) := by
  intro hwf c hc
  obtain rfl := Option.some.inj hc
  have hn : (1#4 ++ b ++ a ++ d ++ 5#7 : BitVec 32).toNat = ((((1) * 2 ^ 7 + b.toNat) * 2 ^ 7 + a.toNat) * 2 ^ 7 + d.toNat) * 2 ^ 7 + 5 := by
    rw [app_nat, app_nat, app_nat, app_nat]; rfl
  have hm : (1#4 ++ b ++ a ++ d ++ 5#7) &&& (15#4 ++ 0#7 ++ 0#7 ++ 0#7 ++ 127#7) = (1#4 ++ 0#7 ++ 0#7 ++ 0#7 ++ 5#7) := by
    rw [and_app, and_app, and_app, and_app]; simp only [BitVec.and_zero]; rfl
  have lb := b.isLt
  have la := a.isLt
  have ld := d.isLt
  generalize (1#4 ++ b ++ a ++ d ++ 5#7 : BitVec 32) = w at *
  replace hm : w &&& 0xF000007F#32 = 0x10000005#32 := hm
  show decode (Code.word w).bytes = _
  rw [decode_word w (by omega)]
  have f0 := ext_eq w 1 6 2 (by omega)
  refine decodeWord_ok w _ 2 f0 (by decide) (by decide) ?_ hwf
  unfold decode32; rw [f0]
  show dec02 w = _
  have e0 := ext_op w 21 b (by omega)
  have e1 := ext_op w 14 a (by omega)
  have e2 := ext_op w 7 d (by omega)
  unfold dec02; rw [ext_eq w 28 4 1 (by omega)]
  show row32 w _ _ (.orB32 (w.extractLsb' 21 7) (w.extractLsb' 14 7) (w.extractLsb' 7 7)) = _
  rw [e0, e1, e2]; exact if_pos hm

theorem RoundTrip.xorB32 (b : BitVec 7) (a : BitVec 7) (d : BitVec 7) : RoundTrip.Statement (.xorB32 b a d) := by
  intro hwf c hc
  obtain rfl := Option.some.inj hc
  have hn : (2#4 ++ b ++ a ++ d ++ 5#7 : BitVec 32).toNat = ((((2) * 2 ^ 7 + b.toNat) * 2 ^ 7 + a.toNat) * 2 ^ 7 + d.toNat) * 2 ^ 7 + 5 := by
    rw [app_nat, app_nat, app_nat, app_nat]; rfl
  have hm : (2#4 ++ b ++ a ++ d ++ 5#7) &&& (15#4 ++ 0#7 ++ 0#7 ++ 0#7 ++ 127#7) = (2#4 ++ 0#7 ++ 0#7 ++ 0#7 ++ 5#7) := by
    rw [and_app, and_app, and_app, and_app]; simp only [BitVec.and_zero]; rfl
  have lb := b.isLt
  have la := a.isLt
  have ld := d.isLt
  generalize (2#4 ++ b ++ a ++ d ++ 5#7 : BitVec 32) = w at *
  replace hm : w &&& 0xF000007F#32 = 0x20000005#32 := hm
  show decode (Code.word w).bytes = _
  rw [decode_word w (by omega)]
  have f0 := ext_eq w 1 6 2 (by omega)
  refine decodeWord_ok w _ 2 f0 (by decide) (by decide) ?_ hwf
  unfold decode32; rw [f0]
  show dec02 w = _
  have e0 := ext_op w 21 b (by omega)
  have e1 := ext_op w 14 a (by omega)
  have e2 := ext_op w 7 d (by omega)
  unfold dec02; rw [ext_eq w 28 4 2 (by omega)]
  show row32 w _ _ (.xorB32 (w.extractLsb' 21 7) (w.extractLsb' 14 7) (w.extractLsb' 7 7)) = _
  rw [e0, e1, e2]; exact if_pos hm

theorem RoundTrip.andnB32 (b : BitVec 7) (a : BitVec 7) (d : BitVec 7) : RoundTrip.Statement (.andnB32 b a d) := by
  intro hwf c hc
  obtain rfl := Option.some.inj hc
  have hn : (3#4 ++ b ++ a ++ d ++ 5#7 : BitVec 32).toNat = ((((3) * 2 ^ 7 + b.toNat) * 2 ^ 7 + a.toNat) * 2 ^ 7 + d.toNat) * 2 ^ 7 + 5 := by
    rw [app_nat, app_nat, app_nat, app_nat]; rfl
  have hm : (3#4 ++ b ++ a ++ d ++ 5#7) &&& (15#4 ++ 0#7 ++ 0#7 ++ 0#7 ++ 127#7) = (3#4 ++ 0#7 ++ 0#7 ++ 0#7 ++ 5#7) := by
    rw [and_app, and_app, and_app, and_app]; simp only [BitVec.and_zero]; rfl
  have lb := b.isLt
  have la := a.isLt
  have ld := d.isLt
  generalize (3#4 ++ b ++ a ++ d ++ 5#7 : BitVec 32) = w at *
  replace hm : w &&& 0xF000007F#32 = 0x30000005#32 := hm
  show decode (Code.word w).bytes = _
  rw [decode_word w (by omega)]
  have f0 := ext_eq w 1 6 2 (by omega)
  refine decodeWord_ok w _ 2 f0 (by decide) (by decide) ?_ hwf
  unfold decode32; rw [f0]
  show dec02 w = _
  have e0 := ext_op w 21 b (by omega)
  have e1 := ext_op w 14 a (by omega)
  have e2 := ext_op w 7 d (by omega)
  unfold dec02; rw [ext_eq w 28 4 3 (by omega)]
  show row32 w _ _ (.andnB32 (w.extractLsb' 21 7) (w.extractLsb' 14 7) (w.extractLsb' 7 7)) = _
  rw [e0, e1, e2]; exact if_pos hm

theorem RoundTrip.shlB32 (b : BitVec 7) (a : BitVec 7) (d : BitVec 7) : RoundTrip.Statement (.shlB32 b a d) := by
  intro hwf c hc
  obtain rfl := Option.some.inj hc
  have hn : (4#4 ++ b ++ a ++ d ++ 5#7 : BitVec 32).toNat = ((((4) * 2 ^ 7 + b.toNat) * 2 ^ 7 + a.toNat) * 2 ^ 7 + d.toNat) * 2 ^ 7 + 5 := by
    rw [app_nat, app_nat, app_nat, app_nat]; rfl
  have hm : (4#4 ++ b ++ a ++ d ++ 5#7) &&& (15#4 ++ 0#7 ++ 0#7 ++ 0#7 ++ 127#7) = (4#4 ++ 0#7 ++ 0#7 ++ 0#7 ++ 5#7) := by
    rw [and_app, and_app, and_app, and_app]; simp only [BitVec.and_zero]; rfl
  have lb := b.isLt
  have la := a.isLt
  have ld := d.isLt
  generalize (4#4 ++ b ++ a ++ d ++ 5#7 : BitVec 32) = w at *
  replace hm : w &&& 0xF000007F#32 = 0x40000005#32 := hm
  show decode (Code.word w).bytes = _
  rw [decode_word w (by omega)]
  have f0 := ext_eq w 1 6 2 (by omega)
  refine decodeWord_ok w _ 2 f0 (by decide) (by decide) ?_ hwf
  unfold decode32; rw [f0]
  show dec02 w = _
  have e0 := ext_op w 21 b (by omega)
  have e1 := ext_op w 14 a (by omega)
  have e2 := ext_op w 7 d (by omega)
  unfold dec02; rw [ext_eq w 28 4 4 (by omega)]
  show row32 w _ _ (.shlB32 (w.extractLsb' 21 7) (w.extractLsb' 14 7) (w.extractLsb' 7 7)) = _
  rw [e0, e1, e2]; exact if_pos hm

theorem RoundTrip.shrN32 (b : BitVec 7) (a : BitVec 7) (d : BitVec 7) : RoundTrip.Statement (.shrN32 b a d) := by
  intro hwf c hc
  obtain rfl := Option.some.inj hc
  have hn : (5#4 ++ b ++ a ++ d ++ 5#7 : BitVec 32).toNat = ((((5) * 2 ^ 7 + b.toNat) * 2 ^ 7 + a.toNat) * 2 ^ 7 + d.toNat) * 2 ^ 7 + 5 := by
    rw [app_nat, app_nat, app_nat, app_nat]; rfl
  have hm : (5#4 ++ b ++ a ++ d ++ 5#7) &&& (15#4 ++ 0#7 ++ 0#7 ++ 0#7 ++ 127#7) = (5#4 ++ 0#7 ++ 0#7 ++ 0#7 ++ 5#7) := by
    rw [and_app, and_app, and_app, and_app]; simp only [BitVec.and_zero]; rfl
  have lb := b.isLt
  have la := a.isLt
  have ld := d.isLt
  generalize (5#4 ++ b ++ a ++ d ++ 5#7 : BitVec 32) = w at *
  replace hm : w &&& 0xF000007F#32 = 0x50000005#32 := hm
  show decode (Code.word w).bytes = _
  rw [decode_word w (by omega)]
  have f0 := ext_eq w 1 6 2 (by omega)
  refine decodeWord_ok w _ 2 f0 (by decide) (by decide) ?_ hwf
  unfold decode32; rw [f0]
  show dec02 w = _
  have e0 := ext_op w 21 b (by omega)
  have e1 := ext_op w 14 a (by omega)
  have e2 := ext_op w 7 d (by omega)
  unfold dec02; rw [ext_eq w 28 4 5 (by omega)]
  show row32 w _ _ (.shrN32 (w.extractLsb' 21 7) (w.extractLsb' 14 7) (w.extractLsb' 7 7)) = _
  rw [e0, e1, e2]; exact if_pos hm

theorem RoundTrip.shrI32 (b : BitVec 7) (a : BitVec 7) (d : BitVec 7) : RoundTrip.Statement (.shrI32 b a d) := by
  intro hwf c hc
  obtain rfl := Option.some.inj hc
  have hn : (6#4 ++ b ++ a ++ d ++ 5#7 : BitVec 32).toNat = ((((6) * 2 ^ 7 + b.toNat) * 2 ^ 7 + a.toNat) * 2 ^ 7 + d.toNat) * 2 ^ 7 + 5 := by
    rw [app_nat, app_nat, app_nat, app_nat]; rfl
  have hm : (6#4 ++ b ++ a ++ d ++ 5#7) &&& (15#4 ++ 0#7 ++ 0#7 ++ 0#7 ++ 127#7) = (6#4 ++ 0#7 ++ 0#7 ++ 0#7 ++ 5#7) := by
    rw [and_app, and_app, and_app, and_app]; simp only [BitVec.and_zero]; rfl
  have lb := b.isLt
  have la := a.isLt
  have ld := d.isLt
  generalize (6#4 ++ b ++ a ++ d ++ 5#7 : BitVec 32) = w at *
  replace hm : w &&& 0xF000007F#32 = 0x60000005#32 := hm
  show decode (Code.word w).bytes = _
  rw [decode_word w (by omega)]
  have f0 := ext_eq w 1 6 2 (by omega)
  refine decodeWord_ok w _ 2 f0 (by decide) (by decide) ?_ hwf
  unfold decode32; rw [f0]
  show dec02 w = _
  have e0 := ext_op w 21 b (by omega)
  have e1 := ext_op w 14 a (by omega)
  have e2 := ext_op w 7 d (by omega)
  unfold dec02; rw [ext_eq w 28 4 6 (by omega)]
  show row32 w _ _ (.shrI32 (w.extractLsb' 21 7) (w.extractLsb' 14 7) (w.extractLsb' 7 7)) = _
  rw [e0, e1, e2]; exact if_pos hm

theorem RoundTrip.rotlB32 (b : BitVec 7) (a : BitVec 7) (d : BitVec 7) : RoundTrip.Statement (.rotlB32 b a d) := by
  intro hwf c hc
  obtain rfl := Option.some.inj hc
  have hn : (7#4 ++ b ++ a ++ d ++ 5#7 : BitVec 32).toNat = ((((7) * 2 ^ 7 + b.toNat) * 2 ^ 7 + a.toNat) * 2 ^ 7 + d.toNat) * 2 ^ 7 + 5 := by
    rw [app_nat, app_nat, app_nat, app_nat]; rfl
  have hm : (7#4 ++ b ++ a ++ d ++ 5#7) &&& (15#4 ++ 0#7 ++ 0#7 ++ 0#7 ++ 127#7) = (7#4 ++ 0#7 ++ 0#7 ++ 0#7 ++ 5#7) := by
    rw [and_app, and_app, and_app, and_app]; simp only [BitVec.and_zero]; rfl
  have lb := b.isLt
  have la := a.isLt
  have ld := d.isLt
  generalize (7#4 ++ b ++ a ++ d ++ 5#7 : BitVec 32) = w at *
  replace hm : w &&& 0xF000007F#32 = 0x70000005#32 := hm
  show decode (Code.word w).bytes = _
  rw [decode_word w (by omega)]
  have f0 := ext_eq w 1 6 2 (by omega)
  refine decodeWord_ok w _ 2 f0 (by decide) (by decide) ?_ hwf
  unfold decode32; rw [f0]
  show dec02 w = _
  have e0 := ext_op w 21 b (by omega)
  have e1 := ext_op w 14 a (by omega)
  have e2 := ext_op w 7 d (by omega)
  unfold dec02; rw [ext_eq w 28 4 7 (by omega)]
  show row32 w _ _ (.rotlB32 (w.extractLsb' 21 7) (w.extractLsb' 14 7) (w.extractLsb' 7 7)) = _
  rw [e0, e1, e2]; exact if_pos hm

theorem RoundTrip.popcB32 (a : BitVec 7) (d : BitVec 7) : RoundTrip.Statement (.popcB32 a d) := by
  intro hwf c hc
  obtain rfl := Option.some.inj hc
  have hn : (1024#11 ++ a ++ d ++ 5#7 : BitVec 32).toNat = (((1024) * 2 ^ 7 + a.toNat) * 2 ^ 7 + d.toNat) * 2 ^ 7 + 5 := by
    rw [app_nat, app_nat, app_nat]; rfl
  have hm : (1024#11 ++ a ++ d ++ 5#7) &&& (2047#11 ++ 0#7 ++ 0#7 ++ 127#7) = (1024#11 ++ 0#7 ++ 0#7 ++ 5#7) := by
    rw [and_app, and_app, and_app]; simp only [BitVec.and_zero]; rfl
  have la := a.isLt
  have ld := d.isLt
  generalize (1024#11 ++ a ++ d ++ 5#7 : BitVec 32) = w at *
  replace hm : w &&& 0xFFE0007F#32 = 0x80000005#32 := hm
  show decode (Code.word w).bytes = _
  rw [decode_word w (by omega)]
  have f0 := ext_eq w 1 6 2 (by omega)
  refine decodeWord_ok w _ 2 f0 (by decide) (by decide) ?_ hwf
  unfold decode32; rw [f0]
  show dec02 w = _
  have e0 := ext_op w 14 a (by omega)
  have e1 := ext_op w 7 d (by omega)
  unfold dec02; rw [ext_eq w 28 4 8 (by omega)]
  show row32 w _ _ (.popcB32 (w.extractLsb' 14 7) (w.extractLsb' 7 7)) = _
  rw [e0, e1]; exact if_pos hm

theorem RoundTrip.clzB32 (a : BitVec 7) (d : BitVec 7) : RoundTrip.Statement (.clzB32 a d) := by
  intro hwf c hc
  obtain rfl := Option.some.inj hc
  have hn : (1152#11 ++ a ++ d ++ 5#7 : BitVec 32).toNat = (((1152) * 2 ^ 7 + a.toNat) * 2 ^ 7 + d.toNat) * 2 ^ 7 + 5 := by
    rw [app_nat, app_nat, app_nat]; rfl
  have hm : (1152#11 ++ a ++ d ++ 5#7) &&& (2047#11 ++ 0#7 ++ 0#7 ++ 127#7) = (1152#11 ++ 0#7 ++ 0#7 ++ 5#7) := by
    rw [and_app, and_app, and_app]; simp only [BitVec.and_zero]; rfl
  have la := a.isLt
  have ld := d.isLt
  generalize (1152#11 ++ a ++ d ++ 5#7 : BitVec 32) = w at *
  replace hm : w &&& 0xFFE0007F#32 = 0x90000005#32 := hm
  show decode (Code.word w).bytes = _
  rw [decode_word w (by omega)]
  have f0 := ext_eq w 1 6 2 (by omega)
  refine decodeWord_ok w _ 2 f0 (by decide) (by decide) ?_ hwf
  unfold decode32; rw [f0]
  show dec02 w = _
  have e0 := ext_op w 14 a (by omega)
  have e1 := ext_op w 7 d (by omega)
  unfold dec02; rw [ext_eq w 28 4 9 (by omega)]
  show row32 w _ _ (.clzB32 (w.extractLsb' 14 7) (w.extractLsb' 7 7)) = _
  rw [e0, e1]; exact if_pos hm

theorem RoundTrip.brevB32 (a : BitVec 7) (d : BitVec 7) : RoundTrip.Statement (.brevB32 a d) := by
  intro hwf c hc
  obtain rfl := Option.some.inj hc
  have hn : (1280#11 ++ a ++ d ++ 5#7 : BitVec 32).toNat = (((1280) * 2 ^ 7 + a.toNat) * 2 ^ 7 + d.toNat) * 2 ^ 7 + 5 := by
    rw [app_nat, app_nat, app_nat]; rfl
  have hm : (1280#11 ++ a ++ d ++ 5#7) &&& (2047#11 ++ 0#7 ++ 0#7 ++ 127#7) = (1280#11 ++ 0#7 ++ 0#7 ++ 5#7) := by
    rw [and_app, and_app, and_app]; simp only [BitVec.and_zero]; rfl
  have la := a.isLt
  have ld := d.isLt
  generalize (1280#11 ++ a ++ d ++ 5#7 : BitVec 32) = w at *
  replace hm : w &&& 0xFFE0007F#32 = 0xA0000005#32 := hm
  show decode (Code.word w).bytes = _
  rw [decode_word w (by omega)]
  have f0 := ext_eq w 1 6 2 (by omega)
  refine decodeWord_ok w _ 2 f0 (by decide) (by decide) ?_ hwf
  unfold decode32; rw [f0]
  show dec02 w = _
  have e0 := ext_op w 14 a (by omega)
  have e1 := ext_op w 7 d (by omega)
  unfold dec02; rw [ext_eq w 28 4 10 (by omega)]
  show row32 w _ _ (.brevB32 (w.extractLsb' 14 7) (w.extractLsb' 7 7)) = _
  rw [e0, e1]; exact if_pos hm

theorem RoundTrip.notB32 (a : BitVec 7) (d : BitVec 7) : RoundTrip.Statement (.notB32 a d) := by
  intro hwf c hc
  obtain rfl := Option.some.inj hc
  have hn : (1408#11 ++ a ++ d ++ 5#7 : BitVec 32).toNat = (((1408) * 2 ^ 7 + a.toNat) * 2 ^ 7 + d.toNat) * 2 ^ 7 + 5 := by
    rw [app_nat, app_nat, app_nat]; rfl
  have hm : (1408#11 ++ a ++ d ++ 5#7) &&& (2047#11 ++ 0#7 ++ 0#7 ++ 127#7) = (1408#11 ++ 0#7 ++ 0#7 ++ 5#7) := by
    rw [and_app, and_app, and_app]; simp only [BitVec.and_zero]; rfl
  have la := a.isLt
  have ld := d.isLt
  generalize (1408#11 ++ a ++ d ++ 5#7 : BitVec 32) = w at *
  replace hm : w &&& 0xFFE0007F#32 = 0xB0000005#32 := hm
  show decode (Code.word w).bytes = _
  rw [decode_word w (by omega)]
  have f0 := ext_eq w 1 6 2 (by omega)
  refine decodeWord_ok w _ 2 f0 (by decide) (by decide) ?_ hwf
  unfold decode32; rw [f0]
  show dec02 w = _
  have e0 := ext_op w 14 a (by omega)
  have e1 := ext_op w 7 d (by omega)
  unfold dec02; rw [ext_eq w 28 4 11 (by omega)]
  show row32 w _ _ (.notB32 (w.extractLsb' 14 7) (w.extractLsb' 7 7)) = _
  rw [e0, e1]; exact if_pos hm

theorem RoundTrip.iaddiN32 (i : BitVec 11) (a : BitVec 7) (d : BitVec 7) : RoundTrip.Statement (.iaddiN32 i a d) := by
  intro hwf c hc
  obtain rfl := Option.some.inj hc
  have hn : (i ++ a ++ d ++ 7#7 : BitVec 32).toNat = (((i.toNat) * 2 ^ 7 + a.toNat) * 2 ^ 7 + d.toNat) * 2 ^ 7 + 7 := by
    rw [app_nat, app_nat, app_nat]; rfl
  have hm : (i ++ a ++ d ++ 7#7) &&& (0#11 ++ 0#7 ++ 0#7 ++ 127#7) = (0#11 ++ 0#7 ++ 0#7 ++ 7#7) := by
    rw [and_app, and_app, and_app]; simp only [BitVec.and_zero]; rfl
  have li := i.isLt
  have la := a.isLt
  have ld := d.isLt
  generalize (i ++ a ++ d ++ 7#7 : BitVec 32) = w at *
  replace hm : w &&& 0x0000007F#32 = 0x00000007#32 := hm
  show decode (Code.word w).bytes = _
  rw [decode_word w (by omega)]
  have f0 := ext_eq w 1 6 3 (by omega)
  refine decodeWord_ok w _ 3 f0 (by decide) (by decide) ?_ hwf
  unfold decode32; rw [f0]
  show dec03 w = _
  have e0 := ext_op w 21 i (by omega)
  have e1 := ext_op w 14 a (by omega)
  have e2 := ext_op w 7 d (by omega)
  show row32 w _ _ (.iaddiN32 (w.extractLsb' 21 11) (w.extractLsb' 14 7) (w.extractLsb' 7 7)) = _
  rw [e0, e1, e2]; exact if_pos hm

theorem RoundTrip.andiB32 (i : BitVec 11) (a : BitVec 7) (d : BitVec 7) : RoundTrip.Statement (.andiB32 i a d) := by
  intro hwf c hc
  obtain rfl := Option.some.inj hc
  have hn : (i ++ a ++ d ++ 9#7 : BitVec 32).toNat = (((i.toNat) * 2 ^ 7 + a.toNat) * 2 ^ 7 + d.toNat) * 2 ^ 7 + 9 := by
    rw [app_nat, app_nat, app_nat]; rfl
  have hm : (i ++ a ++ d ++ 9#7) &&& (0#11 ++ 0#7 ++ 0#7 ++ 127#7) = (0#11 ++ 0#7 ++ 0#7 ++ 9#7) := by
    rw [and_app, and_app, and_app]; simp only [BitVec.and_zero]; rfl
  have li := i.isLt
  have la := a.isLt
  have ld := d.isLt
  generalize (i ++ a ++ d ++ 9#7 : BitVec 32) = w at *
  replace hm : w &&& 0x0000007F#32 = 0x00000009#32 := hm
  show decode (Code.word w).bytes = _
  rw [decode_word w (by omega)]
  have f0 := ext_eq w 1 6 4 (by omega)
  refine decodeWord_ok w _ 4 f0 (by decide) (by decide) ?_ hwf
  unfold decode32; rw [f0]
  show dec04 w = _
  have e0 := ext_op w 21 i (by omega)
  have e1 := ext_op w 14 a (by omega)
  have e2 := ext_op w 7 d (by omega)
  show row32 w _ _ (.andiB32 (w.extractLsb' 21 11) (w.extractLsb' 14 7) (w.extractLsb' 7 7)) = _
  rw [e0, e1, e2]; exact if_pos hm

theorem RoundTrip.oriB32 (i : BitVec 11) (a : BitVec 7) (d : BitVec 7) : RoundTrip.Statement (.oriB32 i a d) := by
  intro hwf c hc
  obtain rfl := Option.some.inj hc
  have hn : (i ++ a ++ d ++ 11#7 : BitVec 32).toNat = (((i.toNat) * 2 ^ 7 + a.toNat) * 2 ^ 7 + d.toNat) * 2 ^ 7 + 11 := by
    rw [app_nat, app_nat, app_nat]; rfl
  have hm : (i ++ a ++ d ++ 11#7) &&& (0#11 ++ 0#7 ++ 0#7 ++ 127#7) = (0#11 ++ 0#7 ++ 0#7 ++ 11#7) := by
    rw [and_app, and_app, and_app]; simp only [BitVec.and_zero]; rfl
  have li := i.isLt
  have la := a.isLt
  have ld := d.isLt
  generalize (i ++ a ++ d ++ 11#7 : BitVec 32) = w at *
  replace hm : w &&& 0x0000007F#32 = 0x0000000B#32 := hm
  show decode (Code.word w).bytes = _
  rw [decode_word w (by omega)]
  have f0 := ext_eq w 1 6 5 (by omega)
  refine decodeWord_ok w _ 5 f0 (by decide) (by decide) ?_ hwf
  unfold decode32; rw [f0]
  show dec05 w = _
  have e0 := ext_op w 21 i (by omega)
  have e1 := ext_op w 14 a (by omega)
  have e2 := ext_op w 7 d (by omega)
  show row32 w _ _ (.oriB32 (w.extractLsb' 21 11) (w.extractLsb' 14 7) (w.extractLsb' 7 7)) = _
  rw [e0, e1, e2]; exact if_pos hm

theorem RoundTrip.xoriB32 (i : BitVec 11) (a : BitVec 7) (d : BitVec 7) : RoundTrip.Statement (.xoriB32 i a d) := by
  intro hwf c hc
  obtain rfl := Option.some.inj hc
  have hn : (i ++ a ++ d ++ 13#7 : BitVec 32).toNat = (((i.toNat) * 2 ^ 7 + a.toNat) * 2 ^ 7 + d.toNat) * 2 ^ 7 + 13 := by
    rw [app_nat, app_nat, app_nat]; rfl
  have hm : (i ++ a ++ d ++ 13#7) &&& (0#11 ++ 0#7 ++ 0#7 ++ 127#7) = (0#11 ++ 0#7 ++ 0#7 ++ 13#7) := by
    rw [and_app, and_app, and_app]; simp only [BitVec.and_zero]; rfl
  have li := i.isLt
  have la := a.isLt
  have ld := d.isLt
  generalize (i ++ a ++ d ++ 13#7 : BitVec 32) = w at *
  replace hm : w &&& 0x0000007F#32 = 0x0000000D#32 := hm
  show decode (Code.word w).bytes = _
  rw [decode_word w (by omega)]
  have f0 := ext_eq w 1 6 6 (by omega)
  refine decodeWord_ok w _ 6 f0 (by decide) (by decide) ?_ hwf
  unfold decode32; rw [f0]
  show dec06 w = _
  have e0 := ext_op w 21 i (by omega)
  have e1 := ext_op w 14 a (by omega)
  have e2 := ext_op w 7 d (by omega)
  show row32 w _ _ (.xoriB32 (w.extractLsb' 21 11) (w.extractLsb' 14 7) (w.extractLsb' 7 7)) = _
  rw [e0, e1, e2]; exact if_pos hm

theorem RoundTrip.shliB32 (n : BitVec 5) (a : BitVec 7) (d : BitVec 7) : RoundTrip.Statement (.shliB32 n a d) := by
  intro hwf c hc
  obtain rfl := Option.some.inj hc
  have hn : (0#6 ++ n ++ a ++ d ++ 15#7 : BitVec 32).toNat = ((((0) * 2 ^ 5 + n.toNat) * 2 ^ 7 + a.toNat) * 2 ^ 7 + d.toNat) * 2 ^ 7 + 15 := by
    rw [app_nat, app_nat, app_nat, app_nat]; rfl
  have hm : (0#6 ++ n ++ a ++ d ++ 15#7) &&& (63#6 ++ 0#5 ++ 0#7 ++ 0#7 ++ 127#7) = (0#6 ++ 0#5 ++ 0#7 ++ 0#7 ++ 15#7) := by
    rw [and_app, and_app, and_app, and_app]; simp only [BitVec.and_zero]; rfl
  have ln := n.isLt
  have la := a.isLt
  have ld := d.isLt
  generalize (0#6 ++ n ++ a ++ d ++ 15#7 : BitVec 32) = w at *
  replace hm : w &&& 0xFC00007F#32 = 0x0000000F#32 := hm
  show decode (Code.word w).bytes = _
  rw [decode_word w (by omega)]
  have f0 := ext_eq w 1 6 7 (by omega)
  refine decodeWord_ok w _ 7 f0 (by decide) (by decide) ?_ hwf
  unfold decode32; rw [f0]
  show dec07 w = _
  have e0 := ext_op w 21 n (by omega)
  have e1 := ext_op w 14 a (by omega)
  have e2 := ext_op w 7 d (by omega)
  unfold dec07; rw [ext_eq w 26 2 0 (by omega)]
  show row32 w _ _ (.shliB32 (w.extractLsb' 21 5) (w.extractLsb' 14 7) (w.extractLsb' 7 7)) = _
  rw [e0, e1, e2]; exact if_pos hm

theorem RoundTrip.shriN32 (n : BitVec 5) (a : BitVec 7) (d : BitVec 7) : RoundTrip.Statement (.shriN32 n a d) := by
  intro hwf c hc
  obtain rfl := Option.some.inj hc
  have hn : (1#6 ++ n ++ a ++ d ++ 15#7 : BitVec 32).toNat = ((((1) * 2 ^ 5 + n.toNat) * 2 ^ 7 + a.toNat) * 2 ^ 7 + d.toNat) * 2 ^ 7 + 15 := by
    rw [app_nat, app_nat, app_nat, app_nat]; rfl
  have hm : (1#6 ++ n ++ a ++ d ++ 15#7) &&& (63#6 ++ 0#5 ++ 0#7 ++ 0#7 ++ 127#7) = (1#6 ++ 0#5 ++ 0#7 ++ 0#7 ++ 15#7) := by
    rw [and_app, and_app, and_app, and_app]; simp only [BitVec.and_zero]; rfl
  have ln := n.isLt
  have la := a.isLt
  have ld := d.isLt
  generalize (1#6 ++ n ++ a ++ d ++ 15#7 : BitVec 32) = w at *
  replace hm : w &&& 0xFC00007F#32 = 0x0400000F#32 := hm
  show decode (Code.word w).bytes = _
  rw [decode_word w (by omega)]
  have f0 := ext_eq w 1 6 7 (by omega)
  refine decodeWord_ok w _ 7 f0 (by decide) (by decide) ?_ hwf
  unfold decode32; rw [f0]
  show dec07 w = _
  have e0 := ext_op w 21 n (by omega)
  have e1 := ext_op w 14 a (by omega)
  have e2 := ext_op w 7 d (by omega)
  unfold dec07; rw [ext_eq w 26 2 1 (by omega)]
  show row32 w _ _ (.shriN32 (w.extractLsb' 21 5) (w.extractLsb' 14 7) (w.extractLsb' 7 7)) = _
  rw [e0, e1, e2]; exact if_pos hm

theorem RoundTrip.shriI32 (n : BitVec 5) (a : BitVec 7) (d : BitVec 7) : RoundTrip.Statement (.shriI32 n a d) := by
  intro hwf c hc
  obtain rfl := Option.some.inj hc
  have hn : (2#6 ++ n ++ a ++ d ++ 15#7 : BitVec 32).toNat = ((((2) * 2 ^ 5 + n.toNat) * 2 ^ 7 + a.toNat) * 2 ^ 7 + d.toNat) * 2 ^ 7 + 15 := by
    rw [app_nat, app_nat, app_nat, app_nat]; rfl
  have hm : (2#6 ++ n ++ a ++ d ++ 15#7) &&& (63#6 ++ 0#5 ++ 0#7 ++ 0#7 ++ 127#7) = (2#6 ++ 0#5 ++ 0#7 ++ 0#7 ++ 15#7) := by
    rw [and_app, and_app, and_app, and_app]; simp only [BitVec.and_zero]; rfl
  have ln := n.isLt
  have la := a.isLt
  have ld := d.isLt
  generalize (2#6 ++ n ++ a ++ d ++ 15#7 : BitVec 32) = w at *
  replace hm : w &&& 0xFC00007F#32 = 0x0800000F#32 := hm
  show decode (Code.word w).bytes = _
  rw [decode_word w (by omega)]
  have f0 := ext_eq w 1 6 7 (by omega)
  refine decodeWord_ok w _ 7 f0 (by decide) (by decide) ?_ hwf
  unfold decode32; rw [f0]
  show dec07 w = _
  have e0 := ext_op w 21 n (by omega)
  have e1 := ext_op w 14 a (by omega)
  have e2 := ext_op w 7 d (by omega)
  unfold dec07; rw [ext_eq w 26 2 2 (by omega)]
  show row32 w _ _ (.shriI32 (w.extractLsb' 21 5) (w.extractLsb' 14 7) (w.extractLsb' 7 7)) = _
  rw [e0, e1, e2]; exact if_pos hm

theorem RoundTrip.rotiB32 (n : BitVec 5) (a : BitVec 7) (d : BitVec 7) : RoundTrip.Statement (.rotiB32 n a d) := by
  intro hwf c hc
  obtain rfl := Option.some.inj hc
  have hn : (3#6 ++ n ++ a ++ d ++ 15#7 : BitVec 32).toNat = ((((3) * 2 ^ 5 + n.toNat) * 2 ^ 7 + a.toNat) * 2 ^ 7 + d.toNat) * 2 ^ 7 + 15 := by
    rw [app_nat, app_nat, app_nat, app_nat]; rfl
  have hm : (3#6 ++ n ++ a ++ d ++ 15#7) &&& (63#6 ++ 0#5 ++ 0#7 ++ 0#7 ++ 127#7) = (3#6 ++ 0#5 ++ 0#7 ++ 0#7 ++ 15#7) := by
    rw [and_app, and_app, and_app, and_app]; simp only [BitVec.and_zero]; rfl
  have ln := n.isLt
  have la := a.isLt
  have ld := d.isLt
  generalize (3#6 ++ n ++ a ++ d ++ 15#7 : BitVec 32) = w at *
  replace hm : w &&& 0xFC00007F#32 = 0x0C00000F#32 := hm
  show decode (Code.word w).bytes = _
  rw [decode_word w (by omega)]
  have f0 := ext_eq w 1 6 7 (by omega)
  refine decodeWord_ok w _ 7 f0 (by decide) (by decide) ?_ hwf
  unfold decode32; rw [f0]
  show dec07 w = _
  have e0 := ext_op w 21 n (by omega)
  have e1 := ext_op w 14 a (by omega)
  have e2 := ext_op w 7 d (by omega)
  unfold dec07; rw [ext_eq w 26 2 3 (by omega)]
  show row32 w _ _ (.rotiB32 (w.extractLsb' 21 5) (w.extractLsb' 14 7) (w.extractLsb' 7 7)) = _
  rw [e0, e1, e2]; exact if_pos hm

theorem RoundTrip.faddF32 (r : BitVec 2) (b : BitVec 7) (a : BitVec 7) (d : BitVec 7) : RoundTrip.Statement (.faddF32 r b a d) := by
  intro hwf c hc
  obtain rfl := Option.some.inj hc
  have hn : (0#2 ++ r ++ b ++ a ++ d ++ 17#7 : BitVec 32).toNat = (((((0) * 2 ^ 2 + r.toNat) * 2 ^ 7 + b.toNat) * 2 ^ 7 + a.toNat) * 2 ^ 7 + d.toNat) * 2 ^ 7 + 17 := by
    rw [app_nat, app_nat, app_nat, app_nat, app_nat]; rfl
  have hm : (0#2 ++ r ++ b ++ a ++ d ++ 17#7) &&& (3#2 ++ 0#2 ++ 0#7 ++ 0#7 ++ 0#7 ++ 127#7) = (0#2 ++ 0#2 ++ 0#7 ++ 0#7 ++ 0#7 ++ 17#7) := by
    rw [and_app, and_app, and_app, and_app, and_app]; simp only [BitVec.and_zero]; rfl
  have lr := r.isLt
  have lb := b.isLt
  have la := a.isLt
  have ld := d.isLt
  generalize (0#2 ++ r ++ b ++ a ++ d ++ 17#7 : BitVec 32) = w at *
  replace hm : w &&& 0xC000007F#32 = 0x00000011#32 := hm
  show decode (Code.word w).bytes = _
  rw [decode_word w (by omega)]
  have f0 := ext_eq w 1 6 8 (by omega)
  refine decodeWord_ok w _ 8 f0 (by decide) (by decide) ?_ hwf
  unfold decode32; rw [f0]
  show dec08 w = _
  have e0 := ext_op w 28 r (by omega)
  have e1 := ext_op w 21 b (by omega)
  have e2 := ext_op w 14 a (by omega)
  have e3 := ext_op w 7 d (by omega)
  have hk : w.toNat / 2 ^ 28 % 2 ^ 4 = 0 ∨ w.toNat / 2 ^ 28 % 2 ^ 4 = 1 ∨ w.toNat / 2 ^ 28 % 2 ^ 4 = 2 ∨ w.toNat / 2 ^ 28 % 2 ^ 4 = 3 := by omega
  unfold dec08; rcases hk with hk | hk | hk | hk <;>
    (rw [ext_eq w 28 4 _ hk]; show row32 w _ _ (.faddF32 (w.extractLsb' 28 2) (w.extractLsb' 21 7) (w.extractLsb' 14 7) (w.extractLsb' 7 7)) = _; rw [e0, e1, e2, e3]; exact if_pos hm)

theorem RoundTrip.fsubF32 (r : BitVec 2) (b : BitVec 7) (a : BitVec 7) (d : BitVec 7) : RoundTrip.Statement (.fsubF32 r b a d) := by
  intro hwf c hc
  obtain rfl := Option.some.inj hc
  have hn : (1#2 ++ r ++ b ++ a ++ d ++ 17#7 : BitVec 32).toNat = (((((1) * 2 ^ 2 + r.toNat) * 2 ^ 7 + b.toNat) * 2 ^ 7 + a.toNat) * 2 ^ 7 + d.toNat) * 2 ^ 7 + 17 := by
    rw [app_nat, app_nat, app_nat, app_nat, app_nat]; rfl
  have hm : (1#2 ++ r ++ b ++ a ++ d ++ 17#7) &&& (3#2 ++ 0#2 ++ 0#7 ++ 0#7 ++ 0#7 ++ 127#7) = (1#2 ++ 0#2 ++ 0#7 ++ 0#7 ++ 0#7 ++ 17#7) := by
    rw [and_app, and_app, and_app, and_app, and_app]; simp only [BitVec.and_zero]; rfl
  have lr := r.isLt
  have lb := b.isLt
  have la := a.isLt
  have ld := d.isLt
  generalize (1#2 ++ r ++ b ++ a ++ d ++ 17#7 : BitVec 32) = w at *
  replace hm : w &&& 0xC000007F#32 = 0x40000011#32 := hm
  show decode (Code.word w).bytes = _
  rw [decode_word w (by omega)]
  have f0 := ext_eq w 1 6 8 (by omega)
  refine decodeWord_ok w _ 8 f0 (by decide) (by decide) ?_ hwf
  unfold decode32; rw [f0]
  show dec08 w = _
  have e0 := ext_op w 28 r (by omega)
  have e1 := ext_op w 21 b (by omega)
  have e2 := ext_op w 14 a (by omega)
  have e3 := ext_op w 7 d (by omega)
  have hk : w.toNat / 2 ^ 28 % 2 ^ 4 = 4 ∨ w.toNat / 2 ^ 28 % 2 ^ 4 = 5 ∨ w.toNat / 2 ^ 28 % 2 ^ 4 = 6 ∨ w.toNat / 2 ^ 28 % 2 ^ 4 = 7 := by omega
  unfold dec08; rcases hk with hk | hk | hk | hk <;>
    (rw [ext_eq w 28 4 _ hk]; show row32 w _ _ (.fsubF32 (w.extractLsb' 28 2) (w.extractLsb' 21 7) (w.extractLsb' 14 7) (w.extractLsb' 7 7)) = _; rw [e0, e1, e2, e3]; exact if_pos hm)

theorem RoundTrip.fmulF32 (r : BitVec 2) (b : BitVec 7) (a : BitVec 7) (d : BitVec 7) : RoundTrip.Statement (.fmulF32 r b a d) := by
  intro hwf c hc
  obtain rfl := Option.some.inj hc
  have hn : (2#2 ++ r ++ b ++ a ++ d ++ 17#7 : BitVec 32).toNat = (((((2) * 2 ^ 2 + r.toNat) * 2 ^ 7 + b.toNat) * 2 ^ 7 + a.toNat) * 2 ^ 7 + d.toNat) * 2 ^ 7 + 17 := by
    rw [app_nat, app_nat, app_nat, app_nat, app_nat]; rfl
  have hm : (2#2 ++ r ++ b ++ a ++ d ++ 17#7) &&& (3#2 ++ 0#2 ++ 0#7 ++ 0#7 ++ 0#7 ++ 127#7) = (2#2 ++ 0#2 ++ 0#7 ++ 0#7 ++ 0#7 ++ 17#7) := by
    rw [and_app, and_app, and_app, and_app, and_app]; simp only [BitVec.and_zero]; rfl
  have lr := r.isLt
  have lb := b.isLt
  have la := a.isLt
  have ld := d.isLt
  generalize (2#2 ++ r ++ b ++ a ++ d ++ 17#7 : BitVec 32) = w at *
  replace hm : w &&& 0xC000007F#32 = 0x80000011#32 := hm
  show decode (Code.word w).bytes = _
  rw [decode_word w (by omega)]
  have f0 := ext_eq w 1 6 8 (by omega)
  refine decodeWord_ok w _ 8 f0 (by decide) (by decide) ?_ hwf
  unfold decode32; rw [f0]
  show dec08 w = _
  have e0 := ext_op w 28 r (by omega)
  have e1 := ext_op w 21 b (by omega)
  have e2 := ext_op w 14 a (by omega)
  have e3 := ext_op w 7 d (by omega)
  have hk : w.toNat / 2 ^ 28 % 2 ^ 4 = 8 ∨ w.toNat / 2 ^ 28 % 2 ^ 4 = 9 ∨ w.toNat / 2 ^ 28 % 2 ^ 4 = 10 ∨ w.toNat / 2 ^ 28 % 2 ^ 4 = 11 := by omega
  unfold dec08; rcases hk with hk | hk | hk | hk <;>
    (rw [ext_eq w 28 4 _ hk]; show row32 w _ _ (.fmulF32 (w.extractLsb' 28 2) (w.extractLsb' 21 7) (w.extractLsb' 14 7) (w.extractLsb' 7 7)) = _; rw [e0, e1, e2, e3]; exact if_pos hm)

theorem RoundTrip.fdivF32 (r : BitVec 2) (b : BitVec 7) (a : BitVec 7) (d : BitVec 7) : RoundTrip.Statement (.fdivF32 r b a d) := by
  intro hwf c hc
  obtain rfl := Option.some.inj hc
  have hn : (3#2 ++ r ++ b ++ a ++ d ++ 17#7 : BitVec 32).toNat = (((((3) * 2 ^ 2 + r.toNat) * 2 ^ 7 + b.toNat) * 2 ^ 7 + a.toNat) * 2 ^ 7 + d.toNat) * 2 ^ 7 + 17 := by
    rw [app_nat, app_nat, app_nat, app_nat, app_nat]; rfl
  have hm : (3#2 ++ r ++ b ++ a ++ d ++ 17#7) &&& (3#2 ++ 0#2 ++ 0#7 ++ 0#7 ++ 0#7 ++ 127#7) = (3#2 ++ 0#2 ++ 0#7 ++ 0#7 ++ 0#7 ++ 17#7) := by
    rw [and_app, and_app, and_app, and_app, and_app]; simp only [BitVec.and_zero]; rfl
  have lr := r.isLt
  have lb := b.isLt
  have la := a.isLt
  have ld := d.isLt
  generalize (3#2 ++ r ++ b ++ a ++ d ++ 17#7 : BitVec 32) = w at *
  replace hm : w &&& 0xC000007F#32 = 0xC0000011#32 := hm
  show decode (Code.word w).bytes = _
  rw [decode_word w (by omega)]
  have f0 := ext_eq w 1 6 8 (by omega)
  refine decodeWord_ok w _ 8 f0 (by decide) (by decide) ?_ hwf
  unfold decode32; rw [f0]
  show dec08 w = _
  have e0 := ext_op w 28 r (by omega)
  have e1 := ext_op w 21 b (by omega)
  have e2 := ext_op w 14 a (by omega)
  have e3 := ext_op w 7 d (by omega)
  have hk : w.toNat / 2 ^ 28 % 2 ^ 4 = 12 ∨ w.toNat / 2 ^ 28 % 2 ^ 4 = 13 ∨ w.toNat / 2 ^ 28 % 2 ^ 4 = 14 ∨ w.toNat / 2 ^ 28 % 2 ^ 4 = 15 := by omega
  unfold dec08; rcases hk with hk | hk | hk | hk <;>
    (rw [ext_eq w 28 4 _ hk]; show row32 w _ _ (.fdivF32 (w.extractLsb' 28 2) (w.extractLsb' 21 7) (w.extractLsb' 14 7) (w.extractLsb' 7 7)) = _; rw [e0, e1, e2, e3]; exact if_pos hm)

theorem RoundTrip.fminF32 (b : BitVec 7) (a : BitVec 7) (d : BitVec 7) : RoundTrip.Statement (.fminF32 b a d) := by
  intro hwf c hc
  obtain rfl := Option.some.inj hc
  have hn : (0#4 ++ b ++ a ++ d ++ 19#7 : BitVec 32).toNat = ((((0) * 2 ^ 7 + b.toNat) * 2 ^ 7 + a.toNat) * 2 ^ 7 + d.toNat) * 2 ^ 7 + 19 := by
    rw [app_nat, app_nat, app_nat, app_nat]; rfl
  have hm : (0#4 ++ b ++ a ++ d ++ 19#7) &&& (15#4 ++ 0#7 ++ 0#7 ++ 0#7 ++ 127#7) = (0#4 ++ 0#7 ++ 0#7 ++ 0#7 ++ 19#7) := by
    rw [and_app, and_app, and_app, and_app]; simp only [BitVec.and_zero]; rfl
  have lb := b.isLt
  have la := a.isLt
  have ld := d.isLt
  generalize (0#4 ++ b ++ a ++ d ++ 19#7 : BitVec 32) = w at *
  replace hm : w &&& 0xF000007F#32 = 0x00000013#32 := hm
  show decode (Code.word w).bytes = _
  rw [decode_word w (by omega)]
  have f0 := ext_eq w 1 6 9 (by omega)
  refine decodeWord_ok w _ 9 f0 (by decide) (by decide) ?_ hwf
  unfold decode32; rw [f0]
  show dec09 w = _
  have e0 := ext_op w 21 b (by omega)
  have e1 := ext_op w 14 a (by omega)
  have e2 := ext_op w 7 d (by omega)
  unfold dec09; rw [ext_eq w 28 4 0 (by omega)]
  show row32 w _ _ (.fminF32 (w.extractLsb' 21 7) (w.extractLsb' 14 7) (w.extractLsb' 7 7)) = _
  rw [e0, e1, e2]; exact if_pos hm

theorem RoundTrip.fmaxF32 (b : BitVec 7) (a : BitVec 7) (d : BitVec 7) : RoundTrip.Statement (.fmaxF32 b a d) := by
  intro hwf c hc
  obtain rfl := Option.some.inj hc
  have hn : (1#4 ++ b ++ a ++ d ++ 19#7 : BitVec 32).toNat = ((((1) * 2 ^ 7 + b.toNat) * 2 ^ 7 + a.toNat) * 2 ^ 7 + d.toNat) * 2 ^ 7 + 19 := by
    rw [app_nat, app_nat, app_nat, app_nat]; rfl
  have hm : (1#4 ++ b ++ a ++ d ++ 19#7) &&& (15#4 ++ 0#7 ++ 0#7 ++ 0#7 ++ 127#7) = (1#4 ++ 0#7 ++ 0#7 ++ 0#7 ++ 19#7) := by
    rw [and_app, and_app, and_app, and_app]; simp only [BitVec.and_zero]; rfl
  have lb := b.isLt
  have la := a.isLt
  have ld := d.isLt
  generalize (1#4 ++ b ++ a ++ d ++ 19#7 : BitVec 32) = w at *
  replace hm : w &&& 0xF000007F#32 = 0x10000013#32 := hm
  show decode (Code.word w).bytes = _
  rw [decode_word w (by omega)]
  have f0 := ext_eq w 1 6 9 (by omega)
  refine decodeWord_ok w _ 9 f0 (by decide) (by decide) ?_ hwf
  unfold decode32; rw [f0]
  show dec09 w = _
  have e0 := ext_op w 21 b (by omega)
  have e1 := ext_op w 14 a (by omega)
  have e2 := ext_op w 7 d (by omega)
  unfold dec09; rw [ext_eq w 28 4 1 (by omega)]
  show row32 w _ _ (.fmaxF32 (w.extractLsb' 21 7) (w.extractLsb' 14 7) (w.extractLsb' 7 7)) = _
  rw [e0, e1, e2]; exact if_pos hm

theorem RoundTrip.fsqrtF32 (r : BitVec 2) (a : BitVec 7) (d : BitVec 7) : RoundTrip.Statement (.fsqrtF32 r a d) := by
  intro hwf c hc
  obtain rfl := Option.some.inj hc
  have hn : (1#2 ++ r ++ 0#7 ++ a ++ d ++ 19#7 : BitVec 32).toNat = (((((1) * 2 ^ 2 + r.toNat) * 2 ^ 7 + 0) * 2 ^ 7 + a.toNat) * 2 ^ 7 + d.toNat) * 2 ^ 7 + 19 := by
    rw [app_nat, app_nat, app_nat, app_nat, app_nat]; rfl
  have hm : (1#2 ++ r ++ 0#7 ++ a ++ d ++ 19#7) &&& (3#2 ++ 0#2 ++ 127#7 ++ 0#7 ++ 0#7 ++ 127#7) = (1#2 ++ 0#2 ++ 0#7 ++ 0#7 ++ 0#7 ++ 19#7) := by
    rw [and_app, and_app, and_app, and_app, and_app]; simp only [BitVec.and_zero]; rfl
  have lr := r.isLt
  have la := a.isLt
  have ld := d.isLt
  generalize (1#2 ++ r ++ 0#7 ++ a ++ d ++ 19#7 : BitVec 32) = w at *
  replace hm : w &&& 0xCFE0007F#32 = 0x40000013#32 := hm
  show decode (Code.word w).bytes = _
  rw [decode_word w (by omega)]
  have f0 := ext_eq w 1 6 9 (by omega)
  refine decodeWord_ok w _ 9 f0 (by decide) (by decide) ?_ hwf
  unfold decode32; rw [f0]
  show dec09 w = _
  have e0 := ext_op w 28 r (by omega)
  have e1 := ext_op w 14 a (by omega)
  have e2 := ext_op w 7 d (by omega)
  have hk : w.toNat / 2 ^ 28 % 2 ^ 4 = 4 ∨ w.toNat / 2 ^ 28 % 2 ^ 4 = 5 ∨ w.toNat / 2 ^ 28 % 2 ^ 4 = 6 ∨ w.toNat / 2 ^ 28 % 2 ^ 4 = 7 := by omega
  unfold dec09; rcases hk with hk | hk | hk | hk <;>
    (rw [ext_eq w 28 4 _ hk]; show row32 w _ _ (.fsqrtF32 (w.extractLsb' 28 2) (w.extractLsb' 14 7) (w.extractLsb' 7 7)) = _; rw [e0, e1, e2]; exact if_pos hm)

theorem RoundTrip.fnegF32 (a : BitVec 7) (d : BitVec 7) : RoundTrip.Statement (.fnegF32 a d) := by
  intro hwf c hc
  obtain rfl := Option.some.inj hc
  have hn : (1024#11 ++ a ++ d ++ 19#7 : BitVec 32).toNat = (((1024) * 2 ^ 7 + a.toNat) * 2 ^ 7 + d.toNat) * 2 ^ 7 + 19 := by
    rw [app_nat, app_nat, app_nat]; rfl
  have hm : (1024#11 ++ a ++ d ++ 19#7) &&& (2047#11 ++ 0#7 ++ 0#7 ++ 127#7) = (1024#11 ++ 0#7 ++ 0#7 ++ 19#7) := by
    rw [and_app, and_app, and_app]; simp only [BitVec.and_zero]; rfl
  have la := a.isLt
  have ld := d.isLt
  generalize (1024#11 ++ a ++ d ++ 19#7 : BitVec 32) = w at *
  replace hm : w &&& 0xFFE0007F#32 = 0x80000013#32 := hm
  show decode (Code.word w).bytes = _
  rw [decode_word w (by omega)]
  have f0 := ext_eq w 1 6 9 (by omega)
  refine decodeWord_ok w _ 9 f0 (by decide) (by decide) ?_ hwf
  unfold decode32; rw [f0]
  show dec09 w = _
  have e0 := ext_op w 14 a (by omega)
  have e1 := ext_op w 7 d (by omega)
  unfold dec09; rw [ext_eq w 28 4 8 (by omega)]
  show row32 w _ _ (.fnegF32 (w.extractLsb' 14 7) (w.extractLsb' 7 7)) = _
  rw [e0, e1]; exact if_pos hm

theorem RoundTrip.fabsF32 (a : BitVec 7) (d : BitVec 7) : RoundTrip.Statement (.fabsF32 a d) := by
  intro hwf c hc
  obtain rfl := Option.some.inj hc
  have hn : (1152#11 ++ a ++ d ++ 19#7 : BitVec 32).toNat = (((1152) * 2 ^ 7 + a.toNat) * 2 ^ 7 + d.toNat) * 2 ^ 7 + 19 := by
    rw [app_nat, app_nat, app_nat]; rfl
  have hm : (1152#11 ++ a ++ d ++ 19#7) &&& (2047#11 ++ 0#7 ++ 0#7 ++ 127#7) = (1152#11 ++ 0#7 ++ 0#7 ++ 19#7) := by
    rw [and_app, and_app, and_app]; simp only [BitVec.and_zero]; rfl
  have la := a.isLt
  have ld := d.isLt
  generalize (1152#11 ++ a ++ d ++ 19#7 : BitVec 32) = w at *
  replace hm : w &&& 0xFFE0007F#32 = 0x90000013#32 := hm
  show decode (Code.word w).bytes = _
  rw [decode_word w (by omega)]
  have f0 := ext_eq w 1 6 9 (by omega)
  refine decodeWord_ok w _ 9 f0 (by decide) (by decide) ?_ hwf
  unfold decode32; rw [f0]
  show dec09 w = _
  have e0 := ext_op w 14 a (by omega)
  have e1 := ext_op w 7 d (by omega)
  unfold dec09; rw [ext_eq w 28 4 9 (by omega)]
  show row32 w _ _ (.fabsF32 (w.extractLsb' 14 7) (w.extractLsb' 7 7)) = _
  rw [e0, e1]; exact if_pos hm

theorem RoundTrip.fcsgnF32 (b : BitVec 7) (a : BitVec 7) (d : BitVec 7) : RoundTrip.Statement (.fcsgnF32 b a d) := by
  intro hwf c hc
  obtain rfl := Option.some.inj hc
  have hn : (10#4 ++ b ++ a ++ d ++ 19#7 : BitVec 32).toNat = ((((10) * 2 ^ 7 + b.toNat) * 2 ^ 7 + a.toNat) * 2 ^ 7 + d.toNat) * 2 ^ 7 + 19 := by
    rw [app_nat, app_nat, app_nat, app_nat]; rfl
  have hm : (10#4 ++ b ++ a ++ d ++ 19#7) &&& (15#4 ++ 0#7 ++ 0#7 ++ 0#7 ++ 127#7) = (10#4 ++ 0#7 ++ 0#7 ++ 0#7 ++ 19#7) := by
    rw [and_app, and_app, and_app, and_app]; simp only [BitVec.and_zero]; rfl
  have lb := b.isLt
  have la := a.isLt
  have ld := d.isLt
  generalize (10#4 ++ b ++ a ++ d ++ 19#7 : BitVec 32) = w at *
  replace hm : w &&& 0xF000007F#32 = 0xA0000013#32 := hm
  show decode (Code.word w).bytes = _
  rw [decode_word w (by omega)]
  have f0 := ext_eq w 1 6 9 (by omega)
  refine decodeWord_ok w _ 9 f0 (by decide) (by decide) ?_ hwf
  unfold decode32; rw [f0]
  show dec09 w = _
  have e0 := ext_op w 21 b (by omega)
  have e1 := ext_op w 14 a (by omega)
  have e2 := ext_op w 7 d (by omega)
  unfold dec09; rw [ext_eq w 28 4 10 (by omega)]
  show row32 w _ _ (.fcsgnF32 (w.extractLsb' 21 7) (w.extractLsb' 14 7) (w.extractLsb' 7 7)) = _
  rw [e0, e1, e2]; exact if_pos hm

theorem RoundTrip.fadd2F16 (r : BitVec 2) (b : BitVec 7) (a : BitVec 7) (d : BitVec 7) : RoundTrip.Statement (.fadd2F16 r b a d) := by
  intro hwf c hc
  obtain rfl := Option.some.inj hc
  have hn : (0#2 ++ r ++ b ++ a ++ d ++ 21#7 : BitVec 32).toNat = (((((0) * 2 ^ 2 + r.toNat) * 2 ^ 7 + b.toNat) * 2 ^ 7 + a.toNat) * 2 ^ 7 + d.toNat) * 2 ^ 7 + 21 := by
    rw [app_nat, app_nat, app_nat, app_nat, app_nat]; rfl
  have hm : (0#2 ++ r ++ b ++ a ++ d ++ 21#7) &&& (3#2 ++ 0#2 ++ 0#7 ++ 0#7 ++ 0#7 ++ 127#7) = (0#2 ++ 0#2 ++ 0#7 ++ 0#7 ++ 0#7 ++ 21#7) := by
    rw [and_app, and_app, and_app, and_app, and_app]; simp only [BitVec.and_zero]; rfl
  have lr := r.isLt
  have lb := b.isLt
  have la := a.isLt
  have ld := d.isLt
  generalize (0#2 ++ r ++ b ++ a ++ d ++ 21#7 : BitVec 32) = w at *
  replace hm : w &&& 0xC000007F#32 = 0x00000015#32 := hm
  show decode (Code.word w).bytes = _
  rw [decode_word w (by omega)]
  have f0 := ext_eq w 1 6 10 (by omega)
  refine decodeWord_ok w _ 10 f0 (by decide) (by decide) ?_ hwf
  unfold decode32; rw [f0]
  show dec0A w = _
  have e0 := ext_op w 28 r (by omega)
  have e1 := ext_op w 21 b (by omega)
  have e2 := ext_op w 14 a (by omega)
  have e3 := ext_op w 7 d (by omega)
  have hk : w.toNat / 2 ^ 28 % 2 ^ 4 = 0 ∨ w.toNat / 2 ^ 28 % 2 ^ 4 = 1 ∨ w.toNat / 2 ^ 28 % 2 ^ 4 = 2 ∨ w.toNat / 2 ^ 28 % 2 ^ 4 = 3 := by omega
  unfold dec0A; rcases hk with hk | hk | hk | hk <;>
    (rw [ext_eq w 28 4 _ hk]; show row32 w _ _ (.fadd2F16 (w.extractLsb' 28 2) (w.extractLsb' 21 7) (w.extractLsb' 14 7) (w.extractLsb' 7 7)) = _; rw [e0, e1, e2, e3]; exact if_pos hm)

theorem RoundTrip.fmul2F16 (r : BitVec 2) (b : BitVec 7) (a : BitVec 7) (d : BitVec 7) : RoundTrip.Statement (.fmul2F16 r b a d) := by
  intro hwf c hc
  obtain rfl := Option.some.inj hc
  have hn : (1#2 ++ r ++ b ++ a ++ d ++ 21#7 : BitVec 32).toNat = (((((1) * 2 ^ 2 + r.toNat) * 2 ^ 7 + b.toNat) * 2 ^ 7 + a.toNat) * 2 ^ 7 + d.toNat) * 2 ^ 7 + 21 := by
    rw [app_nat, app_nat, app_nat, app_nat, app_nat]; rfl
  have hm : (1#2 ++ r ++ b ++ a ++ d ++ 21#7) &&& (3#2 ++ 0#2 ++ 0#7 ++ 0#7 ++ 0#7 ++ 127#7) = (1#2 ++ 0#2 ++ 0#7 ++ 0#7 ++ 0#7 ++ 21#7) := by
    rw [and_app, and_app, and_app, and_app, and_app]; simp only [BitVec.and_zero]; rfl
  have lr := r.isLt
  have lb := b.isLt
  have la := a.isLt
  have ld := d.isLt
  generalize (1#2 ++ r ++ b ++ a ++ d ++ 21#7 : BitVec 32) = w at *
  replace hm : w &&& 0xC000007F#32 = 0x40000015#32 := hm
  show decode (Code.word w).bytes = _
  rw [decode_word w (by omega)]
  have f0 := ext_eq w 1 6 10 (by omega)
  refine decodeWord_ok w _ 10 f0 (by decide) (by decide) ?_ hwf
  unfold decode32; rw [f0]
  show dec0A w = _
  have e0 := ext_op w 28 r (by omega)
  have e1 := ext_op w 21 b (by omega)
  have e2 := ext_op w 14 a (by omega)
  have e3 := ext_op w 7 d (by omega)
  have hk : w.toNat / 2 ^ 28 % 2 ^ 4 = 4 ∨ w.toNat / 2 ^ 28 % 2 ^ 4 = 5 ∨ w.toNat / 2 ^ 28 % 2 ^ 4 = 6 ∨ w.toNat / 2 ^ 28 % 2 ^ 4 = 7 := by omega
  unfold dec0A; rcases hk with hk | hk | hk | hk <;>
    (rw [ext_eq w 28 4 _ hk]; show row32 w _ _ (.fmul2F16 (w.extractLsb' 28 2) (w.extractLsb' 21 7) (w.extractLsb' 14 7) (w.extractLsb' 7 7)) = _; rw [e0, e1, e2, e3]; exact if_pos hm)

theorem RoundTrip.fadd2Bf16 (r : BitVec 2) (b : BitVec 7) (a : BitVec 7) (d : BitVec 7) : RoundTrip.Statement (.fadd2Bf16 r b a d) := by
  intro hwf c hc
  obtain rfl := Option.some.inj hc
  have hn : (2#2 ++ r ++ b ++ a ++ d ++ 21#7 : BitVec 32).toNat = (((((2) * 2 ^ 2 + r.toNat) * 2 ^ 7 + b.toNat) * 2 ^ 7 + a.toNat) * 2 ^ 7 + d.toNat) * 2 ^ 7 + 21 := by
    rw [app_nat, app_nat, app_nat, app_nat, app_nat]; rfl
  have hm : (2#2 ++ r ++ b ++ a ++ d ++ 21#7) &&& (3#2 ++ 0#2 ++ 0#7 ++ 0#7 ++ 0#7 ++ 127#7) = (2#2 ++ 0#2 ++ 0#7 ++ 0#7 ++ 0#7 ++ 21#7) := by
    rw [and_app, and_app, and_app, and_app, and_app]; simp only [BitVec.and_zero]; rfl
  have lr := r.isLt
  have lb := b.isLt
  have la := a.isLt
  have ld := d.isLt
  generalize (2#2 ++ r ++ b ++ a ++ d ++ 21#7 : BitVec 32) = w at *
  replace hm : w &&& 0xC000007F#32 = 0x80000015#32 := hm
  show decode (Code.word w).bytes = _
  rw [decode_word w (by omega)]
  have f0 := ext_eq w 1 6 10 (by omega)
  refine decodeWord_ok w _ 10 f0 (by decide) (by decide) ?_ hwf
  unfold decode32; rw [f0]
  show dec0A w = _
  have e0 := ext_op w 28 r (by omega)
  have e1 := ext_op w 21 b (by omega)
  have e2 := ext_op w 14 a (by omega)
  have e3 := ext_op w 7 d (by omega)
  have hk : w.toNat / 2 ^ 28 % 2 ^ 4 = 8 ∨ w.toNat / 2 ^ 28 % 2 ^ 4 = 9 ∨ w.toNat / 2 ^ 28 % 2 ^ 4 = 10 ∨ w.toNat / 2 ^ 28 % 2 ^ 4 = 11 := by omega
  unfold dec0A; rcases hk with hk | hk | hk | hk <;>
    (rw [ext_eq w 28 4 _ hk]; show row32 w _ _ (.fadd2Bf16 (w.extractLsb' 28 2) (w.extractLsb' 21 7) (w.extractLsb' 14 7) (w.extractLsb' 7 7)) = _; rw [e0, e1, e2, e3]; exact if_pos hm)

theorem RoundTrip.fmul2Bf16 (r : BitVec 2) (b : BitVec 7) (a : BitVec 7) (d : BitVec 7) : RoundTrip.Statement (.fmul2Bf16 r b a d) := by
  intro hwf c hc
  obtain rfl := Option.some.inj hc
  have hn : (3#2 ++ r ++ b ++ a ++ d ++ 21#7 : BitVec 32).toNat = (((((3) * 2 ^ 2 + r.toNat) * 2 ^ 7 + b.toNat) * 2 ^ 7 + a.toNat) * 2 ^ 7 + d.toNat) * 2 ^ 7 + 21 := by
    rw [app_nat, app_nat, app_nat, app_nat, app_nat]; rfl
  have hm : (3#2 ++ r ++ b ++ a ++ d ++ 21#7) &&& (3#2 ++ 0#2 ++ 0#7 ++ 0#7 ++ 0#7 ++ 127#7) = (3#2 ++ 0#2 ++ 0#7 ++ 0#7 ++ 0#7 ++ 21#7) := by
    rw [and_app, and_app, and_app, and_app, and_app]; simp only [BitVec.and_zero]; rfl
  have lr := r.isLt
  have lb := b.isLt
  have la := a.isLt
  have ld := d.isLt
  generalize (3#2 ++ r ++ b ++ a ++ d ++ 21#7 : BitVec 32) = w at *
  replace hm : w &&& 0xC000007F#32 = 0xC0000015#32 := hm
  show decode (Code.word w).bytes = _
  rw [decode_word w (by omega)]
  have f0 := ext_eq w 1 6 10 (by omega)
  refine decodeWord_ok w _ 10 f0 (by decide) (by decide) ?_ hwf
  unfold decode32; rw [f0]
  show dec0A w = _
  have e0 := ext_op w 28 r (by omega)
  have e1 := ext_op w 21 b (by omega)
  have e2 := ext_op w 14 a (by omega)
  have e3 := ext_op w 7 d (by omega)
  have hk : w.toNat / 2 ^ 28 % 2 ^ 4 = 12 ∨ w.toNat / 2 ^ 28 % 2 ^ 4 = 13 ∨ w.toNat / 2 ^ 28 % 2 ^ 4 = 14 ∨ w.toNat / 2 ^ 28 % 2 ^ 4 = 15 := by omega
  unfold dec0A; rcases hk with hk | hk | hk | hk <;>
    (rw [ext_eq w 28 4 _ hk]; show row32 w _ _ (.fmul2Bf16 (w.extractLsb' 28 2) (w.extractLsb' 21 7) (w.extractLsb' 14 7) (w.extractLsb' 7 7)) = _; rw [e0, e1, e2, e3]; exact if_pos hm)

theorem RoundTrip.ffmaF32 (c : BitVec 5) (b : BitVec 6) (a : BitVec 7) (d : BitVec 7) (r : BitVec 2) : RoundTrip.Statement (.ffmaF32 c b a d r) := by
  intro hwf c hc
  obtain rfl := Option.some.inj hc
  have hn : (c ++ b ++ a ++ d ++ 4#4 ++ r ++ 1#1 : BitVec 32).toNat = ((((((c.toNat) * 2 ^ 6 + b.toNat) * 2 ^ 7 + a.toNat) * 2 ^ 7 + d.toNat) * 2 ^ 4 + 4) * 2 ^ 2 + r.toNat) * 2 ^ 1 + 1 := by
    rw [app_nat, app_nat, app_nat, app_nat, app_nat, app_nat]; rfl
  have hm : (c ++ b ++ a ++ d ++ 4#4 ++ r ++ 1#1) &&& (0#5 ++ 0#6 ++ 0#7 ++ 0#7 ++ 15#4 ++ 0#2 ++ 1#1) = (0#5 ++ 0#6 ++ 0#7 ++ 0#7 ++ 4#4 ++ 0#2 ++ 1#1) := by
    rw [and_app, and_app, and_app, and_app, and_app, and_app]; simp only [BitVec.and_zero]; rfl
  have lc := c.isLt
  have lb := b.isLt
  have la := a.isLt
  have ld := d.isLt
  have lr := r.isLt
  generalize (c ++ b ++ a ++ d ++ 4#4 ++ r ++ 1#1 : BitVec 32) = w at *
  replace hm : w &&& 0x00000079#32 = 0x00000021#32 := hm
  show decode (Code.word w).bytes = _
  rw [decode_word w (by omega)]
  have e0 := ext_op w 27 c (by omega)
  have e1 := ext_op w 21 b (by omega)
  have e2 := ext_op w 14 a (by omega)
  have e3 := ext_op w 7 d (by omega)
  have e4 := ext_op w 1 r (by omega)
  have hk : w.toNat / 2 ^ 1 % 2 ^ 6 = 16 ∨ w.toNat / 2 ^ 1 % 2 ^ 6 = 17 ∨ w.toNat / 2 ^ 1 % 2 ^ 6 = 18 ∨ w.toNat / 2 ^ 1 % 2 ^ 6 = 19 := by omega
  rcases hk with hk | hk | hk | hk
  · have f0 := ext_eq w 1 6 16 hk
    refine decodeWord_ok w _ 16 f0 (by decide) (by decide) ?_ hwf
    unfold decode32; rw [f0]
    show row32 w _ _ (.ffmaF32 (w.extractLsb' 27 5) (w.extractLsb' 21 6) (w.extractLsb' 14 7) (w.extractLsb' 7 7) (w.extractLsb' 1 2)) = _
    rw [e0, e1, e2, e3, e4]; exact if_pos hm
  · have f0 := ext_eq w 1 6 17 hk
    refine decodeWord_ok w _ 17 f0 (by decide) (by decide) ?_ hwf
    unfold decode32; rw [f0]
    show row32 w _ _ (.ffmaF32 (w.extractLsb' 27 5) (w.extractLsb' 21 6) (w.extractLsb' 14 7) (w.extractLsb' 7 7) (w.extractLsb' 1 2)) = _
    rw [e0, e1, e2, e3, e4]; exact if_pos hm
  · have f0 := ext_eq w 1 6 18 hk
    refine decodeWord_ok w _ 18 f0 (by decide) (by decide) ?_ hwf
    unfold decode32; rw [f0]
    show row32 w _ _ (.ffmaF32 (w.extractLsb' 27 5) (w.extractLsb' 21 6) (w.extractLsb' 14 7) (w.extractLsb' 7 7) (w.extractLsb' 1 2)) = _
    rw [e0, e1, e2, e3, e4]; exact if_pos hm
  · have f0 := ext_eq w 1 6 19 hk
    refine decodeWord_ok w _ 19 f0 (by decide) (by decide) ?_ hwf
    unfold decode32; rw [f0]
    show row32 w _ _ (.ffmaF32 (w.extractLsb' 27 5) (w.extractLsb' 21 6) (w.extractLsb' 14 7) (w.extractLsb' 7 7) (w.extractLsb' 1 2)) = _
    rw [e0, e1, e2, e3, e4]; exact if_pos hm

theorem RoundTrip.imadN32 (c : BitVec 5) (b : BitVec 6) (a : BitVec 7) (d : BitVec 7) : RoundTrip.Statement (.imadN32 c b a d) := by
  intro hwf c hc
  obtain rfl := Option.some.inj hc
  have hn : (c ++ b ++ a ++ d ++ 41#7 : BitVec 32).toNat = ((((c.toNat) * 2 ^ 6 + b.toNat) * 2 ^ 7 + a.toNat) * 2 ^ 7 + d.toNat) * 2 ^ 7 + 41 := by
    rw [app_nat, app_nat, app_nat, app_nat]; rfl
  have hm : (c ++ b ++ a ++ d ++ 41#7) &&& (0#5 ++ 0#6 ++ 0#7 ++ 0#7 ++ 127#7) = (0#5 ++ 0#6 ++ 0#7 ++ 0#7 ++ 41#7) := by
    rw [and_app, and_app, and_app, and_app]; simp only [BitVec.and_zero]; rfl
  have lc := c.isLt
  have lb := b.isLt
  have la := a.isLt
  have ld := d.isLt
  generalize (c ++ b ++ a ++ d ++ 41#7 : BitVec 32) = w at *
  replace hm : w &&& 0x0000007F#32 = 0x00000029#32 := hm
  show decode (Code.word w).bytes = _
  rw [decode_word w (by omega)]
  have f0 := ext_eq w 1 6 20 (by omega)
  refine decodeWord_ok w _ 20 f0 (by decide) (by decide) ?_ hwf
  unfold decode32; rw [f0]
  show dec14 w = _
  have e0 := ext_op w 27 c (by omega)
  have e1 := ext_op w 21 b (by omega)
  have e2 := ext_op w 14 a (by omega)
  have e3 := ext_op w 7 d (by omega)
  show row32 w _ _ (.imadN32 (w.extractLsb' 27 5) (w.extractLsb' 21 6) (w.extractLsb' 14 7) (w.extractLsb' 7 7)) = _
  rw [e0, e1, e2, e3]; exact if_pos hm

theorem RoundTrip.fceqF32 (b : BitVec 7) (a : BitVec 7) (d : BitVec 3) : RoundTrip.Statement (.fceqF32 b a d) := by
  intro hwf c hc
  obtain rfl := Option.some.inj hc
  have hn : (0#4 ++ b ++ a ++ 0#4 ++ d ++ 23#7 : BitVec 32).toNat = (((((0) * 2 ^ 7 + b.toNat) * 2 ^ 7 + a.toNat) * 2 ^ 4 + 0) * 2 ^ 3 + d.toNat) * 2 ^ 7 + 23 := by
    rw [app_nat, app_nat, app_nat, app_nat, app_nat]; rfl
  have hm : (0#4 ++ b ++ a ++ 0#4 ++ d ++ 23#7) &&& (15#4 ++ 0#7 ++ 0#7 ++ 15#4 ++ 0#3 ++ 127#7) = (0#4 ++ 0#7 ++ 0#7 ++ 0#4 ++ 0#3 ++ 23#7) := by
    rw [and_app, and_app, and_app, and_app, and_app]; simp only [BitVec.and_zero]; rfl
  have lb := b.isLt
  have la := a.isLt
  have ld := d.isLt
  generalize (0#4 ++ b ++ a ++ 0#4 ++ d ++ 23#7 : BitVec 32) = w at *
  replace hm : w &&& 0xF0003C7F#32 = 0x00000017#32 := hm
  show decode (Code.word w).bytes = _
  rw [decode_word w (by omega)]
  have f0 := ext_eq w 1 6 11 (by omega)
  refine decodeWord_ok w _ 11 f0 (by decide) (by decide) ?_ hwf
  unfold decode32; rw [f0]
  show dec0B w = _
  have e0 := ext_op w 21 b (by omega)
  have e1 := ext_op w 14 a (by omega)
  have e2 := ext_op w 7 d (by omega)
  unfold dec0B; rw [ext_eq w 28 4 0 (by omega)]
  show row32 w _ _ (.fceqF32 (w.extractLsb' 21 7) (w.extractLsb' 14 7) (w.extractLsb' 7 3)) = _
  rw [e0, e1, e2]; exact if_pos hm

theorem RoundTrip.fcneF32 (b : BitVec 7) (a : BitVec 7) (d : BitVec 3) : RoundTrip.Statement (.fcneF32 b a d) := by
  intro hwf c hc
  obtain rfl := Option.some.inj hc
  have hn : (1#4 ++ b ++ a ++ 0#4 ++ d ++ 23#7 : BitVec 32).toNat = (((((1) * 2 ^ 7 + b.toNat) * 2 ^ 7 + a.toNat) * 2 ^ 4 + 0) * 2 ^ 3 + d.toNat) * 2 ^ 7 + 23 := by
    rw [app_nat, app_nat, app_nat, app_nat, app_nat]; rfl
  have hm : (1#4 ++ b ++ a ++ 0#4 ++ d ++ 23#7) &&& (15#4 ++ 0#7 ++ 0#7 ++ 15#4 ++ 0#3 ++ 127#7) = (1#4 ++ 0#7 ++ 0#7 ++ 0#4 ++ 0#3 ++ 23#7) := by
    rw [and_app, and_app, and_app, and_app, and_app]; simp only [BitVec.and_zero]; rfl
  have lb := b.isLt
  have la := a.isLt
  have ld := d.isLt
  generalize (1#4 ++ b ++ a ++ 0#4 ++ d ++ 23#7 : BitVec 32) = w at *
  replace hm : w &&& 0xF0003C7F#32 = 0x10000017#32 := hm
  show decode (Code.word w).bytes = _
  rw [decode_word w (by omega)]
  have f0 := ext_eq w 1 6 11 (by omega)
  refine decodeWord_ok w _ 11 f0 (by decide) (by decide) ?_ hwf
  unfold decode32; rw [f0]
  show dec0B w = _
  have e0 := ext_op w 21 b (by omega)
  have e1 := ext_op w 14 a (by omega)
  have e2 := ext_op w 7 d (by omega)
  unfold dec0B; rw [ext_eq w 28 4 1 (by omega)]
  show row32 w _ _ (.fcneF32 (w.extractLsb' 21 7) (w.extractLsb' 14 7) (w.extractLsb' 7 3)) = _
  rw [e0, e1, e2]; exact if_pos hm

theorem RoundTrip.fcltF32 (b : BitVec 7) (a : BitVec 7) (d : BitVec 3) : RoundTrip.Statement (.fcltF32 b a d) := by
  intro hwf c hc
  obtain rfl := Option.some.inj hc
  have hn : (2#4 ++ b ++ a ++ 0#4 ++ d ++ 23#7 : BitVec 32).toNat = (((((2) * 2 ^ 7 + b.toNat) * 2 ^ 7 + a.toNat) * 2 ^ 4 + 0) * 2 ^ 3 + d.toNat) * 2 ^ 7 + 23 := by
    rw [app_nat, app_nat, app_nat, app_nat, app_nat]; rfl
  have hm : (2#4 ++ b ++ a ++ 0#4 ++ d ++ 23#7) &&& (15#4 ++ 0#7 ++ 0#7 ++ 15#4 ++ 0#3 ++ 127#7) = (2#4 ++ 0#7 ++ 0#7 ++ 0#4 ++ 0#3 ++ 23#7) := by
    rw [and_app, and_app, and_app, and_app, and_app]; simp only [BitVec.and_zero]; rfl
  have lb := b.isLt
  have la := a.isLt
  have ld := d.isLt
  generalize (2#4 ++ b ++ a ++ 0#4 ++ d ++ 23#7 : BitVec 32) = w at *
  replace hm : w &&& 0xF0003C7F#32 = 0x20000017#32 := hm
  show decode (Code.word w).bytes = _
  rw [decode_word w (by omega)]
  have f0 := ext_eq w 1 6 11 (by omega)
  refine decodeWord_ok w _ 11 f0 (by decide) (by decide) ?_ hwf
  unfold decode32; rw [f0]
  show dec0B w = _
  have e0 := ext_op w 21 b (by omega)
  have e1 := ext_op w 14 a (by omega)
  have e2 := ext_op w 7 d (by omega)
  unfold dec0B; rw [ext_eq w 28 4 2 (by omega)]
  show row32 w _ _ (.fcltF32 (w.extractLsb' 21 7) (w.extractLsb' 14 7) (w.extractLsb' 7 3)) = _
  rw [e0, e1, e2]; exact if_pos hm

theorem RoundTrip.fcleF32 (b : BitVec 7) (a : BitVec 7) (d : BitVec 3) : RoundTrip.Statement (.fcleF32 b a d) := by
  intro hwf c hc
  obtain rfl := Option.some.inj hc
  have hn : (3#4 ++ b ++ a ++ 0#4 ++ d ++ 23#7 : BitVec 32).toNat = (((((3) * 2 ^ 7 + b.toNat) * 2 ^ 7 + a.toNat) * 2 ^ 4 + 0) * 2 ^ 3 + d.toNat) * 2 ^ 7 + 23 := by
    rw [app_nat, app_nat, app_nat, app_nat, app_nat]; rfl
  have hm : (3#4 ++ b ++ a ++ 0#4 ++ d ++ 23#7) &&& (15#4 ++ 0#7 ++ 0#7 ++ 15#4 ++ 0#3 ++ 127#7) = (3#4 ++ 0#7 ++ 0#7 ++ 0#4 ++ 0#3 ++ 23#7) := by
    rw [and_app, and_app, and_app, and_app, and_app]; simp only [BitVec.and_zero]; rfl
  have lb := b.isLt
  have la := a.isLt
  have ld := d.isLt
  generalize (3#4 ++ b ++ a ++ 0#4 ++ d ++ 23#7 : BitVec 32) = w at *
  replace hm : w &&& 0xF0003C7F#32 = 0x30000017#32 := hm
  show decode (Code.word w).bytes = _
  rw [decode_word w (by omega)]
  have f0 := ext_eq w 1 6 11 (by omega)
  refine decodeWord_ok w _ 11 f0 (by decide) (by decide) ?_ hwf
  unfold decode32; rw [f0]
  show dec0B w = _
  have e0 := ext_op w 21 b (by omega)
  have e1 := ext_op w 14 a (by omega)
  have e2 := ext_op w 7 d (by omega)
  unfold dec0B; rw [ext_eq w 28 4 3 (by omega)]
  show row32 w _ _ (.fcleF32 (w.extractLsb' 21 7) (w.extractLsb' 14 7) (w.extractLsb' 7 3)) = _
  rw [e0, e1, e2]; exact if_pos hm

theorem RoundTrip.fcgtF32 (b : BitVec 7) (a : BitVec 7) (d : BitVec 3) : RoundTrip.Statement (.fcgtF32 b a d) := by
  intro hwf c hc
  obtain rfl := Option.some.inj hc
  have hn : (4#4 ++ b ++ a ++ 0#4 ++ d ++ 23#7 : BitVec 32).toNat = (((((4) * 2 ^ 7 + b.toNat) * 2 ^ 7 + a.toNat) * 2 ^ 4 + 0) * 2 ^ 3 + d.toNat) * 2 ^ 7 + 23 := by
    rw [app_nat, app_nat, app_nat, app_nat, app_nat]; rfl
  have hm : (4#4 ++ b ++ a ++ 0#4 ++ d ++ 23#7) &&& (15#4 ++ 0#7 ++ 0#7 ++ 15#4 ++ 0#3 ++ 127#7) = (4#4 ++ 0#7 ++ 0#7 ++ 0#4 ++ 0#3 ++ 23#7) := by
    rw [and_app, and_app, and_app, and_app, and_app]; simp only [BitVec.and_zero]; rfl
  have lb := b.isLt
  have la := a.isLt
  have ld := d.isLt
  generalize (4#4 ++ b ++ a ++ 0#4 ++ d ++ 23#7 : BitVec 32) = w at *
  replace hm : w &&& 0xF0003C7F#32 = 0x40000017#32 := hm
  show decode (Code.word w).bytes = _
  rw [decode_word w (by omega)]
  have f0 := ext_eq w 1 6 11 (by omega)
  refine decodeWord_ok w _ 11 f0 (by decide) (by decide) ?_ hwf
  unfold decode32; rw [f0]
  show dec0B w = _
  have e0 := ext_op w 21 b (by omega)
  have e1 := ext_op w 14 a (by omega)
  have e2 := ext_op w 7 d (by omega)
  unfold dec0B; rw [ext_eq w 28 4 4 (by omega)]
  show row32 w _ _ (.fcgtF32 (w.extractLsb' 21 7) (w.extractLsb' 14 7) (w.extractLsb' 7 3)) = _
  rw [e0, e1, e2]; exact if_pos hm

theorem RoundTrip.fcgeF32 (b : BitVec 7) (a : BitVec 7) (d : BitVec 3) : RoundTrip.Statement (.fcgeF32 b a d) := by
  intro hwf c hc
  obtain rfl := Option.some.inj hc
  have hn : (5#4 ++ b ++ a ++ 0#4 ++ d ++ 23#7 : BitVec 32).toNat = (((((5) * 2 ^ 7 + b.toNat) * 2 ^ 7 + a.toNat) * 2 ^ 4 + 0) * 2 ^ 3 + d.toNat) * 2 ^ 7 + 23 := by
    rw [app_nat, app_nat, app_nat, app_nat, app_nat]; rfl
  have hm : (5#4 ++ b ++ a ++ 0#4 ++ d ++ 23#7) &&& (15#4 ++ 0#7 ++ 0#7 ++ 15#4 ++ 0#3 ++ 127#7) = (5#4 ++ 0#7 ++ 0#7 ++ 0#4 ++ 0#3 ++ 23#7) := by
    rw [and_app, and_app, and_app, and_app, and_app]; simp only [BitVec.and_zero]; rfl
  have lb := b.isLt
  have la := a.isLt
  have ld := d.isLt
  generalize (5#4 ++ b ++ a ++ 0#4 ++ d ++ 23#7 : BitVec 32) = w at *
  replace hm : w &&& 0xF0003C7F#32 = 0x50000017#32 := hm
  show decode (Code.word w).bytes = _
  rw [decode_word w (by omega)]
  have f0 := ext_eq w 1 6 11 (by omega)
  refine decodeWord_ok w _ 11 f0 (by decide) (by decide) ?_ hwf
  unfold decode32; rw [f0]
  show dec0B w = _
  have e0 := ext_op w 21 b (by omega)
  have e1 := ext_op w 14 a (by omega)
  have e2 := ext_op w 7 d (by omega)
  unfold dec0B; rw [ext_eq w 28 4 5 (by omega)]
  show row32 w _ _ (.fcgeF32 (w.extractLsb' 21 7) (w.extractLsb' 14 7) (w.extractLsb' 7 3)) = _
  rw [e0, e1, e2]; exact if_pos hm

theorem RoundTrip.fcunF32 (b : BitVec 7) (a : BitVec 7) (d : BitVec 3) : RoundTrip.Statement (.fcunF32 b a d) := by
  intro hwf c hc
  obtain rfl := Option.some.inj hc
  have hn : (6#4 ++ b ++ a ++ 0#4 ++ d ++ 23#7 : BitVec 32).toNat = (((((6) * 2 ^ 7 + b.toNat) * 2 ^ 7 + a.toNat) * 2 ^ 4 + 0) * 2 ^ 3 + d.toNat) * 2 ^ 7 + 23 := by
    rw [app_nat, app_nat, app_nat, app_nat, app_nat]; rfl
  have hm : (6#4 ++ b ++ a ++ 0#4 ++ d ++ 23#7) &&& (15#4 ++ 0#7 ++ 0#7 ++ 15#4 ++ 0#3 ++ 127#7) = (6#4 ++ 0#7 ++ 0#7 ++ 0#4 ++ 0#3 ++ 23#7) := by
    rw [and_app, and_app, and_app, and_app, and_app]; simp only [BitVec.and_zero]; rfl
  have lb := b.isLt
  have la := a.isLt
  have ld := d.isLt
  generalize (6#4 ++ b ++ a ++ 0#4 ++ d ++ 23#7 : BitVec 32) = w at *
  replace hm : w &&& 0xF0003C7F#32 = 0x60000017#32 := hm
  show decode (Code.word w).bytes = _
  rw [decode_word w (by omega)]
  have f0 := ext_eq w 1 6 11 (by omega)
  refine decodeWord_ok w _ 11 f0 (by decide) (by decide) ?_ hwf
  unfold decode32; rw [f0]
  show dec0B w = _
  have e0 := ext_op w 21 b (by omega)
  have e1 := ext_op w 14 a (by omega)
  have e2 := ext_op w 7 d (by omega)
  unfold dec0B; rw [ext_eq w 28 4 6 (by omega)]
  show row32 w _ _ (.fcunF32 (w.extractLsb' 21 7) (w.extractLsb' 14 7) (w.extractLsb' 7 3)) = _
  rw [e0, e1, e2]; exact if_pos hm

theorem RoundTrip.fcordF32 (b : BitVec 7) (a : BitVec 7) (d : BitVec 3) : RoundTrip.Statement (.fcordF32 b a d) := by
  intro hwf c hc
  obtain rfl := Option.some.inj hc
  have hn : (7#4 ++ b ++ a ++ 0#4 ++ d ++ 23#7 : BitVec 32).toNat = (((((7) * 2 ^ 7 + b.toNat) * 2 ^ 7 + a.toNat) * 2 ^ 4 + 0) * 2 ^ 3 + d.toNat) * 2 ^ 7 + 23 := by
    rw [app_nat, app_nat, app_nat, app_nat, app_nat]; rfl
  have hm : (7#4 ++ b ++ a ++ 0#4 ++ d ++ 23#7) &&& (15#4 ++ 0#7 ++ 0#7 ++ 15#4 ++ 0#3 ++ 127#7) = (7#4 ++ 0#7 ++ 0#7 ++ 0#4 ++ 0#3 ++ 23#7) := by
    rw [and_app, and_app, and_app, and_app, and_app]; simp only [BitVec.and_zero]; rfl
  have lb := b.isLt
  have la := a.isLt
  have ld := d.isLt
  generalize (7#4 ++ b ++ a ++ 0#4 ++ d ++ 23#7 : BitVec 32) = w at *
  replace hm : w &&& 0xF0003C7F#32 = 0x70000017#32 := hm
  show decode (Code.word w).bytes = _
  rw [decode_word w (by omega)]
  have f0 := ext_eq w 1 6 11 (by omega)
  refine decodeWord_ok w _ 11 f0 (by decide) (by decide) ?_ hwf
  unfold decode32; rw [f0]
  show dec0B w = _
  have e0 := ext_op w 21 b (by omega)
  have e1 := ext_op w 14 a (by omega)
  have e2 := ext_op w 7 d (by omega)
  unfold dec0B; rw [ext_eq w 28 4 7 (by omega)]
  show row32 w _ _ (.fcordF32 (w.extractLsb' 21 7) (w.extractLsb' 14 7) (w.extractLsb' 7 3)) = _
  rw [e0, e1, e2]; exact if_pos hm

theorem RoundTrip.iceqB32 (b : BitVec 7) (a : BitVec 7) (d : BitVec 3) : RoundTrip.Statement (.iceqB32 b a d) := by
  intro hwf c hc
  obtain rfl := Option.some.inj hc
  have hn : (0#4 ++ b ++ a ++ 0#4 ++ d ++ 25#7 : BitVec 32).toNat = (((((0) * 2 ^ 7 + b.toNat) * 2 ^ 7 + a.toNat) * 2 ^ 4 + 0) * 2 ^ 3 + d.toNat) * 2 ^ 7 + 25 := by
    rw [app_nat, app_nat, app_nat, app_nat, app_nat]; rfl
  have hm : (0#4 ++ b ++ a ++ 0#4 ++ d ++ 25#7) &&& (15#4 ++ 0#7 ++ 0#7 ++ 15#4 ++ 0#3 ++ 127#7) = (0#4 ++ 0#7 ++ 0#7 ++ 0#4 ++ 0#3 ++ 25#7) := by
    rw [and_app, and_app, and_app, and_app, and_app]; simp only [BitVec.and_zero]; rfl
  have lb := b.isLt
  have la := a.isLt
  have ld := d.isLt
  generalize (0#4 ++ b ++ a ++ 0#4 ++ d ++ 25#7 : BitVec 32) = w at *
  replace hm : w &&& 0xF0003C7F#32 = 0x00000019#32 := hm
  show decode (Code.word w).bytes = _
  rw [decode_word w (by omega)]
  have f0 := ext_eq w 1 6 12 (by omega)
  refine decodeWord_ok w _ 12 f0 (by decide) (by decide) ?_ hwf
  unfold decode32; rw [f0]
  show dec0C w = _
  have e0 := ext_op w 21 b (by omega)
  have e1 := ext_op w 14 a (by omega)
  have e2 := ext_op w 7 d (by omega)
  unfold dec0C; rw [ext_eq w 28 4 0 (by omega)]
  show row32 w _ _ (.iceqB32 (w.extractLsb' 21 7) (w.extractLsb' 14 7) (w.extractLsb' 7 3)) = _
  rw [e0, e1, e2]; exact if_pos hm

theorem RoundTrip.icneB32 (b : BitVec 7) (a : BitVec 7) (d : BitVec 3) : RoundTrip.Statement (.icneB32 b a d) := by
  intro hwf c hc
  obtain rfl := Option.some.inj hc
  have hn : (1#4 ++ b ++ a ++ 0#4 ++ d ++ 25#7 : BitVec 32).toNat = (((((1) * 2 ^ 7 + b.toNat) * 2 ^ 7 + a.toNat) * 2 ^ 4 + 0) * 2 ^ 3 + d.toNat) * 2 ^ 7 + 25 := by
    rw [app_nat, app_nat, app_nat, app_nat, app_nat]; rfl
  have hm : (1#4 ++ b ++ a ++ 0#4 ++ d ++ 25#7) &&& (15#4 ++ 0#7 ++ 0#7 ++ 15#4 ++ 0#3 ++ 127#7) = (1#4 ++ 0#7 ++ 0#7 ++ 0#4 ++ 0#3 ++ 25#7) := by
    rw [and_app, and_app, and_app, and_app, and_app]; simp only [BitVec.and_zero]; rfl
  have lb := b.isLt
  have la := a.isLt
  have ld := d.isLt
  generalize (1#4 ++ b ++ a ++ 0#4 ++ d ++ 25#7 : BitVec 32) = w at *
  replace hm : w &&& 0xF0003C7F#32 = 0x10000019#32 := hm
  show decode (Code.word w).bytes = _
  rw [decode_word w (by omega)]
  have f0 := ext_eq w 1 6 12 (by omega)
  refine decodeWord_ok w _ 12 f0 (by decide) (by decide) ?_ hwf
  unfold decode32; rw [f0]
  show dec0C w = _
  have e0 := ext_op w 21 b (by omega)
  have e1 := ext_op w 14 a (by omega)
  have e2 := ext_op w 7 d (by omega)
  unfold dec0C; rw [ext_eq w 28 4 1 (by omega)]
  show row32 w _ _ (.icneB32 (w.extractLsb' 21 7) (w.extractLsb' 14 7) (w.extractLsb' 7 3)) = _
  rw [e0, e1, e2]; exact if_pos hm

theorem RoundTrip.icltI32 (b : BitVec 7) (a : BitVec 7) (d : BitVec 3) : RoundTrip.Statement (.icltI32 b a d) := by
  intro hwf c hc
  obtain rfl := Option.some.inj hc
  have hn : (2#4 ++ b ++ a ++ 0#4 ++ d ++ 25#7 : BitVec 32).toNat = (((((2) * 2 ^ 7 + b.toNat) * 2 ^ 7 + a.toNat) * 2 ^ 4 + 0) * 2 ^ 3 + d.toNat) * 2 ^ 7 + 25 := by
    rw [app_nat, app_nat, app_nat, app_nat, app_nat]; rfl
  have hm : (2#4 ++ b ++ a ++ 0#4 ++ d ++ 25#7) &&& (15#4 ++ 0#7 ++ 0#7 ++ 15#4 ++ 0#3 ++ 127#7) = (2#4 ++ 0#7 ++ 0#7 ++ 0#4 ++ 0#3 ++ 25#7) := by
    rw [and_app, and_app, and_app, and_app, and_app]; simp only [BitVec.and_zero]; rfl
  have lb := b.isLt
  have la := a.isLt
  have ld := d.isLt
  generalize (2#4 ++ b ++ a ++ 0#4 ++ d ++ 25#7 : BitVec 32) = w at *
  replace hm : w &&& 0xF0003C7F#32 = 0x20000019#32 := hm
  show decode (Code.word w).bytes = _
  rw [decode_word w (by omega)]
  have f0 := ext_eq w 1 6 12 (by omega)
  refine decodeWord_ok w _ 12 f0 (by decide) (by decide) ?_ hwf
  unfold decode32; rw [f0]
  show dec0C w = _
  have e0 := ext_op w 21 b (by omega)
  have e1 := ext_op w 14 a (by omega)
  have e2 := ext_op w 7 d (by omega)
  unfold dec0C; rw [ext_eq w 28 4 2 (by omega)]
  show row32 w _ _ (.icltI32 (w.extractLsb' 21 7) (w.extractLsb' 14 7) (w.extractLsb' 7 3)) = _
  rw [e0, e1, e2]; exact if_pos hm

theorem RoundTrip.icleI32 (b : BitVec 7) (a : BitVec 7) (d : BitVec 3) : RoundTrip.Statement (.icleI32 b a d) := by
  intro hwf c hc
  obtain rfl := Option.some.inj hc
  have hn : (3#4 ++ b ++ a ++ 0#4 ++ d ++ 25#7 : BitVec 32).toNat = (((((3) * 2 ^ 7 + b.toNat) * 2 ^ 7 + a.toNat) * 2 ^ 4 + 0) * 2 ^ 3 + d.toNat) * 2 ^ 7 + 25 := by
    rw [app_nat, app_nat, app_nat, app_nat, app_nat]; rfl
  have hm : (3#4 ++ b ++ a ++ 0#4 ++ d ++ 25#7) &&& (15#4 ++ 0#7 ++ 0#7 ++ 15#4 ++ 0#3 ++ 127#7) = (3#4 ++ 0#7 ++ 0#7 ++ 0#4 ++ 0#3 ++ 25#7) := by
    rw [and_app, and_app, and_app, and_app, and_app]; simp only [BitVec.and_zero]; rfl
  have lb := b.isLt
  have la := a.isLt
  have ld := d.isLt
  generalize (3#4 ++ b ++ a ++ 0#4 ++ d ++ 25#7 : BitVec 32) = w at *
  replace hm : w &&& 0xF0003C7F#32 = 0x30000019#32 := hm
  show decode (Code.word w).bytes = _
  rw [decode_word w (by omega)]
  have f0 := ext_eq w 1 6 12 (by omega)
  refine decodeWord_ok w _ 12 f0 (by decide) (by decide) ?_ hwf
  unfold decode32; rw [f0]
  show dec0C w = _
  have e0 := ext_op w 21 b (by omega)
  have e1 := ext_op w 14 a (by omega)
  have e2 := ext_op w 7 d (by omega)
  unfold dec0C; rw [ext_eq w 28 4 3 (by omega)]
  show row32 w _ _ (.icleI32 (w.extractLsb' 21 7) (w.extractLsb' 14 7) (w.extractLsb' 7 3)) = _
  rw [e0, e1, e2]; exact if_pos hm

theorem RoundTrip.icgtI32 (b : BitVec 7) (a : BitVec 7) (d : BitVec 3) : RoundTrip.Statement (.icgtI32 b a d) := by
  intro hwf c hc
  obtain rfl := Option.some.inj hc
  have hn : (4#4 ++ b ++ a ++ 0#4 ++ d ++ 25#7 : BitVec 32).toNat = (((((4) * 2 ^ 7 + b.toNat) * 2 ^ 7 + a.toNat) * 2 ^ 4 + 0) * 2 ^ 3 + d.toNat) * 2 ^ 7 + 25 := by
    rw [app_nat, app_nat, app_nat, app_nat, app_nat]; rfl
  have hm : (4#4 ++ b ++ a ++ 0#4 ++ d ++ 25#7) &&& (15#4 ++ 0#7 ++ 0#7 ++ 15#4 ++ 0#3 ++ 127#7) = (4#4 ++ 0#7 ++ 0#7 ++ 0#4 ++ 0#3 ++ 25#7) := by
    rw [and_app, and_app, and_app, and_app, and_app]; simp only [BitVec.and_zero]; rfl
  have lb := b.isLt
  have la := a.isLt
  have ld := d.isLt
  generalize (4#4 ++ b ++ a ++ 0#4 ++ d ++ 25#7 : BitVec 32) = w at *
  replace hm : w &&& 0xF0003C7F#32 = 0x40000019#32 := hm
  show decode (Code.word w).bytes = _
  rw [decode_word w (by omega)]
  have f0 := ext_eq w 1 6 12 (by omega)
  refine decodeWord_ok w _ 12 f0 (by decide) (by decide) ?_ hwf
  unfold decode32; rw [f0]
  show dec0C w = _
  have e0 := ext_op w 21 b (by omega)
  have e1 := ext_op w 14 a (by omega)
  have e2 := ext_op w 7 d (by omega)
  unfold dec0C; rw [ext_eq w 28 4 4 (by omega)]
  show row32 w _ _ (.icgtI32 (w.extractLsb' 21 7) (w.extractLsb' 14 7) (w.extractLsb' 7 3)) = _
  rw [e0, e1, e2]; exact if_pos hm

theorem RoundTrip.icgeI32 (b : BitVec 7) (a : BitVec 7) (d : BitVec 3) : RoundTrip.Statement (.icgeI32 b a d) := by
  intro hwf c hc
  obtain rfl := Option.some.inj hc
  have hn : (5#4 ++ b ++ a ++ 0#4 ++ d ++ 25#7 : BitVec 32).toNat = (((((5) * 2 ^ 7 + b.toNat) * 2 ^ 7 + a.toNat) * 2 ^ 4 + 0) * 2 ^ 3 + d.toNat) * 2 ^ 7 + 25 := by
    rw [app_nat, app_nat, app_nat, app_nat, app_nat]; rfl
  have hm : (5#4 ++ b ++ a ++ 0#4 ++ d ++ 25#7) &&& (15#4 ++ 0#7 ++ 0#7 ++ 15#4 ++ 0#3 ++ 127#7) = (5#4 ++ 0#7 ++ 0#7 ++ 0#4 ++ 0#3 ++ 25#7) := by
    rw [and_app, and_app, and_app, and_app, and_app]; simp only [BitVec.and_zero]; rfl
  have lb := b.isLt
  have la := a.isLt
  have ld := d.isLt
  generalize (5#4 ++ b ++ a ++ 0#4 ++ d ++ 25#7 : BitVec 32) = w at *
  replace hm : w &&& 0xF0003C7F#32 = 0x50000019#32 := hm
  show decode (Code.word w).bytes = _
  rw [decode_word w (by omega)]
  have f0 := ext_eq w 1 6 12 (by omega)
  refine decodeWord_ok w _ 12 f0 (by decide) (by decide) ?_ hwf
  unfold decode32; rw [f0]
  show dec0C w = _
  have e0 := ext_op w 21 b (by omega)
  have e1 := ext_op w 14 a (by omega)
  have e2 := ext_op w 7 d (by omega)
  unfold dec0C; rw [ext_eq w 28 4 5 (by omega)]
  show row32 w _ _ (.icgeI32 (w.extractLsb' 21 7) (w.extractLsb' 14 7) (w.extractLsb' 7 3)) = _
  rw [e0, e1, e2]; exact if_pos hm

theorem RoundTrip.icltN32 (b : BitVec 7) (a : BitVec 7) (d : BitVec 3) : RoundTrip.Statement (.icltN32 b a d) := by
  intro hwf c hc
  obtain rfl := Option.some.inj hc
  have hn : (6#4 ++ b ++ a ++ 0#4 ++ d ++ 25#7 : BitVec 32).toNat = (((((6) * 2 ^ 7 + b.toNat) * 2 ^ 7 + a.toNat) * 2 ^ 4 + 0) * 2 ^ 3 + d.toNat) * 2 ^ 7 + 25 := by
    rw [app_nat, app_nat, app_nat, app_nat, app_nat]; rfl
  have hm : (6#4 ++ b ++ a ++ 0#4 ++ d ++ 25#7) &&& (15#4 ++ 0#7 ++ 0#7 ++ 15#4 ++ 0#3 ++ 127#7) = (6#4 ++ 0#7 ++ 0#7 ++ 0#4 ++ 0#3 ++ 25#7) := by
    rw [and_app, and_app, and_app, and_app, and_app]; simp only [BitVec.and_zero]; rfl
  have lb := b.isLt
  have la := a.isLt
  have ld := d.isLt
  generalize (6#4 ++ b ++ a ++ 0#4 ++ d ++ 25#7 : BitVec 32) = w at *
  replace hm : w &&& 0xF0003C7F#32 = 0x60000019#32 := hm
  show decode (Code.word w).bytes = _
  rw [decode_word w (by omega)]
  have f0 := ext_eq w 1 6 12 (by omega)
  refine decodeWord_ok w _ 12 f0 (by decide) (by decide) ?_ hwf
  unfold decode32; rw [f0]
  show dec0C w = _
  have e0 := ext_op w 21 b (by omega)
  have e1 := ext_op w 14 a (by omega)
  have e2 := ext_op w 7 d (by omega)
  unfold dec0C; rw [ext_eq w 28 4 6 (by omega)]
  show row32 w _ _ (.icltN32 (w.extractLsb' 21 7) (w.extractLsb' 14 7) (w.extractLsb' 7 3)) = _
  rw [e0, e1, e2]; exact if_pos hm

theorem RoundTrip.icleN32 (b : BitVec 7) (a : BitVec 7) (d : BitVec 3) : RoundTrip.Statement (.icleN32 b a d) := by
  intro hwf c hc
  obtain rfl := Option.some.inj hc
  have hn : (7#4 ++ b ++ a ++ 0#4 ++ d ++ 25#7 : BitVec 32).toNat = (((((7) * 2 ^ 7 + b.toNat) * 2 ^ 7 + a.toNat) * 2 ^ 4 + 0) * 2 ^ 3 + d.toNat) * 2 ^ 7 + 25 := by
    rw [app_nat, app_nat, app_nat, app_nat, app_nat]; rfl
  have hm : (7#4 ++ b ++ a ++ 0#4 ++ d ++ 25#7) &&& (15#4 ++ 0#7 ++ 0#7 ++ 15#4 ++ 0#3 ++ 127#7) = (7#4 ++ 0#7 ++ 0#7 ++ 0#4 ++ 0#3 ++ 25#7) := by
    rw [and_app, and_app, and_app, and_app, and_app]; simp only [BitVec.and_zero]; rfl
  have lb := b.isLt
  have la := a.isLt
  have ld := d.isLt
  generalize (7#4 ++ b ++ a ++ 0#4 ++ d ++ 25#7 : BitVec 32) = w at *
  replace hm : w &&& 0xF0003C7F#32 = 0x70000019#32 := hm
  show decode (Code.word w).bytes = _
  rw [decode_word w (by omega)]
  have f0 := ext_eq w 1 6 12 (by omega)
  refine decodeWord_ok w _ 12 f0 (by decide) (by decide) ?_ hwf
  unfold decode32; rw [f0]
  show dec0C w = _
  have e0 := ext_op w 21 b (by omega)
  have e1 := ext_op w 14 a (by omega)
  have e2 := ext_op w 7 d (by omega)
  unfold dec0C; rw [ext_eq w 28 4 7 (by omega)]
  show row32 w _ _ (.icleN32 (w.extractLsb' 21 7) (w.extractLsb' 14 7) (w.extractLsb' 7 3)) = _
  rw [e0, e1, e2]; exact if_pos hm

theorem RoundTrip.icgtN32 (b : BitVec 7) (a : BitVec 7) (d : BitVec 3) : RoundTrip.Statement (.icgtN32 b a d) := by
  intro hwf c hc
  obtain rfl := Option.some.inj hc
  have hn : (8#4 ++ b ++ a ++ 0#4 ++ d ++ 25#7 : BitVec 32).toNat = (((((8) * 2 ^ 7 + b.toNat) * 2 ^ 7 + a.toNat) * 2 ^ 4 + 0) * 2 ^ 3 + d.toNat) * 2 ^ 7 + 25 := by
    rw [app_nat, app_nat, app_nat, app_nat, app_nat]; rfl
  have hm : (8#4 ++ b ++ a ++ 0#4 ++ d ++ 25#7) &&& (15#4 ++ 0#7 ++ 0#7 ++ 15#4 ++ 0#3 ++ 127#7) = (8#4 ++ 0#7 ++ 0#7 ++ 0#4 ++ 0#3 ++ 25#7) := by
    rw [and_app, and_app, and_app, and_app, and_app]; simp only [BitVec.and_zero]; rfl
  have lb := b.isLt
  have la := a.isLt
  have ld := d.isLt
  generalize (8#4 ++ b ++ a ++ 0#4 ++ d ++ 25#7 : BitVec 32) = w at *
  replace hm : w &&& 0xF0003C7F#32 = 0x80000019#32 := hm
  show decode (Code.word w).bytes = _
  rw [decode_word w (by omega)]
  have f0 := ext_eq w 1 6 12 (by omega)
  refine decodeWord_ok w _ 12 f0 (by decide) (by decide) ?_ hwf
  unfold decode32; rw [f0]
  show dec0C w = _
  have e0 := ext_op w 21 b (by omega)
  have e1 := ext_op w 14 a (by omega)
  have e2 := ext_op w 7 d (by omega)
  unfold dec0C; rw [ext_eq w 28 4 8 (by omega)]
  show row32 w _ _ (.icgtN32 (w.extractLsb' 21 7) (w.extractLsb' 14 7) (w.extractLsb' 7 3)) = _
  rw [e0, e1, e2]; exact if_pos hm

theorem RoundTrip.icgeN32 (b : BitVec 7) (a : BitVec 7) (d : BitVec 3) : RoundTrip.Statement (.icgeN32 b a d) := by
  intro hwf c hc
  obtain rfl := Option.some.inj hc
  have hn : (9#4 ++ b ++ a ++ 0#4 ++ d ++ 25#7 : BitVec 32).toNat = (((((9) * 2 ^ 7 + b.toNat) * 2 ^ 7 + a.toNat) * 2 ^ 4 + 0) * 2 ^ 3 + d.toNat) * 2 ^ 7 + 25 := by
    rw [app_nat, app_nat, app_nat, app_nat, app_nat]; rfl
  have hm : (9#4 ++ b ++ a ++ 0#4 ++ d ++ 25#7) &&& (15#4 ++ 0#7 ++ 0#7 ++ 15#4 ++ 0#3 ++ 127#7) = (9#4 ++ 0#7 ++ 0#7 ++ 0#4 ++ 0#3 ++ 25#7) := by
    rw [and_app, and_app, and_app, and_app, and_app]; simp only [BitVec.and_zero]; rfl
  have lb := b.isLt
  have la := a.isLt
  have ld := d.isLt
  generalize (9#4 ++ b ++ a ++ 0#4 ++ d ++ 25#7 : BitVec 32) = w at *
  replace hm : w &&& 0xF0003C7F#32 = 0x90000019#32 := hm
  show decode (Code.word w).bytes = _
  rw [decode_word w (by omega)]
  have f0 := ext_eq w 1 6 12 (by omega)
  refine decodeWord_ok w _ 12 f0 (by decide) (by decide) ?_ hwf
  unfold decode32; rw [f0]
  show dec0C w = _
  have e0 := ext_op w 21 b (by omega)
  have e1 := ext_op w 14 a (by omega)
  have e2 := ext_op w 7 d (by omega)
  unfold dec0C; rw [ext_eq w 28 4 9 (by omega)]
  show row32 w _ _ (.icgeN32 (w.extractLsb' 21 7) (w.extractLsb' 14 7) (w.extractLsb' 7 3)) = _
  rw [e0, e1, e2]; exact if_pos hm

theorem RoundTrip.ictstB32 (b : BitVec 7) (a : BitVec 7) (d : BitVec 3) : RoundTrip.Statement (.ictstB32 b a d) := by
  intro hwf c hc
  obtain rfl := Option.some.inj hc
  have hn : (10#4 ++ b ++ a ++ 0#4 ++ d ++ 25#7 : BitVec 32).toNat = (((((10) * 2 ^ 7 + b.toNat) * 2 ^ 7 + a.toNat) * 2 ^ 4 + 0) * 2 ^ 3 + d.toNat) * 2 ^ 7 + 25 := by
    rw [app_nat, app_nat, app_nat, app_nat, app_nat]; rfl
  have hm : (10#4 ++ b ++ a ++ 0#4 ++ d ++ 25#7) &&& (15#4 ++ 0#7 ++ 0#7 ++ 15#4 ++ 0#3 ++ 127#7) = (10#4 ++ 0#7 ++ 0#7 ++ 0#4 ++ 0#3 ++ 25#7) := by
    rw [and_app, and_app, and_app, and_app, and_app]; simp only [BitVec.and_zero]; rfl
  have lb := b.isLt
  have la := a.isLt
  have ld := d.isLt
  generalize (10#4 ++ b ++ a ++ 0#4 ++ d ++ 25#7 : BitVec 32) = w at *
  replace hm : w &&& 0xF0003C7F#32 = 0xA0000019#32 := hm
  show decode (Code.word w).bytes = _
  rw [decode_word w (by omega)]
  have f0 := ext_eq w 1 6 12 (by omega)
  refine decodeWord_ok w _ 12 f0 (by decide) (by decide) ?_ hwf
  unfold decode32; rw [f0]
  show dec0C w = _
  have e0 := ext_op w 21 b (by omega)
  have e1 := ext_op w 14 a (by omega)
  have e2 := ext_op w 7 d (by omega)
  unfold dec0C; rw [ext_eq w 28 4 10 (by omega)]
  show row32 w _ _ (.ictstB32 (w.extractLsb' 21 7) (w.extractLsb' 14 7) (w.extractLsb' 7 3)) = _
  rw [e0, e1, e2]; exact if_pos hm

theorem RoundTrip.selB32 (n : BitVec 3) (b : BitVec 7) (a : BitVec 7) (d : BitVec 7) : RoundTrip.Statement (.selB32 n b a d) := by
  intro hwf c hc
  obtain rfl := Option.some.inj hc
  have hn : (0#1 ++ n ++ b ++ a ++ d ++ 27#7 : BitVec 32).toNat = (((((0) * 2 ^ 3 + n.toNat) * 2 ^ 7 + b.toNat) * 2 ^ 7 + a.toNat) * 2 ^ 7 + d.toNat) * 2 ^ 7 + 27 := by
    rw [app_nat, app_nat, app_nat, app_nat, app_nat]; rfl
  have hm : (0#1 ++ n ++ b ++ a ++ d ++ 27#7) &&& (1#1 ++ 0#3 ++ 0#7 ++ 0#7 ++ 0#7 ++ 127#7) = (0#1 ++ 0#3 ++ 0#7 ++ 0#7 ++ 0#7 ++ 27#7) := by
    rw [and_app, and_app, and_app, and_app, and_app]; simp only [BitVec.and_zero]; rfl
  have ln := n.isLt
  have lb := b.isLt
  have la := a.isLt
  have ld := d.isLt
  generalize (0#1 ++ n ++ b ++ a ++ d ++ 27#7 : BitVec 32) = w at *
  replace hm : w &&& 0x8000007F#32 = 0x0000001B#32 := hm
  show decode (Code.word w).bytes = _
  rw [decode_word w (by omega)]
  have f0 := ext_eq w 1 6 13 (by omega)
  refine decodeWord_ok w _ 13 f0 (by decide) (by decide) ?_ hwf
  unfold decode32; rw [f0]
  show dec0D w = _
  have e0 := ext_op w 28 n (by omega)
  have e1 := ext_op w 21 b (by omega)
  have e2 := ext_op w 14 a (by omega)
  have e3 := ext_op w 7 d (by omega)
  have hk : w.toNat / 2 ^ 28 % 2 ^ 4 = 0 ∨ w.toNat / 2 ^ 28 % 2 ^ 4 = 1 ∨ w.toNat / 2 ^ 28 % 2 ^ 4 = 2 ∨ w.toNat / 2 ^ 28 % 2 ^ 4 = 3 ∨ w.toNat / 2 ^ 28 % 2 ^ 4 = 4 ∨ w.toNat / 2 ^ 28 % 2 ^ 4 = 5 ∨ w.toNat / 2 ^ 28 % 2 ^ 4 = 6 ∨ w.toNat / 2 ^ 28 % 2 ^ 4 = 7 := by omega
  unfold dec0D; rcases hk with hk | hk | hk | hk | hk | hk | hk | hk <;>
    (rw [ext_eq w 28 4 _ hk]; show row32 w _ _ (.selB32 (w.extractLsb' 28 3) (w.extractLsb' 21 7) (w.extractLsb' 14 7) (w.extractLsb' 7 7)) = _; rw [e0, e1, e2, e3]; exact if_pos hm)

theorem RoundTrip.pand (b : BitVec 3) (a : BitVec 3) (d : BitVec 3) : RoundTrip.Statement (.pand b a d) := by
  intro hwf c hc
  obtain rfl := Option.some.inj hc
  have hn : (128#8 ++ b ++ 0#4 ++ a ++ 0#4 ++ d ++ 27#7 : BitVec 32).toNat = ((((((128) * 2 ^ 3 + b.toNat) * 2 ^ 4 + 0) * 2 ^ 3 + a.toNat) * 2 ^ 4 + 0) * 2 ^ 3 + d.toNat) * 2 ^ 7 + 27 := by
    rw [app_nat, app_nat, app_nat, app_nat, app_nat, app_nat]; rfl
  have hm : (128#8 ++ b ++ 0#4 ++ a ++ 0#4 ++ d ++ 27#7) &&& (255#8 ++ 0#3 ++ 15#4 ++ 0#3 ++ 15#4 ++ 0#3 ++ 127#7) = (128#8 ++ 0#3 ++ 0#4 ++ 0#3 ++ 0#4 ++ 0#3 ++ 27#7) := by
    rw [and_app, and_app, and_app, and_app, and_app, and_app]; simp only [BitVec.and_zero]; rfl
  have lb := b.isLt
  have la := a.isLt
  have ld := d.isLt
  generalize (128#8 ++ b ++ 0#4 ++ a ++ 0#4 ++ d ++ 27#7 : BitVec 32) = w at *
  replace hm : w &&& 0xFF1E3C7F#32 = 0x8000001B#32 := hm
  show decode (Code.word w).bytes = _
  rw [decode_word w (by omega)]
  have f0 := ext_eq w 1 6 13 (by omega)
  refine decodeWord_ok w _ 13 f0 (by decide) (by decide) ?_ hwf
  unfold decode32; rw [f0]
  show dec0D w = _
  have e0 := ext_op w 21 b (by omega)
  have e1 := ext_op w 14 a (by omega)
  have e2 := ext_op w 7 d (by omega)
  unfold dec0D; rw [ext_eq w 28 4 8 (by omega)]
  show row32 w _ _ (.pand (w.extractLsb' 21 3) (w.extractLsb' 14 3) (w.extractLsb' 7 3)) = _
  rw [e0, e1, e2]; exact if_pos hm

theorem RoundTrip.por (b : BitVec 3) (a : BitVec 3) (d : BitVec 3) : RoundTrip.Statement (.por b a d) := by
  intro hwf c hc
  obtain rfl := Option.some.inj hc
  have hn : (144#8 ++ b ++ 0#4 ++ a ++ 0#4 ++ d ++ 27#7 : BitVec 32).toNat = ((((((144) * 2 ^ 3 + b.toNat) * 2 ^ 4 + 0) * 2 ^ 3 + a.toNat) * 2 ^ 4 + 0) * 2 ^ 3 + d.toNat) * 2 ^ 7 + 27 := by
    rw [app_nat, app_nat, app_nat, app_nat, app_nat, app_nat]; rfl
  have hm : (144#8 ++ b ++ 0#4 ++ a ++ 0#4 ++ d ++ 27#7) &&& (255#8 ++ 0#3 ++ 15#4 ++ 0#3 ++ 15#4 ++ 0#3 ++ 127#7) = (144#8 ++ 0#3 ++ 0#4 ++ 0#3 ++ 0#4 ++ 0#3 ++ 27#7) := by
    rw [and_app, and_app, and_app, and_app, and_app, and_app]; simp only [BitVec.and_zero]; rfl
  have lb := b.isLt
  have la := a.isLt
  have ld := d.isLt
  generalize (144#8 ++ b ++ 0#4 ++ a ++ 0#4 ++ d ++ 27#7 : BitVec 32) = w at *
  replace hm : w &&& 0xFF1E3C7F#32 = 0x9000001B#32 := hm
  show decode (Code.word w).bytes = _
  rw [decode_word w (by omega)]
  have f0 := ext_eq w 1 6 13 (by omega)
  refine decodeWord_ok w _ 13 f0 (by decide) (by decide) ?_ hwf
  unfold decode32; rw [f0]
  show dec0D w = _
  have e0 := ext_op w 21 b (by omega)
  have e1 := ext_op w 14 a (by omega)
  have e2 := ext_op w 7 d (by omega)
  unfold dec0D; rw [ext_eq w 28 4 9 (by omega)]
  show row32 w _ _ (.por (w.extractLsb' 21 3) (w.extractLsb' 14 3) (w.extractLsb' 7 3)) = _
  rw [e0, e1, e2]; exact if_pos hm

theorem RoundTrip.pxor (b : BitVec 3) (a : BitVec 3) (d : BitVec 3) : RoundTrip.Statement (.pxor b a d) := by
  intro hwf c hc
  obtain rfl := Option.some.inj hc
  have hn : (160#8 ++ b ++ 0#4 ++ a ++ 0#4 ++ d ++ 27#7 : BitVec 32).toNat = ((((((160) * 2 ^ 3 + b.toNat) * 2 ^ 4 + 0) * 2 ^ 3 + a.toNat) * 2 ^ 4 + 0) * 2 ^ 3 + d.toNat) * 2 ^ 7 + 27 := by
    rw [app_nat, app_nat, app_nat, app_nat, app_nat, app_nat]; rfl
  have hm : (160#8 ++ b ++ 0#4 ++ a ++ 0#4 ++ d ++ 27#7) &&& (255#8 ++ 0#3 ++ 15#4 ++ 0#3 ++ 15#4 ++ 0#3 ++ 127#7) = (160#8 ++ 0#3 ++ 0#4 ++ 0#3 ++ 0#4 ++ 0#3 ++ 27#7) := by
    rw [and_app, and_app, and_app, and_app, and_app, and_app]; simp only [BitVec.and_zero]; rfl
  have lb := b.isLt
  have la := a.isLt
  have ld := d.isLt
  generalize (160#8 ++ b ++ 0#4 ++ a ++ 0#4 ++ d ++ 27#7 : BitVec 32) = w at *
  replace hm : w &&& 0xFF1E3C7F#32 = 0xA000001B#32 := hm
  show decode (Code.word w).bytes = _
  rw [decode_word w (by omega)]
  have f0 := ext_eq w 1 6 13 (by omega)
  refine decodeWord_ok w _ 13 f0 (by decide) (by decide) ?_ hwf
  unfold decode32; rw [f0]
  show dec0D w = _
  have e0 := ext_op w 21 b (by omega)
  have e1 := ext_op w 14 a (by omega)
  have e2 := ext_op w 7 d (by omega)
  unfold dec0D; rw [ext_eq w 28 4 10 (by omega)]
  show row32 w _ _ (.pxor (w.extractLsb' 21 3) (w.extractLsb' 14 3) (w.extractLsb' 7 3)) = _
  rw [e0, e1, e2]; exact if_pos hm

theorem RoundTrip.pandn (b : BitVec 3) (a : BitVec 3) (d : BitVec 3) : RoundTrip.Statement (.pandn b a d) := by
  intro hwf c hc
  obtain rfl := Option.some.inj hc
  have hn : (176#8 ++ b ++ 0#4 ++ a ++ 0#4 ++ d ++ 27#7 : BitVec 32).toNat = ((((((176) * 2 ^ 3 + b.toNat) * 2 ^ 4 + 0) * 2 ^ 3 + a.toNat) * 2 ^ 4 + 0) * 2 ^ 3 + d.toNat) * 2 ^ 7 + 27 := by
    rw [app_nat, app_nat, app_nat, app_nat, app_nat, app_nat]; rfl
  have hm : (176#8 ++ b ++ 0#4 ++ a ++ 0#4 ++ d ++ 27#7) &&& (255#8 ++ 0#3 ++ 15#4 ++ 0#3 ++ 15#4 ++ 0#3 ++ 127#7) = (176#8 ++ 0#3 ++ 0#4 ++ 0#3 ++ 0#4 ++ 0#3 ++ 27#7) := by
    rw [and_app, and_app, and_app, and_app, and_app, and_app]; simp only [BitVec.and_zero]; rfl
  have lb := b.isLt
  have la := a.isLt
  have ld := d.isLt
  generalize (176#8 ++ b ++ 0#4 ++ a ++ 0#4 ++ d ++ 27#7 : BitVec 32) = w at *
  replace hm : w &&& 0xFF1E3C7F#32 = 0xB000001B#32 := hm
  show decode (Code.word w).bytes = _
  rw [decode_word w (by omega)]
  have f0 := ext_eq w 1 6 13 (by omega)
  refine decodeWord_ok w _ 13 f0 (by decide) (by decide) ?_ hwf
  unfold decode32; rw [f0]
  show dec0D w = _
  have e0 := ext_op w 21 b (by omega)
  have e1 := ext_op w 14 a (by omega)
  have e2 := ext_op w 7 d (by omega)
  unfold dec0D; rw [ext_eq w 28 4 11 (by omega)]
  show row32 w _ _ (.pandn (w.extractLsb' 21 3) (w.extractLsb' 14 3) (w.extractLsb' 7 3)) = _
  rw [e0, e1, e2]; exact if_pos hm

theorem RoundTrip.pmov (a : BitVec 3) (d : BitVec 3) : RoundTrip.Statement (.pmov a d) := by
  intro hwf c hc
  obtain rfl := Option.some.inj hc
  have hn : (24576#15 ++ a ++ 0#4 ++ d ++ 27#7 : BitVec 32).toNat = ((((24576) * 2 ^ 3 + a.toNat) * 2 ^ 4 + 0) * 2 ^ 3 + d.toNat) * 2 ^ 7 + 27 := by
    rw [app_nat, app_nat, app_nat, app_nat]; rfl
  have hm : (24576#15 ++ a ++ 0#4 ++ d ++ 27#7) &&& (32767#15 ++ 0#3 ++ 15#4 ++ 0#3 ++ 127#7) = (24576#15 ++ 0#3 ++ 0#4 ++ 0#3 ++ 27#7) := by
    rw [and_app, and_app, and_app, and_app]; simp only [BitVec.and_zero]; rfl
  have la := a.isLt
  have ld := d.isLt
  generalize (24576#15 ++ a ++ 0#4 ++ d ++ 27#7 : BitVec 32) = w at *
  replace hm : w &&& 0xFFFE3C7F#32 = 0xC000001B#32 := hm
  show decode (Code.word w).bytes = _
  rw [decode_word w (by omega)]
  have f0 := ext_eq w 1 6 13 (by omega)
  refine decodeWord_ok w _ 13 f0 (by decide) (by decide) ?_ hwf
  unfold decode32; rw [f0]
  show dec0D w = _
  have e0 := ext_op w 14 a (by omega)
  have e1 := ext_op w 7 d (by omega)
  unfold dec0D; rw [ext_eq w 28 4 12 (by omega)]
  show row32 w _ _ (.pmov (w.extractLsb' 14 3) (w.extractLsb' 7 3)) = _
  rw [e0, e1]; exact if_pos hm

theorem RoundTrip.pnot (a : BitVec 3) (d : BitVec 3) : RoundTrip.Statement (.pnot a d) := by
  intro hwf c hc
  obtain rfl := Option.some.inj hc
  have hn : (26624#15 ++ a ++ 0#4 ++ d ++ 27#7 : BitVec 32).toNat = ((((26624) * 2 ^ 3 + a.toNat) * 2 ^ 4 + 0) * 2 ^ 3 + d.toNat) * 2 ^ 7 + 27 := by
    rw [app_nat, app_nat, app_nat, app_nat]; rfl
  have hm : (26624#15 ++ a ++ 0#4 ++ d ++ 27#7) &&& (32767#15 ++ 0#3 ++ 15#4 ++ 0#3 ++ 127#7) = (26624#15 ++ 0#3 ++ 0#4 ++ 0#3 ++ 27#7) := by
    rw [and_app, and_app, and_app, and_app]; simp only [BitVec.and_zero]; rfl
  have la := a.isLt
  have ld := d.isLt
  generalize (26624#15 ++ a ++ 0#4 ++ d ++ 27#7 : BitVec 32) = w at *
  replace hm : w &&& 0xFFFE3C7F#32 = 0xD000001B#32 := hm
  show decode (Code.word w).bytes = _
  rw [decode_word w (by omega)]
  have f0 := ext_eq w 1 6 13 (by omega)
  refine decodeWord_ok w _ 13 f0 (by decide) (by decide) ?_ hwf
  unfold decode32; rw [f0]
  show dec0D w = _
  have e0 := ext_op w 14 a (by omega)
  have e1 := ext_op w 7 d (by omega)
  unfold dec0D; rw [ext_eq w 28 4 13 (by omega)]
  show row32 w _ _ (.pnot (w.extractLsb' 14 3) (w.extractLsb' 7 3)) = _
  rw [e0, e1]; exact if_pos hm

theorem RoundTrip.vtop (a : BitVec 7) (d : BitVec 3) : RoundTrip.Statement (.vtop a d) := by
  intro hwf c hc
  obtain rfl := Option.some.inj hc
  have hn : (1792#11 ++ a ++ 0#4 ++ d ++ 27#7 : BitVec 32).toNat = ((((1792) * 2 ^ 7 + a.toNat) * 2 ^ 4 + 0) * 2 ^ 3 + d.toNat) * 2 ^ 7 + 27 := by
    rw [app_nat, app_nat, app_nat, app_nat]; rfl
  have hm : (1792#11 ++ a ++ 0#4 ++ d ++ 27#7) &&& (2047#11 ++ 0#7 ++ 15#4 ++ 0#3 ++ 127#7) = (1792#11 ++ 0#7 ++ 0#4 ++ 0#3 ++ 27#7) := by
    rw [and_app, and_app, and_app, and_app]; simp only [BitVec.and_zero]; rfl
  have la := a.isLt
  have ld := d.isLt
  generalize (1792#11 ++ a ++ 0#4 ++ d ++ 27#7 : BitVec 32) = w at *
  replace hm : w &&& 0xFFE03C7F#32 = 0xE000001B#32 := hm
  show decode (Code.word w).bytes = _
  rw [decode_word w (by omega)]
  have f0 := ext_eq w 1 6 13 (by omega)
  refine decodeWord_ok w _ 13 f0 (by decide) (by decide) ?_ hwf
  unfold decode32; rw [f0]
  show dec0D w = _
  have e0 := ext_op w 14 a (by omega)
  have e1 := ext_op w 7 d (by omega)
  unfold dec0D; rw [ext_eq w 28 4 14 (by omega)]
  show row32 w _ _ (.vtop (w.extractLsb' 14 7) (w.extractLsb' 7 3)) = _
  rw [e0, e1]; exact if_pos hm

theorem RoundTrip.ptov (a : BitVec 3) (d : BitVec 7) : RoundTrip.Statement (.ptov a d) := by
  intro hwf c hc
  obtain rfl := Option.some.inj hc
  have hn : (30720#15 ++ a ++ d ++ 27#7 : BitVec 32).toNat = (((30720) * 2 ^ 3 + a.toNat) * 2 ^ 7 + d.toNat) * 2 ^ 7 + 27 := by
    rw [app_nat, app_nat, app_nat]; rfl
  have hm : (30720#15 ++ a ++ d ++ 27#7) &&& (32767#15 ++ 0#3 ++ 0#7 ++ 127#7) = (30720#15 ++ 0#3 ++ 0#7 ++ 27#7) := by
    rw [and_app, and_app, and_app]; simp only [BitVec.and_zero]; rfl
  have la := a.isLt
  have ld := d.isLt
  generalize (30720#15 ++ a ++ d ++ 27#7 : BitVec 32) = w at *
  replace hm : w &&& 0xFFFE007F#32 = 0xF000001B#32 := hm
  show decode (Code.word w).bytes = _
  rw [decode_word w (by omega)]
  have f0 := ext_eq w 1 6 13 (by omega)
  refine decodeWord_ok w _ 13 f0 (by decide) (by decide) ?_ hwf
  unfold decode32; rw [f0]
  show dec0D w = _
  have e0 := ext_op w 14 a (by omega)
  have e1 := ext_op w 7 d (by omega)
  unfold dec0D; rw [ext_eq w 28 4 15 (by omega)]
  show row32 w _ _ (.ptov (w.extractLsb' 14 3) (w.extractLsb' 7 7)) = _
  rw [e0, e1]; exact if_pos hm

theorem RoundTrip.cvt (s : BitVec 4) (t : BitVec 4) (r : BitVec 2) (a : BitVec 7) (d : BitVec 7) : RoundTrip.Statement (.cvt s t r a d) := by
  intro hwf c hc
  obtain rfl := Option.some.inj hc
  have hn : (s ++ t ++ 0#1 ++ r ++ a ++ d ++ 29#7 : BitVec 32).toNat = ((((((s.toNat) * 2 ^ 4 + t.toNat) * 2 ^ 1 + 0) * 2 ^ 2 + r.toNat) * 2 ^ 7 + a.toNat) * 2 ^ 7 + d.toNat) * 2 ^ 7 + 29 := by
    rw [app_nat, app_nat, app_nat, app_nat, app_nat, app_nat]; rfl
  have hm : (s ++ t ++ 0#1 ++ r ++ a ++ d ++ 29#7) &&& (0#4 ++ 0#4 ++ 1#1 ++ 0#2 ++ 0#7 ++ 0#7 ++ 127#7) = (0#4 ++ 0#4 ++ 0#1 ++ 0#2 ++ 0#7 ++ 0#7 ++ 29#7) := by
    rw [and_app, and_app, and_app, and_app, and_app, and_app]; simp only [BitVec.and_zero]; rfl
  have ls := s.isLt
  have lt := t.isLt
  have lr := r.isLt
  have la := a.isLt
  have ld := d.isLt
  generalize (s ++ t ++ 0#1 ++ r ++ a ++ d ++ 29#7 : BitVec 32) = w at *
  replace hm : w &&& 0x0080007F#32 = 0x0000001D#32 := hm
  show decode (Code.word w).bytes = _
  rw [decode_word w (by omega)]
  have f0 := ext_eq w 1 6 14 (by omega)
  refine decodeWord_ok w _ 14 f0 (by decide) (by decide) ?_ hwf
  unfold decode32; rw [f0]
  show dec0E w = _
  have e0 := ext_op w 28 s (by omega)
  have e1 := ext_op w 24 t (by omega)
  have e2 := ext_op w 21 r (by omega)
  have e3 := ext_op w 14 a (by omega)
  have e4 := ext_op w 7 d (by omega)
  show row32 w _ _ (.cvt (w.extractLsb' 28 4) (w.extractLsb' 24 4) (w.extractLsb' 21 2) (w.extractLsb' 14 7) (w.extractLsb' 7 7)) = _
  rw [e0, e1, e2, e3, e4]; exact if_pos hm

theorem RoundTrip.pack2B16 (b : BitVec 7) (a : BitVec 7) (d : BitVec 7) : RoundTrip.Statement (.pack2B16 b a d) := by
  intro hwf c hc
  obtain rfl := Option.some.inj hc
  have hn : (0#4 ++ b ++ a ++ d ++ 31#7 : BitVec 32).toNat = ((((0) * 2 ^ 7 + b.toNat) * 2 ^ 7 + a.toNat) * 2 ^ 7 + d.toNat) * 2 ^ 7 + 31 := by
    rw [app_nat, app_nat, app_nat, app_nat]; rfl
  have hm : (0#4 ++ b ++ a ++ d ++ 31#7) &&& (15#4 ++ 0#7 ++ 0#7 ++ 0#7 ++ 127#7) = (0#4 ++ 0#7 ++ 0#7 ++ 0#7 ++ 31#7) := by
    rw [and_app, and_app, and_app, and_app]; simp only [BitVec.and_zero]; rfl
  have lb := b.isLt
  have la := a.isLt
  have ld := d.isLt
  generalize (0#4 ++ b ++ a ++ d ++ 31#7 : BitVec 32) = w at *
  replace hm : w &&& 0xF000007F#32 = 0x0000001F#32 := hm
  show decode (Code.word w).bytes = _
  rw [decode_word w (by omega)]
  have f0 := ext_eq w 1 6 15 (by omega)
  refine decodeWord_ok w _ 15 f0 (by decide) (by decide) ?_ hwf
  unfold decode32; rw [f0]
  show dec0F w = _
  have e0 := ext_op w 21 b (by omega)
  have e1 := ext_op w 14 a (by omega)
  have e2 := ext_op w 7 d (by omega)
  unfold dec0F; rw [ext_eq w 28 4 0 (by omega)]
  show row32 w _ _ (.pack2B16 (w.extractLsb' 21 7) (w.extractLsb' 14 7) (w.extractLsb' 7 7)) = _
  rw [e0, e1, e2]; exact if_pos hm

theorem RoundTrip.pack2B8 (b : BitVec 7) (a : BitVec 7) (d : BitVec 7) : RoundTrip.Statement (.pack2B8 b a d) := by
  intro hwf c hc
  obtain rfl := Option.some.inj hc
  have hn : (1#4 ++ b ++ a ++ d ++ 31#7 : BitVec 32).toNat = ((((1) * 2 ^ 7 + b.toNat) * 2 ^ 7 + a.toNat) * 2 ^ 7 + d.toNat) * 2 ^ 7 + 31 := by
    rw [app_nat, app_nat, app_nat, app_nat]; rfl
  have hm : (1#4 ++ b ++ a ++ d ++ 31#7) &&& (15#4 ++ 0#7 ++ 0#7 ++ 0#7 ++ 127#7) = (1#4 ++ 0#7 ++ 0#7 ++ 0#7 ++ 31#7) := by
    rw [and_app, and_app, and_app, and_app]; simp only [BitVec.and_zero]; rfl
  have lb := b.isLt
  have la := a.isLt
  have ld := d.isLt
  generalize (1#4 ++ b ++ a ++ d ++ 31#7 : BitVec 32) = w at *
  replace hm : w &&& 0xF000007F#32 = 0x1000001F#32 := hm
  show decode (Code.word w).bytes = _
  rw [decode_word w (by omega)]
  have f0 := ext_eq w 1 6 15 (by omega)
  refine decodeWord_ok w _ 15 f0 (by decide) (by decide) ?_ hwf
  unfold decode32; rw [f0]
  show dec0F w = _
  have e0 := ext_op w 21 b (by omega)
  have e1 := ext_op w 14 a (by omega)
  have e2 := ext_op w 7 d (by omega)
  unfold dec0F; rw [ext_eq w 28 4 1 (by omega)]
  show row32 w _ _ (.pack2B8 (w.extractLsb' 21 7) (w.extractLsb' 14 7) (w.extractLsb' 7 7)) = _
  rw [e0, e1, e2]; exact if_pos hm

theorem RoundTrip.pack2hB8 (b : BitVec 7) (a : BitVec 7) (d : BitVec 7) : RoundTrip.Statement (.pack2hB8 b a d) := by
  intro hwf c hc
  obtain rfl := Option.some.inj hc
  have hn : (2#4 ++ b ++ a ++ d ++ 31#7 : BitVec 32).toNat = ((((2) * 2 ^ 7 + b.toNat) * 2 ^ 7 + a.toNat) * 2 ^ 7 + d.toNat) * 2 ^ 7 + 31 := by
    rw [app_nat, app_nat, app_nat, app_nat]; rfl
  have hm : (2#4 ++ b ++ a ++ d ++ 31#7) &&& (15#4 ++ 0#7 ++ 0#7 ++ 0#7 ++ 127#7) = (2#4 ++ 0#7 ++ 0#7 ++ 0#7 ++ 31#7) := by
    rw [and_app, and_app, and_app, and_app]; simp only [BitVec.and_zero]; rfl
  have lb := b.isLt
  have la := a.isLt
  have ld := d.isLt
  generalize (2#4 ++ b ++ a ++ d ++ 31#7 : BitVec 32) = w at *
  replace hm : w &&& 0xF000007F#32 = 0x2000001F#32 := hm
  show decode (Code.word w).bytes = _
  rw [decode_word w (by omega)]
  have f0 := ext_eq w 1 6 15 (by omega)
  refine decodeWord_ok w _ 15 f0 (by decide) (by decide) ?_ hwf
  unfold decode32; rw [f0]
  show dec0F w = _
  have e0 := ext_op w 21 b (by omega)
  have e1 := ext_op w 14 a (by omega)
  have e2 := ext_op w 7 d (by omega)
  unfold dec0F; rw [ext_eq w 28 4 2 (by omega)]
  show row32 w _ _ (.pack2hB8 (w.extractLsb' 21 7) (w.extractLsb' 14 7) (w.extractLsb' 7 7)) = _
  rw [e0, e1, e2]; exact if_pos hm

theorem RoundTrip.extN16 (b : BitVec 7) (a : BitVec 7) (d : BitVec 7) : RoundTrip.Statement (.extN16 b a d) := by
  intro hwf c hc
  obtain rfl := Option.some.inj hc
  have hn : (3#4 ++ b ++ a ++ d ++ 31#7 : BitVec 32).toNat = ((((3) * 2 ^ 7 + b.toNat) * 2 ^ 7 + a.toNat) * 2 ^ 7 + d.toNat) * 2 ^ 7 + 31 := by
    rw [app_nat, app_nat, app_nat, app_nat]; rfl
  have hm : (3#4 ++ b ++ a ++ d ++ 31#7) &&& (15#4 ++ 0#7 ++ 0#7 ++ 0#7 ++ 127#7) = (3#4 ++ 0#7 ++ 0#7 ++ 0#7 ++ 31#7) := by
    rw [and_app, and_app, and_app, and_app]; simp only [BitVec.and_zero]; rfl
  have lb := b.isLt
  have la := a.isLt
  have ld := d.isLt
  generalize (3#4 ++ b ++ a ++ d ++ 31#7 : BitVec 32) = w at *
  replace hm : w &&& 0xF000007F#32 = 0x3000001F#32 := hm
  show decode (Code.word w).bytes = _
  rw [decode_word w (by omega)]
  have f0 := ext_eq w 1 6 15 (by omega)
  refine decodeWord_ok w _ 15 f0 (by decide) (by decide) ?_ hwf
  unfold decode32; rw [f0]
  show dec0F w = _
  have e0 := ext_op w 21 b (by omega)
  have e1 := ext_op w 14 a (by omega)
  have e2 := ext_op w 7 d (by omega)
  unfold dec0F; rw [ext_eq w 28 4 3 (by omega)]
  show row32 w _ _ (.extN16 (w.extractLsb' 21 7) (w.extractLsb' 14 7) (w.extractLsb' 7 7)) = _
  rw [e0, e1, e2]; exact if_pos hm

theorem RoundTrip.extI16 (b : BitVec 7) (a : BitVec 7) (d : BitVec 7) : RoundTrip.Statement (.extI16 b a d) := by
  intro hwf c hc
  obtain rfl := Option.some.inj hc
  have hn : (4#4 ++ b ++ a ++ d ++ 31#7 : BitVec 32).toNat = ((((4) * 2 ^ 7 + b.toNat) * 2 ^ 7 + a.toNat) * 2 ^ 7 + d.toNat) * 2 ^ 7 + 31 := by
    rw [app_nat, app_nat, app_nat, app_nat]; rfl
  have hm : (4#4 ++ b ++ a ++ d ++ 31#7) &&& (15#4 ++ 0#7 ++ 0#7 ++ 0#7 ++ 127#7) = (4#4 ++ 0#7 ++ 0#7 ++ 0#7 ++ 31#7) := by
    rw [and_app, and_app, and_app, and_app]; simp only [BitVec.and_zero]; rfl
  have lb := b.isLt
  have la := a.isLt
  have ld := d.isLt
  generalize (4#4 ++ b ++ a ++ d ++ 31#7 : BitVec 32) = w at *
  replace hm : w &&& 0xF000007F#32 = 0x4000001F#32 := hm
  show decode (Code.word w).bytes = _
  rw [decode_word w (by omega)]
  have f0 := ext_eq w 1 6 15 (by omega)
  refine decodeWord_ok w _ 15 f0 (by decide) (by decide) ?_ hwf
  unfold decode32; rw [f0]
  show dec0F w = _
  have e0 := ext_op w 21 b (by omega)
  have e1 := ext_op w 14 a (by omega)
  have e2 := ext_op w 7 d (by omega)
  unfold dec0F; rw [ext_eq w 28 4 4 (by omega)]
  show row32 w _ _ (.extI16 (w.extractLsb' 21 7) (w.extractLsb' 14 7) (w.extractLsb' 7 7)) = _
  rw [e0, e1, e2]; exact if_pos hm

theorem RoundTrip.extN8 (b : BitVec 7) (a : BitVec 7) (d : BitVec 7) : RoundTrip.Statement (.extN8 b a d) := by
  intro hwf c hc
  obtain rfl := Option.some.inj hc
  have hn : (5#4 ++ b ++ a ++ d ++ 31#7 : BitVec 32).toNat = ((((5) * 2 ^ 7 + b.toNat) * 2 ^ 7 + a.toNat) * 2 ^ 7 + d.toNat) * 2 ^ 7 + 31 := by
    rw [app_nat, app_nat, app_nat, app_nat]; rfl
  have hm : (5#4 ++ b ++ a ++ d ++ 31#7) &&& (15#4 ++ 0#7 ++ 0#7 ++ 0#7 ++ 127#7) = (5#4 ++ 0#7 ++ 0#7 ++ 0#7 ++ 31#7) := by
    rw [and_app, and_app, and_app, and_app]; simp only [BitVec.and_zero]; rfl
  have lb := b.isLt
  have la := a.isLt
  have ld := d.isLt
  generalize (5#4 ++ b ++ a ++ d ++ 31#7 : BitVec 32) = w at *
  replace hm : w &&& 0xF000007F#32 = 0x5000001F#32 := hm
  show decode (Code.word w).bytes = _
  rw [decode_word w (by omega)]
  have f0 := ext_eq w 1 6 15 (by omega)
  refine decodeWord_ok w _ 15 f0 (by decide) (by decide) ?_ hwf
  unfold decode32; rw [f0]
  show dec0F w = _
  have e0 := ext_op w 21 b (by omega)
  have e1 := ext_op w 14 a (by omega)
  have e2 := ext_op w 7 d (by omega)
  unfold dec0F; rw [ext_eq w 28 4 5 (by omega)]
  show row32 w _ _ (.extN8 (w.extractLsb' 21 7) (w.extractLsb' 14 7) (w.extractLsb' 7 7)) = _
  rw [e0, e1, e2]; exact if_pos hm

theorem RoundTrip.extI8 (b : BitVec 7) (a : BitVec 7) (d : BitVec 7) : RoundTrip.Statement (.extI8 b a d) := by
  intro hwf c hc
  obtain rfl := Option.some.inj hc
  have hn : (6#4 ++ b ++ a ++ d ++ 31#7 : BitVec 32).toNat = ((((6) * 2 ^ 7 + b.toNat) * 2 ^ 7 + a.toNat) * 2 ^ 7 + d.toNat) * 2 ^ 7 + 31 := by
    rw [app_nat, app_nat, app_nat, app_nat]; rfl
  have hm : (6#4 ++ b ++ a ++ d ++ 31#7) &&& (15#4 ++ 0#7 ++ 0#7 ++ 0#7 ++ 127#7) = (6#4 ++ 0#7 ++ 0#7 ++ 0#7 ++ 31#7) := by
    rw [and_app, and_app, and_app, and_app]; simp only [BitVec.and_zero]; rfl
  have lb := b.isLt
  have la := a.isLt
  have ld := d.isLt
  generalize (6#4 ++ b ++ a ++ d ++ 31#7 : BitVec 32) = w at *
  replace hm : w &&& 0xF000007F#32 = 0x6000001F#32 := hm
  show decode (Code.word w).bytes = _
  rw [decode_word w (by omega)]
  have f0 := ext_eq w 1 6 15 (by omega)
  refine decodeWord_ok w _ 15 f0 (by decide) (by decide) ?_ hwf
  unfold decode32; rw [f0]
  show dec0F w = _
  have e0 := ext_op w 21 b (by omega)
  have e1 := ext_op w 14 a (by omega)
  have e2 := ext_op w 7 d (by omega)
  unfold dec0F; rw [ext_eq w 28 4 6 (by omega)]
  show row32 w _ _ (.extI8 (w.extractLsb' 21 7) (w.extractLsb' 14 7) (w.extractLsb' 7 7)) = _
  rw [e0, e1, e2]; exact if_pos hm

theorem RoundTrip.bfxN32 (b : BitVec 7) (a : BitVec 7) (d : BitVec 7) : RoundTrip.Statement (.bfxN32 b a d) := by
  intro hwf c hc
  obtain rfl := Option.some.inj hc
  have hn : (7#4 ++ b ++ a ++ d ++ 31#7 : BitVec 32).toNat = ((((7) * 2 ^ 7 + b.toNat) * 2 ^ 7 + a.toNat) * 2 ^ 7 + d.toNat) * 2 ^ 7 + 31 := by
    rw [app_nat, app_nat, app_nat, app_nat]; rfl
  have hm : (7#4 ++ b ++ a ++ d ++ 31#7) &&& (15#4 ++ 0#7 ++ 0#7 ++ 0#7 ++ 127#7) = (7#4 ++ 0#7 ++ 0#7 ++ 0#7 ++ 31#7) := by
    rw [and_app, and_app, and_app, and_app]; simp only [BitVec.and_zero]; rfl
  have lb := b.isLt
  have la := a.isLt
  have ld := d.isLt
  generalize (7#4 ++ b ++ a ++ d ++ 31#7 : BitVec 32) = w at *
  replace hm : w &&& 0xF000007F#32 = 0x7000001F#32 := hm
  show decode (Code.word w).bytes = _
  rw [decode_word w (by omega)]
  have f0 := ext_eq w 1 6 15 (by omega)
  refine decodeWord_ok w _ 15 f0 (by decide) (by decide) ?_ hwf
  unfold decode32; rw [f0]
  show dec0F w = _
  have e0 := ext_op w 21 b (by omega)
  have e1 := ext_op w 14 a (by omega)
  have e2 := ext_op w 7 d (by omega)
  unfold dec0F; rw [ext_eq w 28 4 7 (by omega)]
  show row32 w _ _ (.bfxN32 (w.extractLsb' 21 7) (w.extractLsb' 14 7) (w.extractLsb' 7 7)) = _
  rw [e0, e1, e2]; exact if_pos hm

theorem RoundTrip.bfxI32 (b : BitVec 7) (a : BitVec 7) (d : BitVec 7) : RoundTrip.Statement (.bfxI32 b a d) := by
  intro hwf c hc
  obtain rfl := Option.some.inj hc
  have hn : (8#4 ++ b ++ a ++ d ++ 31#7 : BitVec 32).toNat = ((((8) * 2 ^ 7 + b.toNat) * 2 ^ 7 + a.toNat) * 2 ^ 7 + d.toNat) * 2 ^ 7 + 31 := by
    rw [app_nat, app_nat, app_nat, app_nat]; rfl
  have hm : (8#4 ++ b ++ a ++ d ++ 31#7) &&& (15#4 ++ 0#7 ++ 0#7 ++ 0#7 ++ 127#7) = (8#4 ++ 0#7 ++ 0#7 ++ 0#7 ++ 31#7) := by
    rw [and_app, and_app, and_app, and_app]; simp only [BitVec.and_zero]; rfl
  have lb := b.isLt
  have la := a.isLt
  have ld := d.isLt
  generalize (8#4 ++ b ++ a ++ d ++ 31#7 : BitVec 32) = w at *
  replace hm : w &&& 0xF000007F#32 = 0x8000001F#32 := hm
  show decode (Code.word w).bytes = _
  rw [decode_word w (by omega)]
  have f0 := ext_eq w 1 6 15 (by omega)
  refine decodeWord_ok w _ 15 f0 (by decide) (by decide) ?_ hwf
  unfold decode32; rw [f0]
  show dec0F w = _
  have e0 := ext_op w 21 b (by omega)
  have e1 := ext_op w 14 a (by omega)
  have e2 := ext_op w 7 d (by omega)
  unfold dec0F; rw [ext_eq w 28 4 8 (by omega)]
  show row32 w _ _ (.bfxI32 (w.extractLsb' 21 7) (w.extractLsb' 14 7) (w.extractLsb' 7 7)) = _
  rw [e0, e1, e2]; exact if_pos hm

theorem RoundTrip.bfiB32 (b : BitVec 7) (a : BitVec 7) (d : BitVec 7) : RoundTrip.Statement (.bfiB32 b a d) := by
  intro hwf c hc
  obtain rfl := Option.some.inj hc
  have hn : (9#4 ++ b ++ a ++ d ++ 31#7 : BitVec 32).toNat = ((((9) * 2 ^ 7 + b.toNat) * 2 ^ 7 + a.toNat) * 2 ^ 7 + d.toNat) * 2 ^ 7 + 31 := by
    rw [app_nat, app_nat, app_nat, app_nat]; rfl
  have hm : (9#4 ++ b ++ a ++ d ++ 31#7) &&& (15#4 ++ 0#7 ++ 0#7 ++ 0#7 ++ 127#7) = (9#4 ++ 0#7 ++ 0#7 ++ 0#7 ++ 31#7) := by
    rw [and_app, and_app, and_app, and_app]; simp only [BitVec.and_zero]; rfl
  have lb := b.isLt
  have la := a.isLt
  have ld := d.isLt
  generalize (9#4 ++ b ++ a ++ d ++ 31#7 : BitVec 32) = w at *
  replace hm : w &&& 0xF000007F#32 = 0x9000001F#32 := hm
  show decode (Code.word w).bytes = _
  rw [decode_word w (by omega)]
  have f0 := ext_eq w 1 6 15 (by omega)
  refine decodeWord_ok w _ 15 f0 (by decide) (by decide) ?_ hwf
  unfold decode32; rw [f0]
  show dec0F w = _
  have e0 := ext_op w 21 b (by omega)
  have e1 := ext_op w 14 a (by omega)
  have e2 := ext_op w 7 d (by omega)
  unfold dec0F; rw [ext_eq w 28 4 9 (by omega)]
  show row32 w _ _ (.bfiB32 (w.extractLsb' 21 7) (w.extractLsb' 14 7) (w.extractLsb' 7 7)) = _
  rw [e0, e1, e2]; exact if_pos hm

theorem RoundTrip.movB32 (b : BitVec 7) (a : BitVec 7) (d : BitVec 7) : RoundTrip.Statement (.movB32 b a d) := by
  intro hwf c hc
  obtain rfl := Option.some.inj hc
  have hn : (0#4 ++ b ++ a ++ d ++ 43#7 : BitVec 32).toNat = ((((0) * 2 ^ 7 + b.toNat) * 2 ^ 7 + a.toNat) * 2 ^ 7 + d.toNat) * 2 ^ 7 + 43 := by
    rw [app_nat, app_nat, app_nat, app_nat]; rfl
  have hm : (0#4 ++ b ++ a ++ d ++ 43#7) &&& (15#4 ++ 0#7 ++ 0#7 ++ 0#7 ++ 127#7) = (0#4 ++ 0#7 ++ 0#7 ++ 0#7 ++ 43#7) := by
    rw [and_app, and_app, and_app, and_app]; simp only [BitVec.and_zero]; rfl
  have lb := b.isLt
  have la := a.isLt
  have ld := d.isLt
  generalize (0#4 ++ b ++ a ++ d ++ 43#7 : BitVec 32) = w at *
  replace hm : w &&& 0xF000007F#32 = 0x0000002B#32 := hm
  show decode (Code.word w).bytes = _
  rw [decode_word w (by omega)]
  have f0 := ext_eq w 1 6 21 (by omega)
  refine decodeWord_ok w _ 21 f0 (by decide) (by decide) ?_ hwf
  unfold decode32; rw [f0]
  show dec15 w = _
  have e0 := ext_op w 21 b (by omega)
  have e1 := ext_op w 14 a (by omega)
  have e2 := ext_op w 7 d (by omega)
  unfold dec15; rw [ext_eq w 28 4 0 (by omega)]
  show row32 w _ _ (.movB32 (w.extractLsb' 21 7) (w.extractLsb' 14 7) (w.extractLsb' 7 7)) = _
  rw [e0, e1, e2]; exact if_pos hm

theorem RoundTrip.shflB32 (b : BitVec 7) (a : BitVec 7) (d : BitVec 7) : RoundTrip.Statement (.shflB32 b a d) := by
  intro hwf c hc
  obtain rfl := Option.some.inj hc
  have hn : (1#4 ++ b ++ a ++ d ++ 43#7 : BitVec 32).toNat = ((((1) * 2 ^ 7 + b.toNat) * 2 ^ 7 + a.toNat) * 2 ^ 7 + d.toNat) * 2 ^ 7 + 43 := by
    rw [app_nat, app_nat, app_nat, app_nat]; rfl
  have hm : (1#4 ++ b ++ a ++ d ++ 43#7) &&& (15#4 ++ 0#7 ++ 0#7 ++ 0#7 ++ 127#7) = (1#4 ++ 0#7 ++ 0#7 ++ 0#7 ++ 43#7) := by
    rw [and_app, and_app, and_app, and_app]; simp only [BitVec.and_zero]; rfl
  have lb := b.isLt
  have la := a.isLt
  have ld := d.isLt
  generalize (1#4 ++ b ++ a ++ d ++ 43#7 : BitVec 32) = w at *
  replace hm : w &&& 0xF000007F#32 = 0x1000002B#32 := hm
  show decode (Code.word w).bytes = _
  rw [decode_word w (by omega)]
  have f0 := ext_eq w 1 6 21 (by omega)
  refine decodeWord_ok w _ 21 f0 (by decide) (by decide) ?_ hwf
  unfold decode32; rw [f0]
  show dec15 w = _
  have e0 := ext_op w 21 b (by omega)
  have e1 := ext_op w 14 a (by omega)
  have e2 := ext_op w 7 d (by omega)
  unfold dec15; rw [ext_eq w 28 4 1 (by omega)]
  show row32 w _ _ (.shflB32 (w.extractLsb' 21 7) (w.extractLsb' 14 7) (w.extractLsb' 7 7)) = _
  rw [e0, e1, e2]; exact if_pos hm

theorem RoundTrip.bcastB32 (b : BitVec 7) (a : BitVec 7) (d : BitVec 7) : RoundTrip.Statement (.bcastB32 b a d) := by
  intro hwf c hc
  obtain rfl := Option.some.inj hc
  have hn : (2#4 ++ b ++ a ++ d ++ 43#7 : BitVec 32).toNat = ((((2) * 2 ^ 7 + b.toNat) * 2 ^ 7 + a.toNat) * 2 ^ 7 + d.toNat) * 2 ^ 7 + 43 := by
    rw [app_nat, app_nat, app_nat, app_nat]; rfl
  have hm : (2#4 ++ b ++ a ++ d ++ 43#7) &&& (15#4 ++ 0#7 ++ 0#7 ++ 0#7 ++ 127#7) = (2#4 ++ 0#7 ++ 0#7 ++ 0#7 ++ 43#7) := by
    rw [and_app, and_app, and_app, and_app]; simp only [BitVec.and_zero]; rfl
  have lb := b.isLt
  have la := a.isLt
  have ld := d.isLt
  generalize (2#4 ++ b ++ a ++ d ++ 43#7 : BitVec 32) = w at *
  replace hm : w &&& 0xF000007F#32 = 0x2000002B#32 := hm
  show decode (Code.word w).bytes = _
  rw [decode_word w (by omega)]
  have f0 := ext_eq w 1 6 21 (by omega)
  refine decodeWord_ok w _ 21 f0 (by decide) (by decide) ?_ hwf
  unfold decode32; rw [f0]
  show dec15 w = _
  have e0 := ext_op w 21 b (by omega)
  have e1 := ext_op w 14 a (by omega)
  have e2 := ext_op w 7 d (by omega)
  unfold dec15; rw [ext_eq w 28 4 2 (by omega)]
  show row32 w _ _ (.bcastB32 (w.extractLsb' 21 7) (w.extractLsb' 14 7) (w.extractLsb' 7 7)) = _
  rw [e0, e1, e2]; exact if_pos hm

theorem RoundTrip.ballotB32 (a : BitVec 3) (d : BitVec 7) : RoundTrip.Statement (.ballotB32 a d) := by
  intro hwf c hc
  obtain rfl := Option.some.inj hc
  have hn : (6144#15 ++ a ++ d ++ 43#7 : BitVec 32).toNat = (((6144) * 2 ^ 3 + a.toNat) * 2 ^ 7 + d.toNat) * 2 ^ 7 + 43 := by
    rw [app_nat, app_nat, app_nat]; rfl
  have hm : (6144#15 ++ a ++ d ++ 43#7) &&& (32767#15 ++ 0#3 ++ 0#7 ++ 127#7) = (6144#15 ++ 0#3 ++ 0#7 ++ 43#7) := by
    rw [and_app, and_app, and_app]; simp only [BitVec.and_zero]; rfl
  have la := a.isLt
  have ld := d.isLt
  generalize (6144#15 ++ a ++ d ++ 43#7 : BitVec 32) = w at *
  replace hm : w &&& 0xFFFE007F#32 = 0x3000002B#32 := hm
  show decode (Code.word w).bytes = _
  rw [decode_word w (by omega)]
  have f0 := ext_eq w 1 6 21 (by omega)
  refine decodeWord_ok w _ 21 f0 (by decide) (by decide) ?_ hwf
  unfold decode32; rw [f0]
  show dec15 w = _
  have e0 := ext_op w 14 a (by omega)
  have e1 := ext_op w 7 d (by omega)
  unfold dec15; rw [ext_eq w 28 4 3 (by omega)]
  show row32 w _ _ (.ballotB32 (w.extractLsb' 14 3) (w.extractLsb' 7 7)) = _
  rw [e0, e1]; exact if_pos hm

theorem RoundTrip.vall (a : BitVec 3) (d : BitVec 3) : RoundTrip.Statement (.vall a d) := by
  intro hwf c hc
  obtain rfl := Option.some.inj hc
  have hn : (8192#15 ++ a ++ 0#4 ++ d ++ 43#7 : BitVec 32).toNat = ((((8192) * 2 ^ 3 + a.toNat) * 2 ^ 4 + 0) * 2 ^ 3 + d.toNat) * 2 ^ 7 + 43 := by
    rw [app_nat, app_nat, app_nat, app_nat]; rfl
  have hm : (8192#15 ++ a ++ 0#4 ++ d ++ 43#7) &&& (32767#15 ++ 0#3 ++ 15#4 ++ 0#3 ++ 127#7) = (8192#15 ++ 0#3 ++ 0#4 ++ 0#3 ++ 43#7) := by
    rw [and_app, and_app, and_app, and_app]; simp only [BitVec.and_zero]; rfl
  have la := a.isLt
  have ld := d.isLt
  generalize (8192#15 ++ a ++ 0#4 ++ d ++ 43#7 : BitVec 32) = w at *
  replace hm : w &&& 0xFFFE3C7F#32 = 0x4000002B#32 := hm
  show decode (Code.word w).bytes = _
  rw [decode_word w (by omega)]
  have f0 := ext_eq w 1 6 21 (by omega)
  refine decodeWord_ok w _ 21 f0 (by decide) (by decide) ?_ hwf
  unfold decode32; rw [f0]
  show dec15 w = _
  have e0 := ext_op w 14 a (by omega)
  have e1 := ext_op w 7 d (by omega)
  unfold dec15; rw [ext_eq w 28 4 4 (by omega)]
  show row32 w _ _ (.vall (w.extractLsb' 14 3) (w.extractLsb' 7 3)) = _
  rw [e0, e1]; exact if_pos hm

theorem RoundTrip.vany (a : BitVec 3) (d : BitVec 3) : RoundTrip.Statement (.vany a d) := by
  intro hwf c hc
  obtain rfl := Option.some.inj hc
  have hn : (10240#15 ++ a ++ 0#4 ++ d ++ 43#7 : BitVec 32).toNat = ((((10240) * 2 ^ 3 + a.toNat) * 2 ^ 4 + 0) * 2 ^ 3 + d.toNat) * 2 ^ 7 + 43 := by
    rw [app_nat, app_nat, app_nat, app_nat]; rfl
  have hm : (10240#15 ++ a ++ 0#4 ++ d ++ 43#7) &&& (32767#15 ++ 0#3 ++ 15#4 ++ 0#3 ++ 127#7) = (10240#15 ++ 0#3 ++ 0#4 ++ 0#3 ++ 43#7) := by
    rw [and_app, and_app, and_app, and_app]; simp only [BitVec.and_zero]; rfl
  have la := a.isLt
  have ld := d.isLt
  generalize (10240#15 ++ a ++ 0#4 ++ d ++ 43#7 : BitVec 32) = w at *
  replace hm : w &&& 0xFFFE3C7F#32 = 0x5000002B#32 := hm
  show decode (Code.word w).bytes = _
  rw [decode_word w (by omega)]
  have f0 := ext_eq w 1 6 21 (by omega)
  refine decodeWord_ok w _ 21 f0 (by decide) (by decide) ?_ hwf
  unfold decode32; rw [f0]
  show dec15 w = _
  have e0 := ext_op w 14 a (by omega)
  have e1 := ext_op w 7 d (by omega)
  unfold dec15; rw [ext_eq w 28 4 5 (by omega)]
  show row32 w _ _ (.vany (w.extractLsb' 14 3) (w.extractLsb' 7 3)) = _
  rw [e0, e1]; exact if_pos hm

theorem RoundTrip.laneid (d : BitVec 7) : RoundTrip.Statement (.laneid d) := by
  intro hwf c hc
  obtain rfl := Option.some.inj hc
  have hn : (98304#18 ++ d ++ 43#7 : BitVec 32).toNat = ((98304) * 2 ^ 7 + d.toNat) * 2 ^ 7 + 43 := by
    rw [app_nat, app_nat]; rfl
  have hm : (98304#18 ++ d ++ 43#7) &&& (262143#18 ++ 0#7 ++ 127#7) = (98304#18 ++ 0#7 ++ 43#7) := by
    rw [and_app, and_app]; simp only [BitVec.and_zero]; rfl
  have ld := d.isLt
  generalize (98304#18 ++ d ++ 43#7 : BitVec 32) = w at *
  replace hm : w &&& 0xFFFFC07F#32 = 0x6000002B#32 := hm
  show decode (Code.word w).bytes = _
  rw [decode_word w (by omega)]
  have f0 := ext_eq w 1 6 21 (by omega)
  refine decodeWord_ok w _ 21 f0 (by decide) (by decide) ?_ hwf
  unfold decode32; rw [f0]
  show dec15 w = _
  have e0 := ext_op w 7 d (by omega)
  unfold dec15; rw [ext_eq w 28 4 6 (by omega)]
  show row32 w _ _ (.laneid (w.extractLsb' 7 7)) = _
  rw [e0]; exact if_pos hm

theorem RoundTrip.tid (d : BitVec 7) : RoundTrip.Statement (.tid d) := by
  intro hwf c hc
  obtain rfl := Option.some.inj hc
  have hn : (114688#18 ++ d ++ 43#7 : BitVec 32).toNat = ((114688) * 2 ^ 7 + d.toNat) * 2 ^ 7 + 43 := by
    rw [app_nat, app_nat]; rfl
  have hm : (114688#18 ++ d ++ 43#7) &&& (262143#18 ++ 0#7 ++ 127#7) = (114688#18 ++ 0#7 ++ 43#7) := by
    rw [and_app, and_app]; simp only [BitVec.and_zero]; rfl
  have ld := d.isLt
  generalize (114688#18 ++ d ++ 43#7 : BitVec 32) = w at *
  replace hm : w &&& 0xFFFFC07F#32 = 0x7000002B#32 := hm
  show decode (Code.word w).bytes = _
  rw [decode_word w (by omega)]
  have f0 := ext_eq w 1 6 21 (by omega)
  refine decodeWord_ok w _ 21 f0 (by decide) (by decide) ?_ hwf
  unfold decode32; rw [f0]
  show dec15 w = _
  have e0 := ext_op w 7 d (by omega)
  unfold dec15; rw [ext_eq w 28 4 7 (by omega)]
  show row32 w _ _ (.tid (w.extractLsb' 7 7)) = _
  rw [e0]; exact if_pos hm

theorem RoundTrip.qset (a : BitVec 4) (d : BitVec 4) : RoundTrip.Statement (.qset a d) := by
  intro hwf c hc
  obtain rfl := Option.some.inj hc
  have hn : (8199#14 ++ a ++ 0#3 ++ d ++ 43#7 : BitVec 32).toNat = ((((8199) * 2 ^ 4 + a.toNat) * 2 ^ 3 + 0) * 2 ^ 4 + d.toNat) * 2 ^ 7 + 43 := by
    rw [app_nat, app_nat, app_nat, app_nat]; rfl
  have hm : (8199#14 ++ a ++ 0#3 ++ d ++ 43#7) &&& (16383#14 ++ 0#4 ++ 7#3 ++ 0#4 ++ 127#7) = (8199#14 ++ 0#4 ++ 0#3 ++ 0#4 ++ 43#7) := by
    rw [and_app, and_app, and_app, and_app]; simp only [BitVec.and_zero]; rfl
  have la := a.isLt
  have ld := d.isLt
  generalize (8199#14 ++ a ++ 0#3 ++ d ++ 43#7 : BitVec 32) = w at *
  replace hm : w &&& 0xFFFC387F#32 = 0x801C002B#32 := hm
  show decode (Code.word w).bytes = _
  rw [decode_word w (by omega)]
  have f0 := ext_eq w 1 6 21 (by omega)
  refine decodeWord_ok w _ 21 f0 (by decide) (by decide) ?_ hwf
  unfold decode32; rw [f0]
  show dec15 w = _
  have e0 := ext_op w 14 a (by omega)
  have e1 := ext_op w 7 d (by omega)
  unfold dec15; rw [ext_eq w 28 4 8 (by omega)]
  show row32 w _ _ (.qset (w.extractLsb' 14 4) (w.extractLsb' 7 4)) = _
  rw [e0, e1]; exact if_pos hm

theorem RoundTrip.qget (a : BitVec 4) (d : BitVec 7) : RoundTrip.Statement (.qget a d) := by
  intro hwf c hc
  obtain rfl := Option.some.inj hc
  have hn : (9216#14 ++ a ++ d ++ 43#7 : BitVec 32).toNat = (((9216) * 2 ^ 4 + a.toNat) * 2 ^ 7 + d.toNat) * 2 ^ 7 + 43 := by
    rw [app_nat, app_nat, app_nat]; rfl
  have hm : (9216#14 ++ a ++ d ++ 43#7) &&& (16383#14 ++ 0#4 ++ 0#7 ++ 127#7) = (9216#14 ++ 0#4 ++ 0#7 ++ 43#7) := by
    rw [and_app, and_app, and_app]; simp only [BitVec.and_zero]; rfl
  have la := a.isLt
  have ld := d.isLt
  generalize (9216#14 ++ a ++ d ++ 43#7 : BitVec 32) = w at *
  replace hm : w &&& 0xFFFC007F#32 = 0x9000002B#32 := hm
  show decode (Code.word w).bytes = _
  rw [decode_word w (by omega)]
  have f0 := ext_eq w 1 6 21 (by omega)
  refine decodeWord_ok w _ 21 f0 (by decide) (by decide) ?_ hwf
  unfold decode32; rw [f0]
  show dec15 w = _
  have e0 := ext_op w 14 a (by omega)
  have e1 := ext_op w 7 d (by omega)
  unfold dec15; rw [ext_eq w 28 4 9 (by omega)]
  show row32 w _ _ (.qget (w.extractLsb' 14 4) (w.extractLsb' 7 7)) = _
  rw [e0, e1]; exact if_pos hm

theorem RoundTrip.iaddN64 (b : BitVec 7) (a : BitVec 7) (d : BitVec 7) : RoundTrip.Statement (.iaddN64 b a d) := by
  intro hwf c hc
  obtain rfl := Option.some.inj hc
  have hn : (0#4 ++ b ++ a ++ d ++ 45#7 : BitVec 32).toNat = ((((0) * 2 ^ 7 + b.toNat) * 2 ^ 7 + a.toNat) * 2 ^ 7 + d.toNat) * 2 ^ 7 + 45 := by
    rw [app_nat, app_nat, app_nat, app_nat]; rfl
  have hm : (0#4 ++ b ++ a ++ d ++ 45#7) &&& (15#4 ++ 0#7 ++ 0#7 ++ 0#7 ++ 127#7) = (0#4 ++ 0#7 ++ 0#7 ++ 0#7 ++ 45#7) := by
    rw [and_app, and_app, and_app, and_app]; simp only [BitVec.and_zero]; rfl
  have lb := b.isLt
  have la := a.isLt
  have ld := d.isLt
  generalize (0#4 ++ b ++ a ++ d ++ 45#7 : BitVec 32) = w at *
  replace hm : w &&& 0xF000007F#32 = 0x0000002D#32 := hm
  show decode (Code.word w).bytes = _
  rw [decode_word w (by omega)]
  have f0 := ext_eq w 1 6 22 (by omega)
  refine decodeWord_ok w _ 22 f0 (by decide) (by decide) ?_ hwf
  unfold decode32; rw [f0]
  show dec16 w = _
  have e0 := ext_op w 21 b (by omega)
  have e1 := ext_op w 14 a (by omega)
  have e2 := ext_op w 7 d (by omega)
  unfold dec16; rw [ext_eq w 28 4 0 (by omega)]
  show row32 w _ _ (.iaddN64 (w.extractLsb' 21 7) (w.extractLsb' 14 7) (w.extractLsb' 7 7)) = _
  rw [e0, e1, e2]; exact if_pos hm

theorem RoundTrip.isubN64 (b : BitVec 7) (a : BitVec 7) (d : BitVec 7) : RoundTrip.Statement (.isubN64 b a d) := by
  intro hwf c hc
  obtain rfl := Option.some.inj hc
  have hn : (1#4 ++ b ++ a ++ d ++ 45#7 : BitVec 32).toNat = ((((1) * 2 ^ 7 + b.toNat) * 2 ^ 7 + a.toNat) * 2 ^ 7 + d.toNat) * 2 ^ 7 + 45 := by
    rw [app_nat, app_nat, app_nat, app_nat]; rfl
  have hm : (1#4 ++ b ++ a ++ d ++ 45#7) &&& (15#4 ++ 0#7 ++ 0#7 ++ 0#7 ++ 127#7) = (1#4 ++ 0#7 ++ 0#7 ++ 0#7 ++ 45#7) := by
    rw [and_app, and_app, and_app, and_app]; simp only [BitVec.and_zero]; rfl
  have lb := b.isLt
  have la := a.isLt
  have ld := d.isLt
  generalize (1#4 ++ b ++ a ++ d ++ 45#7 : BitVec 32) = w at *
  replace hm : w &&& 0xF000007F#32 = 0x1000002D#32 := hm
  show decode (Code.word w).bytes = _
  rw [decode_word w (by omega)]
  have f0 := ext_eq w 1 6 22 (by omega)
  refine decodeWord_ok w _ 22 f0 (by decide) (by decide) ?_ hwf
  unfold decode32; rw [f0]
  show dec16 w = _
  have e0 := ext_op w 21 b (by omega)
  have e1 := ext_op w 14 a (by omega)
  have e2 := ext_op w 7 d (by omega)
  unfold dec16; rw [ext_eq w 28 4 1 (by omega)]
  show row32 w _ _ (.isubN64 (w.extractLsb' 21 7) (w.extractLsb' 14 7) (w.extractLsb' 7 7)) = _
  rw [e0, e1, e2]; exact if_pos hm

theorem RoundTrip.imulN64 (b : BitVec 7) (a : BitVec 7) (d : BitVec 7) : RoundTrip.Statement (.imulN64 b a d) := by
  intro hwf c hc
  obtain rfl := Option.some.inj hc
  have hn : (2#4 ++ b ++ a ++ d ++ 45#7 : BitVec 32).toNat = ((((2) * 2 ^ 7 + b.toNat) * 2 ^ 7 + a.toNat) * 2 ^ 7 + d.toNat) * 2 ^ 7 + 45 := by
    rw [app_nat, app_nat, app_nat, app_nat]; rfl
  have hm : (2#4 ++ b ++ a ++ d ++ 45#7) &&& (15#4 ++ 0#7 ++ 0#7 ++ 0#7 ++ 127#7) = (2#4 ++ 0#7 ++ 0#7 ++ 0#7 ++ 45#7) := by
    rw [and_app, and_app, and_app, and_app]; simp only [BitVec.and_zero]; rfl
  have lb := b.isLt
  have la := a.isLt
  have ld := d.isLt
  generalize (2#4 ++ b ++ a ++ d ++ 45#7 : BitVec 32) = w at *
  replace hm : w &&& 0xF000007F#32 = 0x2000002D#32 := hm
  show decode (Code.word w).bytes = _
  rw [decode_word w (by omega)]
  have f0 := ext_eq w 1 6 22 (by omega)
  refine decodeWord_ok w _ 22 f0 (by decide) (by decide) ?_ hwf
  unfold decode32; rw [f0]
  show dec16 w = _
  have e0 := ext_op w 21 b (by omega)
  have e1 := ext_op w 14 a (by omega)
  have e2 := ext_op w 7 d (by omega)
  unfold dec16; rw [ext_eq w 28 4 2 (by omega)]
  show row32 w _ _ (.imulN64 (w.extractLsb' 21 7) (w.extractLsb' 14 7) (w.extractLsb' 7 7)) = _
  rw [e0, e1, e2]; exact if_pos hm

theorem RoundTrip.shlB64 (b : BitVec 7) (a : BitVec 7) (d : BitVec 7) : RoundTrip.Statement (.shlB64 b a d) := by
  intro hwf c hc
  obtain rfl := Option.some.inj hc
  have hn : (3#4 ++ b ++ a ++ d ++ 45#7 : BitVec 32).toNat = ((((3) * 2 ^ 7 + b.toNat) * 2 ^ 7 + a.toNat) * 2 ^ 7 + d.toNat) * 2 ^ 7 + 45 := by
    rw [app_nat, app_nat, app_nat, app_nat]; rfl
  have hm : (3#4 ++ b ++ a ++ d ++ 45#7) &&& (15#4 ++ 0#7 ++ 0#7 ++ 0#7 ++ 127#7) = (3#4 ++ 0#7 ++ 0#7 ++ 0#7 ++ 45#7) := by
    rw [and_app, and_app, and_app, and_app]; simp only [BitVec.and_zero]; rfl
  have lb := b.isLt
  have la := a.isLt
  have ld := d.isLt
  generalize (3#4 ++ b ++ a ++ d ++ 45#7 : BitVec 32) = w at *
  replace hm : w &&& 0xF000007F#32 = 0x3000002D#32 := hm
  show decode (Code.word w).bytes = _
  rw [decode_word w (by omega)]
  have f0 := ext_eq w 1 6 22 (by omega)
  refine decodeWord_ok w _ 22 f0 (by decide) (by decide) ?_ hwf
  unfold decode32; rw [f0]
  show dec16 w = _
  have e0 := ext_op w 21 b (by omega)
  have e1 := ext_op w 14 a (by omega)
  have e2 := ext_op w 7 d (by omega)
  unfold dec16; rw [ext_eq w 28 4 3 (by omega)]
  show row32 w _ _ (.shlB64 (w.extractLsb' 21 7) (w.extractLsb' 14 7) (w.extractLsb' 7 7)) = _
  rw [e0, e1, e2]; exact if_pos hm

theorem RoundTrip.shrN64 (b : BitVec 7) (a : BitVec 7) (d : BitVec 7) : RoundTrip.Statement (.shrN64 b a d) := by
  intro hwf c hc
  obtain rfl := Option.some.inj hc
  have hn : (4#4 ++ b ++ a ++ d ++ 45#7 : BitVec 32).toNat = ((((4) * 2 ^ 7 + b.toNat) * 2 ^ 7 + a.toNat) * 2 ^ 7 + d.toNat) * 2 ^ 7 + 45 := by
    rw [app_nat, app_nat, app_nat, app_nat]; rfl
  have hm : (4#4 ++ b ++ a ++ d ++ 45#7) &&& (15#4 ++ 0#7 ++ 0#7 ++ 0#7 ++ 127#7) = (4#4 ++ 0#7 ++ 0#7 ++ 0#7 ++ 45#7) := by
    rw [and_app, and_app, and_app, and_app]; simp only [BitVec.and_zero]; rfl
  have lb := b.isLt
  have la := a.isLt
  have ld := d.isLt
  generalize (4#4 ++ b ++ a ++ d ++ 45#7 : BitVec 32) = w at *
  replace hm : w &&& 0xF000007F#32 = 0x4000002D#32 := hm
  show decode (Code.word w).bytes = _
  rw [decode_word w (by omega)]
  have f0 := ext_eq w 1 6 22 (by omega)
  refine decodeWord_ok w _ 22 f0 (by decide) (by decide) ?_ hwf
  unfold decode32; rw [f0]
  show dec16 w = _
  have e0 := ext_op w 21 b (by omega)
  have e1 := ext_op w 14 a (by omega)
  have e2 := ext_op w 7 d (by omega)
  unfold dec16; rw [ext_eq w 28 4 4 (by omega)]
  show row32 w _ _ (.shrN64 (w.extractLsb' 21 7) (w.extractLsb' 14 7) (w.extractLsb' 7 7)) = _
  rw [e0, e1, e2]; exact if_pos hm

theorem RoundTrip.shrI64 (b : BitVec 7) (a : BitVec 7) (d : BitVec 7) : RoundTrip.Statement (.shrI64 b a d) := by
  intro hwf c hc
  obtain rfl := Option.some.inj hc
  have hn : (5#4 ++ b ++ a ++ d ++ 45#7 : BitVec 32).toNat = ((((5) * 2 ^ 7 + b.toNat) * 2 ^ 7 + a.toNat) * 2 ^ 7 + d.toNat) * 2 ^ 7 + 45 := by
    rw [app_nat, app_nat, app_nat, app_nat]; rfl
  have hm : (5#4 ++ b ++ a ++ d ++ 45#7) &&& (15#4 ++ 0#7 ++ 0#7 ++ 0#7 ++ 127#7) = (5#4 ++ 0#7 ++ 0#7 ++ 0#7 ++ 45#7) := by
    rw [and_app, and_app, and_app, and_app]; simp only [BitVec.and_zero]; rfl
  have lb := b.isLt
  have la := a.isLt
  have ld := d.isLt
  generalize (5#4 ++ b ++ a ++ d ++ 45#7 : BitVec 32) = w at *
  replace hm : w &&& 0xF000007F#32 = 0x5000002D#32 := hm
  show decode (Code.word w).bytes = _
  rw [decode_word w (by omega)]
  have f0 := ext_eq w 1 6 22 (by omega)
  refine decodeWord_ok w _ 22 f0 (by decide) (by decide) ?_ hwf
  unfold decode32; rw [f0]
  show dec16 w = _
  have e0 := ext_op w 21 b (by omega)
  have e1 := ext_op w 14 a (by omega)
  have e2 := ext_op w 7 d (by omega)
  unfold dec16; rw [ext_eq w 28 4 5 (by omega)]
  show row32 w _ _ (.shrI64 (w.extractLsb' 21 7) (w.extractLsb' 14 7) (w.extractLsb' 7 7)) = _
  rw [e0, e1, e2]; exact if_pos hm

theorem RoundTrip.iminI64 (b : BitVec 7) (a : BitVec 7) (d : BitVec 7) : RoundTrip.Statement (.iminI64 b a d) := by
  intro hwf c hc
  obtain rfl := Option.some.inj hc
  have hn : (6#4 ++ b ++ a ++ d ++ 45#7 : BitVec 32).toNat = ((((6) * 2 ^ 7 + b.toNat) * 2 ^ 7 + a.toNat) * 2 ^ 7 + d.toNat) * 2 ^ 7 + 45 := by
    rw [app_nat, app_nat, app_nat, app_nat]; rfl
  have hm : (6#4 ++ b ++ a ++ d ++ 45#7) &&& (15#4 ++ 0#7 ++ 0#7 ++ 0#7 ++ 127#7) = (6#4 ++ 0#7 ++ 0#7 ++ 0#7 ++ 45#7) := by
    rw [and_app, and_app, and_app, and_app]; simp only [BitVec.and_zero]; rfl
  have lb := b.isLt
  have la := a.isLt
  have ld := d.isLt
  generalize (6#4 ++ b ++ a ++ d ++ 45#7 : BitVec 32) = w at *
  replace hm : w &&& 0xF000007F#32 = 0x6000002D#32 := hm
  show decode (Code.word w).bytes = _
  rw [decode_word w (by omega)]
  have f0 := ext_eq w 1 6 22 (by omega)
  refine decodeWord_ok w _ 22 f0 (by decide) (by decide) ?_ hwf
  unfold decode32; rw [f0]
  show dec16 w = _
  have e0 := ext_op w 21 b (by omega)
  have e1 := ext_op w 14 a (by omega)
  have e2 := ext_op w 7 d (by omega)
  unfold dec16; rw [ext_eq w 28 4 6 (by omega)]
  show row32 w _ _ (.iminI64 (w.extractLsb' 21 7) (w.extractLsb' 14 7) (w.extractLsb' 7 7)) = _
  rw [e0, e1, e2]; exact if_pos hm

theorem RoundTrip.imaxI64 (b : BitVec 7) (a : BitVec 7) (d : BitVec 7) : RoundTrip.Statement (.imaxI64 b a d) := by
  intro hwf c hc
  obtain rfl := Option.some.inj hc
  have hn : (7#4 ++ b ++ a ++ d ++ 45#7 : BitVec 32).toNat = ((((7) * 2 ^ 7 + b.toNat) * 2 ^ 7 + a.toNat) * 2 ^ 7 + d.toNat) * 2 ^ 7 + 45 := by
    rw [app_nat, app_nat, app_nat, app_nat]; rfl
  have hm : (7#4 ++ b ++ a ++ d ++ 45#7) &&& (15#4 ++ 0#7 ++ 0#7 ++ 0#7 ++ 127#7) = (7#4 ++ 0#7 ++ 0#7 ++ 0#7 ++ 45#7) := by
    rw [and_app, and_app, and_app, and_app]; simp only [BitVec.and_zero]; rfl
  have lb := b.isLt
  have la := a.isLt
  have ld := d.isLt
  generalize (7#4 ++ b ++ a ++ d ++ 45#7 : BitVec 32) = w at *
  replace hm : w &&& 0xF000007F#32 = 0x7000002D#32 := hm
  show decode (Code.word w).bytes = _
  rw [decode_word w (by omega)]
  have f0 := ext_eq w 1 6 22 (by omega)
  refine decodeWord_ok w _ 22 f0 (by decide) (by decide) ?_ hwf
  unfold decode32; rw [f0]
  show dec16 w = _
  have e0 := ext_op w 21 b (by omega)
  have e1 := ext_op w 14 a (by omega)
  have e2 := ext_op w 7 d (by omega)
  unfold dec16; rw [ext_eq w 28 4 7 (by omega)]
  show row32 w _ _ (.imaxI64 (w.extractLsb' 21 7) (w.extractLsb' 14 7) (w.extractLsb' 7 7)) = _
  rw [e0, e1, e2]; exact if_pos hm

theorem RoundTrip.iminN64 (b : BitVec 7) (a : BitVec 7) (d : BitVec 7) : RoundTrip.Statement (.iminN64 b a d) := by
  intro hwf c hc
  obtain rfl := Option.some.inj hc
  have hn : (8#4 ++ b ++ a ++ d ++ 45#7 : BitVec 32).toNat = ((((8) * 2 ^ 7 + b.toNat) * 2 ^ 7 + a.toNat) * 2 ^ 7 + d.toNat) * 2 ^ 7 + 45 := by
    rw [app_nat, app_nat, app_nat, app_nat]; rfl
  have hm : (8#4 ++ b ++ a ++ d ++ 45#7) &&& (15#4 ++ 0#7 ++ 0#7 ++ 0#7 ++ 127#7) = (8#4 ++ 0#7 ++ 0#7 ++ 0#7 ++ 45#7) := by
    rw [and_app, and_app, and_app, and_app]; simp only [BitVec.and_zero]; rfl
  have lb := b.isLt
  have la := a.isLt
  have ld := d.isLt
  generalize (8#4 ++ b ++ a ++ d ++ 45#7 : BitVec 32) = w at *
  replace hm : w &&& 0xF000007F#32 = 0x8000002D#32 := hm
  show decode (Code.word w).bytes = _
  rw [decode_word w (by omega)]
  have f0 := ext_eq w 1 6 22 (by omega)
  refine decodeWord_ok w _ 22 f0 (by decide) (by decide) ?_ hwf
  unfold decode32; rw [f0]
  show dec16 w = _
  have e0 := ext_op w 21 b (by omega)
  have e1 := ext_op w 14 a (by omega)
  have e2 := ext_op w 7 d (by omega)
  unfold dec16; rw [ext_eq w 28 4 8 (by omega)]
  show row32 w _ _ (.iminN64 (w.extractLsb' 21 7) (w.extractLsb' 14 7) (w.extractLsb' 7 7)) = _
  rw [e0, e1, e2]; exact if_pos hm

theorem RoundTrip.imaxN64 (b : BitVec 7) (a : BitVec 7) (d : BitVec 7) : RoundTrip.Statement (.imaxN64 b a d) := by
  intro hwf c hc
  obtain rfl := Option.some.inj hc
  have hn : (9#4 ++ b ++ a ++ d ++ 45#7 : BitVec 32).toNat = ((((9) * 2 ^ 7 + b.toNat) * 2 ^ 7 + a.toNat) * 2 ^ 7 + d.toNat) * 2 ^ 7 + 45 := by
    rw [app_nat, app_nat, app_nat, app_nat]; rfl
  have hm : (9#4 ++ b ++ a ++ d ++ 45#7) &&& (15#4 ++ 0#7 ++ 0#7 ++ 0#7 ++ 127#7) = (9#4 ++ 0#7 ++ 0#7 ++ 0#7 ++ 45#7) := by
    rw [and_app, and_app, and_app, and_app]; simp only [BitVec.and_zero]; rfl
  have lb := b.isLt
  have la := a.isLt
  have ld := d.isLt
  generalize (9#4 ++ b ++ a ++ d ++ 45#7 : BitVec 32) = w at *
  replace hm : w &&& 0xF000007F#32 = 0x9000002D#32 := hm
  show decode (Code.word w).bytes = _
  rw [decode_word w (by omega)]
  have f0 := ext_eq w 1 6 22 (by omega)
  refine decodeWord_ok w _ 22 f0 (by decide) (by decide) ?_ hwf
  unfold decode32; rw [f0]
  show dec16 w = _
  have e0 := ext_op w 21 b (by omega)
  have e1 := ext_op w 14 a (by omega)
  have e2 := ext_op w 7 d (by omega)
  unfold dec16; rw [ext_eq w 28 4 9 (by omega)]
  show row32 w _ _ (.imaxN64 (w.extractLsb' 21 7) (w.extractLsb' 14 7) (w.extractLsb' 7 7)) = _
  rw [e0, e1, e2]; exact if_pos hm

theorem RoundTrip.imulwN32 (b : BitVec 7) (a : BitVec 7) (d : BitVec 7) : RoundTrip.Statement (.imulwN32 b a d) := by
  intro hwf c hc
  obtain rfl := Option.some.inj hc
  have hn : (10#4 ++ b ++ a ++ d ++ 45#7 : BitVec 32).toNat = ((((10) * 2 ^ 7 + b.toNat) * 2 ^ 7 + a.toNat) * 2 ^ 7 + d.toNat) * 2 ^ 7 + 45 := by
    rw [app_nat, app_nat, app_nat, app_nat]; rfl
  have hm : (10#4 ++ b ++ a ++ d ++ 45#7) &&& (15#4 ++ 0#7 ++ 0#7 ++ 0#7 ++ 127#7) = (10#4 ++ 0#7 ++ 0#7 ++ 0#7 ++ 45#7) := by
    rw [and_app, and_app, and_app, and_app]; simp only [BitVec.and_zero]; rfl
  have lb := b.isLt
  have la := a.isLt
  have ld := d.isLt
  generalize (10#4 ++ b ++ a ++ d ++ 45#7 : BitVec 32) = w at *
  replace hm : w &&& 0xF000007F#32 = 0xA000002D#32 := hm
  show decode (Code.word w).bytes = _
  rw [decode_word w (by omega)]
  have f0 := ext_eq w 1 6 22 (by omega)
  refine decodeWord_ok w _ 22 f0 (by decide) (by decide) ?_ hwf
  unfold decode32; rw [f0]
  show dec16 w = _
  have e0 := ext_op w 21 b (by omega)
  have e1 := ext_op w 14 a (by omega)
  have e2 := ext_op w 7 d (by omega)
  unfold dec16; rw [ext_eq w 28 4 10 (by omega)]
  show row32 w _ _ (.imulwN32 (w.extractLsb' 21 7) (w.extractLsb' 14 7) (w.extractLsb' 7 7)) = _
  rw [e0, e1, e2]; exact if_pos hm

theorem RoundTrip.imulwI32 (b : BitVec 7) (a : BitVec 7) (d : BitVec 7) : RoundTrip.Statement (.imulwI32 b a d) := by
  intro hwf c hc
  obtain rfl := Option.some.inj hc
  have hn : (11#4 ++ b ++ a ++ d ++ 45#7 : BitVec 32).toNat = ((((11) * 2 ^ 7 + b.toNat) * 2 ^ 7 + a.toNat) * 2 ^ 7 + d.toNat) * 2 ^ 7 + 45 := by
    rw [app_nat, app_nat, app_nat, app_nat]; rfl
  have hm : (11#4 ++ b ++ a ++ d ++ 45#7) &&& (15#4 ++ 0#7 ++ 0#7 ++ 0#7 ++ 127#7) = (11#4 ++ 0#7 ++ 0#7 ++ 0#7 ++ 45#7) := by
    rw [and_app, and_app, and_app, and_app]; simp only [BitVec.and_zero]; rfl
  have lb := b.isLt
  have la := a.isLt
  have ld := d.isLt
  generalize (11#4 ++ b ++ a ++ d ++ 45#7 : BitVec 32) = w at *
  replace hm : w &&& 0xF000007F#32 = 0xB000002D#32 := hm
  show decode (Code.word w).bytes = _
  rw [decode_word w (by omega)]
  have f0 := ext_eq w 1 6 22 (by omega)
  refine decodeWord_ok w _ 22 f0 (by decide) (by decide) ?_ hwf
  unfold decode32; rw [f0]
  show dec16 w = _
  have e0 := ext_op w 21 b (by omega)
  have e1 := ext_op w 14 a (by omega)
  have e2 := ext_op w 7 d (by omega)
  unfold dec16; rw [ext_eq w 28 4 11 (by omega)]
  show row32 w _ _ (.imulwI32 (w.extractLsb' 21 7) (w.extractLsb' 14 7) (w.extractLsb' 7 7)) = _
  rw [e0, e1, e2]; exact if_pos hm

theorem RoundTrip.uaddN32 (b : BitVec 6) (a : BitVec 6) (d : BitVec 6) : RoundTrip.Statement (.uaddN32 b a d) := by
  intro hwf c hc
  obtain rfl := Option.some.inj hc
  have hn : (0#7 ++ b ++ a ++ d ++ 49#7 : BitVec 32).toNat = ((((0) * 2 ^ 6 + b.toNat) * 2 ^ 6 + a.toNat) * 2 ^ 6 + d.toNat) * 2 ^ 7 + 49 := by
    rw [app_nat, app_nat, app_nat, app_nat]; rfl
  have hm : (0#7 ++ b ++ a ++ d ++ 49#7) &&& (127#7 ++ 0#6 ++ 0#6 ++ 0#6 ++ 127#7) = (0#7 ++ 0#6 ++ 0#6 ++ 0#6 ++ 49#7) := by
    rw [and_app, and_app, and_app, and_app]; simp only [BitVec.and_zero]; rfl
  have lb := b.isLt
  have la := a.isLt
  have ld := d.isLt
  generalize (0#7 ++ b ++ a ++ d ++ 49#7 : BitVec 32) = w at *
  replace hm : w &&& 0xFE00007F#32 = 0x00000031#32 := hm
  show decode (Code.word w).bytes = _
  rw [decode_word w (by omega)]
  have f0 := ext_eq w 1 6 24 (by omega)
  refine decodeWord_ok w _ 24 f0 (by decide) (by decide) ?_ hwf
  unfold decode32; rw [f0]
  show dec18 w = _
  have e0 := ext_op w 19 b (by omega)
  have e1 := ext_op w 13 a (by omega)
  have e2 := ext_op w 7 d (by omega)
  unfold dec18; rw [ext_eq w 25 7 0 (by omega)]
  show row32 w _ _ (.uaddN32 (w.extractLsb' 19 6) (w.extractLsb' 13 6) (w.extractLsb' 7 6)) = _
  rw [e0, e1, e2]; exact if_pos hm

theorem RoundTrip.usubN32 (b : BitVec 6) (a : BitVec 6) (d : BitVec 6) : RoundTrip.Statement (.usubN32 b a d) := by
  intro hwf c hc
  obtain rfl := Option.some.inj hc
  have hn : (1#7 ++ b ++ a ++ d ++ 49#7 : BitVec 32).toNat = ((((1) * 2 ^ 6 + b.toNat) * 2 ^ 6 + a.toNat) * 2 ^ 6 + d.toNat) * 2 ^ 7 + 49 := by
    rw [app_nat, app_nat, app_nat, app_nat]; rfl
  have hm : (1#7 ++ b ++ a ++ d ++ 49#7) &&& (127#7 ++ 0#6 ++ 0#6 ++ 0#6 ++ 127#7) = (1#7 ++ 0#6 ++ 0#6 ++ 0#6 ++ 49#7) := by
    rw [and_app, and_app, and_app, and_app]; simp only [BitVec.and_zero]; rfl
  have lb := b.isLt
  have la := a.isLt
  have ld := d.isLt
  generalize (1#7 ++ b ++ a ++ d ++ 49#7 : BitVec 32) = w at *
  replace hm : w &&& 0xFE00007F#32 = 0x02000031#32 := hm
  show decode (Code.word w).bytes = _
  rw [decode_word w (by omega)]
  have f0 := ext_eq w 1 6 24 (by omega)
  refine decodeWord_ok w _ 24 f0 (by decide) (by decide) ?_ hwf
  unfold decode32; rw [f0]
  show dec18 w = _
  have e0 := ext_op w 19 b (by omega)
  have e1 := ext_op w 13 a (by omega)
  have e2 := ext_op w 7 d (by omega)
  unfold dec18; rw [ext_eq w 25 7 1 (by omega)]
  show row32 w _ _ (.usubN32 (w.extractLsb' 19 6) (w.extractLsb' 13 6) (w.extractLsb' 7 6)) = _
  rw [e0, e1, e2]; exact if_pos hm

theorem RoundTrip.umulN32 (b : BitVec 6) (a : BitVec 6) (d : BitVec 6) : RoundTrip.Statement (.umulN32 b a d) := by
  intro hwf c hc
  obtain rfl := Option.some.inj hc
  have hn : (2#7 ++ b ++ a ++ d ++ 49#7 : BitVec 32).toNat = ((((2) * 2 ^ 6 + b.toNat) * 2 ^ 6 + a.toNat) * 2 ^ 6 + d.toNat) * 2 ^ 7 + 49 := by
    rw [app_nat, app_nat, app_nat, app_nat]; rfl
  have hm : (2#7 ++ b ++ a ++ d ++ 49#7) &&& (127#7 ++ 0#6 ++ 0#6 ++ 0#6 ++ 127#7) = (2#7 ++ 0#6 ++ 0#6 ++ 0#6 ++ 49#7) := by
    rw [and_app, and_app, and_app, and_app]; simp only [BitVec.and_zero]; rfl
  have lb := b.isLt
  have la := a.isLt
  have ld := d.isLt
  generalize (2#7 ++ b ++ a ++ d ++ 49#7 : BitVec 32) = w at *
  replace hm : w &&& 0xFE00007F#32 = 0x04000031#32 := hm
  show decode (Code.word w).bytes = _
  rw [decode_word w (by omega)]
  have f0 := ext_eq w 1 6 24 (by omega)
  refine decodeWord_ok w _ 24 f0 (by decide) (by decide) ?_ hwf
  unfold decode32; rw [f0]
  show dec18 w = _
  have e0 := ext_op w 19 b (by omega)
  have e1 := ext_op w 13 a (by omega)
  have e2 := ext_op w 7 d (by omega)
  unfold dec18; rw [ext_eq w 25 7 2 (by omega)]
  show row32 w _ _ (.umulN32 (w.extractLsb' 19 6) (w.extractLsb' 13 6) (w.extractLsb' 7 6)) = _
  rw [e0, e1, e2]; exact if_pos hm

theorem RoundTrip.uminI32 (b : BitVec 6) (a : BitVec 6) (d : BitVec 6) : RoundTrip.Statement (.uminI32 b a d) := by
  intro hwf c hc
  obtain rfl := Option.some.inj hc
  have hn : (3#7 ++ b ++ a ++ d ++ 49#7 : BitVec 32).toNat = ((((3) * 2 ^ 6 + b.toNat) * 2 ^ 6 + a.toNat) * 2 ^ 6 + d.toNat) * 2 ^ 7 + 49 := by
    rw [app_nat, app_nat, app_nat, app_nat]; rfl
  have hm : (3#7 ++ b ++ a ++ d ++ 49#7) &&& (127#7 ++ 0#6 ++ 0#6 ++ 0#6 ++ 127#7) = (3#7 ++ 0#6 ++ 0#6 ++ 0#6 ++ 49#7) := by
    rw [and_app, and_app, and_app, and_app]; simp only [BitVec.and_zero]; rfl
  have lb := b.isLt
  have la := a.isLt
  have ld := d.isLt
  generalize (3#7 ++ b ++ a ++ d ++ 49#7 : BitVec 32) = w at *
  replace hm : w &&& 0xFE00007F#32 = 0x06000031#32 := hm
  show decode (Code.word w).bytes = _
  rw [decode_word w (by omega)]
  have f0 := ext_eq w 1 6 24 (by omega)
  refine decodeWord_ok w _ 24 f0 (by decide) (by decide) ?_ hwf
  unfold decode32; rw [f0]
  show dec18 w = _
  have e0 := ext_op w 19 b (by omega)
  have e1 := ext_op w 13 a (by omega)
  have e2 := ext_op w 7 d (by omega)
  unfold dec18; rw [ext_eq w 25 7 3 (by omega)]
  show row32 w _ _ (.uminI32 (w.extractLsb' 19 6) (w.extractLsb' 13 6) (w.extractLsb' 7 6)) = _
  rw [e0, e1, e2]; exact if_pos hm

theorem RoundTrip.umaxI32 (b : BitVec 6) (a : BitVec 6) (d : BitVec 6) : RoundTrip.Statement (.umaxI32 b a d) := by
  intro hwf c hc
  obtain rfl := Option.some.inj hc
  have hn : (4#7 ++ b ++ a ++ d ++ 49#7 : BitVec 32).toNat = ((((4) * 2 ^ 6 + b.toNat) * 2 ^ 6 + a.toNat) * 2 ^ 6 + d.toNat) * 2 ^ 7 + 49 := by
    rw [app_nat, app_nat, app_nat, app_nat]; rfl
  have hm : (4#7 ++ b ++ a ++ d ++ 49#7) &&& (127#7 ++ 0#6 ++ 0#6 ++ 0#6 ++ 127#7) = (4#7 ++ 0#6 ++ 0#6 ++ 0#6 ++ 49#7) := by
    rw [and_app, and_app, and_app, and_app]; simp only [BitVec.and_zero]; rfl
  have lb := b.isLt
  have la := a.isLt
  have ld := d.isLt
  generalize (4#7 ++ b ++ a ++ d ++ 49#7 : BitVec 32) = w at *
  replace hm : w &&& 0xFE00007F#32 = 0x08000031#32 := hm
  show decode (Code.word w).bytes = _
  rw [decode_word w (by omega)]
  have f0 := ext_eq w 1 6 24 (by omega)
  refine decodeWord_ok w _ 24 f0 (by decide) (by decide) ?_ hwf
  unfold decode32; rw [f0]
  show dec18 w = _
  have e0 := ext_op w 19 b (by omega)
  have e1 := ext_op w 13 a (by omega)
  have e2 := ext_op w 7 d (by omega)
  unfold dec18; rw [ext_eq w 25 7 4 (by omega)]
  show row32 w _ _ (.umaxI32 (w.extractLsb' 19 6) (w.extractLsb' 13 6) (w.extractLsb' 7 6)) = _
  rw [e0, e1, e2]; exact if_pos hm

theorem RoundTrip.uminN32 (b : BitVec 6) (a : BitVec 6) (d : BitVec 6) : RoundTrip.Statement (.uminN32 b a d) := by
  intro hwf c hc
  obtain rfl := Option.some.inj hc
  have hn : (5#7 ++ b ++ a ++ d ++ 49#7 : BitVec 32).toNat = ((((5) * 2 ^ 6 + b.toNat) * 2 ^ 6 + a.toNat) * 2 ^ 6 + d.toNat) * 2 ^ 7 + 49 := by
    rw [app_nat, app_nat, app_nat, app_nat]; rfl
  have hm : (5#7 ++ b ++ a ++ d ++ 49#7) &&& (127#7 ++ 0#6 ++ 0#6 ++ 0#6 ++ 127#7) = (5#7 ++ 0#6 ++ 0#6 ++ 0#6 ++ 49#7) := by
    rw [and_app, and_app, and_app, and_app]; simp only [BitVec.and_zero]; rfl
  have lb := b.isLt
  have la := a.isLt
  have ld := d.isLt
  generalize (5#7 ++ b ++ a ++ d ++ 49#7 : BitVec 32) = w at *
  replace hm : w &&& 0xFE00007F#32 = 0x0A000031#32 := hm
  show decode (Code.word w).bytes = _
  rw [decode_word w (by omega)]
  have f0 := ext_eq w 1 6 24 (by omega)
  refine decodeWord_ok w _ 24 f0 (by decide) (by decide) ?_ hwf
  unfold decode32; rw [f0]
  show dec18 w = _
  have e0 := ext_op w 19 b (by omega)
  have e1 := ext_op w 13 a (by omega)
  have e2 := ext_op w 7 d (by omega)
  unfold dec18; rw [ext_eq w 25 7 5 (by omega)]
  show row32 w _ _ (.uminN32 (w.extractLsb' 19 6) (w.extractLsb' 13 6) (w.extractLsb' 7 6)) = _
  rw [e0, e1, e2]; exact if_pos hm

theorem RoundTrip.umaxN32 (b : BitVec 6) (a : BitVec 6) (d : BitVec 6) : RoundTrip.Statement (.umaxN32 b a d) := by
  intro hwf c hc
  obtain rfl := Option.some.inj hc
  have hn : (6#7 ++ b ++ a ++ d ++ 49#7 : BitVec 32).toNat = ((((6) * 2 ^ 6 + b.toNat) * 2 ^ 6 + a.toNat) * 2 ^ 6 + d.toNat) * 2 ^ 7 + 49 := by
    rw [app_nat, app_nat, app_nat, app_nat]; rfl
  have hm : (6#7 ++ b ++ a ++ d ++ 49#7) &&& (127#7 ++ 0#6 ++ 0#6 ++ 0#6 ++ 127#7) = (6#7 ++ 0#6 ++ 0#6 ++ 0#6 ++ 49#7) := by
    rw [and_app, and_app, and_app, and_app]; simp only [BitVec.and_zero]; rfl
  have lb := b.isLt
  have la := a.isLt
  have ld := d.isLt
  generalize (6#7 ++ b ++ a ++ d ++ 49#7 : BitVec 32) = w at *
  replace hm : w &&& 0xFE00007F#32 = 0x0C000031#32 := hm
  show decode (Code.word w).bytes = _
  rw [decode_word w (by omega)]
  have f0 := ext_eq w 1 6 24 (by omega)
  refine decodeWord_ok w _ 24 f0 (by decide) (by decide) ?_ hwf
  unfold decode32; rw [f0]
  show dec18 w = _
  have e0 := ext_op w 19 b (by omega)
  have e1 := ext_op w 13 a (by omega)
  have e2 := ext_op w 7 d (by omega)
  unfold dec18; rw [ext_eq w 25 7 6 (by omega)]
  show row32 w _ _ (.umaxN32 (w.extractLsb' 19 6) (w.extractLsb' 13 6) (w.extractLsb' 7 6)) = _
  rw [e0, e1, e2]; exact if_pos hm

theorem RoundTrip.uandB32 (b : BitVec 6) (a : BitVec 6) (d : BitVec 6) : RoundTrip.Statement (.uandB32 b a d) := by
  intro hwf c hc
  obtain rfl := Option.some.inj hc
  have hn : (7#7 ++ b ++ a ++ d ++ 49#7 : BitVec 32).toNat = ((((7) * 2 ^ 6 + b.toNat) * 2 ^ 6 + a.toNat) * 2 ^ 6 + d.toNat) * 2 ^ 7 + 49 := by
    rw [app_nat, app_nat, app_nat, app_nat]; rfl
  have hm : (7#7 ++ b ++ a ++ d ++ 49#7) &&& (127#7 ++ 0#6 ++ 0#6 ++ 0#6 ++ 127#7) = (7#7 ++ 0#6 ++ 0#6 ++ 0#6 ++ 49#7) := by
    rw [and_app, and_app, and_app, and_app]; simp only [BitVec.and_zero]; rfl
  have lb := b.isLt
  have la := a.isLt
  have ld := d.isLt
  generalize (7#7 ++ b ++ a ++ d ++ 49#7 : BitVec 32) = w at *
  replace hm : w &&& 0xFE00007F#32 = 0x0E000031#32 := hm
  show decode (Code.word w).bytes = _
  rw [decode_word w (by omega)]
  have f0 := ext_eq w 1 6 24 (by omega)
  refine decodeWord_ok w _ 24 f0 (by decide) (by decide) ?_ hwf
  unfold decode32; rw [f0]
  show dec18 w = _
  have e0 := ext_op w 19 b (by omega)
  have e1 := ext_op w 13 a (by omega)
  have e2 := ext_op w 7 d (by omega)
  unfold dec18; rw [ext_eq w 25 7 7 (by omega)]
  show row32 w _ _ (.uandB32 (w.extractLsb' 19 6) (w.extractLsb' 13 6) (w.extractLsb' 7 6)) = _
  rw [e0, e1, e2]; exact if_pos hm

theorem RoundTrip.uorB32 (b : BitVec 6) (a : BitVec 6) (d : BitVec 6) : RoundTrip.Statement (.uorB32 b a d) := by
  intro hwf c hc
  obtain rfl := Option.some.inj hc
  have hn : (8#7 ++ b ++ a ++ d ++ 49#7 : BitVec 32).toNat = ((((8) * 2 ^ 6 + b.toNat) * 2 ^ 6 + a.toNat) * 2 ^ 6 + d.toNat) * 2 ^ 7 + 49 := by
    rw [app_nat, app_nat, app_nat, app_nat]; rfl
  have hm : (8#7 ++ b ++ a ++ d ++ 49#7) &&& (127#7 ++ 0#6 ++ 0#6 ++ 0#6 ++ 127#7) = (8#7 ++ 0#6 ++ 0#6 ++ 0#6 ++ 49#7) := by
    rw [and_app, and_app, and_app, and_app]; simp only [BitVec.and_zero]; rfl
  have lb := b.isLt
  have la := a.isLt
  have ld := d.isLt
  generalize (8#7 ++ b ++ a ++ d ++ 49#7 : BitVec 32) = w at *
  replace hm : w &&& 0xFE00007F#32 = 0x10000031#32 := hm
  show decode (Code.word w).bytes = _
  rw [decode_word w (by omega)]
  have f0 := ext_eq w 1 6 24 (by omega)
  refine decodeWord_ok w _ 24 f0 (by decide) (by decide) ?_ hwf
  unfold decode32; rw [f0]
  show dec18 w = _
  have e0 := ext_op w 19 b (by omega)
  have e1 := ext_op w 13 a (by omega)
  have e2 := ext_op w 7 d (by omega)
  unfold dec18; rw [ext_eq w 25 7 8 (by omega)]
  show row32 w _ _ (.uorB32 (w.extractLsb' 19 6) (w.extractLsb' 13 6) (w.extractLsb' 7 6)) = _
  rw [e0, e1, e2]; exact if_pos hm

theorem RoundTrip.uxorB32 (b : BitVec 6) (a : BitVec 6) (d : BitVec 6) : RoundTrip.Statement (.uxorB32 b a d) := by
  intro hwf c hc
  obtain rfl := Option.some.inj hc
  have hn : (9#7 ++ b ++ a ++ d ++ 49#7 : BitVec 32).toNat = ((((9) * 2 ^ 6 + b.toNat) * 2 ^ 6 + a.toNat) * 2 ^ 6 + d.toNat) * 2 ^ 7 + 49 := by
    rw [app_nat, app_nat, app_nat, app_nat]; rfl
  have hm : (9#7 ++ b ++ a ++ d ++ 49#7) &&& (127#7 ++ 0#6 ++ 0#6 ++ 0#6 ++ 127#7) = (9#7 ++ 0#6 ++ 0#6 ++ 0#6 ++ 49#7) := by
    rw [and_app, and_app, and_app, and_app]; simp only [BitVec.and_zero]; rfl
  have lb := b.isLt
  have la := a.isLt
  have ld := d.isLt
  generalize (9#7 ++ b ++ a ++ d ++ 49#7 : BitVec 32) = w at *
  replace hm : w &&& 0xFE00007F#32 = 0x12000031#32 := hm
  show decode (Code.word w).bytes = _
  rw [decode_word w (by omega)]
  have f0 := ext_eq w 1 6 24 (by omega)
  refine decodeWord_ok w _ 24 f0 (by decide) (by decide) ?_ hwf
  unfold decode32; rw [f0]
  show dec18 w = _
  have e0 := ext_op w 19 b (by omega)
  have e1 := ext_op w 13 a (by omega)
  have e2 := ext_op w 7 d (by omega)
  unfold dec18; rw [ext_eq w 25 7 9 (by omega)]
  show row32 w _ _ (.uxorB32 (w.extractLsb' 19 6) (w.extractLsb' 13 6) (w.extractLsb' 7 6)) = _
  rw [e0, e1, e2]; exact if_pos hm

theorem RoundTrip.ushlB32 (b : BitVec 6) (a : BitVec 6) (d : BitVec 6) : RoundTrip.Statement (.ushlB32 b a d) := by
  intro hwf c hc
  obtain rfl := Option.some.inj hc
  have hn : (10#7 ++ b ++ a ++ d ++ 49#7 : BitVec 32).toNat = ((((10) * 2 ^ 6 + b.toNat) * 2 ^ 6 + a.toNat) * 2 ^ 6 + d.toNat) * 2 ^ 7 + 49 := by
    rw [app_nat, app_nat, app_nat, app_nat]; rfl
  have hm : (10#7 ++ b ++ a ++ d ++ 49#7) &&& (127#7 ++ 0#6 ++ 0#6 ++ 0#6 ++ 127#7) = (10#7 ++ 0#6 ++ 0#6 ++ 0#6 ++ 49#7) := by
    rw [and_app, and_app, and_app, and_app]; simp only [BitVec.and_zero]; rfl
  have lb := b.isLt
  have la := a.isLt
  have ld := d.isLt
  generalize (10#7 ++ b ++ a ++ d ++ 49#7 : BitVec 32) = w at *
  replace hm : w &&& 0xFE00007F#32 = 0x14000031#32 := hm
  show decode (Code.word w).bytes = _
  rw [decode_word w (by omega)]
  have f0 := ext_eq w 1 6 24 (by omega)
  refine decodeWord_ok w _ 24 f0 (by decide) (by decide) ?_ hwf
  unfold decode32; rw [f0]
  show dec18 w = _
  have e0 := ext_op w 19 b (by omega)
  have e1 := ext_op w 13 a (by omega)
  have e2 := ext_op w 7 d (by omega)
  unfold dec18; rw [ext_eq w 25 7 10 (by omega)]
  show row32 w _ _ (.ushlB32 (w.extractLsb' 19 6) (w.extractLsb' 13 6) (w.extractLsb' 7 6)) = _
  rw [e0, e1, e2]; exact if_pos hm

theorem RoundTrip.ushrN32 (b : BitVec 6) (a : BitVec 6) (d : BitVec 6) : RoundTrip.Statement (.ushrN32 b a d) := by
  intro hwf c hc
  obtain rfl := Option.some.inj hc
  have hn : (11#7 ++ b ++ a ++ d ++ 49#7 : BitVec 32).toNat = ((((11) * 2 ^ 6 + b.toNat) * 2 ^ 6 + a.toNat) * 2 ^ 6 + d.toNat) * 2 ^ 7 + 49 := by
    rw [app_nat, app_nat, app_nat, app_nat]; rfl
  have hm : (11#7 ++ b ++ a ++ d ++ 49#7) &&& (127#7 ++ 0#6 ++ 0#6 ++ 0#6 ++ 127#7) = (11#7 ++ 0#6 ++ 0#6 ++ 0#6 ++ 49#7) := by
    rw [and_app, and_app, and_app, and_app]; simp only [BitVec.and_zero]; rfl
  have lb := b.isLt
  have la := a.isLt
  have ld := d.isLt
  generalize (11#7 ++ b ++ a ++ d ++ 49#7 : BitVec 32) = w at *
  replace hm : w &&& 0xFE00007F#32 = 0x16000031#32 := hm
  show decode (Code.word w).bytes = _
  rw [decode_word w (by omega)]
  have f0 := ext_eq w 1 6 24 (by omega)
  refine decodeWord_ok w _ 24 f0 (by decide) (by decide) ?_ hwf
  unfold decode32; rw [f0]
  show dec18 w = _
  have e0 := ext_op w 19 b (by omega)
  have e1 := ext_op w 13 a (by omega)
  have e2 := ext_op w 7 d (by omega)
  unfold dec18; rw [ext_eq w 25 7 11 (by omega)]
  show row32 w _ _ (.ushrN32 (w.extractLsb' 19 6) (w.extractLsb' 13 6) (w.extractLsb' 7 6)) = _
  rw [e0, e1, e2]; exact if_pos hm

theorem RoundTrip.ushrI32 (b : BitVec 6) (a : BitVec 6) (d : BitVec 6) : RoundTrip.Statement (.ushrI32 b a d) := by
  intro hwf c hc
  obtain rfl := Option.some.inj hc
  have hn : (12#7 ++ b ++ a ++ d ++ 49#7 : BitVec 32).toNat = ((((12) * 2 ^ 6 + b.toNat) * 2 ^ 6 + a.toNat) * 2 ^ 6 + d.toNat) * 2 ^ 7 + 49 := by
    rw [app_nat, app_nat, app_nat, app_nat]; rfl
  have hm : (12#7 ++ b ++ a ++ d ++ 49#7) &&& (127#7 ++ 0#6 ++ 0#6 ++ 0#6 ++ 127#7) = (12#7 ++ 0#6 ++ 0#6 ++ 0#6 ++ 49#7) := by
    rw [and_app, and_app, and_app, and_app]; simp only [BitVec.and_zero]; rfl
  have lb := b.isLt
  have la := a.isLt
  have ld := d.isLt
  generalize (12#7 ++ b ++ a ++ d ++ 49#7 : BitVec 32) = w at *
  replace hm : w &&& 0xFE00007F#32 = 0x18000031#32 := hm
  show decode (Code.word w).bytes = _
  rw [decode_word w (by omega)]
  have f0 := ext_eq w 1 6 24 (by omega)
  refine decodeWord_ok w _ 24 f0 (by decide) (by decide) ?_ hwf
  unfold decode32; rw [f0]
  show dec18 w = _
  have e0 := ext_op w 19 b (by omega)
  have e1 := ext_op w 13 a (by omega)
  have e2 := ext_op w 7 d (by omega)
  unfold dec18; rw [ext_eq w 25 7 12 (by omega)]
  show row32 w _ _ (.ushrI32 (w.extractLsb' 19 6) (w.extractLsb' 13 6) (w.extractLsb' 7 6)) = _
  rw [e0, e1, e2]; exact if_pos hm

theorem RoundTrip.udivN32 (b : BitVec 6) (a : BitVec 6) (d : BitVec 6) : RoundTrip.Statement (.udivN32 b a d) := by
  intro hwf c hc
  obtain rfl := Option.some.inj hc
  have hn : (13#7 ++ b ++ a ++ d ++ 49#7 : BitVec 32).toNat = ((((13) * 2 ^ 6 + b.toNat) * 2 ^ 6 + a.toNat) * 2 ^ 6 + d.toNat) * 2 ^ 7 + 49 := by
    rw [app_nat, app_nat, app_nat, app_nat]; rfl
  have hm : (13#7 ++ b ++ a ++ d ++ 49#7) &&& (127#7 ++ 0#6 ++ 0#6 ++ 0#6 ++ 127#7) = (13#7 ++ 0#6 ++ 0#6 ++ 0#6 ++ 49#7) := by
    rw [and_app, and_app, and_app, and_app]; simp only [BitVec.and_zero]; rfl
  have lb := b.isLt
  have la := a.isLt
  have ld := d.isLt
  generalize (13#7 ++ b ++ a ++ d ++ 49#7 : BitVec 32) = w at *
  replace hm : w &&& 0xFE00007F#32 = 0x1A000031#32 := hm
  show decode (Code.word w).bytes = _
  rw [decode_word w (by omega)]
  have f0 := ext_eq w 1 6 24 (by omega)
  refine decodeWord_ok w _ 24 f0 (by decide) (by decide) ?_ hwf
  unfold decode32; rw [f0]
  show dec18 w = _
  have e0 := ext_op w 19 b (by omega)
  have e1 := ext_op w 13 a (by omega)
  have e2 := ext_op w 7 d (by omega)
  unfold dec18; rw [ext_eq w 25 7 13 (by omega)]
  show row32 w _ _ (.udivN32 (w.extractLsb' 19 6) (w.extractLsb' 13 6) (w.extractLsb' 7 6)) = _
  rw [e0, e1, e2]; exact if_pos hm

theorem RoundTrip.uremN32 (b : BitVec 6) (a : BitVec 6) (d : BitVec 6) : RoundTrip.Statement (.uremN32 b a d) := by
  intro hwf c hc
  obtain rfl := Option.some.inj hc
  have hn : (14#7 ++ b ++ a ++ d ++ 49#7 : BitVec 32).toNat = ((((14) * 2 ^ 6 + b.toNat) * 2 ^ 6 + a.toNat) * 2 ^ 6 + d.toNat) * 2 ^ 7 + 49 := by
    rw [app_nat, app_nat, app_nat, app_nat]; rfl
  have hm : (14#7 ++ b ++ a ++ d ++ 49#7) &&& (127#7 ++ 0#6 ++ 0#6 ++ 0#6 ++ 127#7) = (14#7 ++ 0#6 ++ 0#6 ++ 0#6 ++ 49#7) := by
    rw [and_app, and_app, and_app, and_app]; simp only [BitVec.and_zero]; rfl
  have lb := b.isLt
  have la := a.isLt
  have ld := d.isLt
  generalize (14#7 ++ b ++ a ++ d ++ 49#7 : BitVec 32) = w at *
  replace hm : w &&& 0xFE00007F#32 = 0x1C000031#32 := hm
  show decode (Code.word w).bytes = _
  rw [decode_word w (by omega)]
  have f0 := ext_eq w 1 6 24 (by omega)
  refine decodeWord_ok w _ 24 f0 (by decide) (by decide) ?_ hwf
  unfold decode32; rw [f0]
  show dec18 w = _
  have e0 := ext_op w 19 b (by omega)
  have e1 := ext_op w 13 a (by omega)
  have e2 := ext_op w 7 d (by omega)
  unfold dec18; rw [ext_eq w 25 7 14 (by omega)]
  show row32 w _ _ (.uremN32 (w.extractLsb' 19 6) (w.extractLsb' 13 6) (w.extractLsb' 7 6)) = _
  rw [e0, e1, e2]; exact if_pos hm

theorem RoundTrip.umov (b : BitVec 6) (d : BitVec 6) : RoundTrip.Statement (.umov b d) := by
  intro hwf c hc
  obtain rfl := Option.some.inj hc
  have hn : (15#7 ++ b ++ 0#6 ++ d ++ 49#7 : BitVec 32).toNat = ((((15) * 2 ^ 6 + b.toNat) * 2 ^ 6 + 0) * 2 ^ 6 + d.toNat) * 2 ^ 7 + 49 := by
    rw [app_nat, app_nat, app_nat, app_nat]; rfl
  have hm : (15#7 ++ b ++ 0#6 ++ d ++ 49#7) &&& (127#7 ++ 0#6 ++ 63#6 ++ 0#6 ++ 127#7) = (15#7 ++ 0#6 ++ 0#6 ++ 0#6 ++ 49#7) := by
    rw [and_app, and_app, and_app, and_app]; simp only [BitVec.and_zero]; rfl
  have lb := b.isLt
  have ld := d.isLt
  generalize (15#7 ++ b ++ 0#6 ++ d ++ 49#7 : BitVec 32) = w at *
  replace hm : w &&& 0xFE07E07F#32 = 0x1E000031#32 := hm
  show decode (Code.word w).bytes = _
  rw [decode_word w (by omega)]
  have f0 := ext_eq w 1 6 24 (by omega)
  refine decodeWord_ok w _ 24 f0 (by decide) (by decide) ?_ hwf
  unfold decode32; rw [f0]
  show dec18 w = _
  have e0 := ext_op w 19 b (by omega)
  have e1 := ext_op w 7 d (by omega)
  unfold dec18; rw [ext_eq w 25 7 15 (by omega)]
  show row32 w _ _ (.umov (w.extractLsb' 19 6) (w.extractLsb' 7 6)) = _
  rw [e0, e1]; exact if_pos hm

theorem RoundTrip.useqB32 (b : BitVec 6) (a : BitVec 6) (d : BitVec 6) : RoundTrip.Statement (.useqB32 b a d) := by
  intro hwf c hc
  obtain rfl := Option.some.inj hc
  have hn : (16#7 ++ b ++ a ++ d ++ 49#7 : BitVec 32).toNat = ((((16) * 2 ^ 6 + b.toNat) * 2 ^ 6 + a.toNat) * 2 ^ 6 + d.toNat) * 2 ^ 7 + 49 := by
    rw [app_nat, app_nat, app_nat, app_nat]; rfl
  have hm : (16#7 ++ b ++ a ++ d ++ 49#7) &&& (127#7 ++ 0#6 ++ 0#6 ++ 0#6 ++ 127#7) = (16#7 ++ 0#6 ++ 0#6 ++ 0#6 ++ 49#7) := by
    rw [and_app, and_app, and_app, and_app]; simp only [BitVec.and_zero]; rfl
  have lb := b.isLt
  have la := a.isLt
  have ld := d.isLt
  generalize (16#7 ++ b ++ a ++ d ++ 49#7 : BitVec 32) = w at *
  replace hm : w &&& 0xFE00007F#32 = 0x20000031#32 := hm
  show decode (Code.word w).bytes = _
  rw [decode_word w (by omega)]
  have f0 := ext_eq w 1 6 24 (by omega)
  refine decodeWord_ok w _ 24 f0 (by decide) (by decide) ?_ hwf
  unfold decode32; rw [f0]
  show dec18 w = _
  have e0 := ext_op w 19 b (by omega)
  have e1 := ext_op w 13 a (by omega)
  have e2 := ext_op w 7 d (by omega)
  unfold dec18; rw [ext_eq w 25 7 16 (by omega)]
  show row32 w _ _ (.useqB32 (w.extractLsb' 19 6) (w.extractLsb' 13 6) (w.extractLsb' 7 6)) = _
  rw [e0, e1, e2]; exact if_pos hm

theorem RoundTrip.usltI32 (b : BitVec 6) (a : BitVec 6) (d : BitVec 6) : RoundTrip.Statement (.usltI32 b a d) := by
  intro hwf c hc
  obtain rfl := Option.some.inj hc
  have hn : (17#7 ++ b ++ a ++ d ++ 49#7 : BitVec 32).toNat = ((((17) * 2 ^ 6 + b.toNat) * 2 ^ 6 + a.toNat) * 2 ^ 6 + d.toNat) * 2 ^ 7 + 49 := by
    rw [app_nat, app_nat, app_nat, app_nat]; rfl
  have hm : (17#7 ++ b ++ a ++ d ++ 49#7) &&& (127#7 ++ 0#6 ++ 0#6 ++ 0#6 ++ 127#7) = (17#7 ++ 0#6 ++ 0#6 ++ 0#6 ++ 49#7) := by
    rw [and_app, and_app, and_app, and_app]; simp only [BitVec.and_zero]; rfl
  have lb := b.isLt
  have la := a.isLt
  have ld := d.isLt
  generalize (17#7 ++ b ++ a ++ d ++ 49#7 : BitVec 32) = w at *
  replace hm : w &&& 0xFE00007F#32 = 0x22000031#32 := hm
  show decode (Code.word w).bytes = _
  rw [decode_word w (by omega)]
  have f0 := ext_eq w 1 6 24 (by omega)
  refine decodeWord_ok w _ 24 f0 (by decide) (by decide) ?_ hwf
  unfold decode32; rw [f0]
  show dec18 w = _
  have e0 := ext_op w 19 b (by omega)
  have e1 := ext_op w 13 a (by omega)
  have e2 := ext_op w 7 d (by omega)
  unfold dec18; rw [ext_eq w 25 7 17 (by omega)]
  show row32 w _ _ (.usltI32 (w.extractLsb' 19 6) (w.extractLsb' 13 6) (w.extractLsb' 7 6)) = _
  rw [e0, e1, e2]; exact if_pos hm

theorem RoundTrip.usltN32 (b : BitVec 6) (a : BitVec 6) (d : BitVec 6) : RoundTrip.Statement (.usltN32 b a d) := by
  intro hwf c hc
  obtain rfl := Option.some.inj hc
  have hn : (18#7 ++ b ++ a ++ d ++ 49#7 : BitVec 32).toNat = ((((18) * 2 ^ 6 + b.toNat) * 2 ^ 6 + a.toNat) * 2 ^ 6 + d.toNat) * 2 ^ 7 + 49 := by
    rw [app_nat, app_nat, app_nat, app_nat]; rfl
  have hm : (18#7 ++ b ++ a ++ d ++ 49#7) &&& (127#7 ++ 0#6 ++ 0#6 ++ 0#6 ++ 127#7) = (18#7 ++ 0#6 ++ 0#6 ++ 0#6 ++ 49#7) := by
    rw [and_app, and_app, and_app, and_app]; simp only [BitVec.and_zero]; rfl
  have lb := b.isLt
  have la := a.isLt
  have ld := d.isLt
  generalize (18#7 ++ b ++ a ++ d ++ 49#7 : BitVec 32) = w at *
  replace hm : w &&& 0xFE00007F#32 = 0x24000031#32 := hm
  show decode (Code.word w).bytes = _
  rw [decode_word w (by omega)]
  have f0 := ext_eq w 1 6 24 (by omega)
  refine decodeWord_ok w _ 24 f0 (by decide) (by decide) ?_ hwf
  unfold decode32; rw [f0]
  show dec18 w = _
  have e0 := ext_op w 19 b (by omega)
  have e1 := ext_op w 13 a (by omega)
  have e2 := ext_op w 7 d (by omega)
  unfold dec18; rw [ext_eq w 25 7 18 (by omega)]
  show row32 w _ _ (.usltN32 (w.extractLsb' 19 6) (w.extractLsb' 13 6) (w.extractLsb' 7 6)) = _
  rw [e0, e1, e2]; exact if_pos hm

theorem RoundTrip.udivI32 (b : BitVec 6) (a : BitVec 6) (d : BitVec 6) : RoundTrip.Statement (.udivI32 b a d) := by
  intro hwf c hc
  obtain rfl := Option.some.inj hc
  have hn : (19#7 ++ b ++ a ++ d ++ 49#7 : BitVec 32).toNat = ((((19) * 2 ^ 6 + b.toNat) * 2 ^ 6 + a.toNat) * 2 ^ 6 + d.toNat) * 2 ^ 7 + 49 := by
    rw [app_nat, app_nat, app_nat, app_nat]; rfl
  have hm : (19#7 ++ b ++ a ++ d ++ 49#7) &&& (127#7 ++ 0#6 ++ 0#6 ++ 0#6 ++ 127#7) = (19#7 ++ 0#6 ++ 0#6 ++ 0#6 ++ 49#7) := by
    rw [and_app, and_app, and_app, and_app]; simp only [BitVec.and_zero]; rfl
  have lb := b.isLt
  have la := a.isLt
  have ld := d.isLt
  generalize (19#7 ++ b ++ a ++ d ++ 49#7 : BitVec 32) = w at *
  replace hm : w &&& 0xFE00007F#32 = 0x26000031#32 := hm
  show decode (Code.word w).bytes = _
  rw [decode_word w (by omega)]
  have f0 := ext_eq w 1 6 24 (by omega)
  refine decodeWord_ok w _ 24 f0 (by decide) (by decide) ?_ hwf
  unfold decode32; rw [f0]
  show dec18 w = _
  have e0 := ext_op w 19 b (by omega)
  have e1 := ext_op w 13 a (by omega)
  have e2 := ext_op w 7 d (by omega)
  unfold dec18; rw [ext_eq w 25 7 19 (by omega)]
  show row32 w _ _ (.udivI32 (w.extractLsb' 19 6) (w.extractLsb' 13 6) (w.extractLsb' 7 6)) = _
  rw [e0, e1, e2]; exact if_pos hm

theorem RoundTrip.uremI32 (b : BitVec 6) (a : BitVec 6) (d : BitVec 6) : RoundTrip.Statement (.uremI32 b a d) := by
  intro hwf c hc
  obtain rfl := Option.some.inj hc
  have hn : (20#7 ++ b ++ a ++ d ++ 49#7 : BitVec 32).toNat = ((((20) * 2 ^ 6 + b.toNat) * 2 ^ 6 + a.toNat) * 2 ^ 6 + d.toNat) * 2 ^ 7 + 49 := by
    rw [app_nat, app_nat, app_nat, app_nat]; rfl
  have hm : (20#7 ++ b ++ a ++ d ++ 49#7) &&& (127#7 ++ 0#6 ++ 0#6 ++ 0#6 ++ 127#7) = (20#7 ++ 0#6 ++ 0#6 ++ 0#6 ++ 49#7) := by
    rw [and_app, and_app, and_app, and_app]; simp only [BitVec.and_zero]; rfl
  have lb := b.isLt
  have la := a.isLt
  have ld := d.isLt
  generalize (20#7 ++ b ++ a ++ d ++ 49#7 : BitVec 32) = w at *
  replace hm : w &&& 0xFE00007F#32 = 0x28000031#32 := hm
  show decode (Code.word w).bytes = _
  rw [decode_word w (by omega)]
  have f0 := ext_eq w 1 6 24 (by omega)
  refine decodeWord_ok w _ 24 f0 (by decide) (by decide) ?_ hwf
  unfold decode32; rw [f0]
  show dec18 w = _
  have e0 := ext_op w 19 b (by omega)
  have e1 := ext_op w 13 a (by omega)
  have e2 := ext_op w 7 d (by omega)
  unfold dec18; rw [ext_eq w 25 7 20 (by omega)]
  show row32 w _ _ (.uremI32 (w.extractLsb' 19 6) (w.extractLsb' 13 6) (w.extractLsb' 7 6)) = _
  rw [e0, e1, e2]; exact if_pos hm

theorem RoundTrip.uaddi (i : BitVec 13) (a : BitVec 6) (d : BitVec 6) : RoundTrip.Statement (.uaddi i a d) := by
  intro hwf c hc
  obtain rfl := Option.some.inj hc
  have hn : (i ++ a ++ d ++ 51#7 : BitVec 32).toNat = (((i.toNat) * 2 ^ 6 + a.toNat) * 2 ^ 6 + d.toNat) * 2 ^ 7 + 51 := by
    rw [app_nat, app_nat, app_nat]; rfl
  have hm : (i ++ a ++ d ++ 51#7) &&& (0#13 ++ 0#6 ++ 0#6 ++ 127#7) = (0#13 ++ 0#6 ++ 0#6 ++ 51#7) := by
    rw [and_app, and_app, and_app]; simp only [BitVec.and_zero]; rfl
  have li := i.isLt
  have la := a.isLt
  have ld := d.isLt
  generalize (i ++ a ++ d ++ 51#7 : BitVec 32) = w at *
  replace hm : w &&& 0x0000007F#32 = 0x00000033#32 := hm
  show decode (Code.word w).bytes = _
  rw [decode_word w (by omega)]
  have f0 := ext_eq w 1 6 25 (by omega)
  refine decodeWord_ok w _ 25 f0 (by decide) (by decide) ?_ hwf
  unfold decode32; rw [f0]
  show dec19 w = _
  have e0 := ext_op w 19 i (by omega)
  have e1 := ext_op w 13 a (by omega)
  have e2 := ext_op w 7 d (by omega)
  show row32 w _ _ (.uaddi (w.extractLsb' 19 13) (w.extractLsb' 13 6) (w.extractLsb' 7 6)) = _
  rw [e0, e1, e2]; exact if_pos hm

theorem RoundTrip.umovi (i : BitVec 13) (d : BitVec 6) : RoundTrip.Statement (.umovi i d) := by
  intro hwf c hc
  obtain rfl := Option.some.inj hc
  have hn : (i ++ 0#6 ++ d ++ 53#7 : BitVec 32).toNat = (((i.toNat) * 2 ^ 6 + 0) * 2 ^ 6 + d.toNat) * 2 ^ 7 + 53 := by
    rw [app_nat, app_nat, app_nat]; rfl
  have hm : (i ++ 0#6 ++ d ++ 53#7) &&& (0#13 ++ 63#6 ++ 0#6 ++ 127#7) = (0#13 ++ 0#6 ++ 0#6 ++ 53#7) := by
    rw [and_app, and_app, and_app]; simp only [BitVec.and_zero]; rfl
  have li := i.isLt
  have ld := d.isLt
  generalize (i ++ 0#6 ++ d ++ 53#7 : BitVec 32) = w at *
  replace hm : w &&& 0x0007E07F#32 = 0x00000035#32 := hm
  show decode (Code.word w).bytes = _
  rw [decode_word w (by omega)]
  have f0 := ext_eq w 1 6 26 (by omega)
  refine decodeWord_ok w _ 26 f0 (by decide) (by decide) ?_ hwf
  unfold decode32; rw [f0]
  show dec1A w = _
  have e0 := ext_op w 19 i (by omega)
  have e1 := ext_op w 7 d (by omega)
  show row32 w _ _ (.umovi (w.extractLsb' 19 13) (w.extractLsb' 7 6)) = _
  rw [e0, e1]; exact if_pos hm

theorem RoundTrip.cmovRead (n : BitVec 12) (s : BitVec 6) : RoundTrip.Statement (.cmovRead n s) := by
  intro hwf c hc
  obtain rfl := Option.some.inj hc
  have hn : (n ++ 0#7 ++ s ++ 55#7 : BitVec 32).toNat = (((n.toNat) * 2 ^ 7 + 0) * 2 ^ 6 + s.toNat) * 2 ^ 7 + 55 := by
    rw [app_nat, app_nat, app_nat]; rfl
  have hm : (n ++ 0#7 ++ s ++ 55#7) &&& (0#12 ++ 127#7 ++ 0#6 ++ 127#7) = (0#12 ++ 0#7 ++ 0#6 ++ 55#7) := by
    rw [and_app, and_app, and_app]; simp only [BitVec.and_zero]; rfl
  have ln := n.isLt
  have ls := s.isLt
  generalize (n ++ 0#7 ++ s ++ 55#7 : BitVec 32) = w at *
  replace hm : w &&& 0x000FE07F#32 = 0x00000037#32 := hm
  show decode (Code.word w).bytes = _
  rw [decode_word w (by omega)]
  have f0 := ext_eq w 1 6 27 (by omega)
  refine decodeWord_ok w _ 27 f0 (by decide) (by decide) ?_ hwf
  unfold decode32; rw [f0]
  show dec1B w = _
  have e0 := ext_op w 20 n (by omega)
  have e1 := ext_op w 7 s (by omega)
  unfold dec1B; rw [ext_eq w 13 7 0 (by omega)]
  show row32 w _ _ (.cmovRead (w.extractLsb' 20 12) (w.extractLsb' 7 6)) = _
  rw [e0, e1]; exact if_pos hm

theorem RoundTrip.cmovWrite (n : BitVec 12) (s : BitVec 6) : RoundTrip.Statement (.cmovWrite n s) := by
  intro hwf c hc
  obtain rfl := Option.some.inj hc
  have hn : (n ++ 1#7 ++ s ++ 55#7 : BitVec 32).toNat = (((n.toNat) * 2 ^ 7 + 1) * 2 ^ 6 + s.toNat) * 2 ^ 7 + 55 := by
    rw [app_nat, app_nat, app_nat]; rfl
  have hm : (n ++ 1#7 ++ s ++ 55#7) &&& (0#12 ++ 127#7 ++ 0#6 ++ 127#7) = (0#12 ++ 1#7 ++ 0#6 ++ 55#7) := by
    rw [and_app, and_app, and_app]; simp only [BitVec.and_zero]; rfl
  have ln := n.isLt
  have ls := s.isLt
  generalize (n ++ 1#7 ++ s ++ 55#7 : BitVec 32) = w at *
  replace hm : w &&& 0x000FE07F#32 = 0x00002037#32 := hm
  show decode (Code.word w).bytes = _
  rw [decode_word w (by omega)]
  have f0 := ext_eq w 1 6 27 (by omega)
  refine decodeWord_ok w _ 27 f0 (by decide) (by decide) ?_ hwf
  unfold decode32; rw [f0]
  show dec1B w = _
  have e0 := ext_op w 20 n (by omega)
  have e1 := ext_op w 7 s (by omega)
  unfold dec1B; rw [ext_eq w 13 7 1 (by omega)]
  show row32 w _ _ (.cmovWrite (w.extractLsb' 20 12) (w.extractLsb' 7 6)) = _
  rw [e0, e1]; exact if_pos hm

theorem RoundTrip.br (o : BitVec 20) : RoundTrip.Statement (.br o) := by
  intro hwf c hc
  obtain rfl := Option.some.inj hc
  have hn : (o ++ 57#12 : BitVec 32).toNat = (o.toNat) * 2 ^ 12 + 57 := by
    rw [app_nat]; rfl
  have hm : (o ++ 57#12) &&& (0#20 ++ 4095#12) = (0#20 ++ 57#12) := by
    rw [and_app]; simp only [BitVec.and_zero]; rfl
  have lo := o.isLt
  generalize (o ++ 57#12 : BitVec 32) = w at *
  replace hm : w &&& 0x00000FFF#32 = 0x00000039#32 := hm
  show decode (Code.word w).bytes = _
  rw [decode_word w (by omega)]
  have f0 := ext_eq w 1 6 28 (by omega)
  refine decodeWord_ok w _ 28 f0 (by decide) (by decide) ?_ hwf
  unfold decode32; rw [f0]
  show dec1C w = _
  have e0 := ext_op w 12 o (by omega)
  unfold dec1C; rw [ext_eq w 11 1 0 (by omega)]
  show row32 w _ _ (.br (w.extractLsb' 12 20)) = _
  rw [e0]; exact if_pos hm

theorem RoundTrip.brCond (o : BitVec 20) (n : BitVec 1) (p : BitVec 3) : RoundTrip.Statement (.brCond o n p) := by
  intro hwf c hc
  obtain rfl := Option.some.inj hc
  have hn : (o ++ 1#1 ++ n ++ p ++ 57#7 : BitVec 32).toNat = ((((o.toNat) * 2 ^ 1 + 1) * 2 ^ 1 + n.toNat) * 2 ^ 3 + p.toNat) * 2 ^ 7 + 57 := by
    rw [app_nat, app_nat, app_nat, app_nat]; rfl
  have hm : (o ++ 1#1 ++ n ++ p ++ 57#7) &&& (0#20 ++ 1#1 ++ 0#1 ++ 0#3 ++ 127#7) = (0#20 ++ 1#1 ++ 0#1 ++ 0#3 ++ 57#7) := by
    rw [and_app, and_app, and_app, and_app]; simp only [BitVec.and_zero]; rfl
  have lo := o.isLt
  have ln := n.isLt
  have lp := p.isLt
  generalize (o ++ 1#1 ++ n ++ p ++ 57#7 : BitVec 32) = w at *
  replace hm : w &&& 0x0000087F#32 = 0x00000839#32 := hm
  show decode (Code.word w).bytes = _
  rw [decode_word w (by omega)]
  have f0 := ext_eq w 1 6 28 (by omega)
  refine decodeWord_ok w _ 28 f0 (by decide) (by decide) ?_ hwf
  unfold decode32; rw [f0]
  show dec1C w = _
  have e0 := ext_op w 12 o (by omega)
  have e1 := ext_op w 10 n (by omega)
  have e2 := ext_op w 7 p (by omega)
  unfold dec1C; rw [ext_eq w 11 1 1 (by omega)]
  show row32 w _ _ (.brCond (w.extractLsb' 12 20) (w.extractLsb' 10 1) (w.extractLsb' 7 3)) = _
  rw [e0, e1, e2]; exact if_pos hm

theorem RoundTrip.call (o : BitVec 20) : RoundTrip.Statement (.call o) := by
  intro hwf c hc
  obtain rfl := Option.some.inj hc
  have hn : (o ++ 59#12 : BitVec 32).toNat = (o.toNat) * 2 ^ 12 + 59 := by
    rw [app_nat]; rfl
  have hm : (o ++ 59#12) &&& (0#20 ++ 4095#12) = (0#20 ++ 59#12) := by
    rw [and_app]; simp only [BitVec.and_zero]; rfl
  have lo := o.isLt
  generalize (o ++ 59#12 : BitVec 32) = w at *
  replace hm : w &&& 0x00000FFF#32 = 0x0000003B#32 := hm
  show decode (Code.word w).bytes = _
  rw [decode_word w (by omega)]
  have f0 := ext_eq w 1 6 29 (by omega)
  refine decodeWord_ok w _ 29 f0 (by decide) (by decide) ?_ hwf
  unfold decode32; rw [f0]
  show dec1D w = _
  have e0 := ext_op w 12 o (by omega)
  unfold dec1D; rw [ext_eq w 11 1 0 (by omega)]
  show row32 w _ _ (.call (w.extractLsb' 12 20)) = _
  rw [e0]; exact if_pos hm

theorem RoundTrip.callCond (o : BitVec 20) (n : BitVec 1) (p : BitVec 3) : RoundTrip.Statement (.callCond o n p) := by
  intro hwf c hc
  obtain rfl := Option.some.inj hc
  have hn : (o ++ 1#1 ++ n ++ p ++ 59#7 : BitVec 32).toNat = ((((o.toNat) * 2 ^ 1 + 1) * 2 ^ 1 + n.toNat) * 2 ^ 3 + p.toNat) * 2 ^ 7 + 59 := by
    rw [app_nat, app_nat, app_nat, app_nat]; rfl
  have hm : (o ++ 1#1 ++ n ++ p ++ 59#7) &&& (0#20 ++ 1#1 ++ 0#1 ++ 0#3 ++ 127#7) = (0#20 ++ 1#1 ++ 0#1 ++ 0#3 ++ 59#7) := by
    rw [and_app, and_app, and_app, and_app]; simp only [BitVec.and_zero]; rfl
  have lo := o.isLt
  have ln := n.isLt
  have lp := p.isLt
  generalize (o ++ 1#1 ++ n ++ p ++ 59#7 : BitVec 32) = w at *
  replace hm : w &&& 0x0000087F#32 = 0x0000083B#32 := hm
  show decode (Code.word w).bytes = _
  rw [decode_word w (by omega)]
  have f0 := ext_eq w 1 6 29 (by omega)
  refine decodeWord_ok w _ 29 f0 (by decide) (by decide) ?_ hwf
  unfold decode32; rw [f0]
  show dec1D w = _
  have e0 := ext_op w 12 o (by omega)
  have e1 := ext_op w 10 n (by omega)
  have e2 := ext_op w 7 p (by omega)
  unfold dec1D; rw [ext_eq w 11 1 1 (by omega)]
  show row32 w _ _ (.callCond (w.extractLsb' 12 20) (w.extractLsb' 10 1) (w.extractLsb' 7 3)) = _
  rw [e0, e1, e2]; exact if_pos hm

theorem RoundTrip.jmp (a : BitVec 6) : RoundTrip.Statement (.jmp a) := by
  intro hwf c hc
  obtain rfl := Option.some.inj hc
  have hn : (0#13 ++ a ++ 61#13 : BitVec 32).toNat = ((0) * 2 ^ 6 + a.toNat) * 2 ^ 13 + 61 := by
    rw [app_nat, app_nat]; rfl
  have hm : (0#13 ++ a ++ 61#13) &&& (8191#13 ++ 0#6 ++ 8191#13) = (0#13 ++ 0#6 ++ 61#13) := by
    rw [and_app, and_app]; simp only [BitVec.and_zero]; rfl
  have la := a.isLt
  generalize (0#13 ++ a ++ 61#13 : BitVec 32) = w at *
  replace hm : w &&& 0xFFF81FFF#32 = 0x0000003D#32 := hm
  show decode (Code.word w).bytes = _
  rw [decode_word w (by omega)]
  have f0 := ext_eq w 1 6 30 (by omega)
  refine decodeWord_ok w _ 30 f0 (by decide) (by decide) ?_ hwf
  unfold decode32; rw [f0]
  show dec1E w = _
  have e0 := ext_op w 13 a (by omega)
  unfold dec1E; rw [ext_eq w 25 7 0 (by omega)]
  show row32 w _ _ (.jmp (w.extractLsb' 13 6)) = _
  rw [e0]; exact if_pos hm

theorem RoundTrip.calli (a : BitVec 6) : RoundTrip.Statement (.calli a) := by
  intro hwf c hc
  obtain rfl := Option.some.inj hc
  have hn : (64#13 ++ a ++ 61#13 : BitVec 32).toNat = ((64) * 2 ^ 6 + a.toNat) * 2 ^ 13 + 61 := by
    rw [app_nat, app_nat]; rfl
  have hm : (64#13 ++ a ++ 61#13) &&& (8191#13 ++ 0#6 ++ 8191#13) = (64#13 ++ 0#6 ++ 61#13) := by
    rw [and_app, and_app]; simp only [BitVec.and_zero]; rfl
  have la := a.isLt
  generalize (64#13 ++ a ++ 61#13 : BitVec 32) = w at *
  replace hm : w &&& 0xFFF81FFF#32 = 0x0200003D#32 := hm
  show decode (Code.word w).bytes = _
  rw [decode_word w (by omega)]
  have f0 := ext_eq w 1 6 30 (by omega)
  refine decodeWord_ok w _ 30 f0 (by decide) (by decide) ?_ hwf
  unfold decode32; rw [f0]
  show dec1E w = _
  have e0 := ext_op w 13 a (by omega)
  unfold dec1E; rw [ext_eq w 25 7 1 (by omega)]
  show row32 w _ _ (.calli (w.extractLsb' 13 6)) = _
  rw [e0]; exact if_pos hm

theorem RoundTrip.ret : RoundTrip.Statement .ret := by
  intro hwf c hc
  obtain rfl := Option.some.inj hc
  decide

theorem RoundTrip.ldlB32 (o : BitVec 18) (d : BitVec 7) : RoundTrip.Statement (.ldlB32 o d) := by
  intro hwf c hc
  obtain rfl := Option.some.inj hc
  have hn : (o ++ d ++ 63#7 : BitVec 32).toNat = ((o.toNat) * 2 ^ 7 + d.toNat) * 2 ^ 7 + 63 := by
    rw [app_nat, app_nat]; rfl
  have hm : (o ++ d ++ 63#7) &&& (0#18 ++ 0#7 ++ 127#7) = (0#18 ++ 0#7 ++ 63#7) := by
    rw [and_app, and_app]; simp only [BitVec.and_zero]; rfl
  have lo := o.isLt
  have ld := d.isLt
  generalize (o ++ d ++ 63#7 : BitVec 32) = w at *
  replace hm : w &&& 0x0000007F#32 = 0x0000003F#32 := hm
  show decode (Code.word w).bytes = _
  rw [decode_word w (by omega)]
  have f0 := ext_eq w 1 6 31 (by omega)
  refine decodeWord_ok w _ 31 f0 (by decide) (by decide) ?_ hwf
  unfold decode32; rw [f0]
  show dec1F w = _
  have e0 := ext_op w 14 o (by omega)
  have e1 := ext_op w 7 d (by omega)
  show row32 w _ _ (.ldlB32 (w.extractLsb' 14 18) (w.extractLsb' 7 7)) = _
  rw [e0, e1]; exact if_pos hm

theorem RoundTrip.ldlB64 (o : BitVec 18) (d : BitVec 7) : RoundTrip.Statement (.ldlB64 o d) := by
  intro hwf c hc
  obtain rfl := Option.some.inj hc
  have hn : (o ++ d ++ 65#7 : BitVec 32).toNat = ((o.toNat) * 2 ^ 7 + d.toNat) * 2 ^ 7 + 65 := by
    rw [app_nat, app_nat]; rfl
  have hm : (o ++ d ++ 65#7) &&& (0#18 ++ 0#7 ++ 127#7) = (0#18 ++ 0#7 ++ 65#7) := by
    rw [and_app, and_app]; simp only [BitVec.and_zero]; rfl
  have lo := o.isLt
  have ld := d.isLt
  generalize (o ++ d ++ 65#7 : BitVec 32) = w at *
  replace hm : w &&& 0x0000007F#32 = 0x00000041#32 := hm
  show decode (Code.word w).bytes = _
  rw [decode_word w (by omega)]
  have f0 := ext_eq w 1 6 32 (by omega)
  refine decodeWord_ok w _ 32 f0 (by decide) (by decide) ?_ hwf
  unfold decode32; rw [f0]
  show dec20 w = _
  have e0 := ext_op w 14 o (by omega)
  have e1 := ext_op w 7 d (by omega)
  show row32 w _ _ (.ldlB64 (w.extractLsb' 14 18) (w.extractLsb' 7 7)) = _
  rw [e0, e1]; exact if_pos hm

theorem RoundTrip.ldB32 (o : BitVec 8) (s : BitVec 2) (a : BitVec 7) (d : BitVec 7) : RoundTrip.Statement (.ldB32 o s a d) := by
  intro hwf c hc
  obtain rfl := Option.some.inj hc
  have hn : (o ++ 0#1 ++ s ++ a ++ d ++ 67#7 : BitVec 32).toNat = (((((o.toNat) * 2 ^ 1 + 0) * 2 ^ 2 + s.toNat) * 2 ^ 7 + a.toNat) * 2 ^ 7 + d.toNat) * 2 ^ 7 + 67 := by
    rw [app_nat, app_nat, app_nat, app_nat, app_nat]; rfl
  have hm : (o ++ 0#1 ++ s ++ a ++ d ++ 67#7) &&& (0#8 ++ 1#1 ++ 0#2 ++ 0#7 ++ 0#7 ++ 127#7) = (0#8 ++ 0#1 ++ 0#2 ++ 0#7 ++ 0#7 ++ 67#7) := by
    rw [and_app, and_app, and_app, and_app, and_app]; simp only [BitVec.and_zero]; rfl
  have lo := o.isLt
  have ls := s.isLt
  have la := a.isLt
  have ld := d.isLt
  generalize (o ++ 0#1 ++ s ++ a ++ d ++ 67#7 : BitVec 32) = w at *
  replace hm : w &&& 0x0080007F#32 = 0x00000043#32 := hm
  show decode (Code.word w).bytes = _
  rw [decode_word w (by omega)]
  have f0 := ext_eq w 1 6 33 (by omega)
  refine decodeWord_ok w _ 33 f0 (by decide) (by decide) ?_ hwf
  unfold decode32; rw [f0]
  show dec21 w = _
  have e0 := ext_op w 24 o (by omega)
  have e1 := ext_op w 21 s (by omega)
  have e2 := ext_op w 14 a (by omega)
  have e3 := ext_op w 7 d (by omega)
  show row32 w _ _ (.ldB32 (w.extractLsb' 24 8) (w.extractLsb' 21 2) (w.extractLsb' 14 7) (w.extractLsb' 7 7)) = _
  rw [e0, e1, e2, e3]; exact if_pos hm

theorem RoundTrip.ldB64 (o : BitVec 8) (s : BitVec 2) (a : BitVec 7) (d : BitVec 7) : RoundTrip.Statement (.ldB64 o s a d) := by
  intro hwf c hc
  obtain rfl := Option.some.inj hc
  have hn : (o ++ 0#1 ++ s ++ a ++ d ++ 69#7 : BitVec 32).toNat = (((((o.toNat) * 2 ^ 1 + 0) * 2 ^ 2 + s.toNat) * 2 ^ 7 + a.toNat) * 2 ^ 7 + d.toNat) * 2 ^ 7 + 69 := by
    rw [app_nat, app_nat, app_nat, app_nat, app_nat]; rfl
  have hm : (o ++ 0#1 ++ s ++ a ++ d ++ 69#7) &&& (0#8 ++ 1#1 ++ 0#2 ++ 0#7 ++ 0#7 ++ 127#7) = (0#8 ++ 0#1 ++ 0#2 ++ 0#7 ++ 0#7 ++ 69#7) := by
    rw [and_app, and_app, and_app, and_app, and_app]; simp only [BitVec.and_zero]; rfl
  have lo := o.isLt
  have ls := s.isLt
  have la := a.isLt
  have ld := d.isLt
  generalize (o ++ 0#1 ++ s ++ a ++ d ++ 69#7 : BitVec 32) = w at *
  replace hm : w &&& 0x0080007F#32 = 0x00000045#32 := hm
  show decode (Code.word w).bytes = _
  rw [decode_word w (by omega)]
  have f0 := ext_eq w 1 6 34 (by omega)
  refine decodeWord_ok w _ 34 f0 (by decide) (by decide) ?_ hwf
  unfold decode32; rw [f0]
  show dec22 w = _
  have e0 := ext_op w 24 o (by omega)
  have e1 := ext_op w 21 s (by omega)
  have e2 := ext_op w 14 a (by omega)
  have e3 := ext_op w 7 d (by omega)
  show row32 w _ _ (.ldB64 (w.extractLsb' 24 8) (w.extractLsb' 21 2) (w.extractLsb' 14 7) (w.extractLsb' 7 7)) = _
  rw [e0, e1, e2, e3]; exact if_pos hm

theorem RoundTrip.ldB128 (o : BitVec 8) (s : BitVec 2) (a : BitVec 7) (d : BitVec 7) : RoundTrip.Statement (.ldB128 o s a d) := by
  intro hwf c hc
  obtain rfl := Option.some.inj hc
  have hn : (o ++ 0#1 ++ s ++ a ++ d ++ 71#7 : BitVec 32).toNat = (((((o.toNat) * 2 ^ 1 + 0) * 2 ^ 2 + s.toNat) * 2 ^ 7 + a.toNat) * 2 ^ 7 + d.toNat) * 2 ^ 7 + 71 := by
    rw [app_nat, app_nat, app_nat, app_nat, app_nat]; rfl
  have hm : (o ++ 0#1 ++ s ++ a ++ d ++ 71#7) &&& (0#8 ++ 1#1 ++ 0#2 ++ 0#7 ++ 0#7 ++ 127#7) = (0#8 ++ 0#1 ++ 0#2 ++ 0#7 ++ 0#7 ++ 71#7) := by
    rw [and_app, and_app, and_app, and_app, and_app]; simp only [BitVec.and_zero]; rfl
  have lo := o.isLt
  have ls := s.isLt
  have la := a.isLt
  have ld := d.isLt
  generalize (o ++ 0#1 ++ s ++ a ++ d ++ 71#7 : BitVec 32) = w at *
  replace hm : w &&& 0x0080007F#32 = 0x00000047#32 := hm
  show decode (Code.word w).bytes = _
  rw [decode_word w (by omega)]
  have f0 := ext_eq w 1 6 35 (by omega)
  refine decodeWord_ok w _ 35 f0 (by decide) (by decide) ?_ hwf
  unfold decode32; rw [f0]
  show dec23 w = _
  have e0 := ext_op w 24 o (by omega)
  have e1 := ext_op w 21 s (by omega)
  have e2 := ext_op w 14 a (by omega)
  have e3 := ext_op w 7 d (by omega)
  show row32 w _ _ (.ldB128 (w.extractLsb' 24 8) (w.extractLsb' 21 2) (w.extractLsb' 14 7) (w.extractLsb' 7 7)) = _
  rw [e0, e1, e2, e3]; exact if_pos hm

theorem RoundTrip.stB32 (o : BitVec 8) (i : BitVec 1) (s : BitVec 2) (a : BitVec 7) (d : BitVec 7) : RoundTrip.Statement (.stB32 o i s a d) := by
  intro hwf c hc
  obtain rfl := Option.some.inj hc
  have hn : (o ++ i ++ s ++ a ++ d ++ 73#7 : BitVec 32).toNat = (((((o.toNat) * 2 ^ 1 + i.toNat) * 2 ^ 2 + s.toNat) * 2 ^ 7 + a.toNat) * 2 ^ 7 + d.toNat) * 2 ^ 7 + 73 := by
    rw [app_nat, app_nat, app_nat, app_nat, app_nat]; rfl
  have hm : (o ++ i ++ s ++ a ++ d ++ 73#7) &&& (0#8 ++ 0#1 ++ 0#2 ++ 0#7 ++ 0#7 ++ 127#7) = (0#8 ++ 0#1 ++ 0#2 ++ 0#7 ++ 0#7 ++ 73#7) := by
    rw [and_app, and_app, and_app, and_app, and_app]; simp only [BitVec.and_zero]; rfl
  have lo := o.isLt
  have li := i.isLt
  have ls := s.isLt
  have la := a.isLt
  have ld := d.isLt
  generalize (o ++ i ++ s ++ a ++ d ++ 73#7 : BitVec 32) = w at *
  replace hm : w &&& 0x0000007F#32 = 0x00000049#32 := hm
  show decode (Code.word w).bytes = _
  rw [decode_word w (by omega)]
  have f0 := ext_eq w 1 6 36 (by omega)
  refine decodeWord_ok w _ 36 f0 (by decide) (by decide) ?_ hwf
  unfold decode32; rw [f0]
  show dec24 w = _
  have e0 := ext_op w 24 o (by omega)
  have e1 := ext_op w 23 i (by omega)
  have e2 := ext_op w 21 s (by omega)
  have e3 := ext_op w 14 a (by omega)
  have e4 := ext_op w 7 d (by omega)
  show row32 w _ _ (.stB32 (w.extractLsb' 24 8) (w.extractLsb' 23 1) (w.extractLsb' 21 2) (w.extractLsb' 14 7) (w.extractLsb' 7 7)) = _
  rw [e0, e1, e2, e3, e4]; exact if_pos hm

theorem RoundTrip.stB64 (o : BitVec 8) (i : BitVec 1) (s : BitVec 2) (a : BitVec 7) (d : BitVec 7) : RoundTrip.Statement (.stB64 o i s a d) := by
  intro hwf c hc
  obtain rfl := Option.some.inj hc
  have hn : (o ++ i ++ s ++ a ++ d ++ 75#7 : BitVec 32).toNat = (((((o.toNat) * 2 ^ 1 + i.toNat) * 2 ^ 2 + s.toNat) * 2 ^ 7 + a.toNat) * 2 ^ 7 + d.toNat) * 2 ^ 7 + 75 := by
    rw [app_nat, app_nat, app_nat, app_nat, app_nat]; rfl
  have hm : (o ++ i ++ s ++ a ++ d ++ 75#7) &&& (0#8 ++ 0#1 ++ 0#2 ++ 0#7 ++ 0#7 ++ 127#7) = (0#8 ++ 0#1 ++ 0#2 ++ 0#7 ++ 0#7 ++ 75#7) := by
    rw [and_app, and_app, and_app, and_app, and_app]; simp only [BitVec.and_zero]; rfl
  have lo := o.isLt
  have li := i.isLt
  have ls := s.isLt
  have la := a.isLt
  have ld := d.isLt
  generalize (o ++ i ++ s ++ a ++ d ++ 75#7 : BitVec 32) = w at *
  replace hm : w &&& 0x0000007F#32 = 0x0000004B#32 := hm
  show decode (Code.word w).bytes = _
  rw [decode_word w (by omega)]
  have f0 := ext_eq w 1 6 37 (by omega)
  refine decodeWord_ok w _ 37 f0 (by decide) (by decide) ?_ hwf
  unfold decode32; rw [f0]
  show dec25 w = _
  have e0 := ext_op w 24 o (by omega)
  have e1 := ext_op w 23 i (by omega)
  have e2 := ext_op w 21 s (by omega)
  have e3 := ext_op w 14 a (by omega)
  have e4 := ext_op w 7 d (by omega)
  show row32 w _ _ (.stB64 (w.extractLsb' 24 8) (w.extractLsb' 23 1) (w.extractLsb' 21 2) (w.extractLsb' 14 7) (w.extractLsb' 7 7)) = _
  rw [e0, e1, e2, e3, e4]; exact if_pos hm

theorem RoundTrip.stB128 (o : BitVec 8) (i : BitVec 1) (s : BitVec 2) (a : BitVec 7) (d : BitVec 7) : RoundTrip.Statement (.stB128 o i s a d) := by
  intro hwf c hc
  obtain rfl := Option.some.inj hc
  have hn : (o ++ i ++ s ++ a ++ d ++ 77#7 : BitVec 32).toNat = (((((o.toNat) * 2 ^ 1 + i.toNat) * 2 ^ 2 + s.toNat) * 2 ^ 7 + a.toNat) * 2 ^ 7 + d.toNat) * 2 ^ 7 + 77 := by
    rw [app_nat, app_nat, app_nat, app_nat, app_nat]; rfl
  have hm : (o ++ i ++ s ++ a ++ d ++ 77#7) &&& (0#8 ++ 0#1 ++ 0#2 ++ 0#7 ++ 0#7 ++ 127#7) = (0#8 ++ 0#1 ++ 0#2 ++ 0#7 ++ 0#7 ++ 77#7) := by
    rw [and_app, and_app, and_app, and_app, and_app]; simp only [BitVec.and_zero]; rfl
  have lo := o.isLt
  have li := i.isLt
  have ls := s.isLt
  have la := a.isLt
  have ld := d.isLt
  generalize (o ++ i ++ s ++ a ++ d ++ 77#7 : BitVec 32) = w at *
  replace hm : w &&& 0x0000007F#32 = 0x0000004D#32 := hm
  show decode (Code.word w).bytes = _
  rw [decode_word w (by omega)]
  have f0 := ext_eq w 1 6 38 (by omega)
  refine decodeWord_ok w _ 38 f0 (by decide) (by decide) ?_ hwf
  unfold decode32; rw [f0]
  show dec26 w = _
  have e0 := ext_op w 24 o (by omega)
  have e1 := ext_op w 23 i (by omega)
  have e2 := ext_op w 21 s (by omega)
  have e3 := ext_op w 14 a (by omega)
  have e4 := ext_op w 7 d (by omega)
  show row32 w _ _ (.stB128 (w.extractLsb' 24 8) (w.extractLsb' 23 1) (w.extractLsb' 21 2) (w.extractLsb' 14 7) (w.extractLsb' 7 7)) = _
  rw [e0, e1, e2, e3, e4]; exact if_pos hm

theorem RoundTrip.ldB32Ord (g : BitVec 4) (o : BitVec 3) (s : BitVec 2) (a : BitVec 7) (d : BitVec 7) : RoundTrip.Statement (.ldB32Ord g o s a d) := by
  intro hwf c hc
  obtain rfl := Option.some.inj hc
  have hn : (g ++ o ++ s ++ 0#2 ++ a ++ d ++ 79#7 : BitVec 32).toNat = ((((((g.toNat) * 2 ^ 3 + o.toNat) * 2 ^ 2 + s.toNat) * 2 ^ 2 + 0) * 2 ^ 7 + a.toNat) * 2 ^ 7 + d.toNat) * 2 ^ 7 + 79 := by
    rw [app_nat, app_nat, app_nat, app_nat, app_nat, app_nat]; rfl
  have hm : (g ++ o ++ s ++ 0#2 ++ a ++ d ++ 79#7) &&& (0#4 ++ 0#3 ++ 0#2 ++ 3#2 ++ 0#7 ++ 0#7 ++ 127#7) = (0#4 ++ 0#3 ++ 0#2 ++ 0#2 ++ 0#7 ++ 0#7 ++ 79#7) := by
    rw [and_app, and_app, and_app, and_app, and_app, and_app]; simp only [BitVec.and_zero]; rfl
  have lg := g.isLt
  have lo := o.isLt
  have ls := s.isLt
  have la := a.isLt
  have ld := d.isLt
  generalize (g ++ o ++ s ++ 0#2 ++ a ++ d ++ 79#7 : BitVec 32) = w at *
  replace hm : w &&& 0x0060007F#32 = 0x0000004F#32 := hm
  show decode (Code.word w).bytes = _
  rw [decode_word w (by omega)]
  have f0 := ext_eq w 1 6 39 (by omega)
  refine decodeWord_ok w _ 39 f0 (by decide) (by decide) ?_ hwf
  unfold decode32; rw [f0]
  show dec27 w = _
  have e0 := ext_op w 28 g (by omega)
  have e1 := ext_op w 25 o (by omega)
  have e2 := ext_op w 23 s (by omega)
  have e3 := ext_op w 14 a (by omega)
  have e4 := ext_op w 7 d (by omega)
  unfold dec27; rw [ext_eq w 21 2 0 (by omega)]
  show row32 w _ _ (.ldB32Ord (w.extractLsb' 28 4) (w.extractLsb' 25 3) (w.extractLsb' 23 2) (w.extractLsb' 14 7) (w.extractLsb' 7 7)) = _
  rw [e0, e1, e2, e3, e4]; exact if_pos hm

theorem RoundTrip.ldB64Ord (g : BitVec 4) (o : BitVec 3) (s : BitVec 2) (a : BitVec 7) (d : BitVec 7) : RoundTrip.Statement (.ldB64Ord g o s a d) := by
  intro hwf c hc
  obtain rfl := Option.some.inj hc
  have hn : (g ++ o ++ s ++ 1#2 ++ a ++ d ++ 79#7 : BitVec 32).toNat = ((((((g.toNat) * 2 ^ 3 + o.toNat) * 2 ^ 2 + s.toNat) * 2 ^ 2 + 1) * 2 ^ 7 + a.toNat) * 2 ^ 7 + d.toNat) * 2 ^ 7 + 79 := by
    rw [app_nat, app_nat, app_nat, app_nat, app_nat, app_nat]; rfl
  have hm : (g ++ o ++ s ++ 1#2 ++ a ++ d ++ 79#7) &&& (0#4 ++ 0#3 ++ 0#2 ++ 3#2 ++ 0#7 ++ 0#7 ++ 127#7) = (0#4 ++ 0#3 ++ 0#2 ++ 1#2 ++ 0#7 ++ 0#7 ++ 79#7) := by
    rw [and_app, and_app, and_app, and_app, and_app, and_app]; simp only [BitVec.and_zero]; rfl
  have lg := g.isLt
  have lo := o.isLt
  have ls := s.isLt
  have la := a.isLt
  have ld := d.isLt
  generalize (g ++ o ++ s ++ 1#2 ++ a ++ d ++ 79#7 : BitVec 32) = w at *
  replace hm : w &&& 0x0060007F#32 = 0x0020004F#32 := hm
  show decode (Code.word w).bytes = _
  rw [decode_word w (by omega)]
  have f0 := ext_eq w 1 6 39 (by omega)
  refine decodeWord_ok w _ 39 f0 (by decide) (by decide) ?_ hwf
  unfold decode32; rw [f0]
  show dec27 w = _
  have e0 := ext_op w 28 g (by omega)
  have e1 := ext_op w 25 o (by omega)
  have e2 := ext_op w 23 s (by omega)
  have e3 := ext_op w 14 a (by omega)
  have e4 := ext_op w 7 d (by omega)
  unfold dec27; rw [ext_eq w 21 2 1 (by omega)]
  show row32 w _ _ (.ldB64Ord (w.extractLsb' 28 4) (w.extractLsb' 25 3) (w.extractLsb' 23 2) (w.extractLsb' 14 7) (w.extractLsb' 7 7)) = _
  rw [e0, e1, e2, e3, e4]; exact if_pos hm

theorem RoundTrip.stB32Ord (g : BitVec 4) (o : BitVec 3) (s : BitVec 2) (a : BitVec 7) (d : BitVec 7) : RoundTrip.Statement (.stB32Ord g o s a d) := by
  intro hwf c hc
  obtain rfl := Option.some.inj hc
  have hn : (g ++ o ++ s ++ 2#2 ++ a ++ d ++ 79#7 : BitVec 32).toNat = ((((((g.toNat) * 2 ^ 3 + o.toNat) * 2 ^ 2 + s.toNat) * 2 ^ 2 + 2) * 2 ^ 7 + a.toNat) * 2 ^ 7 + d.toNat) * 2 ^ 7 + 79 := by
    rw [app_nat, app_nat, app_nat, app_nat, app_nat, app_nat]; rfl
  have hm : (g ++ o ++ s ++ 2#2 ++ a ++ d ++ 79#7) &&& (0#4 ++ 0#3 ++ 0#2 ++ 3#2 ++ 0#7 ++ 0#7 ++ 127#7) = (0#4 ++ 0#3 ++ 0#2 ++ 2#2 ++ 0#7 ++ 0#7 ++ 79#7) := by
    rw [and_app, and_app, and_app, and_app, and_app, and_app]; simp only [BitVec.and_zero]; rfl
  have lg := g.isLt
  have lo := o.isLt
  have ls := s.isLt
  have la := a.isLt
  have ld := d.isLt
  generalize (g ++ o ++ s ++ 2#2 ++ a ++ d ++ 79#7 : BitVec 32) = w at *
  replace hm : w &&& 0x0060007F#32 = 0x0040004F#32 := hm
  show decode (Code.word w).bytes = _
  rw [decode_word w (by omega)]
  have f0 := ext_eq w 1 6 39 (by omega)
  refine decodeWord_ok w _ 39 f0 (by decide) (by decide) ?_ hwf
  unfold decode32; rw [f0]
  show dec27 w = _
  have e0 := ext_op w 28 g (by omega)
  have e1 := ext_op w 25 o (by omega)
  have e2 := ext_op w 23 s (by omega)
  have e3 := ext_op w 14 a (by omega)
  have e4 := ext_op w 7 d (by omega)
  unfold dec27; rw [ext_eq w 21 2 2 (by omega)]
  show row32 w _ _ (.stB32Ord (w.extractLsb' 28 4) (w.extractLsb' 25 3) (w.extractLsb' 23 2) (w.extractLsb' 14 7) (w.extractLsb' 7 7)) = _
  rw [e0, e1, e2, e3, e4]; exact if_pos hm

theorem RoundTrip.stB64Ord (g : BitVec 4) (o : BitVec 3) (s : BitVec 2) (a : BitVec 7) (d : BitVec 7) : RoundTrip.Statement (.stB64Ord g o s a d) := by
  intro hwf c hc
  obtain rfl := Option.some.inj hc
  have hn : (g ++ o ++ s ++ 3#2 ++ a ++ d ++ 79#7 : BitVec 32).toNat = ((((((g.toNat) * 2 ^ 3 + o.toNat) * 2 ^ 2 + s.toNat) * 2 ^ 2 + 3) * 2 ^ 7 + a.toNat) * 2 ^ 7 + d.toNat) * 2 ^ 7 + 79 := by
    rw [app_nat, app_nat, app_nat, app_nat, app_nat, app_nat]; rfl
  have hm : (g ++ o ++ s ++ 3#2 ++ a ++ d ++ 79#7) &&& (0#4 ++ 0#3 ++ 0#2 ++ 3#2 ++ 0#7 ++ 0#7 ++ 127#7) = (0#4 ++ 0#3 ++ 0#2 ++ 3#2 ++ 0#7 ++ 0#7 ++ 79#7) := by
    rw [and_app, and_app, and_app, and_app, and_app, and_app]; simp only [BitVec.and_zero]; rfl
  have lg := g.isLt
  have lo := o.isLt
  have ls := s.isLt
  have la := a.isLt
  have ld := d.isLt
  generalize (g ++ o ++ s ++ 3#2 ++ a ++ d ++ 79#7 : BitVec 32) = w at *
  replace hm : w &&& 0x0060007F#32 = 0x0060004F#32 := hm
  show decode (Code.word w).bytes = _
  rw [decode_word w (by omega)]
  have f0 := ext_eq w 1 6 39 (by omega)
  refine decodeWord_ok w _ 39 f0 (by decide) (by decide) ?_ hwf
  unfold decode32; rw [f0]
  show dec27 w = _
  have e0 := ext_op w 28 g (by omega)
  have e1 := ext_op w 25 o (by omega)
  have e2 := ext_op w 23 s (by omega)
  have e3 := ext_op w 14 a (by omega)
  have e4 := ext_op w 7 d (by omega)
  unfold dec27; rw [ext_eq w 21 2 3 (by omega)]
  show row32 w _ _ (.stB64Ord (w.extractLsb' 28 4) (w.extractLsb' 25 3) (w.extractLsb' 23 2) (w.extractLsb' 14 7) (w.extractLsb' 7 7)) = _
  rw [e0, e1, e2, e3, e4]; exact if_pos hm

theorem RoundTrip.ataddN32 (g : BitVec 4) (o : BitVec 2) (b : BitVec 6) (a : BitVec 7) (d : BitVec 6) : RoundTrip.Statement (.ataddN32 g o b a d) := by
  intro hwf c hc
  obtain rfl := Option.some.inj hc
  have hn : (g ++ o ++ b ++ a ++ d ++ 81#7 : BitVec 32).toNat = (((((g.toNat) * 2 ^ 2 + o.toNat) * 2 ^ 6 + b.toNat) * 2 ^ 7 + a.toNat) * 2 ^ 6 + d.toNat) * 2 ^ 7 + 81 := by
    rw [app_nat, app_nat, app_nat, app_nat, app_nat]; rfl
  have hm : (g ++ o ++ b ++ a ++ d ++ 81#7) &&& (0#4 ++ 0#2 ++ 0#6 ++ 0#7 ++ 0#6 ++ 127#7) = (0#4 ++ 0#2 ++ 0#6 ++ 0#7 ++ 0#6 ++ 81#7) := by
    rw [and_app, and_app, and_app, and_app, and_app]; simp only [BitVec.and_zero]; rfl
  have lg := g.isLt
  have lo := o.isLt
  have lb := b.isLt
  have la := a.isLt
  have ld := d.isLt
  generalize (g ++ o ++ b ++ a ++ d ++ 81#7 : BitVec 32) = w at *
  replace hm : w &&& 0x0000007F#32 = 0x00000051#32 := hm
  show decode (Code.word w).bytes = _
  rw [decode_word w (by omega)]
  have f0 := ext_eq w 1 6 40 (by omega)
  refine decodeWord_ok w _ 40 f0 (by decide) (by decide) ?_ hwf
  unfold decode32; rw [f0]
  show dec28 w = _
  have e0 := ext_op w 28 g (by omega)
  have e1 := ext_op w 26 o (by omega)
  have e2 := ext_op w 20 b (by omega)
  have e3 := ext_op w 13 a (by omega)
  have e4 := ext_op w 7 d (by omega)
  show row32 w _ _ (.ataddN32 (w.extractLsb' 28 4) (w.extractLsb' 26 2) (w.extractLsb' 20 6) (w.extractLsb' 13 7) (w.extractLsb' 7 6)) = _
  rw [e0, e1, e2, e3, e4]; exact if_pos hm

theorem RoundTrip.atfaddF32 (g : BitVec 4) (o : BitVec 2) (b : BitVec 6) (a : BitVec 7) (d : BitVec 6) : RoundTrip.Statement (.atfaddF32 g o b a d) := by
  intro hwf c hc
  obtain rfl := Option.some.inj hc
  have hn : (g ++ o ++ b ++ a ++ d ++ 83#7 : BitVec 32).toNat = (((((g.toNat) * 2 ^ 2 + o.toNat) * 2 ^ 6 + b.toNat) * 2 ^ 7 + a.toNat) * 2 ^ 6 + d.toNat) * 2 ^ 7 + 83 := by
    rw [app_nat, app_nat, app_nat, app_nat, app_nat]; rfl
  have hm : (g ++ o ++ b ++ a ++ d ++ 83#7) &&& (0#4 ++ 0#2 ++ 0#6 ++ 0#7 ++ 0#6 ++ 127#7) = (0#4 ++ 0#2 ++ 0#6 ++ 0#7 ++ 0#6 ++ 83#7) := by
    rw [and_app, and_app, and_app, and_app, and_app]; simp only [BitVec.and_zero]; rfl
  have lg := g.isLt
  have lo := o.isLt
  have lb := b.isLt
  have la := a.isLt
  have ld := d.isLt
  generalize (g ++ o ++ b ++ a ++ d ++ 83#7 : BitVec 32) = w at *
  replace hm : w &&& 0x0000007F#32 = 0x00000053#32 := hm
  show decode (Code.word w).bytes = _
  rw [decode_word w (by omega)]
  have f0 := ext_eq w 1 6 41 (by omega)
  refine decodeWord_ok w _ 41 f0 (by decide) (by decide) ?_ hwf
  unfold decode32; rw [f0]
  show dec29 w = _
  have e0 := ext_op w 28 g (by omega)
  have e1 := ext_op w 26 o (by omega)
  have e2 := ext_op w 20 b (by omega)
  have e3 := ext_op w 13 a (by omega)
  have e4 := ext_op w 7 d (by omega)
  show row32 w _ _ (.atfaddF32 (w.extractLsb' 28 4) (w.extractLsb' 26 2) (w.extractLsb' 20 6) (w.extractLsb' 13 7) (w.extractLsb' 7 6)) = _
  rw [e0, e1, e2, e3, e4]; exact if_pos hm

theorem RoundTrip.atminI32 (g : BitVec 4) (o : BitVec 2) (b : BitVec 6) (a : BitVec 7) (d : BitVec 6) : RoundTrip.Statement (.atminI32 g o b a d) := by
  intro hwf c hc
  obtain rfl := Option.some.inj hc
  have hn : (g ++ o ++ b ++ a ++ d ++ 85#7 : BitVec 32).toNat = (((((g.toNat) * 2 ^ 2 + o.toNat) * 2 ^ 6 + b.toNat) * 2 ^ 7 + a.toNat) * 2 ^ 6 + d.toNat) * 2 ^ 7 + 85 := by
    rw [app_nat, app_nat, app_nat, app_nat, app_nat]; rfl
  have hm : (g ++ o ++ b ++ a ++ d ++ 85#7) &&& (0#4 ++ 0#2 ++ 0#6 ++ 0#7 ++ 0#6 ++ 127#7) = (0#4 ++ 0#2 ++ 0#6 ++ 0#7 ++ 0#6 ++ 85#7) := by
    rw [and_app, and_app, and_app, and_app, and_app]; simp only [BitVec.and_zero]; rfl
  have lg := g.isLt
  have lo := o.isLt
  have lb := b.isLt
  have la := a.isLt
  have ld := d.isLt
  generalize (g ++ o ++ b ++ a ++ d ++ 85#7 : BitVec 32) = w at *
  replace hm : w &&& 0x0000007F#32 = 0x00000055#32 := hm
  show decode (Code.word w).bytes = _
  rw [decode_word w (by omega)]
  have f0 := ext_eq w 1 6 42 (by omega)
  refine decodeWord_ok w _ 42 f0 (by decide) (by decide) ?_ hwf
  unfold decode32; rw [f0]
  show dec2A w = _
  have e0 := ext_op w 28 g (by omega)
  have e1 := ext_op w 26 o (by omega)
  have e2 := ext_op w 20 b (by omega)
  have e3 := ext_op w 13 a (by omega)
  have e4 := ext_op w 7 d (by omega)
  show row32 w _ _ (.atminI32 (w.extractLsb' 28 4) (w.extractLsb' 26 2) (w.extractLsb' 20 6) (w.extractLsb' 13 7) (w.extractLsb' 7 6)) = _
  rw [e0, e1, e2, e3, e4]; exact if_pos hm

theorem RoundTrip.atminN32 (g : BitVec 4) (o : BitVec 2) (b : BitVec 6) (a : BitVec 7) (d : BitVec 6) : RoundTrip.Statement (.atminN32 g o b a d) := by
  intro hwf c hc
  obtain rfl := Option.some.inj hc
  have hn : (g ++ o ++ b ++ a ++ d ++ 87#7 : BitVec 32).toNat = (((((g.toNat) * 2 ^ 2 + o.toNat) * 2 ^ 6 + b.toNat) * 2 ^ 7 + a.toNat) * 2 ^ 6 + d.toNat) * 2 ^ 7 + 87 := by
    rw [app_nat, app_nat, app_nat, app_nat, app_nat]; rfl
  have hm : (g ++ o ++ b ++ a ++ d ++ 87#7) &&& (0#4 ++ 0#2 ++ 0#6 ++ 0#7 ++ 0#6 ++ 127#7) = (0#4 ++ 0#2 ++ 0#6 ++ 0#7 ++ 0#6 ++ 87#7) := by
    rw [and_app, and_app, and_app, and_app, and_app]; simp only [BitVec.and_zero]; rfl
  have lg := g.isLt
  have lo := o.isLt
  have lb := b.isLt
  have la := a.isLt
  have ld := d.isLt
  generalize (g ++ o ++ b ++ a ++ d ++ 87#7 : BitVec 32) = w at *
  replace hm : w &&& 0x0000007F#32 = 0x00000057#32 := hm
  show decode (Code.word w).bytes = _
  rw [decode_word w (by omega)]
  have f0 := ext_eq w 1 6 43 (by omega)
  refine decodeWord_ok w _ 43 f0 (by decide) (by decide) ?_ hwf
  unfold decode32; rw [f0]
  show dec2B w = _
  have e0 := ext_op w 28 g (by omega)
  have e1 := ext_op w 26 o (by omega)
  have e2 := ext_op w 20 b (by omega)
  have e3 := ext_op w 13 a (by omega)
  have e4 := ext_op w 7 d (by omega)
  show row32 w _ _ (.atminN32 (w.extractLsb' 28 4) (w.extractLsb' 26 2) (w.extractLsb' 20 6) (w.extractLsb' 13 7) (w.extractLsb' 7 6)) = _
  rw [e0, e1, e2, e3, e4]; exact if_pos hm

theorem RoundTrip.atmaxI32 (g : BitVec 4) (o : BitVec 2) (b : BitVec 6) (a : BitVec 7) (d : BitVec 6) : RoundTrip.Statement (.atmaxI32 g o b a d) := by
  intro hwf c hc
  obtain rfl := Option.some.inj hc
  have hn : (g ++ o ++ b ++ a ++ d ++ 89#7 : BitVec 32).toNat = (((((g.toNat) * 2 ^ 2 + o.toNat) * 2 ^ 6 + b.toNat) * 2 ^ 7 + a.toNat) * 2 ^ 6 + d.toNat) * 2 ^ 7 + 89 := by
    rw [app_nat, app_nat, app_nat, app_nat, app_nat]; rfl
  have hm : (g ++ o ++ b ++ a ++ d ++ 89#7) &&& (0#4 ++ 0#2 ++ 0#6 ++ 0#7 ++ 0#6 ++ 127#7) = (0#4 ++ 0#2 ++ 0#6 ++ 0#7 ++ 0#6 ++ 89#7) := by
    rw [and_app, and_app, and_app, and_app, and_app]; simp only [BitVec.and_zero]; rfl
  have lg := g.isLt
  have lo := o.isLt
  have lb := b.isLt
  have la := a.isLt
  have ld := d.isLt
  generalize (g ++ o ++ b ++ a ++ d ++ 89#7 : BitVec 32) = w at *
  replace hm : w &&& 0x0000007F#32 = 0x00000059#32 := hm
  show decode (Code.word w).bytes = _
  rw [decode_word w (by omega)]
  have f0 := ext_eq w 1 6 44 (by omega)
  refine decodeWord_ok w _ 44 f0 (by decide) (by decide) ?_ hwf
  unfold decode32; rw [f0]
  show dec2C w = _
  have e0 := ext_op w 28 g (by omega)
  have e1 := ext_op w 26 o (by omega)
  have e2 := ext_op w 20 b (by omega)
  have e3 := ext_op w 13 a (by omega)
  have e4 := ext_op w 7 d (by omega)
  show row32 w _ _ (.atmaxI32 (w.extractLsb' 28 4) (w.extractLsb' 26 2) (w.extractLsb' 20 6) (w.extractLsb' 13 7) (w.extractLsb' 7 6)) = _
  rw [e0, e1, e2, e3, e4]; exact if_pos hm

theorem RoundTrip.atmaxN32 (g : BitVec 4) (o : BitVec 2) (b : BitVec 6) (a : BitVec 7) (d : BitVec 6) : RoundTrip.Statement (.atmaxN32 g o b a d) := by
  intro hwf c hc
  obtain rfl := Option.some.inj hc
  have hn : (g ++ o ++ b ++ a ++ d ++ 91#7 : BitVec 32).toNat = (((((g.toNat) * 2 ^ 2 + o.toNat) * 2 ^ 6 + b.toNat) * 2 ^ 7 + a.toNat) * 2 ^ 6 + d.toNat) * 2 ^ 7 + 91 := by
    rw [app_nat, app_nat, app_nat, app_nat, app_nat]; rfl
  have hm : (g ++ o ++ b ++ a ++ d ++ 91#7) &&& (0#4 ++ 0#2 ++ 0#6 ++ 0#7 ++ 0#6 ++ 127#7) = (0#4 ++ 0#2 ++ 0#6 ++ 0#7 ++ 0#6 ++ 91#7) := by
    rw [and_app, and_app, and_app, and_app, and_app]; simp only [BitVec.and_zero]; rfl
  have lg := g.isLt
  have lo := o.isLt
  have lb := b.isLt
  have la := a.isLt
  have ld := d.isLt
  generalize (g ++ o ++ b ++ a ++ d ++ 91#7 : BitVec 32) = w at *
  replace hm : w &&& 0x0000007F#32 = 0x0000005B#32 := hm
  show decode (Code.word w).bytes = _
  rw [decode_word w (by omega)]
  have f0 := ext_eq w 1 6 45 (by omega)
  refine decodeWord_ok w _ 45 f0 (by decide) (by decide) ?_ hwf
  unfold decode32; rw [f0]
  show dec2D w = _
  have e0 := ext_op w 28 g (by omega)
  have e1 := ext_op w 26 o (by omega)
  have e2 := ext_op w 20 b (by omega)
  have e3 := ext_op w 13 a (by omega)
  have e4 := ext_op w 7 d (by omega)
  show row32 w _ _ (.atmaxN32 (w.extractLsb' 28 4) (w.extractLsb' 26 2) (w.extractLsb' 20 6) (w.extractLsb' 13 7) (w.extractLsb' 7 6)) = _
  rw [e0, e1, e2, e3, e4]; exact if_pos hm

theorem RoundTrip.atandB32 (g : BitVec 4) (o : BitVec 2) (b : BitVec 6) (a : BitVec 7) (d : BitVec 6) : RoundTrip.Statement (.atandB32 g o b a d) := by
  intro hwf c hc
  obtain rfl := Option.some.inj hc
  have hn : (g ++ o ++ b ++ a ++ d ++ 93#7 : BitVec 32).toNat = (((((g.toNat) * 2 ^ 2 + o.toNat) * 2 ^ 6 + b.toNat) * 2 ^ 7 + a.toNat) * 2 ^ 6 + d.toNat) * 2 ^ 7 + 93 := by
    rw [app_nat, app_nat, app_nat, app_nat, app_nat]; rfl
  have hm : (g ++ o ++ b ++ a ++ d ++ 93#7) &&& (0#4 ++ 0#2 ++ 0#6 ++ 0#7 ++ 0#6 ++ 127#7) = (0#4 ++ 0#2 ++ 0#6 ++ 0#7 ++ 0#6 ++ 93#7) := by
    rw [and_app, and_app, and_app, and_app, and_app]; simp only [BitVec.and_zero]; rfl
  have lg := g.isLt
  have lo := o.isLt
  have lb := b.isLt
  have la := a.isLt
  have ld := d.isLt
  generalize (g ++ o ++ b ++ a ++ d ++ 93#7 : BitVec 32) = w at *
  replace hm : w &&& 0x0000007F#32 = 0x0000005D#32 := hm
  show decode (Code.word w).bytes = _
  rw [decode_word w (by omega)]
  have f0 := ext_eq w 1 6 46 (by omega)
  refine decodeWord_ok w _ 46 f0 (by decide) (by decide) ?_ hwf
  unfold decode32; rw [f0]
  show dec2E w = _
  have e0 := ext_op w 28 g (by omega)
  have e1 := ext_op w 26 o (by omega)
  have e2 := ext_op w 20 b (by omega)
  have e3 := ext_op w 13 a (by omega)
  have e4 := ext_op w 7 d (by omega)
  show row32 w _ _ (.atandB32 (w.extractLsb' 28 4) (w.extractLsb' 26 2) (w.extractLsb' 20 6) (w.extractLsb' 13 7) (w.extractLsb' 7 6)) = _
  rw [e0, e1, e2, e3, e4]; exact if_pos hm

theorem RoundTrip.atorB32 (g : BitVec 4) (o : BitVec 2) (b : BitVec 6) (a : BitVec 7) (d : BitVec 6) : RoundTrip.Statement (.atorB32 g o b a d) := by
  intro hwf c hc
  obtain rfl := Option.some.inj hc
  have hn : (g ++ o ++ b ++ a ++ d ++ 95#7 : BitVec 32).toNat = (((((g.toNat) * 2 ^ 2 + o.toNat) * 2 ^ 6 + b.toNat) * 2 ^ 7 + a.toNat) * 2 ^ 6 + d.toNat) * 2 ^ 7 + 95 := by
    rw [app_nat, app_nat, app_nat, app_nat, app_nat]; rfl
  have hm : (g ++ o ++ b ++ a ++ d ++ 95#7) &&& (0#4 ++ 0#2 ++ 0#6 ++ 0#7 ++ 0#6 ++ 127#7) = (0#4 ++ 0#2 ++ 0#6 ++ 0#7 ++ 0#6 ++ 95#7) := by
    rw [and_app, and_app, and_app, and_app, and_app]; simp only [BitVec.and_zero]; rfl
  have lg := g.isLt
  have lo := o.isLt
  have lb := b.isLt
  have la := a.isLt
  have ld := d.isLt
  generalize (g ++ o ++ b ++ a ++ d ++ 95#7 : BitVec 32) = w at *
  replace hm : w &&& 0x0000007F#32 = 0x0000005F#32 := hm
  show decode (Code.word w).bytes = _
  rw [decode_word w (by omega)]
  have f0 := ext_eq w 1 6 47 (by omega)
  refine decodeWord_ok w _ 47 f0 (by decide) (by decide) ?_ hwf
  unfold decode32; rw [f0]
  show dec2F w = _
  have e0 := ext_op w 28 g (by omega)
  have e1 := ext_op w 26 o (by omega)
  have e2 := ext_op w 20 b (by omega)
  have e3 := ext_op w 13 a (by omega)
  have e4 := ext_op w 7 d (by omega)
  show row32 w _ _ (.atorB32 (w.extractLsb' 28 4) (w.extractLsb' 26 2) (w.extractLsb' 20 6) (w.extractLsb' 13 7) (w.extractLsb' 7 6)) = _
  rw [e0, e1, e2, e3, e4]; exact if_pos hm

theorem RoundTrip.atxorB32 (g : BitVec 4) (o : BitVec 2) (b : BitVec 6) (a : BitVec 7) (d : BitVec 6) : RoundTrip.Statement (.atxorB32 g o b a d) := by
  intro hwf c hc
  obtain rfl := Option.some.inj hc
  have hn : (g ++ o ++ b ++ a ++ d ++ 97#7 : BitVec 32).toNat = (((((g.toNat) * 2 ^ 2 + o.toNat) * 2 ^ 6 + b.toNat) * 2 ^ 7 + a.toNat) * 2 ^ 6 + d.toNat) * 2 ^ 7 + 97 := by
    rw [app_nat, app_nat, app_nat, app_nat, app_nat]; rfl
  have hm : (g ++ o ++ b ++ a ++ d ++ 97#7) &&& (0#4 ++ 0#2 ++ 0#6 ++ 0#7 ++ 0#6 ++ 127#7) = (0#4 ++ 0#2 ++ 0#6 ++ 0#7 ++ 0#6 ++ 97#7) := by
    rw [and_app, and_app, and_app, and_app, and_app]; simp only [BitVec.and_zero]; rfl
  have lg := g.isLt
  have lo := o.isLt
  have lb := b.isLt
  have la := a.isLt
  have ld := d.isLt
  generalize (g ++ o ++ b ++ a ++ d ++ 97#7 : BitVec 32) = w at *
  replace hm : w &&& 0x0000007F#32 = 0x00000061#32 := hm
  show decode (Code.word w).bytes = _
  rw [decode_word w (by omega)]
  have f0 := ext_eq w 1 6 48 (by omega)
  refine decodeWord_ok w _ 48 f0 (by decide) (by decide) ?_ hwf
  unfold decode32; rw [f0]
  show dec30 w = _
  have e0 := ext_op w 28 g (by omega)
  have e1 := ext_op w 26 o (by omega)
  have e2 := ext_op w 20 b (by omega)
  have e3 := ext_op w 13 a (by omega)
  have e4 := ext_op w 7 d (by omega)
  show row32 w _ _ (.atxorB32 (w.extractLsb' 28 4) (w.extractLsb' 26 2) (w.extractLsb' 20 6) (w.extractLsb' 13 7) (w.extractLsb' 7 6)) = _
  rw [e0, e1, e2, e3, e4]; exact if_pos hm

theorem RoundTrip.atswpB32 (g : BitVec 4) (o : BitVec 2) (b : BitVec 6) (a : BitVec 7) (d : BitVec 6) : RoundTrip.Statement (.atswpB32 g o b a d) := by
  intro hwf c hc
  obtain rfl := Option.some.inj hc
  have hn : (g ++ o ++ b ++ a ++ d ++ 99#7 : BitVec 32).toNat = (((((g.toNat) * 2 ^ 2 + o.toNat) * 2 ^ 6 + b.toNat) * 2 ^ 7 + a.toNat) * 2 ^ 6 + d.toNat) * 2 ^ 7 + 99 := by
    rw [app_nat, app_nat, app_nat, app_nat, app_nat]; rfl
  have hm : (g ++ o ++ b ++ a ++ d ++ 99#7) &&& (0#4 ++ 0#2 ++ 0#6 ++ 0#7 ++ 0#6 ++ 127#7) = (0#4 ++ 0#2 ++ 0#6 ++ 0#7 ++ 0#6 ++ 99#7) := by
    rw [and_app, and_app, and_app, and_app, and_app]; simp only [BitVec.and_zero]; rfl
  have lg := g.isLt
  have lo := o.isLt
  have lb := b.isLt
  have la := a.isLt
  have ld := d.isLt
  generalize (g ++ o ++ b ++ a ++ d ++ 99#7 : BitVec 32) = w at *
  replace hm : w &&& 0x0000007F#32 = 0x00000063#32 := hm
  show decode (Code.word w).bytes = _
  rw [decode_word w (by omega)]
  have f0 := ext_eq w 1 6 49 (by omega)
  refine decodeWord_ok w _ 49 f0 (by decide) (by decide) ?_ hwf
  unfold decode32; rw [f0]
  show dec31 w = _
  have e0 := ext_op w 28 g (by omega)
  have e1 := ext_op w 26 o (by omega)
  have e2 := ext_op w 20 b (by omega)
  have e3 := ext_op w 13 a (by omega)
  have e4 := ext_op w 7 d (by omega)
  show row32 w _ _ (.atswpB32 (w.extractLsb' 28 4) (w.extractLsb' 26 2) (w.extractLsb' 20 6) (w.extractLsb' 13 7) (w.extractLsb' 7 6)) = _
  rw [e0, e1, e2, e3, e4]; exact if_pos hm

theorem RoundTrip.atcasB32 (g : BitVec 4) (o : BitVec 2) (b : BitVec 6) (a : BitVec 7) (d : BitVec 6) : RoundTrip.Statement (.atcasB32 g o b a d) := by
  intro hwf c hc
  obtain rfl := Option.some.inj hc
  have hn : (g ++ o ++ b ++ a ++ d ++ 101#7 : BitVec 32).toNat = (((((g.toNat) * 2 ^ 2 + o.toNat) * 2 ^ 6 + b.toNat) * 2 ^ 7 + a.toNat) * 2 ^ 6 + d.toNat) * 2 ^ 7 + 101 := by
    rw [app_nat, app_nat, app_nat, app_nat, app_nat]; rfl
  have hm : (g ++ o ++ b ++ a ++ d ++ 101#7) &&& (0#4 ++ 0#2 ++ 0#6 ++ 0#7 ++ 0#6 ++ 127#7) = (0#4 ++ 0#2 ++ 0#6 ++ 0#7 ++ 0#6 ++ 101#7) := by
    rw [and_app, and_app, and_app, and_app, and_app]; simp only [BitVec.and_zero]; rfl
  have lg := g.isLt
  have lo := o.isLt
  have lb := b.isLt
  have la := a.isLt
  have ld := d.isLt
  generalize (g ++ o ++ b ++ a ++ d ++ 101#7 : BitVec 32) = w at *
  replace hm : w &&& 0x0000007F#32 = 0x00000065#32 := hm
  show decode (Code.word w).bytes = _
  rw [decode_word w (by omega)]
  have f0 := ext_eq w 1 6 50 (by omega)
  refine decodeWord_ok w _ 50 f0 (by decide) (by decide) ?_ hwf
  unfold decode32; rw [f0]
  show dec32 w = _
  have e0 := ext_op w 28 g (by omega)
  have e1 := ext_op w 26 o (by omega)
  have e2 := ext_op w 20 b (by omega)
  have e3 := ext_op w 13 a (by omega)
  have e4 := ext_op w 7 d (by omega)
  show row32 w _ _ (.atcasB32 (w.extractLsb' 28 4) (w.extractLsb' 26 2) (w.extractLsb' 20 6) (w.extractLsb' 13 7) (w.extractLsb' 7 6)) = _
  rw [e0, e1, e2, e3, e4]; exact if_pos hm

theorem RoundTrip.atmrgB32 (g : BitVec 4) (o : BitVec 2) (b : BitVec 6) (a : BitVec 7) (d : BitVec 6) : RoundTrip.Statement (.atmrgB32 g o b a d) := by
  intro hwf c hc
  obtain rfl := Option.some.inj hc
  have hn : (g ++ o ++ b ++ a ++ d ++ 103#7 : BitVec 32).toNat = (((((g.toNat) * 2 ^ 2 + o.toNat) * 2 ^ 6 + b.toNat) * 2 ^ 7 + a.toNat) * 2 ^ 6 + d.toNat) * 2 ^ 7 + 103 := by
    rw [app_nat, app_nat, app_nat, app_nat, app_nat]; rfl
  have hm : (g ++ o ++ b ++ a ++ d ++ 103#7) &&& (0#4 ++ 0#2 ++ 0#6 ++ 0#7 ++ 0#6 ++ 127#7) = (0#4 ++ 0#2 ++ 0#6 ++ 0#7 ++ 0#6 ++ 103#7) := by
    rw [and_app, and_app, and_app, and_app, and_app]; simp only [BitVec.and_zero]; rfl
  have lg := g.isLt
  have lo := o.isLt
  have lb := b.isLt
  have la := a.isLt
  have ld := d.isLt
  generalize (g ++ o ++ b ++ a ++ d ++ 103#7 : BitVec 32) = w at *
  replace hm : w &&& 0x0000007F#32 = 0x00000067#32 := hm
  show decode (Code.word w).bytes = _
  rw [decode_word w (by omega)]
  have f0 := ext_eq w 1 6 51 (by omega)
  refine decodeWord_ok w _ 51 f0 (by decide) (by decide) ?_ hwf
  unfold decode32; rw [f0]
  show dec33 w = _
  have e0 := ext_op w 28 g (by omega)
  have e1 := ext_op w 26 o (by omega)
  have e2 := ext_op w 20 b (by omega)
  have e3 := ext_op w 13 a (by omega)
  have e4 := ext_op w 7 d (by omega)
  show row32 w _ _ (.atmrgB32 (w.extractLsb' 28 4) (w.extractLsb' 26 2) (w.extractLsb' 20 6) (w.extractLsb' 13 7) (w.extractLsb' 7 6)) = _
  rw [e0, e1, e2, e3, e4]; exact if_pos hm

theorem RoundTrip.ataddN64 (g : BitVec 4) (o : BitVec 2) (b : BitVec 6) (a : BitVec 7) (d : BitVec 6) : RoundTrip.Statement (.ataddN64 g o b a d) := by
  intro hwf c hc
  obtain rfl := Option.some.inj hc
  have hn : (g ++ o ++ b ++ a ++ d ++ 105#7 : BitVec 32).toNat = (((((g.toNat) * 2 ^ 2 + o.toNat) * 2 ^ 6 + b.toNat) * 2 ^ 7 + a.toNat) * 2 ^ 6 + d.toNat) * 2 ^ 7 + 105 := by
    rw [app_nat, app_nat, app_nat, app_nat, app_nat]; rfl
  have hm : (g ++ o ++ b ++ a ++ d ++ 105#7) &&& (0#4 ++ 0#2 ++ 0#6 ++ 0#7 ++ 0#6 ++ 127#7) = (0#4 ++ 0#2 ++ 0#6 ++ 0#7 ++ 0#6 ++ 105#7) := by
    rw [and_app, and_app, and_app, and_app, and_app]; simp only [BitVec.and_zero]; rfl
  have lg := g.isLt
  have lo := o.isLt
  have lb := b.isLt
  have la := a.isLt
  have ld := d.isLt
  generalize (g ++ o ++ b ++ a ++ d ++ 105#7 : BitVec 32) = w at *
  replace hm : w &&& 0x0000007F#32 = 0x00000069#32 := hm
  show decode (Code.word w).bytes = _
  rw [decode_word w (by omega)]
  have f0 := ext_eq w 1 6 52 (by omega)
  refine decodeWord_ok w _ 52 f0 (by decide) (by decide) ?_ hwf
  unfold decode32; rw [f0]
  show dec34 w = _
  have e0 := ext_op w 28 g (by omega)
  have e1 := ext_op w 26 o (by omega)
  have e2 := ext_op w 20 b (by omega)
  have e3 := ext_op w 13 a (by omega)
  have e4 := ext_op w 7 d (by omega)
  show row32 w _ _ (.ataddN64 (w.extractLsb' 28 4) (w.extractLsb' 26 2) (w.extractLsb' 20 6) (w.extractLsb' 13 7) (w.extractLsb' 7 6)) = _
  rw [e0, e1, e2, e3, e4]; exact if_pos hm

theorem RoundTrip.atswpB64 (g : BitVec 4) (o : BitVec 2) (b : BitVec 6) (a : BitVec 7) (d : BitVec 6) : RoundTrip.Statement (.atswpB64 g o b a d) := by
  intro hwf c hc
  obtain rfl := Option.some.inj hc
  have hn : (g ++ o ++ b ++ a ++ d ++ 107#7 : BitVec 32).toNat = (((((g.toNat) * 2 ^ 2 + o.toNat) * 2 ^ 6 + b.toNat) * 2 ^ 7 + a.toNat) * 2 ^ 6 + d.toNat) * 2 ^ 7 + 107 := by
    rw [app_nat, app_nat, app_nat, app_nat, app_nat]; rfl
  have hm : (g ++ o ++ b ++ a ++ d ++ 107#7) &&& (0#4 ++ 0#2 ++ 0#6 ++ 0#7 ++ 0#6 ++ 127#7) = (0#4 ++ 0#2 ++ 0#6 ++ 0#7 ++ 0#6 ++ 107#7) := by
    rw [and_app, and_app, and_app, and_app, and_app]; simp only [BitVec.and_zero]; rfl
  have lg := g.isLt
  have lo := o.isLt
  have lb := b.isLt
  have la := a.isLt
  have ld := d.isLt
  generalize (g ++ o ++ b ++ a ++ d ++ 107#7 : BitVec 32) = w at *
  replace hm : w &&& 0x0000007F#32 = 0x0000006B#32 := hm
  show decode (Code.word w).bytes = _
  rw [decode_word w (by omega)]
  have f0 := ext_eq w 1 6 53 (by omega)
  refine decodeWord_ok w _ 53 f0 (by decide) (by decide) ?_ hwf
  unfold decode32; rw [f0]
  show dec35 w = _
  have e0 := ext_op w 28 g (by omega)
  have e1 := ext_op w 26 o (by omega)
  have e2 := ext_op w 20 b (by omega)
  have e3 := ext_op w 13 a (by omega)
  have e4 := ext_op w 7 d (by omega)
  show row32 w _ _ (.atswpB64 (w.extractLsb' 28 4) (w.extractLsb' 26 2) (w.extractLsb' 20 6) (w.extractLsb' 13 7) (w.extractLsb' 7 6)) = _
  rw [e0, e1, e2, e3, e4]; exact if_pos hm

theorem RoundTrip.atcasB64 (g : BitVec 4) (o : BitVec 2) (b : BitVec 6) (a : BitVec 7) (d : BitVec 6) : RoundTrip.Statement (.atcasB64 g o b a d) := by
  intro hwf c hc
  obtain rfl := Option.some.inj hc
  have hn : (g ++ o ++ b ++ a ++ d ++ 109#7 : BitVec 32).toNat = (((((g.toNat) * 2 ^ 2 + o.toNat) * 2 ^ 6 + b.toNat) * 2 ^ 7 + a.toNat) * 2 ^ 6 + d.toNat) * 2 ^ 7 + 109 := by
    rw [app_nat, app_nat, app_nat, app_nat, app_nat]; rfl
  have hm : (g ++ o ++ b ++ a ++ d ++ 109#7) &&& (0#4 ++ 0#2 ++ 0#6 ++ 0#7 ++ 0#6 ++ 127#7) = (0#4 ++ 0#2 ++ 0#6 ++ 0#7 ++ 0#6 ++ 109#7) := by
    rw [and_app, and_app, and_app, and_app, and_app]; simp only [BitVec.and_zero]; rfl
  have lg := g.isLt
  have lo := o.isLt
  have lb := b.isLt
  have la := a.isLt
  have ld := d.isLt
  generalize (g ++ o ++ b ++ a ++ d ++ 109#7 : BitVec 32) = w at *
  replace hm : w &&& 0x0000007F#32 = 0x0000006D#32 := hm
  show decode (Code.word w).bytes = _
  rw [decode_word w (by omega)]
  have f0 := ext_eq w 1 6 54 (by omega)
  refine decodeWord_ok w _ 54 f0 (by decide) (by decide) ?_ hwf
  unfold decode32; rw [f0]
  show dec36 w = _
  have e0 := ext_op w 28 g (by omega)
  have e1 := ext_op w 26 o (by omega)
  have e2 := ext_op w 20 b (by omega)
  have e3 := ext_op w 13 a (by omega)
  have e4 := ext_op w 7 d (by omega)
  show row32 w _ _ (.atcasB64 (w.extractLsb' 28 4) (w.extractLsb' 26 2) (w.extractLsb' 20 6) (w.extractLsb' 13 7) (w.extractLsb' 7 6)) = _
  rw [e0, e1, e2, e3, e4]; exact if_pos hm

theorem RoundTrip.fenceAcq (g : BitVec 4) : RoundTrip.Statement (.fenceAcq g) := by
  intro hwf c hc
  obtain rfl := Option.some.inj hc
  have hn : (512#15 ++ g ++ 111#13 : BitVec 32).toNat = ((512) * 2 ^ 4 + g.toNat) * 2 ^ 13 + 111 := by
    rw [app_nat, app_nat]; rfl
  have hm : (512#15 ++ g ++ 111#13) &&& (32767#15 ++ 0#4 ++ 8191#13) = (512#15 ++ 0#4 ++ 111#13) := by
    rw [and_app, and_app]; simp only [BitVec.and_zero]; rfl
  have lg := g.isLt
  generalize (512#15 ++ g ++ 111#13 : BitVec 32) = w at *
  replace hm : w &&& 0xFFFE1FFF#32 = 0x0400006F#32 := hm
  show decode (Code.word w).bytes = _
  rw [decode_word w (by omega)]
  have f0 := ext_eq w 1 6 55 (by omega)
  refine decodeWord_ok w _ 55 f0 (by decide) (by decide) ?_ hwf
  unfold decode32; rw [f0]
  show dec37 w = _
  have e0 := ext_op w 13 g (by omega)
  unfold dec37; rw [ext_eq w 25 7 2 (by omega)]
  show row32 w _ _ (.fenceAcq (w.extractLsb' 13 4)) = _
  rw [e0]; exact if_pos hm

theorem RoundTrip.fenceRel (g : BitVec 4) : RoundTrip.Statement (.fenceRel g) := by
  intro hwf c hc
  obtain rfl := Option.some.inj hc
  have hn : (768#15 ++ g ++ 111#13 : BitVec 32).toNat = ((768) * 2 ^ 4 + g.toNat) * 2 ^ 13 + 111 := by
    rw [app_nat, app_nat]; rfl
  have hm : (768#15 ++ g ++ 111#13) &&& (32767#15 ++ 0#4 ++ 8191#13) = (768#15 ++ 0#4 ++ 111#13) := by
    rw [and_app, and_app]; simp only [BitVec.and_zero]; rfl
  have lg := g.isLt
  generalize (768#15 ++ g ++ 111#13 : BitVec 32) = w at *
  replace hm : w &&& 0xFFFE1FFF#32 = 0x0600006F#32 := hm
  show decode (Code.word w).bytes = _
  rw [decode_word w (by omega)]
  have f0 := ext_eq w 1 6 55 (by omega)
  refine decodeWord_ok w _ 55 f0 (by decide) (by decide) ?_ hwf
  unfold decode32; rw [f0]
  show dec37 w = _
  have e0 := ext_op w 13 g (by omega)
  unfold dec37; rw [ext_eq w 25 7 3 (by omega)]
  show row32 w _ _ (.fenceRel (w.extractLsb' 13 4)) = _
  rw [e0]; exact if_pos hm

theorem RoundTrip.fenceAr (g : BitVec 4) : RoundTrip.Statement (.fenceAr g) := by
  intro hwf c hc
  obtain rfl := Option.some.inj hc
  have hn : (1024#15 ++ g ++ 111#13 : BitVec 32).toNat = ((1024) * 2 ^ 4 + g.toNat) * 2 ^ 13 + 111 := by
    rw [app_nat, app_nat]; rfl
  have hm : (1024#15 ++ g ++ 111#13) &&& (32767#15 ++ 0#4 ++ 8191#13) = (1024#15 ++ 0#4 ++ 111#13) := by
    rw [and_app, and_app]; simp only [BitVec.and_zero]; rfl
  have lg := g.isLt
  generalize (1024#15 ++ g ++ 111#13 : BitVec 32) = w at *
  replace hm : w &&& 0xFFFE1FFF#32 = 0x0800006F#32 := hm
  show decode (Code.word w).bytes = _
  rw [decode_word w (by omega)]
  have f0 := ext_eq w 1 6 55 (by omega)
  refine decodeWord_ok w _ 55 f0 (by decide) (by decide) ?_ hwf
  unfold decode32; rw [f0]
  show dec37 w = _
  have e0 := ext_op w 13 g (by omega)
  unfold dec37; rw [ext_eq w 25 7 4 (by omega)]
  show row32 w _ _ (.fenceAr (w.extractLsb' 13 4)) = _
  rw [e0]; exact if_pos hm

theorem RoundTrip.bind (b : BitVec 6) (a : BitVec 6) (d : BitVec 6) : RoundTrip.Statement (.bind b a d) := by
  intro hwf c hc
  obtain rfl := Option.some.inj hc
  have hn : (8#7 ++ b ++ a ++ d ++ 111#7 : BitVec 32).toNat = ((((8) * 2 ^ 6 + b.toNat) * 2 ^ 6 + a.toNat) * 2 ^ 6 + d.toNat) * 2 ^ 7 + 111 := by
    rw [app_nat, app_nat, app_nat, app_nat]; rfl
  have hm : (8#7 ++ b ++ a ++ d ++ 111#7) &&& (127#7 ++ 0#6 ++ 0#6 ++ 0#6 ++ 127#7) = (8#7 ++ 0#6 ++ 0#6 ++ 0#6 ++ 111#7) := by
    rw [and_app, and_app, and_app, and_app]; simp only [BitVec.and_zero]; rfl
  have lb := b.isLt
  have la := a.isLt
  have ld := d.isLt
  generalize (8#7 ++ b ++ a ++ d ++ 111#7 : BitVec 32) = w at *
  replace hm : w &&& 0xFE00007F#32 = 0x1000006F#32 := hm
  show decode (Code.word w).bytes = _
  rw [decode_word w (by omega)]
  have f0 := ext_eq w 1 6 55 (by omega)
  refine decodeWord_ok w _ 55 f0 (by decide) (by decide) ?_ hwf
  unfold decode32; rw [f0]
  show dec37 w = _
  have e0 := ext_op w 19 b (by omega)
  have e1 := ext_op w 13 a (by omega)
  have e2 := ext_op w 7 d (by omega)
  unfold dec37; rw [ext_eq w 25 7 8 (by omega)]
  show row32 w _ _ (.bind (w.extractLsb' 19 6) (w.extractLsb' 13 6) (w.extractLsb' 7 6)) = _
  rw [e0, e1, e2]; exact if_pos hm

theorem RoundTrip.join (a : BitVec 4) : RoundTrip.Statement (.join a) := by
  intro hwf c hc
  obtain rfl := Option.some.inj hc
  have hn : (4096#15 ++ a ++ 111#13 : BitVec 32).toNat = ((4096) * 2 ^ 4 + a.toNat) * 2 ^ 13 + 111 := by
    rw [app_nat, app_nat]; rfl
  have hm : (4096#15 ++ a ++ 111#13) &&& (32767#15 ++ 0#4 ++ 8191#13) = (4096#15 ++ 0#4 ++ 111#13) := by
    rw [and_app, and_app]; simp only [BitVec.and_zero]; rfl
  have la := a.isLt
  generalize (4096#15 ++ a ++ 111#13 : BitVec 32) = w at *
  replace hm : w &&& 0xFFFE1FFF#32 = 0x2000006F#32 := hm
  show decode (Code.word w).bytes = _
  rw [decode_word w (by omega)]
  have f0 := ext_eq w 1 6 55 (by omega)
  refine decodeWord_ok w _ 55 f0 (by decide) (by decide) ?_ hwf
  unfold decode32; rw [f0]
  show dec37 w = _
  have e0 := ext_op w 13 a (by omega)
  unfold dec37; rw [ext_eq w 25 7 16 (by omega)]
  show row32 w _ _ (.join (w.extractLsb' 13 4)) = _
  rw [e0]; exact if_pos hm

theorem RoundTrip.leave (a : BitVec 4) : RoundTrip.Statement (.leave a) := by
  intro hwf c hc
  obtain rfl := Option.some.inj hc
  have hn : (4352#15 ++ a ++ 111#13 : BitVec 32).toNat = ((4352) * 2 ^ 4 + a.toNat) * 2 ^ 13 + 111 := by
    rw [app_nat, app_nat]; rfl
  have hm : (4352#15 ++ a ++ 111#13) &&& (32767#15 ++ 0#4 ++ 8191#13) = (4352#15 ++ 0#4 ++ 111#13) := by
    rw [and_app, and_app]; simp only [BitVec.and_zero]; rfl
  have la := a.isLt
  generalize (4352#15 ++ a ++ 111#13 : BitVec 32) = w at *
  replace hm : w &&& 0xFFFE1FFF#32 = 0x2200006F#32 := hm
  show decode (Code.word w).bytes = _
  rw [decode_word w (by omega)]
  have f0 := ext_eq w 1 6 55 (by omega)
  refine decodeWord_ok w _ 55 f0 (by decide) (by decide) ?_ hwf
  unfold decode32; rw [f0]
  show dec37 w = _
  have e0 := ext_op w 13 a (by omega)
  unfold dec37; rw [ext_eq w 25 7 17 (by omega)]
  show row32 w _ _ (.leave (w.extractLsb' 13 4)) = _
  rw [e0]; exact if_pos hm

theorem RoundTrip.wait (b : BitVec 6) (a : BitVec 4) (d : BitVec 3) : RoundTrip.Statement (.wait b a d) := by
  intro hwf c hc
  obtain rfl := Option.some.inj hc
  have hn : (18#7 ++ b ++ 0#2 ++ a ++ 0#3 ++ d ++ 111#7 : BitVec 32).toNat = ((((((18) * 2 ^ 6 + b.toNat) * 2 ^ 2 + 0) * 2 ^ 4 + a.toNat) * 2 ^ 3 + 0) * 2 ^ 3 + d.toNat) * 2 ^ 7 + 111 := by
    rw [app_nat, app_nat, app_nat, app_nat, app_nat, app_nat]; rfl
  have hm : (18#7 ++ b ++ 0#2 ++ a ++ 0#3 ++ d ++ 111#7) &&& (127#7 ++ 0#6 ++ 3#2 ++ 0#4 ++ 7#3 ++ 0#3 ++ 127#7) = (18#7 ++ 0#6 ++ 0#2 ++ 0#4 ++ 0#3 ++ 0#3 ++ 111#7) := by
    rw [and_app, and_app, and_app, and_app, and_app, and_app]; simp only [BitVec.and_zero]; rfl
  have lb := b.isLt
  have la := a.isLt
  have ld := d.isLt
  generalize (18#7 ++ b ++ 0#2 ++ a ++ 0#3 ++ d ++ 111#7 : BitVec 32) = w at *
  replace hm : w &&& 0xFE061C7F#32 = 0x2400006F#32 := hm
  show decode (Code.word w).bytes = _
  rw [decode_word w (by omega)]
  have f0 := ext_eq w 1 6 55 (by omega)
  refine decodeWord_ok w _ 55 f0 (by decide) (by decide) ?_ hwf
  unfold decode32; rw [f0]
  show dec37 w = _
  have e0 := ext_op w 19 b (by omega)
  have e1 := ext_op w 13 a (by omega)
  have e2 := ext_op w 7 d (by omega)
  unfold dec37; rw [ext_eq w 25 7 18 (by omega)]
  show row32 w _ _ (.wait (w.extractLsb' 19 6) (w.extractLsb' 13 4) (w.extractLsb' 7 3)) = _
  rw [e0, e1, e2]; exact if_pos hm

theorem RoundTrip.cbar (a : BitVec 6) : RoundTrip.Statement (.cbar a) := by
  intro hwf c hc
  obtain rfl := Option.some.inj hc
  have hn : (1536#13 ++ a ++ 111#13 : BitVec 32).toNat = ((1536) * 2 ^ 6 + a.toNat) * 2 ^ 13 + 111 := by
    rw [app_nat, app_nat]; rfl
  have hm : (1536#13 ++ a ++ 111#13) &&& (8191#13 ++ 0#6 ++ 8191#13) = (1536#13 ++ 0#6 ++ 111#13) := by
    rw [and_app, and_app]; simp only [BitVec.and_zero]; rfl
  have la := a.isLt
  generalize (1536#13 ++ a ++ 111#13 : BitVec 32) = w at *
  replace hm : w &&& 0xFFF81FFF#32 = 0x3000006F#32 := hm
  show decode (Code.word w).bytes = _
  rw [decode_word w (by omega)]
  have f0 := ext_eq w 1 6 55 (by omega)
  refine decodeWord_ok w _ 55 f0 (by decide) (by decide) ?_ hwf
  unfold decode32; rw [f0]
  show dec37 w = _
  have e0 := ext_op w 13 a (by omega)
  unfold dec37; rw [ext_eq w 25 7 24 (by omega)]
  show row32 w _ _ (.cbar (w.extractLsb' 13 6)) = _
  rw [e0]; exact if_pos hm

theorem RoundTrip.cjoin (a : BitVec 6) : RoundTrip.Statement (.cjoin a) := by
  intro hwf c hc
  obtain rfl := Option.some.inj hc
  have hn : (1600#13 ++ a ++ 111#13 : BitVec 32).toNat = ((1600) * 2 ^ 6 + a.toNat) * 2 ^ 13 + 111 := by
    rw [app_nat, app_nat]; rfl
  have hm : (1600#13 ++ a ++ 111#13) &&& (8191#13 ++ 0#6 ++ 8191#13) = (1600#13 ++ 0#6 ++ 111#13) := by
    rw [and_app, and_app]; simp only [BitVec.and_zero]; rfl
  have la := a.isLt
  generalize (1600#13 ++ a ++ 111#13 : BitVec 32) = w at *
  replace hm : w &&& 0xFFF81FFF#32 = 0x3200006F#32 := hm
  show decode (Code.word w).bytes = _
  rw [decode_word w (by omega)]
  have f0 := ext_eq w 1 6 55 (by omega)
  refine decodeWord_ok w _ 55 f0 (by decide) (by decide) ?_ hwf
  unfold decode32; rw [f0]
  show dec37 w = _
  have e0 := ext_op w 13 a (by omega)
  unfold dec37; rw [ext_eq w 25 7 25 (by omega)]
  show row32 w _ _ (.cjoin (w.extractLsb' 13 6)) = _
  rw [e0]; exact if_pos hm

theorem RoundTrip.cleave : RoundTrip.Statement .cleave := by
  intro hwf c hc
  obtain rfl := Option.some.inj hc
  decide

theorem RoundTrip.binit (b : BitVec 6) (a : BitVec 6) : RoundTrip.Statement (.binit b a) := by
  intro hwf c hc
  obtain rfl := Option.some.inj hc
  have hn : (32#7 ++ b ++ a ++ 111#13 : BitVec 32).toNat = (((32) * 2 ^ 6 + b.toNat) * 2 ^ 6 + a.toNat) * 2 ^ 13 + 111 := by
    rw [app_nat, app_nat, app_nat]; rfl
  have hm : (32#7 ++ b ++ a ++ 111#13) &&& (127#7 ++ 0#6 ++ 0#6 ++ 8191#13) = (32#7 ++ 0#6 ++ 0#6 ++ 111#13) := by
    rw [and_app, and_app, and_app]; simp only [BitVec.and_zero]; rfl
  have lb := b.isLt
  have la := a.isLt
  generalize (32#7 ++ b ++ a ++ 111#13 : BitVec 32) = w at *
  replace hm : w &&& 0xFE001FFF#32 = 0x4000006F#32 := hm
  show decode (Code.word w).bytes = _
  rw [decode_word w (by omega)]
  have f0 := ext_eq w 1 6 55 (by omega)
  refine decodeWord_ok w _ 55 f0 (by decide) (by decide) ?_ hwf
  unfold decode32; rw [f0]
  show dec37 w = _
  have e0 := ext_op w 19 b (by omega)
  have e1 := ext_op w 13 a (by omega)
  unfold dec37; rw [ext_eq w 25 7 32 (by omega)]
  show row32 w _ _ (.binit (w.extractLsb' 19 6) (w.extractLsb' 13 6)) = _
  rw [e0, e1]; exact if_pos hm

theorem RoundTrip.barrive (b : BitVec 6) (a : BitVec 6) : RoundTrip.Statement (.barrive b a) := by
  intro hwf c hc
  obtain rfl := Option.some.inj hc
  have hn : (33#7 ++ b ++ a ++ 111#13 : BitVec 32).toNat = (((33) * 2 ^ 6 + b.toNat) * 2 ^ 6 + a.toNat) * 2 ^ 13 + 111 := by
    rw [app_nat, app_nat, app_nat]; rfl
  have hm : (33#7 ++ b ++ a ++ 111#13) &&& (127#7 ++ 0#6 ++ 0#6 ++ 8191#13) = (33#7 ++ 0#6 ++ 0#6 ++ 111#13) := by
    rw [and_app, and_app, and_app]; simp only [BitVec.and_zero]; rfl
  have lb := b.isLt
  have la := a.isLt
  generalize (33#7 ++ b ++ a ++ 111#13 : BitVec 32) = w at *
  replace hm : w &&& 0xFE001FFF#32 = 0x4200006F#32 := hm
  show decode (Code.word w).bytes = _
  rw [decode_word w (by omega)]
  have f0 := ext_eq w 1 6 55 (by omega)
  refine decodeWord_ok w _ 55 f0 (by decide) (by decide) ?_ hwf
  unfold decode32; rw [f0]
  show dec37 w = _
  have e0 := ext_op w 19 b (by omega)
  have e1 := ext_op w 13 a (by omega)
  unfold dec37; rw [ext_eq w 25 7 33 (by omega)]
  show row32 w _ _ (.barrive (w.extractLsb' 19 6) (w.extractLsb' 13 6)) = _
  rw [e0, e1]; exact if_pos hm

theorem RoundTrip.bwait (a : BitVec 6) (d : BitVec 6) : RoundTrip.Statement (.bwait a d) := by
  intro hwf c hc
  obtain rfl := Option.some.inj hc
  have hn : (2176#13 ++ a ++ d ++ 111#7 : BitVec 32).toNat = (((2176) * 2 ^ 6 + a.toNat) * 2 ^ 6 + d.toNat) * 2 ^ 7 + 111 := by
    rw [app_nat, app_nat, app_nat]; rfl
  have hm : (2176#13 ++ a ++ d ++ 111#7) &&& (8191#13 ++ 0#6 ++ 0#6 ++ 127#7) = (2176#13 ++ 0#6 ++ 0#6 ++ 111#7) := by
    rw [and_app, and_app, and_app]; simp only [BitVec.and_zero]; rfl
  have la := a.isLt
  have ld := d.isLt
  generalize (2176#13 ++ a ++ d ++ 111#7 : BitVec 32) = w at *
  replace hm : w &&& 0xFFF8007F#32 = 0x4400006F#32 := hm
  show decode (Code.word w).bytes = _
  rw [decode_word w (by omega)]
  have f0 := ext_eq w 1 6 55 (by omega)
  refine decodeWord_ok w _ 55 f0 (by decide) (by decide) ?_ hwf
  unfold decode32; rw [f0]
  show dec37 w = _
  have e0 := ext_op w 13 a (by omega)
  have e1 := ext_op w 7 d (by omega)
  unfold dec37; rw [ext_eq w 25 7 34 (by omega)]
  show row32 w _ _ (.bwait (w.extractLsb' 13 6) (w.extractLsb' 7 6)) = _
  rw [e0, e1]; exact if_pos hm

theorem RoundTrip.bread (a : BitVec 6) (d : BitVec 6) : RoundTrip.Statement (.bread a d) := by
  intro hwf c hc
  obtain rfl := Option.some.inj hc
  have hn : (2240#13 ++ a ++ d ++ 111#7 : BitVec 32).toNat = (((2240) * 2 ^ 6 + a.toNat) * 2 ^ 6 + d.toNat) * 2 ^ 7 + 111 := by
    rw [app_nat, app_nat, app_nat]; rfl
  have hm : (2240#13 ++ a ++ d ++ 111#7) &&& (8191#13 ++ 0#6 ++ 0#6 ++ 127#7) = (2240#13 ++ 0#6 ++ 0#6 ++ 111#7) := by
    rw [and_app, and_app, and_app]; simp only [BitVec.and_zero]; rfl
  have la := a.isLt
  have ld := d.isLt
  generalize (2240#13 ++ a ++ d ++ 111#7 : BitVec 32) = w at *
  replace hm : w &&& 0xFFF8007F#32 = 0x4600006F#32 := hm
  show decode (Code.word w).bytes = _
  rw [decode_word w (by omega)]
  have f0 := ext_eq w 1 6 55 (by omega)
  refine decodeWord_ok w _ 55 f0 (by decide) (by decide) ?_ hwf
  unfold decode32; rw [f0]
  show dec37 w = _
  have e0 := ext_op w 13 a (by omega)
  have e1 := ext_op w 7 d (by omega)
  unfold dec37; rw [ext_eq w 25 7 35 (by omega)]
  show row32 w _ _ (.bread (w.extractLsb' 13 6) (w.extractLsb' 7 6)) = _
  rw [e0, e1]; exact if_pos hm

theorem RoundTrip.rdwp (b : BitVec 2) (d : BitVec 6) : RoundTrip.Statement (.rdwp b d) := by
  intro hwf c hc
  obtain rfl := Option.some.inj hc
  have hn : (640#11 ++ b ++ 0#6 ++ d ++ 111#7 : BitVec 32).toNat = ((((640) * 2 ^ 2 + b.toNat) * 2 ^ 6 + 0) * 2 ^ 6 + d.toNat) * 2 ^ 7 + 111 := by
    rw [app_nat, app_nat, app_nat, app_nat]; rfl
  have hm : (640#11 ++ b ++ 0#6 ++ d ++ 111#7) &&& (2047#11 ++ 0#2 ++ 63#6 ++ 0#6 ++ 127#7) = (640#11 ++ 0#2 ++ 0#6 ++ 0#6 ++ 111#7) := by
    rw [and_app, and_app, and_app, and_app]; simp only [BitVec.and_zero]; rfl
  have lb := b.isLt
  have ld := d.isLt
  generalize (640#11 ++ b ++ 0#6 ++ d ++ 111#7 : BitVec 32) = w at *
  replace hm : w &&& 0xFFE7E07F#32 = 0x5000006F#32 := hm
  show decode (Code.word w).bytes = _
  rw [decode_word w (by omega)]
  have f0 := ext_eq w 1 6 55 (by omega)
  refine decodeWord_ok w _ 55 f0 (by decide) (by decide) ?_ hwf
  unfold decode32; rw [f0]
  show dec37 w = _
  have e0 := ext_op w 19 b (by omega)
  have e1 := ext_op w 7 d (by omega)
  unfold dec37; rw [ext_eq w 25 7 40 (by omega)]
  show row32 w _ _ (.rdwp (w.extractLsb' 19 2) (w.extractLsb' 7 6)) = _
  rw [e0, e1]; exact if_pos hm

theorem RoundTrip.rwr (b : BitVec 6) (a : BitVec 6) : RoundTrip.Statement (.rwr b a) := by
  intro hwf c hc
  obtain rfl := Option.some.inj hc
  have hn : (48#7 ++ b ++ a ++ 111#13 : BitVec 32).toNat = (((48) * 2 ^ 6 + b.toNat) * 2 ^ 6 + a.toNat) * 2 ^ 13 + 111 := by
    rw [app_nat, app_nat, app_nat]; rfl
  have hm : (48#7 ++ b ++ a ++ 111#13) &&& (127#7 ++ 0#6 ++ 0#6 ++ 8191#13) = (48#7 ++ 0#6 ++ 0#6 ++ 111#13) := by
    rw [and_app, and_app, and_app]; simp only [BitVec.and_zero]; rfl
  have lb := b.isLt
  have la := a.isLt
  generalize (48#7 ++ b ++ a ++ 111#13 : BitVec 32) = w at *
  replace hm : w &&& 0xFE001FFF#32 = 0x6000006F#32 := hm
  show decode (Code.word w).bytes = _
  rw [decode_word w (by omega)]
  have f0 := ext_eq w 1 6 55 (by omega)
  refine decodeWord_ok w _ 55 f0 (by decide) (by decide) ?_ hwf
  unfold decode32; rw [f0]
  show dec37 w = _
  have e0 := ext_op w 19 b (by omega)
  have e1 := ext_op w 13 a (by omega)
  unfold dec37; rw [ext_eq w 25 7 48 (by omega)]
  show row32 w _ _ (.rwr (w.extractLsb' 19 6) (w.extractLsb' 13 6)) = _
  rw [e0, e1]; exact if_pos hm

theorem RoundTrip.mld (p : BitVec 6) (s : BitVec 2) (a : BitVec 4) (d : BitVec 5) : RoundTrip.Statement (.mld p s a d) := by
  intro hwf c hc
  obtain rfl := Option.some.inj hc
  have hn : (p ++ 0#5 ++ s ++ 7#3 ++ a ++ d ++ 113#7 : BitVec 32).toNat = ((((((p.toNat) * 2 ^ 5 + 0) * 2 ^ 2 + s.toNat) * 2 ^ 3 + 7) * 2 ^ 4 + a.toNat) * 2 ^ 5 + d.toNat) * 2 ^ 7 + 113 := by
    rw [app_nat, app_nat, app_nat, app_nat, app_nat, app_nat]; rfl
  have hm : (p ++ 0#5 ++ s ++ 7#3 ++ a ++ d ++ 113#7) &&& (0#6 ++ 31#5 ++ 0#2 ++ 7#3 ++ 0#4 ++ 0#5 ++ 127#7) = (0#6 ++ 0#5 ++ 0#2 ++ 7#3 ++ 0#4 ++ 0#5 ++ 113#7) := by
    rw [and_app, and_app, and_app, and_app, and_app, and_app]; simp only [BitVec.and_zero]; rfl
  have lp := p.isLt
  have ls := s.isLt
  have la := a.isLt
  have ld := d.isLt
  generalize (p ++ 0#5 ++ s ++ 7#3 ++ a ++ d ++ 113#7 : BitVec 32) = w at *
  replace hm : w &&& 0x03E7007F#32 = 0x00070071#32 := hm
  show decode (Code.word w).bytes = _
  rw [decode_word w (by omega)]
  have f0 := ext_eq w 1 6 56 (by omega)
  refine decodeWord_ok w _ 56 f0 (by decide) (by decide) ?_ hwf
  unfold decode32; rw [f0]
  show dec38 w = _
  have e0 := ext_op w 26 p (by omega)
  have e1 := ext_op w 19 s (by omega)
  have e2 := ext_op w 12 a (by omega)
  have e3 := ext_op w 7 d (by omega)
  unfold dec38; rw [ext_eq w 21 4 0 (by omega)]
  show row32 w _ _ (.mld (w.extractLsb' 26 6) (w.extractLsb' 19 2) (w.extractLsb' 12 4) (w.extractLsb' 7 5)) = _
  rw [e0, e1, e2, e3]; exact if_pos hm

theorem RoundTrip.mst (p : BitVec 6) (i : BitVec 1) (s : BitVec 2) (a : BitVec 4) (d : BitVec 5) : RoundTrip.Statement (.mst p i s a d) := by
  intro hwf c hc
  obtain rfl := Option.some.inj hc
  have hn : (p ++ i ++ 1#4 ++ s ++ 7#3 ++ a ++ d ++ 113#7 : BitVec 32).toNat = (((((((p.toNat) * 2 ^ 1 + i.toNat) * 2 ^ 4 + 1) * 2 ^ 2 + s.toNat) * 2 ^ 3 + 7) * 2 ^ 4 + a.toNat) * 2 ^ 5 + d.toNat) * 2 ^ 7 + 113 := by
    rw [app_nat, app_nat, app_nat, app_nat, app_nat, app_nat, app_nat]; rfl
  have hm : (p ++ i ++ 1#4 ++ s ++ 7#3 ++ a ++ d ++ 113#7) &&& (0#6 ++ 0#1 ++ 15#4 ++ 0#2 ++ 7#3 ++ 0#4 ++ 0#5 ++ 127#7) = (0#6 ++ 0#1 ++ 1#4 ++ 0#2 ++ 7#3 ++ 0#4 ++ 0#5 ++ 113#7) := by
    rw [and_app, and_app, and_app, and_app, and_app, and_app, and_app]; simp only [BitVec.and_zero]; rfl
  have lp := p.isLt
  have li := i.isLt
  have ls := s.isLt
  have la := a.isLt
  have ld := d.isLt
  generalize (p ++ i ++ 1#4 ++ s ++ 7#3 ++ a ++ d ++ 113#7 : BitVec 32) = w at *
  replace hm : w &&& 0x01E7007F#32 = 0x00270071#32 := hm
  show decode (Code.word w).bytes = _
  rw [decode_word w (by omega)]
  have f0 := ext_eq w 1 6 56 (by omega)
  refine decodeWord_ok w _ 56 f0 (by decide) (by decide) ?_ hwf
  unfold decode32; rw [f0]
  show dec38 w = _
  have e0 := ext_op w 26 p (by omega)
  have e1 := ext_op w 25 i (by omega)
  have e2 := ext_op w 19 s (by omega)
  have e3 := ext_op w 12 a (by omega)
  have e4 := ext_op w 7 d (by omega)
  unfold dec38; rw [ext_eq w 21 4 1 (by omega)]
  show row32 w _ _ (.mst (w.extractLsb' 26 6) (w.extractLsb' 25 1) (w.extractLsb' 19 2) (w.extractLsb' 12 4) (w.extractLsb' 7 5)) = _
  rw [e0, e1, e2, e3, e4]; exact if_pos hm

theorem RoundTrip.mldf (s : BitVec 2) (a : BitVec 4) (d : BitVec 5) : RoundTrip.Statement (.mldf s a d) := by
  intro hwf c hc
  obtain rfl := Option.some.inj hc
  have hn : (2#11 ++ s ++ 7#3 ++ a ++ d ++ 113#7 : BitVec 32).toNat = (((((2) * 2 ^ 2 + s.toNat) * 2 ^ 3 + 7) * 2 ^ 4 + a.toNat) * 2 ^ 5 + d.toNat) * 2 ^ 7 + 113 := by
    rw [app_nat, app_nat, app_nat, app_nat, app_nat]; rfl
  have hm : (2#11 ++ s ++ 7#3 ++ a ++ d ++ 113#7) &&& (2047#11 ++ 0#2 ++ 7#3 ++ 0#4 ++ 0#5 ++ 127#7) = (2#11 ++ 0#2 ++ 7#3 ++ 0#4 ++ 0#5 ++ 113#7) := by
    rw [and_app, and_app, and_app, and_app, and_app]; simp only [BitVec.and_zero]; rfl
  have ls := s.isLt
  have la := a.isLt
  have ld := d.isLt
  generalize (2#11 ++ s ++ 7#3 ++ a ++ d ++ 113#7 : BitVec 32) = w at *
  replace hm : w &&& 0xFFE7007F#32 = 0x00470071#32 := hm
  show decode (Code.word w).bytes = _
  rw [decode_word w (by omega)]
  have f0 := ext_eq w 1 6 56 (by omega)
  refine decodeWord_ok w _ 56 f0 (by decide) (by decide) ?_ hwf
  unfold decode32; rw [f0]
  show dec38 w = _
  have e0 := ext_op w 19 s (by omega)
  have e1 := ext_op w 12 a (by omega)
  have e2 := ext_op w 7 d (by omega)
  unfold dec38; rw [ext_eq w 21 4 2 (by omega)]
  show row32 w _ _ (.mldf (w.extractLsb' 19 2) (w.extractLsb' 12 4) (w.extractLsb' 7 5)) = _
  rw [e0, e1, e2]; exact if_pos hm

theorem RoundTrip.mstf (i : BitVec 1) (s : BitVec 2) (a : BitVec 4) (d : BitVec 5) : RoundTrip.Statement (.mstf i s a d) := by
  intro hwf c hc
  obtain rfl := Option.some.inj hc
  have hn : (0#6 ++ i ++ 3#4 ++ s ++ 7#3 ++ a ++ d ++ 113#7 : BitVec 32).toNat = (((((((0) * 2 ^ 1 + i.toNat) * 2 ^ 4 + 3) * 2 ^ 2 + s.toNat) * 2 ^ 3 + 7) * 2 ^ 4 + a.toNat) * 2 ^ 5 + d.toNat) * 2 ^ 7 + 113 := by
    rw [app_nat, app_nat, app_nat, app_nat, app_nat, app_nat, app_nat]; rfl
  have hm : (0#6 ++ i ++ 3#4 ++ s ++ 7#3 ++ a ++ d ++ 113#7) &&& (63#6 ++ 0#1 ++ 15#4 ++ 0#2 ++ 7#3 ++ 0#4 ++ 0#5 ++ 127#7) = (0#6 ++ 0#1 ++ 3#4 ++ 0#2 ++ 7#3 ++ 0#4 ++ 0#5 ++ 113#7) := by
    rw [and_app, and_app, and_app, and_app, and_app, and_app, and_app]; simp only [BitVec.and_zero]; rfl
  have li := i.isLt
  have ls := s.isLt
  have la := a.isLt
  have ld := d.isLt
  generalize (0#6 ++ i ++ 3#4 ++ s ++ 7#3 ++ a ++ d ++ 113#7 : BitVec 32) = w at *
  replace hm : w &&& 0xFDE7007F#32 = 0x00670071#32 := hm
  show decode (Code.word w).bytes = _
  rw [decode_word w (by omega)]
  have f0 := ext_eq w 1 6 56 (by omega)
  refine decodeWord_ok w _ 56 f0 (by decide) (by decide) ?_ hwf
  unfold decode32; rw [f0]
  show dec38 w = _
  have e0 := ext_op w 25 i (by omega)
  have e1 := ext_op w 19 s (by omega)
  have e2 := ext_op w 12 a (by omega)
  have e3 := ext_op w 7 d (by omega)
  unfold dec38; rw [ext_eq w 21 4 3 (by omega)]
  show row32 w _ _ (.mstf (w.extractLsb' 25 1) (w.extractLsb' 19 2) (w.extractLsb' 12 4) (w.extractLsb' 7 5)) = _
  rw [e0, e1, e2, e3]; exact if_pos hm

theorem RoundTrip.ald (p : BitVec 6) (s : BitVec 2) (a : BitVec 4) (d : BitVec 3) : RoundTrip.Statement (.ald p s a d) := by
  intro hwf c hc
  obtain rfl := Option.some.inj hc
  have hn : (p ++ 4#5 ++ s ++ 7#3 ++ a ++ 0#2 ++ d ++ 113#7 : BitVec 32).toNat = (((((((p.toNat) * 2 ^ 5 + 4) * 2 ^ 2 + s.toNat) * 2 ^ 3 + 7) * 2 ^ 4 + a.toNat) * 2 ^ 2 + 0) * 2 ^ 3 + d.toNat) * 2 ^ 7 + 113 := by
    rw [app_nat, app_nat, app_nat, app_nat, app_nat, app_nat, app_nat]; rfl
  have hm : (p ++ 4#5 ++ s ++ 7#3 ++ a ++ 0#2 ++ d ++ 113#7) &&& (0#6 ++ 31#5 ++ 0#2 ++ 7#3 ++ 0#4 ++ 3#2 ++ 0#3 ++ 127#7) = (0#6 ++ 4#5 ++ 0#2 ++ 7#3 ++ 0#4 ++ 0#2 ++ 0#3 ++ 113#7) := by
    rw [and_app, and_app, and_app, and_app, and_app, and_app, and_app]; simp only [BitVec.and_zero]; rfl
  have lp := p.isLt
  have ls := s.isLt
  have la := a.isLt
  have ld := d.isLt
  generalize (p ++ 4#5 ++ s ++ 7#3 ++ a ++ 0#2 ++ d ++ 113#7 : BitVec 32) = w at *
  replace hm : w &&& 0x03E70C7F#32 = 0x00870071#32 := hm
  show decode (Code.word w).bytes = _
  rw [decode_word w (by omega)]
  have f0 := ext_eq w 1 6 56 (by omega)
  refine decodeWord_ok w _ 56 f0 (by decide) (by decide) ?_ hwf
  unfold decode32; rw [f0]
  show dec38 w = _
  have e0 := ext_op w 26 p (by omega)
  have e1 := ext_op w 19 s (by omega)
  have e2 := ext_op w 12 a (by omega)
  have e3 := ext_op w 7 d (by omega)
  unfold dec38; rw [ext_eq w 21 4 4 (by omega)]
  show row32 w _ _ (.ald (w.extractLsb' 26 6) (w.extractLsb' 19 2) (w.extractLsb' 12 4) (w.extractLsb' 7 3)) = _
  rw [e0, e1, e2, e3]; exact if_pos hm

theorem RoundTrip.ast (p : BitVec 6) (i : BitVec 1) (s : BitVec 2) (a : BitVec 4) (d : BitVec 3) : RoundTrip.Statement (.ast p i s a d) := by
  intro hwf c hc
  obtain rfl := Option.some.inj hc
  have hn : (p ++ i ++ 5#4 ++ s ++ 7#3 ++ a ++ 0#2 ++ d ++ 113#7 : BitVec 32).toNat = ((((((((p.toNat) * 2 ^ 1 + i.toNat) * 2 ^ 4 + 5) * 2 ^ 2 + s.toNat) * 2 ^ 3 + 7) * 2 ^ 4 + a.toNat) * 2 ^ 2 + 0) * 2 ^ 3 + d.toNat) * 2 ^ 7 + 113 := by
    rw [app_nat, app_nat, app_nat, app_nat, app_nat, app_nat, app_nat, app_nat]; rfl
  have hm : (p ++ i ++ 5#4 ++ s ++ 7#3 ++ a ++ 0#2 ++ d ++ 113#7) &&& (0#6 ++ 0#1 ++ 15#4 ++ 0#2 ++ 7#3 ++ 0#4 ++ 3#2 ++ 0#3 ++ 127#7) = (0#6 ++ 0#1 ++ 5#4 ++ 0#2 ++ 7#3 ++ 0#4 ++ 0#2 ++ 0#3 ++ 113#7) := by
    rw [and_app, and_app, and_app, and_app, and_app, and_app, and_app, and_app]; simp only [BitVec.and_zero]; rfl
  have lp := p.isLt
  have li := i.isLt
  have ls := s.isLt
  have la := a.isLt
  have ld := d.isLt
  generalize (p ++ i ++ 5#4 ++ s ++ 7#3 ++ a ++ 0#2 ++ d ++ 113#7 : BitVec 32) = w at *
  replace hm : w &&& 0x01E70C7F#32 = 0x00A70071#32 := hm
  show decode (Code.word w).bytes = _
  rw [decode_word w (by omega)]
  have f0 := ext_eq w 1 6 56 (by omega)
  refine decodeWord_ok w _ 56 f0 (by decide) (by decide) ?_ hwf
  unfold decode32; rw [f0]
  show dec38 w = _
  have e0 := ext_op w 26 p (by omega)
  have e1 := ext_op w 25 i (by omega)
  have e2 := ext_op w 19 s (by omega)
  have e3 := ext_op w 12 a (by omega)
  have e4 := ext_op w 7 d (by omega)
  unfold dec38; rw [ext_eq w 21 4 5 (by omega)]
  show row32 w _ _ (.ast (w.extractLsb' 26 6) (w.extractLsb' 25 1) (w.extractLsb' 19 2) (w.extractLsb' 12 4) (w.extractLsb' 7 3)) = _
  rw [e0, e1, e2, e3, e4]; exact if_pos hm

theorem RoundTrip.mma (b : BitVec 5) (a : BitVec 5) (d : BitVec 3) : RoundTrip.Statement (.mma b a d) := by
  intro hwf c hc
  obtain rfl := Option.some.inj hc
  have hn : (0#10 ++ b ++ a ++ 0#2 ++ d ++ 115#7 : BitVec 32).toNat = (((((0) * 2 ^ 5 + b.toNat) * 2 ^ 5 + a.toNat) * 2 ^ 2 + 0) * 2 ^ 3 + d.toNat) * 2 ^ 7 + 115 := by
    rw [app_nat, app_nat, app_nat, app_nat, app_nat]; rfl
  have hm : (0#10 ++ b ++ a ++ 0#2 ++ d ++ 115#7) &&& (1023#10 ++ 0#5 ++ 0#5 ++ 3#2 ++ 0#3 ++ 127#7) = (0#10 ++ 0#5 ++ 0#5 ++ 0#2 ++ 0#3 ++ 115#7) := by
    rw [and_app, and_app, and_app, and_app, and_app]; simp only [BitVec.and_zero]; rfl
  have lb := b.isLt
  have la := a.isLt
  have ld := d.isLt
  generalize (0#10 ++ b ++ a ++ 0#2 ++ d ++ 115#7 : BitVec 32) = w at *
  replace hm : w &&& 0xFFC00C7F#32 = 0x00000073#32 := hm
  show decode (Code.word w).bytes = _
  rw [decode_word w (by omega)]
  have f0 := ext_eq w 1 6 57 (by omega)
  refine decodeWord_ok w _ 57 f0 (by decide) (by decide) ?_ hwf
  unfold decode32; rw [f0]
  show dec39 w = _
  have e0 := ext_op w 17 b (by omega)
  have e1 := ext_op w 12 a (by omega)
  have e2 := ext_op w 7 d (by omega)
  unfold dec39; rw [ext_eq w 27 5 0 (by omega)]
  show row32 w _ _ (.mma (w.extractLsb' 17 5) (w.extractLsb' 12 5) (w.extractLsb' 7 3)) = _
  rw [e0, e1, e2]; exact if_pos hm

theorem RoundTrip.mmaz (b : BitVec 5) (a : BitVec 5) (d : BitVec 3) : RoundTrip.Statement (.mmaz b a d) := by
  intro hwf c hc
  obtain rfl := Option.some.inj hc
  have hn : (32#10 ++ b ++ a ++ 0#2 ++ d ++ 115#7 : BitVec 32).toNat = (((((32) * 2 ^ 5 + b.toNat) * 2 ^ 5 + a.toNat) * 2 ^ 2 + 0) * 2 ^ 3 + d.toNat) * 2 ^ 7 + 115 := by
    rw [app_nat, app_nat, app_nat, app_nat, app_nat]; rfl
  have hm : (32#10 ++ b ++ a ++ 0#2 ++ d ++ 115#7) &&& (1023#10 ++ 0#5 ++ 0#5 ++ 3#2 ++ 0#3 ++ 127#7) = (32#10 ++ 0#5 ++ 0#5 ++ 0#2 ++ 0#3 ++ 115#7) := by
    rw [and_app, and_app, and_app, and_app, and_app]; simp only [BitVec.and_zero]; rfl
  have lb := b.isLt
  have la := a.isLt
  have ld := d.isLt
  generalize (32#10 ++ b ++ a ++ 0#2 ++ d ++ 115#7 : BitVec 32) = w at *
  replace hm : w &&& 0xFFC00C7F#32 = 0x08000073#32 := hm
  show decode (Code.word w).bytes = _
  rw [decode_word w (by omega)]
  have f0 := ext_eq w 1 6 57 (by omega)
  refine decodeWord_ok w _ 57 f0 (by decide) (by decide) ?_ hwf
  unfold decode32; rw [f0]
  show dec39 w = _
  have e0 := ext_op w 17 b (by omega)
  have e1 := ext_op w 12 a (by omega)
  have e2 := ext_op w 7 d (by omega)
  unfold dec39; rw [ext_eq w 27 5 1 (by omega)]
  show row32 w _ _ (.mmaz (w.extractLsb' 17 5) (w.extractLsb' 12 5) (w.extractLsb' 7 3)) = _
  rw [e0, e1, e2]; exact if_pos hm

theorem RoundTrip.mdrain (a : BitVec 3) (d : BitVec 5) : RoundTrip.Statement (.mdrain a d) := by
  intro hwf c hc
  obtain rfl := Option.some.inj hc
  have hn : (8192#17 ++ a ++ d ++ 115#7 : BitVec 32).toNat = (((8192) * 2 ^ 3 + a.toNat) * 2 ^ 5 + d.toNat) * 2 ^ 7 + 115 := by
    rw [app_nat, app_nat, app_nat]; rfl
  have hm : (8192#17 ++ a ++ d ++ 115#7) &&& (131071#17 ++ 0#3 ++ 0#5 ++ 127#7) = (8192#17 ++ 0#3 ++ 0#5 ++ 115#7) := by
    rw [and_app, and_app, and_app]; simp only [BitVec.and_zero]; rfl
  have la := a.isLt
  have ld := d.isLt
  generalize (8192#17 ++ a ++ d ++ 115#7 : BitVec 32) = w at *
  replace hm : w &&& 0xFFFF807F#32 = 0x10000073#32 := hm
  show decode (Code.word w).bytes = _
  rw [decode_word w (by omega)]
  have f0 := ext_eq w 1 6 57 (by omega)
  refine decodeWord_ok w _ 57 f0 (by decide) (by decide) ?_ hwf
  unfold decode32; rw [f0]
  show dec39 w = _
  have e0 := ext_op w 12 a (by omega)
  have e1 := ext_op w 7 d (by omega)
  unfold dec39; rw [ext_eq w 27 5 2 (by omega)]
  show row32 w _ _ (.mdrain (w.extractLsb' 12 3) (w.extractLsb' 7 5)) = _
  rw [e0, e1]; exact if_pos hm

theorem RoundTrip.aclr (d : BitVec 3) : RoundTrip.Statement (.aclr d) := by
  intro hwf c hc
  obtain rfl := Option.some.inj hc
  have hn : (393216#22 ++ d ++ 115#7 : BitVec 32).toNat = ((393216) * 2 ^ 3 + d.toNat) * 2 ^ 7 + 115 := by
    rw [app_nat, app_nat]; rfl
  have hm : (393216#22 ++ d ++ 115#7) &&& (4194303#22 ++ 0#3 ++ 127#7) = (393216#22 ++ 0#3 ++ 115#7) := by
    rw [and_app, and_app]; simp only [BitVec.and_zero]; rfl
  have ld := d.isLt
  generalize (393216#22 ++ d ++ 115#7 : BitVec 32) = w at *
  replace hm : w &&& 0xFFFFFC7F#32 = 0x18000073#32 := hm
  show decode (Code.word w).bytes = _
  rw [decode_word w (by omega)]
  have f0 := ext_eq w 1 6 57 (by omega)
  refine decodeWord_ok w _ 57 f0 (by decide) (by decide) ?_ hwf
  unfold decode32; rw [f0]
  show dec39 w = _
  have e0 := ext_op w 7 d (by omega)
  unfold dec39; rw [ext_eq w 27 5 3 (by omega)]
  show row32 w _ _ (.aclr (w.extractLsb' 7 3)) = _
  rw [e0]; exact if_pos hm

theorem RoundTrip.mmul (b : BitVec 5) (a : BitVec 5) (d : BitVec 5) : RoundTrip.Statement (.mmul b a d) := by
  intro hwf c hc
  obtain rfl := Option.some.inj hc
  have hn : (128#10 ++ b ++ a ++ d ++ 115#7 : BitVec 32).toNat = ((((128) * 2 ^ 5 + b.toNat) * 2 ^ 5 + a.toNat) * 2 ^ 5 + d.toNat) * 2 ^ 7 + 115 := by
    rw [app_nat, app_nat, app_nat, app_nat]; rfl
  have hm : (128#10 ++ b ++ a ++ d ++ 115#7) &&& (1023#10 ++ 0#5 ++ 0#5 ++ 0#5 ++ 127#7) = (128#10 ++ 0#5 ++ 0#5 ++ 0#5 ++ 115#7) := by
    rw [and_app, and_app, and_app, and_app]; simp only [BitVec.and_zero]; rfl
  have lb := b.isLt
  have la := a.isLt
  have ld := d.isLt
  generalize (128#10 ++ b ++ a ++ d ++ 115#7 : BitVec 32) = w at *
  replace hm : w &&& 0xFFC0007F#32 = 0x20000073#32 := hm
  show decode (Code.word w).bytes = _
  rw [decode_word w (by omega)]
  have f0 := ext_eq w 1 6 57 (by omega)
  refine decodeWord_ok w _ 57 f0 (by decide) (by decide) ?_ hwf
  unfold decode32; rw [f0]
  show dec39 w = _
  have e0 := ext_op w 17 b (by omega)
  have e1 := ext_op w 12 a (by omega)
  have e2 := ext_op w 7 d (by omega)
  unfold dec39; rw [ext_eq w 27 5 4 (by omega)]
  show row32 w _ _ (.mmul (w.extractLsb' 17 5) (w.extractLsb' 12 5) (w.extractLsb' 7 5)) = _
  rw [e0, e1, e2]; exact if_pos hm

theorem RoundTrip.madd (b : BitVec 5) (a : BitVec 5) (d : BitVec 5) : RoundTrip.Statement (.madd b a d) := by
  intro hwf c hc
  obtain rfl := Option.some.inj hc
  have hn : (160#10 ++ b ++ a ++ d ++ 115#7 : BitVec 32).toNat = ((((160) * 2 ^ 5 + b.toNat) * 2 ^ 5 + a.toNat) * 2 ^ 5 + d.toNat) * 2 ^ 7 + 115 := by
    rw [app_nat, app_nat, app_nat, app_nat]; rfl
  have hm : (160#10 ++ b ++ a ++ d ++ 115#7) &&& (1023#10 ++ 0#5 ++ 0#5 ++ 0#5 ++ 127#7) = (160#10 ++ 0#5 ++ 0#5 ++ 0#5 ++ 115#7) := by
    rw [and_app, and_app, and_app, and_app]; simp only [BitVec.and_zero]; rfl
  have lb := b.isLt
  have la := a.isLt
  have ld := d.isLt
  generalize (160#10 ++ b ++ a ++ d ++ 115#7 : BitVec 32) = w at *
  replace hm : w &&& 0xFFC0007F#32 = 0x28000073#32 := hm
  show decode (Code.word w).bytes = _
  rw [decode_word w (by omega)]
  have f0 := ext_eq w 1 6 57 (by omega)
  refine decodeWord_ok w _ 57 f0 (by decide) (by decide) ?_ hwf
  unfold decode32; rw [f0]
  show dec39 w = _
  have e0 := ext_op w 17 b (by omega)
  have e1 := ext_op w 12 a (by omega)
  have e2 := ext_op w 7 d (by omega)
  unfold dec39; rw [ext_eq w 27 5 5 (by omega)]
  show (row32 w 0xFFC0007F 0x28000073 (.madd (w.extractLsb' 17 5) (w.extractLsb' 12 5) (w.extractLsb' 7 5)) <|> row32 w 0xFFC0007F 0x28400073 (.maddDn (w.extractLsb' 17 5) (w.extractLsb' 12 5) (w.extractLsb' 7 5))) = _
  rw [e0, e1, e2, show row32 w 0xFFC0007F 0x28000073 (.madd b a d) = some _ from if_pos hm]; rfl

theorem RoundTrip.maddDn (b : BitVec 5) (a : BitVec 5) (d : BitVec 5) : RoundTrip.Statement (.maddDn b a d) := by
  intro hwf c hc
  obtain rfl := Option.some.inj hc
  have hn : (161#10 ++ b ++ a ++ d ++ 115#7 : BitVec 32).toNat = ((((161) * 2 ^ 5 + b.toNat) * 2 ^ 5 + a.toNat) * 2 ^ 5 + d.toNat) * 2 ^ 7 + 115 := by
    rw [app_nat, app_nat, app_nat, app_nat]; rfl
  have hm : (161#10 ++ b ++ a ++ d ++ 115#7) &&& (1023#10 ++ 0#5 ++ 0#5 ++ 0#5 ++ 127#7) = (161#10 ++ 0#5 ++ 0#5 ++ 0#5 ++ 115#7) := by
    rw [and_app, and_app, and_app, and_app]; simp only [BitVec.and_zero]; rfl
  have lb := b.isLt
  have la := a.isLt
  have ld := d.isLt
  generalize (161#10 ++ b ++ a ++ d ++ 115#7 : BitVec 32) = w at *
  replace hm : w &&& 0xFFC0007F#32 = 0x28400073#32 := hm
  show decode (Code.word w).bytes = _
  rw [decode_word w (by omega)]
  have f0 := ext_eq w 1 6 57 (by omega)
  refine decodeWord_ok w _ 57 f0 (by decide) (by decide) ?_ hwf
  unfold decode32; rw [f0]
  show dec39 w = _
  have e0 := ext_op w 17 b (by omega)
  have e1 := ext_op w 12 a (by omega)
  have e2 := ext_op w 7 d (by omega)
  unfold dec39; rw [ext_eq w 27 5 5 (by omega)]
  show (row32 w 0xFFC0007F 0x28000073 (.madd (w.extractLsb' 17 5) (w.extractLsb' 12 5) (w.extractLsb' 7 5)) <|> row32 w 0xFFC0007F 0x28400073 (.maddDn (w.extractLsb' 17 5) (w.extractLsb' 12 5) (w.extractLsb' 7 5))) = _
  rw [e0, e1, e2, show row32 w 0xFFC0007F 0x28000073 (.madd b a d) = none from if_neg (fun h => absurd (hm.symm.trans h) (by decide)),
    show row32 w 0xFFC0007F 0x28400073 (.maddDn b a d) = some _ from if_pos hm]; rfl

theorem RoundTrip.mrecomp (a : BitVec 5) (d : BitVec 5) : RoundTrip.Statement (.mrecomp a d) := by
  intro hwf c hc
  obtain rfl := Option.some.inj hc
  have hn : (6144#15 ++ a ++ d ++ 115#7 : BitVec 32).toNat = (((6144) * 2 ^ 5 + a.toNat) * 2 ^ 5 + d.toNat) * 2 ^ 7 + 115 := by
    rw [app_nat, app_nat, app_nat]; rfl
  have hm : (6144#15 ++ a ++ d ++ 115#7) &&& (32767#15 ++ 0#5 ++ 0#5 ++ 127#7) = (6144#15 ++ 0#5 ++ 0#5 ++ 115#7) := by
    rw [and_app, and_app, and_app]; simp only [BitVec.and_zero]; rfl
  have la := a.isLt
  have ld := d.isLt
  generalize (6144#15 ++ a ++ d ++ 115#7 : BitVec 32) = w at *
  replace hm : w &&& 0xFFFE007F#32 = 0x30000073#32 := hm
  show decode (Code.word w).bytes = _
  rw [decode_word w (by omega)]
  have f0 := ext_eq w 1 6 57 (by omega)
  refine decodeWord_ok w _ 57 f0 (by decide) (by decide) ?_ hwf
  unfold decode32; rw [f0]
  show dec39 w = _
  have e0 := ext_op w 12 a (by omega)
  have e1 := ext_op w 7 d (by omega)
  unfold dec39; rw [ext_eq w 27 5 6 (by omega)]
  show row32 w _ _ (.mrecomp (w.extractLsb' 12 5) (w.extractLsb' 7 5)) = _
  rw [e0, e1]; exact if_pos hm

theorem RoundTrip.mfact (a : BitVec 5) (d : BitVec 5) : RoundTrip.Statement (.mfact a d) := by
  intro hwf c hc
  obtain rfl := Option.some.inj hc
  have hn : (7168#15 ++ a ++ d ++ 115#7 : BitVec 32).toNat = (((7168) * 2 ^ 5 + a.toNat) * 2 ^ 5 + d.toNat) * 2 ^ 7 + 115 := by
    rw [app_nat, app_nat, app_nat]; rfl
  have hm : (7168#15 ++ a ++ d ++ 115#7) &&& (32767#15 ++ 0#5 ++ 0#5 ++ 127#7) = (7168#15 ++ 0#5 ++ 0#5 ++ 115#7) := by
    rw [and_app, and_app, and_app]; simp only [BitVec.and_zero]; rfl
  have la := a.isLt
  have ld := d.isLt
  generalize (7168#15 ++ a ++ d ++ 115#7 : BitVec 32) = w at *
  replace hm : w &&& 0xFFFE007F#32 = 0x38000073#32 := hm
  show decode (Code.word w).bytes = _
  rw [decode_word w (by omega)]
  have f0 := ext_eq w 1 6 57 (by omega)
  refine decodeWord_ok w _ 57 f0 (by decide) (by decide) ?_ hwf
  unfold decode32; rw [f0]
  show dec39 w = _
  have e0 := ext_op w 12 a (by omega)
  have e1 := ext_op w 7 d (by omega)
  unfold dec39; rw [ext_eq w 27 5 7 (by omega)]
  show row32 w _ _ (.mfact (w.extractLsb' 12 5) (w.extractLsb' 7 5)) = _
  rw [e0, e1]; exact if_pos hm

theorem RoundTrip.mdens (a : BitVec 5) (d : BitVec 5) : RoundTrip.Statement (.mdens a d) := by
  intro hwf c hc
  obtain rfl := Option.some.inj hc
  have hn : (8192#15 ++ a ++ d ++ 115#7 : BitVec 32).toNat = (((8192) * 2 ^ 5 + a.toNat) * 2 ^ 5 + d.toNat) * 2 ^ 7 + 115 := by
    rw [app_nat, app_nat, app_nat]; rfl
  have hm : (8192#15 ++ a ++ d ++ 115#7) &&& (32767#15 ++ 0#5 ++ 0#5 ++ 127#7) = (8192#15 ++ 0#5 ++ 0#5 ++ 115#7) := by
    rw [and_app, and_app, and_app]; simp only [BitVec.and_zero]; rfl
  have la := a.isLt
  have ld := d.isLt
  generalize (8192#15 ++ a ++ d ++ 115#7 : BitVec 32) = w at *
  replace hm : w &&& 0xFFFE007F#32 = 0x40000073#32 := hm
  show decode (Code.word w).bytes = _
  rw [decode_word w (by omega)]
  have f0 := ext_eq w 1 6 57 (by omega)
  refine decodeWord_ok w _ 57 f0 (by decide) (by decide) ?_ hwf
  unfold decode32; rw [f0]
  show dec39 w = _
  have e0 := ext_op w 12 a (by omega)
  have e1 := ext_op w 7 d (by omega)
  unfold dec39; rw [ext_eq w 27 5 8 (by omega)]
  show row32 w _ _ (.mdens (w.extractLsb' 12 5) (w.extractLsb' 7 5)) = _
  rw [e0, e1]; exact if_pos hm

theorem RoundTrip.mmov (a : BitVec 5) (d : BitVec 5) : RoundTrip.Statement (.mmov a d) := by
  intro hwf c hc
  obtain rfl := Option.some.inj hc
  have hn : (9216#15 ++ a ++ d ++ 115#7 : BitVec 32).toNat = (((9216) * 2 ^ 5 + a.toNat) * 2 ^ 5 + d.toNat) * 2 ^ 7 + 115 := by
    rw [app_nat, app_nat, app_nat]; rfl
  have hm : (9216#15 ++ a ++ d ++ 115#7) &&& (32767#15 ++ 0#5 ++ 0#5 ++ 127#7) = (9216#15 ++ 0#5 ++ 0#5 ++ 115#7) := by
    rw [and_app, and_app, and_app]; simp only [BitVec.and_zero]; rfl
  have la := a.isLt
  have ld := d.isLt
  generalize (9216#15 ++ a ++ d ++ 115#7 : BitVec 32) = w at *
  replace hm : w &&& 0xFFFE007F#32 = 0x48000073#32 := hm
  show decode (Code.word w).bytes = _
  rw [decode_word w (by omega)]
  have f0 := ext_eq w 1 6 57 (by omega)
  refine decodeWord_ok w _ 57 f0 (by decide) (by decide) ?_ hwf
  unfold decode32; rw [f0]
  show dec39 w = _
  have e0 := ext_op w 12 a (by omega)
  have e1 := ext_op w 7 d (by omega)
  unfold dec39; rw [ext_eq w 27 5 9 (by omega)]
  show row32 w _ _ (.mmov (w.extractLsb' 12 5) (w.extractLsb' 7 5)) = _
  rw [e0, e1]; exact if_pos hm

theorem RoundTrip.mtr (a : BitVec 5) (d : BitVec 5) : RoundTrip.Statement (.mtr a d) := by
  intro hwf c hc
  obtain rfl := Option.some.inj hc
  have hn : (10240#15 ++ a ++ d ++ 115#7 : BitVec 32).toNat = (((10240) * 2 ^ 5 + a.toNat) * 2 ^ 5 + d.toNat) * 2 ^ 7 + 115 := by
    rw [app_nat, app_nat, app_nat]; rfl
  have hm : (10240#15 ++ a ++ d ++ 115#7) &&& (32767#15 ++ 0#5 ++ 0#5 ++ 127#7) = (10240#15 ++ 0#5 ++ 0#5 ++ 115#7) := by
    rw [and_app, and_app, and_app]; simp only [BitVec.and_zero]; rfl
  have la := a.isLt
  have ld := d.isLt
  generalize (10240#15 ++ a ++ d ++ 115#7 : BitVec 32) = w at *
  replace hm : w &&& 0xFFFE007F#32 = 0x50000073#32 := hm
  show decode (Code.word w).bytes = _
  rw [decode_word w (by omega)]
  have f0 := ext_eq w 1 6 57 (by omega)
  refine decodeWord_ok w _ 57 f0 (by decide) (by decide) ?_ hwf
  unfold decode32; rw [f0]
  show dec39 w = _
  have e0 := ext_op w 12 a (by omega)
  have e1 := ext_op w 7 d (by omega)
  unfold dec39; rw [ext_eq w 27 5 10 (by omega)]
  show row32 w _ _ (.mtr (w.extractLsb' 12 5) (w.extractLsb' 7 5)) = _
  rw [e0, e1]; exact if_pos hm

theorem RoundTrip.mzero (d : BitVec 5) : RoundTrip.Statement (.mzero d) := by
  intro hwf c hc
  obtain rfl := Option.some.inj hc
  have hn : (360448#20 ++ d ++ 115#7 : BitVec 32).toNat = ((360448) * 2 ^ 5 + d.toNat) * 2 ^ 7 + 115 := by
    rw [app_nat, app_nat]; rfl
  have hm : (360448#20 ++ d ++ 115#7) &&& (1048575#20 ++ 0#5 ++ 127#7) = (360448#20 ++ 0#5 ++ 115#7) := by
    rw [and_app, and_app]; simp only [BitVec.and_zero]; rfl
  have ld := d.isLt
  generalize (360448#20 ++ d ++ 115#7 : BitVec 32) = w at *
  replace hm : w &&& 0xFFFFF07F#32 = 0x58000073#32 := hm
  show decode (Code.word w).bytes = _
  rw [decode_word w (by omega)]
  have f0 := ext_eq w 1 6 57 (by omega)
  refine decodeWord_ok w _ 57 f0 (by decide) (by decide) ?_ hwf
  unfold decode32; rw [f0]
  show dec39 w = _
  have e0 := ext_op w 7 d (by omega)
  unfold dec39; rw [ext_eq w 27 5 11 (by omega)]
  show row32 w _ _ (.mzero (w.extractLsb' 7 5)) = _
  rw [e0]; exact if_pos hm

theorem RoundTrip.xcopy (h : BitVec 2) (b : BitVec 6) (a : BitVec 6) : RoundTrip.Statement (.xcopy h b a) := by
  intro hwf c hc
  obtain rfl := Option.some.inj hc
  have hn : (h ++ 0#11 ++ b ++ a ++ 117#7 : BitVec 32).toNat = ((((h.toNat) * 2 ^ 11 + 0) * 2 ^ 6 + b.toNat) * 2 ^ 6 + a.toNat) * 2 ^ 7 + 117 := by
    rw [app_nat, app_nat, app_nat, app_nat]; rfl
  have hm : (h ++ 0#11 ++ b ++ a ++ 117#7) &&& (0#2 ++ 2047#11 ++ 0#6 ++ 0#6 ++ 127#7) = (0#2 ++ 0#11 ++ 0#6 ++ 0#6 ++ 117#7) := by
    rw [and_app, and_app, and_app, and_app]; simp only [BitVec.and_zero]; rfl
  have lh := h.isLt
  have lb := b.isLt
  have la := a.isLt
  generalize (h ++ 0#11 ++ b ++ a ++ 117#7 : BitVec 32) = w at *
  replace hm : w &&& 0x3FF8007F#32 = 0x00000075#32 := hm
  show decode (Code.word w).bytes = _
  rw [decode_word w (by omega)]
  have f0 := ext_eq w 1 6 58 (by omega)
  refine decodeWord_ok w _ 58 f0 (by decide) (by decide) ?_ hwf
  unfold decode32; rw [f0]
  show dec3A w = _
  have e0 := ext_op w 30 h (by omega)
  have e1 := ext_op w 13 b (by omega)
  have e2 := ext_op w 7 a (by omega)
  unfold dec3A; rw [ext_eq w 25 5 0 (by omega)]
  show row32 w _ _ (.xcopy (w.extractLsb' 30 2) (w.extractLsb' 13 6) (w.extractLsb' 7 6)) = _
  rw [e0, e1, e2]; exact if_pos hm

theorem RoundTrip.xrepack (h : BitVec 2) (b : BitVec 6) (a : BitVec 6) : RoundTrip.Statement (.xrepack h b a) := by
  intro hwf c hc
  obtain rfl := Option.some.inj hc
  have hn : (h ++ 64#11 ++ b ++ a ++ 117#7 : BitVec 32).toNat = ((((h.toNat) * 2 ^ 11 + 64) * 2 ^ 6 + b.toNat) * 2 ^ 6 + a.toNat) * 2 ^ 7 + 117 := by
    rw [app_nat, app_nat, app_nat, app_nat]; rfl
  have hm : (h ++ 64#11 ++ b ++ a ++ 117#7) &&& (0#2 ++ 2047#11 ++ 0#6 ++ 0#6 ++ 127#7) = (0#2 ++ 64#11 ++ 0#6 ++ 0#6 ++ 117#7) := by
    rw [and_app, and_app, and_app, and_app]; simp only [BitVec.and_zero]; rfl
  have lh := h.isLt
  have lb := b.isLt
  have la := a.isLt
  generalize (h ++ 64#11 ++ b ++ a ++ 117#7 : BitVec 32) = w at *
  replace hm : w &&& 0x3FF8007F#32 = 0x02000075#32 := hm
  show decode (Code.word w).bytes = _
  rw [decode_word w (by omega)]
  have f0 := ext_eq w 1 6 58 (by omega)
  refine decodeWord_ok w _ 58 f0 (by decide) (by decide) ?_ hwf
  unfold decode32; rw [f0]
  show dec3A w = _
  have e0 := ext_op w 30 h (by omega)
  have e1 := ext_op w 13 b (by omega)
  have e2 := ext_op w 7 a (by omega)
  unfold dec3A; rw [ext_eq w 25 5 1 (by omega)]
  show row32 w _ _ (.xrepack (w.extractLsb' 30 2) (w.extractLsb' 13 6) (w.extractLsb' 7 6)) = _
  rw [e0, e1, e2]; exact if_pos hm

theorem RoundTrip.xtr (h : BitVec 2) (b : BitVec 6) (a : BitVec 6) : RoundTrip.Statement (.xtr h b a) := by
  intro hwf c hc
  obtain rfl := Option.some.inj hc
  have hn : (h ++ 128#11 ++ b ++ a ++ 117#7 : BitVec 32).toNat = ((((h.toNat) * 2 ^ 11 + 128) * 2 ^ 6 + b.toNat) * 2 ^ 6 + a.toNat) * 2 ^ 7 + 117 := by
    rw [app_nat, app_nat, app_nat, app_nat]; rfl
  have hm : (h ++ 128#11 ++ b ++ a ++ 117#7) &&& (0#2 ++ 2047#11 ++ 0#6 ++ 0#6 ++ 127#7) = (0#2 ++ 128#11 ++ 0#6 ++ 0#6 ++ 117#7) := by
    rw [and_app, and_app, and_app, and_app]; simp only [BitVec.and_zero]; rfl
  have lh := h.isLt
  have lb := b.isLt
  have la := a.isLt
  generalize (h ++ 128#11 ++ b ++ a ++ 117#7 : BitVec 32) = w at *
  replace hm : w &&& 0x3FF8007F#32 = 0x04000075#32 := hm
  show decode (Code.word w).bytes = _
  rw [decode_word w (by omega)]
  have f0 := ext_eq w 1 6 58 (by omega)
  refine decodeWord_ok w _ 58 f0 (by decide) (by decide) ?_ hwf
  unfold decode32; rw [f0]
  show dec3A w = _
  have e0 := ext_op w 30 h (by omega)
  have e1 := ext_op w 13 b (by omega)
  have e2 := ext_op w 7 a (by omega)
  unfold dec3A; rw [ext_eq w 25 5 2 (by omega)]
  show row32 w _ _ (.xtr (w.extractLsb' 30 2) (w.extractLsb' 13 6) (w.extractLsb' 7 6)) = _
  rw [e0, e1, e2]; exact if_pos hm

theorem RoundTrip.xcvt (h : BitVec 2) (b : BitVec 6) (a : BitVec 6) : RoundTrip.Statement (.xcvt h b a) := by
  intro hwf c hc
  obtain rfl := Option.some.inj hc
  have hn : (h ++ 192#11 ++ b ++ a ++ 117#7 : BitVec 32).toNat = ((((h.toNat) * 2 ^ 11 + 192) * 2 ^ 6 + b.toNat) * 2 ^ 6 + a.toNat) * 2 ^ 7 + 117 := by
    rw [app_nat, app_nat, app_nat, app_nat]; rfl
  have hm : (h ++ 192#11 ++ b ++ a ++ 117#7) &&& (0#2 ++ 2047#11 ++ 0#6 ++ 0#6 ++ 127#7) = (0#2 ++ 192#11 ++ 0#6 ++ 0#6 ++ 117#7) := by
    rw [and_app, and_app, and_app, and_app]; simp only [BitVec.and_zero]; rfl
  have lh := h.isLt
  have lb := b.isLt
  have la := a.isLt
  generalize (h ++ 192#11 ++ b ++ a ++ 117#7 : BitVec 32) = w at *
  replace hm : w &&& 0x3FF8007F#32 = 0x06000075#32 := hm
  show decode (Code.word w).bytes = _
  rw [decode_word w (by omega)]
  have f0 := ext_eq w 1 6 58 (by omega)
  refine decodeWord_ok w _ 58 f0 (by decide) (by decide) ?_ hwf
  unfold decode32; rw [f0]
  show dec3A w = _
  have e0 := ext_op w 30 h (by omega)
  have e1 := ext_op w 13 b (by omega)
  have e2 := ext_op w 7 a (by omega)
  unfold dec3A; rw [ext_eq w 25 5 3 (by omega)]
  show row32 w _ _ (.xcvt (w.extractLsb' 30 2) (w.extractLsb' 13 6) (w.extractLsb' 7 6)) = _
  rw [e0, e1, e2]; exact if_pos hm

theorem RoundTrip.xexp (h : BitVec 2) (b : BitVec 6) (a : BitVec 6) : RoundTrip.Statement (.xexp h b a) := by
  intro hwf c hc
  obtain rfl := Option.some.inj hc
  have hn : (h ++ 256#11 ++ b ++ a ++ 117#7 : BitVec 32).toNat = ((((h.toNat) * 2 ^ 11 + 256) * 2 ^ 6 + b.toNat) * 2 ^ 6 + a.toNat) * 2 ^ 7 + 117 := by
    rw [app_nat, app_nat, app_nat, app_nat]; rfl
  have hm : (h ++ 256#11 ++ b ++ a ++ 117#7) &&& (0#2 ++ 2047#11 ++ 0#6 ++ 0#6 ++ 127#7) = (0#2 ++ 256#11 ++ 0#6 ++ 0#6 ++ 117#7) := by
    rw [and_app, and_app, and_app, and_app]; simp only [BitVec.and_zero]; rfl
  have lh := h.isLt
  have lb := b.isLt
  have la := a.isLt
  generalize (h ++ 256#11 ++ b ++ a ++ 117#7 : BitVec 32) = w at *
  replace hm : w &&& 0x3FF8007F#32 = 0x08000075#32 := hm
  show decode (Code.word w).bytes = _
  rw [decode_word w (by omega)]
  have f0 := ext_eq w 1 6 58 (by omega)
  refine decodeWord_ok w _ 58 f0 (by decide) (by decide) ?_ hwf
  unfold decode32; rw [f0]
  show dec3A w = _
  have e0 := ext_op w 30 h (by omega)
  have e1 := ext_op w 13 b (by omega)
  have e2 := ext_op w 7 a (by omega)
  unfold dec3A; rw [ext_eq w 25 5 4 (by omega)]
  show row32 w _ _ (.xexp (w.extractLsb' 30 2) (w.extractLsb' 13 6) (w.extractLsb' 7 6)) = _
  rw [e0, e1, e2]; exact if_pos hm

theorem RoundTrip.xmcast (h : BitVec 2) (e : BitVec 6) (b : BitVec 6) (a : BitVec 6) : RoundTrip.Statement (.xmcast h e b a) := by
  intro hwf c hc
  obtain rfl := Option.some.inj hc
  have hn : (h ++ 5#5 ++ e ++ b ++ a ++ 117#7 : BitVec 32).toNat = (((((h.toNat) * 2 ^ 5 + 5) * 2 ^ 6 + e.toNat) * 2 ^ 6 + b.toNat) * 2 ^ 6 + a.toNat) * 2 ^ 7 + 117 := by
    rw [app_nat, app_nat, app_nat, app_nat, app_nat]; rfl
  have hm : (h ++ 5#5 ++ e ++ b ++ a ++ 117#7) &&& (0#2 ++ 31#5 ++ 0#6 ++ 0#6 ++ 0#6 ++ 127#7) = (0#2 ++ 5#5 ++ 0#6 ++ 0#6 ++ 0#6 ++ 117#7) := by
    rw [and_app, and_app, and_app, and_app, and_app]; simp only [BitVec.and_zero]; rfl
  have lh := h.isLt
  have le := e.isLt
  have lb := b.isLt
  have la := a.isLt
  generalize (h ++ 5#5 ++ e ++ b ++ a ++ 117#7 : BitVec 32) = w at *
  replace hm : w &&& 0x3E00007F#32 = 0x0A000075#32 := hm
  show decode (Code.word w).bytes = _
  rw [decode_word w (by omega)]
  have f0 := ext_eq w 1 6 58 (by omega)
  refine decodeWord_ok w _ 58 f0 (by decide) (by decide) ?_ hwf
  unfold decode32; rw [f0]
  show dec3A w = _
  have e0 := ext_op w 30 h (by omega)
  have e1 := ext_op w 19 e (by omega)
  have e2 := ext_op w 13 b (by omega)
  have e3 := ext_op w 7 a (by omega)
  unfold dec3A; rw [ext_eq w 25 5 5 (by omega)]
  show row32 w _ _ (.xmcast (w.extractLsb' 30 2) (w.extractLsb' 19 6) (w.extractLsb' 13 6) (w.extractLsb' 7 6)) = _
  rw [e0, e1, e2, e3]; exact if_pos hm

theorem RoundTrip.exit : RoundTrip.Statement .exit := by
  intro hwf c hc
  obtain rfl := Option.some.inj hc
  decide

theorem RoundTrip.emit (a : BitVec 6) : RoundTrip.Statement (.emit a) := by
  intro hwf c hc
  obtain rfl := Option.some.inj hc
  have hn : (64#13 ++ a ++ 119#13 : BitVec 32).toNat = ((64) * 2 ^ 6 + a.toNat) * 2 ^ 13 + 119 := by
    rw [app_nat, app_nat]; rfl
  have hm : (64#13 ++ a ++ 119#13) &&& (8191#13 ++ 0#6 ++ 8191#13) = (64#13 ++ 0#6 ++ 119#13) := by
    rw [and_app, and_app]; simp only [BitVec.and_zero]; rfl
  have la := a.isLt
  generalize (64#13 ++ a ++ 119#13 : BitVec 32) = w at *
  replace hm : w &&& 0xFFF81FFF#32 = 0x02000077#32 := hm
  show decode (Code.word w).bytes = _
  rw [decode_word w (by omega)]
  have f0 := ext_eq w 1 6 59 (by omega)
  refine decodeWord_ok w _ 59 f0 (by decide) (by decide) ?_ hwf
  unfold decode32; rw [f0]
  show dec3B w = _
  have e0 := ext_op w 13 a (by omega)
  unfold dec3B; rw [ext_eq w 25 7 1 (by omega)]
  show row32 w _ _ (.emit (w.extractLsb' 13 6)) = _
  rw [e0]; exact if_pos hm

theorem RoundTrip.idem : RoundTrip.Statement .idem := by
  intro hwf c hc
  obtain rfl := Option.some.inj hc
  decide

theorem RoundTrip.nopre (a : BitVec 6) : RoundTrip.Statement (.nopre a) := by
  intro hwf c hc
  obtain rfl := Option.some.inj hc
  have hn : (192#13 ++ a ++ 119#13 : BitVec 32).toNat = ((192) * 2 ^ 6 + a.toNat) * 2 ^ 13 + 119 := by
    rw [app_nat, app_nat]; rfl
  have hm : (192#13 ++ a ++ 119#13) &&& (8191#13 ++ 0#6 ++ 8191#13) = (192#13 ++ 0#6 ++ 119#13) := by
    rw [and_app, and_app]; simp only [BitVec.and_zero]; rfl
  have la := a.isLt
  generalize (192#13 ++ a ++ 119#13 : BitVec 32) = w at *
  replace hm : w &&& 0xFFF81FFF#32 = 0x06000077#32 := hm
  show decode (Code.word w).bytes = _
  rw [decode_word w (by omega)]
  have f0 := ext_eq w 1 6 59 (by omega)
  refine decodeWord_ok w _ 59 f0 (by decide) (by decide) ?_ hwf
  unfold decode32; rw [f0]
  show dec3B w = _
  have e0 := ext_op w 13 a (by omega)
  unfold dec3B; rw [ext_eq w 25 7 3 (by omega)]
  show row32 w _ _ (.nopre (w.extractLsb' 13 6)) = _
  rw [e0]; exact if_pos hm

theorem RoundTrip.rng (b : BitVec 6) (a : BitVec 6) (d : BitVec 6) : RoundTrip.Statement (.rng b a d) := by
  intro hwf c hc
  obtain rfl := Option.some.inj hc
  have hn : (4#7 ++ b ++ a ++ d ++ 119#7 : BitVec 32).toNat = ((((4) * 2 ^ 6 + b.toNat) * 2 ^ 6 + a.toNat) * 2 ^ 6 + d.toNat) * 2 ^ 7 + 119 := by
    rw [app_nat, app_nat, app_nat, app_nat]; rfl
  have hm : (4#7 ++ b ++ a ++ d ++ 119#7) &&& (127#7 ++ 0#6 ++ 0#6 ++ 0#6 ++ 127#7) = (4#7 ++ 0#6 ++ 0#6 ++ 0#6 ++ 119#7) := by
    rw [and_app, and_app, and_app, and_app]; simp only [BitVec.and_zero]; rfl
  have lb := b.isLt
  have la := a.isLt
  have ld := d.isLt
  generalize (4#7 ++ b ++ a ++ d ++ 119#7 : BitVec 32) = w at *
  replace hm : w &&& 0xFE00007F#32 = 0x08000077#32 := hm
  show decode (Code.word w).bytes = _
  rw [decode_word w (by omega)]
  have f0 := ext_eq w 1 6 59 (by omega)
  refine decodeWord_ok w _ 59 f0 (by decide) (by decide) ?_ hwf
  unfold decode32; rw [f0]
  show dec3B w = _
  have e0 := ext_op w 19 b (by omega)
  have e1 := ext_op w 13 a (by omega)
  have e2 := ext_op w 7 d (by omega)
  unfold dec3B; rw [ext_eq w 25 7 4 (by omega)]
  show row32 w _ _ (.rng (w.extractLsb' 19 6) (w.extractLsb' 13 6) (w.extractLsb' 7 6)) = _
  rw [e0, e1, e2]; exact if_pos hm

theorem RoundTrip.caddN128 (b : BitVec 6) (a : BitVec 6) (d : BitVec 6) : RoundTrip.Statement (.caddN128 b a d) := by
  intro hwf c hc
  obtain rfl := Option.some.inj hc
  have hn : (5#7 ++ b ++ a ++ d ++ 119#7 : BitVec 32).toNat = ((((5) * 2 ^ 6 + b.toNat) * 2 ^ 6 + a.toNat) * 2 ^ 6 + d.toNat) * 2 ^ 7 + 119 := by
    rw [app_nat, app_nat, app_nat, app_nat]; rfl
  have hm : (5#7 ++ b ++ a ++ d ++ 119#7) &&& (127#7 ++ 0#6 ++ 0#6 ++ 0#6 ++ 127#7) = (5#7 ++ 0#6 ++ 0#6 ++ 0#6 ++ 119#7) := by
    rw [and_app, and_app, and_app, and_app]; simp only [BitVec.and_zero]; rfl
  have lb := b.isLt
  have la := a.isLt
  have ld := d.isLt
  generalize (5#7 ++ b ++ a ++ d ++ 119#7 : BitVec 32) = w at *
  replace hm : w &&& 0xFE00007F#32 = 0x0A000077#32 := hm
  show decode (Code.word w).bytes = _
  rw [decode_word w (by omega)]
  have f0 := ext_eq w 1 6 59 (by omega)
  refine decodeWord_ok w _ 59 f0 (by decide) (by decide) ?_ hwf
  unfold decode32; rw [f0]
  show dec3B w = _
  have e0 := ext_op w 19 b (by omega)
  have e1 := ext_op w 13 a (by omega)
  have e2 := ext_op w 7 d (by omega)
  unfold dec3B; rw [ext_eq w 25 7 5 (by omega)]
  show row32 w _ _ (.caddN128 (w.extractLsb' 19 6) (w.extractLsb' 13 6) (w.extractLsb' 7 6)) = _
  rw [e0, e1, e2]; exact if_pos hm

theorem RoundTrip.bkpt (i : BitVec 6) : RoundTrip.Statement (.bkpt i) := by
  intro hwf c hc
  obtain rfl := Option.some.inj hc
  have hn : (8#7 ++ i ++ 119#19 : BitVec 32).toNat = ((8) * 2 ^ 6 + i.toNat) * 2 ^ 19 + 119 := by
    rw [app_nat, app_nat]; rfl
  have hm : (8#7 ++ i ++ 119#19) &&& (127#7 ++ 0#6 ++ 524287#19) = (8#7 ++ 0#6 ++ 119#19) := by
    rw [and_app, and_app]; simp only [BitVec.and_zero]; rfl
  have li := i.isLt
  generalize (8#7 ++ i ++ 119#19 : BitVec 32) = w at *
  replace hm : w &&& 0xFE07FFFF#32 = 0x10000077#32 := hm
  show decode (Code.word w).bytes = _
  rw [decode_word w (by omega)]
  have f0 := ext_eq w 1 6 59 (by omega)
  refine decodeWord_ok w _ 59 f0 (by decide) (by decide) ?_ hwf
  unfold decode32; rw [f0]
  show dec3B w = _
  have e0 := ext_op w 19 i (by omega)
  unfold dec3B; rw [ext_eq w 25 7 8 (by omega)]
  show row32 w _ _ (.bkpt (w.extractLsb' 19 6)) = _
  rw [e0]; exact if_pos hm

theorem RoundTrip.tret : RoundTrip.Statement .tret := by
  intro hwf c hc
  obtain rfl := Option.some.inj hc
  decide

theorem RoundTrip.tstamp (d : BitVec 6) : RoundTrip.Statement (.tstamp d) := by
  intro hwf c hc
  obtain rfl := Option.some.inj hc
  have hn : (40960#19 ++ d ++ 119#7 : BitVec 32).toNat = ((40960) * 2 ^ 6 + d.toNat) * 2 ^ 7 + 119 := by
    rw [app_nat, app_nat]; rfl
  have hm : (40960#19 ++ d ++ 119#7) &&& (524287#19 ++ 0#6 ++ 127#7) = (40960#19 ++ 0#6 ++ 119#7) := by
    rw [and_app, and_app]; simp only [BitVec.and_zero]; rfl
  have ld := d.isLt
  generalize (40960#19 ++ d ++ 119#7 : BitVec 32) = w at *
  replace hm : w &&& 0xFFFFE07F#32 = 0x14000077#32 := hm
  show decode (Code.word w).bytes = _
  rw [decode_word w (by omega)]
  have f0 := ext_eq w 1 6 59 (by omega)
  refine decodeWord_ok w _ 59 f0 (by decide) (by decide) ?_ hwf
  unfold decode32; rw [f0]
  show dec3B w = _
  have e0 := ext_op w 7 d (by omega)
  unfold dec3B; rw [ext_eq w 25 7 10 (by omega)]
  show row32 w _ _ (.tstamp (w.extractLsb' 7 6)) = _
  rw [e0]; exact if_pos hm

theorem RoundTrip.coreid (d : BitVec 6) : RoundTrip.Statement (.coreid d) := by
  intro hwf c hc
  obtain rfl := Option.some.inj hc
  have hn : (45056#19 ++ d ++ 119#7 : BitVec 32).toNat = ((45056) * 2 ^ 6 + d.toNat) * 2 ^ 7 + 119 := by
    rw [app_nat, app_nat]; rfl
  have hm : (45056#19 ++ d ++ 119#7) &&& (524287#19 ++ 0#6 ++ 127#7) = (45056#19 ++ 0#6 ++ 119#7) := by
    rw [and_app, and_app]; simp only [BitVec.and_zero]; rfl
  have ld := d.isLt
  generalize (45056#19 ++ d ++ 119#7 : BitVec 32) = w at *
  replace hm : w &&& 0xFFFFE07F#32 = 0x16000077#32 := hm
  show decode (Code.word w).bytes = _
  rw [decode_word w (by omega)]
  have f0 := ext_eq w 1 6 59 (by omega)
  refine decodeWord_ok w _ 59 f0 (by decide) (by decide) ?_ hwf
  unfold decode32; rw [f0]
  show dec3B w = _
  have e0 := ext_op w 7 d (by omega)
  unfold dec3B; rw [ext_eq w 25 7 11 (by omega)]
  show row32 w _ _ (.coreid (w.extractLsb' 7 6)) = _
  rw [e0]; exact if_pos hm

theorem RoundTrip.czcmdComplete : RoundTrip.Statement .czcmdComplete := fun _ _ h => nomatch h

theorem RoundTrip.replayRefused : RoundTrip.Statement .replayRefused := fun _ _ h => nomatch h

theorem RoundTrip.commandCrcFailure : RoundTrip.Statement .commandCrcFailure := fun _ _ h => nomatch h

theorem RoundTrip.sendPermitReturn : RoundTrip.Statement .sendPermitReturn := fun _ _ h => nomatch h

theorem RoundTrip.peerAccess : RoundTrip.Statement .peerAccess := fun _ _ h => nomatch h

theorem RoundTrip.controlCoreAccess : RoundTrip.Statement .controlCoreAccess := fun _ _ h => nomatch h

theorem RoundTrip.queueOwnerAssign : RoundTrip.Statement .queueOwnerAssign := fun _ _ h => nomatch h

end Sys2Proof.Laws
end

