-- ==== Sys2Proof/Tests/Slice0.lean ====
section
/-! SUPPORT. Tests: ill-formed terms that WellFormed refuses, words written from the spec's encoding tables, single steps
whose results were worked by hand from the rules, and for each obligation with hypotheses a state that meets them. -/

namespace Sys2Proof.Tests

set_option Elab.async false

open Sys2Proof Sys2Proof.Machine

/-! ### Words and the instructions that they stand for (R206 to R211 and the tables of chapters 10 to 15) -/

theorem test_decode_short : ([
    (0xD580, .movB32H 0x1A 0x2C), (0xD582, .iaddN32H 0x1A 0x2C), (0xD584, .isubN32H 0x1A 0x2C),
    (0xD586, .imulN32H 0x1A 0x2C), (0xD588, .andB32H 0x1A 0x2C), (0xD58A, .orB32H 0x1A 0x2C),
    (0xD58C, .xorB32H 0x1A 0x2C), (0xD58E, .shlB32H 0x1A 0x2C), (0xD590, .shrN32H 0x1A 0x2C),
    (0xD592, .shrI32H 0x1A 0x2C), (0xD594, .faddF32H 0x1A 0x2C), (0xD596, .fsubF32H 0x1A 0x2C),
    (0xD598, .fmulF32H 0x1A 0x2C), (0xD59A, .fminF32H 0x1A 0x2C), (0xD59C, .fmaxF32H 0x1A 0x2C),
    (0xD59E, .iminI32H 0x1A 0x2C)] : List (Nat × Instr)).all (fun x => decodeTableWord 16 x.1 == some x.2) = true := by decide

theorem test_decode_major_01 : ([
    (0x06A4E503, .iaddN32 0x35 0x13 0x4A), (0x14533383, .isubN32 0x22 0x4C 0x67), (0x2B2C4703, .imulN32 0x59 0x31 0xE),
    (0x36A4E503, .imulhiI32 0x35 0x13 0x4A), (0x44533383, .imulhiN32 0x22 0x4C 0x67),
    (0x5B2C4703, .iminI32 0x59 0x31 0xE), (0x66A4E503, .iminN32 0x35 0x13 0x4A), (0x74533383, .imaxI32 0x22 0x4C 0x67),
    (0x8B2C4703, .imaxN32 0x59 0x31 0xE), (0x9004E503, .iabsI32 0x13 0x4A), (0xA4533383, .idivI32 0x22 0x4C 0x67),
    (0xBB2C4703, .idivN32 0x59 0x31 0xE), (0xC6A4E503, .iremI32 0x35 0x13 0x4A), (0xD4533383, .iremN32 0x22 0x4C 0x67),
    (0xEB2C4703, .iaddsatI32 0x59 0x31 0xE), (0xF6A4E503, .isubsatI32 0x35 0x13 0x4A)] : List (Nat × Instr)).all (fun x => decodeTableWord 32 x.1 == some x.2) = true := by decide

theorem test_decode_major_02 : ([
    (0x06A4E505, .andB32 0x35 0x13 0x4A), (0x14533385, .orB32 0x22 0x4C 0x67), (0x2B2C4705, .xorB32 0x59 0x31 0xE),
    (0x36A4E505, .andnB32 0x35 0x13 0x4A), (0x44533385, .shlB32 0x22 0x4C 0x67), (0x5B2C4705, .shrN32 0x59 0x31 0xE),
    (0x66A4E505, .shrI32 0x35 0x13 0x4A), (0x74533385, .rotlB32 0x22 0x4C 0x67), (0x800C4705, .popcB32 0x31 0xE),
    (0x9004E505, .clzB32 0x13 0x4A), (0xA0133385, .brevB32 0x4C 0x67), (0xB00C4705, .notB32 0x31 0xE)] : List (Nat × Instr)).all (fun x => decodeTableWord 32 x.1 == some x.2) = true := by decide

theorem test_decode_major_03 : ([
    (0xB464E507, .iaddiN32 0x5A3 0x13 0x4A)] : List (Nat × Instr)).all (fun x => decodeTableWord 32 x.1 == some x.2) = true := by decide

theorem test_decode_major_04 : ([
    (0xB464E509, .andiB32 0x5A3 0x13 0x4A)] : List (Nat × Instr)).all (fun x => decodeTableWord 32 x.1 == some x.2) = true := by decide

theorem test_decode_major_05 : ([
    (0xB464E50B, .oriB32 0x5A3 0x13 0x4A)] : List (Nat × Instr)).all (fun x => decodeTableWord 32 x.1 == some x.2) = true := by decide

theorem test_decode_major_06 : ([
    (0xB464E50D, .xoriB32 0x5A3 0x13 0x4A)] : List (Nat × Instr)).all (fun x => decodeTableWord 32 x.1 == some x.2) = true := by decide

theorem test_decode_major_07 : ([
    (0x03A4E50F, .shliB32 0x1D 0x13 0x4A), (0x07B3338F, .shriN32 0x1D 0x4C 0x67), (0x0BAC470F, .shriI32 0x1D 0x31 0xE),
    (0x0FA4E50F, .rotiB32 0x1D 0x13 0x4A)] : List (Nat × Instr)).all (fun x => decodeTableWord 32 x.1 == some x.2) = true := by decide

theorem test_decode_major_08 : ([
    (0x16A4E511, .faddF32 1 0x35 0x13 0x4A), (0x74533391, .fsubF32 3 0x22 0x4C 0x67),
    (0xAB2C4711, .fmulF32 2 0x59 0x31 0xE), (0xD6A4E511, .fdivF32 1 0x35 0x13 0x4A)] : List (Nat × Instr)).all (fun x => decodeTableWord 32 x.1 == some x.2) = true := by decide

theorem test_decode_major_09 : ([
    (0x06A4E513, .fminF32 0x35 0x13 0x4A), (0x14533393, .fmaxF32 0x22 0x4C 0x67), (0x600C4713, .fsqrtF32 2 0x31 0xE),
    (0x8004E513, .fnegF32 0x13 0x4A), (0x90133393, .fabsF32 0x4C 0x67), (0xAB2C4713, .fcsgnF32 0x59 0x31 0xE)] : List (Nat × Instr)).all (fun x => decodeTableWord 32 x.1 == some x.2) = true := by decide

theorem test_decode_major_0A : ([
    (0x16A4E515, .fadd2F16 1 0x35 0x13 0x4A), (0x74533395, .fmul2F16 3 0x22 0x4C 0x67),
    (0xAB2C4715, .fadd2Bf16 2 0x59 0x31 0xE), (0xD6A4E515, .fmul2Bf16 1 0x35 0x13 0x4A)] : List (Nat × Instr)).all (fun x => decodeTableWord 32 x.1 == some x.2) = true := by decide

theorem test_decode_major_10 : ([
    (0xB244E523, .ffmaF32 0x16 0x12 0x13 0x4A 1)] : List (Nat × Instr)).all (fun x => decodeTableWord 32 x.1 == some x.2) = true := by decide

theorem test_decode_major_14 : ([
    (0xB244E529, .imadN32 0x16 0x12 0x13 0x4A)] : List (Nat × Instr)).all (fun x => decodeTableWord 32 x.1 == some x.2) = true := by decide

theorem test_decode_major_0B : ([
    (0x06A4C197, .fceqF32 0x35 0x13 3), (0x14530197, .fcneF32 0x22 0x4C 3), (0x2B2C4197, .fcltF32 0x59 0x31 3),
    (0x36A4C197, .fcleF32 0x35 0x13 3), (0x44530197, .fcgtF32 0x22 0x4C 3), (0x5B2C4197, .fcgeF32 0x59 0x31 3),
    (0x66A4C197, .fcunF32 0x35 0x13 3), (0x74530197, .fcordF32 0x22 0x4C 3)] : List (Nat × Instr)).all (fun x => decodeTableWord 32 x.1 == some x.2) = true := by decide

theorem test_decode_major_0C : ([
    (0x06A4C199, .iceqB32 0x35 0x13 3), (0x14530199, .icneB32 0x22 0x4C 3), (0x2B2C4199, .icltI32 0x59 0x31 3),
    (0x36A4C199, .icleI32 0x35 0x13 3), (0x44530199, .icgtI32 0x22 0x4C 3), (0x5B2C4199, .icgeI32 0x59 0x31 3),
    (0x66A4C199, .icltN32 0x35 0x13 3), (0x74530199, .icleN32 0x22 0x4C 3), (0x8B2C4199, .icgtN32 0x59 0x31 3),
    (0x96A4C199, .icgeN32 0x35 0x13 3), (0xA4530199, .ictstB32 0x22 0x4C 3)] : List (Nat × Instr)).all (fun x => decodeTableWord 32 x.1 == some x.2) = true := by decide

theorem test_decode_major_0D : ([
    (0x56A4E51B, .selB32 5 0x35 0x13 0x4A), (0x80C1419B, .pand 6 5 3), (0x90C1419B, .por 6 5 3),
    (0xA0C1419B, .pxor 6 5 3), (0xB0C1419B, .pandn 6 5 3), (0xC001419B, .pmov 5 3), (0xD001419B, .pnot 5 3),
    (0xE013019B, .vtop 0x4C 3), (0xF001471B, .ptov 5 0xE)] : List (Nat × Instr)).all (fun x => decodeTableWord 32 x.1 == some x.2) = true := by decide

theorem test_decode_major_0E : ([
    (0x9444E51D, .cvt 9 4 2 0x13 0x4A)] : List (Nat × Instr)).all (fun x => decodeTableWord 32 x.1 == some x.2) = true := by decide

theorem test_decode_major_0F : ([
    (0x06A4E51F, .pack2B16 0x35 0x13 0x4A), (0x1453339F, .pack2B8 0x22 0x4C 0x67), (0x2B2C471F, .pack2hB8 0x59 0x31 0xE),
    (0x36A4E51F, .extN16 0x35 0x13 0x4A), (0x4453339F, .extI16 0x22 0x4C 0x67), (0x5B2C471F, .extN8 0x59 0x31 0xE),
    (0x66A4E51F, .extI8 0x35 0x13 0x4A), (0x7453339F, .bfxN32 0x22 0x4C 0x67), (0x8B2C471F, .bfxI32 0x59 0x31 0xE),
    (0x96A4E51F, .bfiB32 0x35 0x13 0x4A)] : List (Nat × Instr)).all (fun x => decodeTableWord 32 x.1 == some x.2) = true := by decide

theorem test_decode_major_15 : ([
    (0x06A4E52B, .movB32 0x35 0x13 0x4A), (0x145333AB, .shflB32 0x22 0x4C 0x67), (0x2B2C472B, .bcastB32 0x59 0x31 0xE),
    (0x3001652B, .ballotB32 5 0x4A), (0x400141AB, .vall 5 3), (0x500141AB, .vany 5 3), (0x6000252B, .laneid 0x4A),
    (0x700033AB, .tid 0x67), (0x801EC5AB, .qset 0xB 0xB), (0x9002A52B, .qget 0xA 0x4A)] : List (Nat × Instr)).all (fun x => decodeTableWord 32 x.1 == some x.2) = true := by decide

theorem test_decode_major_16 : ([
    (0x06A4E52D, .iaddN64 0x35 0x13 0x4A), (0x145333AD, .isubN64 0x22 0x4C 0x67), (0x2B2C472D, .imulN64 0x59 0x31 0xE),
    (0x36A4E52D, .shlB64 0x35 0x13 0x4A), (0x445333AD, .shrN64 0x22 0x4C 0x67), (0x5B2C472D, .shrI64 0x59 0x31 0xE),
    (0x66A4E52D, .iminI64 0x35 0x13 0x4A), (0x745333AD, .imaxI64 0x22 0x4C 0x67), (0x8B2C472D, .iminN64 0x59 0x31 0xE),
    (0x96A4E52D, .imaxN64 0x35 0x13 0x4A), (0xA45333AD, .imulwN32 0x22 0x4C 0x67), (0xBB2C472D, .imulwI32 0x59 0x31 0xE)] : List (Nat × Instr)).all (fun x => decodeTableWord 32 x.1 == some x.2) = true := by decide

theorem test_decode_major_18 : ([
    (0x0094B631, .uaddN32 0x12 0x25 0x2C), (0x0294B631, .usubN32 0x12 0x25 0x2C), (0x0494B631, .umulN32 0x12 0x25 0x2C),
    (0x0694B631, .uminI32 0x12 0x25 0x2C), (0x0894B631, .umaxI32 0x12 0x25 0x2C), (0x0A94B631, .uminN32 0x12 0x25 0x2C),
    (0x0C94B631, .umaxN32 0x12 0x25 0x2C), (0x0E94B631, .uandB32 0x12 0x25 0x2C), (0x1094B631, .uorB32 0x12 0x25 0x2C),
    (0x1294B631, .uxorB32 0x12 0x25 0x2C), (0x1494B631, .ushlB32 0x12 0x25 0x2C), (0x1694B631, .ushrN32 0x12 0x25 0x2C),
    (0x1894B631, .ushrI32 0x12 0x25 0x2C), (0x1A94B631, .udivN32 0x12 0x25 0x2C), (0x1C94B631, .uremN32 0x12 0x25 0x2C),
    (0x1E901631, .umov 0x12 0x2C), (0x2094B631, .useqB32 0x12 0x25 0x2C), (0x2294B631, .usltI32 0x12 0x25 0x2C),
    (0x2494B631, .usltN32 0x12 0x25 0x2C), (0x2694B631, .udivI32 0x12 0x25 0x2C), (0x2894B631, .uremI32 0x12 0x25 0x2C)] : List (Nat × Instr)).all (fun x => decodeTableWord 32 x.1 == some x.2) = true := by decide

theorem test_decode_major_19 : ([
    (0xE32CB633, .uaddi 0x1C65 0x25 0x2C)] : List (Nat × Instr)).all (fun x => decodeTableWord 32 x.1 == some x.2) = true := by decide

theorem test_decode_major_1A : ([
    (0xE3281635, .umovi 0x1C65 0x2C)] : List (Nat × Instr)).all (fun x => decodeTableWord 32 x.1 == some x.2) = true := by decide

theorem test_decode_major_1B : ([
    (0x03101537, .cmovRead 0x31 0x2A), (0x01003537, .cmovWrite 0x10 0x2A)] : List (Nat × Instr)).all (fun x => decodeTableWord 32 x.1 == some x.2) = true := by decide

theorem test_decode_major_1C : ([
    (0x9A3C7039, .br 0x9A3C7), (0x9A3C7D39, .brCond 0x9A3C7 1 2)] : List (Nat × Instr)).all (fun x => decodeTableWord 32 x.1 == some x.2) = true := by decide

theorem test_decode_major_1D : ([
    (0x9A3C703B, .call 0x9A3C7), (0x9A3C7D3B, .callCond 0x9A3C7 1 2)] : List (Nat × Instr)).all (fun x => decodeTableWord 32 x.1 == some x.2) = true := by decide

theorem test_decode_major_1E : ([
    (0x0004A03D, .jmp 0x25), (0x0204A03D, .calli 0x25), (0x0400003D, .ret)] : List (Nat × Instr)).all (fun x => decodeTableWord 32 x.1 == some x.2) = true := by decide

theorem test_decode_major_1F : ([
    (0xACF1653F, .ldlB32 0x2B3C5 0x4A)] : List (Nat × Instr)).all (fun x => decodeTableWord 32 x.1 == some x.2) = true := by decide

theorem test_decode_major_20 : ([
    (0xACF16541, .ldlB64 0x2B3C5 0x4A)] : List (Nat × Instr)).all (fun x => decodeTableWord 32 x.1 == some x.2) = true := by decide

theorem test_decode_major_21 : ([
    (0x9C44E543, .ldB32 0x9C 2 0x13 0x4A)] : List (Nat × Instr)).all (fun x => decodeTableWord 32 x.1 == some x.2) = true := by decide

theorem test_decode_major_22 : ([
    (0x9C44E545, .ldB64 0x9C 2 0x13 0x4A)] : List (Nat × Instr)).all (fun x => decodeTableWord 32 x.1 == some x.2) = true := by decide

theorem test_decode_major_23 : ([
    (0x9C44E547, .ldB128 0x9C 2 0x13 0x4A)] : List (Nat × Instr)).all (fun x => decodeTableWord 32 x.1 == some x.2) = true := by decide

theorem test_decode_major_24 : ([
    (0x9CC4E549, .stB32 0x9C 1 2 0x13 0x4A)] : List (Nat × Instr)).all (fun x => decodeTableWord 32 x.1 == some x.2) = true := by decide

theorem test_decode_major_25 : ([
    (0x9CC4E54B, .stB64 0x9C 1 2 0x13 0x4A)] : List (Nat × Instr)).all (fun x => decodeTableWord 32 x.1 == some x.2) = true := by decide

theorem test_decode_major_26 : ([
    (0x9CC4E54D, .stB128 0x9C 1 2 0x13 0x4A)] : List (Nat × Instr)).all (fun x => decodeTableWord 32 x.1 == some x.2) = true := by decide

theorem test_decode_major_27 : ([
    (0x5584E54F, .ldB32Ord 5 2 3 0x13 0x4A), (0x853333CF, .ldB64Ord 8 2 2 0x4C 0x67),
    (0x16CC474F, .stB32Ord 1 3 1 0x31 0xE), (0x47E4E54F, .stB64Ord 4 3 3 0x13 0x4A)] : List (Nat × Instr)).all (fun x => decodeTableWord 32 x.1 == some x.2) = true := by decide

theorem test_decode_major_28 : ([
    (0x5D227651, .ataddN32 5 3 0x12 0x13 0x2C)] : List (Nat × Instr)).all (fun x => decodeTableWord 32 x.1 == some x.2) = true := by decide

theorem test_decode_major_29 : ([
    (0x5D227653, .atfaddF32 5 3 0x12 0x13 0x2C)] : List (Nat × Instr)).all (fun x => decodeTableWord 32 x.1 == some x.2) = true := by decide

theorem test_decode_major_2A : ([
    (0x5D227655, .atminI32 5 3 0x12 0x13 0x2C)] : List (Nat × Instr)).all (fun x => decodeTableWord 32 x.1 == some x.2) = true := by decide

theorem test_decode_major_2B : ([
    (0x5D227657, .atminN32 5 3 0x12 0x13 0x2C)] : List (Nat × Instr)).all (fun x => decodeTableWord 32 x.1 == some x.2) = true := by decide

theorem test_decode_major_2C : ([
    (0x5D227659, .atmaxI32 5 3 0x12 0x13 0x2C)] : List (Nat × Instr)).all (fun x => decodeTableWord 32 x.1 == some x.2) = true := by decide

theorem test_decode_major_2D : ([
    (0x5D22765B, .atmaxN32 5 3 0x12 0x13 0x2C)] : List (Nat × Instr)).all (fun x => decodeTableWord 32 x.1 == some x.2) = true := by decide

theorem test_decode_major_2E : ([
    (0x5D22765D, .atandB32 5 3 0x12 0x13 0x2C)] : List (Nat × Instr)).all (fun x => decodeTableWord 32 x.1 == some x.2) = true := by decide

theorem test_decode_major_2F : ([
    (0x5D22765F, .atorB32 5 3 0x12 0x13 0x2C)] : List (Nat × Instr)).all (fun x => decodeTableWord 32 x.1 == some x.2) = true := by decide

theorem test_decode_major_30 : ([
    (0x5D227661, .atxorB32 5 3 0x12 0x13 0x2C)] : List (Nat × Instr)).all (fun x => decodeTableWord 32 x.1 == some x.2) = true := by decide

theorem test_decode_major_31 : ([
    (0x5D227663, .atswpB32 5 3 0x12 0x13 0x2C)] : List (Nat × Instr)).all (fun x => decodeTableWord 32 x.1 == some x.2) = true := by decide

theorem test_decode_major_32 : ([
    (0x5D227665, .atcasB32 5 3 0x12 0x13 0x2C)] : List (Nat × Instr)).all (fun x => decodeTableWord 32 x.1 == some x.2) = true := by decide

theorem test_decode_major_33 : ([
    (0x5D227667, .atmrgB32 5 3 0x12 0x13 0x2C)] : List (Nat × Instr)).all (fun x => decodeTableWord 32 x.1 == some x.2) = true := by decide

theorem test_decode_major_34 : ([
    (0x5D227669, .ataddN64 5 3 0x12 0x13 0x2C)] : List (Nat × Instr)).all (fun x => decodeTableWord 32 x.1 == some x.2) = true := by decide

theorem test_decode_major_35 : ([
    (0x5D22766B, .atswpB64 5 3 0x12 0x13 0x2C)] : List (Nat × Instr)).all (fun x => decodeTableWord 32 x.1 == some x.2) = true := by decide

theorem test_decode_major_36 : ([
    (0x5D22766D, .atcasB64 5 3 0x12 0x13 0x2C)] : List (Nat × Instr)).all (fun x => decodeTableWord 32 x.1 == some x.2) = true := by decide

theorem test_decode_major_37 : ([
    (0x0400A06F, .fenceAcq 5), (0x0601006F, .fenceRel 8), (0x0800206F, .fenceAr 1), (0x1094B66F, .bind 0x12 0x25 0x2C),
    (0x2001406F, .join 0xA), (0x2201406F, .leave 0xA), (0x249141EF, .wait 0x12 0xA 3), (0x3004A06F, .cbar 0x25),
    (0x3204A06F, .cjoin 0x25), (0x3400006F, .cleave), (0x4094A06F, .binit 0x12 0x25), (0x4294A06F, .barrive 0x12 0x25),
    (0x4404B66F, .bwait 0x25 0x2C), (0x4604B66F, .bread 0x25 0x2C), (0x5010166F, .rdwp 2 0x2C),
    (0x6094A06F, .rwr 0x12 0x25)] : List (Nat × Instr)).all (fun x => decodeTableWord 32 x.1 == some x.2) = true := by decide

theorem test_decode_major_38 : ([
    (0xCC0FB6F1, .mld 0x33 1 0xB 0xD), (0xCE3FB6F1, .mst 0x33 1 3 0xB 0xD), (0x0057B6F1, .mldf 2 0xB 0xD),
    (0x026FB6F1, .mstf 1 1 0xB 0xD), (0xCC9FB1F1, .ald 0x33 3 0xB 3), (0xCEB7B1F1, .ast 0x33 1 2 0xB 3)] : List (Nat × Instr)).all (fun x => decodeTableWord 32 x.1 == some x.2) = true := by decide

theorem test_decode_major_39 : ([
    (0x003531F3, .mma 0x1A 0x13 3), (0x083531F3, .mmaz 0x1A 0x13 3), (0x100056F3, .mdrain 5 0xD), (0x180001F3, .aclr 3),
    (0x203536F3, .mmul 0x1A 0x13 0xD), (0x283536F3, .madd 0x1A 0x13 0xD), (0x287536F3, .maddDn 0x1A 0x13 0xD),
    (0x300136F3, .mrecomp 0x13 0xD), (0x380136F3, .mfact 0x13 0xD), (0x400136F3, .mdens 0x13 0xD),
    (0x480136F3, .mmov 0x13 0xD), (0x500136F3, .mtr 0x13 0xD), (0x580006F3, .mzero 0xD)] : List (Nat × Instr)).all (fun x => decodeTableWord 32 x.1 == some x.2) = true := by decide

theorem test_decode_major_3A : ([
    (0x800252F5, .xcopy 2 0x12 0x25), (0x420252F5, .xrepack 1 0x12 0x25), (0xC40252F5, .xtr 3 0x12 0x25),
    (0x860252F5, .xcvt 2 0x12 0x25), (0x480252F5, .xexp 1 0x12 0x25), (0xCADA52F5, .xmcast 3 0x1B 0x12 0x25)] : List (Nat × Instr)).all (fun x => decodeTableWord 32 x.1 == some x.2) = true := by decide

theorem test_decode_major_3B : ([
    (0x00000077, .exit), (0x0204A077, .emit 0x25), (0x04000077, .idem), (0x0604A077, .nopre 0x25),
    (0x0894B677, .rng 0x12 0x25 0x2C), (0x0A94B677, .caddN128 0x12 0x25 0x2C), (0x11680077, .bkpt 0x2D),
    (0x12000077, .tret), (0x14001677, .tstamp 0x2C), (0x16001677, .coreid 0x2C)] : List (Nat × Instr)).all (fun x => decodeTableWord 32 x.1 == some x.2) = true := by decide

/-! ### Ill-formed terms that WellFormed refuses (R210, R213 and the instruction chapters) -/

/-- The 16-bit word 0x0000 is not a `mov` (R213). -/
theorem test_wf_zero_word : Instr.wf (.movB32H 0 0) = false ∧ Instr.wf (.movB32H 0 1) = true := by decide

/-- Equal formats, and the format codes 10 to 15 (R232). -/
theorem test_wf_cvt : ([.cvt 3 3 0 1 2, .cvt 10 3 0 1 2, .cvt 3 10 0 1 2, .cvt 15 15 0 1 2] : List Instr).all
    (fun i => !i.wf) = true ∧ Instr.wf (.cvt 9 0 3 1 2) = true := by decide

/-- Masks 12 to 15 (R210). -/
theorem test_wf_masks : ([.qset 0 12, .qset 15 15, .qget 12 0, .join 12, .leave 15, .wait 0 12 0] : List Instr).all
    (fun i => !i.wf) = true ∧ ([.qset 15 11, .qget 11 0, .join 11, .leave 0, .wait 0 11 7] : List Instr).all Instr.wf = true := by
  decide

/-- Pairs in 7-bit fields that run past v111 or past s15 (R210), named in each position that is read as a pair. -/
theorem test_wf_pairs : ([.iaddN64 0 0 111, .iaddN64 0 111 0, .iaddN64 111 0 0, .isubN64 0 0 127, .isubN64 0 127 0,
    .isubN64 127 0 0, .imulN64 0 0 111, .imulN64 0 127 0, .imulN64 111 0 0, .shlB64 0 0 111, .shlB64 0 127 0, .shrN64 0 0 127,
    .shrN64 0 111 0, .shrI64 0 0 111, .shrI64 0 127 0, .iminI64 0 0 111, .iminI64 0 111 0, .iminI64 111 0 0, .imaxI64 0 0 127,
    .imaxI64 0 127 0, .imaxI64 127 0 0, .iminN64 0 0 111, .iminN64 0 111 0, .iminN64 111 0 0, .imaxN64 0 0 127,
    .imaxN64 0 127 0, .imaxN64 127 0 0, .imulwN32 0 0 111, .imulwI32 0 0 127, .ldlB64 0 111] : List Instr).all
    (fun i => !i.wf) = true ∧
    ([.iaddN64 110 126 112, .shlB64 127 110 126, .imulwN32 111 127 110, .ldlB64 0 126] : List Instr).all Instr.wf = true := by
  decide

/-- Groups of loads and stores in 7-bit fields (R210, R247). -/
theorem test_wf_memory_groups : ([.ldB64 0 0 0 111, .ldB128 0 0 0 109, .ldB128 0 0 0 125, .stB64 0 0 0 0 127,
    .stB128 0 0 0 0 109, .stB128 0 0 0 0 127, .ldB64Ord 0 1 0 0 111, .stB64Ord 0 1 0 0 127] : List Instr).all
    (fun i => !i.wf) = true ∧ ([.ldB64 0 0 0 110, .ldB128 0 0 0 108, .stB128 0 0 0 0 124, .stB32 0 0 0 0 127] : List Instr).all
    Instr.wf = true := by decide

/-- Groups in 6-bit fields that run past v63 or s63 (R210). -/
theorem test_wf_groups : ([.jmp 63, .calli 63, .bind 63 0 0, .bind 0 63 0, .bread 0 61, .rdwp 0 63, .xcopy 0 0 63, .xrepack 0 0 63,
    .xtr 0 0 63, .xcvt 0 0 63, .xexp 0 0 63, .xmcast 0 0 0 63, .emit 49, .rng 63 0 0, .rng 0 61 0, .rng 0 0 61,
    .caddN128 63 0 0, .caddN128 0 61 0, .caddN128 0 0 61, .tstamp 63] : List Instr).all (fun i => !i.wf) = true ∧
    ([.jmp 62, .bind 62 62 63, .bread 63 60, .rdwp 3 62, .xmcast 3 63 63 62, .emit 48, .rng 62 60 60, .tstamp 62] : List Instr).all
    Instr.wf = true := by decide

/-- Control register numbers that R195 does not list, and odd pairs of format K (R210). -/
theorem test_wf_control_registers : ([0x004, 0x007, 0x00C, 0x00F, 0x015, 0x01F, 0x023, 0x027, 0x029, 0x02F, 0x034, 0x03F, 0x042, 0x0FF, 0x120,
    0xFFF] : List (BitVec 12)).all (fun n => !Instr.wf (.cmovRead n 0) && !Instr.wf (.cmovWrite n 0)) = true ∧
    Instr.wf (.cmovRead 0x030 5) = false ∧ Instr.wf (.cmovWrite 0x030 63) = false ∧
    ([0x000, 0x003, 0x008, 0x00B, 0x010, 0x014, 0x020, 0x022, 0x028, 0x030, 0x033, 0x040, 0x041, 0x100, 0x11F] : List (BitVec 12)).all
      (fun n => Instr.wf (.cmovRead n 62) && Instr.wf (.cmovWrite n 0)) = true := by decide

/-- Orderings that a load or a store does not have, a scope on a weak access, and scopes 10 to 15 (R102, R250). -/
theorem test_wf_orderings : ([.ldB32Ord 1 0 0 0 0, .ldB32Ord 0 3 0 0 0, .ldB32Ord 0 4 0 0 0, .ldB32Ord 10 1 0 0 0, .ldB32Ord 10 2 0 0 0,
    .ldB64Ord 0 3 0 0 0, .ldB64Ord 15 2 0 0 0, .stB32Ord 1 0 0 0 0, .stB32Ord 0 2 0 0 0, .stB32Ord 0 7 0 0 0, .stB32Ord 10 3 0 0 0,
    .stB64Ord 0 2 0 0 0, .stB64Ord 12 3 0 0 0] : List Instr).all (fun i => !i.wf) = true ∧
    ([.ldB32Ord 0 0 0 0 0, .ldB32Ord 9 1 3 0 0, .ldB64Ord 9 2 0 0 0, .stB32Ord 9 3 0 0 0, .stB64Ord 0 0 0 0 0] : List Instr).all
    Instr.wf = true := by decide

/-- Scopes 10 to 15 of atomics and fences, and their register groups (R210, R251, R256). -/
theorem test_wf_atomics : ([.ataddN32 10 0 0 0 0, .atfaddF32 10 0 0 0 0, .atminI32 10 0 0 0 0, .atminN32 10 0 0 0 0, .atmaxI32 10 0 0 0 0,
    .atmaxN32 11 0 0 0 0, .atandB32 12 0 0 0 0, .atorB32 13 0 0 0 0, .atxorB32 14 0 0 0 0, .atswpB32 15 0 0 0 0,
    .atcasB32 10 0 0 0 0, .atcasB32 0 0 63 0 0, .atmrgB32 10 0 0 0 0, .atmrgB32 0 0 63 0 0, .ataddN64 10 0 0 0 0,
    .ataddN64 0 0 63 0 0, .ataddN64 0 0 0 0 63, .atswpB64 10 0 0 0 0, .atswpB64 0 0 63 0 0, .atswpB64 0 0 0 0 63,
    .atcasB64 10 0 0 0 0, .atcasB64 0 0 61 0 0, .atcasB64 0 0 0 0 63, .fenceAcq 10, .fenceRel 10, .fenceAr 15] : List Instr).all
    (fun i => !i.wf) = true ∧ ([.ataddN32 9 3 63 127 63, .atcasB32 0 0 62 0 63, .atcasB64 9 3 60 0 62, .fenceAr 9] : List Instr).all
    Instr.wf = true := by decide

/-- A pattern that no row has, or whose fields are refused, decodes to nothing; its cause is ILL for a word of zeros or of
ones (R213). -/
theorem test_decode_rejects : decodeTableWord 16 0 = none ∧ decodeTableWord 32 0xFFFFFFFF = none ∧
    decode [0x00, 0x00] = .ill 2 ∧ decode [0xFF, 0xFF, 0xFF, 0xFF] = .ill 4 ∧ decode [0x2F, 0x00, 0x00, 0x00] = .und 4 := by decide

/-! ### Small states -/

/-- Threads in lanes 0 and 2 at one PC, one in lane 5 elsewhere. -/
def threads : Map Thread :=
  [(0, Thread.fresh 10 0 placePc), (2, Thread.fresh 11 1 placePc), (5, Thread.fresh 12 2 (placePc + 8#58))]

/-- A wave whose registers hold the given coded words: vector registers by number, lane and word, uniform ones by number
and word. -/
def waveOf (v : List (Nat × Nat × Nat)) (u : List (Nat × Nat)) : Wave :=
  let w := { Wave.fresh 0 0 64 threads with sel := placePc }
  let w := v.foldl (fun w x => w.set (.v x.1) x.2.1 (coded (BitVec.ofNat 32 x.2.2))) w
  u.foldl (fun w x => w.set (.s x.1) 0 (coded (BitVec.ofNat 32 x.2))) w

/-- The pod of lanes 0 and 2. -/
def pod : Pod := ⟨0, 0, [0, 2], placePc, 0, 4, none⟩

/-- A crew with the largest allocation. -/
def crew : Crew := placeCrew 0

/-- Buffered translations: text, and the first 32 MiB of the global region on the second region of HBM. -/
def pages : List TlbEntry := [placeTlb, ⟨1, none, 0, 2 ^ 25, 2 ^ 25, 0, true, true, false, false, false, true⟩]

/-- The device after reset, with the doorbells at 2^30 and the metadata tables from 2^33 on, away from what the tests place. -/
def based : State := { State.reset with osm := { State.reset.osm with
  dbbase := 2 ^ 30, czmbase := (span 0 4).map fun d => (d, 2 ^ 33 + d * 2 ^ 26) } }

/-- The pod issues on core 0, with a few coded words in memory by address. -/
def stateOf (w : Wave) (k : Crew) (m : List (Nat × Nat)) : State :=
  let s := m.foldl (fun (s : State) x => s.hbmPut x.1 (coded (BitVec.ofNat 32 x.2))) based
  { s.modCore 0 fun c => { c with crews := [(0, k)], waves := [(0, w)], tlb := pages } with pod := some pod }

/-- Register values that several tests share. -/
def w0 : Wave := waveOf [(1, 0, 7), (1, 2, 0xFFFFFFFF), (2, 0, 5), (2, 2, 2), (3, 0, 64), (3, 2, 68)] [(1, 5), (2, 3), (4, 16)]
/-- The state with them. -/
def s0 : State := stateOf w0 crew []

/-- `Issuing` as a computation. -/
def issues (s : State) (p : Pod) (w : Wave) (k : Crew) : Bool :=
  decide (s.pod = some p) && decide (s.wave? p.core p.slot = some w) && decide (s.crew? p.core w.crew = some k) &&
  decide (p.lanes ≠ []) && decide p.lanes.Nodup && (p.lanes.all fun l => decide (l < 32)) &&
  (p.lanes.all fun l => match w.threads.find l with
    | some th => decide (th.hold = .ready) && decide (th.pc = p.pc)
    | none => false) && decide (w.parity.contains parRestored = false)

theorem issuing_of {s : State} {p : Pod} {w : Wave} {k : Crew} (h : issues s p w k = true) : Issuing s p w k := by
  simp only [issues, Bool.and_eq_true, decide_eq_true_eq, List.all_eq_true] at h
  obtain ⟨⟨⟨⟨⟨⟨⟨h1, h2⟩, h3⟩, h4⟩, h5⟩, h6⟩, h7⟩, h8⟩ := h
  refine ⟨h1, h2, h3, h4, h5, h6, fun l hl => ?_, h8⟩
  have := h7 l hl
  split at this
  · rename_i th e
    simp only [Bool.and_eq_true, decide_eq_true_eq] at this
    exact ⟨th, e, this⟩
  · cases this

theorem granted_of {k : Crew} {rs : List Reg} (h : (rs.all fun r => k.has r) = true) : Granted k rs := by
  simpa [Granted] using h

theorem sound_of {w : Wave} {p : Pod} {rs : List Reg} (h : (p.lanes.all fun l => rs.all fun r => (w.get r l).ok) = true) :
    Sound w p rs := by simpa [Sound] using h

theorem clean_of {w : Wave} {keys : List Nat} (h : (keys.all fun k => !w.parity.contains k) = true) : Clean w keys := by
  simpa [Clean] using h

theorem cleanCr_of {s : State} {p : Pod} {w : Wave} {k : Crew} {ns : List Nat} (h : (ns.all fun n => !s.crBad p w k n) = true) :
    CleanCr s p w k ns := by simpa [CleanCr] using h

theorem some_of {o : Option α} (h : o.isSome = true) : ∃ x, o = some x := Option.isSome_iff_exists.mp h

/-- A translation of an access's granules answers places. -/
def places : Gather × State → Bool
  | (.ok _, _) => true
  | _ => false

theorem places_of {x : Gather × State} (h : places x = true) : ∃ l s, x = (.ok l, s) := by
  obtain ⟨g, s⟩ := x
  cases g with
  | ok l => exact ⟨l, s, rfl⟩
  | trap t => cases h
  | wait => cases h

/-! ### States that meet the hypotheses of the statements about instructions -/

theorem issuing_s0 : Issuing s0 pod w0 crew := issuing_of (by decide +kernel)

theorem hyp_IntegerArithmetic : Issuing s0 pod w0 crew ∧ Granted crew [.of7 111, .of7 1, .of7 2] ∧ Sound w0 pod [.of7 1, .of7 2] :=
  ⟨issuing_s0, granted_of (by decide +kernel), sound_of (by decide +kernel)⟩

theorem hyp_BitOperations : Issuing s0 pod w0 crew ∧ Granted crew [.of7 127, .of7 3, .of7 112] ∧ Sound w0 pod [.of7 3, .of7 112] :=
  ⟨issuing_s0, granted_of (by decide +kernel), sound_of (by decide +kernel)⟩

theorem hyp_Immediates : Issuing s0 pod w0 crew ∧ Granted crew [.of7 1, .of7 1] ∧ Sound w0 pod [.of7 1] :=
  ⟨issuing_s0, granted_of (by decide +kernel), sound_of (by decide +kernel)⟩

theorem hyp_ShortForms : Issuing s0 pod w0 crew ∧ Granted crew [.ofV 63#6, .ofV 31#5] ∧ Sound w0 pod [.ofV 63#6, .ofV 31#5] :=
  ⟨issuing_s0, granted_of (by decide +kernel), sound_of (by decide +kernel)⟩

theorem hyp_FloatArithmetic : (Issuing s0 pod w0 crew ∧ Granted crew [.of7 0, .of7 1, .of7 2, .ofV 63#6, .ofV 31#5] ∧
    Sound w0 pod [.of7 1, .of7 2, .ofV 63#6, .ofV 31#5]) ∧ isNan32 0x7F800001 = true ∧ isNan32 0xFFFFFFFF = true ∧
    isNan32 0x7F800000 = false := ⟨⟨issuing_s0, granted_of (by decide +kernel), sound_of (by decide +kernel)⟩, by decide +kernel, by decide +kernel, by decide +kernel⟩

/-- The sum of an accumulator and one product, whose leading bit is bit `E`, with its part below `E - 40` cut off. -/
def sumWith (acc : Word) (F : Fmt) (x y : Nat) (E : ℤ) : ℤ × ℚ :=
  let p := product F x F y 0
  let S : ℤ := (if p.s = true then -1 else 1) * ⌊|p.val| * 2 ^ (40 - E)⌋
  (S, (flt32.decode acc.toNat).val + S * 2 ^ (E - 40))

/-- A positive operand of a root; the classes of products; logarithmic zeros and a finite product; and k-steps with a NaN, with
infinities, with no product, whose sum is zero, in range, and beyond the greatest number. -/
theorem hyp_FloatRounding : ((flt32.decode 0x3F800000).cls = .finite ∧ (flt32.decode 0x3F800000).s = false ∧
      (flt32.decode 0x3F800000).m ≠ 0) ∧
    ((flt32.decode 0x7FC00000).cls = .nan ∧ (flt32.decode 0x7F800000).cls = .inf ∧ (flt32.decode 0xFF800000).cls = .inf ∧
      (flt32.decode 0xFF800000).s = true ∧ (flt32.decode 0).cls = .zero) ∧
    (32 % 32 = 0 ∧ 63 % 32 ≠ 0 ∧ 1 % 32 ≠ 0) ∧
    ((product .f16 0x7E00 .f16 0x3C00 0).cls = .nan ∧ (product .f16 0x7C00 .f16 0x3C00 0).cls = .inf ∧
      (product .f16 0xFC00 .f16 0x3C00 0).cls = .inf ∧ (product .f16 0xFC00 .f16 0x3C00 0).s = true ∧
      (product .f16 0 .f16 0x3C00 0).cls = .zero) ∧
    ((product .f8e4 0x7E .f8e4 0x7E 0).cls = .finite ∧
      (Nat.log2 (product .f8e4 0x7E .f8e4 0x7E 0).m : ℤ) + (product .f8e4 0x7E .f8e4 0x7E 0).e = 17 ∧
      ((sumWith 0x7F7FFFFF .f8e4 0x7E 0x7E 17).1 ≠ 0 ∧
        (flt32.decode 0x7F7FFFFF).val < |(sumWith 0x7F7FFFFF .f8e4 0x7E 0x7E 17).2|) ∧
      (Nat.log2 (product .f16 0x3C00 .f16 0x3C00 0).m : ℤ) + (product .f16 0x3C00 .f16 0x3C00 0).e = 0 ∧
      ((sumWith 0xBF800000 .f16 0x3C00 0x3C00 0).1 ≠ 0 ∧ (sumWith 0xBF800000 .f16 0x3C00 0x3C00 0).2 = 0) ∧
      ((sumWith 0x3F800000 .f16 0x3C00 0x3C00 0).2 ≠ 0 ∧
        |(sumWith 0x3F800000 .f16 0x3C00 0x3C00 0).2| ≤ (flt32.decode 0x7F7FFFFF).val)) := by decide +kernel

theorem hyp_ComparesAndPredicates : (Issuing s0 pod w0 crew ∧ Granted crew [.of7 1, .of7 127] ∧ Sound w0 pod [.of7 1, .of7 127]) ∧
    Granted crew [.of7 111, .of7 1, .of7 2] ∧ Sound w0 pod [.of7 1, .of7 2] ∧ Clean w0 (predKeys pod [7, 0, 3]) :=
  ⟨⟨issuing_s0, granted_of (by decide +kernel), sound_of (by decide +kernel)⟩, granted_of (by decide +kernel), sound_of (by decide +kernel), clean_of (by decide +kernel)⟩

theorem hyp_NarrowElements : Issuing s0 pod w0 crew ∧ Granted crew [.of7 3, .of7 1, .of7 2] ∧ Sound w0 pod [.of7 1, .of7 2, .of7 3] ∧
    Fmt.ofCode 9 = some .n8 ∧ Fmt.ofCode 0 = some .f32 :=
  ⟨issuing_s0, granted_of (by decide +kernel), sound_of (by decide +kernel), by decide +kernel, by decide +kernel⟩

theorem hyp_PairArithmetic : Issuing s0 pod w0 crew ∧
    Granted crew ((Reg.of7 110).group 2 ++ ((Reg.of7 1).group 2 ++ (Reg.of7 126).group 2)) ∧
    Sound w0 pod ((Reg.of7 1).group 2 ++ (Reg.of7 126).group 2) := ⟨issuing_s0, granted_of (by decide +kernel), sound_of (by decide +kernel)⟩

theorem hyp_LaneMoves : Issuing s0 pod w0 crew ∧ Granted crew [.of7 127, .of7 1, .of7 2] ∧ Sound w0 pod [.of7 1, .of7 2] ∧
    Clean w0 (predKeys pod [7]) := ⟨issuing_s0, granted_of (by decide +kernel), sound_of (by decide +kernel), clean_of (by decide +kernel)⟩

/-- A wave with a thread arrived at q11. -/
def wArrived : Wave := w0.setMask 11 ⟨0x21, 0x20⟩

theorem hyp_MaskMoves : (Issuing s0 pod w0 crew ∧ Granted crew [.of7 127, .ofS 15#4] ∧ Sound w0 pod [.ofS 15#4] ∧
    Clean w0 [parQ 11] ∧ (w0.mask 11).arrived = 0) ∧
    Issuing (stateOf wArrived crew []) pod wArrived crew ∧ Sound wArrived pod [.ofS 15#4] ∧ (wArrived.mask 11).arrived ≠ 0 :=
  ⟨⟨issuing_s0, granted_of (by decide +kernel), sound_of (by decide +kernel), clean_of (by decide +kernel), by decide +kernel⟩, issuing_of (by decide +kernel),
    sound_of (by decide +kernel), by decide +kernel⟩

theorem hyp_UniformForms : Issuing s0 pod w0 crew ∧ Granted crew [.ofS 63#6, .ofS 1#6, .ofS 2#6] ∧ Sound w0 pod [.ofS 1#6, .ofS 2#6] :=
  ⟨issuing_s0, granted_of (by decide +kernel), sound_of (by decide +kernel)⟩

/-- The pair s2, s3 to write. -/
def wCr (x : Nat) : Wave := waveOf [] [(2, x), (3, x / 2 ^ 32)]
/-- The descriptor that the pair holds, without its scales and window. -/
def descOf (x : Nat) : TDesc := { TDesc.ofBits (BitVec.ofNat 64 x) with sc := false, win := 0, soff := 0 }
/-- What `write` calls a legal descriptor. -/
def legalDesc (t : TDesc) : Bool :=
  decide (t.fmt ∈ [1, 2, 3, 4, 5, 8]) && (t.dense || t.fmt == 1 || t.fmt == 2) && decide (t.rank ≤ 32) && (!t.dense || decide (t.rank ≤ 1))

/-- Values at the ends of the ranges of QUANTUM, BINTO and MAXRANK, and descriptors that are legal and fit, legal and too large, and
not legal. -/
theorem hyp_ControlRegisters : (Issuing s0 pod w0 crew ∧ Granted crew [.ofS 62#6, .s 63] ∧ CleanCr s0 pod w0 crew [0x11F] ∧
      Sound w0 pod [.ofS 62#6, .s 63]) ∧
    (∀ x ∈ [0, 1, 4096, 4097, 8191, 8192, 65535, 65536, 32, 33, 64, 2 ^ 63], Issuing (stateOf (wCr x) crew []) pod (wCr x) crew ∧
      Sound (wCr x) pod [.ofS 2#6, .s 3] ∧ (wCr x).word (.s 2) 0 = BitVec.ofNat 32 x) ∧
    (((s0.core 0).waves.any fun e => e.2.crew == w0.crew && e.2.mma.isSome) = false) ∧
    (let t : TDesc := ⟨8, 8, 2, true, 1, false, 0, 0⟩
     let big : TDesc := ⟨256, 256, 1, true, 1, false, 0, 0⟩
     let bad : TDesc := ⟨8, 8, 7, true, 1, false, 0, 0⟩
     let crew4 : Crew := { crew with decl := { crew.decl with slabq := 4 } }
     (legalDesc (descOf t.toBits.toNat) = true ∧ crew4.fits 31 (descOf t.toBits.toNat) = true) ∧
     (legalDesc (descOf big.toBits.toNat) = true ∧ crew4.fits 31 (descOf big.toBits.toNat) = false) ∧
     legalDesc (descOf bad.toBits.toNat) = false) :=
  ⟨⟨issuing_s0, granted_of (by decide +kernel), cleanCr_of (by decide +kernel), sound_of (by decide +kernel)⟩,
    fun x hx => by
      have h := List.all_eq_true.mp (show ([0, 1, 4096, 4097, 8191, 8192, 65535, 65536, 32, 33, 64, 2 ^ 63].all fun x =>
        issues (stateOf (wCr x) crew []) pod (wCr x) crew && (pod.lanes.all fun l => [.ofS 2#6, .s 3].all fun r => ((wCr x).get r l).ok) &&
          decide ((wCr x).word (.s 2) 0 = BitVec.ofNat 32 x)) = true by decide +kernel) x hx
      simp only [Bool.and_eq_true, decide_eq_true_eq] at h
      exact ⟨issuing_of h.1.1, sound_of h.1.2, h.2⟩,
    by decide +kernel, by decide +kernel⟩

/-- The pair s2, s3 holds the first address of the text region, and s4, s5 the first one beyond it. -/
def wJump : Wave := { waveOf [] [(3, 0x2000000), (5, 0x2800000)] with p := [(1, 4)] }

/-- The target of the greatest backward offset that stays in the region, the next one, and each form's taking lanes. -/
theorem hyp_BranchesAndJumps : Issuing (stateOf wJump crew []) pod wJump crew ∧ Clean wJump (predKeys pod [1]) ∧
    ((placePc.toNat : Int) + 2 * (BitVec.ofInt 20 (-2048)).toInt = 4 * 2 ^ 55) ∧
    ((placePc.toNat : Int) + 2 * (BitVec.ofInt 20 (-2049)).toInt < 4 * 2 ^ 55) ∧
    (pod.lanes.find? fun l => wJump.pred 1 l != false) = some 2 ∧ (∀ l ∈ pod.lanes, (wJump.pred 0 l != false) = false) ∧
    Granted crew [.ofS 2#6, .s 3] ∧ Sound wJump pod [.ofS 2#6, .s 3] ∧ Sound wJump pod [.ofS 4#6, .s 5] ∧
    (wJump.word (.s 2) 0).toNat + 2 ^ 32 * (wJump.word (.s 3) 0).toNat = 4 * 2 ^ 55 ∧
    (wJump.word (.s 4) 0).toNat + 2 ^ 32 * (wJump.word (.s 5) 0).toNat = 5 * 2 ^ 55 ∧ (∀ l ∈ pod.lanes, wJump.spillBad l = false) :=
  ⟨issuing_of (by decide +kernel), clean_of (by decide +kernel), by decide +kernel, by decide +kernel, by decide +kernel, by decide +kernel, granted_of (by decide +kernel),
    sound_of (by decide +kernel), sound_of (by decide +kernel), by decide +kernel, by decide +kernel, by decide +kernel⟩

/-- Context 1 with private regions of 2^14 bytes. -/
def private14 (s : State) : State := s.modCtx 1 fun c => { c with desc := 14#512 <<< 384 }

/-- Frames of a thread, the newest first. -/
def frames (n : Nat) : List (BitVec 64) := (span 0 n).map fun i => BitVec.ofNat 64 (4 * 2 ^ 55 + 4 * (n - i))

/-- A wave whose threads in lanes 0 and 2 have a full hardware stack and a given depth. -/
def wDeep (d : Nat) : Wave := { wJump with threads := wJump.threads.mapAll fun l t =>
  if l = 5 then t else { t with stack := frames 16, depth := d } }

/-- The pod calls from depth 16, at the greatest depth, with no lane taking, and to a target outside the region. -/
theorem hyp_CallsAndReturns : (let s := private14 (stateOf (wDeep 16) crew [])
    Issuing s pod (wDeep 16) crew ∧ Clean (wDeep 16) (predKeys pod [0]) ∧ (∀ l ∈ pod.lanes, (wDeep 16).spillBad l = false) ∧
    (∀ l ∈ pod.lanes, ((wDeep 16).thread l).depth < maxDepth (s.ctx 1).privsz) ∧
    (∃ l t, s.gather pod (wDeep 16) crew .write 4 2 (spills (wDeep 16) (s.ctx 1).privsz pod.lanes) = (.ok l, t)) ∧
    (pod.lanes.filter fun l => (wDeep 16).pred 0 l != false) = [] ∧
    (pod.lanes.filter fun l => (wDeep 16).pred 0 l != true) = [0, 2] ∧
    (pod.lanes.filter fun l => decide (16 ≤ ((wDeep 16).thread l).stack.length)) = [0, 2] ∧
    (4 * 2 ^ 55 ≤ (placePc.toNat : Int) + 2 * (BitVec.ofInt 20 (-2048)).toInt) ∧
    ((placePc.toNat : Int) + 2 * (BitVec.ofInt 20 (-2049)).toInt < 4 * 2 ^ 55)) ∧
    (let s := private14 (stateOf (wDeep 528) crew [])
    Issuing s pod (wDeep 528) crew ∧ (pod.lanes.find? fun l => decide (((wDeep 528).thread l).depth ≥ maxDepth (s.ctx 1).privsz)) = some 0) ∧
    Granted crew [.ofS 2#6, .s 3] ∧ Sound (wDeep 16) pod [.ofS 2#6, .s 3] :=
  ⟨⟨issuing_of (by decide +kernel), clean_of (by decide +kernel), by decide +kernel, by decide +kernel, places_of (by decide +kernel), by decide +kernel⟩,
    ⟨issuing_of (by decide +kernel), by decide +kernel⟩, granted_of (by decide +kernel), sound_of (by decide +kernel)⟩

theorem hyp_CallsAndReturns_returns : (let s := private14 (stateOf (wDeep 17) crew [])
    Issuing s pod (wDeep 17) crew ∧ (∀ l ∈ pod.lanes, (wDeep 17).popBad l = false) ∧
    (∀ l ∈ pod.lanes, ((wDeep 17).thread l).depth ≠ 0) ∧
    ∃ l t, s.gather pod (wDeep 17) crew .read 4 2 (refills (wDeep 17) (s.ctx 1).privsz pod.lanes) = (.ok l, t)) ∧
    (∀ x ∈ ((private14 (stateOf (wDeep 17) crew [])).loadAll pod (wDeep 17) crew false
      (match (private14 (stateOf (wDeep 17) crew [])).gather pod (wDeep 17) crew .read 4 2 (refills (wDeep 17) 14 pod.lanes) with
        | (.ok l, _) => l
        | _ => [])).1, x.2.1.ok = true) ∧
    Issuing s0 pod w0 crew ∧ (pod.lanes.find? fun l => decide ((w0.thread l).depth = 0)) = some 0 :=
  ⟨⟨issuing_of (by decide +kernel), by decide +kernel, by decide +kernel, places_of (by decide +kernel)⟩, by decide +kernel, issuing_s0, by decide +kernel⟩

/-- Literals at the first granule of the region, before it, and at the PC's own page. -/
theorem hyp_LiteralLoads : Issuing s0 pod w0 crew ∧ Granted crew ((Reg.of7 110).group 2) ∧
    ((placePc.toNat / 4 * 4 : Nat) + 4 * (BitVec.ofInt 18 (-1024)).toInt : Int) = 4 * 2 ^ 55 ∧
    ((placePc.toNat / 4 * 4 : Nat) + 4 * (BitVec.ofInt 18 (-1025)).toInt : Int) < 4 * 2 ^ 55 ∧
    ∃ l t, s0.gather pod w0 crew .read 4 2 [(0, some (4 * 2 ^ 55))] = (.ok l, t) :=
  ⟨issuing_s0, granted_of (by decide +kernel), by decide +kernel, by decide +kernel, places_of (by decide +kernel)⟩

/-- Four granules at v3 + 4 × 127 and its lanes, and an aligned pair. -/
theorem hyp_Loads : Issuing s0 pod w0 crew ∧ Sound w0 pod [.of7 3] ∧ CleanCr s0 pod w0 crew [8] ∧ Granted crew (.of7 3 :: (Reg.of7 108).group 4) ∧
    s0.throttled pod w0 (pod.lanes.map (laneVa w0 crew 0 (.of7 3) 127)) = false ∧
    (∃ l t, (s0.unheld pod w0).gather pod w0 crew .read 4 4 (pod.lanes.map (laneVa w0 crew 0 (.of7 3) 127)) = (.ok l, t)) ∧
    ∃ l t, (s0.unheld pod w0).gather pod w0 crew .read 8 2 ([pod.low].map (laneVa w0 crew 0 (.of7 3) 0)) = (.ok l, t) :=
  ⟨issuing_s0, sound_of (by decide +kernel), cleanCr_of (by decide +kernel), granted_of (by decide +kernel), by decide +kernel,
    places_of (by decide +kernel), places_of (by decide +kernel)⟩

theorem hyp_Stores : Issuing s0 pod w0 crew ∧ Sound w0 pod [.of7 3] ∧ CleanCr s0 pod w0 crew [8] ∧ Granted crew (.of7 3 :: (Reg.of7 108).group 4) ∧
    s0.throttled pod w0 (pod.lanes.map (laneVa w0 crew 0 (.of7 3) (-16))) = false ∧
    (∃ l t, (s0.unheld pod w0).gather pod w0 crew .write 4 4 (pod.lanes.map (laneVa w0 crew 0 (.of7 3) (-16))) = (.ok l, t)) ∧
    ∃ l t, (s0.unheld pod w0).gather pod w0 crew .write 4 1 (pod.lanes.map (laneVa w0 crew 0 (.of7 3) 0)) = (.ok l, t) :=
  ⟨issuing_s0, sound_of (by decide +kernel), cleanCr_of (by decide +kernel), granted_of (by decide +kernel), by decide +kernel,
    places_of (by decide +kernel), places_of (by decide +kernel)⟩

/-- AB0 is the start of the scratchpad region. -/
def crewSp : Crew := { crew with body := { CrewBody.fresh with ab := [0x300000000000000#58, 0, 0, 0] } }

/-- Loads and stores of the scratchpad, by lane and by row. -/
theorem hyp_ScratchpadPlaces : Issuing (stateOf w0 crewSp []) pod w0 crewSp ∧
    (∀ a ∈ [Access.read, .write], (match (stateOf w0 crewSp []).gather pod w0 crewSp a 4 1 (pod.lanes.map (laneVa w0 crewSp 0 (.of7 3) 0)) with
      | (.ok l, _) => l.map fun x => x.at_
      | _ => []) = [.spad 64, .spad 68]) ∧
    (∀ a ∈ [Access.read, .write], (match (stateOf w0 crewSp []).gather pod w0 crewSp a 4 2 (rowVas pod (6 * 2 ^ 55) 32 2) with
      | (.ok l, _) => l.map fun x => x.at_
      | _ => []) = [.spad 0, .spad 4, .spad 32, .spad 36]) ∧ spadPlaced [⟨0, 6 * 2 ^ 55, .spad 64⟩] 16 ∧
    ¬spadPlaced [⟨0, 6 * 2 ^ 55, .spad 64⟩] 17 :=
  ⟨issuing_of (by decide +kernel), by decide +kernel, by decide +kernel, by simp [spadPlaced], by simp [spadPlaced]⟩

/-- Address −4, the first address beyond 2^58 − 1, and a misaligned one. -/
def wFar : Wave := waveOf [(1, 0, 0), (2, 0, 0xFFFFFFFF), (3, 0, 2)] []
/-- AB1 is the last granule of the address space. -/
def crewFar : Crew := { crew with body := { CrewBody.fresh with ab := [0, 0x3FFFFFFFFFFFFFC#58, 0, 0] } }

theorem hyp_AddressFaults : Issuing (stateOf wFar crewFar []) pod wFar crewFar ∧ Sound wFar pod [.of7 1] ∧ Sound wFar pod [.of7 3] ∧
    (let s := stateOf wFar crewFar []
     s.queueFull 0 = false ∧ CleanCr s pod wFar crewFar [8] ∧
      s.throttled pod wFar (pod.lanes.map (laneVa wFar crewFar 0 (.of7 1) (-1))) = false ∧
      s.throttled pod wFar ([pod.low].map (laneVa wFar crewFar 0 (.of7 1) (-1))) = false ∧
      s.throttled pod wFar (pod.lanes.map (laneVa wFar crewFar 0 (.of7 1) 0)) = false ∧
      s.throttled pod wFar ([pod.low].map (laneVa wFar crewFar 0 (.of7 1) 0)) = false) ∧
    Granted crewFar (.of7 1 :: (Reg.of7 4).group 4) ∧
    ((crewFar.ab 0 : Int) + (wFar.word (.of7 1) 0).toNat + 4 * (-1) < 0) ∧
    ((crewFar.ab 1 : Int) + (wFar.word (.of7 1) 0).toNat + 4 * 1 = 2 ^ 58) ∧
    ((crewFar.ab 0 : Int) + (wFar.word (.of7 3) 0).toNat + 4 * 0) % 4 ≠ 0 :=
  ⟨issuing_of (by decide +kernel), sound_of (by decide +kernel), sound_of (by decide +kernel),
    ⟨by decide +kernel, cleanCr_of (by decide +kernel), by decide +kernel, by decide +kernel, by decide +kernel, by decide +kernel⟩,
    granted_of (by decide +kernel), by decide +kernel, by decide +kernel, by decide +kernel⟩

/-- The requests of an atomic all answered the old units. -/
def answers : List (Nat × LaneAtom) → Bool
  | [] => true
  | (_, .old _) :: l => answers l
  | _ => false

theorem answers_of : ∀ {l : List (Nat × LaneAtom)}, answers l = true → ∀ x ∈ l, ∃ us, x.2 = .old us
  | (_, .old us) :: l, h, x, hx => by
    cases hx with
    | head => exact ⟨us, rfl⟩
    | tail _ hx => exact answers_of (l := l) h x hx

/-- An `atcas.b64`, whose group is the largest. -/
theorem hyp_Atomics : Issuing s0 pod w0 crew ∧ Granted crew (.of7 3 :: ((Reg.ofV 62#6).group 2 ++ (Reg.ofV 60#6).group 4)) ∧
    Sound w0 pod (.of7 3 :: (Reg.ofV 60#6).group 4) ∧ CleanCr s0 pod w0 crew [8] ∧ s0.throttled pod w0 (pod.lanes.map (laneVa w0 crew 0 (.of7 3) 0)) = false ∧
    (∃ l t, (s0.unheld pod w0).gatherDeny pod w0 crew .atomic (atomDeny .addN32) 4 1 (pod.lanes.map (laneVa w0 crew 0 (.of7 3) 0)) =
      (.ok l, t)) ∧
    ∀ x ∈ (s0.atomRequests 0 .addN32 (fun l => [w0.get (.v 1) l])
      [⟨0, 64, .mem (2 ^ 25 + 64) 0 false false⟩, ⟨2, 68, .mem (2 ^ 25 + 68) 0 false false⟩]).1, ∃ us, x.2 = .old us :=
  ⟨issuing_s0, granted_of (by decide +kernel), sound_of (by decide +kernel), cleanCr_of (by decide +kernel), by decide +kernel,
    places_of (by decide +kernel), answers_of (by decide +kernel)⟩

theorem hyp_AtomicAtHome : (2 ^ 39 - 4 < hbmSize ∧ (2 ^ 39 - 4) % 4 = 0) ∧ (coded 5).ok = true ∧ (s0.home (2 ^ 39 - 4)).ok = true ∧
    s0.poisoned (2 ^ 39 - 4) (s0.home (2 ^ 39 - 4)) = false ∧ (s0.home (2 ^ 39 - 4)).data = (coded 0).data ∧
    (s0.home (2 ^ 39 - 4)).data ≠ (coded 5).data ∧
    ((2 ^ 39 - 8) % 8 = 0 ∧ ∀ a ∈ [2 ^ 39 - 8, 2 ^ 39 - 8 + 4], (s0.home a).ok = true ∧ s0.poisoned a (s0.home a) = false) := by
  decide +kernel

/-- The range of a `bind` with its page tables: four levels at the start of a region owned as page tables. -/
def bindState (w : Wave) : State :=
  let s := stateOf w crew [(0x0, 0x4001), (0x4000, 0x8001), (0x8000, 0xC001), (0xC000, 0x4000063)]
  { s with osm := { s.osm with firewall := [(0, 0x8001), (2, 0x4001)] } }
/-- One page at address 0 to the object at 16; and no page. -/
def wBind (n : Nat) : Wave := waveOf [] [(4, 16), (6, n)]

/-- The leaves that a range's walk finds. -/
def leaves : BindWalk × State → Option (List (Nat × Nat × Nat))
  | (.ok l, _) => some l
  | _ => none

theorem hyp_FencesAndBindings : Issuing s0 pod w0 crew ∧ s0.wide 0 4 = true ∧ s0.wide 0 3 = false ∧
    (Issuing (bindState (wBind 1)) pod (wBind 1) crew ∧ crew.replay = none ∧
      Granted crew (.ofS 6#6 :: ((Reg.ofS 2#6).group 2 ++ (Reg.ofS 4#6).group 2)) ∧
      Sound (wBind 1) pod (.ofS 6#6 :: ((Reg.ofS 2#6).group 2 ++ (Reg.ofS 4#6).group 2)) ∧
      ((bindState (wBind 1)).ctx 1).bindIndex 16 = none ∧ ((bindState (wBind 1)).ctx 1).bindFree = some 1 ∧
      leaves ((bindState (wBind 1)).bindWalk pod (laneAgent pod (wBind 1) crew 0) 0 16384 1) = some [(0, 0xC000, 0x4000063)]) ∧
    Issuing (bindState (wBind 0)) pod (wBind 0) crew ∧ (wBind 0).word (.s 6) 0 = 0 :=
  ⟨issuing_s0, by decide +kernel, by decide +kernel, ⟨issuing_of (by decide +kernel), rfl, granted_of (by decide +kernel), sound_of (by decide +kernel), by decide +kernel,
    by decide +kernel, by decide +kernel⟩, issuing_of (by decide +kernel), by decide +kernel⟩

/-- A wave whose q1 has members 0, 2 and 5, with 5 arrived; q2 has only 0 and 2; q3 only 0. -/
def wMasks : Wave := { (((w0.setMask 1 ⟨0x25, 0x20⟩).setMask 2 ⟨0x5, 0⟩).setMask 3 ⟨0x1, 0⟩).setMask 4 ⟨0x25, 0⟩ with
  threads := w0.threads.alter 5 fun t => { t with hold := .join 1 } }

/-- Joins that complete with another thread's arrival and at once, one that waits, and one by a thread that is no member; waits
of 0 and of 5 cycles. -/
theorem hyp_MaskArrivals : Issuing (stateOf wMasks crew []) pod wMasks crew ∧ Clean wMasks [parQ 11] ∧
    ((wMasks.mask 1).member ≠ 0 ∧ ((wMasks.mask 1).arrived ||| laneSet pod.lanes) &&& (wMasks.mask 1).member = (wMasks.mask 1).member) ∧
    (∀ l ∈ pod.lanes, (wMasks.mask 2).member.getLsbD l = true) ∧
    ((wMasks.mask 4).arrived ||| laneSet pod.lanes) &&& (wMasks.mask 4).member ≠ (wMasks.mask 4).member ∧
    (pod.lanes.find? fun l => !(wMasks.mask 3).member.getLsbD l) = some 2 ∧ Granted crew [.ofS 63#6] ∧
    Sound wMasks pod [.ofS 63#6] ∧ (wMasks.word (.s 63) 0).toNat = 0 ∧ (wMasks.word (.s 1) 0).toNat ≠ 0 :=
  ⟨issuing_of (by decide +kernel), clean_of (by decide +kernel), by decide +kernel, by decide +kernel, by decide +kernel, by decide +kernel, granted_of (by decide +kernel),
    sound_of (by decide +kernel), by decide +kernel, by decide +kernel⟩

/-- The third thread is at the barrier already. -/
def wBar : Wave := { waveOf [] [(1, 1024), (2, 1025), (3, 3), (4, 4)] with
  threads := threads.alter 5 fun t => { t with hold := .cbar } }
/-- Its arrival opened the phase with a count. -/
def crewBar (n : Nat) : Crew := { crew with body := { CrewBody.fresh with bar := some ⟨n, 1, placePc, 0, some 0⟩ } }

/-- A phase that two more arrivals complete in the same cycle, and every thread there. -/
def wThere : Wave := { wBar with threads := threads.mapAll fun _ t => { t with hold := .cbar } }

/-- The barrier's condition. -/
def met (w : Wave) (k : Crew) (b : CrewBar) : Bool :=
  let ms := ((stateOf w k []).core 0).members 0
  ((b.count == 0 && !ms.isEmpty && ms.all fun x => decide (x.2.2.hold = .cbar)) || (b.count != 0 && decide (b.count ≤ b.arrived))) &&
    decide (k.phase = .run ∨ k.phase = .shadow)

/-- No barrier open, one open with a count, a stop that is pending, the greatest count and the one beyond it; and at the end of a
cycle counts of 0 with and without all there, of the arrivals and of one more. -/
theorem hyp_CrewBarriers : Issuing (stateOf wBar crew []) pod wBar crew ∧ crew.body.bar = none ∧
    Issuing (stateOf wBar (crewBar 3) []) pod wBar (crewBar 3) ∧ Granted crew [.ofS 2#6] ∧ Sound wBar pod [.ofS 2#6] ∧
    (wBar.word (.s 1) 0).toNat = 1024 ∧ (wBar.word (.s 2) 0).toNat > 1024 ∧ (crewBar 0).body.stops = [] ∧
    (let k := { crew with body := { crew.body with stops := [(2, ⟨.perm, 2, 0, 0, some 64, none⟩)] } }
     Issuing (stateOf wBar k []) pod wBar k ∧ k.body.stops.head? = some (2, ⟨.perm, 2, 0, 0, some 64, none⟩)) ∧
    met wThere (crewBar 0) ⟨0, 3, placePc, 0, some 0⟩ = true ∧ met wBar (crewBar 0) ⟨0, 1, placePc, 0, some 0⟩ = false ∧
    met wBar (crewBar 3) ⟨3, 3, placePc, 0, some 0⟩ = true ∧ met wBar (crewBar 3) ⟨4, 3, placePc, 0, some 0⟩ = false :=
  ⟨issuing_of (by decide +kernel), rfl, issuing_of (by decide +kernel), granted_of (by decide +kernel), sound_of (by decide +kernel),
    by decide +kernel, by decide +kernel, rfl, ⟨issuing_of (by decide +kernel), rfl⟩, by decide +kernel, by decide +kernel,
    by decide +kernel, by decide +kernel⟩

/-- Crew 1 waits to be joined: one thread in slot 1; crew 2 is another context's. -/
def joinState (w : Wave) (k1 : Crew) (m : Nat) : State :=
  (stateOf w crew []).modCore 0 fun c => { c with
    crews := [(0, crew), (1, k1), (2, { crew with ctx := 2 })]
    waves := [(0, w), (1, Wave.fresh 1 0 64 ((span 0 m).map fun l => (l, Thread.fresh (20 + l) l placePc)))] }
/-- s1 to s4 name crew 1, the own crew, crew 2 and the first number that is no crew. -/
def wJoin : Wave := waveOf [] [(1, 1), (3, 2), (4, 16)]
/-- Every crew-table entry is in use. -/
def fullState (w : Wave) : State :=
  (stateOf w crew []).modCore 0 fun c => { c with crews := (span 0 16).map fun i => (i, crew) }

/-- A pod of a thirty-third wave, which no run has. -/
def podOut : Pod := { pod with slot := 32 }
/-- Crew 1 fills the slots of the core. -/
def crowded : State :=
  { (stateOf wJoin crew []).modCore 0 fun c => { c with
      crews := [(0, crew), (1, crew)]
      waves := (32, wJoin) :: (span 0 32).map fun i => (i, Wave.fresh 1 0 64 ((span 0 32).map fun l => (l, Thread.fresh (32 * i + l) l placePc))) } with
    pod := some podOut }

theorem hyp_ChangesOfCrew : Issuing (joinState wJoin crew 1) pod wJoin crew ∧ Granted crew [.ofS 1#6] ∧ Sound wJoin pod [.ofS 1#6] ∧
    (let s := joinState wJoin crew 1
     let k2 := { crew with ctx := 2 }
     (s.crew? 0 2 = some k2 ∧ k2.ctx ≠ crew.ctx ∧ (wJoin.word (.s 3) 0).toNat = 2 ∧ 16 ≤ (wJoin.word (.s 4) 0).toNat) ∧
     ((wJoin.word (.s 2) 0).toNat = wJoin.crew ∧ s.crew? 0 0 = some crew ∧ (s.core 0).members 0 ≠ [] ∧ crew.phase ≠ .ended) ∧
     ((wJoin.word (.s 1) 0).toNat = 1 ∧ s.crew? 0 1 = some crew ∧ (s.core 0).members 1 ≠ [] ∧
      ¬((s.core 0).members 1).length + pod.lanes.length > 1024 ∧ pod.lanes.length ≤ ((s.core 0).homes 1 112 64).length ∧ crew.phase = .run) ∧
     (let k1 := { crew with phase := .shadow }
      (joinState wJoin k1 1).crew? 0 1 = some k1 ∧ k1.phase ≠ .run ∧ k1.phase ≠ .ended ∧ Issuing (joinState wJoin k1 1) pod wJoin crew) ∧
     (s.core 0).crews.find 3 = none ∧ (s.core 0).waveRoom 112 64 ≠ 0 ∧ CleanCr s pod wJoin crew [8, 9, 10, 11]) ∧
    (Issuing (fullState wJoin) pod wJoin crew ∧ ∀ i, i < 16 → (((fullState wJoin).core 0).crews.find i).isSome = true) ∧
    Issuing crowded podOut wJoin crew ∧ ((crowded.core 0).members 1).length + podOut.lanes.length > 1024 :=
  ⟨issuing_of (by decide +kernel), granted_of (by decide +kernel), sound_of (by decide +kernel),
    ⟨by decide +kernel, by decide +kernel, by decide +kernel, ⟨by decide +kernel, by decide +kernel, by decide +kernel, issuing_of (by decide +kernel)⟩,
      by decide +kernel, by decide +kernel, cleanCr_of (by decide +kernel)⟩,
    ⟨issuing_of (by decide +kernel), by decide +kernel⟩, issuing_of (by decide +kernel), by decide +kernel⟩

/-- Offsets: the last object of 256 KiB, one beyond, a misaligned one, and the first object; a count of 5. -/
def wObj : Wave := waveOf [] [(1, 0x3FFF0), (2, 0x40000), (3, 8), (5, 5)]
/-- A crew whose object at 0 expects 5 and has 0, and whose object at the end has 4 of 5. -/
def crewObj : Crew := { crew with spad := [(0, coded 5), (0xFFFC, coded 5), (0xFFFD, coded 4)] }

theorem hyp_BarrierObjectsAndRemoteWrites : Issuing (stateOf wObj crewObj []) pod wObj crewObj ∧
    Granted crewObj (.ofS 1#6 :: .ofS 5#6 :: .ofS 60#6 :: (Reg.ofS 60#6).group 4) ∧ Sound wObj pod [.ofS 1#6, .ofS 5#6] ∧
    Sound wObj pod [.ofS 2#6, .ofS 5#6] ∧ Sound wObj pod [.ofS 3#6, .ofS 5#6] ∧ crewObj.body.stops = [] ∧
    (wObj.word (.s 3) 0).toNat % 2 ^ 18 % 16 ≠ 0 ∧ ((wObj.word (.s 2) 0).toNat % 2 ^ 18 % 16 = 0 ∧ 2 ^ 18 ≤ (wObj.word (.s 2) 0).toNat) ∧
    ((wObj.word (.s 1) 0).toNat % 16 = 0 ∧ (wObj.word (.s 1) 0).toNat < crewObj.decl.lines * 128) ∧
    (∀ i, i < 4 → (crewObj.spadGet (0x3FFF0 + 4 * i)).ok = true) ∧
    ((crewObj.spadGet 0x3FFF4).data.toNat < (crewObj.spadGet 0x3FFF0).data.toNat ∧
      (crewObj.spadGet 0x3FFF0).data.toNat ≤ ((crewObj.spadGet 0x3FFF4).data + 5).toNat) ∧
    (crewObj.spadGet 16).data.toNat ≤ (crewObj.spadGet 20).data.toNat ∧ ¬(crewObj.spadGet 0).data.toNat ≤ (crewObj.spadGet 4).data.toNat ∧
    (let w := { wObj with threads := wObj.threads.alter 5 fun t => { t with hold := .bwait 16 60 } }
     let s := stateOf w crewObj []
     Issuing s pod w crewObj ∧ crewObj.phase = .run ∧ (s.ctx 1).stopping = false ∧ s.wave? 0 0 = some w ∧
      s.crew? 0 w.crew = some crewObj ∧ (w.threads.find 5).map (fun t => t.hold) = some (.bwait 16 60)) :=
  ⟨issuing_of (by decide +kernel), granted_of (by decide +kernel), sound_of (by decide +kernel), sound_of (by decide +kernel),
    sound_of (by decide +kernel), rfl, by decide +kernel, by decide +kernel, by decide +kernel, by decide +kernel,
    by decide +kernel, by decide +kernel, by decide +kernel, issuing_of (by decide +kernel), by decide +kernel⟩

/-- A crew of a cluster set of two, with its mate on core 3. -/
def crewSet : Crew := { crew with setn := 2, node := 9 }
/-- The mate. -/
def mate (pre : Option Nat) : Crew := { crewSet with cidx := 1, preempt := pre }
/-- The set on cores 0 and 3. -/
def setState (w : Wave) (pre : Option Nat) : State :=
  (stateOf w crewSet []).modCore 3 fun c => { c with crews := [(4, mate pre)] }
/-- Targets: v111 of slot 31 of core 3, the register beyond, and the own core. -/
def wRwr : Wave := waveOf [] [(1, 111 * 128 + 31 * 4 + 3), (2, 112 * 128 + 3), (3, 0)]

theorem hyp_BarrierObjectsAndRemoteWrites_writes : Issuing (setState wRwr none) pod wRwr crewSet ∧ Issuing (setState wRwr (some 1)) pod wRwr crewSet ∧
    Granted crewSet [.ofS 1#6, .ofV 63#6, .ofS 62#6, .s 63] ∧ Sound wRwr pod [.ofS 1#6] ∧ crewSet.body.stops = [] ∧
    111 < (wRwr.word (.s 2) 0).toNat / 128 ∧ (wRwr.word (.s 3) 0).toNat % 4 = 0 ∧
    ((wRwr.word (.s 1) 0).toNat < 2 ^ 14 ∧ (wRwr.word (.s 1) 0).toNat / 128 = 111 ∧ crewSet.setn ≠ 0 ∧
      ((setState wRwr none).setMember 3 1 9 0).isSome = true) ∧
    (setState wRwr none).setSaving 0 crewSet = false ∧ (setState wRwr (some 1)).setSaving 0 crewSet = true ∧ wRwr.nprem = 0 :=
  ⟨issuing_of (by decide +kernel), issuing_of (by decide +kernel), granted_of (by decide +kernel), sound_of (by decide +kernel), rfl,
    by decide +kernel, by decide +kernel, by decide +kernel, by decide +kernel, by decide +kernel, by decide +kernel⟩

/-- q0 holds exactly the pod's lanes. -/
def wGov (u : List (Nat × Nat)) : Wave := (waveOf [] u).setMask 0 ⟨5, 0⟩

theorem hyp_GovernedByQ0 : Issuing s0 pod w0 crew ∧ Granted crew [.ofS 15#4, .ofS 63#6, .ofS 62#6, .s 63, .ofS 63#6, .ofS 0#6] ∧
    7 < crew.decl.acc ∧ s0.matBusy pod w0.crew = false ∧ laneSet pod.lanes ≠ (w0.mask 0).member :=
  ⟨issuing_s0, granted_of (by decide +kernel), by decide +kernel, by decide +kernel, by decide +kernel⟩

/-- Tiles: m0 8×8 bf16 dense with rank 1; m1 a factored 8×8 bf16 tile of rank 1; m2 an 8×16 tile; m3 an f8 one with a result
format that is not a half; m4 a zero tile. -/
def tileA : TDesc := ⟨8, 8, 2, true, 1, false, 0, 0⟩
/-- A factored tile. -/
def tileF (r : Nat) : TDesc := ⟨8, 8, 2, false, r, false, 0, 0⟩
/-- Their registers; the quota and the bound on ranks. -/
def tiles (quota maxrank : Nat) : Crew := { crew with
  decl := { crew.decl with slabq := quota }
  body := { CrewBody.fresh with
    maxrank := maxrank
    mregs := [(0, ⟨tileA.toBits, padImage tileA ((span 0 32).map fun i => coded (BitVec.ofNat 32 (0x3F803F80 + i)))⟩),
      (1, ⟨(tileF 1).toBits, padImage (tileF 1) ((span 0 8).map fun _ => coded 0x40003F80)⟩),
      (2, ⟨({ tileA with cols := 16, rank := 0 } : TDesc).toBits, []⟩),
      (3, ⟨({ tileA with fmt := 3, rank := 0 } : TDesc).toBits, []⟩), (4, ⟨({ tileA with rank := 0 } : TDesc).toBits, []⟩)] } }
/-- A wave that q0 governs. -/
def wT : Wave := wGov [(2, 32), (3, 0x1D000020), (5, 128)]
/-- A state with the tiles. -/
def sT (quota maxrank : Nat) : State := stateOf wT (tiles quota maxrank) []

theorem atArray_of {s : State} {p : Pod} {w : Wave} {k : Crew} {crs ms : List Nat}
    (h : (decide (laneSet p.lanes = (w.mask 0).member) && !s.matBusy p w.crew && ([parQ 0].all fun n => !w.parity.contains n) &&
      (crs ++ ms.map fun n => 0x100 + n).all fun n => !s.crBad p w k n) = true) : AtArray s p w k crs ms := by
  simp only [Bool.and_eq_true, decide_eq_true_eq, Bool.not_eq_true'] at h
  obtain ⟨⟨⟨h1, h2⟩, h3⟩, h4⟩ := h
  exact ⟨h1, h2, clean_of h3, cleanCr_of h4⟩

/-- Every unit of a register's image passes its check. -/
def soundTile (k : Crew) (n : Nat) : Bool := ((k.body.mreg n).img.take (ceilDiv (k.body.tdesc n).size 4)).all fun u => u.ok

theorem hyp_TileArithmetic : Issuing (sT 4 1) pod wT (tiles 4 1) ∧ AtArray (sT 4 1) pod wT (tiles 4 1) [0x021] [4, 0, 1] ∧
    mmulForm (tiles 4 1 |>.body.tdesc 0) (tiles 4 1 |>.body.tdesc 1) (tiles 4 1 |>.body.tdesc 4) ≠ none ∧
    mmulForm (tiles 4 1 |>.body.tdesc 2) (tiles 4 1 |>.body.tdesc 0) (tiles 4 1 |>.body.tdesc 4) = none ∧
    (tiles 4 1).fits 4 (tileF 1) = true ∧ (tiles 2 1).fits 4 (tileF 1) = false ∧ soundTile (tiles 4 1) 0 = true ∧
    soundTile (tiles 4 1) 1 = true ∧ (1 + 1 > (tiles 4 1).body.maxrank ∧ (tileF 2).rank ≤ (tiles 4 2).body.maxrank) ∧
    Issuing (sT 2 1) pod wT (tiles 2 1) ∧ ((tiles 4 1).body.tdesc 1).dense = false :=
  ⟨issuing_of (by decide +kernel), atArray_of (by decide +kernel), by decide +kernel, by decide +kernel, by decide +kernel,
    by decide +kernel, by decide +kernel, by decide +kernel, by decide +kernel, issuing_of (by decide +kernel), by decide +kernel⟩

theorem hyp_TileMoves : Issuing (sT 4 0) pod wT (tiles 4 0) ∧ AtArray (sT 4 0) pod wT (tiles 4 0) [0x021] [1, 4] ∧
    (((tiles 4 0).body.tdesc 1).dense = false ∧ (tiles 4 0).body.maxrank < ((tiles 4 0).body.tdesc 1).rank) ∧
    (Issuing (sT 4 1) pod wT (tiles 4 1) ∧ ((tiles 4 1).body.tdesc 1).rank ≤ (tiles 4 1).body.maxrank ∧
      (tiles 4 1).fits 4 ((tiles 4 1).body.tdesc 1) = true) ∧ (tiles 2 1).fits 4 ((tiles 2 1).body.tdesc 1) = false ∧
    ((tiles 4 1).body.tdesc 0).dense = true ∧ 7 < (tiles 4 1).decl.acc ∧
    ({ tiles 4 1 with decl := { (tiles 4 1).decl with acc := 7 } } : Crew).decl.acc ≤ 7 ∧
    (∀ i, i < 8 → ∀ j, j < 8 → (((tiles 4 1).body.acc 7).at_ i j).ok = true) :=
  ⟨issuing_of (by decide +kernel), atArray_of (by decide +kernel), by decide +kernel, ⟨issuing_of (by decide +kernel), by decide +kernel⟩,
    by decide +kernel, by decide +kernel, by decide +kernel, by decide +kernel, by decide +kernel⟩

theorem hyp_MultiplyAccumulate : Issuing (sT 4 1) pod wT (tiles 4 1) ∧ AtArray (sT 4 1) pod wT (tiles 4 1) [] [0, 1] ∧ 7 < (tiles 4 1).decl.acc ∧
    wT.mma = none ∧ pod.klim = none ∧ mmaForm ((tiles 4 1).body.tdesc 2) ((tiles 4 1).body.tdesc 0) = none ∧
    mmaForm ((tiles 4 1).body.tdesc 0) ((tiles 4 1).body.tdesc 1) = some (16, 1) ∧
    mmaForm ((tiles 4 1).body.tdesc 0) ((tiles 4 1).body.tdesc 4) ≠ none ∧ soundTile (tiles 4 1) 0 = true ∧ soundTile (tiles 4 1) 1 = true ∧
    (∀ i, i < 8 → ∀ j, j < 8 → (((tiles 4 1).body.acc 7).at_ i j).ok = true) ∧
    (denseGrid tileA ((tiles 4 1).body.mreg 0).img).rows[7]?.isSome = true :=
  ⟨issuing_of (by decide +kernel), atArray_of (by decide +kernel), by decide +kernel, rfl, rfl, by decide +kernel, by decide +kernel,
    by decide +kernel, by decide +kernel, by decide +kernel, by decide +kernel, by decide +kernel⟩

/-- Shapes, groups, forms and grids of each kind; a k-step's values and their sums; a value that saturates. -/
theorem hyp_TileFunctions : (tileA.rows % 8 = 0 ∧ tileA.cols % 8 = 0) ∧ tileA.dense = true ∧ (tileF 2).dense = false ∧
    (pairGroup tileA.format tileA.format = some 16 ∧ pairGroup tileA.format .f8e4 = none) ∧
    ((tileA.format ∈ [Fmt.f16, .bf16] ∧ tileA.sc = false) ∧ (tileF 2).cols = tileA.rows ∧ ({ tileA with cols := 16 } : TDesc).cols ≠ tileA.rows ∧
      ¬({ tileA with fmt := 3 } : TDesc).format ∈ [Fmt.f16, .bf16]) ∧
    ((∀ a ∈ [tileA, tileF 2], ∀ b ∈ [tileA, tileF 3], (mmulForm a b tileA).isSome = true ∧ (mmulForm a b tileA).map (·.rank) ≠ some 0) ∧
      (tileF 2).rank < (tileF 3).rank ∧ (mmulForm tileA (tileF 0) tileA).map (·.rank) = some 0) ∧
    (∀ x ∈ [0, 0x3F800000, 0xBF800000, 0x7F800000, 0x7FC00000], ((flt32.decode x).cls = .zero ↔
      ((flt32.decode x).cls = .zero ∨ (flt32.decode x).cls = .finite) ∧ (flt32.decode x).m = 0)) ∧
    ((Fmt.bf16.decode 0x3F80).cls = .finite ∧ |(Fmt.bf16.decode 0x3F80).val * 2 ^ (3 : ℤ)| ≤ (flt32.decode 0x7F7FFFFF).val ∧
      (flt32.decode 0x7F7FFFFF).val < |(Fmt.bf16.decode 0x7F00).val * 2 ^ (9 : ℤ)|) := by decide +kernel

theorem hyp_Recompression : Issuing (sT 4 1) pod wT (tiles 4 1) ∧ AtArray (sT 4 1) pod wT (tiles 4 1) [0x020, 0x021] [1, 4] ∧
    ((tiles 4 1).body.tdesc 1).dense = false ∧ ((tiles 4 1).body.tdesc 0).dense = true ∧
    (((tiles 4 1).body.tdesc 4).format = .f16 ∨ ((tiles 4 1).body.tdesc 4).format = .bf16) ∧
    ¬(((tiles 4 1).body.tdesc 3).format = .f16 ∨ ((tiles 4 1).body.tdesc 3).format = .bf16) ∧ soundTile (tiles 4 1) 0 = true ∧
    soundTile (tiles 4 1) 1 = true ∧ (tiles 4 1).fits 4 (tileF 1) = true ∧ (tiles 2 1).fits 4 (tileF 1) = false :=
  ⟨issuing_of (by decide +kernel), atArray_of (by decide +kernel), by decide +kernel, by decide +kernel, by decide +kernel,
    by decide +kernel, by decide +kernel, by decide +kernel, by decide +kernel, by decide +kernel⟩

/-- A window of f8 data over the first block of the data page, tagged for its even blocks. -/
def winState : State := (sT 4 1).modDie 0 fun d => { d with
  win := [(0, ⟨BitVec.ofNat 64 (2 ^ 63 + 2 ^ 25), BitVec.ofNat 64 (2 ^ 25), BitVec.ofNat 64 (2 ^ 25 + 2 ^ 13), none⟩)] }
/-- m2 is an 8×32 tile there. -/
def crewWin : Crew := { tiles 16 1 with body := { (tiles 16 1).body with
  mregs := [(2, ⟨({ tileA with cols := 32, rank := 0 } : TDesc).toBits, []⟩)] } }
/-- The window's state with that crew. -/
def sWin : State := winState.modCore 0 fun c => { c with crews := [(0, crewWin)] }

/-- The translated rows of the window's tile: eight rows of 32 elements, 128 bytes apart. -/
def winPlaces : List Slotted :=
  match sWin.gather pod wT crewWin .read 4 8 (rowVas pod 0 128 8) with
  | (.ok l, _) => l
  | _ => []

theorem hyp_MatrixLoadsAndStores : Issuing (sT 4 1) pod wT (tiles 4 1) ∧ AtArray (sT 4 1) pod wT (tiles 4 1) [8, 0x021] [0] ∧ Granted (tiles 4 1) [.ofS 1#4, .ofS 2#6] ∧
    Sound wT pod [.ofS 1#4, .ofS 2#6] ∧ matBase wT (tiles 4 1) 0 (.ofS 1#4) = some 0 ∧
    (sT 4 1).throttled pod wT [(0, some 0)] = false ∧
    ((wT.word (.s 2) 0).toInt % 4 = 0 ∧ ((tiles 4 1).body.tdesc 0).dense = true ∧ (sT 4 1).peekWindow pod wT (tiles 4 1) 0 = some none ∧
      (tiles 4 1).fits 0 tileA = true) ∧
    (∃ l t, (sT 4 1).gather pod wT (tiles 4 1) .read 4 4 (rowVas pod 0 32 8) = (.ok l, t)) ∧
    ((((sT 4 1).tagsOf [⟨0, 0, .mem (2 ^ 25) 0 false false⟩]).1.all fun x => x == none) = true) ∧
    (Issuing sWin pod wT crewWin ∧ (wT.word (.s 5) 0).toInt = 128 ∧ sWin.peekWindow pod wT crewWin 0 = some (some (0, (sWin.die 0).win.getD 0 .empty)) ∧
      winPlaces.length = 64 ∧ ((sWin.tagsOf winPlaces).1.all fun x => x == some 0) = true ∧
      windowRows ((sWin.die 0).win.getD 0 .empty) 32 ((firstOf 8 winPlaces).map fun x => paOf x.at_) = true ∧
      crewWin.fits 2 ⟨8, 32, 3, true, 1, true, 0, 0⟩ = true) ∧
    (((tiles 4 1).body.tdesc 1).rank ≤ (tiles 4 1).body.maxrank ∧ (tiles 4 1).fits 1 (tileF 1) = true ∧
      places ((sT 4 1).gather pod wT (tiles 4 1) .read 4 8 [(0, some 0)]) = true) ∧
    region (wT.word (.s 3) 0) = (17, 8, 32) ∧ places ((sT 4 1).gather pod wT (tiles 4 1) .read 4 8 (rowVas pod 0 32 17)) = true :=
  ⟨issuing_of (by decide +kernel), atArray_of (by decide +kernel), granted_of (by decide +kernel), sound_of (by decide +kernel),
    by decide +kernel, by decide +kernel, by decide +kernel, places_of (by decide +kernel), by decide +kernel,
    ⟨issuing_of (by decide +kernel), by decide +kernel, by decide +kernel, by decide +kernel, by decide +kernel, by decide +kernel,
      by decide +kernel⟩,
    by decide +kernel, by decide +kernel, by decide +kernel⟩

theorem hyp_MatrixLoadsAndStores_stores : Issuing (sT 4 1) pod wT (tiles 4 1) ∧ AtArray (sT 4 1) pod wT (tiles 4 1) [8] [1] ∧ Granted (tiles 4 1) [.ofS 1#4, .ofS 2#6] ∧
    Sound wT pod [.ofS 1#4, .ofS 2#6] ∧ matBase wT (tiles 4 1) 0 (.ofS 1#4) = some 0 ∧ (sT 4 1).throttled pod wT [(0, some 0)] = false ∧
    (((tiles 4 1).body.tdesc 0).dense = true ∧ 8 * ((tiles 4 1).body.tdesc 0).format.width % 32 = 0 ∧
      places ((sT 4 1).gather pod wT (tiles 4 1) .write 4 4 (rowVas pod 0 32 8)) = true) ∧
    (((tiles 4 1).body.tdesc 1).dense = false ∧ places ((sT 4 1).gather pod wT (tiles 4 1) .write 4 8 [(0, some 0)]) = true) ∧
    region (wT.word (.s 3) 0) = (17, 8, 32) ∧ places ((sT 4 1).gather pod wT (tiles 4 1) .write 4 8 (rowVas pod 0 32 17)) = true :=
  ⟨issuing_of (by decide +kernel), atArray_of (by decide +kernel), granted_of (by decide +kernel), sound_of (by decide +kernel),
    by decide +kernel, by decide +kernel, by decide +kernel, by decide +kernel, by decide +kernel, by decide +kernel⟩

/-- A record of `n` words of 32 bits. -/
def rec32 (base n : Nat) : LRec := ⟨base, 1, 7, false, 0, 0, [n], [1]⟩

/-- The 64 words of two layout records of `n` words of 32 bits, from one address to another. -/
def recWords (src dst n : Nat) : List Word :=
  let one := fun (a : Nat) => (span 0 32).map fun i =>
    BitVec.ofNat 32 (if i = 0 then a else if i = 1 then a / 2 ^ 32 else if i = 2 then 0x701 else if i = 4 then n else if i = 13 then 1 else 0)
  one src ++ one dst

theorem index_rec32 {base n : Nat} {ix : List Nat} (h : (rec32 base n).Index ix) : ∃ i, i < n ∧ ix = [i] := by
  obtain ⟨h1, h2⟩ := h
  match ix, h1 with
  | [i], _ => exact ⟨i, h2 0 i rfl, rfl⟩

theorem addr_rec32 (base n i : Nat) : (rec32 base n).addr [i] = 8 * base + 32 * i := by
  simp [LRec.addr, rec32, LRec.width, LRec.format, Fmt.width, Fmt.ofCode]

theorem reads_rec32 {base n : Nat} {ws : List Word} (hb : base + 4 * n ≤ 2 ^ 58) (hn : n < 2 ^ 32)
    (h : (rec32 base n).base = (ws.getD 0 0).toNat + 2 ^ 32 * (ws.getD 1 0).toNat ∧ base < 2 ^ 58 ∧ ws.getD 2 0 = 0x701 ∧ ws.getD 3 0 = 0 ∧
      (∀ k, k < 9 → (ws.getD (4 + k) 0).toNat = (rec32 base n).sizes.getD k 0 ∧ (ws.getD (13 + k) 0).toInt = (rec32 base n).strides.getD k 0) ∧
      ∀ i, 22 ≤ i → i < 32 → (ws.getD i 0).toNat = 0) : (rec32 base n).Reads ws := by
  obtain ⟨h0, h1, h2, h3, h4, h5⟩ := h
  have e : ws[2]?.getD 0#32 = 1793#32 := by simpa using h2
  refine ⟨⟨h0, h1⟩, by simp [rec32, e], by simp [rec32, e], by simp [rec32, e], by simp [rec32, e], ⟨h3.symm, fun _ => rfl⟩, h4, h5,
    ?_, ⟨rfl, rfl, fun ix h => ?_⟩, fun ix h => ?_⟩
  · simp [rec32]; omega
  all_goals
    obtain ⟨i, hi, rfl⟩ := index_rec32 h
    rw [addr_rec32]
    omega

/-- s2, s3 name the records, s4 the object at 0, s6 the core 3. -/
def wX : Wave := wGov [(2, 0x80), (6, 8)]
/-- The records in memory, and `n` operations held. -/
def sX (src dst n : Nat) : State :=
  (stateOf wX crew (((recWords src dst 32).zip (span 0 64)).map fun x => (2 ^ 25 + 0x80 + 4 * x.2, x.1.toNat))).modCore 0 fun c => { c with
    ops := (span 0 n).map fun i => ⟨i, 5, 7, 9, 0, 0, 0, .copy, rec32 0 1, rec32 0 1, none, 0, [], false, 0, [], [], none, [], none⟩ }
/-- What their reading gives. -/
def gotX (src dst : Nat) : List (Nat × GUnit × Option Nat) :=
  match (sX src dst 0).gather pod wX crew .read 128 64 [(0, some 0x80)] with
  | (.ok l, t) => (t.loadAll pod wX crew false l).1
  | _ => []
/-- The wave with records that it keeps. -/
def wKept (dst : Nat) : Wave := { wX with recs := [(0, recWords 0x800 dst 512)] }

/-- Records read from memory and records kept, for global and for scratchpad destinations; records of no dimension; 63 and 64
operations held; receivers in the set, saved or not; a barrier offset that is misaligned, outside, and none; and an address of
records beyond the space. -/
theorem hyp_AsyncIssue : Issuing (sX 0x400 0x800 0) pod wX crew ∧ Issuing (sX 0x400 0x800 64) pod wX crew ∧
    Granted crew [.ofS 2#6, .s 3, .ofS 4#6, .ofS 6#6] ∧ Sound wX pod [.ofS 2#6, .s 3, .ofS 4#6, .ofS 6#6] ∧
    laneSet pod.lanes = (wX.mask 0).member ∧ Clean wX [parQ 0] ∧ wX.recs.find 0 = none ∧
    (∃ l t, (sX 0x400 0x800 0).gather pod wX crew .read 128 64 [(0, some 0x80)] = (.ok l, t)) ∧
    ((∀ x ∈ gotX 0x400 0x800, x.2.1.ok = true) ∧ (gotX 0x400 0x800).map (fun x => x.2.1.data) = recWords 0x400 0x800 32) ∧
    ((rec32 0x400 32).Reads ((recWords 0x400 0x800 32).take 32) ∧ (rec32 0x800 32).Reads ((recWords 0x400 0x800 32).drop 32) ∧
      XForm.copy.Takes (rec32 0x400 32) (rec32 0x800 32)) ∧
    (∀ src dst, ¬LRec.Reads src ((List.replicate 64 (0 : Word)).take 32) ∧ ¬LRec.Reads dst ((List.replicate 64 (0 : Word)).drop 32)) ∧
    (∀ dst ∈ [6 * 2 ^ 55], Issuing (setState (wKept dst) none) pod (wKept dst) crewSet ∧ (wKept dst).recs.find 0 = some (recWords 0x800 dst 512) ∧
      (recWords 0x800 dst 512).length = 64) ∧
    ((rec32 0x800 512).Reads ((recWords 0x800 (6 * 2 ^ 55) 512).take 32) ∧
      (rec32 (6 * 2 ^ 55) 512).Reads ((recWords 0x800 (6 * 2 ^ 55) 512).drop 32) ∧
      XForm.mcast.Takes (rec32 0x800 512) (rec32 (6 * 2 ^ 55) 512) ∧ XForm.exp.Takes (rec32 0x800 512) (rec32 (6 * 2 ^ 55) 512)) ∧
    (crewSet.setn ≠ 0 ∧ (∀ c, c < 4 → Nat.testBit 8 c = true → ((setState (wKept 0) none).setMember c 1 9 0).isSome = true) ∧
      (setState (wKept 0) none).setSaving 0 crewSet = false ∧ (setState (wKept 0) (some 1)).setSaving 0 crewSet = true) ∧
    ((sX 0x400 0x800 64).core 0).ops.length = 64 ∧ ((sX 0x400 0x800 63).core 0).ops.length < 64 ∧
    (let k := { crew with decl := { crew.decl with lines := 1 } }
     Issuing (stateOf wX k []) pod wX k ∧ 112 < k.decl.lines * 128 ∧ ¬128 < k.decl.lines * 128) ∧
    (2 ^ 58 ≤ ((waveOf [] [(3, 0x4000000)]).word (.s 2) 0).toNat + 2 ^ 32 * ((waveOf [] [(3, 0x4000000)]).word (.s 3) 0).toNat) := by
  have whole : ∀ b n, b % 4 = 0 → (rec32 b n).Whole := fun b n hb =>
    ⟨hb, rfl, rfl, by simp [rec32, LRec.width, LRec.format, Fmt.width, Fmt.ofCode], fun k h1 h2 => absurd (show k < 1 from h2) (by omega)⟩
  have inSpad : (rec32 (6 * 2 ^ 55) 512).InSpad := fun ix h => by
    obtain ⟨i, hi, rfl⟩ := index_rec32 h
    rw [addr_rec32]
    simp [rec32, LRec.width, LRec.format, Fmt.width, Fmt.ofCode]
    omega
  refine ⟨issuing_of (by decide +kernel), issuing_of (by decide +kernel), granted_of (by decide +kernel), sound_of (by decide +kernel),
    by decide +kernel, clean_of (by decide +kernel), by decide +kernel, places_of (by decide +kernel), by decide +kernel,
    ⟨reads_rec32 (by decide) (by decide) (by decide +kernel), reads_rec32 (by decide) (by decide) (by decide +kernel), whole _ _ (by decide),
      by decide, whole _ _ (by decide), rfl⟩,
    fun src dst => ⟨fun h => ?_, fun h => ?_⟩, fun dst hd => ?_,
    ⟨reads_rec32 (by decide) (by decide) (by decide +kernel), reads_rec32 (by decide) (by decide) (by decide +kernel),
      ⟨whole _ _ (by decide), by decide, whole _ _ (by decide), rfl, inSpad⟩,
      ⟨whole _ _ (by decide), by decide, rfl, rfl, rfl, by decide, by decide, by decide, fun ix h => ?_, rfl, inSpad⟩⟩,
    by decide +kernel, by decide +kernel, by decide +kernel, ⟨issuing_of (by decide +kernel), by decide⟩, by decide +kernel⟩
  · have := h.2.1
    simp at this
    omega
  · have := h.2.1
    simp at this
    omega
  · rw [List.mem_singleton.mp hd]
    exact ⟨issuing_of (by decide +kernel), by decide +kernel, by decide +kernel⟩
  · obtain ⟨i, hi, rfl⟩ := index_rec32 h
    rw [addr_rec32]
    omega

/-- Records with entries at the ends of the region: the last halfword, and the first address beyond. -/
def wEmit (hi : Nat) : Wave := waveOf [(0, 0, 0xFFFFFFFE), (1, 0, 0x27FFFFF), (0, 2, hi), (1, 2, 0x27FFFFF)] []

/-- Sixteen bins that wait for the room of a wave; the first, with the last halfword's entry, holds `n` records and does not wait
when `n` is not 0. -/
def fullBins (n : Nat) : Map Bin :=
  (0, ⟨0, BitVec.ofNat 58 (5 * 2 ^ 55 - 2), (span 0 n).map fun _ => [], 0, 0, decide (n = 0), 0⟩) ::
    (span 1 15).map fun i => (i, ⟨0, BitVec.ofNat 58 (4 * 2 ^ 55 + 2 * i), [[]], 0, 0, true, 0⟩)

/-- Sixteen bins of `n` records each, none of them flushed. -/
def bins16 (n : Nat) : Map Bin :=
  (span 0 16).map fun i => (i, ⟨0, BitVec.ofNat 58 (4 * 2 ^ 55 + 2 * i), (span 0 n).map fun _ => [], 0, 0, false, 0⟩)

/-- Records that all bins take, that none takes, and that one takes; a bin that is full, bins that must be flushed first. -/
theorem hyp_ThreadsExitAndEmit : Issuing s0 pod w0 crew ∧ Issuing (stateOf (wEmit 0xFFFFFFFE) crew []) pod (wEmit 0xFFFFFFFE) crew ∧
    Granted crew ((Reg.ofV 0#6).group 16) ∧ Sound (wEmit 0xFFFFFFFE) pod [.v 0, .v 1] ∧
    (pod.lanes.find? fun l => decide (((wEmit 0xFFFFFFFF).word (.v 0) l).toNat % 2 = 1)) = some 2 ∧
    (∀ l ∈ pod.lanes, ((wEmit 0xFFFFFFFE).word (.v 0) l).toNat + 2 ^ 32 * ((wEmit 0xFFFFFFFE).word (.v 1) l).toNat = 5 * 2 ^ 55 - 2) ∧
    (let recs := pod.lanes.map fun l => (l, BitVec.ofNat 58 (5 * 2 ^ 55 - 2), ([] : List GUnit))
     (s0.takeRecords 0 0 crew recs []).1 = pod.lanes ∧ (s0.takeRecords 0 0 crew recs (fullBins 0)).1 = [] ∧
      (s0.takeRecords 0 0 crew recs (fullBins 31)).1 = [0]) ∧
    (∀ e ∈ w0.threads, (match e.2.hold with | .emitted _ => false | _ => true) = true) ∧
    (let w := { wEmit 0xFFFFFFFE with threads := threads.alter 5 fun t => { t with hold := .emitted 1 } }
     Issuing (stateOf w crew []) pod w crew ∧ (w.threads.find 5).map (fun t => t.hold) = some (.emitted 1) ∧ 1#32 &&& ~~~ laneSet [0] = 0 ∧
      CleanCr (stateOf w crew []) pod w crew [0x001]) ∧
    ((fullBins 31).all (fun e => e.2.recs.length < 32) = true ∧ (bins16 31).all (fun e => !e.2.flush) = true ∧
      (s0.takeRecords 0 0 crew [(0, placePc, [])] (bins16 31)).1 = [] ∧ (fullBins 31).any (fun e => e.2.flush) = true) :=
  ⟨issuing_s0, issuing_of (by decide +kernel), granted_of (by decide +kernel), sound_of (by decide +kernel), by decide +kernel,
    by decide +kernel, by decide +kernel, by decide +kernel,
    ⟨issuing_of (by decide +kernel), by decide +kernel, by decide +kernel, cleanCr_of (by decide +kernel)⟩, by decide +kernel⟩

/-- Lengths 65,536 and 65,537. -/
def wNopre : Wave := wGov [(1, 65536), (2, 65537)]

theorem hyp_RegionsOpen : Issuing (stateOf wNopre crew []) pod wNopre crew ∧ Granted crew [.ofS 1#6] ∧ Sound wNopre pod [.ofS 1#6] ∧
    Sound wNopre pod [.ofS 2#6] ∧ laneSet pod.lanes = (wNopre.mask 0).member ∧ (wNopre.word (.s 2) 0).toNat > 65536 ∧
    (wNopre.word (.s 1) 0).toNat ≤ 65536 ∧ CleanCr (stateOf wNopre crew []) pod wNopre crew [0x041] ∧ Clean wNopre [parQ 0] :=
  ⟨issuing_of (by decide +kernel), granted_of (by decide +kernel), sound_of (by decide +kernel), sound_of (by decide +kernel),
    by decide +kernel, by decide +kernel, by decide +kernel, cleanCr_of (by decide +kernel), clean_of (by decide +kernel)⟩

theorem hyp_CounterAdd : Issuing s0 pod w0 crew ∧ Granted crew ((Reg.ofV 60#6).group 4 ++ ((Reg.ofV 1#6).group 4 ++ (Reg.ofS 62#6).group 2)) ∧
    Sound w0 pod ((Reg.ofV 1#6).group 4 ++ (Reg.ofS 62#6).group 2) :=
  ⟨issuing_s0, granted_of (by decide +kernel), sound_of (by decide +kernel)⟩

theorem hyp_NumbersAndPlaces : (Issuing s0 pod w0 crew ∧
    Granted crew ((Reg.ofV 60#6).group 4 ++ ((Reg.ofV 1#6).group 4 ++ (Reg.ofS 62#6).group 2)) ∧
    Sound w0 pod ((Reg.ofV 1#6).group 4 ++ (Reg.ofS 62#6).group 2)) ∧ Granted crew [.ofS 62#6, .s 63] :=
  ⟨hyp_CounterAdd, granted_of (by decide +kernel)⟩

/-- v1 of lane 2 and s5 hold units of bad code; p3 of lane 2, q11, the newest and the oldest frame of lane 2 and ARRIVE have bad
parity; q0 holds the pod's lanes. -/
def wBad : Wave := { ((w0.setMask 0 ⟨5, 0⟩).set (.v 1) 2 ⟨1, 0, false⟩).set (.s 5) 0 ⟨1, 0, true⟩ with
  threads := threads.alter 2 fun t => { t with stack := frames 16, depth := 20 }
  parity := [parP 3 2, parQ 11, parFrame 2 19, parFrame 2 4, parCr 0x010] }
/-- A crew of 4 vector and 8 uniform registers and no accumulator. -/
def crewSmall : Crew := { crew with decl := ⟨4, 8, 0, 0, 0, 1⟩ }

/-- Registers beyond the allocation, operands of bad code, and each kind of register of bad parity. -/
theorem hyp_ChecksBeforeEffects : Issuing (stateOf wBad crew []) pod wBad crew ∧ Issuing (stateOf wBad crewSmall []) pod wBad crewSmall ∧
    crewSmall.has (.of7 4) = false ∧ crewSmall.has (.of7 120) = false ∧ Granted crew [.of7 3, .of7 2, .of7 1] ∧
    (pod.lanes.find? fun l => [Reg.of7 2, .of7 1].any fun r => !(wBad.get r l).ok) = some 2 ∧
    ([Reg.of7 2, .of7 1].find? fun r => !(wBad.get r 2).ok) = some (.of7 1) ∧
    (pod.lanes.find? fun l => [Reg.ofS 5#6].any fun r => !(wBad.get r l).ok) = some 0 ∧ crewSmall.decl.acc ≤ 0 ∧ 7 < crew.decl.acc ∧
    (let s := stateOf wBad crew []
     (wBad.mask 11).arrived = 0 ∧ CleanCr s pod wBad crew [0x001, 8] ∧ (s.core 0).throttling = false ∧
      AtArray s pod wBad crew [8, 0x021] [31] ∧ s.crBad pod wBad crew 0x010 = true) ∧
    ((pod.lanes.find? fun l => [3].any fun n => wBad.parity.contains (parP n l)) = some 2 ∧
      (pod.lanes.find? fun l => [3, 0].any fun n => wBad.parity.contains (parP n l)) = some 2 ∧
      wBad.parity.contains (parQ 11) = true ∧ (pod.lanes.find? fun l => decide ((wBad.thread l).depth ≠ 0) &&
        wBad.parity.contains (parFrame l ((wBad.thread l).depth - 1))) = some 2 ∧
      (pod.lanes.find? fun l => decide (16 ≤ (wBad.thread l).stack.length) &&
        wBad.parity.contains (parFrame l ((wBad.thread l).depth - 16))) = some 2) ∧
    (let k := { crew with body := { crew.body with parity := [0x000, 8] } }
     Issuing (stateOf w0 k []) pod w0 k ∧ (stateOf w0 k []).crBad pod w0 k 0x000 = true ∧ (stateOf w0 k []).crBad pod w0 k 8 = true) ∧
    (let w := { wBad with trapcause := 0x8001, parity := [parQ 0, parCr 0x030] }
     Issuing (stateOf w crew []) pod w crew ∧ w.parity.contains (parQ 0) = true ∧ laneSet pod.lanes = (w.mask 0).member ∧
      w.inHandler = true ∧ w.parity.contains (parCr 0x030) = true) ∧
    (let s := s0.modCore 0 fun c => { c with parity := [0x041] }
     Issuing s pod w0 crew ∧ s.crBad pod w0 crew 0x041 = true) ∧ Granted crew [.ofS 62#6, .s 63] :=
  ⟨issuing_of (by decide +kernel), issuing_of (by decide +kernel), by decide +kernel, by decide +kernel, granted_of (by decide +kernel),
    by decide +kernel, by decide +kernel, by decide +kernel, by decide +kernel, by decide +kernel,
    ⟨by decide +kernel, cleanCr_of (by decide +kernel), by decide +kernel, atArray_of (by decide +kernel), by decide +kernel⟩,
    by decide +kernel, ⟨issuing_of (by decide +kernel), by decide +kernel⟩, ⟨issuing_of (by decide +kernel), by decide +kernel⟩,
    ⟨issuing_of (by decide +kernel), by decide +kernel⟩, granted_of (by decide +kernel)⟩

/-- Handler states: enabled, entered by some lanes, enabled or not. -/
def wTrap (eh cause : BitVec 64) (entered : BitVec 32) : Wave := { w0 with ehbase := eh, trapcause := cause, entered := entered }

theorem hyp_TrapsAndReturns : crew.replay = none ∧
    (Issuing (stateOf (wTrap 0x201 0 0) crew []) pod (wTrap 0x201 0 0) crew ∧ (wTrap 0x201 0 0).inHandler = false ∧
      (wTrap 0x201 0 0).ehbase.getLsbD 0 = true) ∧
    (Issuing (stateOf (wTrap 0x201 0x8001 4) crew []) pod (wTrap 0x201 0x8001 4) crew ∧ (wTrap 0x201 0x8001 4).inHandler = true ∧
      ∃ l ∈ pod.lanes, (wTrap 0x201 0x8001 4).entered.getLsbD l = true) ∧
    (Issuing (stateOf (wTrap 0x201 0x8001 0x20) crew []) pod (wTrap 0x201 0x8001 0x20) crew ∧
      ¬∃ l ∈ pod.lanes, (wTrap 0x201 0x8001 0x20).entered.getLsbD l = true) ∧
    (Issuing (stateOf (wTrap 0 0 0) crew []) pod (wTrap 0 0 0) crew ∧ (wTrap 0 0 0).inHandler = false ∧
      ¬(wTrap 0 0 0).ehbase.getLsbD 0 = true) :=
  ⟨rfl, ⟨issuing_of (by decide +kernel), by decide +kernel⟩, ⟨issuing_of (by decide +kernel), by decide +kernel⟩,
    ⟨issuing_of (by decide +kernel), by decide +kernel⟩, ⟨issuing_of (by decide +kernel), by decide +kernel⟩⟩

theorem hyp_FailedChecks : (Issuing s0 pod w0 crew ∧ crew.replay = none ∧ crew.retry = false ∧ crew.escaped = false ∧
    (s0.ctx crew.ctx).stopping = false) ∧
    (∀ c ∈ ([⟨1, 0, 0, 0x58, false, none, false⟩, ⟨0x0A, 0xFF, 31, 0, true, some (2 ^ 25), true⟩] : List Chk),
      c.lane < 32 ∧ c.site < 256 ∧ c.reg < 256) ∧
    (∀ k ∈ [{ crew with retry := true, lastBad := some 64 }, { crew with escaped := true }], issues (stateOf w0 k []) pod w0 k = true) :=
  ⟨⟨issuing_s0, rfl, rfl, rfl, by decide +kernel⟩, by decide +kernel, by decide +kernel⟩

theorem hyp_TrapsAndReturns_instructions : (Issuing s0 pod w0 crew ∧ w0.inHandler = false) ∧
    Issuing (stateOf (wTrap 0x201 0x8001 5) crew []) pod (wTrap 0x201 0x8001 5) crew ∧ (wTrap 0x201 0x8001 5).inHandler = true ∧
    Clean (wTrap 0x201 0x8001 5) [parCr 0x030, parCr 0x031] :=
  ⟨⟨issuing_s0, by decide +kernel⟩, issuing_of (by decide +kernel), by decide +kernel, clean_of (by decide +kernel)⟩

/-! ### States that meet the hypotheses of the statements about steps of the device -/

/-- A step of the device is about to happen. -/
def act (s : State) (a : Arg) : State := { s with arg := a }

/-- An operation of crew 0 on channel 1. -/
def op (f : XForm) (src n : Nat) (started : Bool) : AsyncOp :=
  ⟨4, 0, 1, 0, 0, 10, 1, f, rec32 src n, rec32 (6 * 2 ^ 55) n, none, 2, [], started, 0, [], [], none, [], none⟩
/-- The state that holds it; a page outside the buffered one has no translation, and no table either when `tables` is
false. -/
def sOp (o : AsyncOp) (tables : Bool) : State :=
  let s := (stateOf w0 crew [(2 ^ 25 + 0x400, 77)]).modCore 0 fun c => { c with ops := [o] }
  if tables then { s with osm := { s.osm with firewall := [(0, 0x8001)] } } else s

/-- What a piece's reading and transforming come to: 0 units, 1 a stop of the transform, 2 an open record, 3 a stop of the
reading, 4 a wait. -/
def engKind (s : State) (o : AsyncOp) : Nat :=
  match s.sourceOf 0 o crew (pieceOf o 0) fun s => s.pieceTo 0 o crew with
  | (.ok (_, xs, l, o), s) => match (s.transformed o (pieceOf o 0) xs l).1 with
    | .ok _ => 0
    | _ => 1
  | (.wait _ _, _) => 2
  | (.stop _, _) => 3
  | (.later, _) => 4

/-- A piece for the mate on core 3, and a remote write for the wave of core 0. -/
def arrival (ctx : Nat) : Arrival := ⟨0, 0, 4, 1, ctx, 9, 0, [(0, coded 5, none)], none, none⟩
/-- The piece that completes the object at 16, which expects four bytes. -/
def arrivalBar : Arrival := { arrival 1 with bar := some 16 }
/-- The deposit. -/
def deposit : Deposit := ⟨3, 4, 1, 9, 0, 0, 111, [(0, coded 6), (31, coded 7)]⟩
/-- They are on their way. -/
def sWay (ctx : Nat) : State := ((setState wRwr none).modCore 3 fun c => { c with arrivals := [arrival ctx] }).modCore 0 fun c =>
  { c with deposits := [deposit] }

theorem hyp_EngineSteps :
    (let s := act (sOp (op .copy 0x400 1 false) false) (.engineOpDispatch 0 4)
     (s.core 0).op? 4 = some (op .copy 0x400 1 false) ∧ (s.core 0).servable (op .copy 0x400 1 false) = true ∧
      (op .copy 0x400 1 false).dst.count ≠ 0) ∧
    (let s := act (sOp (op .copy 0x400 0 false) false) (.engineOpDispatch 0 4)
     (s.core 0).op? 4 = some (op .copy 0x400 0 false) ∧ (s.core 0).servable (op .copy 0x400 0 false) = true ∧
      (op .copy 0x400 0 false).dst.count = 0) ∧
    (∀ x ∈ [(op .copy 0x400 33 true, false, 0), (op .mcast 0x400 33 true, false, 0), (op .copy (2 ^ 26) 1 true, false, 3),
        (op .copy (2 ^ 26) 1 true, true, 2)],
      let s := act (sOp x.1 x.2.1) (.enginePiece 0 4)
      (s.core 0).op? 4 = some x.1 ∧ s.crew? 0 0 = some crew ∧ x.1.started = true ∧ x.1.wait = none ∧ x.1.dead = none ∧
        x.1.g < x.1.dst.granules ∧ x.1.bar = none ∧ x.1.chan < crew.wp.length ∧ engKind s x.1 = x.2.2) ∧
    (let o := { op .cvt 0x400 2 true with src := { rec32 0x400 2 with fmt := 0 }, dst := { rec32 (6 * 2 ^ 55) 1 with fmt := 1, sizes := [2] } }
     let s := (act (sOp o false) (.enginePiece 0 4)).hbmPut (2 ^ 25 + 0x404) ⟨2, 0, false⟩
     (s.core 0).op? 4 = some o ∧ o.g < o.dst.granules ∧ engKind s o = 3) ∧
    (let o := { op .exp 0x800 512 true with got := (span 0 32).map fun i => (512 + i, (⟨2, 0, false⟩, none)) }
     let s := act (sOp o false) (.enginePiece 0 4)
     (s.core 0).op? 4 = some o ∧ o.g < o.dst.granules ∧ engKind s o = 1) ∧
    (let gs := pieceOf (op .copy 0x400 33 true) 0
     gs.length = 32 ∧ (gs.map fun i => (0 + (rec32 (6 * 2 ^ 55) 33).granule i - (rec32 (6 * 2 ^ 55) 33).granule 0) / 4).Nodup) ∧
    (let s := act (sWay 2) (.multicastArrival 3 0)
     (s.core 3).arrivals = [arrival 2] ∧ s.setMember 3 2 9 0 = none) ∧
    (let s := act (sWay 1) (.multicastArrival 3 0)
     (s.core 3).arrivals = [arrival 1] ∧ s.setMember 3 1 9 0 = some (4, mate none) ∧ s.crew? 3 4 = some (mate none) ∧
      (arrival 1).bar = none ∧ (arrival 1).from_ ≠ 3 ∧ (((s.core 0).op? 4).map fun x => x.dead) = none ∧
      ((arrival 1).units.map fun x => x.1 / 4).Nodup) ∧
    (let s := (sWay 1).modCore 3 fun c => { c with arrivals := [arrivalBar] }
     let s1 := ((s.modCore 3 fun c => { c with arrivals := [] }).modCrew 3 4 fun k => { k with escaped := true }).takePiece 3 4 arrivalBar.units
     (s.core 3).arrivals = [arrivalBar] ∧ (s1.objectArrive 3 4 16 (unitBytes (arrivalBar.units.map fun x => x.2.1)) arrivalBar.last).1 = none) ∧
    (let first := { arrival 1 with from_ := 1 }
     let s := act ((sWay 1).modCore 3 fun c => { c with arrivals := [first, arrival 1] }) (.multicastArrival 3 1)
     (s.core 3).arrivals[1]? = some (arrival 1) ∧ ∀ b ∈ (s.core 3).arrivals.take 1, b.from_ ≠ (arrival 1).from_ ∨ b.op ≠ (arrival 1).op) ∧
    (let k := { mate none with spad := [(4, ⟨1, 0, false⟩)] }
     let s := (sWay 1).modCore 3 fun c => { c with arrivals := [arrivalBar], crews := [(4, k)] }
     let s1 := ((s.modCore 3 fun c => { c with arrivals := [] }).modCrew 3 4 fun k => { k with escaped := true }).takePiece 3 4 arrivalBar.units
     (s1.objectArrive 3 4 16 (unitBytes (arrivalBar.units.map fun x => x.2.1)) arrivalBar.last).1.isSome = true) ∧
    ((mate none).decl.lines * 128 ≤ 2 ^ 18 ∧ ({ arrival 1 with bar := some (2 ^ 18) } : Arrival).bar = some (2 ^ 18)) ∧
    (let s := act (sWay 1) (.remoteWriteDeposit 0 0)
     s.setMember 0 2 9 0 = none ∧ s.wave? 0 1 = none ∧ wRwr.crew ≠ 1) ∧
    (let s := act (sWay 1) (.remoteWriteDeposit 0 0)
     (s.core 0).deposits[0]? = some deposit ∧ s.wave? 0 0 = some wRwr ∧ s.setMember 0 1 9 0 = some (0, crewSet) ∧ wRwr.crew = 0 ∧
      111 < crewSet.decl.vregs ∧ (∀ x ∈ deposit.units, x.1 < 32) ∧ (deposit.units.map fun x => x.1).Nodup) :=
  ⟨by decide +kernel, by decide +kernel, by decide +kernel, by decide +kernel, by decide +kernel, by decide +kernel, by decide +kernel,
    by decide +kernel, by decide +kernel, by decide +kernel, by decide +kernel, by decide +kernel, by decide +kernel, by decide +kernel⟩

/-- Page tables of context 1 in region 0, data in region 2, the supervisor's region 5; a translation of page 0. -/
def sTab : State :=
  let s := bindState w0
  { s with osm := { s.osm with firewall := [(0, 0x8001), (2, 0x4001), (5, 0x4000)] } }

/-- What a translation answers: its kind, and its place, cause, or condition and level. -/
def outKind : Xlat → Nat × Nat
  | .spad o => (0, o)
  | .mem pa _ _ _ => (1, pa)
  | .fault c => (2, c.code)
  | .replay _ c l => (3, 16 * c + l)

/-- The same with the least private windows and nothing buffered. -/
def sWalk : State :=
  (sTab.modCore 0 fun c => { c with tlb := [] }).modCtx 1 fun c => { c with desc := BitVec.ofNat 512 (14 * 2 ^ 384) }
/-- Who translates. -/
def agent : Agent := laneAgent pod w0 crew 0

/-- What a walk of the page of address 0 comes to, with an entry in its last table. -/
def walkKind (pte : Nat) : Nat × Nat :=
  match ((sWalk.hbmPut 0xC000 (coded (BitVec.ofNat 32 pte))).walkFrom 1 0 0 4).1 with
  | .leaf p _ l => (p, l)
  | .replay c l => (c, 16 + l)
  | .fault c => (c.code, 32)

/-- Each region with the ends of its bounds; buffered translations, walks to a leaf and to an entry that is not there; entries that
are reserved, point on from the last level, or fail their check; tables and frames of others. -/
theorem hyp_TranslationOutcomes :
    (agent.bytes = 2 ^ 18 ∧ agent.tid = some 10 ∧ (sWalk.ctx 1).privsz = 14 ∧ (sWalk.ctx 1).privb = 0 ∧ (sWalk.ctx 1).groot = 0) ∧
    [(0, Access.fetch), (7 * 2 ^ 55, .read), (6 * 2 ^ 55 + 2 ^ 18 - 1, .read), (6 * 2 ^ 55 + 2 ^ 18, .write), (5 * 2 ^ 55 + 2 ^ 14 - 4, .read),
      (5 * 2 ^ 55 + 2 ^ 14, .read), (4 * 2 ^ 55, .write), (0, .read), (0, .write), (2 ^ 36, .read)].map (fun x =>
        outKind (sWalk.translate agent x.1 x.2).1) =
      [(2, 6), (2, 5), (0, 2 ^ 18 - 1), (2, 6), (3, 19), (2, 5), (2, 6), (1, 0x4000000), (1, 0x4000000), (3, 17)] ∧
    outKind (sWalk.translate { agent with tid := none } (5 * 2 ^ 55) .read).1 = (2, 5) ∧
    ((sTab.tlbFind agent none 0).isSome = true ∧ outKind (sTab.translate agent 0 .write).1 = (1, 2 ^ 25) ∧ sWalk.tlbFind agent none 0 = none) ∧
    ([0x4000063, 0, 0x4000062, 0x40C1, 0x1063, 0x4000801].map walkKind) =
      [(0x4000063, 3), (1, 16 + 3), (1, 16 + 3), (5, 32), (5, 32), (5, 32)] ∧
    (((sWalk.hbmPut 0xC000 ⟨0x4000063, 0, false⟩).homeGets 0xC000 2).1.all (fun u => u.ok) = false) ∧
    (sWalk.inTable 0 0 1 = true ∧ sWalk.inTable 0x4000000 0 1 = false) ∧
    (sWalk.frameOk 1 0x4000000 16384 = true ∧ sWalk.frameOk 1 0x8000000 16384 = false ∧ sWalk.frameOk 1 (2 ^ 30) 16384 = false ∧
      sWalk.frameOk 0 (2 ^ 30) 16384 = true ∧ sWalk.frameOk 1 (2 ^ 41 - 16384) 16384 = false ∧ sWalk.frameOk 1 (2 ^ 47) 16384 = false) := by
  decide +kernel

/-- An open record of context 1, numbered or not yet. -/
def record (seq : Option (BitVec 32)) : FaultRec := ⟨3, 0, 1, 1, .read, 16384, 0, 0, 1, 3, [(0, 0, 2)], seq⟩
/-- A ring of 16 records in the supervisor's region, enabled, `n` of them waiting. -/
def sRing (n : Nat) (seq : Option (BitVec 32)) : State :=
  { sTab.modCtx 1 fun c => { c with frcfg := BitVec.ofNat 64 (5 * 2 ^ 25 + 4 * 16 + 1), frWr := BitVec.ofNat 32 n, replaySeq := 7 } with
    recs := [record seq] }

theorem hyp_TranslationSteps :
    (∃ x, (act sTab (.pageWalk 0 1 0x2000000#58 .read)).translate { unitAgent 1 with core := 0 } 0x2000000 .read = x ∧
      (match x.1 with | .replay _ _ _ => true | _ => false) = true) ∧
    (match ((act sTab (.pageWalk 192 1 0#58 .read)).translate { unitAgent 1 with core := 0xFFFF } 0 .read).1 with
      | .mem _ _ _ _ => true
      | _ => false) = true ∧
    (∀ n ∈ [0, 15], let s := act (sRing n none) (.faultRecordWrite 3)
      (s.recs.find? fun r => r.uid == 3 && r.seq.isNone) = some (record none) ∧ (s.ctx 1).frcfg.getLsbD 0 = true ∧
        ((s.ctx 1).frWr - (s.ctx 1).frRd).toNat ≠ 2 ^ bvf (s.ctx 1).frcfg 4 4) ∧
    (sTab.inOwned (5 * 2 ^ 25) 0 = true ∧ sTab.inOwned (2 * 2 ^ 25) 0 = false) ∧
    ((((sRing 15 none).ctx 1).frWr - ((sRing 15 none).ctx 1).frRd).toNat < (((sRing 15 none).ctx 1).frWr - 16#32).toNat ∧
      (((sRing 15 none).ctx 1).frWr - 15#32).toNat ≤ (((sRing 15 none).ctx 1).frWr - ((sRing 15 none).ctx 1).frRd).toNat) ∧
    ((act (sRing 1 (some 6)) (.replayRetry 1 0 6)).answered 1 0 6 = some (record (some 6)) ∧
      (act (sRing 1 (some 6)) (.replayFatal 1 0 7)).answered 1 0 7 = none) ∧
    ((bvf (0x30#64) 4 4 < 4 ∧ bvf (0x40#64) 4 4 = 4 ∧ bvf (0xC0#64) 4 4 = 12 ∧ 12 < bvf (0xD0#64) 4 4) ∧ ∀ n ∈ [3, 4, 12, 13],
      (act sTab (.frcfgWrite 1 (BitVec.ofNat 64 (5 * 2 ^ 25 + 16 * n + 1)))).inOwned (bvf (BitVec.ofNat 64 (5 * 2 ^ 25 + 16 * n + 1)) 12 36 * 4096) 0 = true) ∧
    (bvf (0#64) 62 2 = 0 ∧ bvf (3#64 <<< 62) 62 2 = 3) ∧
    (sTab.sup.xlinvc = none ∧ bvf (1#64 <<< 58) 58 6 ≠ 0 ∧ bvf (0x4000#64) 0 14 = 0 ∧ bvf (1#64) 0 14 ≠ 0 ∧
      (1#64 <<< 45).getLsbD 45 = true ∧ bvf (1#64 <<< 45) 48 4 = 0 ∧ bvf (1#64 <<< 45) 1 43 = 0 ∧ bvf (2#64) 1 43 ≠ 0) ∧
    ({ sTab with sup := { sTab.sup with xlinvc := some 1 } } : State).sup.xlinvc.isSome = true :=
  ⟨⟨_, rfl, by decide +kernel⟩, by decide +kernel, by decide +kernel, by decide +kernel, by decide +kernel, by decide +kernel,
    by decide +kernel, by decide +kernel, by decide +kernel, by decide +kernel⟩

/-- A dirty line at home, a parked block whose growth record waits, a conversion in progress, a window that changes, a
cluster asked to fuse and one asked to unfuse. -/
def sMem : State :=
  let s := (sTab.homePut 0x4000000 (coded 5) none).modCtl 3 fun c => { c with
    overflow := [(2, ⟨9, [], 5, true⟩)], czcmd := some (0x8000000 / 2048, 0) }
  let s := s.modDie 0 fun d => { d with win := [(31, ⟨0, 0, 0, some (0, 0, 0)⟩)] }
  let s := (s.sendDown 0 .fuse).sendDown 1 .unfuse
  { s with sup := { s.sup with grcfg := BitVec.ofNat 64 (5 * 2 ^ 25 + 4 * 16 + 1), grWr := 15 } }

/-- A block of the data region. -/
def blkU : Nat := 0x8000000 / 2048
/-- Words that differ in their high bytes alone, so that no group of the codec shortens them much. -/
def noise (i : Nat) : GUnit := coded (BitVec.ofNat 32 ((i % 255 + 1) * 2 ^ 24))
/-- A state with nothing cached and a metadata byte for the block. -/
def sMeta (m : Nat) : State :=
  let s : State := { sTab with ctls := [] }
  s.hbmPut (s.metaPa blkU / 4 * 4) (coded (BitVec.ofNat 32 (m * 256 ^ (s.metaPa blkU % 4))))
/-- A controller with a full overflow buffer. -/
def noRoom (s : State) : State :=
  { s with ctls := [(ctlOfPa (blkU * 2048), { Ctl.empty with overflow := (span 0 64).map fun i => (i, ⟨i, [], 5, false⟩) })] }
/-- The units of a block that needs two sectors: the first of each of 16 groups fails its check, unlike the group before. -/
def usX : List GUnit := (span 0 512).map fun i => if i % 16 = 0 ∧ i < 256 then ⟨0, BitVec.ofNat 8 (i / 16 % 2 + 1), false⟩ else .zero
/-- They lie plainly in the stacks. -/
def sPlain : State :=
  { sMeta 0 with side := (sMeta 0).side.filter (fun c => decide (c.1 < blkU * 512)) ++
      (span 0 16).map (fun k => (blkU * 512 + 16 * k, BitVec.ofNat 8 (k % 2 + 1))) ++ (sMeta 0).side.filter fun c => decide (blkU * 512 ≤ c.1) }
/-- They are parked in entry 5. -/
def sParkedX : State :=
  { sMeta 1 with ctls := [(ctlOfPa (blkU * 2048), { Ctl.empty with overflow := [(5, ⟨blkU, usX, 2, false⟩)] })] }
/-- A block in one sector whose dirty line makes it need two, with no entry free. -/
def sStuck : State :=
  { noRoom ((span 0 72).foldl (fun s i => s.hbmPut (blkU * 2048 + 4 * i) (if i = 0 then coded 0x3F else if i = 1 then .zero else noise i))
      (sMeta 0x11)) with
    l2 := [(blkU * 16 + 15, ⟨(span 1000 32).map noise, 0xFFFFFFFF, false, none⟩)] }

theorem ctl_one {s : State} {k : Nat} {c : Ctl} (h : s.ctls = [(k, c)]) (hc : c.mcache = []) (n : Nat) : (s.ctl n).mcache = [] := by
  unfold State.ctl Map.getD Map.find
  rw [h]
  simp only []
  split
  · exact hc
  · rfl

theorem plain_units : sPlain.blockUnits blkU = usX := by decide +kernel
theorem usX_size : blockSize usX = 2 := by decide +kernel

/-- A write-back that must wait; a plain block with a clean home slice and sound, failing, marked and poisoned units; a write-back of a
dirty line; an entry whose A and D are swapped, and one that has changed; blocks that need nothing, and two sectors, with an
entry of the overflow buffer free, with none, and parked. -/
theorem hyp_UnitOperations : (sStuck.MemOk ∧ ∀ n, (sStuck.ctl n).mcache = []) ∧ (sStuck.l2Back (blkU * 16 + 15)).isNone = true ∧
    ((sMeta 0).MemOk ∧ (sMeta 0).ctls = [] ∧ (sMeta 0).l2 = [] ∧ (sMeta 0).Plain (blkU * 2048) ∧ blkU * 2048 < hbmSize ∧
      (∀ i, i < 2 → ((sMeta 0).hbmUnit (blkU * 2048 + 4 * i)).ok = true ∧
        (sMeta 0).poisoned (blkU * 2048 + 4 * i) ((sMeta 0).hbmUnit (blkU * 2048 + 4 * i)) = false)) ∧
    (AtomOp.addN32.apply 0 [5] = some 5 ∧ AtomOp.casB32.apply 0 [1, 2] = none ∧ ([coded 1, ⟨1, 0, false⟩].zipIdx.find? fun x => !x.1.ok) = some (⟨1, 0, false⟩, 1)) ∧
    (let bad : GUnit := ⟨1, 0, false⟩
     let s := (sMeta 0).hbmPut (blkU * 2048) bad
     let marked := { sMeta 0 with marks := [blkU * 512] }
     let dead := (sMeta 0).hbmPut (blkU * 2048) ⟨0, 0xFF, false⟩
     (s.hbmUnit (blkU * 2048) = bad ∧ bad.ok = false ∧ s.poisoned (blkU * 2048) bad = false) ∧
      (marked.hbmUnit (blkU * 2048)).ue = true ∧
      (dead.modDie 0 fun d => { d with poison := [blkU * 2048] }).poisoned (blkU * 2048) ⟨0, 0xFF, false⟩ = true) ∧
    (let s := { sMeta 0 with l2 := [(blkU * 16, ⟨(span 0 32).map noise, 3, false, none⟩)] }
     s.Plain (128 * (blkU * 16)) ∧ (s.l2.find (blkU * 16)).isSome = true) ∧
    ((0xC000 : Nat) % 8 = 0 ∧ ((sTab.home 0xC004).data ++ (sTab.home 0xC000).data = 0x4000063#64) ∧ (0x4000063#64 ||| 0x100 ≠ 0x4000063#64)) ∧
    (blkU < 2 ^ 28 ∧ ((sMeta 0).metaUnit blkU).ok = true ∧ (sMeta 0).metaPa blkU / 2048 ≠ blkU ∧ ((sMeta 0).blockUnits blkU).length = 512 ∧
      blockSize ((sMeta 0).blockUnits blkU) = 0) ∧
    (sPlain.MemOk ∧ sPlain.ctls = [] ∧ (sPlain.metaUnit blkU).ok = true ∧ blockSize (sPlain.blockUnits blkU) = 2 ∧
      sPlain.parked? blkU = none ∧ ∃ i, i < 64 ∧ (sPlain.ctl (ctlOfPa (blkU * 2048))).overflow.find i = none) ∧
    ((noRoom sPlain).blockUnits blkU = usX ∧ ∀ i, i < 64 → (((noRoom sPlain).ctl (ctlOfPa (blkU * 2048))).overflow.find i).isSome = true) ∧
    (sParkedX.parked? blkU = some (5, ⟨blkU, usX, 2, false⟩) ∧ sParkedX.blockUnits blkU = usX ∧ blockSize usX = 2) :=
  ⟨⟨⟨by decide +kernel, by decide +kernel⟩, ctl_one rfl rfl⟩, by decide +kernel,
    ⟨⟨by decide +kernel, by decide +kernel⟩, by decide +kernel, by decide +kernel, ⟨by decide +kernel, by decide +kernel⟩, by decide +kernel,
      by decide +kernel⟩,
    by decide +kernel, by decide +kernel, ⟨⟨by decide +kernel, by decide +kernel⟩, by decide +kernel⟩, by decide +kernel, by decide +kernel,
    ⟨⟨by decide +kernel, by decide +kernel⟩, by decide +kernel, by decide +kernel, plain_units ▸ usX_size, by decide +kernel, 0, by decide +kernel⟩,
    ⟨by decide +kernel, by decide +kernel⟩, ⟨by decide +kernel, by decide +kernel, usX_size⟩⟩

theorem hyp_MemorySteps :
    ((2 ^ 39 - 8 < hbmSize ∧ (2 ^ 39 - 8) % (4 * AtomOp.casB64.words) = 0) ∧ ([coded 1, coded 2, coded 3, coded 4]).length =
      AtomOp.casB64.operands) ∧
    (sMem.l2.find 5 = none ∧ 5 < hbmSize / 128) ∧
    ((sMem.l2.find (0x4000000 / 128)).isSome = true ∧ ((sMem.l2.find (0x4000000 / 128)).map fun l => l.dirty) = some 1 ∧
      (sMem.l2Back (0x4000000 / 128)).isSome = true) ∧
    ((sMem.ctl 3).overflow.find 2 = some ⟨9, [], 5, true⟩ ∧ sMem.sup.grcfg.getLsbD 0 = true ∧
      (sMem.sup.grWr - sMem.sup.grRd).toNat ≠ 2 ^ bvf sMem.sup.grcfg 4 4) ∧
    ((sMem.sup.grWr - sMem.sup.grRd).toNat < (sMem.sup.grWr - 16#32).toNat ∧
      (sMem.sup.grWr - 15#32).toNat ≤ (sMem.sup.grWr - sMem.sup.grRd).toNat) ∧
    (8 < bvf (9#64 <<< 60) 60 4 ∧ (sMem.ctl 3).czcmd.isSome = true ∧ ctlOfPa 0x800 ≠ 0 ∧
      ¬(8 < bvf (8#64 <<< 60) 60 4 ∨ ctlOfPa 0 ≠ 0 ∨ (sMem.ctl 0).czcmd.isSome = true)) ∧
    ((sMem.ctl 3).czcmd = some (0x8000000 / 2048, 0) ∧ (sMem.convertBlock (0x8000000 / 2048) 0).isSome = true) ∧
    (sMem.headDown 0 = some .fuse ∧ sMem.headDown 1 = some .unfuse ∧ (sMem.clusterCtxs 0).length ≤ 1) ∧
    ((sMem.die 0).win.find 31 = some ⟨0, 0, 0, some (0, 0, 0)⟩ ∧ sMem.windowLines 0 31 ⟨0, 0, 0, none⟩ = []) ∧
    ((2 ^ 39 - 16384) % 16384 = 0 ∧ (∀ b, b < 8 → sMem.metaPa ((2 ^ 39 - 16384) / 2048 + b) / 16384 ≠ (2 ^ 39 - 16384) / 16384) ∧
      sMem.coded? ((2 ^ 39 - 16384) / 2048) = false) ∧
    ((match (sMem.farAtomic 0x4000000 .addN32 [coded 5]).1 with | .later => false | _ => true) = true ∧
      (sMem.poisonFar 0x4000000).isSome = true ∧ (sMem.die 0).poison.length < 1024) := by decide +kernel

/-- A frame for the device, and one of another type. -/
def hdr : Hdr := ⟨Config.mac Config.serial, 0x88B5, 0, 0⟩
/-- The other. -/
def hdrOther : Hdr := ⟨Config.mac Config.serial, 0x88B4, 0, 0⟩

/-- A running board in provisioned and deployed life, one without power, one that is off, and one that wipes. -/
def sBoard (p : Bool) (b : Boot) (wiping : Bool) : State :=
  { State.reset with board := { State.reset.board with power := p, boot := b, wiping := wiping, life := .deployed } }

theorem hyp_BoardSteps :
    (act (sBoard false .waitWake false) .powerOn).board.power = false ∧ (act (sBoard true .run false) .powerLoss).board.power = true ∧
    ((act (sBoard true .run true) (.thermalTrip 3 115)).board.power = true ∧ (sBoard true .run true).board.boot ≠ .off) ∧
    (1800000 < 1800001 ∧ ¬1800000 < 1800000 ∧ 105 < 106 ∧ 1000 < ((sBoard true .run false).die 3).mhz) ∧
    (((sBoard true .run false).modDie 3 fun d => { d with mhz := 2400 }).die 3).mhz < 2500 ∧
    ((63#8).toNat ≤ 63 ∧ (sBoard true .waitWake false).board.boot = .waitWake ∧ (sBoard true .boot false).board.boot ≠ .waitWake) ∧
    (sBoard true .boot false).board.wiping = false ∧ ((sBoard true .boot false).image (imageNo .pewter)).next ≠ 5 ∧
    ((sBoard true .run true).board.wiping = true ∧ (7#16).toNat > 6 ∧ (0#16).toNat = 0) ∧
    (legalMove .deployed .returned .owner = true ∧ (sBoard true .run false).board.fuses < 64 ∧
      legalMove .deployed .manufacture .owner = false) ∧ (sBoard true .run false).runsImage (imageNo .pewter) = false := by decide +kernel

theorem hyp_BoardFrames : hdrOurs hdr = true ∧ hdrOurs hdrOther = false := by simp [hdrOurs, hdr, hdrOther]


/-! ### States that meet the hypotheses of the statements about the machine -/

theorem hyp_EncodingsDecode : (Instr.ldB32 1 0 0x73 5).wf = true ∧ (encode (.ldB32 1 0 0x73 5)).isSome = true ∧ encode .scrub = none := by
  decide

theorem hyp_WordsHaveOneMeaning : decode [0x74, 0x48, 0xFF] = .ok (.faddF32H 9 3) 2 := by decide

theorem hyp_CodeDetectsErrors : (coded 0x3F800000).syn = 0 ∧ (1#40 <<< 8 = 1#40 <<< 8 ||| 1#40 <<< 8) ∧
    ((span 0 40).filter fun i => (7#40 <<< 30).getLsbD i).length % 2 = 1 := by decide +kernel

/-- The pod of `pod` is about to issue the instruction at its PC, and a step of the device is about to happen. -/
def sNext (w : Word) (a : Arg) : State :=
  let s := act (stateOf w0 crew []) a
  { (s.hbmPut 0 (coded w)) with pod := none, agenda := match a with | .none => [.issue 0 0 none []] | _ => [.event a] }

/-- Whether a step answers a next state. -/
def goes : Res → Bool
  | .next _ => true
  | _ => false

theorem next_of {r : Res} (h : goes r = true) : ∃ t, r = .next t := by
  cases r with
  | next t => exact ⟨t, rfl⟩
  | fault f => cases h
  | refused f => cases h

/-- A worked word of the spec at the PC, fetched through the instruction cache or the home slice; a device step; a failing unit. -/
theorem hyp_StepRunsDecoded :
    (let s := sNext 0x01234567 (.powerLoss)
     s.agenda = [.event .powerLoss] ∧ (Arg.powerLoss).instr = some .powerLoss ∧ s.alive = true ∧ s.runs .powerLoss = true ∧
      goes (exec .powerLoss { s.expire with agenda := [], arg := .powerLoss }) = true) ∧
    (let s := { sNext 0 .none with agenda := [] }
     s.expire.pick = some (0, 0) ∧ ({ s with ported := [0] } : State).expire.pick = none) ∧
    (let s := (sNext 0 .none).hbmPut (placePa + 4096) (coded 0x000088B9)
     let s1 := { s.expire with agenda := [], ported := [portOf 0 0] }
     let s2 := s1.reselected 0 0
     s.agenda = [.issue 0 0 none []] ∧ s.alive = true ∧ s.expire.ported = [] ∧ s.expire.portPick 0 (0 / 8) [] = some 0 ∧
      s2.queueFull 0 = false ∧ (s1.podOf 0 0 none).isSome = true ∧ (s2.wave? 0 0).isSome = true ∧ s2.crew? 0 0 = some crew ∧
      (match (s2.fetch pod crew).1 with | .code bs => decide (decode bs = .ok (.brCond 8 0 1) 4) | _ => false) = true ∧
      (match (s2.translate ⟨0, 0, 1, none, 0, none, 0⟩ placePc.toNat .fetch).1 with
        | .mem pa _ _ _ => decide (pa = placePa + 4096) && (s2.home pa).ok
        | _ => false) = true) ∧
    (let s := (sNext 0 .none).hbmPut (placePa + 4096) ⟨0x000088B9, 0, false⟩
     let s2 := ({ s.expire with agenda := [] } : State).reselected 0 0
     (match (s2.fetch pod crew).1 with | .trap t => decide (t.cause = .chk) | _ => false) = true ∧
      (s2.home (placePa + 4096)).ok = false) := by decide +kernel

theorem hyp_StepKeepsMemOk : (sNext 0x000088B9 .none).MemOk ∧ ∃ t, step (sNext 0x000088B9 .none) = .next t :=
  ⟨⟨by decide +kernel, by decide +kernel⟩, next_of (by decide +kernel)⟩

/-- A descriptor of context 1: page tables in region 0, the least private window, valid. -/
def desc1 : BitVec 512 := BitVec.ofNat 512 (14 * 2 ^ 384 + 2 ^ 394)
/-- Its scheduling descriptor: an event ring of 2 ^ `log` records at VA 0x2000, `cnt` records to an interrupt, 1 µs to the timer and
to an idle slot, the read count at VA 0x3000. -/
def sched1 (log policy cnt : Nat) : BitVec 512 :=
  BitVec.ofNat 512 (0x2000 + log * 2 ^ 64 + policy * 2 ^ 72 + cnt * 2 ^ 80 + 3 * 2 ^ 88 + 2 ^ 96 + 2 ^ 112 + 0x3000 * 2 ^ 128)

/-- A provisioned device with context 1 installed on cluster 0 and region 3 its save area; words in the first page of its global
region. -/
def sSys (policy : Nat) (page : List (Nat × Nat)) : State :=
  let s := sTab.modCtx 1 fun c => { c with desc := desc1, sched := sched1 6 policy 2, partition := [0, 1, 2, 3] }
  page.foldl (fun s x => s.hbmPut (0x4000000 + x.1) (coded (BitVec.ofNat 32 x.2)))
    { s with
      cores := [], osm := { s.osm with firewall := s.osm.firewall.set 3 0xB001 }
      board := { s.board with life := .provisioned, wiping := false, boot := .run }, pod := none, cycle := 10000000 }

/-- Page tables of text: the root of die `d` at 0x10000 + 0x14000 × `d` maps the text region to region 8 of the die, and the side
table to region 9. -/
def textTables : List (Nat × Nat) := (span 0 4).flatMap fun d =>
  let r := 0x10000 + 0x14000 * d
  let entry := fun (a v : Nat) => ([(a, v % 2 ^ 32), (a + 4, v / 2 ^ 32)] : List (Nat × Nat))
  entry (r + 8 * 1024) (r + 0x4001) ++ entry (r + 8 * 1152) (r + 0xC001) ++ entry (r + 0x4000) (r + 0x8001) ++
    entry (r + 0x8000) (d * 2 ^ 37 + 8 * 2 ^ 25 + 0xA3) ++ entry (r + 0xC000) (r + 0x10001) ++
    entry (r + 0x10000) (d * 2 ^ 37 + 9 * 2 ^ 25 + 0x23)
/-- The state of a device that runs, with those tables. -/
def sText : State :=
  let s := sSys 0 []
  let s := { s with osm := { s.osm with firewall := (span 0 4).foldl (fun m d =>
    (m.set (4096 * d + 8) 0x4001).set (4096 * d + 9) 0x4001) s.osm.firewall } }
  textTables.foldl (fun s x => s.hbmPut x.1 (coded (BitVec.ofNat 32 x.2))) s

/-- An object of two words of text at offset 8, with one lazy link to its first instruction. -/
def obj (classes : List Nat) : RynilObject :=
  ⟨classes, 8, [0x80B9, 0x80B9], [1], (span 0 4).map fun d => d * 2 ^ 37 + 8 * 2 ^ 25, (span 0 4).map fun d => d * 2 ^ 37 + 9 * 2 ^ 25,
    (span 0 4).map fun d => BitVec.ofNat 64 (0x10000 + 0x14000 * d), none, [(0, 0x200000000000008)], 0x4000, 0x1000, 0x4100000⟩

/-- A scheduling of queue 7: its bytes for the table. -/
def queueBits (z : Nat) : BitVec 512 := BitVec.ofNat 512 (6 * 2 ^ 64 + 2 ^ 72 + z * 2 ^ 76 + 2 ^ 80)

theorem hyp_InstallSteps :
    (let s := sSys 0 []
     let v := BitVec.ofNat 512 (14 * 2 ^ 384)
     (s.board.life = .provisioned ∧ s.board.wiping = false ∧ s.descOk 1 v = true ∧ s.descOk 2 v = false) ∧
     ((fwKind 0x4001 ≠ 2 ∧ fwSub 0x7001 ≠ 0 ∧ (fwKind 0xB001 = 2) ∧ s.ringIn 9 = false ∧ fwKind (s.fw 9) = 0) ∧
      fwKind (s.fw 2) ≠ 0 ∧ fwOwner (s.fw 2) ≠ fwOwner 0x4002 ∧ (sRing 1 none).ringIn 5 = true ∧ 16383 < 16384) ∧
     (bvf (0x1000#16) 12 3 ≠ 0 ∧ bvf (0x8001#16) 12 3 = 0) ∧
     (s.inTable 0xC008 0 1 = true ∧ s.leafOk 1 0x4008063 3 = true ∧ s.leafOk 1 0x6000063 3 = false ∧ s.leafOk 1 0x4000063 2 = true) ∧
     (s.windowOk 0 31 ⟨1#64 <<< 63 ||| 1#64 <<< 48 ||| 0x4000000#64, 0x4000000, 0x4100000, none⟩ = true ∧
      s.windowOk 0 31 ⟨1#64 <<< 63 ||| 1#64 <<< 48 ||| 0x4000000#64, 0x4000000, 0x4000000, none⟩ = false) ∧
     (Window.fieldsOk ⟨0, 0x4000000, 0x4100000, none⟩ = true ∧ Window.fieldsOk ⟨7#64 <<< 60, 0, 0, none⟩ = false ∧
      Window.fieldsOk ⟨1#64 <<< 63 ||| 1#64 <<< 48 ||| 0x4000000#64, 0x4000000, 0x4100000, none⟩ = true) ∧
     (s.sealGood 1 0 = true ∧ s.sealGood 1 1 = true ∧ s.sealGood 1 64 = false) ∧
     (sText.objectOk 1 (obj [0, 9]) = true ∧ sText.objectOk 1 (obj [1]) = false ∧ s.objectOk 1 (obj [0]) = false) ∧
     s.mapped 65535 = none ∧ queueOk (queueBits 0) = true ∧ queueOk (queueBits 1) = false ∧
     (s.osm.qown.getD 7 0 = 0 ∧ bvf (queueBits 0) 80 16 = 1) ∧
     (bvf (BitVec.ofNat 512 65536) 0 17 = 65536 ∧ ¬65536 < 65536 ∧ 65536 < bvf (BitVec.ofNat 512 65537) 0 17) ∧
     (bvf (BitVec.ofNat 512 (2 ^ 57 - 1)) 0 58 < 2 ^ 57 ∧ 2 ^ 57 ≤ bvf (BitVec.ofNat 512 (2 ^ 57)) 0 58) ∧
     (bvf (BitVec.ofNat 512 (20 * 128)) 7 5 = 20 ∧ bvf (BitVec.ofNat 512 (21 * 128)) 7 5 = 21) ∧
     (bvf (BitVec.ofNat 512 (2 ^ 36)) 0 30 = 0 ∧ ¬bvf (BitVec.ofNat 512 (2 ^ 37)) 0 64 < 2 ^ 37)) ∧
    (let s := (sSys 0 []).modCtx 1 fun c => { c with links := [(0, 0)] }
     ((s.ctx 1).links.find? fun e => e.1 == 0) ≠ none ∧ ((s.ctx 1).links.find? fun e => e.1 == 1) = none ∧
      s.entryAddr 1 ((s.ctx 1).lzb + 16384 * 0) (s.ctx 1).groot 3 = .found 0xC000) := by decide +kernel

theorem hyp_OutsideSteps :
    (63 ≠ s0.board.domain ∧ (PeerReq.load 1).good (2 ^ 39 - 4) = true ∧ 2 ^ 39 - 4 + (PeerReq.load 1).bytes ≤ hbmSize ∧
      (PeerReq.store [coded 1, ⟨2, 0, false⟩]).good 8 = true ∧ (PeerReq.atom .casB64 [coded 1, coded 2, coded 3, coded 4] true).good 8 = true) ∧
    ((PeerReq.store [coded 1]).good (2 ^ 39) = true ∧ (PeerReq.reg (.czcmd 0)).good (2 ^ 40 - 8) = true ∧
      sMem.reaches 0 (2 ^ 39) (.store [coded 1]) = true ∧ sMem.reaches 0 (2 ^ 40 - 8) (.reg (.czcmd 0)) = true ∧
      sMem.reaches 0 (2 ^ 40 - 8) (.reg (.ecscnt 0)) = false ∧ sMem.reaches 73 (2 ^ 40 - 8) (.reg (.ecscnt 0)) = true ∧
      sMem.reaches 23 (5 * 2 ^ 25) (.load 4) = true ∧ sMem.reaches 24 (4 * 2 ^ 25) (.load 4) = false ∧
      sMem.reaches 73 (4 * 2 ^ 25) (.load 4) = true ∧ 4 * 2 ^ 25 + (PeerReq.load 4).bytes ≤ hbmSize) ∧
    (match (sMem.farAtomic 0x4000000 .addN32 [coded 5]).1 with | .later => false | _ => true) = true ∧
    (let s := (stateOf w0 crew []).hbmPut 0x104 ⟨2, 0, false⟩
     ((span 0 2).map fun i => s.home (0x100 + 4 * i)).findIdx? (fun g => !g.ok) = some 1 ∧
      ([s.home 0x100].all fun g => g.ok) = true) ∧
    ((s0.core 0).condemned = false ∧ s0.crew? 0 0 = some crew) ∧
    ((s0.sendUp 0 (.condemned 0)).cluster 0).up.flight = [.condemned 0] ∧
    (let l := ((s0.sendUp 0 (.condemned 0)).modCluster 0 fun c => c.modLink .toHazel fun l => { l with fails := 2, back := 1 }).cluster 0
     (l.link .toHazel).flight ≠ [] ∧ (l.link .toHazel).fails = 2 ∧ 0 < (l.link .toHazel).back ∧ (l.link .toHazel).waiting = []) ∧
    ((Link.send ⟨0, [.fuse], [], 1, 0⟩ .unfuse).waiting ≠ []) ∧
    (0x800 < hbmSize ∧ ctlOfPa 0x4000000 < 8) ∧
    (let c := ({ Ctl.empty with uncorr := 65535, newUncorr := 1 } : Ctl)
     min 65535 (c.uncorr + c.newUncorr) = c.uncorr ∧ c.uncorr ≠ 0) := by decide +kernel

/-- Packet 0 of queue 7's ring at VA 0, its node record at 0x1000, and the word at 0x3008 that holds 6. -/
def sQueue (policy : Nat) (x : Slot) (pkt rec_ : List Nat) : State :=
  let words := fun (a : Nat) (l : List Nat) => l.zipIdx.map fun w => (a + 4 * w.2, w.1)
  let s := sSys policy (words 0 pkt ++ words 0x1000 rec_ ++ [(0x3008, 6)])
  { s with hazel := { s.hazel with queues := [(7, ⟨0, 6, true, false, 0, 1, 0, 0, 0⟩)], slots := [(4, x)], notes := [7] } }
/-- A slot that has read `r` of `w` packets. -/
def slotAt (r w : Nat) (st : SlotState) : Slot := ⟨7, r, w, 0, st, none⟩
/-- The state in which the signal word of queue 7 reads `w`. -/
def signalled (w : Nat) (s : State) : State := s.hbmPut (2 ^ 30 + 16384 * 7) (coded (BitVec.ofNat 32 w))

/-- A node packet for node 5 with the record at VA 0x1000 and no signal. -/
def pktNode : List Nat := [1, 5, 0x1000, 0, 0x55667788, 0x11223344]
/-- A wait for the word at `va` to be at least `v`. -/
def pktWait (va v : Nat) : List Nat := [2, 0, va, 0, v, 0, 2 + 6 * 256]
/-- A signal packet that adds 77 to the word at `va`. -/
def pktSignal (va : Nat) : List Nat := [3, 0, va, 0, 77, 0, 1 + 6 * 256]
/-- The record of 40 threads in crews of 32; its parts as a declaration. -/
def recWordsOf (vregs : Nat) : List Nat := [0x1000, 0x2000000, 40, 32 + 3 * 65536, vregs * 256 + 65536, 1, 5, 0, 0, 0, 1]
/-- Its fields. -/
def nrec : NodeRec := ⟨0x200000000001000, 40, 32, 3, 0, 0, 2, 1, 0, 1, 0, 5, 0, 0, 1, []⟩

/-- What a slot's next packet is: 0 error, 1 empty, 2 node, 3 wait, 4 signal, 5 none. -/
def pktKind (s : State) (i : Nat) : Nat :=
  match s.nextPacket i with
  | some (_, _, none, _) => 0
  | some (_, _, some .empty, _) => 1
  | some (_, _, some (.node _ _), _) => 2
  | some (_, _, some (.wait _ _ _ _), _) => 3
  | some (_, _, some (.signal _), _) => 4
  | none => 5
/-- What a unit's reading comes to: 0 words, 1 an open record, 2 a fault. -/
def readKind : Except Xlat (List Word) × State → Nat
  | (.ok _, _) => 0
  | (.error (.replay _ _ _), _) => 1
  | (.error _, _) => 2

/-- What a signal's write meets. -/
def signalKind (s : State) (p : Packet) : Nat := match (s.signalWrite 1 0 p).1 with
  | .done => 0
  | .wait _ _ => 1
  | .fatal => 2
  | .later => 3

theorem hyp_SignalSteps :
    (let s := sQueue 0 (slotAt 0 1 .idle) pktNode []
     s.hazel.notes.contains 7 = true ∧ (s.queue 7).valid = true ∧ (s.queue 7).stopped = false ∧ (s.mapped 7) = some (4, slotAt 0 1 .idle) ∧
      (signalled 64 s).widx 7 = (64, ((signalled 64 s).widx 7).2) ∧ (s.queue 7).logsize = 6 ∧ (s.queue 8).valid = false) ∧
    (let s := signalled 1 { sQueue 0 (slotAt 0 1 .idle) pktNode [] with hazel := { (sQueue 0 (slotAt 0 1 .idle) pktNode []).hazel with slots := [] } }
     s.mapped 7 = none ∧ (s.widx 7).1 = 1 ∧ s.freeSlot = some 0 ∧ (s.queue 7).read < 1) ∧
    ((slotAt 0 1 .idle).read + 2 ^ 6 < 65 ∧ ((sQueue 0 (slotAt 0 1 .idle) pktNode []).queue 7).logsize = 6) ∧
    (let s := sQueue 0 (slotAt 1 1 .idle) pktNode []
     s.hazel.slots.find 4 = some (slotAt 1 1 .idle) ∧ 0 + (s.ctx (s.queue 7).ctx).idleus * 2500 ≤ s.cycle) ∧
    ([[9], [0], pktNode, pktWait 0x3008 6, pktSignal 0x3010].map fun l => pktKind (sQueue 0 (slotAt 0 1 .idle) l (recWordsOf 2)) 4) =
      [0, 1, 2, 3, 4] ∧
    ([(recWordsOf 2, true), (recWordsOf 0, false)].all fun x =>
      let s := sQueue 0 (slotAt 0 1 .idle) pktNode x.1
      match s.unitRead 1 0x1000 64 with
      | (.ok ws, _) => s.poolRoom 1 && (nodeZeros (bytesOf ws) && (nodeRecOf (bytesOf ws)).good) == x.2
      | _ => false) = true ∧
    ([(pktWait 0x3008 6, 0x3008), (pktWait 0x3008 7, 0x3008), (pktWait 0x4008 7, 0x4008)].map fun x =>
      readKind ((sQueue 1 (slotAt 0 1 .idle) x.1 []).unitRead 1 x.2 2)) = [0, 0, 1] ∧
    (condHolds 2 6#64 6 = true ∧ condHolds 2 6#64 7 = false ∧ (sQueue 0 (slotAt 0 1 .idle) [] []).hazel.remap.contains 7 = false) ∧
    ([0x3010, 0x4010].map fun a => signalKind (sQueue 0 (slotAt 0 1 .idle) (pktSignal a) []) ⟨0, 0, a, 77, 1, 6⟩) = [0, 1] ∧
    ((sQueue 0 (slotAt 0 1 .idle) pktNode []).ctx 1).ringDead = none ∧
    (let s := { sQueue 1 (slotAt 0 1 .idle) (pktWait 0x3008 6) [] with hazel := { (sQueue 1 (slotAt 0 1 .idle) [] []).hazel with
        slots := [], waits := [⟨7, 0x3008, 0x4003008, 6, 2, 6, true, true, none⟩] } }
     (s.hazel.waits.find? fun y => y.queue == 7 && y.watched && y.hit) = some ⟨7, 0x3008, 0x4003008, 6, 2, 6, true, true, none⟩ ∧
      readKind (s.unitRead (s.queue 7).ctx 0x3008 2) = 0 ∧ s.held? (.wait 7) = none) := by decide +kernel

/-- A node of two crews in the pool, and the state that holds it. -/
def nodeOf (r : NodeRec) (sigva placed : Nat) (stopped signal : Bool) : Node :=
  ⟨9, 1, 7, 0, ⟨5, 0x1122334455667788, sigva, 77, 0, 6⟩, r, [], some 100, placed, [], 0, 0, 0, 0, false, 0, signal, stopped, none⟩
/-- Crew 0 of the node has its shadow slot. -/
def sNode (n : Node) : State :=
  let s := sSys 0 []
  { s with hazel := { s.hazel with pool := [n], granted := [(9, 0, 3 * 2 ^ 25, 200)] } }
/-- The same with a command on its way to cluster 0. -/
def sDown (n : Node) (c : Cmd) : State := (sNode n).sendDown 0 c
/-- A report on its way from cluster 0. -/
def sUp (n : Node) (c : Cmd) : State := (sNode n).sendUp 0 c
/-- Where crew 0 goes. -/
def spot : Spot := ⟨2, [7], 2040, (span 100 32), none⟩
/-- The record that waits for the event ring. -/
def record5 : Record := ⟨5, 0, false, 0, 0⟩
/-- A context with that record waiting, its ring at `base`. -/
def sRec (base wr : Nat) : State := (sSys 0 []).modCtx 1 fun c =>
  { c with pend := [record5], evwr := wr, evOldest := some 9997500, sched := sched1 6 0 2 - 0x2000 + BitVec.ofNat 512 base }
/-- A breakpoint stop of a crew on core 0. -/
def crewBk : Crew := { crew with bkstop := some (0, 5), phase := .stopped }
/-- Its state with CONTINUE on the way. -/
def sBk (pc : Option (BitVec 64)) : State := (stateOf { w0 with trappc := placePc.setWidth 64 } crewBk []).sendDown 0 (.continue_ 0 0 pc)

/-- What a unit's writing meets: 0 nothing, 1 a fault, 2 another. -/
def putKind : Option Xlat × State → Nat
  | (none, _) => 0
  | (some (.fault _), _) => 1
  | _ => 2

/-- What the launch of crew 0 on core 3 comes to with thread records at `a`: 0 records, 1 a stop, 2 a wait. -/
def frontKind (a : Nat) : Nat × Nat :=
  let n := nodeOf { nrec with flags := 8, trec := BitVec.ofNat 64 a } 0 0 false false
  match ((sNode n).allLaunches n [(3, 0)]).1 with
  | .error (c, .bad x _ _) => (c, x.code)
  | .error (c, .wait _ _ _) => (c, 100)
  | _ => (0, 0)

theorem hyp_SchedulingSteps :
    (let n := nodeOf nrec 0 0 false false
     let s := sNode n
     s.node? 9 = some n ∧ s.nextCrew n = some 0 ∧ s.wants n = true ∧ s.first (s.nodePrio n) 9 = true ∧ n.width = 1 ∧
      (s.coresFor n).contains 3 = true) ∧
    (let n := nodeOf { nrec with threads := 128, flags := 2, setn := 2 } 0 0 false false
     let s := sNode n
     s.node? 9 = some n ∧ s.nextCrew n = some 0 ∧ s.wants n = true ∧ s.first (s.nodePrio n) 9 = true ∧ n.width = 2 ∧
      (s.coresFor n).contains 3 = true ∧ (s.coresFor n).contains 2 = true) ∧
    (let s := sNode (nodeOf nrec 0 0 false false)
     s.slotFor 9 1 = none ∧ s.slotless 9 1 = none ∧ s.shapeOf 9 = some (1, nrec.decl) ∧
      s.runOk (3 * 2 ^ 25 + 2 ^ 22) nrec.decl.slen 1 [] = true) ∧
    (let k := { crew with node := 9, cidx := 2, phase := .shadow, decl := nrec.decl }
     let s := (sNode (nodeOf nrec 0 0 false false)).modCore 3 fun c => { c with crews := [(2, k)] }
     s.slotless 9 2 = some (3, 2, k) ∧ s.crew? 3 2 = some k ∧ s.runOk (3 * 2 ^ 25 + 2 ^ 22) k.decl.slen k.ctx [] = true) ∧
    (let n := nodeOf nrec 0 0 false false
     let s := sDown n (.place 9 [(3, 0)])
     s.headDown 0 = some (.place 9 [(3, 0)]) ∧ s.node? 9 = some n ∧ s.spotOk n 0 3 spot = true ∧ s.held? (.node 9) = none ∧
      (s.ctx 1).stopping = false ∧ s.turnsAway 3 1 = false ∧ nrec.threc = false ∧ 0 < nrec.vregs ∧
      (s.modCluster 0 fun c => { c with out := true }).turnsAway 3 1 = true) ∧
    (let s := sNode { nodeOf nrec 0 1 false false with again := [0] }
     s.nextCrew { nodeOf nrec 0 1 false false with again := [0] } = some 0) ∧
    (let n := nodeOf nrec 0x3010 2 false false
     let s := sUp n (.ended 3 9 1 10 2 1)
     let s0 := s.modCluster 0 fun x => { x with up := x.up.consume }
     (s.cluster 0).up.flight = [.ended 3 9 1 10 2 1] ∧ n.total ≤ n.placed ∧ n.again = [] ∧ s0.nodeLive 9 = false ∧
      (s.ctx 1).ringDead = none) ∧
    (let s := sUp (nodeOf nrec 0x3010 1 false false) (.ended 3 9 1 10 2 1)
     let s0 := (s.sendDown 0 (.place 9 [(2, 1)])).modCluster 0 fun x => { x with up := x.up.consume }
     s0.nodeLive 9 = true) ∧
    ([0x3010, 0x4010, 0x200000000001000].map fun a => signalKind (sNode (nodeOf nrec a 2 false true)) (nodeOf nrec a 2 false true).pkt) =
      [0, 1, 2] ∧
    (let s := sNode (nodeOf nrec 0x3010 2 false true)
     ({ s with hazel := { s.hazel with held := [⟨.node 9, 3, true, 0, 0⟩] } } : State).held? (.node 9) = some true) ∧
    ({ nrec with flags := 8 } : NodeRec).threc = true ∧ [0x1000, 0x4000, 2 ^ 58 - 64].map frontKind = [(3, 6), (3, 100), (3, 5)] := by
  decide +kernel

theorem hyp_SchedulingReports :
    (let s := sRec 0x2000 63
     (s.ctx 1).pend = [record5] ∧ readKind (s.unitRead 1 (s.ctx 1).evrd 2) = 0 ∧
      (BitVec.ofNat 64 (s.ctx 1).evwr - 0).toNat ≠ 2 ^ (s.ctx 1).evlog ∧ (s.ctx 1).cnt = 2 ∧
      [0x2000, 0x200000000000000].map (fun b => putKind ((sRec b 63).unitPuts (unitAgent 1) ((s.ctx 1).evbase + (b - 0x2000) + 32 * 63)
        (codedBytes (record5.bytes 0)))) = [0, 1] ∧
      (s.ctx 1).timeus ≠ 0 ∧ 9997500 + (s.ctx 1).timeus * 2500 ≤ s.cycle) ∧
    (((sUp (nodeOf nrec 0 0 false false) (.fault .perm 3 placePc 0 3 0 1 9 true)).cluster 0).up.flight =
      [.fault .perm 3 placePc 0 3 0 1 9 true]) ∧
    ((sDown (nodeOf nrec 0 0 true false) (.cancel 1)).headDown 0 = some (.cancel 1)) ∧
    (let s := sBk (some 0x200000000002000)
     s.crew? 0 0 = some crewBk ∧ crewBk.bkstop = some (0, 5) ∧ (some 0x200000000002000#64).any badTarget = false ∧
      (none : Option (BitVec 64)).any badTarget = false ∧ (some 0x200000000002001#64).any badTarget = true ∧
      (some (2#64 ^ 58)).any badTarget = true) ∧
    ((s0.sendDown 0 (.test 0)).headDown 0 = some (.test 0) ∧ ((s0.modCore 0 fun c => { c with testing := true }).core 0).testing = true ∧
      (s0.sendDown 0 (.misscap 1 33)).headDown 0 = some (.misscap 1 33)) ∧
    (let s := s0.modCore 0 fun c => { c with crews := [(0, crewSet)] }
     let s := s.modCore 3 fun c => { c with crews := [(4, mate none)] }
     s.crew? 0 0 = some crewSet ∧ crewSet.preempt = none ∧ (3, 4, mate none) ∈ s.unit 0 0 crewSet ∧ (s.crew? 3 4).isSome = true) := by
  decide +kernel

/-- A crew of another node fills core 0, the only core of the partition; the node's request is open when `req` is true. -/
def sFull (asked : Nat) (req : Bool) (grant : Option (Nat × Nat)) : State :=
  let s := sNode { nodeOf nrec 0 0 false false with asked := asked }
  let s := s.modCtx 1 fun c => { c with partition := [0] }
  { s.modCore 0 fun c => { c with crews := [(0, { crew with node := 4, grant := grant })], waves := [(0, w0)] } with
    hazel := { s.hazel with reqs := if req then [9] else [] } }
/-- A crew to be captured, with a run. -/
def crewCap (grant : Option (Nat × Nat)) : Crew := { crew with
  decl := ⟨8, 16, 0, 8, 0, 1⟩, preempt := some 1, phase := .capture 1, grant := grant, node := 4 }
/-- Its state. -/
def sCap (grant : Option (Nat × Nat)) : State :=
  (sFull 0 false none).modCore 0 fun c => { c with crews := [(0, crewCap grant)] }
/-- A run in the save area. -/
def run0 : Nat := 3 * 2 ^ 25 + 2 ^ 20

/-- Zero granules. -/
def zs (n : Nat) : List GUnit := List.replicate n .zero
/-- Granules of a record after its header: one wave of one thread in lane 0, nothing live, no tile and no bin. -/
def recBody : List GUnit :=
  coded 1 :: .zero :: coded 1 :: zs 11 ++ coded 1 :: zs 113 ++ coded 1 :: zs 63 ++ ([0x1000, 0x2000000, 0, 0x80000000].map coded ++ zs 44) ++
    (List.replicate 31 (zs 39 ++ coded 4 :: zs 8)).flatten ++ zs 256
/-- A record of four blocks with a method and its HCRC; the CRCs were worked by another program. -/
def recordOf (m hcrc : Word) : List GUnit :=
  ([0x4E4C4831, 0x10001, 0x1010100 + m].map coded ++ zs 5 ++ coded 4 :: zs 9 ++ ([7296, 7552, 7552, 7552].map coded) ++ zs 40 ++
    [coded 0x5208C143, coded hcrc]) ++ recBody
/-- The record in the save area, in L2 line by line. -/
def recordLines (us : List GUnit) : Map L2Line := (span 0 64).map fun j => (run0 / 128 + j, ⟨(us.drop (32 * j)).take 32, 0, false, none⟩)

/-- A saved crew whose record takes some blocks of the save area, and the entry that it waits in. -/
def savedOf (len : Nat) : SavedCrew := ⟨0, run0, len, 0, 1, 0, none⟩
/-- The resume entry. -/
def entry (len : Nat) : ResumeEntry := ⟨3, 1, 9, 3, 0, false, [savedOf len], none, ⟨8, 16, 0, 0, 0, 1⟩⟩
/-- Where the entry's crew goes. -/
def spotR : Spot := ⟨2, [7], 0, [], none⟩
/-- The record of the entry is in L2, or a block of zeros stands for it. -/
def sEntry (good : Bool) : State :=
  let s := sNode { nodeOf nrec 0 2 false false with placed := 2 }
  { s with
    hazel := { s.hazel with resumes := [entry (if good then 4 else 1)] }
    l2 := if good then recordLines (recordOf 1 0x39AC7DF) else s.l2 }

/-- The home slices' units. -/
def gets (s : State) : Nat → Nat → List GUnit
  | _, 0 => []
  | pa, n + 1 => s.home pa :: gets s (pa + 4) n
/-- Their lines are in L2. -/
def inL2 (s : State) : Nat → Nat → Bool
  | _, 0 => true
  | pa, n + 1 => (s.l2.find (pa / 128)).isSome && inL2 s (pa + 4) n

theorem homeGets_inL2 (s : State) : ∀ n pa, inL2 s pa n = true → s.homeGets pa n = (gets s pa n, s)
  | 0, _, _ => rfl
  | n + 1, pa, h => by
    simp only [inL2, Bool.and_eq_true] at h
    obtain ⟨l, e⟩ := Option.isSome_iff_exists.mp h.1
    have e1 : s.l2Fill (pa / 128) none = s := by unfold State.l2Fill; simp [e]
    have e2 : s.homeGet pa none = (s.home pa, s) := by unfold State.homeGet State.home; simp [e1, e]
    simp only [State.homeGets, e2, homeGets_inL2 s n (pa + 4) h.2, gets]

theorem records_good : (sEntry true).records ((entry 4).seats 2 [spotR]) = ([recordOf 1 0x39AC7DF], sEntry true) := by
  have h := homeGets_inL2 (sEntry true) 2048 run0 (by decide +kernel)
  have e : gets (sEntry true) run0 2048 = recordOf 1 0x39AC7DF := by decide +kernel
  show State.records _ [⟨2, savedOf 4, spotR⟩] = _
  simp only [State.records, savedOf, Nat.reduceMul, h, e]

/-- CRC steps that look at each value before the next. -/
def crcSteps : List Byte → BitVec 32 → BitVec 32
  | [], c => c
  | b :: l, c => if c.toNat < 2 ^ 32 then crcSteps l (crcByte c b) else c

theorem crcSteps_eq : ∀ l c, crcSteps l c = l.foldl crcByte c
  | [], _ => rfl
  | b :: l, c => by rw [crcSteps, if_pos c.isLt, crcSteps_eq l, List.foldl_cons]

theorem crc_recBody : crc32c 0 (unitBytes recBody) = 0x5208C143 := by
  rw [crc32c, ← crcSteps_eq]
  decide +kernel

theorem recordOk_of {m hcrc : Word} {deep : Nat} {ms : List Nat} (h : headOk (recordOf m hcrc) 1 4 ms = true)
    (h2 : crewOk (recordOf m hcrc) = true) (h3 : layoutOk (recordOf m hcrc) deep = true) :
    recordOk (recordOf m hcrc) 1 4 deep ms = true := by
  simp only [recordOk, h, h2, h3, Bool.and_self]

theorem recordOk_save : recordOk (recordOf 1 0x39AC7DF) 1 4 (maxDepth ((sEntry true).ctx 1).privsz) [1, 2] = true := by
  refine recordOk_of ?_ (by decide +kernel) (by decide +kernel)
  have d : (recordOf 1 0x39AC7DF).drop 64 = recBody := rfl
  unfold headOk
  rw [d, crc_recBody, Bool.and_eq_true, Bool.and_eq_true]
  refine ⟨⟨by decide +kernel, ?_⟩, by decide +kernel⟩
  rw [crc32c, ← crcSteps_eq]
  decide +kernel

/-- A crew about to take its shadow, and one about to roll back to it. -/
def crewSh (ph : Phase) : Crew := { crew with
  decl := ⟨8, 16, 0, 0, 0, 1⟩, phase := ph, interval := 1, spad := [(0, coded 5), (32, coded 6)]
  shadow := some ⟨[0], [], placePc⟩, slot := some (run0, 4) }
/-- Its state: the slot holds a shadow record, or zeros. -/
def sSh (ph : Phase) (good : Bool) : State :=
  let s := stateOf w0 (crewSh ph) []
  { s with l2 := if good then recordLines (recordOf 3 0x9B505DEC) else recordLines (zs 2048) }

theorem recordOk_shadow : recordOk (recordOf 3 0x9B505DEC) 1 4 (maxDepth ((sSh (.rollback 0) true).ctx 1).privsz) [3] = true := by
  refine recordOk_of ?_ (by decide +kernel) (by decide +kernel)
  have d : (recordOf 3 0x9B505DEC).drop 64 = recBody := rfl
  unfold headOk
  rw [d, crc_recBody, Bool.and_eq_true, Bool.and_eq_true]
  refine ⟨⟨by decide +kernel, ?_⟩, by decide +kernel⟩
  rw [crc32c, ← crcSteps_eq]
  decide +kernel

theorem slotRecord_good : (sSh (.rollback 0) true).slotRecord (run0, 4) = (recordOf 3 0x9B505DEC, sSh (.rollback 0) true) := by
  have h1 := homeGets_inL2 (sSh (.rollback 0) true) 16 run0 (by decide +kernel)
  have h := homeGets_inL2 (sSh (.rollback 0) true) 2048 run0 (by decide +kernel)
  have e : gets (sSh (.rollback 0) true) run0 2048 = recordOf 3 0x9B505DEC := by decide +kernel
  have l : 512 * min 4 (unitsAt (gets (sSh (.rollback 0) true) run0 16) 32 4) = 2048 := by decide +kernel
  simp only [State.slotRecord, h1, l, h, e]

/-- Whether a record can be written. -/
def written : Option (List SavedCrew × State) → Bool
  | some _ => true
  | none => false
/-- The conditions on a run that a unit asks for, and how long it has to be. -/
def asks (s : State) (k : Crew) : Nat :=
  let un := s.unit 0 0 k
  let x := s.needs (s.methodNow ((un.findSome? fun y => y.2.2.preempt).getD 1) un == 2) un
  if s.crew? 0 0 = some k ∧ un = [(0, 0, k)] ∧ (x.2.hazel.reqs.isEmpty = false ∨ k.preempt.isSome = true) ∧
    (heldRun un).all (fun r => decide (r.2 < x.1.sum)) = true then x.1.sum else 0

theorem hyp_PreemptSteps :
    (let s := sFull 0 false none
     let n := { nodeOf nrec 0 0 false false with asked := 0 }
     s.node? 9 = some n ∧ s.mayAsk n = true ∧ s.wants n = true ∧ n.rec_.prio < s.nodePrio n ∧ s.nodePrio n = 6) ∧
    (let s := sFull 3 false none
     let n := { nodeOf nrec 0 0 false false with asked := 3 }
     s.node? 9 = some n ∧ s.wants n = true ∧ n.rec_.prio < s.nodePrio n ∧ n.asked < s.nodePrio n + 1 ∧ s.mayAsk n = true) ∧
    (let n := { nodeOf nrec 0 0 false false with asked := 3 }
     let s := sNode n
     s.node? 9 = some n ∧ s.wants n = true ∧ n.rec_.prio < s.nodePrio n ∧ n.asked < s.nodePrio n + 1 ∧ s.mayAsk n = false) ∧
    ((sFull 0 true none).hazel.reqs.contains 9 = true ∧
      (let s := ((sFull 0 true none).modHazel fun h => { h with reqs := [] }).readLive 1
       s.leastReport (s.arriving (nodeOf nrec 0 0 false false)) = none) ∧
      (let s := ((sFull 0 true (some (run0, 200))).modHazel fun h => { h with reqs := [] }).readLive 1
       (match s.leastReport (s.arriving (nodeOf nrec 0 0 false false)) with | some (_ :: _) => true | _ => false) = true)) := by
  decide +kernel

theorem hyp_CaptureSteps :
    ((let s := sCap (some (run0, 1))
      asks s (crewCap (some (run0, 1))) = 5 ∧ (s.needs false (s.unit 0 0 (crewCap (some (run0, 1))))).2.runOk run0 5 1 [(run0, 1)] = true ∧
      (s.needs false (s.unit 0 0 (crewCap (some (run0, 1))))).2.mustSave [(0, 0, crewCap (some (run0, 1)))] = false) ∧
     (let s := (sCap none).modCore 0 fun c => { c with testAsked := true }
      asks s (crewCap none) = 5 ∧ (s.needs false [(0, 0, crewCap none)]).2.mustSave [(0, 0, crewCap none)] = true) ∧
     (let s := sFull 0 true none
      asks s { crew with node := 4 } ≠ 0)) ∧
    (let k := crewCap (some (run0, 200))
     let s := sCap (some (run0, 200))
     s.crew? 0 0 = some k ∧ s.capturable 0 0 k = some 1 ∧ (s.ctx 1).stopping = false ∧ s.unit 0 0 k = [(0, 0, k)] ∧
      heldRun [(0, 0, k)] = some (run0, 200) ∧
      written (([(0, 0, k)].foldl (fun s y => s.release y.1 1 none 6) s).writeRecords (s.methodNow 1 [(0, 0, k)]) run0 200 [(0, 0, k)]) = true) ∧
    ((sDown (nodeOf nrec 0 0 false false) (.preempt 5 [(0, 0, 1)])).headDown 0 = some (.preempt 5 [(0, 0, 1)])) ∧
    (let s := sUp (nodeOf nrec 0 0 false false) (.saved 0 (entry 4))
     (s.cluster 0).up.flight = [.saved 0 (entry 4)] ∧ s.node? 9 ≠ none ∧ (s.ctx 1).stopping = false ∧ s.node? 10 = none ∧ s.replayOver (entry 4) = false) ∧
    ([5, 191].Nodup ∧ (∀ c ∈ [5, 191], c < 192) ∧ s0.partitionOk 4095 [5, 191] = true ∧
      ((s0.modCtx 1 fun c => { c with sealed := some (1, 0), partition := [5] }).partitionOk 4095 [5, 191] = false)) := by decide +kernel

/-- RESUME of a block of zeros, and of a record that passes its checks. -/
theorem hyp_Resume :
    (let s := sEntry false
     (s.hazel.resumes.find? fun e => e.uid == 3) = some (entry 1) ∧ s.dispatchable 1 = true ∧ s.first (s.entryPrio (entry 1)) 9 = true ∧
      s.fitsResume (entry 1) 2 = true ∧ (entry 1).members.length = [spotR].length ∧
      ((entry 1).seats 2 [spotR]).all (s.seatOk (entry 1)) = true ∧
      (((entry 1).seats 2 [spotR]).zip (s.records ((entry 1).seats 2 [spotR])).1).any (fun y =>
        !(headOk y.2 1 y.1.saved.len [1, 2])) = true) ∧
    (let s := sEntry true
     (s.hazel.resumes.find? fun e => e.uid == 3) = some (entry 4) ∧ s.dispatchable 1 = true ∧ s.first (s.entryPrio (entry 4)) 9 = true ∧
      s.fitsResume (entry 4) 2 = true ∧ ((entry 4).seats 2 [spotR]).all (s.seatOk (entry 4)) = true) ∧
    declOk (recordOf 1 0x39AC7DF) (entry 4) (savedOf 4) = true :=
  ⟨by decide +kernel, by decide +kernel, by decide +kernel⟩

theorem hyp_Shadow :
    (let s := sSh .shadow true
     s.crew? 0 0 = some (crewSh .shadow) ∧ (crewSh .shadow).slot = some (run0, 4) ∧ s.crewQuiet 0 0 = true ∧ (s.ctx 1).stopping = false) ∧
    (let s := sSh (.rollback 0) true
     s.crew? 0 0 = some (crewSh (.rollback 0)) ∧ s.crewQuiet 0 0 = true ∧ (s.ctx 1).stopping = false ∧
      1 ≤ ({ s.core 0 with waves := [] } : Core).waveRoom 8 16 ∧ seats (span 0 32) [0] = some [0] ∧ seats (span 0 16) [] = some [] ∧ [0].Nodup) ∧
    recordOk ((sSh (.rollback 0) false).slotRecord (run0, 4)).1 1 (unitsAt ((sSh (.rollback 0) false).slotRecord (run0, 4)).1 32 4) 17 [3] = false ∧
    (restored (recordOf 3 0x9B505DEC) (crewSh (.rollback 0)) 0 0 fun _ => 0).waves.length = 1 :=
  ⟨by decide +kernel, by decide +kernel, by decide +kernel, by decide +kernel⟩

/-- A bin of one continuation record. -/
def bin1 (flush : Bool) : Bin := ⟨0, placePc + 64#58, [(span 0 16).map fun i => coded (BitVec.ofNat 32 (100 + i))], 0, 500, flush, 0⟩
/-- A wave with thread 2 in a wait that ran out; its crew, and the state with the bin. -/
def wWait : Wave := ({ w0 with
  threads := w0.threads.alter 2 fun t => { t with hold := .wait 1 3 500 }, lls := 40, heldAt := some 100 }).setMask 1 ⟨0x25, 0x24⟩
/-- The state. -/
def sWait (k : Crew) (flush : Bool) : State :=
  { (stateOf wWait k []).modCore 0 fun c => { c with bins := [(3, bin1 flush)], misscap := 0x140001 } with pod := none, cycle := 5000 }
/-- A crew whose barrier has waited for 5,000 cycles. -/
def crewDog : Crew := { crew with barto := 4, body := { crew.body with bar := some ⟨3, 1, placePc, 0, some 0⟩ } }
/-- A context with a dump to write at VA 2^15 × `n`. -/
def sDump (n : Nat) : State := (sSys 0 []).modCtx 1 fun c => { c with dump := some [coded 1], diagva := BitVec.ofNat 64 (n * 2 ^ 15 + 1) }

theorem hyp_CrewSteps :
    (let s := sWait crew false
     s.wave? 0 0 = some wWait ∧ (wWait.threads.find 2).map (fun t => t.hold) = some (.wait 1 3 500) ∧ 500 ≤ s.cycOf 0 ∧
      (s.core 0).bins.find 3 = some (bin1 false) ∧ (bin1 false).since + (bin1 false).limit ≤ s.cycOf 0) ∧
    (let s := sWait crew true
     (s.core 0).throttling = true ∧ bvf (s.core 0).misscap 0 6 ≠ 0 ∧ bvf (s0.core 0).misscap 0 6 = 0 ∧
      (let k := { crew with phase := .capture 2 }
       let s := (sWait k true).modCore 0 fun c => { c with waves := [] }
       (s.core 0).bins.find 3 = some (bin1 true) ∧ s.crew? 0 0 = some k ∧ (s.core 0).members 0 = []) ∧
      ({ s with ported := [portOf 0 0] } : State).ported.contains (portOf 0 0) = true ∧ wWait.complete 1 = false) ∧
    (let s := sWait crew true
     (s.core 0).bins.find 3 = some (bin1 true) ∧ s.crew? 0 0 = some crew ∧ s.wave? 0 31 = none ∧ 1 ≤ (s.core 0).waveRoom 112 64 ∧
      ((s.core 0).members 0).length + 1 ≤ 1024 ∧ (s.ctx 1).ids.contains (2 ^ 24 - 1) = false ∧ (s.ctx 1).stopping = false) ∧
    (let s := sWait crew true
     (s.core 0).decays < s.cycOf 0 / 256 ∧ (s.core 0).selects < s.cycOf 0 / 256 ∧ (s.core 0).throttling = true ∧
      (s0.core 0).throttling = false ∧ wWait.heldAt = some 100 ∧ 100 + 4096 ≤ s.cycOf 0) ∧
    (let k := { crew with preempt := some 2 }
     (sWait k false).crew? 0 0 = some k ∧ ((sWait k false).core 0).windowsShut 0 = true ∧ wWait.nprem = 0 ∧ k.phase = .run ∧
      (sWait { k with phase := .stopped } false).crew? 0 0 = some { k with phase := .stopped }) ∧
    (((stateOf { w0 with arrive := 9, landed := 2 } crew []).wave? 0 0).map fun w => w.landed) = some 2 ∧
    (let k := { crew with decl := { crew.decl with slabq := 0 } }
     ((s0.writeTdesc 0 0 31 crew tileA.toBits).isSome = true ∧ ((stateOf w0 k []).writeTdesc 0 0 31 k tileA.toBits).isNone = true ∧ k.decl.slabq = 0)) ∧
    (let s := sWait crewDog false
     s.crew? 0 0 = some crewDog ∧ (∀ b, crewDog.body.bar = some b → crewDog.barto * 1024 ≤ b.cycles (s.cycOf 0))) ∧
    (let s := sDump 0
     (s.ctx 1).dump = some [coded 1] ∧ s.crewsLeft 1 = false ∧ s.held? (.dump 1) = none ∧
      putKind (s.unitPuts (unitAgent 1) (bvf (s.ctx 1).diagva 15 43 * 2 ^ 15) [coded 1]) = 0 ∧
      putKind ((sDump 1).unitPuts (unitAgent 1) (2 ^ 15) [coded 1]) = 2) ∧
    (let s := s0.modCore 0 fun c => { c with waves := [] }
     s.crew? 0 0 = some crew ∧ (s.core 0).members 0 = [] ∧ (s.core 0).binsOf 0 = [] ∧ s.crewQuiet 0 0 = true ∧
      s.awaited 0 crew = false ∧ (s.ctx 1).stopping = false) ∧
    (let s := (setState w0 none).modCore 3 fun c => { c with ops := [{ op .mcast 0x400 1 true with crew := 4, mask := 9 }] }
     s.crew? 0 0 = some crewSet ∧ s.awaited 0 crewSet = true ∧ s.awaited 1 crewSet = false) := by decide +kernel

/-! ### Single steps, with results worked by hand from the rules -/

/-- The words of a register in lanes 0 and 2 after an instruction that the pod of those lanes issues. -/
def got (i : Instr) (s : State) (r : Reg) : List Word :=
  match exec i s with
  | .next t => (t.wave? 0 0).elim [] fun w => [w.word r 0, w.word r 2]
  | _ => []
/-- A predicate in lanes 0 and 2. -/
def gotP (i : Instr) (s : State) (n : Nat) : List Bool :=
  match exec i s with
  | .next t => (t.wave? 0 0).elim [] fun w => [w.pred n 0, w.pred n 2]
  | _ => []
/-- A uniform register. -/
def gotS (i : Instr) (s : State) (n : Nat) : Option Word :=
  match exec i s with
  | .next t => (t.wave? 0 0).map fun w => w.word (.s n) 0
  | _ => none
/-- The PCs of lanes 0, 2 and 5. -/
def gotPc (i : Instr) (s : State) : List VAddr :=
  match exec i s with
  | .next t => (t.wave? 0 0).elim [] fun w => w.threads.map fun e => e.2.pc
  | _ => []
/-- The unit that memory holds at an address after an instruction, for core 0. -/
def gotM (i : Instr) (s : State) (pa : Nat) : Option Word :=
  match exec i s with
  | .next t => some (t.peek 0 pa).data
  | _ => none
/-- The cause that an instruction traps with: the context fault it raises when the wave has no handler. -/
def gotC (i : Instr) (s : State) : Option Cause :=
  match exec i s with
  | .next t => (t.ctx 1).fault.map fun f => f.cause
  | _ => none
/-- The same values in registers v1, v2 and v3 of both lanes. -/
def both (a b c : Nat) : State :=
  stateOf (waveOf [(1, 0, a), (1, 2, a), (2, 0, b), (2, 2, b), (3, 0, c), (3, 2, c)] [(1, a), (2, b), (3, c)]) crew []

-- R222: addition wraps; R152: division by zero and of the least integer by -1.
theorem test_iadd : got (.iaddN32 2 1 10) s0 (.v 10) = [12, 1] := by decide +kernel
theorem test_isub_source_is_destination : got (.isubN32 2 1 2) s0 (.v 2) = [2, 0xFFFFFFFD] := by decide +kernel
theorem test_idiv_least : got (.idivI32 2 1 10) (both 0x80000000 0xFFFFFFFF 0) (.v 10) = [0x80000000, 0x80000000] := by decide +kernel
theorem test_irem_zero : got (.iremN32 3 1 10) (both 77 0 0) (.v 10) = [77, 77] := by decide +kernel
theorem test_idiv_zero : got (.idivN32 3 1 10) (both 77 0 0) (.v 10) = [0xFFFFFFFF, 0xFFFFFFFF] := by decide +kernel
-- R223: shifts by 32 and more.
theorem test_shl_full : got (.shlB32 2 1 10) (both 1 32 0) (.v 10) = [0, 0] := by decide +kernel
theorem test_shr_signed_full : got (.shrI32 2 1 10) (both 0x80000000 99 0) (.v 10) = [0xFFFFFFFF, 0xFFFFFFFF] := by decide +kernel
theorem test_rotl_full : got (.rotlB32 2 1 10) (both 0x80000001 33 0) (.v 10) = [3, 3] := by decide +kernel
theorem test_clz_zero : got (.clzB32 3 10) (both 1 1 0) (.v 10) = [32, 32] := by decide +kernel
-- R224: a sign-extended and a zero-extended immediate.
theorem test_iaddi_negative : got (.iaddiN32 0x7FF 1 10) (both 5 0 0) (.v 10) = [4, 4] := by decide +kernel
theorem test_ori_zero_extended : got (.oriB32 0x7FF 3 10) (both 0 0 0) (.v 10) = [0x7FF, 0x7FF] := by decide +kernel
-- R225 to R228: 1.5 + 2.25 = 3.75, a NaN, the sum of both infinities, -0 below +0, and a product rounded once.
theorem test_fadd : got (.faddF32 0 2 1 10) (both 0x3FC00000 0x40100000 0) (.v 10) = [0x40700000, 0x40700000] := by decide +kernel
theorem test_fadd_nan : got (.faddF32 0 2 1 10) (both 0x7F800000 0xFF800000 0) (.v 10) = [0x7FC00000, 0x7FC00000] := by decide +kernel
theorem test_fmin_zeros : got (.fminF32 2 1 10) (both 0x00000000 0x80000000 0) (.v 10) = [0x80000000, 0x80000000] := by decide +kernel
theorem test_ffma_once : got (.ffmaF32 3 2 1 10 0) (both 0x3F800001 0x3F800001 0xBF800002) (.v 10) = [0x28800000, 0x28800000] := by
  decide +kernel
-- Compares: a NaN is unordered; signed and unsigned order differ.
theorem test_fcun : gotP (.fcunF32 2 1 1) (both 0x7FC00000 0 0) 1 = [true, true] := by decide +kernel
theorem test_iclt_signed : gotP (.icltI32 2 1 1) (both 0xFFFFFFFF 1 0) 1 = [true, true] := by decide +kernel
theorem test_iclt_unsigned : gotP (.icltN32 2 1 1) (both 0xFFFFFFFF 1 0) 1 = [false, false] := by decide +kernel
-- R150 and R151: 3.0 converts to the ln6 code 22, whose f32 value is 0x40350500; 2^32 saturates to the largest i32.
theorem test_cvt_to_ln6 : got (.cvt 0 5 0 1 10) (both 0x40400000 0 0) (.v 10) = [22, 22] := by decide +kernel
theorem test_cvt_from_ln6 : got (.cvt 5 0 0 1 10) (both 22 0 0) (.v 10) = [0x40350500, 0x40350500] := by decide +kernel
theorem test_extI8 : got (.extI8 2 1 10) (both 0x00800000 2 0) (.v 10) = [0xFFFFFF80, 0xFFFFFF80] := by decide +kernel
-- Lane moves: ballot sets the bits of the active lanes that hold true; laneid.
theorem test_laneid : got (.laneid 10) s0 (.v 10) = [0, 2] := by decide +kernel
theorem test_ballot : got (.ballotB32 7 10) (stateOf { w0 with p := [(7, 0x24)] } crew []) (.v 10) = [4, 4] := by decide +kernel
-- R236: a carry between the words of a pair; R222's unsigned widening product.
theorem test_iadd64_carry : got (.iaddN64 4 2 10) (stateOf (waveOf [(2, 0, 0xFFFFFFFF), (3, 0, 1), (4, 0, 1), (5, 0, 2)] []) crew []) (.v 11) =
  [4, 0] := by decide +kernel
theorem test_imulw : got (.imulwN32 2 1 10) (both 0xFFFFFFFF 0xFFFFFFFF 0) (.v 11) = [0xFFFFFFFE, 0xFFFFFFFE] := by decide +kernel
-- Uniform forms.
theorem test_uaddi_negative : gotS (.uaddi 0x1FFF 1 10) s0 10 = some 4 := by decide +kernel
theorem test_udiv : gotS (.udivN32 2 1 10) s0 10 = some 1 := by decide +kernel
-- Branches: lane 2 alone takes the branch, 8 bytes on; the pod's other lane goes on; lane 5 stays.
theorem test_branch_splits : gotPc (.brCond 4 0 1) (stateOf { w0 with p := [(1, 0x24)] } crew []) =
    [placePc + 4#58, placePc + 8#58, placePc + 8#58] := by decide +kernel
theorem test_branch_back : gotPc (.br 0xFFFFF) s0 = [placePc - 2#58, placePc - 2#58, placePc + 8#58] := by decide +kernel
theorem test_call_pushes : (match exec (.call 4) s0 with
    | .next t => (t.wave? 0 0).map fun w => w.threads.map fun e => (e.2.depth, e.2.stack.headD 0)
    | _ => none) = some [(1, 0x200000000001004), (1, 0x200000000001004), (0, 0)] := by decide +kernel
theorem test_ret_empty : gotC .ret s0 = some .stack := by decide +kernel
-- Loads and stores: v3 holds 64 and 68 in the global region, whose first page frame is 2^25.
theorem test_load : got (.ldB32 1 0 3 10) (stateOf w0 crew [(2 ^ 25 + 68, 111), (2 ^ 25 + 72, 222)]) (.v 10) = [111, 222] := by
  decide +kernel
theorem test_store : gotM (.stB32 0 0 0 3 1) s0 (2 ^ 25 + 68) = some 0xFFFFFFFF := by decide +kernel
theorem test_load_misaligned : gotC (.ldB32 0 0 3 10) (both 0 0 66) = some .align := by decide +kernel
theorem test_atomic_adds : gotM (.ataddN32 6 0 1 3 60) (stateOf w0 crew [(2 ^ 25 + 64, 40)]) (2 ^ 25 + 64) = some 47 := by decide +kernel
theorem test_atomic_old : got (.ataddN32 6 0 1 3 60) (stateOf w0 crew [(2 ^ 25 + 64, 40)]) (.v 60) = [40, 0] := by decide +kernel
-- Masks and barriers: a join that its second thread completes; a crew barrier of one more arrival than the pod has.
theorem test_join_waits : (match exec (.join 4) (stateOf wMasks crew []) with
    | .next t => (t.wave? 0 0).map fun w => (w.mask 4).arrived
    | _ => none) = some 5 := by decide +kernel
theorem test_exit_frees_lanes : (match exec .exit s0 with
    | .next t => (t.wave? 0 0).map fun w => w.threads.map fun e => e.1
    | _ => none) = some [5] := by decide +kernel
-- Tiles: a product with a zero tile, and the descriptor that a transpose writes.
theorem test_mzero : (match exec (.mzero 0) (sT 64 4) with
    | .next t => (t.crew? 0 0).map fun k => (k.body.tdesc 0).rank
    | _ => none) = some 0 := by decide +kernel
theorem test_mtr : (match exec (.mtr 2 5) (sT 64 4) with
    | .next t => (t.crew? 0 0).map fun k => ((k.body.tdesc 5).rows, (k.body.tdesc 5).cols)
    | _ => none) = some (16, 8) := by decide +kernel
-- Traps: a handler takes a trap with the cause code of UND and the PC; `tret` outside a handler is UND.
theorem test_trap_enters : (match exec .tret (stateOf { w0 with ehbase := 0x200000000003001 } crew []) with
    | .next t => (t.wave? 0 0).map fun w => (w.trappc, w.entered, w.threads.map fun e => e.2.pc)
    | _ => none) = some (0x200000000001000, 5, [0x200000000003000, 0x200000000003000, placePc + 8#58]) := by decide +kernel
theorem test_tret_outside : gotC .tret s0 = some .und := by decide +kernel
theorem test_uniform_outside : gotC (.uaddN32 1 1 16) (stateOf w0 { crew with decl := { crew.decl with sregs := 16 } } []) = some .perm := by
  decide +kernel
theorem test_check_fails : (match exec (.iaddN32 2 1 10) (stateOf (w0.set (.v 1) 2 ⟨1, 0, false⟩) crew []) with
    | .next t => (t.crew? 0 0).map fun k => k.phase
    | _ => none) = some (.rollback 0) := by decide +kernel
-- The device: R331's completion at once of a node whose last crew ends; R23's clock step; R335's permit.
theorem test_clock_step : (match exec .clockStepDown (act (sBoard true .run true) (.clockStepDown 3 1800001 20)) with
    | .next t => some (t.die 3).mhz
    | _ => none) = some 2400 := by decide +kernel
theorem test_ended_completes : (match exec .ended (act (sUp (nodeOf nrec 0 2 false false) (.ended 3 9 1 10 2 1)) (.ended 0)) with
    | .next t => (t.ctx 1).pend
    | _ => []) = [⟨5, 0, false, 0, 0⟩] := by decide +kernel
theorem test_misscap_bound : (match exec .misscapWrite (act (s0.sendDown 0 (.misscap 1 0x4D0021)) (.misscapWrite 0)) with
    | .next t => some (t.core 1).misscap
    | _ => none) = some 0x4D0000 := by decide +kernel
-- A step fetches what is placed (the worked word of `br` on a predicate) and moves lane 0 past it.
theorem test_step_runs_placed : (match step (State.reset.withFetchWord 32 0x000088B9) with
    | .next t => (t.wave? 0 0).map fun w => w.threads.map fun e => e.2.pc
    | _ => none) = some [placePc + 4#58] := by decide +kernel
end Sys2Proof.Tests
end

section
/-! The stacks, their controllers and the home slices: what their operations leave alone (`HomeFrame`), and what the home slices
hold afterwards where no line had to leave (`HomeStep`; R75, R81, R82, R85). -/

namespace Sys2Proof.Machine

/-! ### The numbers of a span -/

theorem span_eq_range' (n k : Nat) : span n k = List.range' n k := by
  induction k generalizing n with
  | zero => rfl
  | succ k ih => simp [span, ih, List.range'_succ]

@[simp] theorem mem_span {i n k : Nat} : i ∈ span n k ↔ n ≤ i ∧ i < n + k := by
  simp [span_eq_range', List.mem_range'_1]

/-- Reading a list that a span numbers from 0. -/
theorem getD_map_span {α : Type} (f : Nat → α) (z : α) {i k : Nat} (h : i < k) : ((span 0 k).map f).getD i z = f i := by
  simp [span_eq_range', List.getD_eq_getElem?_getD, h]

/-! ### What the home slices leave alone -/

/-- Between two states only the stacks, the controllers, the home slices, the dies' own lists and the choices drawn from the
environment differ, beside reports to Osmium and Pewter and what the signal unit notices of writes. -/
structure HomeFrame (s t : State) : Prop where
  rest : { t with
    mem := s.mem, side := s.side, marks := s.marks, l2 := s.l2, dies := s.dies, ctls := s.ctls, out := s.out
    hazel := s.hazel, free := s.free } = s
  out : { t.out with osm := s.out.osm, pewter := s.out.pewter } = s.out
  hazel : { t.hazel with notes := s.hazel.notes, waits := s.hazel.waits } = s.hazel
  free : s.free ≤ t.free

namespace HomeFrame

variable {s t u : State}

theorem refl (s : State) : HomeFrame s s := ⟨rfl, rfl, rfl, le_rfl⟩

theorem trans (h : HomeFrame s t) (g : HomeFrame t u) : HomeFrame s u where
  rest := (congrArg (fun x : State => { x with
    mem := s.mem, side := s.side, marks := s.marks, l2 := s.l2, dies := s.dies, ctls := s.ctls, out := s.out
    hazel := s.hazel, free := s.free }) g.rest).trans h.rest
  out := (congrArg (fun x : Out => { x with osm := s.out.osm, pewter := s.out.pewter }) g.out).trans h.out
  hazel := (congrArg (fun x : Hazel => { x with notes := s.hazel.notes, waits := s.hazel.waits }) g.hazel).trans h.hazel
  free := h.free.trans g.free

theorem foldl {α : Type} {f : State → α → State} (h : ∀ s x, HomeFrame s (f s x)) (l : List α) (s : State) :
    HomeFrame s (l.foldl f s) := by
  induction l generalizing s with
  | nil => exact refl s
  | cons x l ih => exact (h s x).trans (ih _)

theorem cores (h : HomeFrame s t) : t.cores = s.cores := (congrArg State.cores h.rest :)
theorem ctxs (h : HomeFrame s t) : t.ctxs = s.ctxs := (congrArg State.ctxs h.rest :)
theorem osm (h : HomeFrame s t) : t.osm = s.osm := (congrArg State.osm h.rest :)
theorem queues (h : HomeFrame s t) : t.hazel.queues = s.hazel.queues := (congrArg Hazel.queues h.hazel :)
theorem irqs (h : HomeFrame s t) : t.out.irqs = s.out.irqs := (congrArg Out.irqs h.out :)

end HomeFrame

section Frames

variable (s : State)

theorem State.hbmPut_frame (pa : Nat) (u : GUnit) : HomeFrame s (s.hbmPut pa u) := ⟨rfl, rfl, rfl, le_rfl⟩
theorem State.sectorPut_frame (a : Nat) (bs : List Byte) : HomeFrame s (s.sectorPut a bs) := ⟨rfl, rfl, rfl, le_rfl⟩
theorem State.modCtl_frame (n : Nat) (f : Ctl → Ctl) : HomeFrame s (s.modCtl n f) := ⟨rfl, rfl, rfl, le_rfl⟩
theorem State.modDie_frame (n : Nat) (f : Die → Die) : HomeFrame s (s.modDie n f) := ⟨rfl, rfl, rfl, le_rfl⟩
theorem State.toOsm_frame (r : Report) : HomeFrame s (s.toOsm r) := ⟨rfl, rfl, rfl, le_rfl⟩
theorem State.toPewter_frame (r : Report) : HomeFrame s (s.toPewter r) := ⟨rfl, rfl, rfl, le_rfl⟩
theorem State.setL2_frame (m : Map L2Line) : HomeFrame s { s with l2 := m } := ⟨rfl, rfl, rfl, le_rfl⟩
theorem State.metaPut_frame (pa : Nat) (u : GUnit) : HomeFrame s (s.metaPut pa u) := ⟨rfl, rfl, rfl, le_rfl⟩
theorem State.freeWord_frame : HomeFrame s s.freeWord.2 := ⟨rfl, rfl, rfl, Nat.le_succ _⟩

theorem State.hbmPuts_frame (us : List GUnit) (pa : Nat) : HomeFrame s (s.hbmPuts pa us) := by
  induction us generalizing s pa with
  | nil => exact .refl s
  | cons u us ih => exact (s.hbmPut_frame pa u).trans (ih _ _)

theorem State.sectorsPut_frame (n a : Nat) (bs : List Byte) : HomeFrame s (s.sectorsPut a n bs) := by
  induction n generalizing s a bs with
  | zero => exact .refl s
  | succ n ih => exact (s.sectorPut_frame a _).trans (ih _ _ _)

theorem State.metaTouch_frame (blk : Nat) : HomeFrame s (s.metaTouch blk) := by
  unfold State.metaTouch
  simp only
  split
  · exact .refl s
  · exact s.modCtl_frame _ _

theorem State.metaTell_frame (blk : Nat) : HomeFrame s (s.metaTell blk) := by
  unfold State.metaTell
  split
  · exact s.toOsm_frame _
  · split
    · exact .refl s
    · exact s.toOsm_frame _

theorem State.setMeta_frame (blk size allot : Nat) : HomeFrame s (s.setMeta blk size allot) := by
  unfold State.setMeta
  simp only
  split
  · exact s.metaTouch_frame blk
  · exact (s.metaTouch_frame blk).trans (State.metaPut_frame _ _ _)

theorem State.unpark_frame (blk : Nat) : HomeFrame s (s.unpark blk) := by
  unfold State.unpark
  split
  · exact .refl s
  · exact s.modCtl_frame _ _

variable {s}

theorem State.park_frame {t : State} {blk n : Nat} {us : List GUnit} (h : s.park blk us n = some t) : HomeFrame s t := by
  unfold State.park at h
  split at h
  · cases h; exact s.modCtl_frame _ _
  · simp only at h
    split at h
    · cases h
    · cases h; exact s.modCtl_frame _ _

theorem State.blockWrite_frame {t : State} {blk a : Nat} {us : List GUnit} (h : s.blockWrite blk a us = some t) :
    HomeFrame s t := by
  have freed (x y : Nat) := (s.unpark_frame blk).trans (State.setMeta_frame _ blk x y)
  unfold State.blockWrite at h
  split at h
  · cases h; exact (freed 0 0).trans (State.hbmPuts_frame _ us _)
  · simp only at h
    split at h
    · exact State.park_frame h
    · split at h
      · cases h; exact (freed _ _).trans (State.hbmPuts_frame _ us _)
      · cases h; exact (freed _ _).trans (State.sectorsPut_frame _ _ _ _)

theorem State.ctlMerge_frame {t : State} {line : Nat} {us : List GUnit} {d : BitVec 32} (h : s.ctlMerge line us d = some t) :
    HomeFrame s t := by
  have told := (s.metaTouch_frame (line / 16)).trans (State.metaTell_frame _ (line / 16))
  unfold State.ctlMerge at h
  simp only at h
  split at h
  · split at h
    · cases h; exact told.trans (State.modCtl_frame _ _ _)
    · exact told.trans (State.blockWrite_frame h)
  · cases h
    refine told.trans (HomeFrame.foldl (fun s i => ?_) _ _)
    split
    · exact s.hbmPut_frame _ _
    · exact .refl s

theorem State.l2Back_frame {t : State} {line : Nat} (h : s.l2Back line = some t) : HomeFrame s t := by
  unfold State.l2Back at h
  split at h
  · cases h; exact .refl s
  · split at h
    · cases h; exact .refl s
    · split at h
      · cases h
      · next hm => cases h; exact (State.ctlMerge_frame hm).trans (State.setL2_frame _ _)

variable (s)

theorem State.l2EvictOne_frame (ls : List Nat) : HomeFrame s (s.l2EvictOne ls) := by
  induction ls with
  | nil => exact .refl s
  | cons l ls ih =>
    unfold State.l2EvictOne
    split
    · next hb => exact (State.l2Back_frame hb).trans (State.setL2_frame _ _)
    · exact ih

theorem State.l2Room_frame (line : Nat) : HomeFrame s (s.l2Room line) := by
  unfold State.l2Room
  simp only
  split
  · exact .refl s
  · exact s.freeWord_frame.trans (State.l2EvictOne_frame _ _)

theorem State.l2Fetch_frame (line : Nat) (tag : Option Nat) : HomeFrame s (s.l2Fetch line tag) :=
  ((s.l2Room_frame line).trans (State.metaTouch_frame _ _)).trans (State.setL2_frame _ _)

theorem State.czTell_frame (blk : Nat) (cz : Option Bool) : HomeFrame s (s.czTell blk cz) := by
  unfold State.czTell
  split
  · split
    · exact .refl s
    · exact (s.toOsm_frame _).trans (State.toPewter_frame _ _)
  · exact .refl s

theorem State.l2FillOne_frame (line : Nat) (cz : Option Bool) (tag : Option Nat) : HomeFrame s (s.l2FillOne line cz tag) := by
  unfold State.l2FillOne
  split
  · exact .refl s
  · exact ((s.l2Fetch_frame line tag).trans (State.metaTell_frame _ _)).trans (State.czTell_frame _ _ _)

theorem State.l2Fill_frame (line : Nat) (cz : Option Bool) : HomeFrame s (s.l2Fill line cz) := by
  unfold State.l2Fill
  split
  · exact .refl s
  · exact (HomeFrame.foldl (fun s l => s.l2FillOne_frame l none none) _ s).trans (State.l2FillOne_frame _ _ _ _)

theorem State.homeGet_frame (pa : Nat) (cz : Option Bool) : HomeFrame s (s.homeGet pa cz).2 := by
  unfold State.homeGet
  simp only
  split <;> exact s.l2Fill_frame _ _

theorem State.homeGets_frame (n pa : Nat) : HomeFrame s (s.homeGets pa n).2 := by
  induction n generalizing s pa with
  | zero => exact .refl s
  | succ n ih => exact (s.homeGet_frame pa none).trans (ih _ _)

theorem State.noteWrite_frame (pa : Nat) : HomeFrame s (s.noteWrite pa) := by
  unfold State.noteWrite
  simp only
  split <;> exact ⟨rfl, rfl, rfl, le_rfl⟩

theorem State.unpoison_frame (pa : Nat) : HomeFrame s (s.unpoison pa) := by
  unfold State.unpoison
  simp only
  split
  · exact s.modDie_frame _ _
  · exact .refl s

theorem State.l2Put_frame (pa : Nat) (u : GUnit) (cz : Option Bool) : HomeFrame s (s.l2Put pa u cz) :=
  (s.l2Fill_frame _ cz).trans (State.setL2_frame _ _)

theorem State.homePut_frame (pa : Nat) (u : GUnit) (cz : Option Bool) : HomeFrame s (s.homePut pa u cz) :=
  ((s.l2Put_frame pa u cz).trans (State.unpoison_frame _ _)).trans (State.noteWrite_frame _ _)

theorem State.homePuts_frame (us : List GUnit) (pa : Nat) : HomeFrame s (s.homePuts pa us) := by
  induction us generalizing s pa with
  | nil => exact .refl s
  | cons u us ih => exact (s.homePut_frame pa u none).trans (ih _ _)

end Frames

end Sys2Proof.Machine
end

section
/-! What the home slices hold after an operation. -/

namespace Sys2Proof.Machine

/-! ### Families of units that change one by one -/

/-- What is read of a map whose entries change one by one is related as the entries are. -/
theorem Map.getD_map_rel {α : Type} {R : α → α → Prop} {f : Nat × α → Nat × α} (h : ∀ e, (f e).1 = e.1 ∧ R e.2 (f e).2)
    (m : Map α) (i : Nat) {z : α} (hz : R z z) : R (m.getD i z) (Map.getD (m.map f) i z) := by
  unfold Map.getD
  induction m with
  | nil => exact hz
  | cons e m ih =>
    obtain ⟨key, val⟩ := h e
    obtain ⟨k, x⟩ := e
    simp only [List.map_cons, Map.find]
    rw [key]
    split
    · exact val
    · exact ih

section Families

variable {s t : State}

theorem State.core_rel {R : Core → Core → Prop} {f : Nat × Core → Nat × Core} (ht : t.cores = s.cores.map f)
    (h : ∀ e, (f e).1 = e.1 ∧ R e.2 (f e).2) (hz : R .empty .empty) (c : Nat) : R (s.core c) (t.core c) := by
  unfold State.core
  rw [ht]
  exact Map.getD_map_rel h s.cores c hz

theorem State.cluster_rel {R : Cluster → Cluster → Prop} {f : Nat × Cluster → Nat × Cluster}
    (ht : t.clusters = s.clusters.map f) (h : ∀ e, (f e).1 = e.1 ∧ R e.2 (f e).2) (hz : R .empty .empty) (n : Nat) :
    R (s.cluster n) (t.cluster n) := by
  unfold State.cluster
  rw [ht]
  exact Map.getD_map_rel h s.clusters n hz

theorem State.ctl_rel {R : Ctl → Ctl → Prop} {f : Nat × Ctl → Nat × Ctl} (ht : t.ctls = s.ctls.map f)
    (h : ∀ e, (f e).1 = e.1 ∧ R e.2 (f e).2) (hz : R .empty .empty) (n : Nat) : R (s.ctl n) (t.ctl n) := by
  unfold State.ctl
  rw [ht]
  exact Map.getD_map_rel h s.ctls n hz

end Families

/-! ### Reads of the stacks -/

/-- The metadata lines that the controllers hold are what their tables hold (R82). -/
def State.MetaCurrent (s : State) : Prop :=
  ∀ n, ∀ e ∈ (s.ctl n).mcache, ∀ j, j < 16 → e.2.getD j .zero = s.hbmUnit (64 * e.1 + 4 * j)

section Reads

variable {s t : State}

/-- A granule has one unit, whichever of its bytes names it (R52). -/
theorem State.hbmUnit_granule {a b : Nat} (h : a / 4 = b / 4) : s.hbmUnit a = s.hbmUnit b := by
  unfold State.hbmUnit
  rw [h]

theorem State.hbmUnit_congr (hm : t.mem = s.mem) (hs : t.side = s.side) (hk : t.marks = s.marks) (pa : Nat) :
    t.hbmUnit pa = s.hbmUnit pa := by
  unfold State.hbmUnit
  rw [hm, hs, hk]

/-- A controller with current lines sees its table as it is (R82). -/
theorem State.MetaCurrent.metaUnit (h : s.MetaCurrent) (blk : Nat) : s.metaUnit blk = s.hbmUnit (s.metaPa blk) := by
  unfold State.metaUnit
  simp only
  split
  · next l us hf =>
    have hl : l = s.metaPa blk / 64 := by simpa using List.find?_some hf
    have hu := h _ _ (List.mem_of_find?_eq_some hf) (s.metaPa blk / 4 % 16) (by omega)
    rw [hu]
    exact s.hbmUnit_granule (by subst hl; dsimp only; omega)
  · rfl

/-- What the controllers deliver depends on the stacks, the metadata that they see and the parked blocks (R81, R85, R86). -/
theorem State.ctlLine_congr (hm : t.mem = s.mem) (hs : t.side = s.side) (hk : t.marks = s.marks)
    (ho : ∀ n, (t.ctl n).overflow = (s.ctl n).overflow) (hp : ∀ blk, t.metaPa blk = s.metaPa blk)
    (hu : ∀ blk, t.metaUnit blk = s.metaUnit blk) (line : Nat) : t.ctlLine line = s.ctlLine line := by
  have of (blk : Nat) : t.metaOf blk = s.metaOf blk := by unfold State.metaOf; rw [hp, hu]
  have good (blk : Nat) : t.metaGood blk = s.metaGood blk := by unfold State.metaGood; rw [hu, of]
  have parked (blk : Nat) : t.parked? blk = s.parked? blk := by unfold State.parked?; rw [ho]
  have coded (blk : Nat) : t.coded? blk = s.coded? blk := by unfold State.coded?; rw [hu, of, parked]
  have unit := State.hbmUnit_congr hm hs hk
  have stream (blk n : Nat) : t.storedStream blk n = s.storedStream blk n := by
    unfold State.storedStream State.sectorBytes
    rw [hm, hs, hk]
  have units (blk : Nat) : t.blockUnits blk = s.blockUnits blk := by
    unfold State.blockUnits
    simp only [parked, good, of, unit, stream]
  unfold State.ctlLine
  simp only [coded, good, units, unit]

/-- What the home slices answer depends on their lines and on what the controllers deliver (R75). -/
theorem State.home_congr (hl : t.l2 = s.l2) (hc : ∀ line, t.ctlLine line = s.ctlLine line) (pa : Nat) :
    t.home pa = s.home pa := by
  unfold State.home
  rw [hl, hc]

/-- Where every L1 and every home slice holds the same, no core sees a difference (R71, R73). -/
theorem SameMemory.of_home (hc : ∀ c, (t.core c).l1 = (s.core c).l1) (hf : ∀ n, (t.cluster n).fused = (s.cluster n).fused)
    (hh : ∀ pa, t.home pa = s.home pa) : SameMemory s t := by
  intro core pa
  have one : t.l1Unit core pa = s.l1Unit core pa := by
    unfold State.l1Unit State.l1Core
    rw [hf, hc]
  unfold State.peek
  rw [one, hh]

end Reads

/-! ### Steps of the home slices -/

/-- No line left a home slice between `s` and `t` unless a free choice was drawn; where none was, the stacks are as they were, and
where the metadata lines were current, the home slices hold the units that `w` names by granule and beside them what they held. -/
structure HomeStep (w : Nat → Option GUnit) (s t : State) : Prop where
  free : s.free ≤ t.free
  kept : t.free = s.free → t.mem = s.mem ∧ t.side = s.side ∧ t.marks = s.marks
  current : t.free = s.free → s.MetaCurrent → t.MetaCurrent
  home : t.free = s.free → s.MetaCurrent → ∀ pa, t.home pa = (w (pa / 4)).getD (s.home pa)

/-- No unit changes. -/
abbrev HomeReads : State → State → Prop := HomeStep fun _ => none

namespace HomeStep

variable {s t u : State} {v w : Nat → Option GUnit}

theorem refl (s : State) : HomeReads s s := ⟨le_rfl, fun _ => ⟨rfl, rfl, rfl⟩, fun _ h => h, fun _ _ _ => rfl⟩

/-- A step that draws a free choice promises nothing. -/
theorem of_lt (h : s.free < t.free) : HomeStep w s t :=
  ⟨h.le, fun e => absurd e h.ne', fun e => absurd e h.ne', fun e => absurd e h.ne'⟩

theorem trans (h : HomeStep v s t) (g : HomeStep w t u) : HomeStep (fun n => (w n).or (v n)) s u := by
  have split (e : u.free = s.free) : t.free = s.free ∧ u.free = t.free := by
    have := h.free
    have := g.free
    omega
  refine ⟨h.free.trans g.free, fun e => ?_, fun e c => ?_, fun e c pa => ?_⟩
  · obtain ⟨e1, e2⟩ := split e
    obtain ⟨m1, s1, k1⟩ := h.kept e1
    obtain ⟨m2, s2, k2⟩ := g.kept e2
    exact ⟨m2.trans m1, s2.trans s1, k2.trans k1⟩
  · obtain ⟨e1, e2⟩ := split e
    exact g.current e2 (h.current e1 c)
  · obtain ⟨e1, e2⟩ := split e
    rw [g.home e2 (h.current e1 c), h.home e1 c]
    cases w (pa / 4) <;> rfl

theorem trans_reads (h : HomeStep w s t) (g : HomeReads t u) : HomeStep w s u := by simpa using h.trans g

theorem reads_trans (h : HomeReads s t) (g : HomeStep w t u) : HomeStep w s u := by simpa using h.trans g

theorem foldl_reads {α : Type} {f : State → α → State} (h : ∀ s x, HomeReads s (f s x)) (l : List α) (s : State) :
    HomeReads s (l.foldl f s) := by
  induction l generalizing s with
  | nil => exact refl s
  | cons x l ih => exact (h s x).trans_reads (ih _)

/-- What leaves the stacks, the controllers and the home slices alone changes no unit. -/
theorem of_same (hm : t.mem = s.mem) (hs : t.side = s.side) (hk : t.marks = s.marks) (hl : t.l2 = s.l2) (hc : t.ctls = s.ctls)
    (hz : t.osm.czmbase = s.osm.czmbase) (hf : t.free = s.free) : HomeReads s t := by
  have ctl (n : Nat) : t.ctl n = s.ctl n := by unfold State.ctl; rw [hc]
  have unit := State.hbmUnit_congr hm hs hk
  have pa (blk : Nat) : t.metaPa blk = s.metaPa blk := by unfold State.metaPa; rw [hz]
  have meta_ (blk : Nat) : t.metaUnit blk = s.metaUnit blk := by
    unfold State.metaUnit
    simp only [ctl, pa, unit]
  refine ⟨hf.ge, fun _ => ⟨hm, hs, hk⟩, fun _ h n e he j hj => ?_, fun _ _ => ?_⟩
  · rw [unit]
    exact h n e (ctl n ▸ he) j hj
  · exact State.home_congr hl (State.ctlLine_congr hm hs hk (fun n => by rw [ctl]) pa meta_)

theorem undisturbed (h : HomeStep w s t) (hu : Undisturbed s t) : ∀ pa, t.home pa = (w (pa / 4)).getD (s.home pa) :=
  h.home hu.1 hu.2

theorem sameStacks (h : HomeStep w s t) (hf : t.free = s.free) : SameStacks s t :=
  ⟨(h.kept hf).1, (h.kept hf).2.1⟩

end HomeStep

section Steps

variable (s : State)

theorem State.metaTouch_l2 (blk : Nat) : (s.metaTouch blk).l2 = s.l2 := by
  unfold State.metaTouch
  simp only
  split <;> rfl

theorem State.metaTell_l2 (blk : Nat) : (s.metaTell blk).l2 = s.l2 := by
  unfold State.metaTell
  split
  · rfl
  · split <;> rfl

theorem State.czTell_l2 (blk : Nat) (cz : Option Bool) : (s.czTell blk cz).l2 = s.l2 := by
  unfold State.czTell
  split
  · split <;> rfl
  · rfl

/-- Bringing a metadata line to the front keeps what it and the others hold (R82). -/
theorem State.metaTouch_current (blk : Nat) (h : s.MetaCurrent) : (s.metaTouch blk).MetaCurrent := by
  unfold State.metaTouch
  simp only
  split
  · exact h
  · intro n e he j hj
    change _ = s.hbmUnit _
    by_cases hn : ctlOfPa (blk * 2048) = n
    · subst hn
      rw [State.ctl_modCtl_self] at he
      rcases List.mem_cons.1 (List.mem_of_mem_take he) with rfl | he
      · cases hf : (s.ctl (ctlOfPa (blk * 2048))).mcache.find? fun e => e.1 == s.metaPa blk / 64 with
        | none => simp only [Option.map_none, Option.getD_none, getD_map_span _ _ hj]
        | some x =>
          have hx : x.1 = s.metaPa blk / 64 := by simpa using List.find?_some hf
          simpa only [Option.map_some, Option.getD_some, hx] using h _ x (List.mem_of_find?_eq_some hf) j hj
      · exact h _ e (List.mem_of_mem_filter he) j hj
    · rw [State.ctl_modCtl_ne _ _ hn] at he
      exact h n e he j hj

theorem State.metaTouch_overflow (blk n : Nat) : ((s.metaTouch blk).ctl n).overflow = (s.ctl n).overflow := by
  unfold State.metaTouch
  simp only
  split
  · rfl
  · by_cases hn : ctlOfPa (blk * 2048) = n
    · subst hn; simp
    · rw [State.ctl_modCtl_ne _ _ hn]

theorem State.metaTouch_stacks (blk : Nat) :
    (s.metaTouch blk).mem = s.mem ∧ (s.metaTouch blk).side = s.side ∧ (s.metaTouch blk).marks = s.marks ∧
      (s.metaTouch blk).free = s.free := by
  unfold State.metaTouch
  simp only
  split <;> exact ⟨rfl, rfl, rfl, rfl⟩

theorem State.metaPa_congr {s t : State} (h : t.osm.czmbase = s.osm.czmbase) (blk : Nat) : t.metaPa blk = s.metaPa blk := by
  unfold State.metaPa
  rw [h]

/-- Two states with the same stacks and current metadata lines see the same metadata. -/
theorem State.MetaCurrent.metaUnit_congr {s t : State} (h : s.MetaCurrent) (g : t.MetaCurrent) (hm : t.mem = s.mem)
    (hs : t.side = s.side) (hk : t.marks = s.marks) (hz : t.osm.czmbase = s.osm.czmbase) (blk : Nat) :
    t.metaUnit blk = s.metaUnit blk := by
  rw [h.metaUnit, g.metaUnit, State.metaPa_congr hz, State.hbmUnit_congr hm hs hk]

/-- Bringing a metadata line to the front changes nothing that a controller delivers. -/
theorem State.metaTouch_ctlLine (blk : Nat) (h : s.MetaCurrent) (line : Nat) :
    (s.metaTouch blk).ctlLine line = s.ctlLine line := by
  obtain ⟨hm, hs, hk, -⟩ := s.metaTouch_stacks blk
  have hz : (s.metaTouch blk).osm.czmbase = s.osm.czmbase := congrArg Osm.czmbase (s.metaTouch_frame blk).osm
  exact State.ctlLine_congr hm hs hk (s.metaTouch_overflow blk) (State.metaPa_congr hz)
    (h.metaUnit_congr (s.metaTouch_current blk h) hm hs hk hz) line

theorem State.metaTouch_step (blk : Nat) : HomeReads s (s.metaTouch blk) := by
  obtain ⟨hm, hs, hk, hf⟩ := s.metaTouch_stacks blk
  exact ⟨hf.ge, fun _ => ⟨hm, hs, hk⟩, fun _ => s.metaTouch_current blk,
    fun _ h => State.home_congr (s.metaTouch_l2 blk) (s.metaTouch_ctlLine blk h)⟩

theorem State.metaTell_step (blk : Nat) : HomeReads s (s.metaTell blk) := by
  unfold State.metaTell
  split
  · exact .of_same rfl rfl rfl rfl rfl rfl rfl
  · split
    · exact .refl s
    · exact .of_same rfl rfl rfl rfl rfl rfl rfl

theorem State.czTell_step (blk : Nat) (cz : Option Bool) : HomeReads s (s.czTell blk cz) := by
  unfold State.czTell
  split
  · split
    · exact .refl s
    · exact .of_same rfl rfl rfl rfl rfl rfl rfl
  · exact .refl s

/-- Room is there, or a line leaves by a free choice (R75, log 78). -/
theorem State.l2Room_cases (line : Nat) : s.l2Room line = s ∨ s.free < (s.l2Room line).free := by
  unfold State.l2Room
  simp only
  split
  · exact .inl rfl
  · exact .inr (Nat.lt_of_succ_le (State.l2EvictOne_frame s.freeWord.2 _).free)

/-- A line that a home slice enters with what its controller delivers reads as before. -/
theorem State.l2Enter_step (line : Nat) (d : BitVec 32) (cz : Bool) (tag : Option Nat) (h : s.l2.find line = none) :
    HomeReads s { s with l2 := s.l2.set line ⟨s.ctlLine line, d, cz, tag⟩ } := by
  refine ⟨le_rfl, fun _ => ⟨rfl, rfl, rfl⟩, fun _ h => h, fun _ _ pa => ?_⟩
  change State.home _ pa = s.home pa
  unfold State.home
  by_cases hl : line = pa / 128
  · subst hl; simp [h]
  · simp only [Map.find_set_ne _ _ hl]; rfl

theorem State.l2Fetch_step (line : Nat) (tag : Option Nat) (h : s.l2.find line = none) :
    HomeReads s (s.l2Fetch line tag) := by
  rcases s.l2Room_cases line with room | drawn
  · unfold State.l2Fetch
    rw [room]
    exact (s.metaTouch_step _).trans_reads (State.l2Enter_step _ _ _ _ _ (by rw [s.metaTouch_l2]; exact h))
  · exact .of_lt (drawn.trans_le ((State.metaTouch_frame _ _).trans (State.setL2_frame _ _)).free)

theorem State.l2FillOne_step (line : Nat) (cz : Option Bool) (tag : Option Nat) : HomeReads s (s.l2FillOne line cz tag) := by
  unfold State.l2FillOne
  split
  · exact .refl s
  · next h =>
    exact ((s.l2Fetch_step line tag h).trans_reads (State.metaTell_step _ _)).trans_reads (State.czTell_step _ _ _)

theorem State.l2FillOne_present (line : Nat) (cz : Option Bool) (tag : Option Nat) :
    ((s.l2FillOne line cz tag).l2.find line).isSome = true := by
  unfold State.l2FillOne
  split
  · next h => rw [h]; rfl
  · rw [State.czTell_l2, State.metaTell_l2]
    simp [State.l2Fetch]

theorem State.l2Fill_step (line : Nat) (cz : Option Bool) : HomeReads s (s.l2Fill line cz) := by
  unfold State.l2Fill
  split
  · exact .refl s
  · exact (HomeStep.foldl_reads (fun s l => s.l2FillOne_step l none none) _ s).trans_reads (State.l2FillOne_step _ _ _ _)

theorem State.l2Fill_present (line : Nat) (cz : Option Bool) : ((s.l2Fill line cz).l2.find line).isSome = true := by
  unfold State.l2Fill
  split
  · next h => rw [h]; rfl
  · exact State.l2FillOne_present _ _ _ _

theorem State.homeGet_step (pa : Nat) (cz : Option Bool) : HomeReads s (s.homeGet pa cz).2 := by
  unfold State.homeGet
  simp only
  split <;> exact s.l2Fill_step _ _

theorem State.homeGets_step (n pa : Nat) : HomeReads s (s.homeGets pa n).2 := by
  induction n generalizing s pa with
  | zero => exact .refl s
  | succ n ih => exact (s.homeGet_step pa none).trans_reads (ih _ _)

theorem State.noteWrite_step (pa : Nat) : HomeReads s (s.noteWrite pa) := by
  unfold State.noteWrite
  simp only
  split <;> exact .of_same rfl rfl rfl rfl rfl rfl rfl

theorem State.unpoison_step (pa : Nat) : HomeReads s (s.unpoison pa) := by
  unfold State.unpoison
  simp only
  split
  · exact .of_same rfl rfl rfl rfl rfl rfl rfl
  · exact .refl s

/-- A write of one granule's unit. -/
def unitWrite (g : Nat) (u : GUnit) (n : Nat) : Option GUnit := if n = g then some u else none

/-- Putting a unit into a line that a home slice holds. -/
theorem State.l2Change_step (pa : Nat) (u : GUnit) (h : (s.l2.find (pa / 128)).isSome = true) :
    HomeStep (unitWrite (pa / 4) u) s { s with l2 := s.l2.alter (pa / 128) fun l =>
      { l with units := unitsSet l.units (pa / 4 % 32) u, dirty := l.dirty ||| (1#32 <<< (pa / 4 % 32)) } } := by
  refine ⟨le_rfl, fun _ => ⟨rfl, rfl, rfl⟩, fun _ h => h, fun _ _ x => ?_⟩
  obtain ⟨l, hl⟩ := Option.isSome_iff_exists.1 h
  unfold State.home unitWrite
  simp only [Map.find_alter]
  by_cases hx : pa / 128 = x / 128
  · have slot : x / 4 % 32 = pa / 4 % 32 ↔ x / 4 = pa / 4 := by omega
    rw [← hx]
    simp only [hl, if_true, Option.map_some, unitsSet, getD_map_span _ _ (show x / 4 % 32 < 32 by omega), slot]
    split <;> rfl
  · have : ¬x / 4 = pa / 4 := by omega
    simp only [hx, if_false, this, Option.getD_none]
    rfl

theorem State.l2Put_step (pa : Nat) (u : GUnit) (cz : Option Bool) : HomeStep (unitWrite (pa / 4) u) s (s.l2Put pa u cz) :=
  (s.l2Fill_step _ cz).reads_trans (State.l2Change_step _ pa u (s.l2Fill_present _ cz))

/-- A store performed at its home slice changes its granule and no other (R98). -/
theorem State.homePut_step (pa : Nat) (u : GUnit) (cz : Option Bool) : HomeStep (unitWrite (pa / 4) u) s (s.homePut pa u cz) :=
  ((s.l2Put_step pa u cz).trans_reads (State.unpoison_step _ _)).trans_reads (State.noteWrite_step _ _)

/-- A write of consecutive granules' units from a granule on. -/
def unitWrites : Nat → List GUnit → Nat → Option GUnit
  | _, [], _ => none
  | g, u :: us, n => (unitWrites (g + 1) us n).or (unitWrite g u n)

theorem State.homePuts_step (us : List GUnit) (pa : Nat) : HomeStep (unitWrites (pa / 4) us) s (s.homePuts pa us) := by
  induction us generalizing s pa with
  | nil => exact .refl s
  | cons u us ih =>
    have rest := ih (s.homePut pa u none) (pa + 4)
    rw [show (pa + 4) / 4 = pa / 4 + 1 by omega] at rest
    exact (s.homePut_step pa u none).trans rest

end Steps

end Sys2Proof.Machine
end

section
/-! Settling the statement about the reset state (R8, R21, R24, R182, R376). -/

namespace Sys2Proof.Machine

theorem State.reset_hbmUnit (pa : Nat) : State.reset.hbmUnit pa = .zero := rfl

theorem State.reset_metaUnit (blk : Nat) : State.reset.metaUnit blk = .zero := rfl

/-- The byte of a zero metadata granule: neither allotted nor bad (R81). -/
theorem State.reset_metaOf (blk : Nat) : State.reset.metaOf blk = 0 := by
  unfold State.metaOf
  rw [State.reset_metaUnit]
  change BitVec.ofNat 8 (0 / _) = 0
  rw [Nat.zero_div]
  rfl

theorem gc8From_zero (n : Nat) : gc8From 0 n 0 = 0 := by
  induction n with
  | zero => rfl
  | succ n ih => simpa [gc8From, gc8Step] using ih

theorem gc8_zero : gc8 0#32 = 0#8 := gc8From_zero 32

theorem zero_ok : GUnit.zero.ok = true := by simp [GUnit.ok, GUnit.zero, gc8_zero]

/-- After a cold reset every block lies plainly in the stacks, which hold zero units (R376). -/
theorem State.reset_ctlLine (line : Nat) : State.reset.ctlLine line = (span 0 32).map fun _ => GUnit.zero := by
  have plain : State.reset.coded? (line / 16) = false := by
    have none_parked : State.reset.parked? (line / 16) = none := rfl
    simp [State.coded?, State.reset_metaOf, metaAllot, none_parked]
  have good : State.reset.metaGood (line / 16) = true := by
    simp [State.metaGood, State.reset_metaUnit, State.reset_metaOf, zero_ok, metaValid, metaSize, metaAllot]
  unfold State.ctlLine
  simp only [plain, good, State.reset_hbmUnit, Bool.not_true, Bool.or_self, Bool.false_eq_true, if_false]

theorem State.reset_home (pa : Nat) : State.reset.home pa = .zero := by
  change (State.reset.ctlLine (pa / 128)).getD (pa / 4 % 32) .zero = .zero
  rw [State.reset_ctlLine, getD_map_span _ _ (Nat.mod_lt _ (by decide))]

end Sys2Proof.Machine

open Sys2Proof.Machine in
/-- Settles O53: every entry of the reset state reads as its reset value, and the home slices answer zero units. -/
theorem resetState : Obligations.ResetState := by
  unfold Obligations.ResetState
  exact ⟨⟨rfl, rfl⟩, ⟨rfl, rfl⟩, fun pa => ⟨rfl, State.reset_home pa⟩, fun _ pa => State.reset_home pa,
    fun _ _ => ⟨rfl, rfl⟩, fun _ => ⟨rfl, rfl⟩, fun _ => ⟨BitVec.getLsbD_zero, rfl, rfl, rfl⟩, fun _ => ⟨rfl, rfl⟩, fun _ => rfl,
    rfl, rfl, rfl, rfl, rfl, rfl, fun _ => rfl, rfl, rfl⟩
end

section
/-! Settling the statement about the steps of the translation units (R7, R38, R42 to R47, R49 to R51). -/

namespace Sys2Proof.Machine

/-! ### Fields and maps -/

theorem bvf_ofNat (w n lo k : Nat) : bvf (BitVec.ofNat w n) lo k = n % 2 ^ w / 2 ^ lo % 2 ^ k := by
  simp [bvf]

/-- A ring register after a write (R8, R46, R88): BASE and EN are the written ones; LOG is, where the ring may have that size. -/
theorem ringWrite_fields (old new : BitVec 64) (irq : Bool) :
    bvf (ringWrite old new irq) 12 36 = bvf new 12 36 ∧ bvf (ringWrite old new irq) 0 1 = bvf new 0 1 ∧
      bvf (ringWrite old new irq) 4 4 = if 4 ≤ bvf new 4 4 ∧ bvf new 4 4 ≤ 12 then bvf new 4 4 else bvf old 4 4 := by
  have small (x : BitVec 64) (lo n : Nat) : bvf x lo n < 2 ^ n := Nat.mod_lt _ (Nat.two_pow_pos n)
  unfold ringWrite
  have base := small new 12 36
  have en := small new 0 1
  have log : (if 4 ≤ bvf new 4 4 ∧ bvf new 4 4 ≤ 12 then bvf new 4 4 else bvf old 4 4) < 2 ^ 4 := by
    split <;> exact small _ _ _
  have iq : (if !irq then 0 else if bvf new 48 5 ≤ 23 then bvf new 48 5 else bvf old 48 5) < 2 ^ 5 := by
    split
    · decide
    · split <;> exact small _ _ _
  simp only [bvf_ofNat]
  refine ⟨?_, ?_, ?_⟩ <;> omega

/-! ### Fault records and verdicts -/

section Records

variable {s : State} {ctx uid : Nat} {v : BitVec 64}

theorem execPageWalk_eq {core : Nat} {va : VAddr} {acc : Access} (h : s.arg = .pageWalk core ctx va acc)
    (hv : va.toNat < 5 * 2 ^ 55) (hc : ctx < 4096) : exec .pageWalk s =
      .next (s.translate { unitAgent ctx with core := if core < 192 then core else 0xFFFF } va.toNat acc).2 := by
  change execPageWalk s = _
  unfold execPageWalk
  rw [h]
  exact if_neg (by omega)

/-- A record is written to its ring, numbered and announced once (R44, R46). -/
theorem faultRecordWrite_step {r : FaultRec} (h : s.arg = .faultRecordWrite uid)
    (hr : (s.recs.find? fun r => r.uid == uid && r.seq.isNone) = some r) (on : (s.ctx r.ctx).frcfg.getLsbD 0 = true)
    (room : ((s.ctx r.ctx).frWr - (s.ctx r.ctx).frRd).toNat ≠ 2 ^ bvf (s.ctx r.ctx).frcfg 4 4) :
    ∃ t, exec .faultRecordWrite s = .next t ∧ (t.ctx r.ctx).frWr = (s.ctx r.ctx).frWr + 1 ∧
      (t.ctx r.ctx).replaySeq = (s.ctx r.ctx).replaySeq + 1 ∧ (t.ctx r.ctx).frIrq = true ∧
      t.out.irqs = (if (s.ctx r.ctx).frIrq = true then s.out.irqs else s.out.irqs ++ [((s.ctx r.ctx).irq, 0)]) ∧
      (∀ x ∈ t.recs, x.uid = uid → x.seq = some (s.ctx r.ctx).replaySeq) ∧ (Undisturbed s t → SameStacks s t) := by
  have ready : (ringOn (s.ctx r.ctx).frcfg && ringRoom (s.ctx r.ctx).frcfg (s.ctx r.ctx).frRd (s.ctx r.ctx).frWr) = true := by
    simp only [ringOn, ringRoom, ringSize, on, room, ne_eq, not_false_eq_true, decide_true, Bool.and_self]
  have run : exec .faultRecordWrite s = execFaultRecordWrite s := rfl
  rw [run]
  unfold execFaultRecordWrite
  simp only [h, hr, ready, Bool.not_true, Bool.false_eq_true, if_false]
  refine ⟨_, rfl, ?_⟩
  generalize hp : s.homePuts _ _ = p
  have frame : HomeFrame s p := hp ▸ s.homePuts_frame _ _
  have kept : p.free = s.free → SameStacks s p := by
    subst hp
    exact (s.homePuts_step _ _).sameStacks
  generalize hq : (if (s.ctx r.ctx).frIrq = true then _ else _) = q
  have hctx : q.ctx r.ctx = s.ctx r.ctx := by
    have : q.ctxs = s.ctxs := by subst hq; split <;> exact frame.ctxs
    unfold State.ctx
    rw [this]
  have irqs : q.out.irqs = if (s.ctx r.ctx).frIrq = true then s.out.irqs else s.out.irqs ++ [((s.ctx r.ctx).irq, 0)] := by
    subst hq
    split
    · exact frame.irqs
    · exact congrArg (· ++ _) frame.irqs
  have recs : q.recs = p.recs.map fun y => if y.uid == uid then { y with seq := some (s.ctx r.ctx).replaySeq } else y := by
    subst hq; split <;> rfl
  have same : q.free = p.free ∧ q.mem = p.mem ∧ q.side = p.side := by
    subst hq; split <;> exact ⟨rfl, rfl, rfl⟩
  simp only [State.ctx_modCtx_self, hctx]
  refine ⟨trivial, trivial, trivial, irqs, fun x hx hu => ?_, fun hd => ?_⟩
  · obtain ⟨y, -, rfl⟩ := List.mem_map.1 (recs ▸ hx)
    by_cases hy : y.uid = uid
    · simp [hy]
    · simp [hy] at hu
  · obtain ⟨hf, hm, hs⟩ := same
    obtain ⟨km, ks⟩ := kept (hf.symm.trans hd.1)
    exact ⟨hm.trans km, hs.trans ks⟩

theorem execFrcfgWrite_eq (h : s.arg = .frcfgWrite ctx v) : exec .frcfgWrite s =
    if s.inOwned (ringBase v) 0 then .next (s.modCtx ctx fun c => { c with frcfg := ringWrite c.frcfg v false })
    else .next (s.xlerrSet 3) := by
  change execFrcfgWrite s = _
  unfold execFrcfgWrite
  rw [h]

theorem execFridxWrite_eq {rd : BitVec 32} (h : s.arg = .fridxWrite ctx rd) : exec .fridxWrite s =
    if pastWr (s.ctx ctx).frRd (s.ctx ctx).frWr rd then .next (s.xlerrSet 2)
    else .next (s.modCtx ctx fun c => { c with frRd := rd, frIrq := false }) := by
  change execFridxWrite s = _
  unfold execFridxWrite
  rw [h]

/-- No thread waits on an answered record for want of another (R45). -/
theorem Wave.stillHeld_ne (w : Wave) (pc : VAddr) (a : Nat) : w.stillHeld uid pc ≠ .replay uid a := by
  unfold Wave.stillHeld
  cases hf : w.threads.findSome? _ with
  | none => exact Hold.noConfusion
  | some o =>
    obtain ⟨e, -, he⟩ := List.exists_of_findSome?_eq_some hf
    intro ho
    split at he
    · next hold =>
      cases he
      simp only [Option.getD_some] at ho
      simp [ho, Hold.onRec] at hold
    · cases he

/-- After RETRY no thread of a wave waits on the record (R45). -/
theorem Wave.retry_threads (w : Wave) : ∀ th ∈ (w.retry uid).threads, ∀ a, th.2.hold ≠ .replay uid a := by
  intro th hth a
  obtain ⟨e, -, rfl⟩ := List.mem_map.1 hth
  dsimp only
  split
  · exact w.stillHeld_ne e.2.pc a
  · next hold =>
    intro ha
    simp [ha, Hold.onRec] at hold

/-- RETRY leaves every L1, the fusion of the clusters and the home slices as they are (R45). -/
theorem State.retryRec_memory (r : FaultRec) : SameMemory s (s.retryRec r) := by
  have dropped := State.core_rel (s := s) (t := s.tlbDropPage r.ctx r.page) (R := fun x y => y.l1 = x.l1) rfl
    (by exact fun _ => ⟨rfl, rfl⟩) rfl
  have cores := State.core_rel (s := s.tlbDropPage r.ctx r.page) (t := s.retryRec r) (R := fun x y => y.l1 = x.l1) rfl
    (by exact fun _ => ⟨rfl, rfl⟩) rfl
  have clusters := State.cluster_rel (s := s) (t := s.retryRec r) (R := fun x y => y.fused = x.fused) rfl
    (by exact fun _ => ⟨rfl, rfl⟩) rfl
  exact .of_home (fun c => (cores c).trans (dropped c)) clusters (State.home_congr rfl fun _ => rfl)

theorem State.closeRec_recs : ∀ x ∈ (s.closeRec uid).recs, x.uid ≠ uid := by
  intro x hx
  simpa using (List.mem_filter.1 hx).2

section Verdicts

variable {res : BitVec 30} {seq : BitVec 32} {r : FaultRec}

theorem execReplayRetry_unanswered (h : s.arg = .replayRetry ctx res seq) (hr : s.answered ctx res seq = none) :
    exec .replayRetry s = .next (s.xlerrSet 1) := by
  change execReplayRetry s = _
  unfold execReplayRetry
  simp only [h, hr]

theorem execReplayRetry_answered (h : s.arg = .replayRetry ctx res seq) (hr : s.answered ctx res seq = some r) :
    exec .replayRetry s = .next (s.retryRec r) := by
  change execReplayRetry s = _
  unfold execReplayRetry
  simp only [h, hr]

theorem execReplayFatal_unanswered (h : s.arg = .replayFatal ctx res seq) (hr : s.answered ctx res seq = none) :
    exec .replayFatal s = .next (s.xlerrSet 1) := by
  change execReplayFatal s = _
  unfold execReplayFatal
  simp only [h, hr]

theorem execReplayFatal_answered (h : s.arg = .replayFatal ctx res seq) (hr : s.answered ctx res seq = some r) :
    exec .replayFatal s = .next (s.fatalRec r) := by
  change execReplayFatal s = _
  unfold execReplayFatal
  simp only [h, hr]

end Verdicts

/-- RETRY closes its record and frees its threads; nothing of a context or of memory changes (R45, R47). -/
theorem State.retryRec_step (r : FaultRec) : (∀ x ∈ (s.retryRec r).recs, x.uid ≠ r.uid) ∧ (s.retryRec r).ctxs = s.ctxs ∧
    SameMemory s (s.retryRec r) ∧
    ∀ c ∈ (s.retryRec r).cores, ∀ w ∈ c.2.waves, ∀ th ∈ w.2.threads, ∀ a, th.2.hold ≠ .replay r.uid a := by
  refine ⟨State.closeRec_recs, rfl, State.retryRec_memory r, fun c hc w hw th hth a => ?_⟩
  obtain ⟨k, -, rfl⟩ := List.mem_map.1 hc
  obtain ⟨x, -, rfl⟩ := List.mem_map.1 hw
  exact x.2.retry_threads th hth a

theorem execReplayRefused_eq (h : s.arg = .replayRefused ctx v) (hv : bvf v 62 2 = 0 ∨ bvf v 62 2 = 3) :
    exec .replayRefused s = .next (s.xlerrSet 1) := by
  change execReplayRefused s = _
  unfold execReplayRefused
  rw [h]
  exact if_pos (by simpa using hv)

end Records

/-! ### Invalidation -/

section Invalidation

variable {s : State} {v : BitVec 64}

theorem execXlinvaWrite_eq (h : s.arg = .xlinvaWrite v) : exec .xlinvaWrite s =
    if s.sup.xlinvc.isSome then .next s
    else if bvf v 58 6 ≠ 0 ∨ bvf v 0 14 ≠ 0 then .next (s.xlerrSet 0)
    else .next { s with sup := { s.sup with xlinva := v } } := by
  change execXlinvaWrite s = _
  unfold execXlinvaWrite
  rw [h]

/-- Both commands of XLINVC write the register, each of them with its own value of bit 45 (R49). -/
theorem exec_xlinvc {i : Instr} (h : (i = .xlinvPage ∧ s.arg = .xlinvPage v ∧ v.getLsbD 45 = false) ∨
    (i = .xlinvAll ∧ s.arg = .xlinvAll v ∧ v.getLsbD 45 = true)) : exec i s = .next (s.xlinvc v) := by
  rcases h with ⟨rfl, h, hb⟩ | ⟨rfl, h, hb⟩
  · change execXlinvPage s = _
    unfold execXlinvPage
    rw [h]
    exact if_pos (by rw [hb]; rfl)
  · change execXlinvAll s = _
    unfold execXlinvAll
    rw [h]
    exact if_pos hb

/-- A step that leaves the stacks alone unless a free choice is drawn. -/
structure StacksStep (s t : State) : Prop where
  free : s.free ≤ t.free
  kept : t.free = s.free → SameStacks s t

theorem StacksStep.refl (s : State) : StacksStep s s := ⟨le_rfl, fun _ => ⟨rfl, rfl⟩⟩

theorem StacksStep.trans {s t u : State} (h : StacksStep s t) (g : StacksStep t u) : StacksStep s u := by
  refine ⟨h.free.trans g.free, fun e => ?_⟩
  have := h.free
  have := g.free
  obtain ⟨m1, k1⟩ := h.kept (by omega)
  obtain ⟨m2, k2⟩ := g.kept (by omega)
  exact ⟨m2.trans m1, k2.trans k1⟩

theorem StacksStep.foldl {α : Type} {f : State → α → State} (h : ∀ s x, StacksStep s (f s x)) (l : List α) (s : State) :
    StacksStep s (l.foldl f s) := by
  induction l generalizing s with
  | nil => exact .refl s
  | cons x l ih => exact (h s x).trans (ih _)

theorem HomeStep.stacksStep {s t : State} {w : Nat → Option GUnit} (h : HomeStep w s t) : StacksStep s t := ⟨h.free, h.sameStacks⟩

theorem State.modCore_stacksStep (s : State) (c : Nat) (f : Core → Core) : StacksStep s (s.modCore c f) :=
  ⟨le_rfl, fun _ => ⟨rfl, rfl⟩⟩

/-- Dirty granules go to their home slices, not to the stacks (R71, R75). -/
theorem State.l1Back_stacksStep (s : State) (c line : Nat) : StacksStep s (s.l1Back c line) := by
  unfold State.l1Back
  split
  · exact .refl s
  · refine (StacksStep.foldl (fun s e => ?_) _ s).trans (State.modCore_stacksStep _ _ _)
    split
    · exact (s.homePut_step _ _ _).stacksStep
    · exact .refl s

/-- A completed command leaves no buffered translation that it names (R49 to R51). -/
theorem xlinvComplete_step (h : s.arg = .xlinvComplete) (hv : s.sup.xlinvc = some v) : ∃ t, exec .xlinvComplete s = .next t ∧
    t.sup.xlinvc = none ∧ (Undisturbed s t → SameStacks s t) ∧
    (∀ c ∈ t.cores, ∀ e ∈ c.2.tlb, e.matched v s.sup.xlinva = false) ∧
    (∀ c ∈ t.clusters, ∀ e ∈ c.2.tlb, e.matched v s.sup.xlinva = false) ∧
    ∀ c ∈ t.dies, ∀ e ∈ c.2.tlb, e.matched v s.sup.xlinva = false := by
  have run : exec .xlinvComplete s = execXlinvComplete s := rfl
  rw [run]
  unfold execXlinvComplete
  simp only [h, hv]
  refine ⟨_, rfl, rfl, fun hd => ?_, ?_, ?_, ?_⟩
  · exact (StacksStep.foldl (fun s c => StacksStep.foldl (fun s l => s.l1Back_stacksStep c.1 l) _ s) s.cores s).kept hd.1
  all_goals
    intro c hc e he
    obtain ⟨x, -, rfl⟩ := List.mem_map.1 hc
    simpa using (List.mem_filter.1 he).2

end Invalidation

end Sys2Proof.Machine

open Sys2Proof.Machine in
/-- Settles O44: each step's equation decides its refusals; what a record's write and an invalidation leave in the stacks follows from
the home slices' steps. -/
theorem translationSteps : Obligations.TranslationSteps := by
  unfold Obligations.TranslationSteps
  intro s ctx uid core v rd seq res r va acc xlerr ring
  refine ⟨fun h hv hc => execPageWalk_eq h hv hc, fun h hr on room => faultRecordWrite_step h hr on room, fun h => ⟨?_, ?_⟩,
    fun h => ⟨?_, ?_⟩, fun h => ⟨?_, ?_⟩, fun h => ⟨?_, ?_⟩, fun h hv => execReplayRefused_eq h hv, fun h => ⟨?_, ?_, ?_⟩,
    fun i h => ⟨?_, ?_, ?_⟩, fun h hv => xlinvComplete_step h hv⟩
  case refine_1 =>
    intro hr
    rw [execFrcfgWrite_eq h]
    exact if_neg (by rw [show s.inOwned (ringBase v) 0 = false from hr]; decide)
  case refine_2 =>
    intro hr
    obtain ⟨base, en, log⟩ := ringWrite_fields (s.ctx ctx).frcfg v false
    refine ⟨_, (execFrcfgWrite_eq h).trans (if_pos hr), fun _ _ => rfl, rfl, ?_⟩
    rw [State.ctx_modCtx_self]
    exact ⟨base, en, fun lo hi => log.trans (if_pos ⟨lo, hi⟩), fun out => log.trans (if_neg (by omega))⟩
  case refine_3 =>
    intro past
    exact (execFridxWrite_eq h).trans (if_pos (decide_eq_true past))
  case refine_4 =>
    intro past
    refine ⟨_, (execFridxWrite_eq h).trans (if_neg ?_), fun _ _ => rfl, State.ctx_modCtx_self _ _ _,
      fun x hx => State.ctx_modCtx_ne _ _ (Ne.symm hx)⟩
    simpa [pastWr] using past
  case refine_5 =>
    intro hr
    exact execReplayRetry_unanswered h hr
  case refine_6 =>
    intro hr
    exact ⟨_, execReplayRetry_answered h hr, State.retryRec_step r⟩
  case refine_7 =>
    intro hr
    exact execReplayFatal_unanswered h hr
  case refine_8 =>
    intro hr
    exact ⟨_, execReplayFatal_answered h hr, State.closeRec_recs⟩
  case refine_9 =>
    intro busy
    exact (execXlinvaWrite_eq h).trans (if_pos busy)
  case refine_10 =>
    intro idle bad
    exact (execXlinvaWrite_eq h).trans ((if_neg (by simp [idle])).trans (if_pos bad))
  case refine_11 =>
    intro idle hi lo
    exact (execXlinvaWrite_eq h).trans ((if_neg (by simp [idle])).trans (if_neg (by simp [hi, lo])))
  case refine_12 =>
    intro busy
    exact (exec_xlinvc h).trans (congrArg _ (if_pos busy))
  case refine_13 =>
    intro idle bad
    exact (exec_xlinvc h).trans (congrArg _ ((if_neg (by simp [idle])).trans (if_pos bad)))
  case refine_14 =>
    intro idle hi lo
    exact (exec_xlinvc h).trans (congrArg _ ((if_neg (by simp [idle])).trans (if_neg (by simp [hi, lo]))))
end

section
/-! What translations, wipes and loads leave of the cores' programs (R42, R95, R374, R383). -/

namespace Sys2Proof.Machine

/-- Reading a map after entries went by their keys. -/
theorem Map.find_filter_key {α : Type} (p : Nat → Bool) (m : Map α) (i : Nat) :
    Map.find (m.filter fun e => p e.1) i = if p i then m.find i else none := by
  induction m with
  | nil => simp [Map.find]
  | cons e m ih =>
    obtain ⟨k, x⟩ := e
    by_cases hk : k = i
    · subst hk
      cases hp : p k <;> simp [hp, Map.find, ih]
    · have hb : (k == i) = false := by simpa using hk
      cases hp : p k <;> simp [hp, Map.find, hb, ih]

theorem Map.find_eq_none {α : Type} {m : Map α} {i : Nat} : m.find i = none ↔ ∀ e ∈ m, e.1 ≠ i := by
  induction m with
  | nil => simp [Map.find]
  | cons e m ih =>
    obtain ⟨k, x⟩ := e
    by_cases hk : k = i
    · simp [Map.find, hk]
    · simp [Map.find, hk, ih]

/-- A filter brings no entry. -/
theorem Map.find_filter_none {α : Type} (p : Nat × α → Bool) {m : Map α} {i : Nat} (h : m.find i = none) :
    Map.find (m.filter p) i = none :=
  Map.find_eq_none.2 fun e he => Map.find_eq_none.1 h e (List.mem_of_mem_filter he)

/-! ### The relations -/

/-- A core keeps its waves and crews, and gains no line of its instruction cache. -/
structure Core.Keeps (k k' : Core) : Prop where
  waves : k'.waves = k.waves
  crews : k'.crews = k.crews
  icache : ∀ y, k.icache.find y = none → k'.icache.find y = none

/-- Every core keeps its waves and crews. -/
def ProgramsKept (s t : State) : Prop := ∀ c, (s.core c).Keeps (t.core c)

namespace ProgramsKept

variable {s t u : State}

theorem of_cores (h : t.cores = s.cores) : ProgramsKept s t := by
  intro c
  unfold State.core
  rw [h]
  exact ⟨rfl, rfl, fun _ h => h⟩

theorem refl (s : State) : ProgramsKept s s := of_cores rfl

theorem trans (h : ProgramsKept s t) (g : ProgramsKept t u) : ProgramsKept s u := fun c =>
  ⟨(g c).waves.trans (h c).waves, (g c).crews.trans (h c).crews, fun y e => (g c).icache y ((h c).icache y e)⟩

theorem foldl {α : Type} {f : State → α → State} (h : ∀ s x, ProgramsKept s (f s x)) (l : List α) (s : State) :
    ProgramsKept s (l.foldl f s) := by
  induction l generalizing s with
  | nil => exact refl s
  | cons x l ih => exact (h s x).trans (ih _)

theorem running (h : ProgramsKept s t) (c : Nat) : (t.core c).waves = (s.core c).waves ∧ (t.core c).crews = (s.core c).crews :=
  ⟨(h c).waves, (h c).crews⟩

/-- A change of every core that keeps its programs. -/
theorem of_map {f : Nat × Core → Nat × Core} (ht : t.cores = s.cores.map f) (h : ∀ e, (f e).1 = e.1 ∧ e.2.Keeps (f e).2) :
    ProgramsKept s t :=
  State.core_rel ht h ⟨rfl, rfl, fun _ h => h⟩

theorem of_modCore (c : Nat) {f : Core → Core} (h : ∀ k : Core, k.Keeps (f k)) : ProgramsKept s (s.modCore c f) := by
  intro d
  by_cases hd : c = d
  · subst hd
    rw [State.core_modCore_self]
    exact h _
  · rw [State.core_modCore_ne _ _ hd]
    exact ⟨rfl, rfl, fun _ h => h⟩

end ProgramsKept

/-- Every core keeps its programs, and every context its fields. -/
structure LoadFrame (s t : State) : Prop where
  programs : ProgramsKept s t
  ctxs : t.ctxs = s.ctxs

namespace LoadFrame

variable {s t u : State}

theorem of_eq (hc : t.cores = s.cores) (hx : t.ctxs = s.ctxs) : LoadFrame s t := ⟨.of_cores hc, hx⟩

theorem refl (s : State) : LoadFrame s s := of_eq rfl rfl

theorem trans (h : LoadFrame s t) (g : LoadFrame t u) : LoadFrame s u := ⟨h.programs.trans g.programs, g.ctxs.trans h.ctxs⟩

theorem foldl {α : Type} {f : State → α → State} (h : ∀ s x, LoadFrame s (f s x)) (l : List α) (s : State) :
    LoadFrame s (l.foldl f s) := by
  induction l generalizing s with
  | nil => exact refl s
  | cons x l ih => exact (h s x).trans (ih _)

theorem ctx (h : LoadFrame s t) (x : Nat) : t.ctx x = s.ctx x := by
  unfold State.ctx
  rw [h.ctxs]

end LoadFrame

theorem HomeFrame.load {s t : State} (h : HomeFrame s t) : LoadFrame s t := .of_eq h.cores h.ctxs

/-! ### Translation -/

section Translation

variable (s : State)

theorem State.walkFrom_frame (ctx va table n : Nat) : HomeFrame s (s.walkFrom ctx va table n).2 := by
  induction n generalizing s table with
  | zero => exact .refl s
  | succ n ih =>
    have read := s.homeGets_frame 2 (table + 8 * levelIndex va (3 - n))
    unfold State.walkFrom
    simp only
    split
    · split
      · exact read
      · split
        · exact read
        · split
          · split <;> exact read
          · split
            · exact read
            · split
              · exact read.trans (ih _ _)
              · exact read.trans (State.toOsm_frame _ _)
    · exact read.trans (State.toOsm_frame _ _)

theorem State.walk_frame (ctx va root : Nat) : HomeFrame s (s.walk ctx va root).2 := by
  unfold State.walk
  split
  · exact s.walkFrom_frame _ _ _ _
  · exact s.toOsm_frame _

theorem State.leafCheck_frame (ctx va pte level : Nat) (text : Bool) : HomeFrame s (s.leafCheck ctx va pte level text).2 := by
  unfold State.leafCheck
  simp only
  split
  · exact .refl s
  · split
    · exact .refl s
    · split
      · exact .refl s
      · split
        · exact .refl s
        · split
          · exact .refl s
          · split
            · exact .refl s
            · exact s.toOsm_frame _

theorem State.setAD_frame (a pte : Nat) (dirty : Bool) : HomeFrame s (s.setAD a pte dirty).2 := by
  unfold State.setAD
  simp only
  generalize (if dirty && _ then _ else _) = p
  split
  · exact .refl s
  · exact s.homePuts_frame _ _

/-- A translation enters the buffers and changes nothing else of a core (R42). -/
theorem State.tlbFill_frame (g : Agent) (e : TlbEntry) : LoadFrame s (s.tlbFill g e) := by
  unfold State.tlbFill
  simp only
  generalize (_ || _ : Bool) = full
  generalize hx : (if full = true then s.freeWord else (0, s)) = x
  have drawn : LoadFrame s x.2 := by
    subst hx
    split
    · exact s.freeWord_frame.load
    · exact .refl s
  have entered := drawn.trans (State.modDie_frame x.2 g.die fun d => { d with tlb := tlbPut 1024 16 x.1.toNat e d.tlb }).load
  split
  · refine entered.trans (.trans ⟨.of_modCore g.core (f := fun k => { k with tlb := tlbPut 32 8 (x.1.toNat / 16) e k.tlb })
      fun _ => ⟨rfl, rfl, fun _ h => h⟩, rfl⟩ (.of_eq rfl rfl))
  · exact entered

theorem State.xlat_frame (g : Agent) (text : Bool) (va : Nat) (acc : Access) : LoadFrame s (s.xlat g text va acc).2 := by
  have walked := s.walk_frame g.ctx va (if text then (s.ctx g.ctx).troot g.die else (s.ctx g.ctx).groot)
  unfold State.xlat
  simp only
  generalize s.walk g.ctx va _ = x at walked
  obtain ⟨o, t⟩ := x
  split
  · split <;> exact .refl s
  · cases o with
    | fault k => exact walked.load
    | replay cond level => exact walked.load
    | leaf p a level =>
      have checked := walked.trans (t.leafCheck_frame g.ctx va p level text)
      simp only
      generalize t.leafCheck g.ctx va p level text = x at checked
      obtain ⟨k, u⟩ := x
      cases k with
      | some k => exact checked.load
      | none =>
        simp only
        split
        · exact checked.load
        · exact checked.load
        · exact (checked.trans (u.setAD_frame a p acc.writes)).load.trans (State.tlbFill_frame _ _ _)

theorem State.xlatGlobal_frame (g : Agent) (va : Nat) (acc : Access) : LoadFrame s (s.xlatGlobal g va acc).2 := by
  unfold State.xlatGlobal
  split
  · exact s.xlat_frame _ _ _ _
  · split
    · exact .refl s
    · split <;> exact .refl s

/-- A translation changes no program and no context (R38, R42). -/
theorem State.translate_frame (g : Agent) (va : Nat) (acc : Access) : LoadFrame s (s.translate g va acc).2 := by
  unfold State.translate
  simp only
  split
  · split
    · exact s.xlat_frame _ _ _ _
    · exact .refl s
  · split
    · exact s.xlatGlobal_frame _ _ _
    · split
      · split
        · exact .refl s
        · exact s.xlat_frame _ _ _ _
      · split
        · split
          · exact .refl s
          · split
            · exact .refl s
            · exact s.xlatGlobal_frame _ _ _
        · split
          · split <;> exact .refl s
          · exact .refl s

theorem State.devPut_frame (pa : Nat) (u : GUnit) : LoadFrame s (s.devPut pa u) := by
  have sent (t : Traffic) : LoadFrame s (s.traffic pa t) := by
    unfold State.traffic
    split <;> exact .of_eq rfl rfl
  unfold State.devPut
  split
  · exact (sent _).trans (State.toOsm_frame _ _).load
  · exact sent _

/-- A unit's writes change no program and no context. -/
theorem State.unitPuts_frame (g : Agent) (us : List GUnit) (va : Nat) : LoadFrame s (s.unitPuts g va us).2 := by
  induction us generalizing s va with
  | nil => exact .refl s
  | cons u us ih =>
    have moved := s.translate_frame g va .write
    unfold State.unitPuts
    generalize s.translate g va .write = x at moved
    obtain ⟨x, t⟩ := x
    cases x with
    | mem pa bind ms cz =>
      have put : LoadFrame t (if pa < hbmSize then t.homePut pa u (some cz) else t.devPut pa u) := by
        split
        · exact (t.homePut_frame _ _ _).load
        · exact t.devPut_frame _ _
      exact (moved.trans put).trans (ih _ _)
    | spad off => exact moved
    | fault c => exact moved
    | replay page cond level => exact moved

theorem State.zeroSync_frame (ctx syncb : Nat) (l : List (Nat × Nat)) : LoadFrame s (s.zeroSync ctx syncb l).2 := by
  induction l generalizing s with
  | nil => exact .refl s
  | cons e l ih =>
    have put := s.unitPuts_frame (unitAgent ctx) (List.replicate 4 .zero) (syncb + 16 * e.1)
    unfold State.zeroSync
    generalize s.unitPuts (unitAgent ctx) (syncb + 16 * e.1) (List.replicate 4 .zero) = x at put
    obtain ⟨x, t⟩ := x
    cases x with
    | none => exact put.trans (ih _)
    | some x => exact put

end Translation

/-! ### Wipes and loads -/

section Loads

variable (s : State)

theorem State.dropCopies_frame (lo n : Nat) : LoadFrame s (s.dropCopies lo n) :=
  ⟨.of_map rfl fun _ => ⟨rfl, rfl, rfl, fun _ h => Map.find_filter_none _ h⟩, rfl⟩

theorem State.icDrop_frame (pa n : Nat) : LoadFrame s (s.icDrop pa n) :=
  ⟨.of_map rfl fun _ => ⟨rfl, rfl, rfl, fun _ h => Map.find_filter_none _ h⟩, rfl⟩

theorem State.tlbDropPage_frame (ctx page : Nat) : LoadFrame s (s.tlbDropPage ctx page) :=
  ⟨.of_map rfl fun _ => ⟨rfl, rfl, rfl, fun _ h => h⟩, rfl⟩

/-- A wipe changes no program and no context (R95). -/
theorem State.wipeBlock_frame (blk : Nat) : LoadFrame s (s.wipeBlock blk) := by
  have cleared (m : Map L2Line) (d : Nat) (f : Die → Die) (lo n : Nat) :
      LoadFrame s ((({ s with l2 := m }.modDie d f).dropCopies lo n).wiped lo n) :=
    ((s.setL2_frame m).trans (State.modDie_frame _ d f)).load.trans ((State.dropCopies_frame _ lo n).trans (.of_eq rfl rfl))
  unfold State.wipeBlock
  simp only
  split
  · exact (cleared _ _ _ _ _).trans ((State.unpark_frame _ _).trans (State.setMeta_frame _ _ _ _)).load
  · exact (cleared _ _ _ _ _).trans (.of_eq rfl rfl)

theorem State.loadWords_frame (pa : Nat) (ws : List Word) : LoadFrame s (s.loadWords pa ws) :=
  (s.homePuts_frame _ _).load.trans (State.icDrop_frame _ _ _)

end Loads
end Sys2Proof.Machine
end

section
/-! What the wipe of a region leaves in the stacks and in the home slices (R95, R374). -/

namespace Sys2Proof.Machine

/-! ### Writes of the stacks -/

theorem leNat_bytes (w : Word) :
    BitVec.ofNat 32 (leNat [BitVec.ofNat 8 (w.toNat / 256 ^ 0), BitVec.ofNat 8 (w.toNat / 256 ^ 1),
      BitVec.ofNat 8 (w.toNat / 256 ^ 2), BitVec.ofNat 8 (w.toNat / 256 ^ 3)]) = w := by
  apply BitVec.eq_of_toNat_eq
  have := w.isLt
  simp only [leNat, BitVec.toNat_ofNat]
  omega

/-- A granule's unit is its four bytes, its code and its mark. -/
theorem State.hbmUnit_of_bytes {s t : State} {pa : Nat} (hm : ∀ x, x / 4 = pa / 4 → Memory.get t.mem x = Memory.get s.mem x)
    (hs : Memory.get t.side (pa / 4) = Memory.get s.side (pa / 4)) (hk : t.marks.contains (pa / 4) = s.marks.contains (pa / 4)) :
    t.hbmUnit pa = s.hbmUnit pa := by
  unfold State.hbmUnit
  simp only
  rw [hs, hk, hm (pa / 4 * 4) (by omega), hm (pa / 4 * 4 + 1) (by omega), hm (pa / 4 * 4 + 2) (by omega),
    hm (pa / 4 * 4 + 3) (by omega)]

/-- A write of one unit leaves every byte outside its granule. -/
theorem State.get_hbmPut_ne (s : State) {pa x : Nat} (u : GUnit) (h : x / 4 ≠ pa / 4) :
    Memory.get (s.hbmPut pa u).mem x = Memory.get s.mem x := by
  unfold State.hbmPut
  simp only
  rw [Memory.get_put_ne _ _ (by omega), Memory.get_put_ne _ _ (by omega), Memory.get_put_ne _ _ (by omega),
    Memory.get_put_ne _ _ (by omega)]

/-- A write of one unit marks its granule as the unit is marked, and no other (R55). -/
theorem State.marks_hbmPut (s : State) (pa g : Nat) (u : GUnit) :
    (s.hbmPut pa u).marks.contains g = if g = pa / 4 then u.ue else s.marks.contains g := by
  unfold State.hbmPut
  cases hu : u.ue
  · by_cases hg : g = pa / 4 <;> simp [hg]
  · by_cases hm : pa / 4 ∈ s.marks
    · by_cases hg : g = pa / 4 <;> simp [hg, hm]
    · by_cases hg : g = pa / 4 <;> simp [hg, hm]

/-- Reading a unit of the stacks after a write of one (R52). -/
theorem State.hbmUnit_hbmPut (s : State) (pa x : Nat) (u : GUnit) :
    (s.hbmPut pa u).hbmUnit x = if x / 4 = pa / 4 then u else s.hbmUnit x := by
  by_cases h : x / 4 = pa / 4
  · have marked := s.marks_hbmPut pa (pa / 4) u
    rw [if_pos rfl] at marked
    unfold State.hbmUnit
    rw [h, marked, if_pos rfl]
    unfold State.hbmPut
    simp only [Memory.get_put_self, Memory.get_put_ne _ _ (show pa / 4 * 4 + 3 ≠ pa / 4 * 4 by omega),
      Memory.get_put_ne _ _ (show pa / 4 * 4 + 2 ≠ pa / 4 * 4 by omega), Memory.get_put_ne _ _ (show pa / 4 * 4 + 1 ≠ pa / 4 * 4 by omega),
      Memory.get_put_ne _ _ (show pa / 4 * 4 + 3 ≠ pa / 4 * 4 + 1 by omega),
      Memory.get_put_ne _ _ (show pa / 4 * 4 + 2 ≠ pa / 4 * 4 + 1 by omega),
      Memory.get_put_ne _ _ (show pa / 4 * 4 + 3 ≠ pa / 4 * 4 + 2 by omega), leNat_bytes]
  · rw [if_neg h]
    refine State.hbmUnit_of_bytes (fun y hy => s.get_hbmPut_ne u (by omega)) (Memory.get_put_ne _ _ (Ne.symm h)) ?_
    rw [State.marks_hbmPut, if_neg h]

/-! ### Writes of metadata -/

section Metadata

variable {s t : State}

/-- A write of a granule of a metadata table reaches the lines that hold it, where that granule is not zero (R82): an absent unit
of a line reads as zero. -/
theorem State.metaPut_current {pa : Nat} {u : GUnit} (h : s.MetaCurrent) (hz : s.hbmUnit pa ≠ .zero) :
    (s.metaPut pa u).MetaCurrent := by
  intro n e he j hj
  have ctl : ((s.metaPut pa u).ctl n).mcache =
      (s.ctl n).mcache.map fun e => if e.1 = pa / 64 then (e.1, e.2.set (pa / 4 % 16) u) else e :=
    State.ctl_rel (R := fun x y => y.mcache =
      x.mcache.map fun e => if e.1 = pa / 64 then (e.1, e.2.set (pa / 4 % 16) u) else e) rfl (by exact fun _ => ⟨rfl, rfl⟩) rfl n
  obtain ⟨x, hx, rfl⟩ := List.mem_map.1 (ctl ▸ he)
  have old := h n x hx
  change _ = (s.hbmPut pa u).hbmUnit _
  rw [State.hbmUnit_hbmPut]
  by_cases hl : x.1 = pa / 64
  · simp only [hl, if_true]
    by_cases hj' : j = pa / 4 % 16
    · subst hj'
      have here : x.2.getD (pa / 4 % 16) .zero = s.hbmUnit pa :=
        (old _ hj).trans (State.hbmUnit_granule (by omega))
      have long : pa / 4 % 16 < x.2.length := by
        by_contra hlen
        exact hz (here.symm.trans (List.getD_eq_default _ _ (by omega)))
      rw [if_pos (by omega)]
      simp [List.getD_eq_getElem?_getD, long]
    · rw [if_neg (by omega), ← hl, ← old j hj]
      simp [List.getD_eq_getElem?_getD, List.getElem?_set_ne (Ne.symm hj')]
  · rw [if_neg hl, if_neg (by omega)]
    exact old j hj

/-- A byte of a granule after another byte was replaced. -/
theorem byte_of_replaced {d o x : Nat} {i k : Nat} (hd : d < 2 ^ 32) (ho : o = d / 256 ^ i % 256) (hx : x < 256) (hi : i < 4)
    (hk : k < 4) (h : k ≠ i) : (d - o * 256 ^ i + x * 256 ^ i) % 2 ^ 32 / 256 ^ k % 256 = d / 256 ^ k % 256 := by
  subst ho
  interval_cases i <;> interval_cases k <;> omega

theorem coded_ok (w : Word) : (coded w).ok = true := by simp [coded, GUnit.ok]

/-- Setting a block's metadata byte leaves the granule, or writes one that is good, with its other bytes as they were (R82). -/
theorem State.setMeta_cases (blk size allot : Nat) (h : s.MetaCurrent) :
    s.setMeta blk size allot = s.metaTouch blk ∨
    ∃ v, s.setMeta blk size allot = (s.metaTouch blk).metaPut (s.metaPa blk) (coded v) ∧
      (s.hbmUnit (s.metaPa blk)).ok = true ∧
      (s.hbmUnit (s.metaPa blk)).data.toNat / 256 ^ (s.metaPa blk % 4) % 256 ≠ 16 * size + allot ∧
      ∀ k, k < 4 → k ≠ s.metaPa blk % 4 →
        v.toNat / 256 ^ k % 256 = (s.hbmUnit (s.metaPa blk)).data.toNat / 256 ^ k % 256 := by
  obtain ⟨hm, hs, hk, -⟩ := s.metaTouch_stacks blk
  have pa : (s.metaTouch blk).metaPa blk = s.metaPa blk :=
    State.metaPa_congr (congrArg Osm.czmbase (s.metaTouch_frame blk).osm) blk
  have unit : (s.metaTouch blk).metaUnit blk = s.hbmUnit (s.metaPa blk) := by
    rw [(s.metaTouch_current blk h).metaUnit, pa, State.hbmUnit_congr hm hs hk]
  unfold State.setMeta
  simp only [pa, unit]
  split
  · exact .inl rfl
  · next hc =>
    rw [not_or] at hc
    refine .inr ⟨_, rfl, by simpa using hc.1, hc.2, fun k hk4 hki => ?_⟩
    rw [BitVec.toNat_ofNat]
    exact byte_of_replaced (s.hbmUnit _).data.isLt rfl (Nat.mod_lt _ (by decide)) (Nat.mod_lt _ (by decide)) hk4 hki

/-- A block that is not coded: its good metadata allot nothing, and it is not parked. -/
theorem State.coded?_eq_false {blk : Nat} : s.coded? blk = false ↔
    ((s.metaUnit blk).ok && metaAllot (s.metaOf blk) != 0) = false ∧ s.parked? blk = none := by
  unfold State.coded?
  rw [Bool.or_eq_false_iff, Option.isSome_eq_false_iff, Option.isNone_iff_eq_none]

theorem State.metaOf_congr {blk : Nat} (hp : t.metaPa blk = s.metaPa blk) (hu : t.metaUnit blk = s.metaUnit blk) :
    t.metaOf blk = s.metaOf blk := by
  unfold State.metaOf
  rw [hp, hu]

/-- A block that is not coded stays so where its metadata stay and no block is parked anew. -/
theorem State.coded?_stays_false {blk : Nat} (hp : t.metaPa blk = s.metaPa blk) (hu : t.metaUnit blk = s.metaUnit blk)
    (ho : ∀ n, ∀ e ∈ (t.ctl n).overflow, e ∈ (s.ctl n).overflow) (h : s.coded? blk = false) : t.coded? blk = false := by
  rw [State.coded?_eq_false] at h ⊢
  rw [hu, State.metaOf_congr hp hu]
  refine ⟨h.1, List.find?_eq_none.2 fun e he => ?_⟩
  exact List.find?_eq_none.1 h.2 e (ho _ e he)

end Metadata

/-! ### Wipes -/

/-- A block's copies are gone: the first part of its wipe (R95). -/
def State.cleared (s : State) (blk : Nat) : State :=
  ((({ s with l2 := s.l2.filter fun e => e.1 / 16 != blk }.modDie (dieOfPa (blk * 2048)) fun d =>
    { d with poison := d.poison.filter fun a => a / 2048 != blk }).dropCopies (blk * 2048) 2048).wiped (blk * 2048) 2048)

theorem State.wipeBlock_eq (s : State) (blk : Nat) : s.wipeBlock blk =
    if (s.cleared blk).coded? blk then ((s.cleared blk).unpark blk).setMeta blk 0 (metaAllot ((s.cleared blk).metaOf blk))
    else (s.cleared blk).zeroBlock blk := rfl

section Wipes

variable {s t : State} {b blk pa : Nat}

theorem State.unpark_l2 (s : State) (blk : Nat) : (s.unpark blk).l2 = s.l2 := by
  unfold State.unpark
  split <;> rfl

theorem State.setMeta_l2 (s : State) (blk size allot : Nat) : (s.setMeta blk size allot).l2 = s.l2 := by
  unfold State.setMeta
  simp only
  split
  · exact s.metaTouch_l2 blk
  · exact s.metaTouch_l2 blk

theorem State.wipeBlock_l2 (s : State) (blk : Nat) : (s.wipeBlock blk).l2 = s.l2.filter fun e => e.1 / 16 != blk := by
  rw [State.wipeBlock_eq]
  split
  · rw [State.setMeta_l2, State.unpark_l2]
    rfl
  · rfl

/-- The tables and the assignments of the regions stand through a wipe. -/
theorem State.wipeBlock_osm (s : State) (blk : Nat) :
    (s.wipeBlock blk).osm.czmbase = s.osm.czmbase ∧ (s.wipeBlock blk).osm.firewall = s.osm.firewall := by
  rw [State.wipeBlock_eq]
  split
  · rw [((State.unpark_frame _ _).trans (State.setMeta_frame _ _ _ _)).osm]
    exact ⟨rfl, rfl⟩
  · exact ⟨rfl, rfl⟩

/-- What a clearing leaves in the controllers: the lines outside the block, and the parked blocks. -/
theorem State.cleared_ctl (s : State) (blk n : Nat) :
    ((s.cleared blk).ctl n).mcache = ((s.ctl n).mcache.filter fun e =>
      decide (e.1 * 64 < blk * 2048) || decide (e.1 * 64 ≥ blk * 2048 + 2048)) ∧
    ((s.cleared blk).ctl n).overflow = (s.ctl n).overflow :=
  State.ctl_rel (R := fun x y => y.mcache = (x.mcache.filter fun e =>
    decide (e.1 * 64 < blk * 2048) || decide (e.1 * 64 ≥ blk * 2048 + 2048)) ∧ y.overflow = x.overflow)
    rfl (by exact fun _ => ⟨rfl, rfl, rfl⟩) ⟨rfl, rfl⟩ n

theorem State.cleared_current (h : s.MetaCurrent) : (s.cleared blk).MetaCurrent := by
  intro n e he j hj
  rw [(s.cleared_ctl blk n).1] at he
  exact h n e (List.mem_of_mem_filter he) j hj

theorem State.cleared_metaUnit (h : s.MetaCurrent) (x : Nat) : (s.cleared blk).metaUnit x = s.metaUnit x :=
  h.metaUnit_congr (State.cleared_current h) rfl rfl rfl rfl x

theorem State.cleared_coded (h : s.MetaCurrent) {x : Nat} (hx : s.coded? x = false) : (s.cleared blk).coded? x = false :=
  State.coded?_stays_false (s := s) rfl (State.cleared_metaUnit h x) (fun n _ he => (s.cleared_ctl blk n).2 ▸ he) hx

/-- A zeroed block reads as zero, and nothing else does anew. -/
theorem State.zeroBlock_get (s : State) (blk pa : Nat) :
    Memory.get (s.zeroBlock blk).mem pa = if pa / 2048 = blk then 0 else Memory.get s.mem pa := by
  unfold State.zeroBlock Memory.get Map.getD
  simp only
  rw [Map.find_filter_key fun a => decide (a < blk * 2048) || decide (a ≥ blk * 2048 + 2048)]
  by_cases h : pa / 2048 = blk
  · rw [if_pos h, if_neg (by simp; omega)]
    rfl
  · rw [if_neg h, if_pos (by simp; omega)]

theorem State.zeroBlock_hbmUnit (h : pa / 2048 ≠ blk) : (s.zeroBlock blk).hbmUnit pa = s.hbmUnit pa := by
  refine State.hbmUnit_of_bytes (fun x hx => ?_) ?_ ?_
  · rw [State.zeroBlock_get, if_neg (by omega)]
  · unfold State.zeroBlock Memory.get Map.getD
    simp only
    rw [Map.find_filter_key fun a => decide (a < blk * 512) || decide (a ≥ blk * 512 + 512), if_pos (by simp; omega)]
  · unfold State.zeroBlock
    simp only [List.contains_eq_mem, List.mem_filter, decide_eq_decide, and_iff_left_iff_imp]
    intro _
    simp
    omega

theorem State.unpark_ctl (s : State) (blk n : Nat) : ((s.unpark blk).ctl n).mcache = (s.ctl n).mcache ∧
    ∀ e ∈ ((s.unpark blk).ctl n).overflow, e ∈ (s.ctl n).overflow := by
  unfold State.unpark
  split
  · exact ⟨rfl, fun _ h => h⟩
  · by_cases hn : ctlOfPa (blk * 2048) = n
    · subst hn
      rw [State.ctl_modCtl_self]
      exact ⟨rfl, fun _ h => Map.mem_del h⟩
    · rw [State.ctl_modCtl_ne _ _ hn]
      exact ⟨rfl, fun _ h => h⟩

theorem State.unpark_stacks (s : State) (blk : Nat) :
    (s.unpark blk).mem = s.mem ∧ (s.unpark blk).side = s.side ∧ (s.unpark blk).marks = s.marks := by
  unfold State.unpark
  split <;> exact ⟨rfl, rfl, rfl⟩

theorem State.unpark_current (h : s.MetaCurrent) : (s.unpark blk).MetaCurrent := by
  obtain ⟨hm, hs, hk⟩ := s.unpark_stacks blk
  intro n e he j hj
  rw [State.hbmUnit_congr hm hs hk]
  exact h n e ((s.unpark_ctl blk n).1 ▸ he) j hj

theorem State.unpark_metaPa (s : State) (blk x : Nat) : (s.unpark blk).metaPa x = s.metaPa x :=
  State.metaPa_congr (congrArg Osm.czmbase (s.unpark_frame blk).osm) x

theorem State.unpark_hbmUnit (s : State) (blk x : Nat) : (s.unpark blk).hbmUnit x = s.hbmUnit x := by
  obtain ⟨hm, hs, hk⟩ := s.unpark_stacks blk
  exact State.hbmUnit_congr hm hs hk x

theorem State.unpark_metaUnit (h : s.MetaCurrent) (blk x : Nat) : (s.unpark blk).metaUnit x = s.metaUnit x := by
  rw [(State.unpark_current h).metaUnit, h.metaUnit, State.unpark_metaPa, State.unpark_hbmUnit]

/-- A zeroed block whose metadata lines are gone: the lines that stay are current (R82, R95). -/
theorem State.wipeBlock_zero_current (h : s.MetaCurrent) : ((s.cleared blk).zeroBlock blk).MetaCurrent := by
  intro n e he j hj
  have kept : e ∈ ((s.cleared blk).ctl n).mcache := he
  rw [(s.cleared_ctl blk n).1] at kept
  have out := (List.mem_filter.1 kept).2
  simp only [ge_iff_le, Bool.or_eq_true, decide_eq_true_eq] at out
  rw [State.zeroBlock_hbmUnit (by omega)]
  exact h n e (List.mem_of_mem_filter kept) j hj

/-- The metadata of the blocks of a region lie in one table, each in a byte of its own (R82). -/
theorem State.metaPa_ne (s : State) {x y r : Nat} (hx : x / 16384 = r) (hy : y / 16384 = r) (h : x ≠ y) :
    s.metaPa x ≠ s.metaPa y := by
  have table : dieOfPa (x * 2048) = dieOfPa (y * 2048) := by unfold dieOfPa; omega
  unfold State.metaPa
  rw [table]
  omega

/-- Setting a block's SIZE to 0 under its ALLOT: the lines stay current, other blocks' metadata stand, and no byte outside the
granule changes (R82, R95). -/
theorem State.setMeta_sizeZero (h : s.MetaCurrent) (b : Nat) :
    (s.setMeta b 0 (metaAllot (s.metaOf b))).MetaCurrent ∧
    (∀ x, s.metaPa x ≠ s.metaPa b → s.coded? x = false → (s.setMeta b 0 (metaAllot (s.metaOf b))).coded? x = false) ∧
    ∀ x, x / 4 ≠ s.metaPa b / 4 → Memory.get (s.setMeta b 0 (metaAllot (s.metaOf b))).mem x = Memory.get s.mem x := by
  obtain ⟨hm, hs, hk, -⟩ := s.metaTouch_stacks b
  have touched := s.metaTouch_current b h
  have pa (x : Nat) : (s.metaTouch b).metaPa x = s.metaPa x :=
    State.metaPa_congr (congrArg Osm.czmbase (s.metaTouch_frame b).osm) x
  have unit (x : Nat) : (s.metaTouch b).hbmUnit x = s.hbmUnit x := State.hbmUnit_congr hm hs hk x
  have parks (n : Nat) : ∀ e ∈ ((s.metaTouch b).ctl n).overflow, e ∈ (s.ctl n).overflow :=
    fun e he => s.metaTouch_overflow b n ▸ he
  rcases State.setMeta_cases b 0 (metaAllot (s.metaOf b)) h with same | ⟨v, wrote, good, changed, others⟩
  · rw [same]
    refine ⟨touched, fun x _ hx => State.coded?_stays_false (pa x) ?_ parks hx, fun x _ => by rw [hm]⟩
    rw [touched.metaUnit, h.metaUnit, pa, unit]
  · have nonzero : (s.metaTouch b).hbmUnit (s.metaPa b) ≠ .zero := by
      intro hz
      rw [unit] at hz
      have allot : metaAllot (s.metaOf b) = 0 := by
        unfold State.metaOf
        rw [h.metaUnit, hz]
        simp [GUnit.zero, metaAllot]
      exact changed (by simp [hz, GUnit.zero, allot])
    have current := State.metaPut_current (u := coded v) touched nonzero
    rw [wrote]
    refine ⟨current, fun x hx hc => ?_, fun x hx => ?_⟩
    · have seen : ((s.metaTouch b).metaPut (s.metaPa b) (coded v)).metaUnit x =
          if s.metaPa x / 4 = s.metaPa b / 4 then coded v else s.metaUnit x := by
        rw [current.metaUnit, h.metaUnit]
        change ((s.metaTouch b).hbmPut _ _).hbmUnit ((s.metaTouch b).metaPa x) = _
        rw [pa, State.hbmUnit_hbmPut, unit]
      have parks' (n : Nat) (e : Nat × Parked) (he : e ∈ (((s.metaTouch b).metaPut (s.metaPa b) (coded v)).ctl n).overflow) :
          e ∈ (s.ctl n).overflow := by
        have := State.ctl_rel (s := s.metaTouch b) (t := (s.metaTouch b).metaPut (s.metaPa b) (coded v))
          (R := fun x y => y.overflow = x.overflow) rfl (by exact fun _ => ⟨rfl, rfl⟩) rfl n
        exact parks n e (this ▸ he)
      by_cases granule : s.metaPa x / 4 = s.metaPa b / 4
      · rw [if_pos granule] at seen
        have before : s.metaUnit x = s.hbmUnit (s.metaPa b) := by rw [h.metaUnit, State.hbmUnit_granule granule]
        have byte : ((s.metaTouch b).metaPut (s.metaPa b) (coded v)).metaOf x = s.metaOf x := by
          have same := others (s.metaPa x % 4) (by omega) (by omega)
          unfold State.metaOf
          rw [seen, before]
          apply BitVec.eq_of_toNat_eq
          simp only [BitVec.toNat_ofNat]
          rw [show ((s.metaTouch b).metaPut (s.metaPa b) (coded v)).metaPa x = s.metaPa x from pa x]
          exact same
        rw [State.coded?_eq_false, before, good] at hc
        rw [State.coded?_eq_false, seen, byte, coded_ok]
        exact ⟨hc.1, List.find?_eq_none.2 fun e he => List.find?_eq_none.1 hc.2 e (parks' _ e he)⟩
      · exact State.coded?_stays_false (pa x) (seen.trans (if_neg granule)) parks' hc
    · rw [show Memory.get s.mem x = Memory.get (s.metaTouch b).mem x by rw [hm]]
      exact State.get_hbmPut_ne _ _ hx

/-- The wipe of one block of a region whose metadata lie elsewhere, for a block of the region that is not coded: it stays so, it reads
as zero once it is wiped, and goes on doing so (R95, R376). -/
theorem State.wipeBlock_keeps {r : Nat} (h : s.MetaCurrent) (hb : b / 16384 = r) (hk : blk / 16384 = r)
    (hm : s.metaPa b / 2 ^ 25 ≠ r ∧ s.metaPa blk / 2 ^ 25 ≠ r) (hp : s.coded? blk = false) :
    (s.wipeBlock b).MetaCurrent ∧ (s.wipeBlock b).coded? blk = false ∧ ∀ pa, pa / 2048 = blk →
      (b = blk → Memory.get (s.wipeBlock b).mem pa = 0) ∧
      (Memory.get s.mem pa = 0 → Memory.get (s.wipeBlock b).mem pa = 0) := by
  have cleared := State.cleared_current (blk := b) h
  have plain := State.cleared_coded (blk := b) h hp
  rw [State.wipeBlock_eq]
  split
  · next coded =>
    have other : blk ≠ b := fun e => by rw [e, coded] at plain; cases plain
    have freed := State.unpark_current (blk := b) cleared
    have allot : (s.cleared b).metaOf b = ((s.cleared b).unpark b).metaOf b :=
      (State.metaOf_congr (State.unpark_metaPa _ b b) (State.unpark_metaUnit cleared b b)).symm
    obtain ⟨current, stays, bytes⟩ := State.setMeta_sizeZero freed b
    rw [allot]
    refine ⟨current, stays blk ?_ ?_, fun pa hpa => ⟨fun e => absurd e.symm other, fun hz => ?_⟩⟩
    · rw [State.unpark_metaPa, State.unpark_metaPa]
      exact s.metaPa_ne hk hb other
    · exact State.coded?_stays_false (State.unpark_metaPa _ b blk) (State.unpark_metaUnit cleared b blk)
        (fun n => (State.unpark_ctl _ b n).2) plain
    · rw [bytes pa ?_, (State.unpark_stacks _ b).1]
      · exact hz
      · rw [State.unpark_metaPa]
        have := hm.1
        change pa / 4 ≠ s.metaPa b / 4
        omega
  · refine ⟨State.wipeBlock_zero_current h, ?_, fun pa hpa => ⟨fun e => ?_, fun hz => ?_⟩⟩
    · have current := State.wipeBlock_zero_current (blk := b) h
      refine State.coded?_stays_false (s := s.cleared b) rfl ?_ (fun _ _ he => he) plain
      have := hm.2
      rw [current.metaUnit, cleared.metaUnit]
      exact State.zeroBlock_hbmUnit (show s.metaPa blk / 2048 ≠ b by omega)
    · rw [State.zeroBlock_get, if_pos (by omega)]
    · rw [State.zeroBlock_get]
      split
      · rfl
      · exact hz

/-- A fold over a list with an element that brings something about, which the others keep. -/
theorem foldl_establishes {α : Type} {f : State → α → State} {P Q : State → Prop} {l : List α} {x : α} (hx : x ∈ l)
    (keep : ∀ s, ∀ b ∈ l, P s → P (f s b)) (make : ∀ s, P s → Q (f s x)) (stay : ∀ s, ∀ b ∈ l, P s → Q s → Q (f s b))
    {s : State} (hs : P s) : Q (l.foldl f s) := by
  have rest (m : List α) (hm : m ⊆ l) : ∀ s, P s → Q s → Q (m.foldl f s) := by
    induction m with
    | nil => exact fun _ _ h => h
    | cons b m ih =>
      intro s hp hq
      have hb := hm List.mem_cons_self
      exact ih (fun _ h => hm (List.mem_cons_of_mem _ h)) _ (keep s b hb hp) (stay s b hb hp hq)
  have once (m : List α) (hm : m ⊆ l) (hx : x ∈ m) : ∀ s, P s → Q (m.foldl f s) := by
    induction m with
    | nil => cases hx
    | cons b m ih =>
      intro s hp
      have hb := hm List.mem_cons_self
      have tail : m ⊆ l := fun _ h => hm (List.mem_cons_of_mem _ h)
      rcases List.mem_cons.1 hx with rfl | hx
      · exact rest m tail _ (keep s x hb hp) (make s hp)
      · exact ih tail hx _ (keep s b hb hp)
  exact once l (fun _ h => h) hx s hs

/-- What the wipe of a region leaves alone (R95, R374). -/
theorem State.wipeRegion_frame (s : State) (r : Nat) : LoadFrame s (s.wipeRegion r) :=
  .foldl (fun s b => s.wipeBlock_frame b) _ s

theorem State.wipeRegion_osm (s : State) (r : Nat) : (s.wipeRegion r).osm.firewall = s.osm.firewall := by
  unfold State.wipeRegion
  generalize span _ _ = l
  induction l generalizing s with
  | nil => rfl
  | cons b l ih => exact (ih _).trans (s.wipeBlock_osm b).2

/-- No home slice holds a line of a wiped region. -/
theorem State.wipeRegion_l2 (s : State) {r pa : Nat} (h : pa / 2 ^ 25 = r) : (s.wipeRegion r).l2.find (pa / 128) = none := by
  refine foldl_establishes (P := fun _ => True) (Q := fun t => t.l2.find (pa / 128) = none) (x := pa / 2048)
    (mem_span.2 (by omega)) (fun _ _ _ _ => trivial) (fun t _ => ?_) (fun t b _ _ hq => ?_) trivial
  · rw [State.wipeBlock_l2, Map.find_filter_key fun a => a / 16 != pa / 2048, if_neg]
    simp
    omega
  · rw [State.wipeBlock_l2]
    exact Map.find_filter_none _ hq

/-- A wiped byte of a block that is not coded is zero, where the region's metadata lie elsewhere. -/
theorem State.wipeRegion_get (s : State) {r pa : Nat} (h : s.MetaCurrent) (hr : pa / 2 ^ 25 = r)
    (hm : ∀ b, b / 16384 = r → s.metaPa b / 2 ^ 25 ≠ r) (hc : s.coded? (pa / 2048) = false) :
    Memory.get (s.wipeRegion r).mem pa = 0 := by
  have elsewhere {t : State} (ht : t.osm.czmbase = s.osm.czmbase) {b : Nat} (hb : b / 16384 = r) : t.metaPa b / 2 ^ 25 ≠ r :=
    State.metaPa_congr ht b ▸ hm b hb
  have here : pa / 2048 / 16384 = r := by omega
  have inside {b : Nat} (hb : b ∈ span (r * 16384) 16384) : b / 16384 = r := by
    have := mem_span.1 hb
    omega
  refine foldl_establishes (P := fun t => t.MetaCurrent ∧ t.osm.czmbase = s.osm.czmbase ∧ t.coded? (pa / 2048) = false)
    (Q := fun t => Memory.get t.mem pa = 0) (x := pa / 2048) (mem_span.2 (by omega)) ?_ ?_ ?_ ⟨h, rfl, hc⟩
  · rintro t b hb ⟨current, base, plain⟩
    obtain ⟨c, p, -⟩ := State.wipeBlock_keeps current (inside hb) here ⟨elsewhere base (inside hb), elsewhere base here⟩ plain
    exact ⟨c, (t.wipeBlock_osm b).1.trans base, p⟩
  · rintro t ⟨current, base, plain⟩
    exact ((State.wipeBlock_keeps current here here ⟨elsewhere base here, elsewhere base here⟩ plain).2.2 pa rfl).1 rfl
  · rintro t b hb ⟨current, base, plain⟩ hz
    exact ((State.wipeBlock_keeps current (inside hb) here ⟨elsewhere base (inside hb), elsewhere base here⟩ plain).2.2 pa rfl).2 hz

end Wipes

end Sys2Proof.Machine
end

section
/-! What the stop of a context does to the cores' programs and to the queues (R311, R327, R339). -/

namespace Sys2Proof.Machine

/-- Every core keeps its programs, and a queue that has stopped stays so. -/
structure StopFrame (s t : State) : Prop where
  programs : ProgramsKept s t
  stopped : ∀ q, (s.queue q).stopped = true → (t.queue q).stopped = true

namespace StopFrame

variable {s t u : State}

theorem of_programs (h : ProgramsKept s t) (hq : t.hazel.queues = s.hazel.queues) : StopFrame s t := by
  refine ⟨h, fun q hs => ?_⟩
  unfold State.queue at hs ⊢
  rw [hq]
  exact hs

theorem of_eq (hc : t.cores = s.cores) (hq : t.hazel.queues = s.hazel.queues) : StopFrame s t := of_programs (.of_cores hc) hq

theorem refl (s : State) : StopFrame s s := of_eq rfl rfl

theorem trans (h : StopFrame s t) (g : StopFrame t u) : StopFrame s u :=
  ⟨h.programs.trans g.programs, fun q e => g.stopped q (h.stopped q e)⟩

theorem foldl {α : Type} {f : State → α → State} (h : ∀ s x, StopFrame s (f s x)) (l : List α) (s : State) :
    StopFrame s (l.foldl f s) := by
  induction l generalizing s with
  | nil => exact refl s
  | cons x l ih => exact (h s x).trans (ih _)

end StopFrame

theorem HomeFrame.stop {s t : State} (h : HomeFrame s t) : StopFrame s t := .of_eq h.cores h.queues

theorem Map.mem_of_find {α : Type} {m : Map α} {i : Nat} {x : α} (h : m.find i = some x) : (i, x) ∈ m := by
  induction m with
  | nil => cases h
  | cons e m ih =>
    obtain ⟨k, y⟩ := e
    simp only [Map.find] at h
    split at h
    · next hk =>
      cases h
      rw [beq_iff_eq.1 hk]
      exact List.mem_cons_self
    · exact List.mem_cons_of_mem _ (ih h)

section Stops

variable (s : State)

theorem State.queue_modQueue (q p : Nat) (f : Queue → Queue) :
    (s.modQueue q f).queue p = if q = p then f (s.queue q) else s.queue p := by
  unfold State.modQueue State.modHazel State.queue Map.getD
  by_cases h : q = p
  · subst h; simp
  · simp [h, Map.find_set_ne _ _ h]

theorem State.modQueue_frame (q : Nat) {f : Queue → Queue} (h : ∀ k : Queue, k.stopped = true → (f k).stopped = true) :
    StopFrame s (s.modQueue q f) := by
  refine ⟨.of_cores rfl, fun p hp => ?_⟩
  rw [State.queue_modQueue]
  split
  · next e => exact h _ (e ▸ hp)
  · exact hp

theorem State.modHazel_frame {f : Hazel → Hazel} (h : ∀ x, (f x).queues = x.queues) : StopFrame s (s.modHazel f) :=
  .of_eq rfl (h s.hazel)

theorem State.unmapSlot_frame (i : Nat) : StopFrame s (s.unmapSlot i) := by
  unfold State.unmapSlot
  split
  · exact .refl s
  · refine ((s.modQueue_frame _ ?_).trans (State.modHazel_frame _ ?_)).trans (State.modHazel_frame _ ?_)
    · exact fun _ h => h
    · exact fun _ => rfl
    · exact fun _ => rfl

theorem State.dropWaits_frame (q : Nat) : StopFrame s (s.dropWaits q) := .of_eq rfl rfl

theorem State.pendRecord_frame (ctx : Nat) (r : Record) : StopFrame s (s.pendRecord ctx r) := .of_eq rfl rfl

theorem State.putSlot_frame (i q w : Nat) : StopFrame s (s.putSlot i q w) := .of_eq rfl rfl

/-- A queue is marked as stopped, and is on the remap list no more. -/
theorem State.markStopped_frame (q : Nat) : StopFrame s
    (((s.dropWaits q).modQueue q fun k => { k with stopped := true }).modHazel fun h =>
      { h with remap := h.remap.filter fun x => x != q }) := by
  refine ((s.dropWaits_frame q).trans (State.modQueue_frame _ q ?_)).trans (State.modHazel_frame _ ?_)
  · exact fun _ _ => rfl
  · exact fun _ => rfl

theorem State.markStopped_queue (q : Nat) :
    ((((s.dropWaits q).modQueue q fun k => { k with stopped := true }).modHazel fun h =>
      { h with remap := h.remap.filter fun x => x != q }).queue q).stopped = true := by
  change (((s.dropWaits q).modQueue q fun k => { k with stopped := true }).queue q).stopped = true
  rw [State.queue_modQueue, if_pos rfl]

theorem State.failQueue_frame (q : Nat) : StopFrame s (s.failQueue q) :=
  (s.markStopped_frame q).trans (State.pendRecord_frame _ _ _)

theorem State.widx_frame (q : Nat) : StopFrame s (s.widx q).2 := by
  have read := (s.homeGets_frame 2 (s.osm.dbbase + 16384 * q)).stop
  unfold State.widx
  simp only
  split
  · exact read
  · exact read.trans (.of_eq rfl rfl)

theorem State.serveList_frame (i : Nat) (l : List Nat) : StopFrame s (s.serveList i l) := by
  induction l generalizing s with
  | nil => exact .refl s
  | cons q rest ih =>
    have taken : StopFrame s (s.modHazel fun h => { h with remap := rest }) := .of_eq rfl rfl
    have read := taken.trans (State.widx_frame _ q)
    unfold State.serveList
    simp only
    split
    · exact taken.trans (ih _)
    · split
      · exact (read.trans (State.failQueue_frame _ q)).trans (ih _)
      · exact read.trans (State.putSlot_frame _ _ _ _)

theorem State.serveRemap_frame : StopFrame s s.serveRemap := by
  unfold State.serveRemap
  split
  · exact s.serveList_frame _ _
  · exact .refl s

/-- A queue that stops keeps every other one stopped, and is stopped (R327). -/
theorem State.stopQueue_frame (q : Nat) : StopFrame s (s.stopQueue q) ∧ ((s.stopQueue q).queue q).stopped = true := by
  unfold State.stopQueue
  cases s.mapped q with
  | none => exact ⟨s.markStopped_frame q, s.markStopped_queue q⟩
  | some m =>
    have served := State.serveRemap_frame ((((s.unmapSlot m.1).dropWaits q).modQueue q fun k =>
      { k with stopped := true }).modHazel fun h => { h with remap := h.remap.filter fun x => x != q })
    exact ⟨((s.unmapSlot_frame m.1).trans (State.markStopped_frame _ q)).trans served,
      served.stopped q (State.markStopped_queue _ q)⟩

theorem State.unreserve_frame (u : Nat) : StopFrame s (s.unreserve u) :=
  .of_programs (.of_map rfl fun _ => ⟨rfl, rfl, rfl, fun _ h => h⟩) rfl

theorem State.finishNode_frame (n : Node) (status cause : Nat) (fsum : BitVec 128) :
    StopFrame s (s.finishNode n status cause fsum) := by
  unfold State.finishNode
  simp only
  split
  · refine (s.modHazel_frame ?_).trans (State.unreserve_frame _ _)
    exact fun _ => rfl
  · refine ((s.modHazel_frame ?_).trans (State.unreserve_frame _ _)).trans
      ((State.modHazel_frame _ ?_).trans (State.pendRecord_frame _ _ _))
    · exact fun _ => rfl
    · exact fun _ => rfl

theorem State.reap_frame (ctx : Nat) : StopFrame s (s.reap ctx) := by
  unfold State.reap
  simp only
  have finished (s : State) (n : Node) : StopFrame s (if (n.ctx == ctx && n.stopped && !s.nodeLive n.uid) = true then
      match (s.ctx ctx).fault with
      | some f =>
        if f.node = n.uid then s.finishNode n 1 f.cause.code (fsumOf f.pc f.addr f.core f.lane) else s.finishNode n 2 0 0
      | none => s.finishNode n 2 0 0
    else s) := by
    split
    · split
      · split
        · exact s.finishNode_frame _ _ _ _
        · exact s.finishNode_frame _ _ _ _
      · exact s.finishNode_frame _ _ _ _
    · exact .refl s
  have all := StopFrame.foldl finished s.hazel.pool s
  split
  · refine all.trans ?_
    split
    · exact .of_eq rfl rfl
    · exact .of_eq rfl rfl
  · exact all

/-- What follows the queues when a context stops: its crews are cancelled, and its nodes that are gone finish (R339). -/
theorem State.cancelCrews_frame (ctx : Nat) {f : Hazel → Hazel} (h : ∀ x, (f x).queues = x.queues) : StopFrame s
    (((span 0 48).foldl (fun (s : State) cl => if (s.clusterCtxs cl).contains ctx then s.sendDown cl (.cancel ctx) else s)
      (s.modHazel f)).reap ctx) := by
  refine ((s.modHazel_frame h).trans (StopFrame.foldl (fun s cl => ?_) _ _)).trans (State.reap_frame _ ctx)
  split
  · exact .of_eq rfl rfl
  · exact .refl s

/-- The stop of a context keeps every program where it stands, for its clusters to cancel, and stops its queues (R339). -/
theorem State.stopContext_frame (ctx : Nat) : StopFrame s (s.stopContext ctx) ∧
    ∀ q k, s.hazel.queues.find q = some k → k.ctx = ctx → ((s.stopContext ctx).queue q).stopped = true := by
  unfold State.stopContext
  refine ⟨?_, fun q k hq hk => ?_⟩
  · refine StopFrame.trans (t := s.modCtx ctx fun c => { c with stopping := true }) (.of_eq rfl rfl) ?_
    refine (StopFrame.foldl (fun s q => (s.stopQueue_frame q).1) _ _).trans (State.cancelCrews_frame _ ctx ?_)
    exact fun _ => rfl
  · refine (State.cancelCrews_frame _ ctx ?_).stopped q (foldl_establishes (P := fun _ => True)
      (Q := fun t => (t.queue q).stopped = true) (x := q) ?_ (fun _ _ _ _ => trivial)
      (fun t _ => (t.stopQueue_frame q).2) (fun t p _ _ h => (t.stopQueue_frame p).1.stopped q h) trivial)
    · exact fun _ => rfl
    · exact List.mem_map.2 ⟨(q, k), List.mem_filter.2 ⟨Map.mem_of_find hq, by simpa using hk⟩, rfl⟩

/-- CANCEL stops the context, with the cause of a breakpoint stop noted where a crew stands at one (R317, R339). -/
theorem State.cancelContext_frame (ctx : Nat) : StopFrame s (s.cancelContext ctx) ∧
    ∀ q k, s.hazel.queues.find q = some k → k.ctx = ctx → ((s.cancelContext ctx).queue q).stopped = true := by
  unfold State.cancelContext
  simp only
  split
  · next node pc core lane _ =>
    obtain ⟨frame, stopped⟩ :=
      (s.modCtx ctx fun c => { c with fault := some ⟨.bkpt, pc, 0, core, lane, node⟩ }).stopContext_frame ctx
    exact ⟨StopFrame.trans (t := s.modCtx ctx _) (.of_eq rfl rfl) frame, stopped⟩
  · exact s.stopContext_frame ctx

end Stops

end Sys2Proof.Machine
end

section
/-! Osmium's requests that change tables of its own, and the registers without a row of their own (R7, R40, R41, R82, R92, R319,
R322, R367, R374, R381). -/

namespace Sys2Proof.Machine

/-! ### Requests -/

/-- A request is refused with nothing but the report to Pewter, or has its effect (R372). -/
theorem State.request_cases {s t : State} {r : Res} {ok : Bool} {good : Prop} {P : State → Prop} (hr : r = s.request ok t)
    (h : ok = true ↔ good) (hp : P t) :
    (¬good → r = .next (s.toPewter .refusedRequest)) ∧ (good → ∃ t, r = .next t ∧ P t) := by
  subst hr
  constructor
  · intro hg
    have : ok = false := by simpa using mt h.1 hg
    rw [this]
    rfl
  · intro hg
    rw [h.2 hg]
    exact ⟨t, rfl, hp⟩

section Tables

variable {s : State} {ctx r q d n : Nat} {v : BitVec 512} {e : BitVec 16}

theorem State.contextsOk_iff :
    s.contextsOk = true ↔ (s.board.life = .provisioned ∨ s.board.life = .deployed) ∧ s.board.wiping = false := by
  unfold State.contextsOk
  cases s.board.life <;> simp

theorem execDescriptorInstall_eq (h : s.arg = .descriptorInstall ctx v) (hc : ctx < 4096) : exec .descriptorInstall s =
    s.request (s.contextsOk && s.descOk ctx v) (s.modCtx ctx fun c => { c with desc := v }) := by
  change execDescriptorInstall s = _
  unfold execDescriptorInstall
  rw [h]
  exact if_neg (by omega)

theorem execQueueOwnerAssign_eq (h : s.arg = .queueOwnerAssign q e) (hq : q < 65536) : exec .queueOwnerAssign s =
    s.request (bvf e 12 3 == 0) { s with osm := { s.osm with qown := s.osm.qown.put q e 0 } } := by
  change execQueueOwnerAssign s = _
  unfold execQueueOwnerAssign
  rw [h]
  exact if_neg (by omega)

theorem execWindowInstall_eq {a l sc : BitVec 64} (h : s.arg = .windowInstall d n a l sc) (hd : d < 4) (hn : n < 32) :
    exec .windowInstall s = s.request ((⟨a, l, sc, none⟩ : Window).fieldsOk && s.windowOk d n ⟨a, l, sc, none⟩)
      (s.modDie d fun x => { x with win := x.win.set n { x.win.getD n .empty with next := some (a, l, sc) } }) := by
  change execWindowInstall s = _
  unfold execWindowInstall
  rw [h]
  exact if_neg (by omega)

/-- The state in which a region has another entry, wiped where it was assigned to another use (R374, log 52). -/
def State.assigned (s : State) (r : Nat) (e : BitVec 16) : State :=
  let t := if fwKind (s.fw r) = 0 ∨ (fwKind (s.fw r) == fwKind e && fwOwner (s.fw r) == fwOwner e) = true then s else s.wipeRegion r
  { t with osm := { t.osm with firewall := t.osm.firewall.put r e 0 } }

theorem execFirewallAssign_eq (h : s.arg = .firewallAssign r e) (hr : r < 16384) : exec .firewallAssign s =
    s.request ((fwKind e == 2 || fwSub e == 0) &&
      ((fwKind (s.fw r) == fwKind e && fwOwner (s.fw r) == fwOwner e) || !s.ringIn r)) (s.assigned r e) := by
  change execFirewallAssign s = _
  unfold execFirewallAssign
  rw [h]
  exact if_neg (by omega)

theorem State.setFirewall_frame (s : State) (m : Map (BitVec 16)) :
    LoadFrame s { s with osm := { s.osm with firewall := m } } := .of_eq rfl rfl

theorem State.assigned_frame : LoadFrame s (s.assigned r e) := by
  unfold State.assigned
  simp only
  split
  · exact s.setFirewall_frame _
  · exact (s.wipeRegion_frame r).trans (State.setFirewall_frame _ _)

theorem State.assigned_fw (x : Nat) : (s.assigned r e).fw x = if x = r then e else s.fw x := by
  have put (t : State) (ht : t.osm.firewall = s.osm.firewall) : (t.osm.firewall.put r e 0).getD x 0 = if x = r then e else s.fw x := by
    rw [ht]
    split
    · next hx => rw [hx, Map.getD_put_self]
    · next hx => rw [Map.getD_put_ne _ _ _ _ (Ne.symm hx)]; rfl
  unfold State.assigned State.fw
  simp only
  split
  · exact put s rfl
  · exact put _ (s.wipeRegion_osm r)

theorem State.assigned_kept (h : (fwKind (s.fw r) = fwKind e ∧ fwOwner (s.fw r) = fwOwner e) ∨ fwKind (s.fw r) = 0) :
    SameMemory s (s.assigned r e) := by
  unfold State.assigned
  simp only
  rw [if_pos (by simpa [or_comm] using h)]
  exact fun _ _ => rfl

theorem State.assigned_wiped (h : ¬(fwKind (s.fw r) = fwKind e ∧ fwOwner (s.fw r) = fwOwner e)) (hk : fwKind (s.fw r) ≠ 0)
    {pa : Nat} (hr : pa / 2 ^ 25 = r) : (s.assigned r e).l2.find (pa / 128) = none ∧
      (Undisturbed s (s.assigned r e) → (∀ b, b / 16384 = r → s.metaPa b / 2 ^ 25 ≠ r) → s.coded? (pa / 2048) = false →
        Memory.get (s.assigned r e).mem pa = 0) := by
  unfold State.assigned
  simp only
  rw [if_neg (by simpa [hk] using h)]
  exact ⟨s.wipeRegion_l2 hr, fun hu hm hc => s.wipeRegion_get hu.2 hr hm hc⟩

end Tables
/-! ### Registers without a row of their own -/

section Registers

variable {s : State} {ctx q d n core crew cl : Nat} {v : BitVec 512}

theorem bvf_setWidth {w k lo n : Nat} (x : BitVec w) (h : lo + n ≤ k) : bvf (x.setWidth k) lo n = bvf x lo n := by
  unfold bvf
  rw [BitVec.toNat_setWidth]
  obtain ⟨m, rfl⟩ := Nat.exists_eq_add_of_le h
  rw [show 2 ^ (lo + n + m) = 2 ^ lo * (2 ^ n * 2 ^ m) by ring, Nat.mod_mul_right_div_self, Nat.mod_mul_right_mod]

/-- DIAGVA after a write keeps ADDRESS and EN (R367). -/
theorem diagvaWrite_fields (v : BitVec 64) :
    bvf (diagvaWrite v) 15 43 = bvf v 15 43 ∧ (diagvaWrite v).getLsbD 0 = v.getLsbD 0 := by
  have base : bvf v 15 43 < 2 ^ 43 := Nat.mod_lt _ (by decide)
  have en : bvf v 0 1 < 2 := Nat.mod_lt _ (by decide)
  have low : bvf v 0 1 = v.toNat % 2 := by simp [bvf]
  unfold diagvaWrite
  rw [bvf_ofNat]
  refine ⟨by omega, ?_⟩
  simp only [BitVec.getLsbD, BitVec.toNat_ofNat, Nat.testBit_zero]
  congr 1
  simp only [eq_iff_iff]
  omega

/-- AUDCTL after a write: BASE and EN are the written ones, and so is K, where it is at most 20 (R367). -/
theorem audctlWrite_fields (old v : BitVec 64) :
    bvf (audctlWrite old v) 12 46 = bvf v 12 46 ∧ bvf (audctlWrite old v) 0 1 = bvf v 0 1 ∧
      bvf (audctlWrite old v) 7 5 = if bvf v 7 5 ≤ 20 then bvf v 7 5 else bvf old 7 5 := by
  have small (x : BitVec 64) (lo n : Nat) : bvf x lo n < 2 ^ n := Nat.mod_lt _ (Nat.two_pow_pos n)
  have base := small v 12 46
  have en := small v 0 1
  have k : (if bvf v 7 5 ≤ 20 then bvf v 7 5 else bvf old 7 5) < 2 ^ 5 := by
    split <;> exact small _ _ _
  have l : (if 4 ≤ bvf v 3 4 ∧ bvf v 3 4 ≤ 12 then bvf v 3 4 else bvf old 3 4) < 2 ^ 4 := by
    split <;> exact small _ _ _
  unfold audctlWrite
  simp only [bvf_ofNat]
  refine ⟨?_, ?_, ?_⟩ <;> omega

/-- Clearing an error latch of a controller changes nothing that it delivers (R82). -/
theorem State.modCtl_czerr_kept (s : State) (n : Nat) (f : Bool → Bool) :
    SameMemory s (s.modCtl n fun c => { c with czerr := f c.czerr }) := by
  have rel (m : Nat) : ((s.modCtl n fun c => { c with czerr := f c.czerr }).ctl m).mcache = (s.ctl m).mcache ∧
      ((s.modCtl n fun c => { c with czerr := f c.czerr }).ctl m).overflow = (s.ctl m).overflow := by
    by_cases h : n = m
    · subst h
      rw [State.ctl_modCtl_self]
      exact ⟨rfl, rfl⟩
    · rw [State.ctl_modCtl_ne _ _ h]
      exact ⟨rfl, rfl⟩
  refine SameMemory.of_home (fun _ => rfl) (fun _ => rfl) (State.home_congr rfl (State.ctlLine_congr rfl rfl rfl
    (fun m => (rel m).2) (fun _ => rfl) fun blk => ?_))
  unfold State.metaUnit
  simp only [(rel _).1]
  rfl

/-- Where a metadata table may stand (R82). -/
theorem State.metaPlace_iff {pa : Nat} : s.metaPlace pa = true ↔ pa + 2 ^ 26 ≤ hbmSize ∧
    ∀ r, pa / 2 ^ 25 ≤ r → r ≤ (pa + 2 ^ 26 - 1) / 2 ^ 25 → fwKind (s.fw r) = 2 ∧ fwSub (s.fw r) = 1 := by
  unfold State.metaPlace
  simp only [Bool.and_eq_true, decide_eq_true_eq, List.all_eq_true, mem_span, beq_iff_eq]
  refine and_congr_right fun _ => ⟨fun h r lo hi => h r (by omega), fun h r hr => h r (by omega) (by omega)⟩

/-- The state after a write to a register of a context. -/
theorem execRegisterWrite_ctx {reg : SupReg} (h : s.arg = .registerWrite reg v) :
    (reg = .nopre ctx → exec .registerWrite s = .next (s.modCtx ctx fun c =>
      { c with nopre := if bvf v 0 17 ≤ 65536 then BitVec.ofNat 64 (bvf v 0 17) else c.nopre })) ∧
    (reg = .diagva ctx → exec .registerWrite s = s.request (decide (bvf (v.setWidth 64 : BitVec 64) 0 58 < 2 ^ 57))
      (s.modCtx ctx fun c => { c with diagva := diagvaWrite (v.setWidth 64) })) ∧
    (reg = .audctl ctx → exec .registerWrite s = s.request (decide (bvf (v.setWidth 64 : BitVec 64) 0 58 < 2 ^ 57))
      (s.modCtx ctx fun c => { c with audctl := audctlWrite c.audctl (v.setWidth 64), auditWr := 0 })) ∧
    (reg = .sched ctx → exec .registerWrite s =
      .next (s.modCtx ctx fun c => { c with sched := BitVec.ofNat 512 (bvf v 0 192) })) ∧
    (reg = .seal ctx → exec .registerWrite s = s.request (s.sealGood ctx v) (s.modCtx ctx fun c =>
      { c with sealed := if bvf v 0 40 = 0 then none else some (v.setWidth 24, BitVec.ofNat 16 (bvf v 24 16)) })) ∧
    (reg = .mailCancel ctx → exec .registerWrite s = .next (s.cancelContext ctx)) := by
  have run : exec .registerWrite s = execRegisterWrite s := rfl
  rw [run]
  unfold execRegisterWrite
  rw [h]
  refine ⟨?_, ?_, ?_, ?_, ?_, ?_⟩ <;> (rintro rfl; rfl)

end Registers
end Sys2Proof.Machine
end

section
/-! Osmium's requests that write memory: page-table entries, objects and link patches (R374, R381 to R384). -/

namespace Sys2Proof.Machine

/-! ### Doublewords -/

theorem setWidth_ofNat (n : Nat) : (BitVec.ofNat 64 n).setWidth 32 = BitVec.ofNat 32 n := by
  apply BitVec.eq_of_toNat_eq
  simp only [BitVec.toNat_setWidth, BitVec.toNat_ofNat]
  omega

theorem setWidth_shift_ofNat (n : Nat) : (BitVec.ofNat 64 n >>> 32).setWidth 32 = BitVec.ofNat 32 (n / 2 ^ 32) := by
  apply BitVec.eq_of_toNat_eq
  simp only [BitVec.toNat_setWidth, BitVec.toNat_ushiftRight, BitVec.toNat_ofNat, Nat.shiftRight_eq_div_pow]
  omega

theorem ofNat_toNat_low (v : BitVec 64) : BitVec.ofNat 32 v.toNat = v.setWidth 32 := by
  rw [← setWidth_ofNat, BitVec.ofNat_toNat, BitVec.setWidth_eq]

theorem ofNat_toNat_high (v : BitVec 64) : BitVec.ofNat 32 (v.toNat / 2 ^ 32) = (v >>> 32).setWidth 32 := by
  rw [← setWidth_shift_ofNat, BitVec.ofNat_toNat, BitVec.setWidth_eq]

/-- The granules of a doubleword that is written, low granule first. -/
theorem unitWrites_pair (pa : Nat) (a b : GUnit) (n : Nat) : unitWrites (pa / 4) [a, b] n =
    if n = pa / 4 + 1 then some b else if n = pa / 4 then some a else none := by
  simp only [unitWrites, unitWrite, Option.none_or]
  split
  · rfl
  · rfl

section Doublewords

variable {s t : State} {pa : Nat} {a b : GUnit}

/-- A write of an aligned doubleword changes its two granules and no other. -/
theorem HomeStep.doubleword (h : HomeStep (unitWrites (pa / 4) [a, b]) s t) (hu : Undisturbed s t) (h8 : pa % 8 = 0) :
    t.home pa = a ∧ t.home (pa + 4) = b ∧ ∀ x, x / 8 ≠ pa / 8 → t.home x = s.home x := by
  have all := h.undisturbed hu
  simp only [unitWrites_pair] at all
  refine ⟨?_, ?_, fun x hx => ?_⟩
  · rw [all, if_neg (by omega), if_pos rfl, Option.getD_some]
  · rw [all, if_pos (by omega), Option.getD_some]
  · rw [all, if_neg (by omega), if_neg (by omega), Option.getD_none]

end Doublewords

/-! ### Table entries -/

section Entries

variable (s : State) (ctx level pa value : Nat)

theorem State.noteLeaf_step : HomeReads s (s.noteLeaf ctx level pa value) := .of_same rfl rfl rfl rfl rfl rfl rfl

theorem State.modCtx_step (f : Ctx → Ctx) : HomeReads s (s.modCtx ctx f) := .of_same rfl rfl rfl rfl rfl rfl rfl

/-- An entry is written as a doubleword at its home slice (R34). -/
theorem State.putEntry_step : HomeStep (unitWrites (pa / 4)
    [coded (BitVec.ofNat 32 value), coded (BitVec.ofNat 32 (value / 2 ^ 32))]) s (s.putEntry ctx level pa value) := by
  unfold State.putEntry
  exact (((s.noteLeaf_step ctx level pa value).trans_reads (State.homeGets_step _ 2 pa)).reads_trans
    (State.homePuts_step _ _ pa)).trans_reads (State.modCtx_step _ _ _)

theorem State.noteLeaf_programs : ProgramsKept s (s.noteLeaf ctx level pa value) := .of_cores rfl

theorem State.modCtx_programs (f : Ctx → Ctx) : ProgramsKept s (s.modCtx ctx f) := .of_cores rfl

theorem State.homeGets_programs (n : Nat) : ProgramsKept s (s.homeGets pa n).2 := (s.homeGets_frame n pa).load.programs

theorem State.homePuts_programs (us : List GUnit) : ProgramsKept s (s.homePuts pa us) := (s.homePuts_frame us pa).load.programs

theorem State.putEntry_programs : ProgramsKept s (s.putEntry ctx level pa value) := by
  unfold State.putEntry
  exact (((s.noteLeaf_programs ctx level pa value).trans (State.homeGets_programs _ pa 2)).trans
    (State.homePuts_programs _ pa _)).trans (State.modCtx_programs _ _ _)

end Entries

section

variable {s : State} {ctx level pa : Nat} {pte : BitVec 64}

theorem bitAt_toNat {w : Nat} (v : BitVec w) (i : Nat) : bitAt v.toNat i = v.getLsbD i := by
  rw [BitVec.getLsbD, Nat.testBit_eq_decide_div_mod_eq]
  rfl

theorem execPageTableWrite_eq (h : s.arg = .pageTableWrite ctx level pa pte) (h8 : pa % 8 = 0) (hl : level ≤ 3) :
    exec .pageTableWrite s = s.request (s.inTable pa 0 ctx && (!(bitAt pte.toNat 0 && bitAt pte.toNat 1) ||
      (decide (level ≥ 1) && s.leafOk ctx pte.toNat level))) (s.putEntry ctx level pa pte.toNat) := by
  change execPageTableWrite s = _
  unfold execPageTableWrite
  rw [h]
  exact if_neg (by omega)

/-- When Osmium writes an entry (R374, R381). -/
theorem pageTableWrite_good : (s.inTable pa 0 ctx && (!(bitAt pte.toNat 0 && bitAt pte.toNat 1) ||
      (decide (level ≥ 1) && s.leafOk ctx pte.toNat level))) = true ↔ s.inTable pa 0 ctx = true ∧
      (pte.getLsbD 0 = true ∧ pte.getLsbD 1 = true → 1 ≤ level ∧ s.leafOk ctx pte.toNat level = true) := by
  rw [bitAt_toNat, bitAt_toNat]
  cases pte.getLsbD 0 <;> cases pte.getLsbD 1 <;> simp

end

/-! ### Objects -/

section Objects

variable {s : State} {ctx : Nat} {o : RynilObject}

/-- What a loaded object makes of its context (R383). -/
def objectContext (o : RynilObject) (c : Ctx) : Ctx := { c with
  desc := withTroots c.desc o.troots
  handler := match o.handler with | some h => BitVec.ofNat 64 (h.toNat / 2 * 2 + 1) | none => 0
  links := o.links
  lzb := o.lzb
  syncb := o.syncb
  zframe := o.zframe
  measure := Config.sha384 (o.text.flatMap wordBytes) }

theorem State.loadCopies_frame (s : State) (at_ lives : Nat → Nat) (text live : List Word) (l : List Nat) :
    LoadFrame s (l.foldl (fun (t : State) d => (t.loadWords (at_ d) text).loadWords (lives d) live) s) :=
  .foldl (fun s _ => (s.loadWords_frame _ _).trans (State.loadWords_frame _ _ _)) l s

theorem State.wipeBlocks_frame (s : State) (l : List Nat) : LoadFrame s (l.foldl State.wipeBlock s) :=
  .foldl (fun s b => s.wipeBlock_frame b) l s

/-- An object is loaded, its context takes its fields, and the zero frame is wiped (R383). -/
theorem State.placeObject_eq : ∃ t : State, LoadFrame s t ∧ LoadFrame (t.modCtx ctx (objectContext o)) (s.placeObject ctx o) := by
  unfold State.placeObject
  exact ⟨_, s.loadCopies_frame _ _ _ _ _, State.wipeBlocks_frame _ _⟩

/-- A load changes no program, and no context but its own (R383). -/
theorem State.placeObject_frame : ProgramsKept s (s.placeObject ctx o) ∧
    (s.placeObject ctx o).ctx ctx = objectContext o (s.ctx ctx) ∧ ∀ x, x ≠ ctx → (s.placeObject ctx o).ctx x = s.ctx x := by
  obtain ⟨t, loaded, wiped⟩ := s.placeObject_eq (ctx := ctx) (o := o)
  refine ⟨(loaded.programs.trans (t.modCtx_programs _ _)).trans wiped.programs, ?_, fun x hx => ?_⟩
  · rw [wiped.ctx, State.ctx_modCtx_self, loaded.ctx]
  · rw [wiped.ctx, State.ctx_modCtx_ne _ _ (Ne.symm hx), loaded.ctx]

theorem execLoadObject_eq (h : s.arg = .loadObject ctx o) (hc : ctx < 4096) : exec .loadObject s =
    s.request (s.objectOk ctx o && ((s.placeObject ctx o).zeroSync ctx o.syncb o.links).1)
      ((s.placeObject ctx o).zeroSync ctx o.syncb o.links).2 := by
  change execLoadObject s = _
  unfold execLoadObject
  rw [h]
  exact if_neg (by omega)

end Objects

/-! ### Link patches -/

section Patches

variable (s : State) {ctx i : Nat} {tgt : BitVec 64}

theorem State.icDrop_step (pa n : Nat) : HomeReads s (s.icDrop pa n) := by
  refine ⟨le_rfl, fun _ => ⟨rfl, rfl, rfl⟩, fun _ h => h, fun _ _ _ => rfl⟩

theorem State.tlbDropPage_step (ctx page : Nat) : HomeReads s (s.tlbDropPage ctx page) := .of_same rfl rfl rfl rfl rfl rfl rfl

theorem State.loadWords_step (pa : Nat) (ws : List Word) : HomeStep (unitWrites (pa / 4) (ws.map coded)) s (s.loadWords pa ws) :=
  (s.homePuts_step _ _).trans_reads (State.icDrop_step _ _ _)

/-- The lines of a range leave every instruction cache (R384, log 113). -/
theorem State.icDrop_none {pa n y : Nat} (lo : pa / 128 ≤ y / 32) (hi : y / 32 ≤ (pa + 4 * n - 1) / 128) (d : Nat) :
    ((s.icDrop pa n).core d).icache.find y = none :=
  State.core_rel (s := s) (R := fun _ k => k.icache.find y = none) (t := s.icDrop pa n) rfl
    (by
      refine fun e => ⟨rfl, Map.find_eq_none.2 fun x hx hy => ?_⟩
      subst hy
      simpa [lo, hi] using (List.mem_filter.1 hx).2) rfl d

/-- No core keeps a buffered translation of a page of 16 KiB that is dropped (R45). -/
theorem State.tlbDropPage_none {page : Nat} (d : Nat) :
    ∀ y ∈ ((s.tlbDropPage ctx page).core d).tlb, y.ctx = ctx → y.size = 16384 → y.va / 16384 ≠ page :=
  State.core_rel (s := s) (R := fun _ k => ∀ y ∈ k.tlb, y.ctx = ctx → y.size = 16384 → y.va / 16384 ≠ page)
    (t := s.tlbDropPage ctx page) rfl
    (by
      refine fun e => ⟨rfl, fun y hy hc hz hv => ?_⟩
      simpa [hc, hz, hv] using (List.mem_filter.1 hy).2) (fun _ h => nomatch h) d

/-- The same words are written to several places. -/
def copyWrites (us : List GUnit) : List Nat → Nat → Option GUnit
  | [], _ => none
  | pa :: l, n => (copyWrites us l n).or (unitWrites (pa / 4) us n)

/-- A target is written into every copy of a text word (R384). -/
def State.writeCopies (s : State) (ws : List Word) (l : List Nat) : State := l.foldl (fun (t : State) pa => t.loadWords pa ws) s

theorem State.writeCopies_step (ws : List Word) (l : List Nat) : HomeStep (copyWrites (ws.map coded) l) s (s.writeCopies ws l) := by
  induction l generalizing s with
  | nil => exact .refl s
  | cons pa l ih => exact (s.loadWords_step pa ws).trans (ih _)

theorem State.writeCopies_programs (ws : List Word) (l : List Nat) : ProgramsKept s (s.writeCopies ws l) :=
  .foldl (fun s pa => (s.loadWords_frame pa ws).programs) l s

/-- A patched word stands in no instruction cache. -/
theorem State.writeCopies_icache {ws : List Word} {l : List Nat} {pa y : Nat} (hp : pa ∈ l) (hy : y / 32 = pa / 128)
    (hw : ws ≠ []) (d : Nat) : ((s.writeCopies ws l).core d).icache.find y = none := by
  have := List.length_pos_of_ne_nil hw
  exact foldl_establishes (f := fun (t : State) pa => t.loadWords pa ws) (P := fun _ => True)
    (Q := fun t => (t.core d).icache.find y = none) hp (fun _ _ _ _ => trivial)
    (fun t _ => State.icDrop_none (t.homePuts pa (ws.map coded)) (n := ws.length) (by omega) (by omega) d)
    (fun t b _ _ h => ((t.loadWords_frame b ws).programs d).icache y h) trivial

section Copies

variable {a b : GUnit} {l : List Nat} {pa : Nat}

/-- A doubleword that is no copy is not written. -/
theorem copyWrites_of_forall_ne (h : ∀ x ∈ l, x % 8 = 0 ∧ x / 8 ≠ pa / 8) {n : Nat} (hn : n / 2 = pa / 8) :
    copyWrites [a, b] l n = none := by
  induction l with
  | nil => rfl
  | cons x l ih =>
    have hx := h x List.mem_cons_self
    rw [copyWrites, ih fun y hy => h y (List.mem_cons_of_mem x hy), unitWrites_pair, if_neg (by omega), if_neg (by omega)]
    rfl

/-- Every aligned copy of a doubleword is written. -/
theorem copyWrites_of_mem (h : ∀ x ∈ l, x % 8 = 0) (hp : pa ∈ l) :
    copyWrites [a, b] l (pa / 4) = some a ∧ copyWrites [a, b] l (pa / 4 + 1) = some b := by
  induction l with
  | nil => cases hp
  | cons x l ih =>
    have rest : ∀ y ∈ l, y % 8 = 0 := fun y hy => h y (List.mem_cons_of_mem x hy)
    by_cases hl : pa ∈ l
    · obtain ⟨low, high⟩ := ih rest hl
      simp only [copyWrites, low, high, Option.some_or, and_self]
    · obtain rfl : pa = x := (List.mem_cons.1 hp).resolve_right hl
      have h8 := h pa List.mem_cons_self
      have other : ∀ y ∈ l, y % 8 = 0 ∧ y / 8 ≠ pa / 8 := fun y hy =>
        ⟨rest y hy, fun e => hl (by have := rest y hy; rwa [show pa = y by omega])⟩
      simp [copyWrites, unitWrites_pair, copyWrites_of_forall_ne other (show pa / 4 / 2 = pa / 8 by omega),
        copyWrites_of_forall_ne other (show (pa / 4 + 1) / 2 = pa / 8 by omega)]

end Copies

/-- The copies of a link's entry and the lazy page's own entry as a patch leaves them (R384). -/
def State.patched (s : State) (ctx page ea leaf : Nat) (ws : List Word) (copies : List Nat) : State :=
  ((s.writeCopies ws copies).putEntry ctx 3 ea leaf).tlbDropPage ctx page

section Patched

variable {page ea leaf pa : Nat} {lo hi : Word} {ws : List Word} {copies : List Nat}

theorem State.patched_programs : ProgramsKept (s.writeCopies ws copies) (s.patched ctx page ea leaf ws copies) :=
  (State.putEntry_programs _ _ _ _ _).trans (State.tlbDropPage_frame _ _ _).programs

/-- Every copy holds the target, and the entry names the zero frame. -/
theorem State.patched_home (h8 : ∀ x ∈ ea :: copies, x % 8 = 0) (hd : ((ea :: copies).map fun x => x / 8).Nodup)
    (hu : Undisturbed s (s.patched ctx page ea leaf [lo, hi] copies)) :
    (∀ pa ∈ copies, (s.patched ctx page ea leaf [lo, hi] copies).home pa = coded lo ∧
      (s.patched ctx page ea leaf [lo, hi] copies).home (pa + 4) = coded hi) ∧
    (s.patched ctx page ea leaf [lo, hi] copies).home ea = coded (BitVec.ofNat 32 leaf) ∧
    (s.patched ctx page ea leaf [lo, hi] copies).home (ea + 4) = coded (BitVec.ofNat 32 (leaf / 2 ^ 32)) := by
  have step := ((s.writeCopies_step [lo, hi] copies).trans (State.putEntry_step _ ctx 3 ea leaf)).trans_reads
    (State.tlbDropPage_step _ ctx page)
  have all := step.undisturbed hu
  change ∀ x, (s.patched ctx page ea leaf [lo, hi] copies).home x = _ at all
  have ha := h8 ea List.mem_cons_self
  simp only [unitWrites_pair, List.map_cons, List.map_nil] at all
  refine ⟨fun pa hp => ?_, ?_, ?_⟩
  · have hpa := h8 pa (List.mem_cons_of_mem _ hp)
    have ne : ea / 8 ≠ pa / 8 := fun e => (List.nodup_cons.1 hd).1 (List.mem_map.2 ⟨pa, hp, e.symm⟩)
    obtain ⟨low, high⟩ := copyWrites_of_mem (a := coded lo) (b := coded hi) (fun x hx => h8 x (List.mem_cons_of_mem _ hx)) hp
    constructor
    · rw [all, if_neg (by omega), if_neg (by omega), Option.none_or, low, Option.getD_some]
    · rw [all, if_neg (by omega), if_neg (by omega), Option.none_or, show (pa + 4) / 4 = pa / 4 + 1 by omega, high, Option.getD_some]
  · rw [all, if_neg (by omega), if_pos rfl, Option.some_or, Option.getD_some]
  · rw [all, if_pos (by omega), Option.some_or, Option.getD_some]

end Patched
end Patches
end Sys2Proof.Machine
end

section
/-! Settling the statement about what Osmium installs (R7, R40, R41, R82, R92, R319, R322, R367, R374, R381 to R384). -/

namespace Sys2Proof.Machine

/-! ### Registers -/

section Registers

variable {s : State} {reg : SupReg} {ctx q d n core crew cl : Nat} {named : Bool} {v : BitVec 512}

theorem registerWrite_czerr (h : s.arg = .registerWrite (.czerr n) v) (hn : n < 8) : ∃ t, exec .registerWrite s = .next t ∧
    (SameMemory s t ∧ t.cores = s.cores) ∧ (t.ctl n).czerr = ((s.ctl n).czerr && !v.getLsbD 0) := by
  refine ⟨s.modCtl n fun c => { c with czerr := c.czerr && !v.getLsbD 0 }, ?_,
    ⟨s.modCtl_czerr_kept n (· && !v.getLsbD 0), rfl⟩, ?_⟩
  · change execRegisterWrite s = _
    unfold execRegisterWrite
    rw [h]
    exact if_pos (by simpa using hn)
  · rw [State.ctl_modCtl_self]

theorem registerWrite_nopre (h : s.arg = .registerWrite (.nopre ctx) v) : ∃ t, exec .registerWrite s = .next t ∧
    (SameMemory s t ∧ t.cores = s.cores) ∧
    (bvf v 0 17 ≤ 65536 → t.ctx ctx = { s.ctx ctx with nopre := BitVec.ofNat 64 (bvf v 0 17) }) ∧
    (65536 < bvf v 0 17 → t.ctx ctx = s.ctx ctx) := by
  obtain ⟨nopre, -⟩ := execRegisterWrite_ctx h (ctx := ctx)
  refine ⟨_, nopre rfl, ⟨fun _ _ => rfl, rfl⟩, fun small => ?_, fun large => ?_⟩
  · rw [State.ctx_modCtx_self, if_pos small]
  · rw [State.ctx_modCtx_self, if_neg (by omega)]

theorem registerWrite_diagva (h : s.arg = .registerWrite (.diagva ctx) v) :
    (2 ^ 57 ≤ bvf v 0 58 → exec .registerWrite s = .next (s.toPewter .refusedRequest)) ∧
    (bvf v 0 58 < 2 ^ 57 → ∃ t, exec .registerWrite s = .next t ∧ (SameMemory s t ∧ t.cores = s.cores) ∧
      bvf (t.ctx ctx).diagva 15 43 = bvf v 15 43 ∧ (t.ctx ctx).diagva.getLsbD 0 = v.getLsbD 0) := by
  obtain ⟨-, diagva, -⟩ := execRegisterWrite_ctx h (ctx := ctx)
  obtain ⟨address, en⟩ := diagvaWrite_fields (v.setWidth 64)
  have cases := State.request_cases (good := bvf v 0 58 < 2 ^ 57) (P := fun t => (SameMemory s t ∧ t.cores = s.cores) ∧
    bvf (t.ctx ctx).diagva 15 43 = bvf v 15 43 ∧ (t.ctx ctx).diagva.getLsbD 0 = v.getLsbD 0) (diagva rfl)
    (by rw [bvf_setWidth v (by decide), decide_eq_true_iff]) (by
      refine ⟨⟨fun _ _ => rfl, rfl⟩, ?_⟩
      rw [State.ctx_modCtx_self]
      exact ⟨address.trans (bvf_setWidth v (by decide)), by rw [en]; simp⟩)
  exact ⟨fun large => cases.1 (by omega), cases.2⟩

theorem registerWrite_audctl (h : s.arg = .registerWrite (.audctl ctx) v) :
    (2 ^ 57 ≤ bvf v 0 58 → exec .registerWrite s = .next (s.toPewter .refusedRequest)) ∧
    (bvf v 0 58 < 2 ^ 57 → ∃ t, exec .registerWrite s = .next t ∧ (SameMemory s t ∧ t.cores = s.cores) ∧
      bvf (t.ctx ctx).audctl 12 46 = bvf v 12 46 ∧ bvf (t.ctx ctx).audctl 0 1 = bvf v 0 1 ∧
      (bvf v 7 5 ≤ 20 → bvf (t.ctx ctx).audctl 7 5 = bvf v 7 5) ∧
      (20 < bvf v 7 5 → bvf (t.ctx ctx).audctl 7 5 = bvf (s.ctx ctx).audctl 7 5)) := by
  obtain ⟨-, -, audctl, -⟩ := execRegisterWrite_ctx h (ctx := ctx)
  obtain ⟨base, en, k⟩ := audctlWrite_fields (s.ctx ctx).audctl (v.setWidth 64)
  rw [bvf_setWidth v (by decide)] at base en k
  have cases := State.request_cases (good := bvf v 0 58 < 2 ^ 57) (P := fun t => (SameMemory s t ∧ t.cores = s.cores) ∧
    bvf (t.ctx ctx).audctl 12 46 = bvf v 12 46 ∧ bvf (t.ctx ctx).audctl 0 1 = bvf v 0 1 ∧
    (bvf v 7 5 ≤ 20 → bvf (t.ctx ctx).audctl 7 5 = bvf v 7 5) ∧
    (20 < bvf v 7 5 → bvf (t.ctx ctx).audctl 7 5 = bvf (s.ctx ctx).audctl 7 5)) (audctl rfl)
    (by rw [bvf_setWidth v (by decide), decide_eq_true_iff]) (by
      refine ⟨⟨fun _ _ => rfl, rfl⟩, ?_⟩
      rw [State.ctx_modCtx_self]
      exact ⟨base, en, fun small => k.trans (if_pos small), fun large => k.trans (if_neg (by omega))⟩)
  exact ⟨fun large => cases.1 (by omega), cases.2⟩

theorem registerWrite_sched (h : s.arg = .registerWrite (.sched ctx) v) : ∃ t, exec .registerWrite s = .next t ∧
    (SameMemory s t ∧ t.cores = s.cores) ∧ bvf (t.ctx ctx).sched 0 192 = bvf v 0 192 := by
  obtain ⟨-, -, -, sched, -⟩ := execRegisterWrite_ctx h (ctx := ctx)
  refine ⟨_, sched rfl, ⟨fun _ _ => rfl, rfl⟩, ?_⟩
  rw [State.ctx_modCtx_self, bvf_ofNat]
  simp only [bvf, pow_zero, Nat.div_one]
  rw [Nat.mod_mod_of_dvd _ (pow_dvd_pow 2 (by decide)), Nat.mod_mod]

theorem registerWrite_queue (h : s.arg = .registerWrite (.queue q) v) (hq : q < 65536) (hm : s.mapped q = none) :
    (¬(queueOk v = true ∧ bvf v 80 16 = bvf (s.osm.qown.getD q 0) 0 12) →
      exec .registerWrite s = .next (s.toPewter .refusedRequest)) ∧
    (queueOk v = true ∧ bvf v 80 16 = bvf (s.osm.qown.getD q 0) 0 12 → ∃ t, exec .registerWrite s = .next t ∧
      (SameMemory s t ∧ t.cores = s.cores) ∧ t.queue q = queueOf (s.queue q) v ∧ ∀ x, x ≠ q → t.queue x = s.queue x) := by
  have unmapped : ¬(q ≥ 65536 ∨ (s.mapped q).isSome = true) := by simpa [hm] using hq
  have run : exec .registerWrite s = s.request (queueOk v && bvf v 80 16 == bvf (s.osm.qown.getD q 0) 0 12)
      { s with hazel := { s.hazel with queues := s.hazel.queues.set q (queueOf (s.queue q) v) } } := by
    change execRegisterWrite s = _
    unfold execRegisterWrite
    rw [h]
    exact if_neg unmapped
  refine State.request_cases run (by simp) ⟨⟨fun _ _ => rfl, rfl⟩, ?_, fun x hx => ?_⟩
  · exact (s.queue_modQueue q q (queueOf · v)).trans (if_pos rfl)
  · exact (s.queue_modQueue q x (queueOf · v)).trans (if_neg (Ne.symm hx))

theorem registerWrite_czmbase (h : s.arg = .registerWrite (.czmbase d) v) (hd : d < 4) :
    (¬(bvf v 0 48 + 2 ^ 26 ≤ hbmSize ∧ ∀ r, bvf v 0 48 / 2 ^ 25 ≤ r → r ≤ (bvf v 0 48 + 2 ^ 26 - 1) / 2 ^ 25 →
        fwKind (s.fw r) = 2 ∧ fwSub (s.fw r) = 1) → exec .registerWrite s = .next (s.toPewter .refusedRequest)) ∧
    ((bvf v 0 48 + 2 ^ 26 ≤ hbmSize ∧ ∀ r, bvf v 0 48 / 2 ^ 25 ≤ r → r ≤ (bvf v 0 48 + 2 ^ 26 - 1) / 2 ^ 25 →
        fwKind (s.fw r) = 2 ∧ fwSub (s.fw r) = 1) →
      ∃ t, exec .registerWrite s = .next t ∧ t.cores = s.cores ∧ SameStacks s t ∧ t.osm.czmbase.find d = some (bvf v 0 48)) := by
  have run : exec .registerWrite s = s.request (s.metaPlace (bvf v 0 48))
      (({ s with osm := { s.osm with czmbase := s.osm.czmbase.set d (bvf v 0 48) } }.modCtl (2 * d) fun c =>
        { c with mcache := [] }).modCtl (2 * d + 1) fun c => { c with mcache := [] }) := by
    change execRegisterWrite s = _
    unfold execRegisterWrite
    rw [h]
    exact if_neg (by omega)
  exact State.request_cases run State.metaPlace_iff ⟨rfl, ⟨rfl, rfl⟩, Map.find_set_self _ _ _⟩

theorem registerWrite_dbbase (h : s.arg = .registerWrite .dbbase v) :
    (¬(bvf v 0 30 = 0 ∧ bvf v 0 64 < 2 ^ 37) → exec .registerWrite s = .next (s.toPewter .refusedRequest)) ∧
    (bvf v 0 30 = 0 ∧ bvf v 0 64 < 2 ^ 37 → ∃ t, exec .registerWrite s = .next t ∧ (SameMemory s t ∧ t.cores = s.cores) ∧
      t.osm.dbbase = bvf v 0 64) := by
  have run : exec .registerWrite s = s.request (bvf v 0 30 == 0 && decide (bvf v 0 64 < 2 ^ 37))
      { s with osm := { s.osm with dbbase := bvf v 0 64 } } := by
    change execRegisterWrite s = _
    unfold execRegisterWrite
    rw [h]
  exact State.request_cases run (by simp) ⟨⟨fun _ _ => rfl, rfl⟩, rfl⟩

theorem registerWrite_seal (h : s.arg = .registerWrite (.seal ctx) v) :
    (s.sealGood ctx v = false → exec .registerWrite s = .next (s.toPewter .refusedRequest)) ∧
    (s.sealGood ctx v = true → ∃ t, exec .registerWrite s = .next t ∧ (SameMemory s t ∧ t.cores = s.cores) ∧
      ((t.ctx ctx).sealed = none ↔ bvf v 0 40 = 0) ∧
      ∀ g x, (t.ctx ctx).sealed = some (g, x) → g = v.setWidth 24 ∧ x = BitVec.ofNat 16 (bvf v 24 16)) := by
  obtain ⟨-, -, -, -, write, -⟩ := execRegisterWrite_ctx h (ctx := ctx)
  have cases := State.request_cases (good := s.sealGood ctx v = true) (P := fun t => (SameMemory s t ∧ t.cores = s.cores) ∧
    ((t.ctx ctx).sealed = none ↔ bvf v 0 40 = 0) ∧
    ∀ g x, (t.ctx ctx).sealed = some (g, x) → g = v.setWidth 24 ∧ x = BitVec.ofNat 16 (bvf v 24 16)) (write rfl) Iff.rfl (by
      refine ⟨⟨fun _ _ => rfl, rfl⟩, ?_⟩
      rw [State.ctx_modCtx_self]
      by_cases hz : bvf v 0 40 = 0
      · simp [hz]
      · simp only [hz, if_false, reduceCtorEq, true_and]
        rintro g x ⟨⟩
        exact ⟨rfl, rfl⟩)
  exact ⟨fun bad => cases.1 (by simp [bad]), cases.2⟩

/-- The requests that Osmium passes to a cluster. -/
theorem registerWrite_core (h : s.arg = .registerWrite reg v) (hc : core < 192) :
    (reg = .misscap core → exec .registerWrite s = .next (s.sendDown (core / 4) (.misscap core (v.setWidth 64)))) ∧
    (reg = .mailTest core → exec .registerWrite s = .next (s.sendDown (core / 4) (.test core))) ∧
    (reg = .mailContinue core crew named → exec .registerWrite s =
      .next (s.sendDown (core / 4) (.continue_ core crew (if named = true then some (v.setWidth 64) else none)))) := by
  have run : exec .registerWrite s = execRegisterWrite s := rfl
  rw [run]
  unfold execRegisterWrite
  rw [h]
  refine ⟨?_, ?_, ?_⟩ <;> (rintro rfl; exact if_pos (by simpa using hc))

theorem registerWrite_cluster (h : s.arg = .registerWrite reg v) (hc : cl < 48) :
    (reg = .mailFuse cl → exec .registerWrite s = .next (s.sendDown cl .fuse)) ∧
    (reg = .mailUnfuse cl → exec .registerWrite s = .next (s.sendDown cl .unfuse)) := by
  have run : exec .registerWrite s = execRegisterWrite s := rfl
  rw [run]
  unfold execRegisterWrite
  rw [h]
  refine ⟨?_, ?_⟩ <;> (rintro rfl; exact if_pos (by simpa using hc))

theorem registerWrite_errors (h : s.arg = .registerWrite reg v) :
    (reg = .xlerr → exec .registerWrite s = .next { s with sup := { s.sup with xlerr := s.sup.xlerr &&& ~~~ (v.setWidth 4) } }) ∧
    (reg = .grerr → exec .registerWrite s = .next { s with sup := { s.sup with grErr := s.sup.grErr &&& ~~~ (v.setWidth 2) } }) := by
  have run : exec .registerWrite s = execRegisterWrite s := rfl
  rw [run]
  unfold execRegisterWrite
  rw [h]
  refine ⟨?_, ?_⟩ <;> (rintro rfl; rfl)

theorem registerWrite_mailCancel (h : s.arg = .registerWrite (.mailCancel ctx) v) : ∃ t, exec .registerWrite s = .next t ∧
    (∀ c, (t.core c).waves = (s.core c).waves ∧ (t.core c).crews = (s.core c).crews) ∧
    ∀ q k, s.hazel.queues.find q = some k → k.ctx = ctx → (t.queue q).stopped = true := by
  obtain ⟨-, -, -, -, -, cancel⟩ := execRegisterWrite_ctx h (ctx := ctx)
  obtain ⟨frame, stopped⟩ := s.cancelContext_frame ctx
  exact ⟨_, cancel rfl, frame.programs.running, stopped⟩

end Registers

/-! ### Requests that change tables or memory -/

section Installs

variable {s : State} {ctx i r q d n level pa : Nat} {v : BitVec 512} {e : BitVec 16} {pte a l sc tgt : BitVec 64} {o : RynilObject}

theorem descriptorInstall_step (h : s.arg = .descriptorInstall ctx v) (hc : ctx < 4096) :
    let good := (s.board.life = .provisioned ∨ s.board.life = .deployed) ∧ s.board.wiping = false ∧ s.descOk ctx v = true
    (¬good → exec .descriptorInstall s = .next (s.toPewter .refusedRequest)) ∧
    (good → ∃ t, exec .descriptorInstall s = .next t ∧ (SameMemory s t ∧ t.cores = s.cores) ∧
      t.ctx ctx = { s.ctx ctx with desc := v } ∧ ∀ x, x ≠ ctx → t.ctx x = s.ctx x) := by
  refine State.request_cases (execDescriptorInstall_eq h hc) ?_ ⟨⟨fun _ _ => rfl, rfl⟩, ?_, fun x hx => ?_⟩
  · rw [Bool.and_eq_true, State.contextsOk_iff, and_assoc]
  · rw [State.ctx_modCtx_self]
  · rw [State.ctx_modCtx_ne _ _ (Ne.symm hx)]

theorem firewallAssign_step (h : s.arg = .firewallAssign r e) (hr : r < 16384) :
    let same := fwKind (s.fw r) = fwKind e ∧ fwOwner (s.fw r) = fwOwner e
    let good := (fwKind e = 2 ∨ fwSub e = 0) ∧ (same ∨ s.ringIn r = false)
    (¬good → exec .firewallAssign s = .next (s.toPewter .refusedRequest)) ∧
    (good → ∃ t, exec .firewallAssign s = .next t ∧
      (∀ c, (t.core c).waves = (s.core c).waves ∧ (t.core c).crews = (s.core c).crews) ∧
      t.fw r = e ∧ (∀ x, x ≠ r → t.fw x = s.fw x) ∧
      (same ∨ fwKind (s.fw r) = 0 → SameMemory s t) ∧
      (¬same → fwKind (s.fw r) ≠ 0 → ∀ pa, pa / 2 ^ 25 = r → t.l2.find (pa / 128) = none ∧
        (Undisturbed s t → (∀ b, b / 16384 = r → s.metaPa b / 2 ^ 25 ≠ r) → s.coded? (pa / 2048) = false →
          Memory.get t.mem pa = 0))) := by
  refine State.request_cases (execFirewallAssign_eq h hr) (by simp) ⟨State.assigned_frame.programs.running, ?_, fun x hx => ?_,
    State.assigned_kept, fun hs hk pa hp => State.assigned_wiped hs hk hp⟩
  · rw [State.assigned_fw, if_pos rfl]
  · rw [State.assigned_fw, if_neg hx]

theorem queueOwnerAssign_step (h : s.arg = .queueOwnerAssign q e) (hq : q < 65536) :
    (bvf e 12 3 ≠ 0 → exec .queueOwnerAssign s = .next (s.toPewter .refusedRequest)) ∧
    (bvf e 12 3 = 0 → ∃ t, exec .queueOwnerAssign s = .next t ∧ (SameMemory s t ∧ t.cores = s.cores) ∧
      t.osm.qown.getD q 0 = e ∧ ∀ x, x ≠ q → t.osm.qown.getD x 0 = s.osm.qown.getD x 0) :=
  State.request_cases (execQueueOwnerAssign_eq h hq) beq_iff_eq ⟨⟨fun _ _ => rfl, rfl⟩, Map.getD_put_self _ _ _ _,
    fun _ hx => Map.getD_put_ne _ _ _ _ (Ne.symm hx)⟩

theorem windowInstall_step (h : s.arg = .windowInstall d n a l sc) (hd : d < 4) (hn : n < 32) :
    let w : Window := ⟨a, l, sc, none⟩
    let good := w.fieldsOk = true ∧ s.windowOk d n w = true
    (¬good → exec .windowInstall s = .next (s.toPewter .refusedRequest)) ∧
    (good → ∃ t x, exec .windowInstall s = .next t ∧ (SameMemory s t ∧ t.cores = s.cores) ∧ (t.die d).win.find n = some x ∧
      let old := (s.die d).win.getD n .empty
      (x.a, x.l, x.s) = (old.a, old.l, old.s) ∧ x.next = some (a, l, sc)) := by
  obtain ⟨refused, granted⟩ := State.request_cases (execWindowInstall_eq h hd hn) Bool.and_eq_true_iff rfl
  refine ⟨refused, fun good => ?_⟩
  obtain ⟨t, run, rfl⟩ := granted good
  refine ⟨_, { (s.die d).win.getD n .empty with next := some (a, l, sc) }, run, ⟨fun _ _ => rfl, rfl⟩, ?_, rfl, rfl⟩
  rw [State.die_modDie_self, Map.find_set_self]

theorem pageTableWrite_step (h : s.arg = .pageTableWrite ctx level pa pte) (h8 : pa % 8 = 0) (hl : level ≤ 3) :
    let good := s.inTable pa 0 ctx = true ∧
      (pte.getLsbD 0 = true ∧ pte.getLsbD 1 = true → 1 ≤ level ∧ s.leafOk ctx pte.toNat level = true)
    (¬good → exec .pageTableWrite s = .next (s.toPewter .refusedRequest)) ∧
    (good → ∃ t, exec .pageTableWrite s = .next t ∧
      (∀ c, (t.core c).waves = (s.core c).waves ∧ (t.core c).crews = (s.core c).crews) ∧
      (Undisturbed s t → t.home pa = coded (pte.setWidth 32) ∧ t.home (pa + 4) = coded ((pte >>> 32).setWidth 32) ∧
        ∀ x, x / 8 ≠ pa / 8 → t.home x = s.home x)) := by
  have written := s.putEntry_step ctx level pa pte.toNat
  rw [ofNat_toNat_low, ofNat_toNat_high] at written
  exact State.request_cases (execPageTableWrite_eq h h8 hl) pageTableWrite_good
    ⟨(s.putEntry_programs ctx level pa pte.toNat).running, fun hu => written.doubleword hu h8⟩

theorem loadObject_step (h : s.arg = .loadObject ctx o) (hc : ctx < 4096) :
    let good := s.objectOk ctx o = true ∧ ((s.placeObject ctx o).zeroSync ctx o.syncb o.links).1 = true
    (¬good → exec .loadObject s = .next (s.toPewter .refusedRequest)) ∧
    (good → ∃ t, exec .loadObject s = .next t ∧
      (∀ c, (t.core c).waves = (s.core c).waves ∧ (t.core c).crews = (s.core c).crews) ∧
      ((t.ctx ctx).links, (t.ctx ctx).lzb, (t.ctx ctx).syncb, (t.ctx ctx).zframe) = (o.links, o.lzb, o.syncb, o.zframe) ∧
      (t.ctx ctx).measure = Config.sha384 (o.text.flatMap wordBytes) ∧
      (o.handler = none → (t.ctx ctx).handler = 0) ∧
      (∀ h, o.handler = some h → (t.ctx ctx).handler = BitVec.ofNat 64 (h.toNat / 2 * 2 + 1)) ∧
      ∀ x, x ≠ ctx → (t.ctx x).desc = (s.ctx x).desc) := by
  obtain ⟨programs, own, others⟩ := s.placeObject_frame (ctx := ctx) (o := o)
  have zeroed := (s.placeObject ctx o).zeroSync_frame ctx o.syncb o.links
  refine State.request_cases (execLoadObject_eq h hc) Bool.and_eq_true_iff
    ⟨(programs.trans zeroed.programs).running, ?_, ?_, fun hh => ?_, fun x hh => ?_, fun x hx => ?_⟩
  · rw [zeroed.ctx, own]; rfl
  · rw [zeroed.ctx, own]; rfl
  · rw [zeroed.ctx, own, objectContext, hh]
  · rw [zeroed.ctx, own, objectContext, hh]
  · rw [zeroed.ctx, others x hx]

/-! ### Link patches -/

section Patches

variable {ea : Nat} {x : Nat × Nat}

theorem execLinkPatch_none (h : s.arg = .linkPatch ctx i tgt) (he : (s.ctx ctx).links.find? (fun e => e.1 == i) = none) :
    exec .linkPatch s = .next (s.toPewter .refusedRequest) := by
  change execLinkPatch s = _
  unfold execLinkPatch
  simp only [h, he]
  rfl

theorem execLinkPatch_missing (h : s.arg = .linkPatch ctx i tgt)
    (he : (s.ctx ctx).links.find? (fun e => e.1 == i) = some x)
    (ha : s.entryAddr ctx ((s.ctx ctx).lzb + 16384 * i) (s.ctx ctx).groot 3 = .missing) :
    exec .linkPatch s = .fault .notEnabled := by
  change execLinkPatch s = _
  unfold execLinkPatch
  simp only [h, he, ha]

theorem execLinkPatch_foreign (h : s.arg = .linkPatch ctx i tgt)
    (he : (s.ctx ctx).links.find? (fun e => e.1 == i) = some x)
    (ha : s.entryAddr ctx ((s.ctx ctx).lzb + 16384 * i) (s.ctx ctx).groot 3 = .foreign) :
    exec .linkPatch s = .next (s.toPewter .refusedRequest) := by
  change execLinkPatch s = _
  unfold execLinkPatch
  simp only [h, he, ha]
  rfl

/-- The words of a patched entry, low one first. -/
def targetWords (tgt : BitVec 64) : List Word := [tgt.setWidth 32, (tgt >>> 32).setWidth 32]

/-- The state of a patch before the sync word is written (R384). -/
def State.linkPatched (s : State) (ctx i : Nat) (tgt : BitVec 64) (ea va : Nat) : State :=
  s.patched ctx (((s.ctx ctx).lzb + 16384 * i) / 16384) ea ((s.ctx ctx).zframe + 0x23) (targetWords tgt) (s.textCopies ctx va)

theorem execLinkPatch_found (h : s.arg = .linkPatch ctx i tgt)
    (he : (s.ctx ctx).links.find? (fun e => e.1 == i) = some x)
    (ha : s.entryAddr ctx ((s.ctx ctx).lzb + 16384 * i) (s.ctx ctx).groot 3 = .found ea) :
    exec .linkPatch s = s.request (s.leafOk ctx ((s.ctx ctx).zframe + 0x23) 3 &&
        (s.textCopies ctx x.2).all fun pa => s.frameHeld ctx (pa / 16384 * 16384) 16384)
      ((s.linkPatched ctx i tgt ea x.2).unitPuts (unitAgent ctx) ((s.ctx ctx).syncb + 16 * i) [coded 2]).2 := by
  change execLinkPatch s = _
  unfold execLinkPatch
  simp only [h, he, ha, ofNat_toNat_low, ofNat_toNat_high]
  rfl

/-- A single unit that a unit's agent writes stands at the home slice of its address. -/
theorem State.unitPuts_single_home {u u1 : State} {g : Agent} {va pa : Nat} {b ms cz} {w : GUnit}
    (ht : u.translate g va .write = (.mem pa b ms cz, u1)) (hp : pa < hbmSize) (hu : Undisturbed u1 (u.unitPuts g va [w]).2) :
    (u.unitPuts g va [w]).2.home pa = w := by
  have put : (u.unitPuts g va [w]).2 = u1.homePut pa w (some cz) := by
    simp only [State.unitPuts, ht, hp, if_true]
  rw [put] at hu ⊢
  rw [(u1.homePut_step pa w (some cz)).undisturbed hu, unitWrite, if_pos rfl, Option.getD_some]

theorem linkPatch_found (h : s.arg = .linkPatch ctx i tgt) (he : (s.ctx ctx).links.find? (fun e => e.1 == i) = some x)
    (ha : s.entryAddr ctx ((s.ctx ctx).lzb + 16384 * i) (s.ctx ctx).groot 3 = .found ea) :
    let c := s.ctx ctx
    let leaf := c.zframe + 0x23
    let lo := fun (x : BitVec 64) => coded (x.setWidth 32)
    let hi := fun (x : BitVec 64) => coded ((x >>> 32).setWidth 32)
    let copies := s.textCopies ctx x.2
    let good := s.leafOk ctx leaf 3 = true ∧ ∀ pa ∈ copies, s.frameHeld ctx (pa / 16384 * 16384) 16384 = true
    (¬good → exec .linkPatch s = .next (s.toPewter .refusedRequest)) ∧
    (good → ∃ u t, exec .linkPatch s = .next t ∧ t = (u.unitPuts (unitAgent ctx) (c.syncb + 16 * i) [coded 2]).2 ∧
      (∀ c, (t.core c).waves = (s.core c).waves ∧ (t.core c).crews = (s.core c).crews) ∧
      (∀ d pa y, pa ∈ copies → y / 32 = pa / 128 → (t.core d).icache.find y = none) ∧
      (∀ d, ∀ y ∈ (u.core d).tlb, y.ctx = ctx → y.text = none → y.size = 16384 →
        y.va / 16384 ≠ (c.lzb + 16384 * i) / 16384) ∧
      ((∀ pa ∈ ea :: copies, pa % 8 = 0 ∧ pa < hbmSize) → ((ea :: copies).map fun pa => pa / 8).Nodup → Undisturbed s u →
        (∀ pa ∈ copies, u.home pa = lo tgt ∧ u.home (pa + 4) = hi tgt) ∧
        u.home ea = lo (BitVec.ofNat 64 leaf) ∧ u.home (ea + 4) = hi (BitVec.ofNat 64 leaf)) ∧
      ∀ pa b ms cz u1, u.translate (unitAgent ctx) (c.syncb + 16 * i) .write = (.mem pa b ms cz, u1) → pa < hbmSize →
        Undisturbed u1 t → t.home pa = coded 2) := by
  intro c leaf lo hi copies good
  obtain ⟨refused, granted⟩ := State.request_cases (good := good) (execLinkPatch_found h he ha) (by simp [good, copies, leaf, c]) rfl
  refine ⟨refused, fun good => ?_⟩
  obtain ⟨t, run, rfl⟩ := granted good
  have synced := ((s.linkPatched ctx i tgt ea x.2).unitPuts_frame (unitAgent ctx) [coded 2] (c.syncb + 16 * i)).programs
  have patched : ProgramsKept (s.writeCopies (targetWords tgt) copies) (s.linkPatched ctx i tgt ea x.2) := s.patched_programs
  have written := s.writeCopies_programs (targetWords tgt) copies
  refine ⟨s.linkPatched ctx i tgt ea x.2, _, run, rfl, ((written.trans patched).trans synced).running, ?_, ?_, ?_, ?_⟩
  · intro d pa y hp hy
    exact ((patched.trans synced) d).icache y (s.writeCopies_icache hp hy (by simp [targetWords]) d)
  · exact fun d y hy hc _ => State.tlbDropPage_none _ d y hy hc
  · intro placed apart undisturbed
    simp only [lo, hi, setWidth_ofNat, setWidth_shift_ofNat]
    exact s.patched_home (fun x hx => (placed x hx).1) apart undisturbed
  · exact fun pa b ms cz u1 ht hp hu => State.unitPuts_single_home ht hp hu

end Patches
end Installs

end Sys2Proof.Machine

open Sys2Proof.Machine in
/-- Settles O55: each request has the effect of its row, or changes nothing but the report to Pewter; what is written is followed
through the home slices by `HomeStep`, and what the cores run by `ProgramsKept`. -/
theorem installSteps : Obligations.InstallSteps := by
  unfold Obligations.InstallSteps
  intro s ctx r q d n i level pa core crew cl v e pte a l sc tgt o reg named
  refine ⟨descriptorInstall_step, firewallAssign_step, queueOwnerAssign_step, pageTableWrite_step, windowInstall_step,
    loadObject_step, fun h => ⟨execLinkPatch_none h, fun x he => ⟨execLinkPatch_missing h he, execLinkPatch_foreign h he,
      fun ea => linkPatch_found h he⟩⟩, fun h => ?_⟩
  obtain ⟨xlerr, grerr⟩ := registerWrite_errors h
  refine ⟨xlerr, grerr, ?_, ?_, ?_, ?_, ?_, ?_, ?_, ?_, ?_, registerWrite_core h, registerWrite_cluster h, ?_⟩
  · rintro rfl; exact registerWrite_czerr h
  · rintro rfl; exact registerWrite_nopre h
  · rintro rfl; exact registerWrite_diagva h
  · rintro rfl; exact registerWrite_audctl h
  · rintro rfl; exact registerWrite_sched h
  · rintro rfl; exact registerWrite_queue h
  · rintro rfl; exact registerWrite_czmbase h
  · rintro rfl; exact registerWrite_dbbase h
  · rintro rfl; exact registerWrite_seal h
  · rintro rfl; exact registerWrite_mailCancel h
end

section
/-! Settling the statement about the steps of the board (R23, R24, R375 to R379). -/

namespace Sys2Proof.Machine

/-! ### Steps that a condition allows -/

theorem allow_next {b : Bool} (h : b = true) (s : State) : allow b s = .next s := if_pos h

section Power

variable {s : State} {d mw c : Nat}

theorem execPowerOn_eq (h : s.arg = .powerOn) : exec .powerOn s = allow (!s.board.power) (s.coldReset true .waitWake) := by
  change execPowerOn s = _
  unfold execPowerOn
  rw [h]

theorem execPowerLoss_eq (h : s.arg = .powerLoss) : exec .powerLoss s = allow s.board.power (s.coldReset false .waitWake) := by
  change execPowerLoss s = _
  unfold execPowerLoss
  rw [h]

theorem execThermalTrip_eq (h : s.arg = .thermalTrip d c) : exec .thermalTrip s =
    allow (decide (d < 4) && decide (c ≥ 115) && s.board.power && decide (s.board.boot ≠ .off))
      ((s.frame (.trip d c s.time)).coldReset true .off) := by
  change execThermalTrip s = _
  unfold execThermalTrip
  rw [h]

theorem execClockStepDown_eq (h : s.arg = .clockStepDown d mw c) : exec .clockStepDown s =
    allow (decide (d < 4) && (decide (mw > 1800000) || decide (c > 105)) && decide ((s.die d).mhz > 1000))
      (s.setClock d ((s.die d).mhz - 100)) := by
  change execClockStepDown s = _
  unfold execClockStepDown
  rw [h]

theorem execClockStepUp_eq (h : s.arg = .clockStepUp d mw) : exec .clockStepUp s =
    allow (decide (d < 4) && decide (mw ≥ 10) && decide ((s.die d).mhz < 2500)) (s.setClock d ((s.die d).mhz + 100)) := by
  change execClockStepUp s = _
  unfold execClockStepUp
  rw [h]

/-- A change of a die's clock is no change of its lists, of another die or of memory (R23). -/
theorem State.setClock_step (mhz : Nat) : ((s.setClock d mhz).die d).mhz = mhz ∧
    (((s.setClock d mhz).die d).tlb, ((s.setClock d mhz).die d).poison, ((s.setClock d mhz).die d).win) =
      ((s.die d).tlb, (s.die d).poison, (s.die d).win) ∧
    (∀ x, x ≠ d → (s.setClock d mhz).die x = s.die x) ∧ SameMemory s (s.setClock d mhz) ∧
    (s.setClock d mhz).cores = s.cores := by
  unfold State.setClock
  rw [State.die_modDie_self]
  exact ⟨rfl, rfl, fun x hx => State.die_modDie_ne _ _ (Ne.symm hx), fun _ _ => rfl, rfl⟩

end Power

/-! ### The management port -/

section Port

variable {s t : State} {h : Hdr}

theorem State.alive_iff : s.alive = true ↔ s.board.power = true ∧ s.board.boot ≠ .off := by
  simp [State.alive]

/-- A frame for the device is answered where power is on and no wipe runs (R376, R379). -/
theorem State.onPort_ours (on : s.board.power = true ∧ s.board.boot ≠ .off) (idle : s.board.wiping = false)
    (ours : hdrOurs h = true) : s.onPort h t = .next t := by
  unfold State.onPort
  rw [if_pos ours, State.alive_iff.2 on, idle]
  rfl

/-- A frame for another address is dropped (R379). -/
theorem State.onPort_other (on : s.board.power = true ∧ s.board.boot ≠ .off) (other : hdrOurs h = false) :
    s.onPort h t = .next s := by
  unfold State.onPort
  rw [other, State.alive_iff.2 on]
  rfl

theorem State.osmiumOnPort_other (on : s.board.power = true ∧ s.board.boot ≠ .off) (other : hdrOurs h = false) :
    s.osmiumOnPort h t = .next s := State.onPort_other on other

theorem State.runsImage_zero_iff : s.runsImage 0 = true ↔
    s.board.boot = .run ∧ (s.board.images.find 0).bind (fun m => m.checked) = some true := by
  unfold State.runsImage State.image Map.getD
  cases s.board.images.find 0 <;> simp

/-- Osmium answers once its image runs (R377). -/
theorem State.osmiumOnPort_runs (on : s.board.power = true ∧ s.board.boot ≠ .off) (idle : s.board.wiping = false)
    (ours : hdrOurs h = true) (runs : s.runsImage 0 = true) : s.osmiumOnPort h t = .next t := by
  unfold State.osmiumOnPort
  rw [State.onPort_ours on idle ours, if_pos runs]

/-- Before that a frame to Osmium is answered with STATUS (log 112). -/
theorem State.osmiumOnPort_boots (on : s.board.power = true ∧ s.board.boot ≠ .off) (idle : s.board.wiping = false)
    (ours : hdrOurs h = true) (boots : ¬s.runsImage 0 = true) : s.osmiumOnPort h t = .next (s.statusFrame h.seq) := by
  unfold State.osmiumOnPort
  rw [State.onPort_ours on idle ours, if_neg boots]

/-- What a STATUS answer holds (R379): it changes nothing of the board. -/
theorem State.statusFrame_holds (seq : BitVec 32) : ∃ temps watts, (s.statusFrame seq).out.frames = s.out.frames ++
    [.status seq s.board.life s.board.boot temps watts ((span 0 8).map fun n => ((s.ctl n).corr, (s.ctl n).uncorr))
      (s.board.images.filterMap fun e => e.2.checked.map fun b => (e.1, b))] ∧ (s.statusFrame seq).board = s.board :=
  ⟨_, _, rfl, rfl⟩

end Port

/-! ### Images -/

section Images

variable {s : State} {i j : Nat}

/-- Between two states nothing differs but the progress of the boot and what the checks of the images gave (R377). -/
structure BootFrame (s t : State) : Prop where
  rest : { t with board := s.board } = s
  board : { t.board with images := s.board.images, boot := s.board.boot } = s.board
  image : ∀ i, { t.image i with checked := (s.image i).checked, measure := (s.image i).measure } = s.image i

namespace BootFrame

variable {t u : State}

theorem refl (s : State) : BootFrame s s := ⟨rfl, rfl, fun _ => rfl⟩

theorem trans (h : BootFrame s t) (g : BootFrame t u) : BootFrame s u where
  rest := (congrArg (fun x : State => { x with board := s.board }) g.rest).trans h.rest
  board := (congrArg (fun x : Board => { x with images := s.board.images, boot := s.board.boot }) g.board).trans h.board
  image i := (congrArg (fun x : Image => { x with checked := (s.image i).checked, measure := (s.image i).measure })
    (g.image i)).trans (h.image i)

theorem sameMemory (h : BootFrame s t) : SameMemory s t :=
  fun core pa => (congrArg (fun x : State => x.peek core pa) h.rest :)

theorem frames (h : BootFrame s t) : t.out.frames = s.out.frames := (congrArg (fun x : State => x.out.frames) h.rest :)

theorem domain (h : BootFrame s t) : t.board.domain = s.board.domain := (congrArg Board.domain h.board :)

/-- A check keeps the key under which an image verifies (R377). -/
theorem imageOk (h : BootFrame s t) (i : Nat) : t.imageOk i = s.imageOk i := by
  have life : t.board.life = s.board.life := (congrArg Board.life h.board :)
  have keys : t.board.keys = s.board.keys := (congrArg Board.keys h.board :)
  have signer : (t.image i).signer = (s.image i).signer := (congrArg Image.signer (h.image i) :)
  unfold State.imageOk
  rw [signer, life, keys]

end BootFrame

theorem State.image_set (b : Board) (m : Image) :
    State.image { s with board := { b with images := b.images.set i m } } j =
      if i = j then m else b.images.getD j ⟨[], 0, false, none, none, 0⟩ := by
  unfold State.image Map.getD
  by_cases h : i = j
  · subst h; simp
  · simp [h, Map.find_set_ne _ _ h]

/-- An image that is whole and not checked takes its verdict and its measurement; every other check does nothing (R377). -/
theorem State.checkImage_image (s : State) (i j : Nat) : (s.checkImage i).image j =
    if i = j ∧ (s.image i).whole = true ∧ (s.image i).checked = none then
      { s.image i with checked := some (s.imageOk i), measure := Config.sha384 (s.image i).bytes } else s.image j := by
  unfold State.checkImage
  simp only
  split
  · next h => simp only [State.image_set, h, and_true]; rfl
  · next h => simp [h]

theorem State.checkImage_frame (s : State) (i : Nat) : BootFrame s (s.checkImage i) := by
  refine ⟨?_, ?_, fun j => ?_⟩
  case refine_3 =>
    rw [State.checkImage_image]
    split
    · next h => rw [h.1]
    · rfl
  all_goals
    unfold State.checkImage
    simp only
    split <;> rfl

theorem State.checkImage_boot (s : State) (i : Nat) : (s.checkImage i).board.boot = s.board.boot := by
  unfold State.checkImage
  simp only
  split <;> rfl

theorem State.checkImages_frame (s : State) : BootFrame s ((s.checkImage 1).checkImage 2) :=
  (s.checkImage_frame 1).trans (State.checkImage_frame _ 2)

/-- The boot of a device checks images and goes on, and does nothing else (R377). -/
theorem State.boots_frame (s : State) : BootFrame s s.boots := by
  have first : BootFrame s (if s.board.boot = .waitWake then s else s.checkImage 0) := by
    split
    · exact .refl s
    · exact s.checkImage_frame 0
  unfold State.boots
  simp only
  refine first.trans ?_
  generalize (if s.board.boot = .waitWake then s else s.checkImage 0) = t
  have run : BootFrame t (if t.board.boot = .boot ∧ (t.image 0).checked = some true then
      { t with board := { t.board with boot := .run } } else t) := by
    split
    · exact ⟨rfl, rfl, fun _ => rfl⟩
    · exact .refl t
  have others (u : State) : BootFrame u (if u.board.boot = .run then (u.checkImage 1).checkImage 2 else u) := by
    split
    · exact u.checkImages_frame
    · exact .refl u
  exact run.trans (others _)

/-- Once Osmium runs, what boot does next is to check the images that wait for it (R377). -/
theorem State.boots_run (h : s.board.boot = .run) : s.boots = ((s.checkImage 0).checkImage 1).checkImage 2 := by
  have boot := s.checkImage_boot 0
  unfold State.boots
  simp [h, boot]

/-- From BOOT the device goes on booting or runs (R377). -/
theorem State.boots_boot (h : s.board.boot = .boot) : s.boots.board.boot = .boot ∨ s.boots.board.boot = .run := by
  have boot := s.checkImage_boot 0
  unfold State.boots
  simp only [h, reduceCtorEq, if_false]
  split
  · simp [State.checkImage_boot]
  · simp [h, boot]

theorem State.checkImage_ne (s : State) (h : i ≠ j) : (s.checkImage i).image j = s.image j := by
  rw [State.checkImage_image, if_neg (fun x => h x.1)]

/-- An image that is whole has its verdict and its measurement once boot has gone on under Osmium (R377). -/
theorem State.boots_checked (run : s.board.boot = .run) (hi : i = 0 ∨ i = 1 ∨ i = 2) (whole : (s.image i).whole = true)
    (unchecked : (s.image i).checked = none) : (s.boots.image i).checked = some (s.boots.imageOk i) ∧
      (s.boots.image i).measure = Config.sha384 (s.image i).bytes := by
  have due {t : State} (h : BootFrame s t) (same : t.image i = s.image i) :
      (t.checkImage i).image i = { s.image i with checked := some (s.imageOk i), measure := Config.sha384 (s.image i).bytes } := by
    rw [State.checkImage_image, same, if_pos ⟨rfl, whole, unchecked⟩, h.imageOk]
  have first := s.checkImage_frame 0
  rw [s.boots_frame.imageOk, State.boots_run run]
  rcases hi with rfl | rfl | rfl
  · rw [State.checkImage_ne _ (by decide), State.checkImage_ne _ (by decide), due (.refl s) rfl]
    exact ⟨rfl, rfl⟩
  · rw [State.checkImage_ne _ (by decide), due first (s.checkImage_ne (by decide))]
    exact ⟨rfl, rfl⟩
  · rw [due (first.trans (State.checkImage_frame _ 1))
      ((State.checkImage_ne _ (by decide)).trans (s.checkImage_ne (by decide)))]
    exact ⟨rfl, rfl⟩

end Images

/-! ### Frames -/

section Frames

variable {s : State} {h : Hdr} {body : List Byte}

theorem execStatus_eq (ha : s.arg = .status h) :
    exec .status s = allow s.alive (if hdrOurs h then s.statusFrame h.seq else s) := by
  change execStatus s = _
  unfold execStatus
  rw [ha]

/-- The state after the answer to a WAKE of a domain (R24, R377). -/
def State.woken (s : State) (n : Byte) : State :=
  if s.board.boot = .waitWake then ({ s with board := { s.board with boot := .boot, domain := n.toNat } }).boots else s

theorem execWake_eq {n : Byte} (ha : s.arg = .wake h [n]) (hn : n.toNat ≤ 63) :
    exec .wake s = s.onPort h ((s.woken n).frame (.reply 0x0001 h.seq)) := by
  change execWake s = _
  unfold execWake
  split
  · next heq =>
    cases ha.symm.trans heq
    exact if_neg (Nat.not_lt.2 hn)
  · next other => exact absurd ha (other _ _)

theorem execWake_onPort (ha : s.arg = .wake h body) : ∃ t, exec .wake s = s.onPort h t := by
  have run : exec .wake s = execWake s := rfl
  rw [run]
  unfold execWake
  simp only [ha]
  split
  · split <;> exact ⟨_, rfl⟩
  · exact ⟨_, rfl⟩

/-- Only a device that waits for WAKE takes its domain from it (R32). -/
theorem State.woken_board (s : State) (n : Byte) : (s.woken n).out.frames = s.out.frames ∧
    (s.board.boot ≠ .waitWake → (s.woken n).board = s.board) ∧
    (s.board.boot = .waitWake → (s.woken n).board.domain = n.toNat ∧
      ((s.woken n).board.boot = .boot ∨ (s.woken n).board.boot = .run)) := by
  unfold State.woken
  split
  · next waits =>
    have frame := State.boots_frame { s with board := { s.board with boot := .boot, domain := n.toNat } }
    exact ⟨frame.frames, fun h => absurd waits h, fun _ => ⟨frame.domain, State.boots_boot rfl⟩⟩
  · next waits => exact ⟨rfl, fun _ => rfl, fun h => absurd h waits⟩

section Image

variable {kind : ImageKind} {ch : Nat} {last : Bool} {signer : Option Signer}

/-- The image that a chunk continues (R379). -/
def State.imageFor (s : State) (kind : ImageKind) (ch : Nat) : Image :=
  if ch = 0 then ⟨[], 0, false, none, none, 0⟩ else s.image (imageNo kind)

/-- An image after one more chunk (R379). -/
def Image.chunk (old : Image) (ch : Nat) (body : List Byte) (last : Bool) (signer : Option Signer) : Image :=
  ⟨old.bytes ++ body, ch + 1, last, if last then signer else none, none, 0⟩

/-- An image is kept (R377). -/
def State.setImage (s : State) (i : Nat) (m : Image) : State :=
  { s with board := { s.board with images := s.board.images.set i m } }

/-- The state after a chunk of an image (R379, log 90). -/
def State.chunked (s : State) (kind : ImageKind) (ch : Nat) (body : List Byte) (last : Bool) (signer : Option Signer) : State :=
  let old := s.imageFor kind ch
  if ch ≠ old.next ∨ old.whole ∨ s.runsImage (imageNo kind) then s
  else (s.setImage (imageNo kind) (old.chunk ch body last signer)).boots

theorem execImage_eq (ha : s.arg = .image h kind ch body last signer) :
    exec .image s = s.onPort h ((s.chunked kind ch body last signer).frame (.reply 0x0003 h.seq)) := by
  change execImage s = _
  unfold execImage
  split
  · next heq =>
    cases ha.symm.trans heq
    rfl
  · next other => exact absurd ha (other _ _ _ _ _ _)

/-- A chunk changes no byte of memory and sends no frame. -/
theorem State.chunked_frame (s : State) : SameMemory s (s.chunked kind ch body last signer) ∧
    (s.chunked kind ch body last signer).out.frames = s.out.frames := by
  unfold State.chunked
  simp only
  split
  · exact ⟨fun _ _ => rfl, rfl⟩
  · exact ⟨fun core pa => (State.boots_frame _).sameMemory core pa, (State.boots_frame _).frames⟩

/-- A chunk out of order is not stored (log 90). -/
theorem State.chunked_disordered (hc : ch ≠ 0) (hn : ch ≠ (s.image (imageNo kind)).next) :
    s.chunked kind ch body last signer = s := by
  unfold State.chunked State.imageFor
  rw [if_neg hc]
  exact if_pos (.inl hn)

theorem imageNo_cases (kind : ImageKind) : imageNo kind = 0 ∨ imageNo kind = 1 ∨ imageNo kind = 2 := by
  cases kind <;> simp [imageNo]

theorem State.find_of_whole {i : Nat} (hm : (s.image i).next ≠ 0) : s.board.images.find i = some (s.image i) := by
  unfold State.image Map.getD at hm ⊢
  cases hf : s.board.images.find i with
  | none => simp [hf] at hm
  | some m => rfl

/-- Chunk 0 starts an image afresh, which is checked when it is whole and Osmium runs (R377, R379). -/
theorem State.chunked_first (idle : s.runsImage (imageNo kind) = false) :
    ∃ m, (s.chunked kind 0 body last signer).board.images.find (imageNo kind) = some m ∧
      (m.bytes, m.next, m.whole) = (body, 1, last) ∧ (last = true → s.board.boot = .run →
        m.checked = some ((s.chunked kind 0 body last signer).imageOk (imageNo kind)) ∧ m.measure = Config.sha384 body) := by
  have stored : s.chunked kind 0 body last signer =
      (s.setImage (imageNo kind) ⟨body, 1, last, if last then signer else none, none, 0⟩).boots := by
    unfold State.chunked State.imageFor
    exact if_neg (by simp [idle])
  rw [stored]
  generalize hu : s.setImage _ _ = u
  have image : u.image (imageNo kind) = ⟨body, 1, last, if last then signer else none, none, 0⟩ := by
    rw [← hu]
    exact (State.image_set _ _).trans (if_pos rfl)
  have boot : u.board.boot = s.board.boot := by
    rw [← hu]
    rfl
  have kept := u.boots_frame.image (imageNo kind)
  rw [image] at kept
  have next : (u.boots.image (imageNo kind)).next = 1 := (congrArg Image.next kept :)
  refine ⟨_, State.find_of_whole (by rw [next]; decide), ?_, fun whole run => ?_⟩
  · exact (congrArg (fun m : Image => (m.bytes, m.next, m.whole)) kept :)
  · have checked := State.boots_checked (boot.trans run) (imageNo_cases kind) (by rw [image]; exact whole) (by rw [image])
    rw [image] at checked
    exact checked

end Image

section Osmium

variable {target : LifeCycle} {signer : Signer} {ok : Bool} {nonce : BitVec 256} {ty : BitVec 16}

/-- A state whose contexts are stopped and whose memory is wiped for another life-cycle state (R375, R376, R385). -/
def State.moved (s : State) (target : LifeCycle) : State :=
  { s.stopAll.wipe with board := { s.stopAll.wipe.board with life := target, fuses := s.board.fuses + 1, keys := keysOf target } }

theorem execLccmd_eq (ha : s.arg = .lccmd h target signer ok) : exec .lccmd s =
    if legalMove s.board.life target signer = true ∧ ok = true ∧ s.board.fuses < 64 then
      s.osmiumOnPort h ((s.moved target).frame (.reply 0x0004 h.seq))
    else s.osmiumOnPort h (s.frame (.reply 0x0004 h.seq)) := by
  change execLccmd s = _
  unfold execLccmd
  rw [ha]
  rfl

theorem execAttest_eq (ha : s.arg = .attest h nonce) : exec .attest s = s.osmiumOnPort h (s.frame (.attest h.seq
    (if s.board.keys.contains .attest = true then
      s.attestBytes 0 nonce ++ leBytes (Config.signature (s.attestBytes 0 nonce)).toNat 96 else []))) := by
  change execAttest s = _
  unfold execAttest
  rw [ha]

theorem execOff_eq (ha : s.arg = .off h) : exec .off s = s.osmiumOnPort h (s.stopAll.frame (.reply 0x0006 h.seq)) := by
  change execOff s = _
  unfold execOff
  rw [ha]

theorem execUnknownFrameType_eq (ha : s.arg = .unknownFrameType h ty) (ht : ty.toNat = 0 ∨ 6 < ty.toNat) :
    exec .unknownFrameType s = s.onPort h (s.frame (.reply 0x00FF h.seq)) := by
  change execUnknownFrameType s = _
  unfold execUnknownFrameType
  rw [ha]
  exact if_neg (by omega)

theorem execWipeComplete_eq (ha : s.arg = .wipeComplete) : exec .wipeComplete s =
    allow (s.board.power && s.board.wiping) { s with board := { s.board with wiping := false } } := by
  change execWipeComplete s = _
  unfold execWipeComplete
  rw [ha]

/-- LCCMD is a request to Osmium, granted or not (R377). -/
theorem execLccmd_onPort (ha : s.arg = .lccmd h target signer ok) : ∃ t, exec .lccmd s = s.osmiumOnPort h t := by
  rw [execLccmd_eq ha]
  split <;> exact ⟨_, rfl⟩

end Osmium
end Frames
end Sys2Proof.Machine

open Sys2Proof.Machine in
/-- Settles O47: a step of the board or a frame of the management port is allowed as its row says; what the images and the boot
become follows from `BootFrame`. -/
theorem boardSteps : Obligations.BoardSteps := by
  unfold Obligations.BoardSteps
  intro s d mw c h body kind ch last ok target signer key nonce ty on port fresh runs status stepped
  refine ⟨fun ha off => ?_, fun ha on => ?_, fun ha hd hc on => ?_, fun ha hd hot fast => ?_, fun ha hd cool slow => ?_,
    fun ha on ours => ?_, fun n ha ⟨on, idle, ours⟩ hn => ?_, fun ha ⟨on, idle, ours⟩ => ?_, fun ⟨on, idle, ours⟩ boots => ?_,
    fun ha ⟨on, idle, ours⟩ run => ?_, fun ha power wiping => ?_, fun ha ⟨on, idle, ours⟩ run => ?_,
    fun ha ⟨on, idle, ours⟩ run => ?_, fun ha ⟨on, idle, ours⟩ ht => ?_, fun on other => ?_⟩
  case refine_1 => exact ⟨_, (execPowerOn_eq ha).trans (allow_next (by rw [off]; rfl) _), rfl, rfl, rfl, rfl, rfl, rfl, rfl⟩
  case refine_2 => exact ⟨_, (execPowerLoss_eq ha).trans (allow_next on _), rfl, rfl, rfl, rfl, rfl, rfl, rfl⟩
  case refine_3 =>
    obtain ⟨power, live⟩ := on
    exact ⟨_, (execThermalTrip_eq ha).trans (allow_next (by simp [hd, hc, power, live]) _),
      ⟨rfl, rfl, rfl, rfl, rfl, rfl, rfl⟩, rfl⟩
  case refine_4 => exact ⟨_, (execClockStepDown_eq ha).trans (allow_next (by simp [hd, hot, fast]) _), State.setClock_step _⟩
  case refine_5 => exact ⟨_, (execClockStepUp_eq ha).trans (allow_next (by simp [hd, cool, slow]) _), State.setClock_step _⟩
  case refine_6 =>
    refine ⟨s.statusFrame h.seq, ?_, s.statusFrame_holds h.seq⟩
    rw [execStatus_eq ha, if_pos ours]
    exact allow_next (State.alive_iff.2 on) _
  case refine_7 =>
    obtain ⟨frames, board⟩ := s.woken_board n
    exact ⟨_, (execWake_eq ha hn).trans (State.onPort_ours on idle ours), congrArg (· ++ _) frames, board⟩
  case refine_8 =>
    obtain ⟨memory, frames⟩ := s.chunked_frame (kind := kind) (ch := ch) (body := body) (last := last) (signer := key)
    refine ⟨_, (execImage_eq ha).trans (State.onPort_ours on idle ours), congrArg (· ++ _) frames, memory, ?_, fun hc hn => ?_⟩
    · rintro rfl stopped
      exact State.chunked_first stopped
    · rw [State.chunked_disordered hc hn]
      rfl
  case refine_9 =>
    have off : ¬s.runsImage 0 = true := fun x => boots (State.runsImage_zero_iff.1 x)
    have answered (t : State) : s.osmiumOnPort h t = .next (s.statusFrame h.seq) := State.osmiumOnPort_boots on idle ours off
    refine ⟨fun ha => ?_, fun ha => ?_, fun ha => ?_⟩
    · obtain ⟨t, run⟩ := execLccmd_onPort ha
      exact ⟨_, run.trans (answered t), s.statusFrame_holds _⟩
    · exact ⟨_, (execAttest_eq ha).trans (answered _), s.statusFrame_holds _⟩
    · exact ⟨_, (execOff_eq ha).trans (answered _), s.statusFrame_holds _⟩
  case refine_10 =>
    have answered (t : State) : s.osmiumOnPort h t = .next t :=
      State.osmiumOnPort_runs on idle ours (State.runsImage_zero_iff.2 run)
    intro good
    refine ⟨fun bad => ?_, fun legal => ?_⟩
    · rw [execLccmd_eq ha, if_neg bad, answered]
    · exact ⟨_, _, ((execLccmd_eq ha).trans (if_pos legal)).trans (answered _), rfl, rfl, rfl, rfl, rfl, rfl, rfl⟩
  case refine_11 => exact (execWipeComplete_eq ha).trans (allow_next (by rw [power, wiping]; rfl) _)
  case refine_12 => exact (execAttest_eq ha).trans (State.osmiumOnPort_runs on idle ours (State.runsImage_zero_iff.2 run))
  case refine_13 =>
    exact ⟨_, _, (execOff_eq ha).trans (State.osmiumOnPort_runs on idle ours (State.runsImage_zero_iff.2 run)), rfl⟩
  case refine_14 => exact (execUnknownFrameType_eq ha ht).trans (State.onPort_ours on idle ours)
  case refine_15 =>
    refine ⟨fun ha => ?_, fun ha => ?_, fun ha => ?_, fun ha => ?_, fun ha => ?_, fun ha => ?_, fun ha ht => ?_⟩
    · rw [execStatus_eq ha, other]
      exact allow_next (State.alive_iff.2 on) _
    · obtain ⟨t, run⟩ := execWake_onPort ha
      exact run.trans (State.onPort_other on other)
    · exact (execImage_eq ha).trans (State.onPort_other on other)
    · obtain ⟨t, run⟩ := execLccmd_onPort ha
      exact run.trans (State.osmiumOnPort_other on other)
    · exact (execAttest_eq ha).trans (State.osmiumOnPort_other on other)
    · exact (execOff_eq ha).trans (State.osmiumOnPort_other on other)
    · exact (execUnknownFrameType_eq ha ht).trans (State.onPort_other on other)
end

section
/-! Two entries under one key of a crew table. The statements on CORE_CONDEMN (R25) and TEST (R178, R357) speak of every state,
so also of one whose crew table lists a key twice; there the step that saves a core's crews leaves out a member of a set. -/
namespace Sys2Proof.Machine

/-- A running member of a cluster set of two. -/
def setCrew : Crew := { placeCrew 0 with setn := 2 }

/-- A crew table with two entries under key 0: a running crew of no set, and behind it a member of a set that has ended. A running
member of the same set stands under key 5. -/
def twiceKeyedCrews : Map Crew := [(0, placeCrew 0), (0, { setCrew with phase := .ended }), (5, setCrew)]

/-- The device after reset, with that crew table on core 0. -/
def twiceKeyed : State := State.reset.modCore 0 fun c => { c with crews := twiceKeyedCrews }

/-- CORE_CONDEMN of core 0 comes to it. -/
def twiceKeyedCondemn : State := { twiceKeyed with arg := .coreCondemn 0 }

/-- TEST of core 0 comes to it. -/
def twiceKeyedTest : State := { twiceKeyed.sendDown 0 (.test 0) with arg := .test 0 }

/-- A node that has placed nothing. -/
def idleNode : Node :=
  ⟨0, 1, 0, 0, ⟨0, 0, 0, 0, 0, 0⟩, nodeRecOf [], [], none, 0, [], 0, 0, 0, 0, false, 0, false, false, none⟩

/-- The crew that a step leaves under key 5 of core 0. -/
def crewFiveAfter : Res → Option Crew
  | .next t => t.crew? 0 5
  | _ => none

/-- In both, the member under key 5 is the whole of its set: the other entry has ended. -/
theorem twiceKeyed_unit :
    (twiceKeyedCondemn.crew? 0 5 = some setCrew ∧ twiceKeyedCondemn.unit 0 5 setCrew = [(0, 5, setCrew)]) ∧
    (twiceKeyedTest.crew? 0 5 = some setCrew ∧ twiceKeyedTest.unit 0 5 setCrew = [(0, 5, setCrew)]) := by
  decide +kernel

/-- Saving the crew of no set brings the ended entry behind it to its capture, under the key that the two share. From then on
that entry stands for the set on this core, and the running member is asked for by neither step. -/
theorem twiceKeyed_left_out : crewFiveAfter (exec .coreCondemn twiceKeyedCondemn) = some setCrew ∧
    crewFiveAfter (exec .test twiceKeyedTest) = some setCrew := by
  decide +kernel

theorem twiceKeyedTest_head : twiceKeyedTest.headDown 0 = some (.test 0) := by decide +kernel

end Sys2Proof.Machine
end

section
open Sys2Proof.Machine in
/-- Refutes O56: after CORE_CONDEMN a member of a cluster set is not asked to be saved, where the core's crew table lists two crews
under one key. The clause has no hypothesis that the keys of a table rise. -/
theorem not_outsideSteps : ¬ Obligations.OutsideSteps := by
  unfold Obligations.OutsideSteps
  intro h
  obtain ⟨⟨found, unit⟩, -⟩ := twiceKeyed_unit
  obtain ⟨-, -, -, -, condemn, -⟩ := h twiceKeyedCondemn 0 0 0 0 0 0 0 [] [] (.load 0) .addN32 false [] .toAcorn [] .xlerr
  obtain ⟨t, run, -, -, -, -, -, saved⟩ := condemn rfl (by decide) (by decide +kernel)
  obtain ⟨k, kept, asked, -⟩ := saved 5 setCrew found (0, 5, setCrew) (by rw [unit]; exact List.mem_singleton_self _) setCrew found
  have left : t.crew? 0 5 = some setCrew := (congrArg crewFiveAfter run).symm.trans twiceKeyed_left_out.1
  obtain rfl := Option.some.inj (left.symm.trans kept)
  exact Bool.false_ne_true asked

open Sys2Proof.Machine in
/-- Refutes O58: after TEST a member of a cluster set is not asked to be saved, where the core's crew table lists two crews under
one key. The clause has no hypothesis that the keys of a table rise. -/
theorem not_schedulingSteps : ¬ Obligations.SchedulingSteps := by
  unfold Obligations.SchedulingSteps
  intro h
  obtain ⟨-, found, unit⟩ := twiceKeyed_unit
  obtain ⟨-, -, -, -, -, -, -, -, -, -, -, -, test, -⟩ := h twiceKeyedTest twiceKeyedTest twiceKeyedTest
    0 0 0 0 0 0 0 0 [] idleNode [] [] [] [] ⟨0, 0, false, 0, 0⟩ [] setCrew.decl setCrew none 0 false
  obtain ⟨t, run, -, -, -, -, -, saved⟩ := test rfl twiceKeyedTest_head
  obtain ⟨k, kept, asked⟩ := saved 5 setCrew found (0, 5, setCrew) (by rw [unit]; exact List.mem_singleton_self _)
    (by rw [found]; rfl)
  have left : t.crew? 0 5 = some setCrew := (congrArg crewFiveAfter run).symm.trans twiceKeyed_left_out.2
  obtain rfl := Option.some.inj (left.symm.trans kept)
  exact Bool.false_ne_true asked
end

section
/-! Two units under one granule of an L1 line. The statements on stores and on matrix loads speak of every state, so also of one
where a line lists a granule twice; when such a line goes home because another context filled it (log 111), the entry behind the
first goes home last. -/
namespace Sys2Proof.Machine

/-- The pod of the one placed thread. -/
def placePod : Pod := ⟨0, 0, [0], placePc, 0, 4, none⟩

/-- The global page at address 0, readable and writable, which lies on the second region of HBM. -/
def globalPage : TlbEntry := ⟨1, none, 0, 2 ^ 25, 2 ^ 25, 0, true, true, false, false, false, true⟩

/-- A granule of that page. -/
def globalPa : Nat := 2 ^ 25

/-- A line that another context filled and that lists its first granule twice, dirty both times. -/
def twiceHeld : L1Line := ⟨2, 0, 0, false, [(0, coded 1, true), (0, coded 2, true)]⟩

/-- The placed thread issues on core 0, with sound zeros in every register it reads, and the L1 holds that line at the granule. -/
def twiceHeldState : State :=
  { State.reset.modCore 0 fun c => { c with
      crews := [(0, placeCrew 0)], waves := [(0, placeWave)], tlb := [globalPage], l1 := [(globalPa / 128, twiceHeld)] }
    with pod := some placePod }

theorem twiceHeld_issuing : Issuing twiceHeldState placePod placeWave (placeCrew 0) where
  pod := rfl
  wave := by decide +kernel
  crew := by decide +kernel
  lanes := by decide
  nodup := by decide
  bound := by decide
  ready := by decide +kernel
  restored := by decide

/-- In this state the address 0 translates to the granule, by the buffered page. -/
theorem twiceHeld_gather (acc : Access) (h : acc = .read ∨ acc = .write) :
    twiceHeldState.gather placePod placeWave (placeCrew 0) acc 4 1 [(0, some 0)] =
      (.ok [⟨0, 0, .mem globalPa 0 false false⟩], twiceHeldState) := by
  rcases h with rfl | rfl <;> exact Prod.ext rfl (by decide +kernel)

/-- The controllers hold no metadata line, so a step that draws no free value disturbs nothing. -/
theorem twiceHeld_undisturbed {t : State} (h : t.free = twiceHeldState.free) : Undisturbed twiceHeldState t :=
  ⟨h, fun _ _ he => nomatch he⟩

/-- What a step leaves in the granule for core 0, and the free values drawn by then. -/
def granuleAfter : Res → Option (Nat × GUnit)
  | .next t => some (t.free, t.peek 0 globalPa)
  | _ => none

/-- What a step leaves in the first accumulator of the crew, and the free values drawn by then. -/
def accumulatorAfter : Res → Option (Nat × Option (Map GUnit))
  | .next t => some (t.free, (t.crew? 0 0).map fun k => (k.body.acc 0).el)
  | _ => none

/-- A relaxed store of zero ends with the line's second entry in memory: the first is clean by then, the second goes home. -/
theorem twiceHeld_store : granuleAfter (exec (.stB32Ord 0 1 0 0 1) twiceHeldState) = some (twiceHeldState.free, coded 2) := by
  decide +kernel

/-- A load of one accumulator element takes the line's second entry, which went home after the first. -/
theorem twiceHeld_load :
    accumulatorAfter (exec (.ald 0 0 0 0) twiceHeldState) = some (twiceHeldState.free, some [(0, coded 2)]) := by
  decide +kernel

/-- What a load by the crew's context is said to find is the line's first entry. -/
theorem twiceHeld_sees : twiceHeldState.sees 0 (placeCrew 0).ctx globalPa = coded 1 := by decide +kernel

end Sys2Proof.Machine
end

section
open Sys2Proof.Machine in
/-- Refutes O18: a relaxed store is lost where the L1 line of its granule, filled by another context, lists the granule twice. No
hypothesis says that the keys of a line rise. -/
theorem not_stores : ¬ Obligations.Stores := by
  unfold Obligations.Stores
  intro h
  have sound : Sound placeWave placePod [.of7 0] := by unfold Sound; decide +kernel
  have clean : CleanCr twiceHeldState placePod placeWave (placeCrew 0) [8] := by unfold CleanCr; decide +kernel
  obtain ⟨-, -, -, store, -⟩ :=
    h twiceHeldState placePod placeWave (placeCrew 0) 0 0 0 1 0 0 1 twiceHeld_issuing sound clean
  obtain ⟨t, w', k', run, -, -, -, -, -, -, -, written⟩ :=
    store (by unfold Granted; decide +kernel) (by decide +kernel) _ _ (twiceHeld_gather .write (.inr rfl))
  have after : granuleAfter (.next t) = some (twiceHeldState.free, coded 2) := run ▸ twiceHeld_store
  obtain ⟨free, found⟩ := Prod.mk.inj (Option.some.inj after)
  obtain ⟨x, va, place, -, -, -, last⟩ := written 0 0 rfl 0 (by decide)
  obtain rfl := Option.some.inj place
  have stored := (last fun i y hi => absurd hi (Nat.not_lt_zero i)).2 globalPa 0 false false rfl (by decide)
    (twiceHeld_undisturbed free) fun ⟨y, hy, _⟩ => nomatch hy
  exact absurd (found.symm.trans stored) (by decide +kernel)

open Sys2Proof.Machine in
/-- Refutes O33: a load of an accumulator takes another unit than the context sees where the L1 line of its granule, filled by
another context, lists the granule twice. No hypothesis says that the keys of a line rise. -/
theorem not_matrixLoadsAndStores : ¬ Obligations.MatrixLoadsAndStores := by
  unfold Obligations.MatrixLoadsAndStores
  intro h
  have granted : Granted (placeCrew 0) [.ofS 0#4, .ofS 0#6] := by unfold Granted; decide +kernel
  have sound : Sound placeWave placePod [.ofS 0#4, .ofS 0#6] := by unfold Sound; decide +kernel
  have array : AtArray twiceHeldState placePod placeWave (placeCrew 0) [8] [] :=
    ⟨by decide +kernel, by decide +kernel, by unfold Clean; decide +kernel, by unfold CleanCr; decide +kernel⟩
  obtain ⟨-, -, acc⟩ := h twiceHeldState placePod placeWave (placeCrew 0) 0 0 0 0 0 0 0 twiceHeld_issuing granted sound
    (by decide +kernel) rfl (by decide +kernel)
  obtain ⟨load, -⟩ := acc array (by decide) 1 1 0 (by decide +kernel) rfl
  obtain ⟨t, w', k', us, run, -, -, crew, body, -, length, -, -, loaded⟩ :=
    load _ _ (twiceHeld_gather .read (.inl rfl))
  have after : accumulatorAfter (.next t) = some (twiceHeldState.free, some [(0, coded 2)]) := run ▸ twiceHeld_load
  obtain ⟨free, found⟩ := Prod.mk.inj (Option.some.inj after)
  obtain ⟨u, rfl⟩ := List.length_eq_one_iff.mp length
  have first := (Option.some.inj (loaded 0 _ globalPa 0 false false rfl rfl (by decide) (twiceHeld_undisturbed free))).trans
    twiceHeld_sees
  have held : some (k'.body.acc 0).el = some [(0, coded 2)] := (congrArg (Option.map _) crew).symm.trans found
  rw [body, first] at held
  exact absurd held (by decide +kernel)
end

section
/-! Settling the statement about addresses that fault before anything performs (R43, R199, R214, R246). -/

namespace Sys2Proof.Machine

/-! ### The address of the lowest lane -/

/-- A sum outside the address space is no address (R199). -/
theorem addrSum_outside {base reg : Nat} {off : Int} (h : (base : Int) + reg + off < 0 ∨ 2 ^ 58 ≤ (base : Int) + reg + off) :
    addrSum base reg off = none := if_pos h

/-- A sum inside the address space is exact (R199). -/
theorem addrSum_inside {base reg : Nat} {off : Int} (h0 : 0 ≤ (base : Int) + reg + off) (h1 : (base : Int) + reg + off < 2 ^ 58) :
    addrSum base reg off = some ((base : Int) + reg + off).toNat := if_neg (by omega)

/-- The trap that a lane's address takes before it is translated: PAGE for a sum that is no address, ALIGN for a misaligned one. -/
def addressTrap (align : Nat) : Nat × Option Nat → Option Trap
  | (lane, none) => some ⟨.page, lane, 0, none⟩
  | (lane, some va) => if va % align ≠ 0 then some ⟨.align, lane, va, none⟩ else none

section Gathering

variable {s : State} {p : Pod} {w : Wave} {k : Crew} {acc : Access} {align n : Nat} {x : Nat × Option Nat} {t : Trap}

/-- The first lane's address decides before any translation (R214 step 7). -/
theorem State.findPlaces_addressTrap (deny : Xlat → Bool) (l : List (Nat × Option Nat)) (h : addressTrap align x = some t) :
    s.findPlaces p w k acc deny align n (x :: l) = (⟨[], [], some t⟩, s) := by
  match x, h with
  | (lane, none), h =>
    obtain rfl := Option.some.inj h
    rfl
  | (lane, some va), h =>
    by_cases misaligned : va % align ≠ 0
    · obtain rfl := Option.some.inj ((if_pos misaligned).symm.trans h)
      exact if_pos misaligned
    · cases (if_neg misaligned).symm.trans h

/-- With room in the queues of misses the pod traps and has performed nothing (R43). -/
theorem State.gather_addressTrap (l : List (Nat × Option Nat)) (room : s.queueFull p.core = false)
    (h : addressTrap align x = some t) : s.gather p w k acc align n (x :: l) = (.trap t, s) := by
  have issues : s.crowded p w k acc n (x :: l) = false := by simp [State.crowded, room]
  unfold State.gather State.gatherDeny
  rw [issues, State.findPlaces_addressTrap _ _ h]
  rfl

end Gathering

/-! ### A wave that is held no longer -/

theorem State.unheld_crew (s : State) (p : Pod) (w : Wave) (c i : Nat) : (s.unheld p w).crew? c i = s.crew? c i := by
  unfold State.unheld
  split
  · by_cases hc : p.core = c
    · subst hc
      simp [State.modWave, State.crew?]
    · simp [State.modWave, State.crew?, State.core_modCore_ne _ _ hc]
  · rfl

theorem State.unheld_queueFull (s : State) (p : Pod) (w : Wave) (c : Nat) : (s.unheld p w).queueFull c = s.queueFull c := by
  unfold State.unheld
  split <;> rfl

/-! ### Loads and stores -/

section Accesses

variable {s : State} {p : Pod} {w : Wave} {k : Crew} {bs align n : Nat} {off : Int} {a d : Reg} {t : Trap}

/-- The base and the address register of an access pass their checks in every state that the throttle leaves (R60, R61). -/
theorem addressSources_ok (sound : Sound w p [a]) (base : bs < 4) (clean : CleanCr s p w k [8 + bs]) (u : State) :
    u.chkSrcs p w k [.cr (8 + bs), .reg a 3] = none := by
  have parity : u.crBad p w k (8 + bs) = false := by
    have held : crewCr (8 + bs) = true := by interval_cases bs <;> rfl
    have own := clean _ List.mem_cons_self
    unfold State.crBad at own ⊢
    rw [if_pos held] at own ⊢
    exact own
  refine chkSrcs_ok fun lane hl x hx => ?_
  rcases List.mem_pair.1 hx with rfl | rfl
  · simp only [State.chkSrc, parity, parityFail, Bool.false_eq_true, if_false]
  · exact chkReg_ok sound List.mem_cons_self 3 hl

/-- An access whose lowest lane's address traps: the trap is raised, and nothing is performed (R214). -/
theorem access_addressTrap (h : Issuing s p w k) (sound : Sound w p [a]) (base : bs < 4) (clean : CleanCr s p w k [8 + bs])
    (room : s.queueFull p.core = false) (acc : Access) (l : List (Nat × Option Nat)) {vas : List (Nat × Option Nat)}
    (first : vas = laneVa w k bs a off p.low :: l) (issues : s.throttled p w vas = false)
    (trap : addressTrap align (laneVa w k bs a off p.low) = some t) (f : State → List Slotted → Eff) :
    (throttle s p w vas fun s => checked s (s.chkSrcs p w k [.cr (8 + bs), .reg a 3])
      (withPlaces (s.gather p w k acc align n vas) f)).state p w k = (s.unheld p w).raise p w k t := by
  have gathered := State.gather_addressTrap (s := s.unheld p w) (p := p) (w := w) (k := k) (acc := acc) (n := n) l
    ((s.unheld_queueFull p w p.core).trans room) trap
  rw [← first] at gathered
  unfold throttle
  simp only [issues, Bool.false_eq_true, if_false, addressSources_ok sound base clean, gathered, checked, withPlaces, Eff.state,
    State.unheld_crew, h.crew, Option.getD_some]

/-- The lowest lane comes first. -/
theorem Issuing.lanes_eq (h : Issuing s p w k) : ∃ l, p.lanes = p.low :: l := by
  obtain ⟨x, l, hl⟩ := List.exists_cons_of_ne_nil h.lanes
  exact ⟨l, by simp [Pod.low, hl]⟩

theorem memLoad_addressTrap (h : Issuing s p w k) (sound : Sound w p [a]) (base : bs < 4) (clean : CleanCr s p w k [8 + bs])
    (room : s.queueFull p.core = false) (granted : Granted k (a :: d.group n))
    (all : s.throttled p w (p.lanes.map (laneVa w k bs a off)) = false)
    (one : s.throttled p w ([p.low].map (laneVa w k bs a off)) = false) (ord scope : Nat)
    (trap : addressTrap align (laneVa w k bs a off p.low) = some t) :
    memLoad s ord scope align n bs off a d = .next ((s.unheld p w).raise p w k t) := by
  obtain ⟨l, lanes⟩ := h.lanes_eq
  unfold memLoad
  rw [withPod_ok h granted]
  cases d.uniform
  · exact congrArg _ (access_addressTrap h sound base clean room .read (l.map (laneVa w k bs a off)) (by rw [lanes]; rfl) all trap _)
  · exact congrArg _ (access_addressTrap h sound base clean room .read [] rfl one trap _)

theorem memStore_addressTrap (h : Issuing s p w k) (sound : Sound w p [a]) (base : bs < 4) (clean : CleanCr s p w k [8 + bs])
    (room : s.queueFull p.core = false) (granted : Granted k (a :: d.group n))
    (all : s.throttled p w (p.lanes.map (laneVa w k bs a off)) = false) (ord scope : Nat) (ip : Bool)
    (trap : addressTrap align (laneVa w k bs a off p.low) = some t) :
    memStore s ord scope align n bs off ip a d = .next ((s.unheld p w).raise p w k t) := by
  obtain ⟨l, lanes⟩ := h.lanes_eq
  unfold memStore
  rw [withPod_ok h granted]
  exact congrArg _ (access_addressTrap h sound base clean room .write (l.map (laneVa w k bs a off)) (by rw [lanes]; rfl) all trap _)

/-- What the lowest lane's address makes of an instruction that raises the trap of that address. -/
theorem addressFaults_of {i : Instr} (va : Int) (hva : va = (k.ab bs : Int) + (w.word a p.low).toNat + 4 * off)
    (run : ∀ t, addressTrap align (laneVa w k bs a off p.low) = some t → exec i s = .next ((s.unheld p w).raise p w k t)) :
    ((va < 0 ∨ 2 ^ 58 ≤ va) → ∃ a, exec i s = .next ((s.unheld p w).raise p w k ⟨.page, p.low, a, none⟩)) ∧
      (0 ≤ va → va < 2 ^ 58 → va % align ≠ 0 →
        exec i s = .next ((s.unheld p w).raise p w k ⟨.align, p.low, va.toNat, none⟩)) := by
  subst hva
  refine ⟨fun outside => ⟨0, run _ ?_⟩, fun h0 h1 misaligned => run _ ?_⟩
  · rw [laneVa, addrSum_outside outside]
    rfl
  · rw [laneVa, addrSum_inside h0 h1]
    refine if_pos fun aligned => misaligned ?_
    rw [← Int.toNat_of_nonneg h0]
    exact_mod_cast aligned

/-- A group of fewer registers is allocated where a larger one is (R191, R210). -/
theorem Granted.smaller {m : Nat} (h : Granted k (a :: d.group m)) (hn : n ≤ m) : Granted k (a :: d.group n) := by
  intro r hr
  rcases List.mem_cons.1 hr with rfl | hr
  · exact h _ List.mem_cons_self
  · obtain ⟨i, hi, rfl⟩ := List.mem_map.1 hr
    have := mem_span.1 hi
    exact h _ (List.mem_cons_of_mem _ (List.mem_map.2 ⟨i, mem_span.2 (by omega), rfl⟩))

end Accesses

end Sys2Proof.Machine

open Sys2Proof Sys2Proof.Machine in
/-- Settles O19: each form is a load or a store, and these trap by the lowest lane's address before they translate any. -/
theorem addressFaults : Obligations.AddressFaults := by
  unfold Obligations.AddressFaults
  intro s p w k o ip g r b a d issuing sound clean room all one granted all0 one0 _ va faults
  have load (n : Nat) (hn : n ≤ 4) {align : Nat} (ord scope : Nat) {off : Int} {i : Instr}
      (all : s.throttled p w (p.lanes.map (laneVa w k b.toNat (.of7 a) off)) = false)
      (one : s.throttled p w ([p.low].map (laneVa w k b.toNat (.of7 a) off)) = false)
      (run : exec i s = memLoad s ord scope align n b.toNat off (.of7 a) (.of7 d)) : faults i off align :=
    addressFaults_of (bs := b.toNat) _ rfl fun t trap =>
      run.trans (memLoad_addressTrap issuing sound b.isLt clean room (granted.smaller hn) all one ord scope trap)
  have store (n : Nat) (hn : n ≤ 4) {align : Nat} (ord scope : Nat) (ip : Bool) {off : Int} {i : Instr}
      (all : s.throttled p w (p.lanes.map (laneVa w k b.toNat (.of7 a) off)) = false)
      (run : exec i s = memStore s ord scope align n b.toNat off ip (.of7 a) (.of7 d)) : faults i off align :=
    addressFaults_of (bs := b.toNat) _ rfl fun t trap =>
      run.trans (memStore_addressTrap issuing sound b.isLt clean room (granted.smaller hn) all ord scope ip trap)
  refine ⟨load 1 (by decide) 0 0 all one rfl, load 2 (by decide) 0 0 all one rfl, load 4 (by decide) 0 0 all one rfl,
    store 1 (by decide) 0 0 (ip == 1#1) all rfl, store 2 (by decide) 0 0 (ip == 1#1) all rfl,
    store 4 (by decide) 0 0 (ip == 1#1) all rfl, load 1 (by decide) r.toNat g.toNat all0 one0 rfl,
    store 1 (by decide) r.toNat g.toNat false all0 rfl, fun ordered => ?_⟩
  have eight : ordAlign r = 8 := if_neg ordered
  rw [← eight]
  exact ⟨load 2 (by decide) r.toNat g.toNat all0 one0 rfl, store 2 (by decide) r.toNat g.toNat false all0 rfl⟩
end

section
/-! The walker's bits of a table entry (R35), and what its home slice holds once they are set. -/

namespace Sys2Proof.Machine

/-! ### A and D of an entry -/

theorem bitAt_eq_testBit (n i : Nat) : bitAt n i = n.testBit i := by
  rw [Nat.testBit_eq_decide_div_mod_eq]
  rfl

/-- An entry with A set, and D too on a write (R35). -/
def withAD (v : BitVec 64) (dirty : Bool) : BitVec 64 := v ||| 0x100 ||| (if dirty = true then 0x200 else 0)

/-- Setting one bit of an entry is an addition where it is clear. -/
theorem or_twoPow_toNat (v : BitVec 64) (i : Nat) (hi : i < 64) :
    (v ||| BitVec.twoPow 64 i).toNat = if bitAt v.toNat i then v.toNat else v.toNat + 2 ^ i := by
  rw [bitAt_toNat]
  split
  · next set =>
    have same : v ||| BitVec.twoPow 64 i = v := by
      apply BitVec.eq_of_getLsbD_eq
      intro j _
      rw [BitVec.getLsbD_or, BitVec.getLsbD_twoPow]
      by_cases hj : i = j
      · subst hj; simp [set]
      · simp [hj]
    rw [same]
  · next clear =>
    have apart : v &&& BitVec.twoPow 64 i = 0#64 := by
      rw [BitVec.and_twoPow, if_neg clear]
    have power : (BitVec.twoPow 64 i).toNat = 2 ^ i := by
      rw [BitVec.toNat_twoPow]
      exact Nat.mod_eq_of_lt (Nat.pow_lt_pow_right (by decide) hi)
    rw [← BitVec.add_eq_or_of_and_eq_zero _ _ apart, BitVec.toNat_add_of_and_eq_zero apart, power]

/-- The walker's sums are those bits (R35). -/
theorem withAD_toNat (v : BitVec 64) (dirty : Bool) : (withAD v dirty).toNat =
    (let p1 := if bitAt v.toNat 8 then v.toNat else v.toNat + 2 ^ 8
     if dirty && !bitAt p1 9 then p1 + 2 ^ 9 else p1) := by
  have accessed := or_twoPow_toNat v 8 (by decide)
  have both := or_twoPow_toNat (v ||| BitVec.twoPow 64 8) 9 (by decide)
  simp only
  rw [← accessed]
  cases dirty
  · exact congrArg BitVec.toNat (BitVec.or_zero (x := v ||| BitVec.twoPow 64 8))
  · change (v ||| BitVec.twoPow 64 8 ||| BitVec.twoPow 64 9).toNat = _
    rw [both]
    cases bitAt (v ||| BitVec.twoPow 64 8).toNat 9 <;> rfl

theorem getLsbD_withAD (v : BitVec 64) (dirty : Bool) (i : Nat) :
    (withAD v dirty).getLsbD i = (v.getLsbD i || decide (i = 8) || (dirty && decide (i = 9))) := by
  have accessed : (0x100#64).getLsbD i = decide (i = 8) := (BitVec.getLsbD_twoPow (w := 64) 8 i).trans (by simp [eq_comm])
  have written : (0x200#64).getLsbD i = decide (i = 9) := (BitVec.getLsbD_twoPow (w := 64) 9 i).trans (by simp [eq_comm])
  cases dirty <;> simp [withAD, accessed, written]

/-- Every other bit stays. -/
theorem bitAt_withAD (v : BitVec 64) (dirty : Bool) {i : Nat} (h8 : i ≠ 8) (h9 : i ≠ 9) :
    bitAt (withAD v dirty).toNat i = bitAt v.toNat i := by
  simp [bitAt_toNat, getLsbD_withAD, h8, h9]

theorem bitAt_withAD_dirty (v : BitVec 64) : bitAt (withAD v true).toNat 9 = true := by
  simp [bitAt_toNat, getLsbD_withAD]

/-- Every field above the two bits stays. -/
theorem field_withAD (v : BitVec 64) (dirty : Bool) (hi : Nat) {lo : Nat} (h : 10 ≤ lo) :
    field (withAD v dirty).toNat hi lo = field v.toNat hi lo := by
  have above : withAD v dirty >>> lo = v >>> lo := by
    apply BitVec.eq_of_getLsbD_eq
    intro i _
    rw [BitVec.getLsbD_ushiftRight, BitVec.getLsbD_ushiftRight, getLsbD_withAD]
    simp [show lo + i ≠ 8 by omega, show lo + i ≠ 9 by omega]
  have quotient := congrArg BitVec.toNat above
  simp only [BitVec.toNat_ushiftRight, Nat.shiftRight_eq_div_pow] at quotient
  rw [field, quotient, field]

/-! ### The swap at the home slice -/

section Homes

variable {s m t : State} {a pa : Nat} {v : BitVec 64} {dirty : Bool}

theorem State.setAD_eq (s : State) (a : Nat) (v : BitVec 64) (dirty : Bool) : s.setAD a v.toNat dirty =
    ((withAD v dirty).toNat, if withAD v dirty = v then s
      else s.homePuts a [coded ((withAD v dirty).setWidth 32), coded ((withAD v dirty >>> 32).setWidth 32)]) := by
  have sum := withAD_toNat v dirty
  unfold State.setAD
  simp only at sum ⊢
  rw [← sum]
  by_cases same : withAD v dirty = v
  · rw [if_pos (congrArg _ same), if_pos same, same]
  · rw [if_neg (fun h => same (BitVec.eq_of_toNat_eq h)), if_neg same, ofNat_toNat_low, ofNat_toNat_high]

/-- Where the home slices alone moved, every core reads the same as long as they answer the same. -/
theorem HomeFrame.sameMemory (h : HomeFrame s t) (hh : ∀ pa, t.home pa = s.home pa) : SameMemory s t := by
  have clusters : t.clusters = s.clusters := (congrArg State.clusters h.rest :)
  exact .of_home (fun c => by unfold State.core; rw [h.cores]) (fun n => by unfold State.cluster; rw [clusters]) hh

/-- A home slice answers with the unit that it then holds (R75). -/
theorem State.homeGet_answer (s : State) (pa : Nat) (cz : Option Bool) : (s.homeGet pa cz).1 = (s.homeGet pa cz).2.home pa := by
  obtain ⟨l, hl⟩ := Option.isSome_iff_exists.1 (s.l2Fill_present (pa / 128) cz)
  unfold State.homeGet State.home
  simp only [hl]

theorem Undisturbed.first (h : Undisturbed s t) (h1 : s.free ≤ m.free) (h2 : m.free ≤ t.free) : Undisturbed s m :=
  ⟨by have := h.1; omega, h.2⟩

/-- A doubleword read of the home slices that disturbs nothing gives the units that they hold. -/
theorem State.homeGets_pair (hu : Undisturbed s (s.homeGets pa 2).2) : (s.homeGets pa 2).1 = [s.home pa, s.home (pa + 4)] := by
  have one := s.homeGet_step pa none
  have two := (s.homeGet pa none).2.homeGet_step (pa + 4) none
  have low := one.undisturbed (hu.first one.free two.free) pa
  have high := (one.trans_reads two).undisturbed hu (pa + 4)
  change [(s.homeGet pa none).1, ((s.homeGet pa none).2.homeGet (pa + 4) none).1] = _
  rw [State.homeGet_answer, State.homeGet_answer, low, high]
  rfl

/-- What the walker's write of A and D leaves: nothing where they are set, else the entry's doubleword and no other (R35). -/
theorem State.setAD_leaves (before : HomeReads s m) (after : HomeReads (m.setAD a v.toNat dirty).2 t)
    (l1 : ∀ c, (t.core c).l1 = (s.core c).l1) (fused : ∀ n, (t.cluster n).fused = (s.cluster n).fused) (h8 : a % 8 = 0)
    (hu : Undisturbed s t) : (withAD v dirty = v → SameMemory s t) ∧
      (withAD v dirty ≠ v → t.home a = coded ((withAD v dirty).setWidth 32) ∧
        t.home (a + 4) = coded ((withAD v dirty >>> 32).setWidth 32) ∧ ∀ q, q / 8 ≠ a / 8 → t.home q = s.home q) := by
  rw [State.setAD_eq] at after
  refine ⟨fun same => ?_, fun changed => ?_⟩
  · rw [if_pos same] at after
    exact .of_home l1 fused ((before.trans_reads after).undisturbed hu)
  · rw [if_neg changed] at after
    exact ((before.reads_trans (m.homePuts_step _ a)).trans_reads after).doubleword hu h8

end Homes

end Sys2Proof.Machine
end

section
/-! The parts of a translation (R26 to R42, R369): regions, buffers, walk, leaf and firewall. -/

namespace Sys2Proof.Machine

section Regions

variable {s : State} {g : Agent} {va : Nat} {acc : Access}

/-! ### Region decode -/

theorem State.translate_fetch_outside (h : va / 2 ^ 55 ≠ 4) : s.translate g va .fetch = (.fault .perm, s) := by
  unfold State.translate
  exact if_neg h

/-- A fetch and a read of the text region go through the text tables (R29). -/
theorem State.translate_text (h : va / 2 ^ 55 = 4) (hr : acc.writes = false) : s.translate g va acc = s.xlat g true va acc := by
  unfold State.translate
  simp only [h, hr, if_true, if_neg (show ¬4 < 4 by decide), Bool.false_eq_true, if_false, ite_self]

theorem State.translate_text_write (hf : acc ≠ .fetch) (h : va / 2 ^ 55 = 4) (hw : acc.writes = true) :
    s.translate g va acc = (.fault .perm, s) := by
  unfold State.translate
  simp only [hf, h, hw, if_true, if_false, if_neg (show ¬4 < 4 by decide)]

theorem State.translate_global (hf : acc ≠ .fetch) (h : va / 2 ^ 55 < 4) : s.translate g va acc = s.xlatGlobal g va acc := by
  unfold State.translate
  simp only [hf, h, if_false, if_true]

/-- An agent without a thread has no private area (R28, log 17). -/
theorem State.translate_private_none (hf : acc ≠ .fetch) (h : va / 2 ^ 55 = 5) (ht : g.tid = none) :
    s.translate g va acc = (.fault .page, s) := by
  unfold State.translate
  simp only [hf, h, ht, if_true, if_false, if_neg (show ¬5 < 4 by decide), if_neg (show ¬5 = 4 by decide)]

/-- A thread's private area lies at its place in the global region (R28). -/
theorem State.translate_private {t : Nat} (hf : acc ≠ .fetch) (h : va / 2 ^ 55 = 5) (ht : g.tid = some t) : s.translate g va acc =
    if va % 2 ^ 55 ≥ 2 ^ 30 ∨ va % 2 ^ 55 ≥ 2 ^ (s.ctx g.ctx).privsz ∨
      (s.ctx g.ctx).privb + t * 2 ^ (s.ctx g.ctx).privsz + va % 2 ^ 55 ≥ 2 ^ 57 then (.fault .page, s)
    else s.xlatGlobal g ((s.ctx g.ctx).privb + t * 2 ^ (s.ctx g.ctx).privsz + va % 2 ^ 55) acc := by
  unfold State.translate
  simp only [hf, h, ht, if_true, if_false, if_neg (show ¬5 < 4 by decide), if_neg (show ¬5 = 4 by decide)]

theorem State.translate_spad (hf : acc ≠ .fetch) (h : va / 2 ^ 55 = 6) : s.translate g va acc =
    if va % 2 ^ 55 ≥ 2 ^ 18 ∨ va % 2 ^ 55 ≥ g.bytes then (.fault .perm, s) else (.spad (va % 2 ^ 55), s) := by
  unfold State.translate
  simp only [hf, h, if_true, if_false, if_neg (show ¬6 < 4 by decide), if_neg (show ¬6 = 4 by decide),
    if_neg (show ¬6 = 5 by decide)]

theorem State.translate_reserved (hf : acc ≠ .fetch) (h : 7 ≤ va / 2 ^ 55) : s.translate g va acc = (.fault .page, s) := by
  unfold State.translate
  simp only [hf, if_false]
  rw [if_neg (by omega), if_neg (by omega), if_neg (by omega), if_neg (by omega)]

/-! ### Replays -/

theorem State.xlatGlobal_plain (h : g.audit = none) : s.xlatGlobal g va acc = s.xlat g false va acc := by
  unfold State.xlatGlobal
  rw [h]

/-- A replay's page outside its log copies is refused (R369, log 109). -/
theorem State.xlatGlobal_unlogged {u : Nat} {x : Audit} (h : g.audit = some u)
    (hx : (s.hazel.audits.find? fun y => y.uid == u) = some x) (hp : (x.pages.find? fun y => y.1 == va / 16384) = none) :
    s.xlatGlobal g va acc = (.fault .perm, s) := by
  unfold State.xlatGlobal
  simp only [h, hx, hp]

/-- A replay's page is its log copy (R369, log 109). -/
theorem State.xlatGlobal_logged {u i log : Nat} {x : Audit} (h : g.audit = some u)
    (hx : (s.hazel.audits.find? fun y => y.uid == u) = some x)
    (hp : (x.pages.find? fun y => y.1 == va / 16384) = some (i, log)) :
    s.xlatGlobal g va acc = (.mem (log + va % 16384) 0 false true, s) := by
  unfold State.xlatGlobal
  simp only [h, hx, hp]

end Regions

/-! ### Translation buffers -/

section Buffers

variable {s : State} {g : Agent} {text : Option Nat} {va : Nat} {e : TlbEntry}

/-- The buffers that an agent looks up, the nearest first (R42). -/
def State.buffers (s : State) (g : Agent) : List TlbEntry :=
  (if g.core < 192 then (s.core g.core).tlb ++ (s.cluster (clusterOf g.core)).tlb else []) ++ (s.die g.die).tlb

/-- The entry translates an address for an agent. -/
def TlbEntry.serves (e : TlbEntry) (g : Agent) (text : Option Nat) (va : Nat) : Bool :=
  e.ctx == g.ctx && e.text == text && va / e.size == e.va / e.size

theorem TlbEntry.serves_iff : e.serves g text va = true ↔ e.ctx = g.ctx ∧ e.text = text ∧ va / e.size = e.va / e.size := by
  simp [TlbEntry.serves, and_assoc]

theorem State.mem_buffers : e ∈ s.buffers g ↔ e ∈ (s.die g.die).tlb ∨
    (g.core < 192 ∧ (e ∈ (s.core g.core).tlb ∨ e ∈ (s.cluster (g.core / 4)).tlb)) := by
  unfold State.buffers
  split
  · next h =>
    rw [List.mem_append, List.mem_append, or_comm]
    simp only [h, true_and]
    rfl
  · next h => simp [h]

/-- The nearest buffer that holds the translation answers. -/
theorem State.tlbFind_eq : s.tlbFind g text va = (s.buffers g).find? fun e => e.serves g text va := by
  unfold State.tlbFind State.buffers TlbEntry.serves
  by_cases core : g.core < 192
  · simp only [if_pos core, List.find?_append]
    cases (s.core g.core).tlb.find? _ <;> cases (s.cluster (clusterOf g.core)).tlb.find? _ <;> rfl
  · simp only [if_neg core, List.nil_append]

theorem State.tlbFind_some (h : s.tlbFind g text va = some e) : e ∈ s.buffers g ∧ e.serves g text va = true := by
  rw [State.tlbFind_eq] at h
  exact ⟨List.mem_of_find?_eq_some h, List.find?_some (p := fun e : TlbEntry => e.serves g text va) h⟩

theorem State.tlbFind_none (h : s.tlbFind g text va = none) : ∀ e ∈ s.buffers g, e.serves g text va = false := by
  rw [State.tlbFind_eq] at h
  intro e he
  simpa using List.find?_eq_none.1 h e he

/-- A translation that is entered stands first in its buffer. -/
theorem tlbPut_head (sets ways pick : Nat) (e : TlbEntry) (l : List TlbEntry) : ∃ m, tlbPut sets ways pick e l = e :: m := by
  unfold tlbPut
  simp only
  split
  · exact ⟨_, rfl⟩
  · exact ⟨_, rfl⟩

/-- A translation enters the buffers of an agent's die, core and cluster (R42). -/
def State.tlbEnter (s : State) (g : Agent) (e : TlbEntry) (n : Nat) : State :=
  let s := s.modDie g.die fun d => { d with tlb := tlbPut 1024 16 n e d.tlb }
  if g.core < 192 then
    (s.modCore g.core fun k => { k with tlb := tlbPut 32 8 (n / 16) e k.tlb }).modCluster (clusterOf g.core) fun c =>
      { c with tlb := tlbPut 256 8 (n / 128) e c.tlb }
  else s

/-- A fill enters its translation, having drawn a choice where a set is full (R42, log 78). -/
theorem State.tlbFill_cases (s : State) (g : Agent) (e : TlbEntry) :
    ∃ n, s.tlbFill g e = s.tlbEnter g e n ∨ s.tlbFill g e = s.freeWord.2.tlbEnter g e n := by
  unfold State.tlbFill
  generalize (_ || _ : Bool) = full
  cases full
  · exact ⟨_, .inl rfl⟩
  · exact ⟨_, .inr rfl⟩

theorem State.core_modCluster (s : State) (n : Nat) (f : Cluster → Cluster) (c : Nat) : (s.modCluster n f).core c = s.core c := rfl

/-- An entered translation stands first in the agent's nearest buffer. -/
theorem State.tlbEnter_head (s : State) (g : Agent) (e : TlbEntry) (n : Nat) : ∃ l, (s.tlbEnter g e n).buffers g = e :: l := by
  unfold State.tlbEnter State.buffers
  simp only
  split
  · obtain ⟨m, hm⟩ := tlbPut_head 32 8 (n / 16) e (s.core g.core).tlb
    rw [State.core_modCluster, State.core_modCore_self]
    exact ⟨_, congrArg (fun l => (l ++ _) ++ _) hm⟩
  · obtain ⟨m, hm⟩ := tlbPut_head 1024 16 n e (s.die g.die).tlb
    refine ⟨m, ?_⟩
    rw [State.die_modDie_self]
    exact hm

/-- After a fill the agent finds the translation (R42). -/
theorem State.tlbFind_tlbFill (s : State) (h : e.serves g text va = true) : (s.tlbFill g e).tlbFind g text va = some e := by
  have found (u : State) (n : Nat) : (u.tlbEnter g e n).tlbFind g text va = some e := by
    obtain ⟨l, hl⟩ := u.tlbEnter_head g e n
    rw [State.tlbFind_eq, hl]
    exact List.find?_cons_of_pos h
  obtain ⟨n, hn | hn⟩ := s.tlbFill_cases g e
  · rw [hn]
    exact found s n
  · rw [hn]
    exact found _ n

/-- A fill changes the buffers alone, beside the choice that it may draw (R42, log 78). -/
theorem State.tlbFill_step (s : State) (g : Agent) (e : TlbEntry) : HomeReads s (s.tlbFill g e) := by
  have entered (u : State) (n : Nat) : HomeReads u (u.tlbEnter g e n) := by
    unfold State.tlbEnter
    simp only
    split <;> exact .of_same rfl rfl rfl rfl rfl rfl rfl
  obtain ⟨n, hn | hn⟩ := s.tlbFill_cases g e
  · rw [hn]
    exact entered s n
  · rw [hn]
    exact .of_lt (Nat.lt_of_succ_le (entered s.freeWord.2 n).free)

theorem State.cluster_modCluster_ne (s : State) {c n : Nat} (f : Cluster → Cluster) (h : c ≠ n) :
    (s.modCluster c f).cluster n = s.cluster n := by
  simp [State.modCluster, State.cluster, Map.getD, Map.find_set_ne _ _ h]

/-- A fill leaves the L1s and the fusion of the clusters (R42). -/
theorem State.tlbFill_l1 (s : State) (g : Agent) (e : TlbEntry) :
    (∀ c, ((s.tlbFill g e).core c).l1 = (s.core c).l1) ∧ ∀ n, ((s.tlbFill g e).cluster n).fused = (s.cluster n).fused := by
  have entered (u : State) (n : Nat) : (∀ c, ((u.tlbEnter g e n).core c).l1 = (u.core c).l1) ∧
      ∀ m, ((u.tlbEnter g e n).cluster m).fused = (u.cluster m).fused := by
    unfold State.tlbEnter
    simp only
    split
    · refine ⟨fun c => ?_, fun m => ?_⟩
      · rw [State.core_modCluster]
        by_cases hc : g.core = c
        · subst hc
          rw [State.core_modCore_self]
          rfl
        · rw [State.core_modCore_ne _ _ hc]
          rfl
      · by_cases hm : clusterOf g.core = m
        · subst hm
          rw [State.cluster_modCluster_self]
          rfl
        · rw [State.cluster_modCluster_ne _ _ hm]
          rfl
    · exact ⟨fun _ => rfl, fun _ => rfl⟩
  obtain ⟨n, hn | hn⟩ := s.tlbFill_cases g e
  · rw [hn]
    exact entered s n
  · rw [hn]
    exact entered s.freeWord.2 n

end Buffers

end Sys2Proof.Machine
end

section
/-! A translation by a walk (R33 to R38, R55) and by a buffer (R42). -/

namespace Sys2Proof.Machine

/-! ### The walk -/

section Walks

variable {s s1 : State} {ctx va table n level a pte : Nat} {us : List GUnit}

/-- An entry that fails its check ends the walk and is reported (R55). -/
theorem State.walkFrom_unsound (hl : level + n = 3) (ha : a = table + 8 * (va / 2 ^ (47 - 11 * level) % 2048))
    (hr : s.homeGets a 2 = (us, s1)) (bad : (us.all fun u => u.ok) = false) :
    s.walkFrom ctx va table (n + 1) = (.fault .page, s1.toOsm (.tableCode ctx a va)) := by
  obtain rfl : level = 3 - n := by omega
  subst ha
  unfold State.walkFrom levelIndex
  simp only [hr, bad, Bool.false_eq_true, if_false]

/-- A sound entry is absent, reserved, a leaf or the next table (R33, R34, R37). -/
theorem State.walkFrom_sound (hl : level + n = 3) (ha : a = table + 8 * (va / 2 ^ (47 - 11 * level) % 2048))
    (hr : s.homeGets a 2 = (us, s1)) (good : (us.all fun u => u.ok) = true)
    (hp : pte = (us.getD 0 .zero).data.toNat + 2 ^ 32 * (us.getD 1 .zero).data.toNat) :
    s.walkFrom ctx va table (n + 1) =
      if !pte.testBit 0 then (.replay 1 level, s1)
      else if pteReserved pte then (.fault .page, s1)
      else if pte.testBit 1 then (if level = 0 then (.fault .page, s1) else (.leaf pte a level, s1))
      else if level = 3 then (.fault .page, s1)
      else if s1.inTable (field pte 47 14 * 16384) 0 ctx then s1.walkFrom ctx va (field pte 47 14 * 16384) n
      else (.fault .perm, s1.toOsm (.tableRegion ctx (field pte 47 14 * 16384) va)) := by
  obtain rfl : level = 3 - n := by omega
  subst ha hp
  rw [State.walkFrom]
  unfold levelIndex
  simp only [hr, good, if_true, bitAt_eq_testBit]

/-- A bit that must be zero is set in an entry (R34). -/
def PteReserved (pte : Nat) : Prop := field pte 51 48 ≠ 0 ∨ field pte 13 12 ≠ 0 ∨ field pte 4 2 ≠ 0 ∨
  (pte.testBit 1 = false ∧ (field pte 63 52 ≠ 0 ∨ field pte 11 5 ≠ 0))

theorem pteReserved_iff : pteReserved pte = true ↔ PteReserved pte := by
  simp [pteReserved, PteReserved, bitAt_eq_testBit, or_assoc]

/-- What the walk makes of each kind of sound entry (R33, R34, R37). -/
theorem State.walkFrom_outcomes (hl : level + n = 3) (ha : a = table + 8 * (va / 2 ^ (47 - 11 * level) % 2048))
    (hr : s.homeGets a 2 = (us, s1)) (good : (us.all fun u => u.ok) = true)
    (hp : pte = (us.getD 0 .zero).data.toNat + 2 ^ 32 * (us.getD 1 .zero).data.toNat) :
    let walk := s.walkFrom ctx va table (n + 1)
    let next := field pte 47 14 * 16384
    (pte.testBit 0 = false → walk = (.replay 1 level, s1)) ∧
    (pte.testBit 0 = true → PteReserved pte → walk = (.fault .page, s1)) ∧
    (pte.testBit 0 = true → ¬PteReserved pte →
      (pte.testBit 1 = true → walk = if level = 0 then (.fault .page, s1) else (.leaf pte a level, s1)) ∧
      (pte.testBit 1 = false → level = 3 → walk = (.fault .page, s1)) ∧
      (pte.testBit 1 = false → level ≠ 3 → walk = if s1.inTable next 0 ctx = true then s1.walkFrom ctx va next n
        else (.fault .perm, s1.toOsm (.tableRegion ctx next va)))) := by
  intro walk next
  have step : walk = _ := State.walkFrom_sound hl ha hr good hp
  rw [step]
  refine ⟨fun absent => ?_, fun present bad => ?_, fun present fine => ?_⟩
  · rw [absent]
    rfl
  · rw [present, if_neg (by decide), if_pos (pteReserved_iff.2 bad)]
  · rw [present, if_neg (by decide), if_neg fun bad => fine (pteReserved_iff.1 bad)]
    refine ⟨fun leaf => if_pos leaf, fun table last => ?_, fun table more => ?_⟩
    · rw [if_neg (by rw [table]; decide), if_pos last]
    · rw [if_neg (by rw [table]; decide), if_neg more]

/-- A leaf is an entry of 64 bits, on a doubleword where the first table starts on a page (R33, R34). -/
theorem State.walkFrom_leaf (hn : n ≤ 4) (hw : s.walkFrom ctx va table n = (.leaf pte a level, s1)) :
    pte < 2 ^ 64 ∧ (table % 16384 = 0 → a % 8 = 0) := by
  induction n generalizing s table with
  | zero => cases hw
  | succ n ih =>
    have here : 3 - n + n = 3 := by omega
    rcases hr : s.homeGets (table + 8 * (va / 2 ^ (47 - 11 * (3 - n)) % 2048)) 2 with ⟨us, s2⟩
    cases good : us.all fun u => u.ok with
    | false =>
      rw [State.walkFrom_unsound here rfl hr good] at hw
      cases hw
    | true =>
      rw [State.walkFrom_sound here rfl hr good rfl] at hw
      have low := (us.getD 0 .zero).data.isLt
      have high := (us.getD 1 .zero).data.isLt
      generalize hp : (us.getD 0 .zero).data.toNat + 2 ^ 32 * (us.getD 1 .zero).data.toNat = p at hw
      split_ifs at hw
      · cases hw
      · cases hw
      · cases hw
      · cases hw
        exact ⟨by omega, by omega⟩
      · cases hw
      · obtain ⟨entry, aligned⟩ := ih (by omega) hw
        exact ⟨entry, fun _ => aligned (by omega)⟩
      · cases hw

end Walks

/-! ### The judgement of a leaf -/

section Leaves

variable {s : State} {ctx va pte level : Nat} {text : Bool}

/-- What makes a leaf bad, whatever its firewall says (R38 steps 3 and 4). -/
def State.LeafBad (s : State) (pte level : Nat) (text : Bool) : Prop :=
  let frame := field pte 47 14 * 16384
  (level = 2 ∧ field pte 24 14 ≠ 0) ∨ (level = 1 ∧ field pte 35 14 ≠ 0) ∨
    (pte.testBit 6 = true ∧ pte.testBit 5 = false) ∨ (pte.testBit 10 = true ∧ pte.testBit 11 = true) ∨
    (text = true ∧ pte.testBit 6 = true) ∨ 2 ^ 48 ≤ frame ∨ (2 ^ 41 ≤ frame ∧ frame < 2 ^ 47) ∨
    (2 ^ 47 ≤ frame ∧ (2 ^ 39 ≤ frame % 2 ^ 41 ∨ (frame - 2 ^ 47) / 2 ^ 41 = s.board.domain))

theorem State.reservedPa_iff {pa : Nat} : s.reservedPa pa = true ↔ 2 ^ 48 ≤ pa ∨ (2 ^ 41 ≤ pa ∧ pa < 2 ^ 47) ∨
    (2 ^ 47 ≤ pa ∧ (2 ^ 39 ≤ pa % 2 ^ 41 ∨ (pa - 2 ^ 47) / 2 ^ 41 = s.board.domain)) := by
  simp only [State.reservedPa, Bool.or_eq_true, Bool.and_eq_true, decide_eq_true_eq, beq_iff_eq, ge_iff_le, or_assoc]

theorem State.leafCheck_cases (s : State) (ctx va pte level : Nat) (text : Bool) :
    (s.LeafBad pte level text → s.leafCheck ctx va pte level text = (some .page, s)) ∧
    (¬s.LeafBad pte level text → s.leafCheck ctx va pte level text =
      if s.frameOk ctx (field pte 47 14 * 16384) (2 ^ (47 - 11 * level)) then (none, s)
      else (some .perm, s.toOsm (.firewall ctx (field pte 47 14 * 16384) va))) := by
  have bad : s.LeafBad pte level text ↔ ((level = 2 ∧ field pte 24 14 ≠ 0) ∨ (level = 1 ∧ field pte 35 14 ≠ 0)) ∨
      (bitAt pte 6 && !bitAt pte 5) = true ∨ (bitAt pte 10 && bitAt pte 11) = true ∨ (text && bitAt pte 6) = true ∨
      s.reservedPa (field pte 47 14 * 16384) = true := by
    simp only [State.LeafBad, State.reservedPa_iff, bitAt_eq_testBit, Bool.and_eq_true, Bool.not_eq_true', or_assoc]
  unfold State.leafCheck levelSize
  simp only [← ite_or, ← or_assoc]
  rw [bad]
  simp only [← or_assoc]
  exact ⟨fun h => if_pos h, fun h => if_neg h⟩

theorem accessCheck_fetch (r w x : Bool) (level : Nat) :
    accessCheck r w x .fetch level = if x then none else some (.fault .page) := rfl

theorem accessCheck_write (r w x : Bool) (level : Nat) {acc : Access} (h : acc.writes = true) :
    accessCheck r w x acc level = if w then none else some (.replay 2 level) := by
  unfold accessCheck
  split
  · cases h
  · rw [if_pos h]

theorem accessCheck_read (r w x : Bool) (level : Nat) {acc : Access} (hf : acc ≠ .fetch) (h : acc.writes = false) :
    accessCheck r w x acc level = if r then none else some (.replay 3 level) := by
  unfold accessCheck
  split
  · exact absurd rfl hf
  · rw [h, if_neg Bool.false_ne_true]

theorem accessCheck_permits {r w x : Bool} {level : Nat} {acc : Access} (h : (acc = .fetch ∧ x = true) ∨
    (acc.writes = true ∧ w = true) ∨ (acc ≠ .fetch ∧ acc.writes = false ∧ r = true)) : accessCheck r w x acc level = none := by
  rcases h with ⟨rfl, h⟩ | ⟨hw, h⟩ | ⟨hf, hw, h⟩
  · exact (accessCheck_fetch ..).trans (if_pos h)
  · exact (accessCheck_write _ _ _ _ hw).trans (if_pos h)
  · exact (accessCheck_read _ _ _ _ hf hw).trans (if_pos h)

end Leaves

/-! ### A translation by a buffer or by a walk -/

section Translations

variable {s s1 t : State} {g : Agent} {text : Bool} {va pte a level : Nat} {acc : Access} {e : TlbEntry}

/-- No buffer answers: none holds the translation, or the access is the first write through its leaf (R35, R42). -/
def State.Walks (s : State) (g : Agent) (text : Bool) (va : Nat) (acc : Access) : Prop :=
  s.tlbFind g (if text = true then some g.die else none) va = none ∨
    ∃ e, s.tlbFind g (if text = true then some g.die else none) va = some e ∧ acc.writes = true ∧ e.d = false ∧ e.w = true

/-- The root of an agent's tables (R29, R41). -/
def State.root (s : State) (g : Agent) (text : Bool) : Nat :=
  if text = true then (s.ctx g.ctx).troot g.die else (s.ctx g.ctx).groot

section Hits

variable (hf : s.tlbFind g (if text = true then some g.die else none) va = some e)
  (hd : ¬(acc.writes = true ∧ e.d = false ∧ e.w = true))

include hd in
theorem notFirstWrite : (acc.writes && !e.d && e.w) = false := by
  rw [Bool.eq_false_iff]
  intro h
  simp only [Bool.and_eq_true, Bool.not_eq_true'] at h
  exact hd ⟨h.1.1, h.1.2, h.2⟩

include hf hd

/-- A buffered translation that permits the access answers (R38 step 5, R42). -/
theorem State.xlat_hit (h : accessCheck e.r e.w e.x acc (sizeLevel e.size) = none) :
    s.xlat g text va acc = (.mem (e.pa + va % e.size) e.bind e.ms e.cz, s) := by
  unfold State.xlat
  simp only [hf, notFirstWrite hd, Bool.false_eq_true, if_false, h]

theorem State.xlat_hit_replay {cond l : Nat} (h : accessCheck e.r e.w e.x acc (sizeLevel e.size) = some (.replay cond l)) :
    s.xlat g text va acc = (.replay (va / 16384) cond l, s) := by
  unfold State.xlat
  simp only [hf, notFirstWrite hd, Bool.false_eq_true, if_false, h]

theorem State.xlat_hit_fault {k : Cause} (h : accessCheck e.r e.w e.x acc (sizeLevel e.size) = some (.fault k)) :
    s.xlat g text va acc = (.fault .page, s) := by
  unfold State.xlat
  simp only [hf, notFirstWrite hd, Bool.false_eq_true, if_false, h]

/-- What a buffered translation answers: a fetch needs X, a write W and a read RD (R38 step 5). -/
theorem State.xlat_hit_outcomes (hl : sizeLevel e.size = level) :
    (acc = .fetch → if e.x = true then s.xlat g text va acc = (.mem (e.pa + va % e.size) e.bind e.ms e.cz, s)
      else s.xlat g text va acc = (.fault .page, s)) ∧
    (acc.writes = true → if e.w = true then s.xlat g text va acc = (.mem (e.pa + va % e.size) e.bind e.ms e.cz, s)
      else s.xlat g text va acc = (.replay (va / 16384) 2 level, s)) ∧
    (acc ≠ .fetch → acc.writes = false →
      if e.r = true then s.xlat g text va acc = (.mem (e.pa + va % e.size) e.bind e.ms e.cz, s)
      else s.xlat g text va acc = (.replay (va / 16384) 3 level, s)) := by
  subst hl
  refine ⟨?_, fun hw => ?_, fun hr hw => ?_⟩
  · rintro rfl
    have check := accessCheck_fetch e.r e.w e.x (sizeLevel e.size)
    split
    · next h => exact State.xlat_hit hf hd (check.trans (if_pos h))
    · next h => exact State.xlat_hit_fault hf hd (check.trans (if_neg h))
  · have check := accessCheck_write e.r e.w e.x (sizeLevel e.size) hw
    split
    · next h => exact State.xlat_hit hf hd (check.trans (if_pos h))
    · next h => exact State.xlat_hit_replay hf hd (check.trans (if_neg h))
  · have check := accessCheck_read e.r e.w e.x (sizeLevel e.size) hr hw
    split
    · next h => exact State.xlat_hit hf hd (check.trans (if_pos h))
    · next h => exact State.xlat_hit_replay hf hd (check.trans (if_neg h))

end Hits

/-- What a translation answers once its walk has found a leaf (R35, R38 steps 3 to 5, R42). -/
def State.xlatLeaf (s : State) (g : Agent) (text : Bool) (va : Nat) (acc : Access) (p a level : Nat) : Xlat × State :=
  match s.leafCheck g.ctx va p level text with
  | (some k, s) => (.fault k, s)
  | (none, s) =>
    match accessCheck (bitAt p 5) (bitAt p 6) (bitAt p 7) acc level with
    | some (.replay cond l) => (.replay (va / 16384) cond l, s)
    | some _ => (.fault .page, s)
    | none =>
      match s.setAD a p acc.writes with
      | (p, s) =>
        let n := levelSize level
        let e : TlbEntry := ⟨g.ctx, if text then some g.die else none, va / n * n, n, field p 47 14 * 16384, field p 63 52,
          bitAt p 5, bitAt p 6, bitAt p 7, bitAt p 10, bitAt p 11, bitAt p 9⟩
        (.mem (field p 47 14 * 16384 + va % n) e.bind e.ms e.cz, s.tlbFill g e)

/-- What a translation answers once its walk has ended. -/
def State.xlatWalked (s : State) (g : Agent) (text : Bool) (va : Nat) (acc : Access) : Walk → Xlat × State
  | .fault k => (.fault k, s)
  | .replay cond level => (.replay (va / 16384) cond level, s)
  | .leaf p a level => s.xlatLeaf g text va acc p a level

/-- Where no buffer answers, the walk from the agent's root decides (R37, R42). -/
theorem State.xlat_walks (h : s.Walks g text va acc) : s.xlat g text va acc =
    (s.walk g.ctx va (s.root g text)).2.xlatWalked g text va acc (s.walk g.ctx va (s.root g text)).1 := by
  unfold State.xlat State.root
  rcases h with h | ⟨e, h, hw, hd, hx⟩
  · simp only [h]
    generalize s.walk _ _ _ = r
    obtain ⟨o, s1⟩ := r
    cases o <;> rfl
  · have first : (acc.writes && !e.d && e.w) = true := by rw [hw, hd, hx]; rfl
    simp only [h, first, if_true]
    generalize s.walk _ _ _ = r
    obtain ⟨o, s1⟩ := r
    cases o <;> rfl

end Translations

end Sys2Proof.Machine
end

section
/-! The leaf that a walk ends at (R35, R38, R42), the firewall (R31, R40, R41, R319), and the statement. -/

namespace Sys2Proof.Machine

/-! ### The leaf -/

section Judged

variable {s t : State} {g : Agent} {text : Bool} {va pte a level : Nat} {acc : Access} {k : Cause}

/-- What a buffer holds of a leaf, whose page the walk found; `d` is its D bit. -/
def leafEntry (g : Agent) (text : Bool) (va p level : Nat) (d : Bool) : TlbEntry :=
  ⟨g.ctx, if text = true then some g.die else none, va / 2 ^ (47 - 11 * level) * 2 ^ (47 - 11 * level), 2 ^ (47 - 11 * level),
    field p 47 14 * 16384, field p 63 52, p.testBit 5, p.testBit 6, p.testBit 7, p.testBit 10, p.testBit 11, d⟩

theorem leafEntry_serves (d : Bool) :
    (leafEntry g text va pte level d).serves g (if text = true then some g.die else none) va = true :=
  TlbEntry.serves_iff.2 ⟨rfl, rfl, (Nat.mul_div_cancel _ (Nat.two_pow_pos _)).symm⟩

theorem State.xlatLeaf_refused (h : s.leafCheck g.ctx va pte level text = (some k, t)) :
    s.xlatLeaf g text va acc pte a level = (.fault k, t) := by
  unfold State.xlatLeaf
  simp only [h]

section Passed

variable (h : s.leafCheck g.ctx va pte level text = (none, s))
include h

theorem State.xlatLeaf_fault (ha : accessCheck (pte.testBit 5) (pte.testBit 6) (pte.testBit 7) acc level = some (.fault k)) :
    s.xlatLeaf g text va acc pte a level = (.fault .page, s) := by
  simp only [← bitAt_eq_testBit] at ha
  unfold State.xlatLeaf
  simp only [h, ha]

theorem State.xlatLeaf_replay {cond l : Nat}
    (ha : accessCheck (pte.testBit 5) (pte.testBit 6) (pte.testBit 7) acc level = some (.replay cond l)) :
    s.xlatLeaf g text va acc pte a level = (.replay (va / 16384) cond l, s) := by
  simp only [← bitAt_eq_testBit] at ha
  unfold State.xlatLeaf
  simp only [h, ha]

/-- A leaf that does not permit the access: a fetch faults, a write and a read wait (R38 step 5). -/
theorem State.xlatLeaf_denied :
    (acc = .fetch → pte.testBit 7 = false → s.xlatLeaf g text va acc pte a level = (.fault .page, s)) ∧
    (acc.writes = true → pte.testBit 6 = false → s.xlatLeaf g text va acc pte a level = (.replay (va / 16384) 2 level, s)) ∧
    (acc ≠ .fetch → acc.writes = false → pte.testBit 5 = false →
      s.xlatLeaf g text va acc pte a level = (.replay (va / 16384) 3 level, s)) := by
  refine ⟨?_, fun hw h6 => ?_, fun hf hw h5 => ?_⟩
  · rintro rfl h7
    exact State.xlatLeaf_fault h ((accessCheck_fetch ..).trans (if_neg (by rw [h7]; decide)))
  · exact State.xlatLeaf_replay h ((accessCheck_write _ _ _ _ hw).trans (if_neg (by rw [h6]; decide)))
  · exact State.xlatLeaf_replay h ((accessCheck_read _ _ _ _ hf hw).trans (if_neg (by rw [h5]; decide)))

/-- A leaf that permits the access has A set, and D on a write, and is buffered (R35, R42). -/
theorem State.xlatLeaf_passes (hp : pte < 2 ^ 64)
    (ha : accessCheck (pte.testBit 5) (pte.testBit 6) (pte.testBit 7) acc level = none) : s.xlatLeaf g text va acc pte a level =
    (.mem (field pte 47 14 * 16384 + va % 2 ^ (47 - 11 * level)) (field pte 63 52) (pte.testBit 10) (pte.testBit 11),
      (s.setAD a pte acc.writes).2.tlbFill g
        (leafEntry g text va pte level (bitAt (withAD (BitVec.ofNat 64 pte) acc.writes).toNat 9))) := by
  obtain ⟨v, rfl⟩ : ∃ v : BitVec 64, pte = v.toNat :=
    ⟨BitVec.ofNat 64 pte, ((BitVec.toNat_ofNat pte 64).trans (Nat.mod_eq_of_lt hp)).symm⟩
  have marked : (s.setAD a v.toNat acc.writes).1 = (withAD v acc.writes).toNat := by rw [State.setAD_eq]
  unfold State.xlatLeaf leafEntry levelSize
  simp only [← bitAt_eq_testBit] at ha ⊢
  simp only [h, ha, marked, BitVec.ofNat_toNat, BitVec.setWidth_eq, field_withAD _ _ _ (show 10 ≤ 14 by decide),
    field_withAD _ _ _ (show 10 ≤ 52 by decide), bitAt_withAD _ _ (show 5 ≠ 8 by decide) (show 5 ≠ 9 by decide),
    bitAt_withAD _ _ (show 6 ≠ 8 by decide) (show 6 ≠ 9 by decide),
    bitAt_withAD _ _ (show 7 ≠ 8 by decide) (show 7 ≠ 9 by decide),
    bitAt_withAD _ _ (show 10 ≠ 8 by decide) (show 10 ≠ 9 by decide),
    bitAt_withAD _ _ (show 11 ≠ 8 by decide) (show 11 ≠ 9 by decide)]

end Passed

/-- What a leaf that passes leaves in memory: its own doubleword with A, and D on a write (R35). -/
theorem State.leafFill_memory (e : TlbEntry) (hp : pte < 2 ^ 64) (h8 : a % 8 = 0)
    (hu : Undisturbed s ((s.setAD a pte acc.writes).2.tlbFill g e)) :
    let t := (s.setAD a pte acc.writes).2.tlbFill g e
    let marked := withAD (BitVec.ofNat 64 pte) acc.writes
    (marked = BitVec.ofNat 64 pte → SameMemory s t) ∧
      (marked ≠ BitVec.ofNat 64 pte → t.home a = coded (marked.setWidth 32) ∧
        t.home (a + 4) = coded ((marked >>> 32).setWidth 32) ∧ ∀ q, q / 8 ≠ a / 8 → t.home q = s.home q) := by
  have written := s.setAD_frame a pte acc.writes
  have clusters : (s.setAD a pte acc.writes).2.clusters = s.clusters := (congrArg State.clusters written.rest :)
  obtain ⟨l1, fused⟩ := (s.setAD a pte acc.writes).2.tlbFill_l1 g e
  have value : pte = (BitVec.ofNat 64 pte).toNat := ((BitVec.toNat_ofNat pte 64).trans (Nat.mod_eq_of_lt hp)).symm
  refine State.setAD_leaves (.refl s) ?_ (fun c => (l1 c).trans ?_) (fun n => (fused n).trans ?_) h8 hu
  · rw [← value]
    exact State.tlbFill_step _ g e
  · unfold State.core
    rw [written.cores]
  · unfold State.cluster
    rw [clusters]

/-- A leaf that permits the access: its place is the answer, the agent finds the translation buffered, and the entry has A, and D
on a write (R35, R42). -/
theorem State.xlatLeaf_permits (h : s.leafCheck g.ctx va pte level text = (none, s)) (hp : pte < 2 ^ 64)
    (ha : accessCheck (pte.testBit 5) (pte.testBit 6) (pte.testBit 7) acc level = none) : ∃ t y,
    s.xlatLeaf g text va acc pte a level =
      (.mem (field pte 47 14 * 16384 + va % 2 ^ (47 - 11 * level)) (field pte 63 52) (pte.testBit 10) (pte.testBit 11), t) ∧
    t.tlbFind g (if text = true then some g.die else none) va = some y ∧
    (y.ctx, y.pa, y.size, y.bind, y.r, y.w, y.x, y.ms, y.cz) = (g.ctx, field pte 47 14 * 16384, 2 ^ (47 - 11 * level),
      field pte 63 52, pte.testBit 5, pte.testBit 6, pte.testBit 7, pte.testBit 10, pte.testBit 11) ∧
    (acc.writes = true → y.d = true) ∧
    let marked := withAD (BitVec.ofNat 64 pte) acc.writes
    (a % 8 = 0 → Undisturbed s t → (marked = BitVec.ofNat 64 pte → SameMemory s t) ∧
      (marked ≠ BitVec.ofNat 64 pte → t.home a = coded (marked.setWidth 32) ∧
        t.home (a + 4) = coded ((marked >>> 32).setWidth 32) ∧ ∀ q, q / 8 ≠ a / 8 → t.home q = s.home q)) := by
  refine ⟨_, _, State.xlatLeaf_passes h hp ha, State.tlbFind_tlbFill _ (leafEntry_serves _), rfl, fun hw => ?_,
    fun h8 hu => State.leafFill_memory _ hp h8 hu⟩
  rw [hw]
  exact bitAt_withAD_dirty _

end Judged

/-! ### The firewall -/

section Firewall

variable {s : State} {ctx pa size : Nat}

/-- The region is the context's own, or shared with its group (R40). -/
theorem State.regionOk_iff (s : State) (ctx r : Nat) : s.regionOk ctx r = true ↔
    ((s.osm.firewall.getD r 0).toNat / 2 ^ 14 = 1 ∧ (s.osm.firewall.getD r 0).toNat % 4096 = ctx) ∨
      ((s.osm.firewall.getD r 0).toNat / 2 ^ 14 = 3 ∧ (s.osm.firewall.getD r 0).toNat % 4096 = (s.ctx ctx).group) := by
  have bound := (s.osm.firewall.getD r 0).isLt
  have kind : fwKind (s.fw r) = (s.osm.firewall.getD r 0).toNat / 2 ^ 14 := by
    unfold fwKind bvf State.fw
    omega
  have owner : fwOwner (s.fw r) = (s.osm.firewall.getD r 0).toNat % 4096 := by
    unfold fwOwner bvf State.fw
    omega
  unfold State.regionOk
  simp only [kind, owner, Bool.or_eq_true, Bool.and_eq_true, beq_iff_eq]

/-- A frame in the doorbell region is one page of a queue that the context owns (R319). -/
theorem State.frameOk_doorbell (h : pa < s.osm.dbbase + 2 ^ 30 ∧ s.osm.dbbase < pa + size) :
    s.frameOk ctx pa size = true ↔ size = 16384 ∧ (ctx = 0 ∨
      ((s.osm.qown.getD ((pa - s.osm.dbbase) / 16384) 0).toNat.testBit 15 = true ∧
        (s.osm.qown.getD ((pa - s.osm.dbbase) / 16384) 0).toNat % 4096 = ctx)) := by
  unfold State.frameOk
  simp only [if_pos h, Bool.and_eq_true, Bool.or_eq_true, decide_eq_true_eq, beq_iff_eq, bvf, pow_zero, Nat.div_one]
  rfl

/-- Any other frame is judged by the part of the physical address space that it lies in (R31, R40, R41). -/
theorem State.frameOk_elsewhere (h : ¬(pa < s.osm.dbbase + 2 ^ 30 ∧ s.osm.dbbase < pa + size)) : s.frameOk ctx pa size =
    if ctx = 0 then true
    else if pa < 2 ^ 39 then
      if size ≤ 2 ^ 25 then s.regionOk ctx (pa / 2 ^ 25)
      else (span (pa / 2 ^ 25) (size / 2 ^ 25)).all fun r => s.regionOk ctx r
    else if pa < 2 ^ 40 then false
    else if pa < 2 ^ 41 then (s.ctx ctx).pcie (pa / 2 ^ 39 - 2)
    else if pa < 2 ^ 47 then false
    else (s.ctx ctx).peer ((pa - 2 ^ 47) / 2 ^ 41) := by
  unfold State.frameOk
  exact if_neg h

/-- A frame of the largest page lies in 2,048 regions (R33, R40). -/
theorem State.regionsOk_iff (s : State) (ctx r n : Nat) : ((span r n).all fun r => s.regionOk ctx r) = true ↔
    ∀ i, i < n → s.regionOk ctx (r + i) = true := by
  rw [List.all_eq_true]
  refine ⟨fun h i hi => h _ (mem_span.2 (by omega)), fun h x hx => ?_⟩
  have := mem_span.1 hx
  have inside := h (x - r) (by omega)
  rwa [show r + (x - r) = x by omega] at inside

/-- A context's frame by its place: firewall regions, nothing, PCIe windows, nothing, peers (R31, R40, R41). -/
theorem State.frameOk_places (out : ¬(pa < s.osm.dbbase + 2 ^ 30 ∧ s.osm.dbbase < pa + size)) (h0 : ctx ≠ 0) :
    (pa < 2 ^ 39 → size ≤ 2 ^ 25 → (s.frameOk ctx pa size = true ↔ s.regionOk ctx (pa / 2 ^ 25) = true)) ∧
    (pa < 2 ^ 39 → size = 2 ^ 36 →
      (s.frameOk ctx pa size = true ↔ ∀ i, i < 2048 → s.regionOk ctx (pa / 2 ^ 25 + i) = true)) ∧
    (2 ^ 39 ≤ pa → pa < 2 ^ 40 → ¬s.frameOk ctx pa size = true) ∧
    (2 ^ 40 ≤ pa → pa < 2 ^ 41 → (s.frameOk ctx pa size = true ↔ (s.ctx ctx).pcie (pa / 2 ^ 39 - 2) = true)) ∧
    (2 ^ 47 ≤ pa → (s.frameOk ctx pa size = true ↔ (s.ctx ctx).peer ((pa - 2 ^ 47) / 2 ^ 41) = true)) := by
  rw [State.frameOk_elsewhere out, if_neg h0]
  refine ⟨fun hpa hs => ?_, fun hpa hs => ?_, fun h1 h2 => ?_, fun h1 h2 => ?_, fun h1 => ?_⟩
  · rw [if_pos hpa, if_pos hs]
  · rw [if_pos hpa, if_neg (by omega), hs]
    exact s.regionsOk_iff _ _ _
  · rw [if_neg (by omega), if_pos h2]
    exact Bool.false_ne_true
  · rw [if_neg (by omega), if_neg (by omega), if_pos h2]
  · rw [if_neg (by omega), if_neg (by omega), if_neg (by omega), if_neg (by omega)]

end Firewall

/-- A page size names its level (R33). -/
theorem sizeLevel_of {level : Nat} (h1 : 1 ≤ level) (h3 : level ≤ 3) : sizeLevel (2 ^ (47 - 11 * level)) = level := by
  interval_cases level <;> rfl

end Sys2Proof.Machine
end

section
open Sys2Proof Sys2Proof.Machine

/-- Settles O43: the region picks the tables; a buffer answers or the walk decides; a leaf that passes has its doubleword marked and
is buffered. -/
theorem translationOutcomes : Obligations.TranslationOutcomes := by
  unfold Obligations.TranslationOutcomes
  intro s s1 g va a pte level root table size pa ctx n acc e x text us o r off page c out fails waits near found
  refine ⟨?_, ?_, ?_, ?_, ?_, ?_, ?_, ?_, ?_⟩
  · rintro rfl hr
    exact State.translate_fetch_outside hr
  · exact fun hf hr => State.translate_reserved hf hr
  · refine fun hf hr => ⟨fun h1 h2 => (State.translate_spad hf hr).trans (if_neg (by omega)), fun h => ?_⟩
    exact (State.translate_spad hf hr).trans (if_pos h)
  · refine fun hf hr => ⟨fun ht => State.translate_private_none hf hr ht, fun tid ht => ?_⟩
    have run := State.translate_private (s := s) hf hr ht
    refine ⟨fun h => run.trans (if_pos h), fun h1 h2 h3 => (run.trans (if_neg ?_)).trans ?_⟩
    · exact not_or.2 ⟨not_le.2 h1, not_or.2 ⟨not_le.2 h2, not_le.2 h3⟩⟩
    · exact (State.translate_global hf (Nat.div_lt_of_lt_mul (h3.trans_eq (by decide)))).symm
  · exact fun hf hr hw => State.translate_text_write hf hr hw
  · refine fun hf hr u hu hx => ⟨fun hp => ?_, fun i log hp => ?_⟩
    · exact (State.translate_global hf hr).trans (State.xlatGlobal_unlogged hu hx hp)
    · exact (State.translate_global hf hr).trans (State.xlatGlobal_logged hu hx hp)
  · intro region hroot
    have run : out = s.xlat g text va acc := by
      rcases region with ⟨hr, hf, ha, rfl⟩ | ⟨hr, hw, rfl⟩
      · exact (State.translate_global hf hr).trans (State.xlatGlobal_plain ha)
      · exact State.translate_text hr hw
    refine ⟨fun e he => ?_, fun hnone e he => ?_, fun hfound size low high later => ?_, fun miss => ?_⟩
    · obtain ⟨held, serves⟩ := State.tlbFind_some he
      exact ⟨State.mem_buffers.1 held, TlbEntry.serves_iff.1 serves⟩
    · obtain ⟨held, serves⟩ := he
      have other := State.tlbFind_none hnone e (State.mem_buffers.2 held)
      rw [TlbEntry.serves_iff.2 serves] at other
      cases other
    · have level_of : sizeLevel e.size = level := size ▸ sizeLevel_of low high
      have outcomes := State.xlat_hit_outcomes hfound later level_of
      rw [← run] at outcomes
      exact outcomes
    · have walked := run.trans (State.xlat_walks (miss.imp_right fun h => ⟨e, h⟩))
      rw [show s.root g text = root from hroot.symm] at walked
      refine ⟨fun other => ?_, fun table ended => ?_⟩
      · rw [State.walk, if_neg (by rw [other]; decide)] at walked
        exact walked
      · rw [State.walk, if_pos table, ended] at walked
        refine ⟨?_, ?_, ?_⟩
        · rintro k rfl
          exact walked
        · rintro cond l rfl
          exact walked
        · rintro rfl
          intro frame bad passes
          obtain ⟨entry, aligned⟩ := State.walkFrom_leaf (by decide) ended
          obtain ⟨refused, judged⟩ := s1.leafCheck_cases g.ctx va pte level text
          refine ⟨fun hb => walked.trans (State.xlatLeaf_refused (refused hb)),
            fun hb hn => walked.trans (State.xlatLeaf_refused ((judged hb).trans (if_neg hn))), fun hb hp => ?_⟩
          have good := (judged hb).trans (if_pos hp)
          obtain ⟨fetch, write, read⟩ := State.xlatLeaf_denied (a := a) (acc := acc) good
          refine ⟨fun hf h7 => walked.trans (fetch hf h7), fun hw h6 => walked.trans (write hw h6),
            fun hf hw h5 => walked.trans (read hf hw h5), fun permitted => ?_⟩
          obtain ⟨t, y, answer, held, fields, dirty, memory⟩ :=
            State.xlatLeaf_permits (a := a) good entry (accessCheck_permits permitted)
          exact ⟨t, y, walked.trans answer, held, fields, dirty, fun paged => memory (aligned paged)⟩
  · intro hl ha hr walk
    refine ⟨fun aligned _ calm => ?_, fun bad => State.walkFrom_unsound hl ha hr bad, fun good hp => ?_⟩
    · have disturbed : Undisturbed s (s.homeGets a 2).2 := by rw [hr]; exact calm
      have answer := State.homeGets_pair disturbed
      have same := (s.homeGets_frame 2 a).sameMemory ((s.homeGets_step 2 a).undisturbed disturbed)
      rw [hr] at answer same
      exact ⟨answer, same⟩
    · exact State.walkFrom_outcomes hl ha hr good hp
  · intro b mine passes
    refine ⟨fun h1 h2 => State.frameOk_doorbell ⟨h1, h2⟩, fun out => ⟨fun h0 => ?_, fun h0 => ?_⟩⟩
    · exact (State.frameOk_elsewhere out).trans (if_pos h0)
    · obtain ⟨near, large, device, pcie, peer⟩ := State.frameOk_places out h0
      refine ⟨fun hpa hs => (near hpa hs).trans (s.regionOk_iff _ _), fun hpa hs => (large hpa hs).trans ?_, device, pcie, peer⟩
      exact forall_congr' fun i => imp_congr_right fun _ => s.regionOk_iff _ _

end

section
/-! A block as its controller sees it (R81 to R86): what keeps that view, what a write of the stacks changes, and what a write of
the block's metadata byte leaves. -/

namespace Sys2Proof.Machine

/-! ### A block's view -/

/-- The stacks, a block's metadata and its place in the overflow buffer are the same in two states. -/
structure BlockKept (blk : Nat) (s t : State) : Prop where
  mem : t.mem = s.mem
  side : t.side = s.side
  marks : t.marks = s.marks
  pa : t.metaPa blk = s.metaPa blk
  seen : t.metaUnit blk = s.metaUnit blk
  parked : t.parked? blk = s.parked? blk

namespace BlockKept

variable {blk : Nat} {s t u : State}

theorem refl (s : State) : BlockKept blk s s := ⟨rfl, rfl, rfl, rfl, rfl, rfl⟩

theorem trans (h : BlockKept blk s t) (g : BlockKept blk t u) : BlockKept blk s u :=
  ⟨g.mem.trans h.mem, g.side.trans h.side, g.marks.trans h.marks, g.pa.trans h.pa, g.seen.trans h.seen, g.parked.trans h.parked⟩

theorem hbmUnit (h : BlockKept blk s t) (a : Nat) : t.hbmUnit a = s.hbmUnit a := State.hbmUnit_congr h.mem h.side h.marks a

theorem metaOf (h : BlockKept blk s t) : t.metaOf blk = s.metaOf blk := State.metaOf_congr h.pa h.seen

theorem metaGood (h : BlockKept blk s t) : t.metaGood blk = s.metaGood blk := by
  unfold State.metaGood
  rw [h.seen, h.metaOf]

theorem coded? (h : BlockKept blk s t) : t.coded? blk = s.coded? blk := by
  unfold State.coded?
  rw [h.seen, h.metaOf, h.parked]

theorem blockUnits (h : BlockKept blk s t) : t.blockUnits blk = s.blockUnits blk := by
  have stream (n : Nat) : t.storedStream blk n = s.storedStream blk n := by
    unfold State.storedStream State.sectorBytes
    rw [h.mem, h.side, h.marks]
  unfold State.blockUnits
  simp only [h.parked, h.metaOf, h.metaGood, h.hbmUnit, stream]

end BlockKept

section Views

variable {s t : State} {blk : Nat}

/-- A block's metadata unit depends on the stacks and on its controller's lines (R82). -/
theorem State.metaUnit_of_mcache (hm : t.mem = s.mem) (hs : t.side = s.side) (hk : t.marks = s.marks)
    (hp : t.metaPa blk = s.metaPa blk)
    (hc : (t.ctl (ctlOfPa (blk * 2048))).mcache = (s.ctl (ctlOfPa (blk * 2048))).mcache) : t.metaUnit blk = s.metaUnit blk := by
  unfold State.metaUnit
  simp only [hp, hc, State.hbmUnit_congr hm hs hk]

/-- The controller of a block holds its metadata line. -/
def State.Caches (s : State) (blk : Nat) : Prop :=
  ∃ us, ((s.ctl (ctlOfPa (blk * 2048))).mcache.find? fun e => e.1 == s.metaPa blk / 64) = some (s.metaPa blk / 64, us)

/-- What a controller holds it sees, whatever the stacks hold (R82). -/
theorem State.Caches.metaUnit (h : s.Caches blk) (hp : t.metaPa blk = s.metaPa blk)
    (hc : (t.ctl (ctlOfPa (blk * 2048))).mcache = (s.ctl (ctlOfPa (blk * 2048))).mcache) : t.metaUnit blk = s.metaUnit blk := by
  obtain ⟨us, h⟩ := h
  unfold State.metaUnit
  simp only [hp, hc, h]

/-- Every metadata line that a controller holds has its 16 granules. -/
def State.LinesWhole (s : State) : Prop := ∀ n, ∀ e ∈ (s.ctl n).mcache, e.2.length = 16

/-- A touched line stands first in its controller's cache, with what the controller saw (R82). -/
theorem State.metaTouch_head (s : State) (blk : Nat) : ∃ us l,
    ((s.metaTouch blk).ctl (ctlOfPa (blk * 2048))).mcache = (s.metaPa blk / 64, us) :: l ∧
      us.getD (s.metaPa blk / 4 % 16) .zero = s.metaUnit blk := by
  unfold State.metaTouch
  simp only
  split
  · next head =>
    obtain ⟨⟨n, us⟩, he, hn⟩ := Option.map_eq_some_iff.1 head
    obtain ⟨l, hl⟩ := List.head?_eq_some_iff.1 he
    obtain rfl : n = s.metaPa blk / 64 := hn
    refine ⟨us, l, hl, ?_⟩
    unfold State.metaUnit
    simp [hl]
  · rw [State.ctl_modCtl_self]
    refine ⟨_, _, rfl, ?_⟩
    unfold State.metaUnit
    cases hf : (s.ctl (ctlOfPa (blk * 2048))).mcache.find? fun e => e.1 == s.metaPa blk / 64 with
    | none =>
      simp only [hf, Option.map_none, Option.getD_none]
      rw [getD_map_span _ _ (by omega)]
      exact State.hbmUnit_granule (by omega)
    | some e => simp [hf]

theorem State.metaTouch_metaPa (s : State) (blk x : Nat) : (s.metaTouch blk).metaPa x = s.metaPa x :=
  State.metaPa_congr (congrArg Osm.czmbase (s.metaTouch_frame blk).osm) x

theorem State.metaTouch_caches (s : State) (blk : Nat) : (s.metaTouch blk).Caches blk := by
  obtain ⟨us, l, hl, -⟩ := s.metaTouch_head blk
  refine ⟨us, ?_⟩
  rw [hl, State.metaTouch_metaPa]
  simp

theorem State.metaTouch_metaUnit (s : State) (blk : Nat) : (s.metaTouch blk).metaUnit blk = s.metaUnit blk := by
  obtain ⟨us, l, hl, hu⟩ := s.metaTouch_head blk
  rw [← hu]
  unfold State.metaUnit
  simp [hl, State.metaTouch_metaPa]

/-- A touched line is one that was held, or one of 16 granules from the table (R82). -/
theorem State.metaTouch_whole (blk : Nat) (h : s.LinesWhole) : (s.metaTouch blk).LinesWhole := by
  unfold State.metaTouch
  simp only
  split
  · exact h
  · intro n e he
    by_cases hn : ctlOfPa (blk * 2048) = n
    · subst hn
      rw [State.ctl_modCtl_self] at he
      rcases List.mem_cons.1 (List.mem_of_mem_take he) with rfl | he
      · cases hf : (s.ctl (ctlOfPa (blk * 2048))).mcache.find? fun e => e.1 == s.metaPa blk / 64 with
        | none => simp [span_eq_range']
        | some x => simpa using h _ x (List.mem_of_find?_eq_some hf)
      · exact h _ e (List.mem_of_mem_filter he)
    · rw [State.ctl_modCtl_ne _ _ hn] at he
      exact h n e he

theorem State.parked?_congr {s t : State} {blk : Nat}
    (h : (t.ctl (ctlOfPa (blk * 2048))).overflow = (s.ctl (ctlOfPa (blk * 2048))).overflow) : t.parked? blk = s.parked? blk := by
  unfold State.parked?
  rw [h]

/-- Bringing a block's metadata line to the front changes nothing of the block. -/
theorem State.metaTouch_kept (s : State) (blk : Nat) : BlockKept blk s (s.metaTouch blk) := by
  obtain ⟨hm, hs, hk, -⟩ := s.metaTouch_stacks blk
  exact ⟨hm, hs, hk, s.metaTouch_metaPa blk blk, s.metaTouch_metaUnit blk, State.parked?_congr (s.metaTouch_overflow blk _)⟩

/-- A report to Osmium changes nothing of a block. -/
theorem State.metaTell_kept (s : State) (blk : Nat) : BlockKept blk s (s.metaTell blk) := by
  unfold State.metaTell
  split
  · exact ⟨rfl, rfl, rfl, rfl, rfl, rfl⟩
  · split
    · exact .refl s
    · exact ⟨rfl, rfl, rfl, rfl, rfl, rfl⟩

theorem State.metaTell_ctls (s : State) (blk : Nat) : (s.metaTell blk).ctls = s.ctls := by
  unfold State.metaTell
  split
  · rfl
  · split <;> rfl

/-- Good metadata are not reported (R81, R82). -/
theorem State.metaTell_good (h : s.metaGood blk = true) : s.metaTell blk = s := by
  unfold State.metaGood at h
  rw [Bool.and_eq_true] at h
  unfold State.metaTell
  simp only [h.1, h.2, Bool.not_true, Bool.false_eq_true, if_false, if_true]

end Views

/-! ### Writes of consecutive units -/

section Writes

variable {s : State}

/-- Reading the stacks after a write of consecutive units (R52). -/
theorem State.hbmUnit_hbmPuts (us : List GUnit) (s : State) (pa a : Nat) : (s.hbmPuts pa us).hbmUnit a =
    if pa / 4 ≤ a / 4 ∧ a / 4 < pa / 4 + us.length then us.getD (a / 4 - pa / 4) .zero else s.hbmUnit a := by
  induction us generalizing s pa with
  | nil => exact (if_neg (by simp)).symm
  | cons u us ih =>
    change ((s.hbmPut pa u).hbmPuts (pa + 4) us).hbmUnit a = _
    rw [ih, State.hbmUnit_hbmPut, show (pa + 4) / 4 = pa / 4 + 1 by omega]
    by_cases first : a / 4 = pa / 4
    · rw [if_neg (by omega), if_pos first, if_pos (by simp; omega), first, Nat.sub_self]
      rfl
    · by_cases later : pa / 4 + 1 ≤ a / 4 ∧ a / 4 < pa / 4 + 1 + us.length
      · rw [if_pos later, if_pos (by simp; omega), show a / 4 - pa / 4 = a / 4 - (pa / 4 + 1) + 1 by omega]
        rfl
      · rw [if_neg later, if_neg first, if_neg (by simp; omega)]

theorem State.hbmPuts_rest (us : List GUnit) (s : State) (pa : Nat) :
    (s.hbmPuts pa us).ctls = s.ctls ∧ (s.hbmPuts pa us).osm = s.osm := by
  induction us generalizing s pa with
  | nil => exact ⟨rfl, rfl⟩
  | cons u us ih => exact ih _ _

/-- Bytes that are put one after another from an address on. -/
theorem get_foldl_put (bs : List Byte) (k a : Nat) (m : List Host.Cell) (x : Nat) :
    Memory.get ((bs.zipIdx k).foldl (fun m x => Memory.put m (a + x.2) x.1) m) x =
      if a + k ≤ x ∧ x < a + k + bs.length then bs.getD (x - (a + k)) 0 else Memory.get m x := by
  induction bs generalizing k m with
  | nil => exact (if_neg (by simp)).symm
  | cons b bs ih =>
    rw [List.zipIdx_cons, List.foldl_cons, ih]
    by_cases first : x = a + k
    · rw [if_neg (by omega), if_pos (by simp; omega), first, Memory.get_put_self, Nat.sub_self]
      rfl
    · rw [Memory.get_put_ne _ _ (Ne.symm first)]
      by_cases later : a + (k + 1) ≤ x ∧ x < a + (k + 1) + bs.length
      · rw [if_pos later, if_pos (by simp; omega), show x - (a + k) = x - (a + (k + 1)) + 1 by omega]
        rfl
      · rw [if_neg later, if_neg (by simp; omega)]

end Writes

end Sys2Proof.Machine
end

section
/-! The streams of compressed blocks, and what sets a block's metadata byte (R81 to R84). -/

namespace Sys2Proof.Machine

/-! ### Streams -/

section Streams

variable {s : State} {a x g : Nat} {bs : List Byte}

/-- The data bytes of the stacks after a sector's bytes are put (R84). -/
theorem State.mem_sectorPut (s : State) (a x : Nat) (bs : List Byte) : Memory.get (s.sectorPut a bs).mem x =
    if a ≤ x ∧ x < a + (bs.take 256).length then (bs.take 256).getD (x - a) 0 else Memory.get s.mem x :=
  get_foldl_put (bs.take 256) 0 a s.mem x

/-- The side band of the stacks after a sector's bytes are put (R84). -/
theorem State.side_sectorPut (s : State) (a g : Nat) (bs : List Byte) : Memory.get (s.sectorPut a bs).side g =
    if a / 4 ≤ g ∧ g < a / 4 + (bs.drop 256).length then (bs.drop 256).getD (g - a / 4) 0 else Memory.get s.side g :=
  get_foldl_put (bs.drop 256) 0 (a / 4) s.side g

/-- A list that a memory holds from an address on. -/
theorem map_span_get {m : List Host.Cell} {n : Nat} {l : List Byte} (h : l.length = n)
    (hm : ∀ x, a ≤ x → x < a + n → Memory.get m x = l.getD (x - a) 0) : (span a n).map (Memory.get m) = l := by
  subst h
  refine List.ext_getElem (by simp [span_eq_range']) fun i hi hl => ?_
  simp only [span_eq_range', List.getElem_map, List.getElem_range', one_mul]
  rw [hm _ (by omega) (by omega), Nat.add_sub_cancel_left, List.getD_eq_getElem _ _ hl]

/-- A sector holds the bytes that were put there (R84). -/
theorem State.sectorBytes_sectorPut (s : State) (a : Nat) (h : bs.length = 320) : (s.sectorPut a bs).sectorBytes a = bs := by
  have data : (bs.take 256).length = 256 := by simp [h]
  have codes : (bs.drop 256).length = 64 := by simp [h]
  unfold State.sectorBytes
  rw [map_span_get data fun x h1 h2 => ?_, map_span_get codes fun x h1 h2 => ?_, List.take_append_drop]
  · rw [State.side_sectorPut, codes, if_pos ⟨h1, h2⟩]
  · rw [State.mem_sectorPut, data, if_pos ⟨h1, h2⟩]

/-- The sectors of a stream leave what lies below them. -/
theorem State.sectorsPut_below (n : Nat) (s : State) (a : Nat) (bs : List Byte) :
    (∀ x, x < a → Memory.get (s.sectorsPut a n bs).mem x = Memory.get s.mem x) ∧
      ∀ g, g < a / 4 → Memory.get (s.sectorsPut a n bs).side g = Memory.get s.side g := by
  induction n generalizing s a bs with
  | zero => exact ⟨fun _ _ => rfl, fun _ _ => rfl⟩
  | succ n ih =>
    obtain ⟨data, codes⟩ := ih (s.sectorPut a (bs.take 320)) (a + 256) (bs.drop 320)
    refine ⟨fun x hx => (data x (by omega)).trans ?_, fun g hg => (codes g (by omega)).trans ?_⟩
    · rw [State.mem_sectorPut, if_neg (by omega)]
    · rw [State.side_sectorPut, if_neg (by omega)]

theorem State.sectorsPut_succ (s : State) (a n : Nat) (bs : List Byte) :
    s.sectorsPut a (n + 1) bs = (s.sectorPut a (bs.take 320)).sectorsPut (a + 256) n (bs.drop 320) := rfl

/-- The first sector of a stream holds its first bytes (R84). -/
theorem State.sectorsPut_first (n : Nat) (s : State) (a : Nat) (h : bs.length = 320 * (n + 1)) :
    (s.sectorsPut a (n + 1) bs).sectorBytes a = bs.take 320 := by
  obtain ⟨data, codes⟩ := State.sectorsPut_below n (s.sectorPut a (bs.take 320)) (a + 256) (bs.drop 320)
  rw [← s.sectorBytes_sectorPut a (show (bs.take 320).length = 320 by rw [List.length_take, h]; omega), State.sectorsPut_succ]
  unfold State.sectorBytes
  congr 1
  · exact List.map_congr_left fun x hx => data x (by have := mem_span.1 hx; omega)
  · exact List.map_congr_left fun g hg => codes g (by have := mem_span.1 hg; omega)

/-- A stream's sectors hold its bytes (R84). -/
theorem State.sectorsPut_stream (n : Nat) (s : State) (b k : Nat) (h : bs.length = 320 * n) :
    (span k n).flatMap (fun j => (s.sectorsPut (b + 256 * k) n bs).sectorBytes (b + 256 * j)) = bs := by
  induction n generalizing s k bs with
  | zero => exact (List.eq_nil_of_length_eq_zero (by omega)).symm
  | succ n ih =>
    have rest := ih (bs := bs.drop 320) (s.sectorPut (b + 256 * k) (bs.take 320)) (k + 1) (by rw [List.length_drop, h]; omega)
    rw [show b + 256 * (k + 1) = b + 256 * k + 256 by omega, ← State.sectorsPut_succ] at rest
    rw [show span k (n + 1) = k :: span (k + 1) n from rfl, List.flatMap_cons, rest, State.sectorsPut_first n s _ h,
      List.take_append_drop]

/-- A stream's sectors hold no mark (R55, R84). -/
theorem State.marks_sectorsPut (n : Nat) (s : State) (a : Nat) (bs : List Byte) :
    ∀ g ∈ (s.sectorsPut a n bs).marks, g ∈ s.marks ∧ ¬(a / 4 ≤ g ∧ g < a / 4 + 64 * n) := by
  induction n generalizing s a bs with
  | zero => exact fun g hg => ⟨hg, by omega⟩
  | succ n ih =>
    intro g hg
    obtain ⟨kept, later⟩ := ih _ _ _ g hg
    obtain ⟨old, outside⟩ := List.mem_filter.1 kept
    refine ⟨old, ?_⟩
    simp only [Bool.not_eq_true', Bool.and_eq_false_iff, decide_eq_false_iff_not] at outside
    omega

/-- A block's sectors hold the stream that was put there (R83, R84). -/
theorem State.storedStream_sectorsPut (s : State) (blk n : Nat) (h : bs.length = 320 * n) :
    (s.sectorsPut (blk * 2048) n bs).storedStream blk n = some (bytesBits bs) := by
  have unmarked : ((s.sectorsPut (blk * 2048) n bs).marks.any fun g =>
      decide (blk * 2048 / 4 ≤ g) && decide (g < blk * 2048 / 4 + 64 * n)) = false := by
    rw [List.any_eq_false]
    intro g hg
    have := (s.marks_sectorsPut n (blk * 2048) bs g hg).2
    simpa using this
  unfold State.storedStream
  simp only [unmarked, Bool.false_eq_true, if_false]
  have stream := s.sectorsPut_stream n (blk * 2048) 0 h
  rw [Nat.mul_zero, Nat.add_zero] at stream
  rw [stream]

theorem State.sectorsPut_rest (n : Nat) (s : State) (a : Nat) (bs : List Byte) :
    (s.sectorsPut a n bs).ctls = s.ctls ∧ (s.sectorsPut a n bs).osm = s.osm := by
  induction n generalizing s a bs with
  | zero => exact ⟨rfl, rfl⟩
  | succ n ih => exact ih _ _ _

theorem length_chunks {α : Type} (n k : Nat) (l : List α) : (chunks n k l).length = k := by
  induction k generalizing l with
  | zero => rfl
  | succ k ih => exact congrArg (· + 1) (ih _)

theorem length_streamBytes (n : Nat) (l : List Bool) : (streamBytes n l).length = n := by
  rw [streamBytes, List.length_map, length_chunks]

end Streams

/-! ### The stacks of one block -/

/-- Two states hold the same in a block's stacks. -/
structure SameBlock (blk : Nat) (s t : State) : Prop where
  mem : ∀ x, x / 2048 = blk → Memory.get t.mem x = Memory.get s.mem x
  side : ∀ g, g / 512 = blk → Memory.get t.side g = Memory.get s.side g
  marks : ∀ g, g / 512 = blk → t.marks.contains g = s.marks.contains g

namespace SameBlock

variable {blk : Nat} {s t : State}

theorem refl (s : State) : SameBlock blk s s := ⟨fun _ _ => rfl, fun _ _ => rfl, fun _ _ => rfl⟩

theorem hbmUnit (h : SameBlock blk s t) {a : Nat} (ha : a / 2048 = blk) : t.hbmUnit a = s.hbmUnit a :=
  State.hbmUnit_of_bytes (fun x _ => h.mem x (by omega)) (h.side _ (by omega)) (h.marks _ (by omega))

theorem storedStream (h : SameBlock blk s t) {n : Nat} (hn : n ≤ 8) : t.storedStream blk n = s.storedStream blk n := by
  have bytes : ((span 0 n).flatMap fun j => t.sectorBytes (blk * 2048 + 256 * j)) =
      (span 0 n).flatMap fun j => s.sectorBytes (blk * 2048 + 256 * j) := by
    refine List.flatMap_congr fun j hj => ?_
    have := mem_span.1 hj
    unfold State.sectorBytes
    congr 1
    · refine List.map_congr_left fun x hx => h.mem x ?_
      have := mem_span.1 hx
      omega
    · refine List.map_congr_left fun g hg => h.side g ?_
      have := mem_span.1 hg
      omega
  have marked : (t.marks.any fun g => decide (blk * 2048 / 4 ≤ g) && decide (g < blk * 2048 / 4 + 64 * n)) =
      s.marks.any fun g => decide (blk * 2048 / 4 ≤ g) && decide (g < blk * 2048 / 4 + 64 * n) := by
    rw [Bool.eq_iff_iff, List.any_eq_true, List.any_eq_true]
    refine exists_congr fun g => and_congr_left fun inside => ?_
    simp only [Bool.and_eq_true, decide_eq_true_eq] at inside
    have same := h.marks g (by omega)
    simpa using same
  unfold State.storedStream
  simp only [marked, bytes]

end SameBlock

/-! ### The metadata byte -/

section Metadata

variable {s t u : State} {blk m : Nat}

/-- What the controllers hold after a write of a metadata granule (R82). -/
theorem State.metaPut_ctl (s : State) (pa : Nat) (u : GUnit) (n : Nat) :
    ((s.metaPut pa u).ctl n).mcache = ((s.ctl n).mcache.map fun e => if e.1 = pa / 64 then (e.1, e.2.set (pa / 4 % 16) u) else e) ∧
      ((s.metaPut pa u).ctl n).overflow = (s.ctl n).overflow :=
  State.ctl_rel (s := s) (t := s.metaPut pa u) (R := fun x y => y.mcache =
    (x.mcache.map fun e => if e.1 = pa / 64 then (e.1, e.2.set (pa / 4 % 16) u) else e) ∧ y.overflow = x.overflow)
    rfl (by exact fun _ => ⟨rfl, rfl, rfl⟩) ⟨rfl, rfl⟩ n

theorem State.metaPut_whole (pa : Nat) (u : GUnit) (h : s.LinesWhole) : (s.metaPut pa u).LinesWhole := by
  intro n e he
  rw [(s.metaPut_ctl pa u n).1] at he
  obtain ⟨x, hx, rfl⟩ := List.mem_map.1 he
  have := h n x hx
  split <;> simpa

/-- A line that a controller holds stays held, with the granule that was written (R82). -/
theorem State.metaPut_line (u : GUnit) {us : List GUnit}
    (h : ((s.ctl (ctlOfPa (blk * 2048))).mcache.find? fun e => e.1 == s.metaPa blk / 64) = some (s.metaPa blk / 64, us)) :
    (((s.metaPut (s.metaPa blk) u).ctl (ctlOfPa (blk * 2048))).mcache.find? fun e => e.1 == s.metaPa blk / 64) =
      some (s.metaPa blk / 64, us.set (s.metaPa blk / 4 % 16) u) := by
  have keys : ((fun e : Nat × List GUnit => e.1 == s.metaPa blk / 64) ∘ fun e : Nat × List GUnit =>
      if e.1 = s.metaPa blk / 64 then (e.1, e.2.set (s.metaPa blk / 4 % 16) u) else e) = fun e => e.1 == s.metaPa blk / 64 := by
    funext e
    dsimp only [Function.comp]
    split <;> rfl
  rw [(s.metaPut_ctl _ u _).1, List.find?_map, keys, h]
  simp

/-- A block's metadata byte is set, in the cached line and in the table, and no block is parked or taken from the overflow buffer
(R82). -/
structure MetaSet (blk m : Nat) (s t : State) : Prop where
  byte : t.metaOf blk = BitVec.ofNat 8 m
  good : (t.metaUnit blk).ok = true
  whole : t.LinesWhole
  caches : t.Caches blk
  pa : t.metaPa blk = s.metaPa blk
  overflow : ∀ n, (t.ctl n).overflow = (s.ctl n).overflow

/-- What changes neither the controllers nor Osmium's registers keeps it. -/
theorem MetaSet.of_ctls (h : MetaSet blk m s t) (hc : u.ctls = t.ctls) (ho : u.osm = t.osm) : MetaSet blk m s u := by
  have ctl (n : Nat) : u.ctl n = t.ctl n := by unfold State.ctl; rw [hc]
  have pa : u.metaPa blk = t.metaPa blk := State.metaPa_congr (congrArg Osm.czmbase ho) blk
  have seen : u.metaUnit blk = t.metaUnit blk := h.caches.metaUnit pa (by rw [ctl])
  refine ⟨(State.metaOf_congr pa seen).trans h.byte, seen ▸ h.good, fun n e he => h.whole n e (ctl n ▸ he), ?_, pa.trans h.pa,
    fun n => by rw [ctl, h.overflow]⟩
  obtain ⟨us, line⟩ := h.caches
  exact ⟨us, by rw [ctl, pa, line]⟩

/-- The byte of a granule that was put there. -/
theorem byte_replaced {d o x i : Nat} (hd : d < 2 ^ 32) (ho : o = d / 256 ^ i % 256) (hx : x < 256) (hi : i < 4) :
    (d - o * 256 ^ i + x * 256 ^ i) % 2 ^ 32 / 256 ^ i % 256 = x := by
  subst ho
  interval_cases i <;> omega

/-- The granule with a block's byte replaced is written to the line that its controller holds (R82). -/
theorem State.metaPut_sets (caches : s.Caches blk) (whole : s.LinesWhole) (hm : m < 256) :
    MetaSet blk m s (s.metaPut (s.metaPa blk) (coded (BitVec.ofNat 32 ((s.metaUnit blk).data.toNat -
      (s.metaUnit blk).data.toNat / 256 ^ (s.metaPa blk % 4) % 256 * 256 ^ (s.metaPa blk % 4) +
        m % 256 * 256 ^ (s.metaPa blk % 4))))) := by
  obtain ⟨us, line⟩ := caches
  generalize hw : BitVec.ofNat 32 _ = w
  have pa : (s.metaPut (s.metaPa blk) (coded w)).metaPa blk = s.metaPa blk := rfl
  have held := State.metaPut_line (coded w) line
  have width : us.length = 16 := whole _ _ (List.mem_of_find?_eq_some line)
  have seen : (s.metaPut (s.metaPa blk) (coded w)).metaUnit blk = coded w := by
    unfold State.metaUnit
    simp only [pa, held]
    rw [List.getD_eq_getElem _ _ (by rw [List.length_set, width]; omega), List.getElem_set_self]
  refine ⟨?_, (congrArg GUnit.ok seen).trans (coded_ok w), State.metaPut_whole _ _ whole, ⟨_, held⟩, pa,
    fun n => (s.metaPut_ctl _ _ n).2⟩
  have byte := byte_replaced (s.metaUnit blk).data.isLt (i := s.metaPa blk % 4) rfl hm (by omega)
  apply BitVec.eq_of_toNat_eq
  rw [State.metaOf, pa, seen, BitVec.toNat_ofNat, BitVec.toNat_ofNat, Nat.mod_eq_of_lt hm, ← byte]
  simp only [coded, ← hw, BitVec.toNat_ofNat, Nat.mod_eq_of_lt hm]

/-- A block's metadata byte is set where its granule passes its check, and nothing else of the stacks is written (R82). -/
theorem State.setMeta_sets (size allot : Nat) (good : (s.metaUnit blk).ok = true) (whole : s.LinesWhole)
    (hm : 16 * size + allot < 256) : MetaSet blk (16 * size + allot) s (s.setMeta blk size allot) ∧
      (s.setMeta blk size allot = s.metaTouch blk ∨
        ∃ u, s.setMeta blk size allot = (s.metaTouch blk).metaPut (s.metaPa blk) u) := by
  have pa := s.metaTouch_metaPa blk blk
  have seen := s.metaTouch_metaUnit blk
  have touched := s.metaTouch_whole blk whole
  unfold State.setMeta
  simp only [pa, seen, good, Bool.not_true, Bool.false_eq_true, false_or]
  split
  · next same =>
    refine ⟨⟨?_, seen ▸ good, touched, s.metaTouch_caches blk, pa, s.metaTouch_overflow blk⟩, .inl rfl⟩
    rw [State.metaOf, pa, seen, ← same]
    exact BitVec.eq_of_toNat_eq (by rw [BitVec.toNat_ofNat, BitVec.toNat_ofNat, Nat.mod_mod])
  · have put := State.metaPut_sets (s.metaTouch_caches blk) touched hm
    rw [pa, seen] at put
    obtain ⟨byte, ok, whole, caches, pa', overflow⟩ := put
    exact ⟨⟨byte, ok, whole, caches, pa'.trans pa, fun n => (overflow n).trans (s.metaTouch_overflow blk n)⟩, .inr ⟨_, rfl⟩⟩

/-- The stacks after a block's metadata byte is set: only its own granule may differ (R82). -/
theorem State.setMeta_hbmUnit (size allot : Nat) (good : (s.metaUnit blk).ok = true) (whole : s.LinesWhole)
    (hm : 16 * size + allot < 256) {a : Nat} (ha : a / 4 ≠ s.metaPa blk / 4) :
    (s.setMeta blk size allot).hbmUnit a = s.hbmUnit a := by
  have touched := (s.metaTouch_kept blk).hbmUnit a
  rcases (State.setMeta_sets size allot good whole hm).2 with h | ⟨u, h⟩
  · rw [h, touched]
  · rw [h, ← touched]
    exact (State.hbmUnit_hbmPut ..).trans (if_neg ha)

/-- A block whose metadata stand in another block keeps its stacks (R81). -/
theorem State.setMeta_sameBlock (size allot : Nat) (good : (s.metaUnit blk).ok = true) (whole : s.LinesWhole)
    (hm : 16 * size + allot < 256) (away : s.metaPa blk / 2048 ≠ blk) : SameBlock blk s (s.setMeta blk size allot) := by
  obtain ⟨mem, side, marks, -⟩ := s.metaTouch_stacks blk
  rcases (State.setMeta_sets size allot good whole hm).2 with h | ⟨u, h⟩
  · rw [h]
    exact ⟨fun _ _ => by rw [mem], fun _ _ => by rw [side], fun _ _ => by rw [marks]⟩
  · rw [h]
    refine ⟨fun x hx => ?_, fun g hg => ?_, fun g hg => ?_⟩
    · rw [← mem]
      exact State.get_hbmPut_ne _ _ (by omega)
    · rw [← side]
      exact Memory.get_put_ne _ _ (by omega)
    · rw [← marks]
      exact (State.marks_hbmPut ..).trans (if_neg (by omega))

end Metadata

end Sys2Proof.Machine
end

section
/-! The conversion of a block to another allotment (R89): where its units go, and what its metadata and the overflow buffer hold
afterwards. -/

namespace Sys2Proof.Machine

variable {s w : State} {blk m allot : Nat}

/-! ### A block taken from the overflow buffer -/

theorem State.metaUnit_unpark (s : State) (blk : Nat) : (s.unpark blk).metaUnit blk = s.metaUnit blk := by
  obtain ⟨hm, hs, hk⟩ := s.unpark_stacks blk
  exact State.metaUnit_of_mcache hm hs hk (s.unpark_metaPa blk blk) (s.unpark_ctl blk _).1

theorem State.unpark_whole (blk : Nat) (h : s.LinesWhole) : (s.unpark blk).LinesWhole := fun n e he =>
  h n e ((s.unpark_ctl blk n).1 ▸ he)

theorem State.unpark_none (h : s.parked? blk = none) : s.unpark blk = s := by
  unfold State.unpark
  rw [h]

/-! ### A block put in the overflow buffer -/

/-- A block is parked at an entry of its controller's overflow buffer (R85). -/
def State.parkAt (s : State) (blk need i : Nat) (us : List GUnit) : State :=
  s.modCtl (ctlOfPa (blk * 2048)) fun c => { c with overflow := c.overflow.set i ⟨blk, us, need, true⟩ }

section Parked

variable {need i : Nat} {us : List GUnit} {p : Parked}

theorem State.park_own (h : s.parked? blk = some (i, p)) : s.park blk us need = some (s.parkAt blk need i us) := by
  unfold State.park
  simp only [h]
  rfl

theorem State.park_full (h : s.parked? blk = none)
    (full : ∀ i, i < 64 → ((s.ctl (ctlOfPa (blk * 2048))).overflow.find i).isSome = true) : s.park blk us need = none := by
  have none : ((span 0 64).find? fun i => ((s.ctl (ctlOfPa (blk * 2048))).overflow.find i).isNone) = none := by
    rw [List.find?_eq_none]
    intro i hi
    have := full i (by have := mem_span.1 hi; omega)
    simpa [Option.isSome_iff_ne_none] using this
  unfold State.park
  simp only [h, none]

theorem State.park_free (h : s.parked? blk = none) (free : ∃ i, i < 64 ∧ (s.ctl (ctlOfPa (blk * 2048))).overflow.find i = none) :
    ∃ i, s.park blk us need = some (s.parkAt blk need i us) ∧ i < 64 ∧ (s.ctl (ctlOfPa (blk * 2048))).overflow.find i = none := by
  obtain ⟨j, hj, empty⟩ := free
  cases found : (span 0 64).find? fun i => ((s.ctl (ctlOfPa (blk * 2048))).overflow.find i).isNone with
  | none => exact absurd (List.find?_eq_none.1 found j (mem_span.2 (by omega))) (by simp [empty])
  | some i =>
    refine ⟨i, ?_, by have := mem_span.1 (List.mem_of_find?_eq_some found); omega, by simpa using List.find?_some found⟩
    unfold State.park
    simp only [h, found]
    rfl

theorem State.parkAt_ctl (s : State) (blk need i : Nat) (us : List GUnit) (n : Nat) :
    ((s.parkAt blk need i us).ctl n).mcache = (s.ctl n).mcache := by
  by_cases hn : ctlOfPa (blk * 2048) = n
  · subst hn
    unfold State.parkAt
    rw [State.ctl_modCtl_self]
  · exact congrArg Ctl.mcache (State.ctl_modCtl_ne _ _ hn)

theorem State.parkAt_whole (h : s.LinesWhole) : (s.parkAt blk need i us).LinesWhole := fun n e he =>
  h n e (s.parkAt_ctl blk need i us n ▸ he)

theorem State.parkAt_metaUnit (s : State) (blk need i : Nat) (us : List GUnit) :
    (s.parkAt blk need i us).metaUnit blk = s.metaUnit blk := State.metaUnit_of_mcache rfl rfl rfl rfl (s.parkAt_ctl ..)

theorem State.parkAt_overflow (s : State) (blk need i : Nat) (us : List GUnit) :
    ((s.parkAt blk need i us).ctl (ctlOfPa (blk * 2048))).overflow =
      (s.ctl (ctlOfPa (blk * 2048))).overflow.set i ⟨blk, us, need, true⟩ := congrArg Ctl.overflow (State.ctl_modCtl_self ..)

theorem State.parkAt_parked (s : State) (blk need i : Nat) (us : List GUnit) :
    ((s.parkAt blk need i us).parked? blk).isSome = true := by
  have here := Map.mem_of_find (Map.find_set_self (s.ctl (ctlOfPa (blk * 2048))).overflow i ⟨blk, us, need, true⟩)
  unfold State.parked?
  rw [s.parkAt_overflow, List.find?_isSome]
  exact ⟨_, here, by simp⟩

end Parked

/-! ### The conversion -/

/-- A block that is in the overflow buffer once its units are placed has its new allotment written for it (R89). -/
def State.settled (s : State) (blk allot : Nat) : State := if (s.parked? blk).isSome then s.setMeta blk 0 allot else s

/-- A conversion writes the units that the block held (R89). -/
theorem State.convertBlock_eq (s : State) (blk allot : Nat) : s.convertBlock blk allot =
    (((s.metaTouch blk).metaTell blk).blockWrite blk allot (s.blockUnits blk)).map fun t => t.settled blk allot := by
  rw [← ((s.metaTouch_kept blk).trans (State.metaTell_kept _ blk)).blockUnits]
  rfl

theorem State.settled_none (h : s.parked? blk = none) : s.settled blk allot = s := if_neg (by rw [h]; exact Bool.false_ne_true)

/-- The write of the allotment of a block that stayed parked leaves the block's stacks (R89). -/
theorem MetaSet.settled_sameBlock (h : MetaSet blk m s w) (away : s.metaPa blk / 2048 ≠ blk) (ha : allot < 256) :
    SameBlock blk w (w.settled blk allot) := by
  unfold State.settled
  split
  · exact State.setMeta_sameBlock 0 allot h.good h.whole (by omega) (by rwa [h.pa])
  · exact .refl w

/-- A block whose metadata already name the allotment keeps them (R89). -/
theorem MetaSet.settled_byte (h : MetaSet blk allot s w) (ha : allot < 256) :
    (w.settled blk allot).metaOf blk = BitVec.ofNat 8 allot := by
  unfold State.settled
  split
  · exact (State.setMeta_sets 0 allot h.good h.whole (by omega)).1.byte.trans (by rw [Nat.mul_zero, Nat.zero_add])
  · exact h.byte

theorem MetaSet.parked? (h : MetaSet blk m s w) : w.parked? blk = s.parked? blk := State.parked?_congr (h.overflow _)

/-- A block that is parked gets its new allotment, and stays at its entry (R85, R89). -/
theorem State.settled_parkAt (need i : Nat) (us : List GUnit) (good : (s.metaUnit blk).ok = true) (whole : s.LinesWhole)
    (ha : allot < 256) :
    let t := (s.parkAt blk need i us).settled blk allot
    (t.ctl (ctlOfPa (blk * 2048))).overflow.find i = some ⟨blk, us, need, true⟩ ∧ t.metaOf blk = BitVec.ofNat 8 allot ∧
      ∀ a, a / 4 ≠ s.metaPa blk / 4 → t.hbmUnit a = s.hbmUnit a := by
  have good' := (congrArg GUnit.ok (s.parkAt_metaUnit blk need i us)).trans good
  have whole' : (s.parkAt blk need i us).LinesWhole := State.parkAt_whole whole
  have sets := (State.setMeta_sets 0 allot good' whole' (by omega)).1
  unfold State.settled
  rw [if_pos (s.parkAt_parked ..)]
  refine ⟨?_, ?_, fun a far => ?_⟩
  · rw [sets.overflow, s.parkAt_overflow, Map.find_set_self]
  · rw [sets.byte, Nat.mul_zero, Nat.zero_add]
  · exact State.setMeta_hbmUnit 0 allot good' whole' (by omega) far

/-- The units of a block that is written plainly (R52, R83). -/
theorem State.hbmPuts_block (s : State) {us : List GUnit} (h : us.length = 512) {i : Nat} (hi : i < 512) :
    (s.hbmPuts (blk * 2048) us).hbmUnit (blk * 2048 + 4 * i) = us.getD i .zero := by
  rw [State.hbmUnit_hbmPuts, if_pos (by omega), show (blk * 2048 + 4 * i) / 4 - blk * 2048 / 4 = i by omega]

theorem blockSize_le (us : List GUnit) : blockSize us ≤ 8 := by
  unfold blockSize
  simp only
  split
  · omega
  · split <;> omega

section Convert

/-- A block that a conversion looks at is as it was, with its lines whole (R82, R89). -/
theorem State.convert_ready (whole : s.LinesWhole) (blk : Nat) : BlockKept blk s ((s.metaTouch blk).metaTell blk) ∧
    ((s.metaTouch blk).metaTell blk).LinesWhole ∧ ∀ n, (((s.metaTouch blk).metaTell blk).ctl n).overflow = (s.ctl n).overflow := by
  have ctl (n : Nat) : ((s.metaTouch blk).metaTell blk).ctl n = (s.metaTouch blk).ctl n := by
    unfold State.ctl
    rw [State.metaTell_ctls]
  refine ⟨(s.metaTouch_kept blk).trans (State.metaTell_kept _ blk), fun n e he => ?_, fun n => ?_⟩
  · exact State.metaTouch_whole blk whole n e (ctl n ▸ he)
  · rw [ctl, s.metaTouch_overflow]

variable (whole : s.LinesWhole) (good : (s.metaUnit blk).ok = true) (away : s.metaPa blk / 2048 ≠ blk)

include whole good away

/-- A block that is written to its new place: its metadata byte, its stacks after the settling, and the overflow buffer (R83, R89). -/
theorem State.placed (size : Nat) (hm : 16 * size + allot < 256) (hc : w.ctls = ((s.unpark blk).setMeta blk size allot).ctls)
    (ho : w.osm = ((s.unpark blk).setMeta blk size allot).osm) :
    MetaSet blk (16 * size + allot) (s.unpark blk) w ∧ SameBlock blk w (w.settled blk allot) ∧
      (s.parked? blk = none → (w.settled blk allot).metaOf blk = BitVec.ofNat 8 (16 * size + allot) ∧
        (w.settled blk allot).parked? blk = none) := by
  have sets := (State.setMeta_sets (s := s.unpark blk) size allot (by rwa [State.metaUnit_unpark]) (State.unpark_whole blk whole)
    hm).1.of_ctls hc ho
  refine ⟨sets, sets.settled_sameBlock (by rwa [State.unpark_metaPa]) (by omega), fun h => ?_⟩
  have none : w.parked? blk = none := by rw [sets.parked?, State.unpark_none h, h]
  rw [State.settled_none none]
  exact ⟨sets.byte, none⟩

section Write

variable {us : List GUnit} (length : us.length = 512)

include length

/-- A block whose new allotment is 0 holds its units plainly (R83, R89). -/
theorem State.blockWrite_plain : ∃ w, s.blockWrite blk 0 us = some w ∧ (w.settled blk 0).metaOf blk = 0 ∧
    (∀ i, i < 512 → (w.settled blk 0).hbmUnit (blk * 2048 + 4 * i) = us.getD i .zero) ∧
    (s.parked? blk = none → (w.settled blk 0).parked? blk = none) := by
  obtain ⟨hc, ho⟩ := State.hbmPuts_rest us ((s.unpark blk).setMeta blk 0 0) (blk * 2048)
  obtain ⟨sets, same, clear⟩ := State.placed whole good away 0 (by omega) hc ho
  refine ⟨_, if_pos rfl, sets.settled_byte (by omega), fun i hi => ?_, fun h => (clear h).2⟩
  rw [same.hbmUnit (by omega), State.hbmPuts_block _ length hi]

/-- A block that fits in its new allotment holds its units there, plainly in eight sectors, else as a stream (R83, R84, R89). -/
theorem State.blockWrite_fits (ha : allot ≤ 8) (h0 : allot ≠ 0) (fits : blockSize us ≤ allot) :
    ∃ w, s.blockWrite blk allot us = some w ∧
      (s.parked? blk = none → (w.settled blk allot).metaOf blk = BitVec.ofNat 8 (16 * blockSize us + allot) ∧
        (w.settled blk allot).parked? blk = none) ∧
      (blockSize us = 8 → ∀ i, i < 512 → (w.settled blk allot).hbmUnit (blk * 2048 + 4 * i) = us.getD i .zero) ∧
      (blockSize us ≠ 8 → (w.settled blk allot).storedStream blk (blockSize us) =
        some (bytesBits (streamBytes (320 * blockSize us) (encodeBlock us)))) := by
  unfold State.blockWrite
  simp only [h0, if_false, if_neg (Nat.not_lt.2 fits)]
  split
  · next full =>
    obtain ⟨hc, ho⟩ := State.hbmPuts_rest us ((s.unpark blk).setMeta blk (blockSize us) allot) (blk * 2048)
    obtain ⟨-, same, clear⟩ := State.placed whole good away (blockSize us) (by omega) hc ho
    refine ⟨_, rfl, clear, fun _ i hi => ?_, fun part => absurd full part⟩
    rw [same.hbmUnit (by omega), State.hbmPuts_block _ length hi]
  · next part =>
    obtain ⟨hc, ho⟩ := State.sectorsPut_rest (blockSize us) ((s.unpark blk).setMeta blk (blockSize us) allot) (blk * 2048)
      (streamBytes (320 * blockSize us) (encodeBlock us))
    obtain ⟨-, same, clear⟩ := State.placed whole good away (blockSize us) (by omega) hc ho
    refine ⟨_, rfl, clear, fun full => absurd full part, fun _ => ?_⟩
    rw [same.storedStream (blockSize_le us), State.storedStream_sectorsPut _ _ _ (length_streamBytes _ _)]

end Write

end Convert

/-- A block that does not fit in its new allotment is to be parked (R85, R89). -/
theorem State.blockWrite_park {us : List GUnit} (h0 : allot ≠ 0) (big : allot < blockSize us) :
    s.blockWrite blk allot us = s.park blk us (blockSize us) := by
  unfold State.blockWrite
  simp only [h0, if_false, if_pos big]

section Conversions

variable (whole : s.LinesWhole) (good : (s.metaUnit blk).ok = true)

section Held

variable (away : s.metaPa blk / 2048 ≠ blk) (length : (s.blockUnits blk).length = 512)

include whole good away length

/-- A conversion to allotment 0 (R89). -/
theorem State.convertBlock_plain : ∃ t, s.convertBlock blk 0 = some t ∧ t.metaOf blk = 0 ∧
    (∀ i, i < 512 → t.hbmUnit (blk * 2048 + 4 * i) = (s.blockUnits blk).getD i .zero) ∧
    (s.parked? blk = none → t.parked? blk = none) := by
  obtain ⟨kept, whole0, -⟩ := State.convert_ready whole blk
  obtain ⟨w, write, held⟩ := State.blockWrite_plain whole0 (by rwa [kept.seen]) (by rwa [kept.pa]) length
  rw [kept.parked] at held
  exact ⟨_, by rw [State.convertBlock_eq, write]; rfl, held⟩

/-- A conversion to an allotment that the block fits in (R89). -/
theorem State.convertBlock_fits (ha : allot ≤ 8) (h0 : allot ≠ 0) (fits : blockSize (s.blockUnits blk) ≤ allot) :
    ∃ t, s.convertBlock blk allot = some t ∧
      (s.parked? blk = none → t.metaOf blk = BitVec.ofNat 8 (16 * blockSize (s.blockUnits blk) + allot) ∧ t.parked? blk = none) ∧
      (blockSize (s.blockUnits blk) = 8 → ∀ i, i < 512 → t.hbmUnit (blk * 2048 + 4 * i) = (s.blockUnits blk).getD i .zero) ∧
      (blockSize (s.blockUnits blk) ≠ 8 → t.storedStream blk (blockSize (s.blockUnits blk)) =
        some (bytesBits (streamBytes (320 * blockSize (s.blockUnits blk)) (encodeBlock (s.blockUnits blk))))) := by
  obtain ⟨kept, whole0, -⟩ := State.convert_ready whole blk
  obtain ⟨w, write, held⟩ := State.blockWrite_fits whole0 (by rwa [kept.seen]) (by rwa [kept.pa]) length ha h0 fits
  rw [kept.parked] at held
  exact ⟨_, by rw [State.convertBlock_eq, write]; rfl, held⟩

end Held

section Parks

variable (ha : allot ≤ 8) (h0 : allot ≠ 0) (big : allot < blockSize (s.blockUnits blk))

include whole h0 big

/-- A conversion that does not fit waits while the overflow buffer is full (R86, R89). -/
theorem State.convertBlock_full (loose : s.parked? blk = none)
    (full : ∀ i, i < 64 → ((s.ctl (ctlOfPa (blk * 2048))).overflow.find i).isSome = true) : s.convertBlock blk allot = none := by
  obtain ⟨kept, -, overflow⟩ := State.convert_ready whole blk
  rw [State.convertBlock_eq, State.blockWrite_park h0 big, State.park_full (kept.parked.trans loose) (by rwa [overflow])]
  rfl

include good ha

/-- A conversion that does not fit parks the block at a free entry (R85, R89). -/
theorem State.convertBlock_free (loose : s.parked? blk = none)
    (free : ∃ i, i < 64 ∧ (s.ctl (ctlOfPa (blk * 2048))).overflow.find i = none) : ∃ t i, s.convertBlock blk allot = some t ∧
      i < 64 ∧ (s.ctl (ctlOfPa (blk * 2048))).overflow.find i = none ∧
      (t.ctl (ctlOfPa (blk * 2048))).overflow.find i = some ⟨blk, s.blockUnits blk, blockSize (s.blockUnits blk), true⟩ ∧
      t.metaOf blk = BitVec.ofNat 8 allot ∧ ∀ a, a / 4 ≠ s.metaPa blk / 4 → t.hbmUnit a = s.hbmUnit a := by
  obtain ⟨kept, whole0, overflow⟩ := State.convert_ready whole blk
  rw [← overflow] at free
  obtain ⟨i, park, hi, empty⟩ := State.park_free (us := s.blockUnits blk) (need := blockSize (s.blockUnits blk))
    (kept.parked.trans loose) free
  obtain ⟨entry, byte, frame⟩ := State.settled_parkAt (blockSize (s.blockUnits blk)) i (s.blockUnits blk)
    (by rwa [kept.seen]) whole0 (show allot < 256 by omega)
  refine ⟨_, i, by rw [State.convertBlock_eq, State.blockWrite_park h0 big, park]; rfl, hi, overflow _ ▸ empty, entry, byte,
    fun a far => (frame a (by rwa [kept.pa])).trans (kept.hbmUnit a)⟩

/-- A conversion that does not fit keeps a parked block at its entry (R85, R89). -/
theorem State.convertBlock_own {i : Nat} {p : Parked} (own : s.parked? blk = some (i, p)) : ∃ t, s.convertBlock blk allot = some t ∧
      (t.ctl (ctlOfPa (blk * 2048))).overflow.find i = some ⟨blk, s.blockUnits blk, blockSize (s.blockUnits blk), true⟩ ∧
      t.metaOf blk = BitVec.ofNat 8 allot := by
  obtain ⟨kept, whole0, -⟩ := State.convert_ready whole blk
  obtain ⟨entry, byte, -⟩ := State.settled_parkAt (blockSize (s.blockUnits blk)) i (s.blockUnits blk)
    (by rwa [kept.seen]) whole0 (show allot < 256 by omega)
  exact ⟨_, by rw [State.convertBlock_eq, State.blockWrite_park h0 big, State.park_own (kept.parked.trans own)]; rfl, entry, byte⟩

end Parks

end Conversions

end Sys2Proof.Machine
end

section
/-! Lines of blocks that lie plainly in the stacks: what a write-back puts there (R75, R85). -/

namespace Sys2Proof.Machine

/-! ### Merging a line -/

/-- What a write of the stacks leaves alone: the home slice, the cores, the dies' registers and the messages. -/
structure StacksOnly (s t : State) : Prop where
  l2 : t.l2 = s.l2
  cores : t.cores = s.cores
  dies : t.dies = s.dies
  out : t.out = s.out

theorem StacksOnly.trans {s t u : State} (h : StacksOnly s t) (g : StacksOnly t u) : StacksOnly s u :=
  ⟨g.l2.trans h.l2, g.cores.trans h.cores, g.dies.trans h.dies, g.out.trans h.out⟩

/-- A line's granule is put in the stacks if it is dirty (R75). -/
def State.mergeGranule (line : Nat) (us : List GUnit) (dirty : BitVec 32) (s : State) (i : Nat) : State :=
  if dirty.getLsbD i then s.hbmPut (line * 128 + 4 * i) (us.getD i .zero) else s

section Merge

variable {s t : State} {line pa a : Nat} {us : List GUnit} {dirty : BitVec 32}

theorem State.mergeGranule_only (s : State) (i : Nat) : StacksOnly s (s.mergeGranule line us dirty i) := by
  unfold State.mergeGranule
  split <;> exact ⟨rfl, rfl, rfl, rfl⟩

theorem State.hbmUnit_mergeGranule (s : State) (i : Nat) : (s.mergeGranule line us dirty i).hbmUnit a =
    if a / 4 = line * 32 + i ∧ dirty.getLsbD i then us.getD i .zero else s.hbmUnit a := by
  unfold State.mergeGranule
  split
  · next marked => simp only [State.hbmUnit_hbmPut, marked, and_true, show (line * 128 + 4 * i) / 4 = line * 32 + i by omega]
  · next clean => rw [if_neg fun h => clean h.2]

/-- A line's dirty granules in the stacks after they are put there (R75). -/
theorem State.mergeGranules (n k : Nat) (s : State) :
    StacksOnly s ((span k n).foldl (State.mergeGranule line us dirty) s) ∧
      ((span k n).foldl (State.mergeGranule line us dirty) s).hbmUnit a =
        if line * 32 + k ≤ a / 4 ∧ a / 4 < line * 32 + k + n ∧ dirty.getLsbD (a / 4 - line * 32) then
          us.getD (a / 4 - line * 32) .zero
        else s.hbmUnit a := by
  induction n generalizing k s with
  | zero => exact ⟨⟨rfl, rfl, rfl, rfl⟩, (if_neg (by omega)).symm⟩
  | succ n ih =>
    obtain ⟨only, units⟩ := ih (k + 1) (s.mergeGranule line us dirty k)
    refine ⟨(s.mergeGranule_only k).trans only, ?_⟩
    change ((span (k + 1) n).foldl _ (s.mergeGranule line us dirty k)).hbmUnit a = _
    rw [units, State.hbmUnit_mergeGranule]
    by_cases here : a / 4 = line * 32 + k
    · rw [if_neg (by omega), here, Nat.add_sub_cancel_left]
      exact if_congr ⟨fun h => ⟨le_rfl, by omega, h.2⟩, fun h => ⟨rfl, h.2.2⟩⟩ rfl rfl
    · rw [if_neg (c := _ ∧ _) fun h => here h.1]
      exact if_congr ⟨fun ⟨lo, hi, marked⟩ => ⟨by omega, by omega, marked⟩,
        fun ⟨lo, hi, marked⟩ => ⟨by omega, by omega, marked⟩⟩ rfl rfl

theorem State.metaTouch_only (s : State) (blk : Nat) : StacksOnly s (s.metaTouch blk) := by
  unfold State.metaTouch
  simp only
  split <;> exact ⟨rfl, rfl, rfl, rfl⟩

/-- A plain block's line is looked up: the block is as it was, and nothing is reported (R75, R82). -/
theorem State.Plain.looked (h : s.Plain (128 * line)) : StacksOnly s ((s.metaTouch (line / 16)).metaTell (line / 16)) ∧
    (∀ a, ((s.metaTouch (line / 16)).metaTell (line / 16)).hbmUnit a = s.hbmUnit a) ∧
    ((s.metaTouch (line / 16)).metaTell (line / 16)).Plain (128 * line) := by
  have kept := s.metaTouch_kept (line / 16)
  obtain ⟨loose, good⟩ := h
  rw [show 128 * line / 2048 = line / 16 by omega] at loose good
  rw [State.metaTell_good (kept.metaGood.trans good)]
  refine ⟨s.metaTouch_only _, kept.hbmUnit, ?_⟩
  unfold State.Plain
  rw [show 128 * line / 2048 = line / 16 by omega]
  exact ⟨kept.coded?.trans loose, kept.metaGood.trans good⟩

/-- A plain block's line takes its dirty granules as they are (R75, R85). -/
theorem State.ctlMerge_plain (h : s.Plain (128 * line)) (us : List GUnit) (dirty : BitVec 32) :
    ∃ t, s.ctlMerge line us dirty = some t ∧ StacksOnly s t ∧ ∀ a, t.hbmUnit a =
      if a / 128 = line ∧ dirty.getLsbD (a / 4 % 32) then us.getD (a / 4 % 32) .zero else s.hbmUnit a := by
  obtain ⟨only, units, loose, -⟩ := h.looked
  rw [show 128 * line / 2048 = line / 16 by omega] at loose
  have put (a : Nat) := State.mergeGranules (line := line) (us := us) (dirty := dirty) (a := a) 32 0
    ((s.metaTouch (line / 16)).metaTell (line / 16))
  refine ⟨_, if_neg (by rw [loose]; exact Bool.false_ne_true), only.trans (put 0).1, fun a => (put a).2.trans ?_⟩
  rw [units]
  by_cases inside : a / 128 = line
  · rw [show a / 4 - line * 32 = a / 4 % 32 by omega]
    exact if_congr ⟨fun h => ⟨inside, h.2.2⟩, fun h => ⟨by omega, by omega, h.2⟩⟩ rfl rfl
  · rw [if_neg (by omega), if_neg fun h => inside h.1]

/-- The controller hands out a plain block's line as the stacks hold it (R75). -/
theorem State.Plain.ctlLine (h : s.Plain (128 * line)) : s.ctlLine line = (span 0 32).map fun i => s.hbmUnit (line * 128 + 4 * i) := by
  obtain ⟨loose, good⟩ := h
  rw [show 128 * line / 2048 = line / 16 by omega] at loose good
  unfold State.ctlLine
  rw [loose, good]
  rfl

/-- The write-back of a plain block's line leaves its dirty granules in the stacks (R75). -/
theorem State.l2Back_plain {l : L2Line} (h : s.Plain (128 * line)) (present : s.l2.find line = some l) :
    ∃ t, s.l2Back line = some t ∧ t.l2.find line = some { l with dirty := 0 } ∧ t.cores = s.cores ∧
      (∀ i, i < 32 → t.hbmUnit (128 * line + 4 * i) =
        if l.dirty.getLsbD i = true then l.units.getD i .zero else s.hbmUnit (128 * line + 4 * i)) ∧
      ∀ a, a / 128 ≠ line → t.hbmUnit a = s.hbmUnit a := by
  unfold State.l2Back
  simp only [present]
  split
  · next clean =>
    refine ⟨s, rfl, ?_, rfl, fun i _ => ?_, fun _ _ => rfl⟩
    · rw [present, ← clean]
    · rw [clean]
      exact (if_neg (by simp)).symm
  · obtain ⟨t, merge, only, units⟩ := State.ctlMerge_plain h l.units l.dirty
    rw [merge]
    refine ⟨_, rfl, ?_, only.cores, fun i hi => (units _).trans ?_, fun a far => (units a).trans (if_neg fun h => far h.1)⟩
    · rw [Map.find_alter, if_pos rfl, only.l2, present]
      rfl
    · rw [show (128 * line + 4 * i) / 4 % 32 = i by omega]
      exact if_congr ⟨fun h => h.2, fun h => ⟨by omega, h⟩⟩ rfl rfl

theorem State.l2Back_clean (h : s.Clean line) : s.l2Back line = some s := by
  unfold State.l2Back
  split
  · rfl
  · next l present => rw [if_pos (h l present)]

end Merge

/-! ### The far unit's line -/

/-- The home slice has given up a line of a plain block, and nothing else changed that the far unit looks at (R78). -/
structure FarReady (line : Nat) (s t : State) : Prop where
  gone : t.l2.find line = none
  cores : t.cores = s.cores
  dies : t.dies = s.dies
  out : t.out = s.out
  units : ∀ a, t.hbmUnit a = s.hbmUnit a
  plain : t.Plain (128 * line)

section Far

variable {s t : State} {line pa : Nat}

theorem State.Plain.atLine (h : s.Plain pa) : s.Plain (128 * (pa / 128)) := by
  unfold State.Plain
  rwa [show 128 * (pa / 128) / 2048 = pa / 2048 by omega]

theorem State.farLine_ready (plain : s.Plain (128 * line)) (clean : s.Clean line) :
    ∃ t, s.farLine line = some t ∧ FarReady line s t := by
  have plain' : { s with l2 := s.l2.del line }.Plain (128 * line) := plain
  obtain ⟨only, units, still⟩ := plain'.looked
  unfold State.farLine
  rw [State.l2Back_clean clean]
  refine ⟨_, rfl, ?_, only.cores, only.dies, only.out, units, still⟩
  rw [only.l2, Map.find_del_self]

namespace FarReady

variable {n : Nat} {g : List GUnit}

/-- The granules that the far unit reads (R78). -/
theorem read (h : FarReady (pa / 128) s t) (fit : pa / 4 % 32 + n ≤ 32) :
    ((t.ctlLine (pa / 128)).drop (pa / 4 % 32)).take n = (span 0 n).map fun i => s.hbmUnit (pa + 4 * i) := by
  rw [h.plain.ctlLine]
  refine List.ext_getElem (by simp [span_eq_range']; omega) fun i hi hl => ?_
  simp only [span_eq_range', List.getElem_take, List.getElem_drop, List.getElem_map, List.getElem_range', one_mul, Nat.zero_add]
  rw [h.units]
  exact State.hbmUnit_granule (by omega)

/-- The bits of a run of granules. -/
theorem getLsbD_run (l : List Nat) (m : BitVec 32) (j : Nat) (hj : j < 32) :
    (l.foldl (fun m i => m ||| (1#32 <<< i)) m).getLsbD j = (m.getLsbD j || decide (j ∈ l)) := by
  induction l generalizing m with
  | nil => simp
  | cons i l ih =>
    rw [List.foldl_cons, ih]
    have bit : (1#32 <<< i).getLsbD j = decide (j = i) := by
      rw [BitVec.getLsbD_shiftLeft, BitVec.getLsbD_one]
      by_cases h : j = i
      · simp [h]; omega
      · simp [h]; omega
    simp only [BitVec.getLsbD_or, bit, Bool.or_assoc, List.mem_cons, Bool.decide_or]

/-- The granules that the far unit writes (R78). -/
theorem write (h : FarReady (pa / 128) s t) (new : List GUnit) (fit : pa / 4 % 32 + new.length ≤ 32) :
    ∃ u, t.farPuts pa new = some u ∧ StacksOnly t u ∧ ∀ a, u.hbmUnit a =
      if pa / 4 ≤ a / 4 ∧ a / 4 < pa / 4 + new.length then new.getD (a / 4 - pa / 4) .zero else s.hbmUnit a := by
  unfold State.farPuts
  simp only
  obtain ⟨u, merge, only, units⟩ := State.ctlMerge_plain h.plain _ _
  refine ⟨u, merge, only, fun a => (units a).trans ?_⟩
  rw [getLsbD_run _ _ _ (by omega), h.units]
  by_cases inside : pa / 4 ≤ a / 4 ∧ a / 4 < pa / 4 + new.length
  · rw [if_pos inside, if_pos ⟨by omega, by simp; omega⟩,
      List.getD_eq_getElem _ _ (by rw [h.plain.ctlLine]; simp [span_eq_range']; omega)]
    simp only [List.getElem_map, List.getElem_zipIdx]
    rw [if_pos (by simp; omega)]
    congr 1
    omega
  · rw [if_neg inside, if_neg]
    simp
    omega

end FarReady

end Far

end Sys2Proof.Machine
end

section
/-! Atomics and poison at the far unit (R65, R78, R253), and the swap of A and D at the home slice (R35). -/

namespace Sys2Proof.Machine

/-! ### What an atomic answers -/

section Units

variable {s t : State} {pa : Nat} {op : AtomOp} {bs us : List GUnit}

/-- An operand that fails its check stops the atomic first (R253). -/
theorem State.atomUnits_operand {b : GUnit} {i : Nat} (h : (bs.zipIdx.find? fun x => !x.1.ok) = some (b, i)) :
    s.atomUnits pa op bs us = (.operand i b, none) := by
  unfold State.atomUnits
  rw [h]

theorem operands_ok (h : (bs.all fun b => b.ok) = true) : (bs.zipIdx.find? fun x => !x.1.ok) = none := by
  rw [List.find?_eq_none]
  intro x hx
  have := List.all_eq_true.1 h x.1 (List.fst_mem_of_mem_zipIdx hx)
  simp [this]

/-- A unit in memory that fails its check stops the atomic next (R253). -/
theorem State.atomUnits_stopped {r : AtomRes} (hb : (bs.all fun b => b.ok) = true) (h : s.atomCheck pa us = some r) :
    s.atomUnits pa op bs us = (r, none) := by
  unfold State.atomUnits
  rw [operands_ok hb]
  simp only [h]

/-- The value that an atomic's units make, low word first (R252). -/
def unitsValue (us : List GUnit) : Nat := us.foldr (fun u n => u.data.toNat + 2 ^ 32 * n) 0

/-- The units of a value (R252). -/
def valueUnits (words n : Nat) : List GUnit := (span 0 words).map fun i => coded (BitVec.ofNat 32 (n / 2 ^ (32 * i)))

/-- An atomic that passes its checks answers with the old units, and writes what its operation gives (R252, R253). -/
theorem State.atomUnits_old (hb : (bs.all fun b => b.ok) = true) (h : s.atomCheck pa us = none) :
    s.atomUnits pa op bs us = (.old us, (op.apply (unitsValue us) (bs.map fun b => b.data)).map (valueUnits op.words)) := by
  unfold State.atomUnits
  rw [operands_ok hb]
  simp only [h]
  change (match op.apply (unitsValue us) (bs.map fun b => b.data) with
    | none => (AtomRes.old us, none)
    | some n => (AtomRes.old us, some (valueUnits op.words n))) = _
  cases op.apply (unitsValue us) (bs.map fun b => b.data) <;> rfl

/-- Good units that are not poisoned pass (R253). -/
theorem State.atomCheck_good {n : Nat} {f : Nat → GUnit}
    (h : ∀ i, i < n → (f i).ok = true ∧ s.poisoned (pa + 4 * i) (f i) = false) : s.atomCheck pa ((span 0 n).map f) = none := by
  unfold State.atomCheck
  rw [List.findSome?_eq_none_iff]
  intro x hx
  obtain ⟨-, hi, hu⟩ := List.mem_zipIdx hx
  rw [List.length_map, span_eq_range', List.length_range', Nat.zero_add] at hi
  obtain ⟨ok, healthy⟩ := h x.2 hi
  have here : x.1 = f x.2 := by simpa [span_eq_range'] using hu
  have unmarked : (f x.2).ue = false := by
    unfold GUnit.ok at ok
    simpa using (Bool.and_eq_true_iff.1 ok).1
  simp only [here, healthy, unmarked, ok, Bool.false_eq_true, if_false, if_true]

theorem State.atomCheck_single (u : GUnit) : s.atomCheck pa [u] =
    if s.poisoned pa u then some (.poisoned pa u) else if u.ue then some (.marked pa)
    else if u.ok then none else some (.failed pa u) := by
  unfold State.atomCheck
  rw [List.zipIdx_singleton, List.findSome?_singleton]
  rfl

theorem State.poisoned_congr (h : t.dies = s.dies) (pa : Nat) (u : GUnit) : t.poisoned pa u = s.poisoned pa u := by
  unfold State.poisoned State.die
  rw [h]

theorem State.atomCheck_congr (h : t.dies = s.dies) (pa : Nat) (us : List GUnit) : t.atomCheck pa us = s.atomCheck pa us := by
  unfold State.atomCheck
  simp only [State.poisoned_congr h]

end Units

/-! ### What a far write leaves -/

section Written

/-- What a granule's write ends leaves of the state's units (R65, R320). -/
theorem State.unpoison_noteWrite (s : State) (pa : Nat) : (∀ a, ((s.unpoison pa).noteWrite pa).hbmUnit a = s.hbmUnit a) ∧
    ((s.unpoison pa).noteWrite pa).l2 = s.l2 ∧ ((s.unpoison pa).noteWrite pa).cores = s.cores := by
  have one : (∀ a, (s.unpoison pa).hbmUnit a = s.hbmUnit a) ∧ (s.unpoison pa).l2 = s.l2 ∧ (s.unpoison pa).cores = s.cores := by
    unfold State.unpoison
    simp only
    split <;> exact ⟨fun _ => rfl, rfl, rfl⟩
  have two (t : State) : (∀ a, (t.noteWrite pa).hbmUnit a = t.hbmUnit a) ∧ (t.noteWrite pa).l2 = t.l2 ∧
      (t.noteWrite pa).cores = t.cores := by
    unfold State.noteWrite
    simp only
    split <;> exact ⟨fun _ => rfl, rfl, rfl⟩
  obtain ⟨units1, l21, cores1⟩ := one
  obtain ⟨units2, l22, cores2⟩ := two (s.unpoison pa)
  exact ⟨fun a => (units2 a).trans (units1 a), l22.trans l21, cores2.trans cores1⟩

theorem State.noted (l : List Nat) (s : State) (pa : Nat) :
    let t := l.foldl (fun s i => (s.unpoison (pa + 4 * i)).noteWrite (pa + 4 * i)) s
    (∀ a, t.hbmUnit a = s.hbmUnit a) ∧ t.l2 = s.l2 ∧ t.cores = s.cores := by
  induction l generalizing s with
  | nil => exact ⟨fun _ => rfl, rfl, rfl⟩
  | cons i l ih =>
    obtain ⟨units1, l21, cores1⟩ := s.unpoison_noteWrite (pa + 4 * i)
    obtain ⟨units2, l22, cores2⟩ := ih ((s.unpoison (pa + 4 * i)).noteWrite (pa + 4 * i))
    exact ⟨fun a => (units2 a).trans (units1 a), l22.trans l21, cores2.trans cores1⟩

end Written

/-! ### The far atomic unit -/

section Far

variable {s : State} {pa : Nat} {op : AtomOp} {bs : List GUnit}

theorem atomOp_words (op : AtomOp) : op.words = 1 ∨ op.words = 2 := by cases op <;> simp [AtomOp.words]

/-- The units that a far atomic works on (R78). -/
def State.farUnits (s : State) (pa : Nat) (op : AtomOp) : List GUnit := (span 0 op.words).map fun i => s.hbmUnit (pa + 4 * i)

/-- A far atomic that writes nothing changes no unit of the stacks and no core (R78). -/
def State.KeepsUnits (s t : State) : Prop := (∀ a, t.hbmUnit a = s.hbmUnit a) ∧ t.cores = s.cores

theorem State.farAtomic_later (h : s.l2Back (pa / 128) = none) : s.farAtomic pa op bs = (.later, s) ∧ s.poisonFar pa = none := by
  have line : s.farLine (pa / 128) = none := by
    unfold State.farLine
    rw [h]
    rfl
  unfold State.farAtomic State.poisonFar
  rw [line]
  exact ⟨rfl, rfl⟩

variable (plain : s.Plain pa) (clean : s.Clean (pa / 128))

include plain clean

/-- An atomic that writes nothing (R78, R253). -/
theorem State.farAtomic_unwritten {r : AtomRes} (h : ∀ t, FarReady (pa / 128) s t →
      t.atomUnits pa op bs (((t.ctlLine (pa / 128)).drop (pa / 4 % 32)).take op.words) = (r, none)) :
    (s.farAtomic pa op bs).1 = r ∧ (s.farAtomic pa op bs).2.l2.find (pa / 128) = none ∧ s.KeepsUnits (s.farAtomic pa op bs).2 := by
  obtain ⟨t, line, ready⟩ := State.farLine_ready plain.atLine clean
  have result : s.farAtomic pa op bs = (r, t) := by
    unfold State.farAtomic
    simp only [line, h t ready]
  rw [result]
  exact ⟨rfl, ready.gone, ready.units, ready.cores⟩

/-- An atomic that writes (R78, R252). -/
theorem State.farAtomic_written {r : AtomRes} {new : List GUnit} (width : new.length = op.words) (fit : pa / 4 % 32 + op.words ≤ 32)
    (h : ∀ t, FarReady (pa / 128) s t → t.atomUnits pa op bs (s.farUnits pa op) = (r, some new)) :
    (s.farAtomic pa op bs).1 = r ∧ (s.farAtomic pa op bs).2.l2.find (pa / 128) = none ∧
      (s.farAtomic pa op bs).2.cores = s.cores ∧ ∀ a, (s.farAtomic pa op bs).2.hbmUnit a =
        if pa / 4 ≤ a / 4 ∧ a / 4 < pa / 4 + op.words then new.getD (a / 4 - pa / 4) .zero else s.hbmUnit a := by
  obtain ⟨t, line, ready⟩ := State.farLine_ready plain.atLine clean
  obtain ⟨u, put, only, units⟩ := ready.write new (width ▸ fit)
  obtain ⟨units', l2, cores⟩ := State.noted (span 0 op.words) u pa
  have answer := h t ready
  rw [State.farUnits, ← ready.read fit] at answer
  have result : s.farAtomic pa op bs =
      (r, (span 0 op.words).foldl (fun s i => (s.unpoison (pa + 4 * i)).noteWrite (pa + 4 * i)) u) := by
    unfold State.farAtomic
    simp only [line, answer, put]
  rw [result]
  refine ⟨rfl, ?_, cores.trans (only.cores.trans ready.cores), fun a => (units' a).trans (width ▸ units a)⟩
  rw [l2, only.l2, ready.gone]

/-- An operand that fails its check leaves memory as it is (R253). -/
theorem State.farAtomic_operand {b : GUnit} {i : Nat} (h : (bs.zipIdx.find? fun x => !x.1.ok) = some (b, i)) :
    (s.farAtomic pa op bs).1 = .operand i b ∧ s.KeepsUnits (s.farAtomic pa op bs).2 := by
  obtain ⟨answer, -, kept⟩ := State.farAtomic_unwritten (op := op) (bs := bs) plain clean fun t _ => State.atomUnits_operand h
  exact ⟨answer, kept⟩

section Checked

variable (hb : (bs.all fun b => b.ok) = true) (fit : pa / 4 % 32 + op.words ≤ 32)

include hb fit

/-- A unit in memory that fails its check leaves memory as it is (R253). -/
theorem State.farAtomic_stopped {r : AtomRes} (h : s.atomCheck pa (s.farUnits pa op) = some r) :
    (s.farAtomic pa op bs).1 = r ∧ s.KeepsUnits (s.farAtomic pa op bs).2 := by
  obtain ⟨answer, -, kept⟩ := State.farAtomic_unwritten (op := op) (bs := bs) plain clean fun t ready => by
    rw [ready.read fit]
    exact State.atomUnits_stopped hb ((State.atomCheck_congr ready.dies _ _).trans h)
  exact ⟨answer, kept⟩

/-- An atomic that passes its checks (R78, R252, R253). -/
theorem State.farAtomic_old (h : s.atomCheck pa (s.farUnits pa op) = none) :
    (s.farAtomic pa op bs).1 = .old (s.farUnits pa op) ∧ (s.farAtomic pa op bs).2.l2.find (pa / 128) = none ∧
    (op.apply (unitsValue (s.farUnits pa op)) (bs.map fun b => b.data) = none → s.KeepsUnits (s.farAtomic pa op bs).2) ∧
    ∀ new, op.apply (unitsValue (s.farUnits pa op)) (bs.map fun b => b.data) = some new →
      (s.farAtomic pa op bs).2.cores = s.cores ∧ ∀ a, (s.farAtomic pa op bs).2.hbmUnit a =
        if pa / 4 ≤ a / 4 ∧ a / 4 < pa / 4 + op.words then (valueUnits op.words new).getD (a / 4 - pa / 4) .zero
        else s.hbmUnit a := by
  have answer (t : State) (ready : FarReady (pa / 128) s t) :=
    State.atomUnits_old (s := t) (op := op) hb ((State.atomCheck_congr ready.dies _ _).trans h)
  cases result : op.apply (unitsValue (s.farUnits pa op)) (bs.map fun b => b.data) with
  | none =>
    rw [result] at answer
    obtain ⟨old, gone, kept⟩ := State.farAtomic_unwritten (op := op) (bs := bs) plain clean fun t ready =>
      (congrArg _ (ready.read fit)).trans (answer t ready)
    exact ⟨old, gone, fun _ => kept, nofun⟩
  | some n =>
    rw [result] at answer
    obtain ⟨old, gone, cores, units⟩ := State.farAtomic_written (op := op) (bs := bs) (new := valueUnits op.words n) plain clean
      (by simp [valueUnits, span_eq_range']) fit answer
    refine ⟨old, gone, nofun, fun new h => ?_⟩
    obtain rfl := Option.some.inj h
    exact ⟨cores, units⟩

end Checked

/-! ### Poison of a granule -/

/-- The far unit spoils a granule in the stacks, and then lists it (R65, R78). -/
theorem State.poisonFar_writes : ∃ u : State, s.poisonFar pa = some (u.poisonList pa) ∧ u.l2.find (pa / 128) = none ∧
    u.cores = s.cores ∧ u.dies = s.dies ∧ u.out = s.out ∧ u.hbmUnit pa = .spoiled (s.hbmUnit pa).data ∧
    ∀ a, a / 4 ≠ pa / 4 → u.hbmUnit a = s.hbmUnit a := by
  obtain ⟨t, line, ready⟩ := State.farLine_ready plain.atLine clean
  have old : (t.ctlLine (pa / 128)).getD (pa / 4 % 32) .zero = s.hbmUnit pa := by
    rw [ready.plain.ctlLine, getD_map_span _ _ (by omega), ready.units]
    exact State.hbmUnit_granule (by omega)
  obtain ⟨u, put, only, units⟩ := ready.write [.spoiled (s.hbmUnit pa).data] (show pa / 4 % 32 + 1 ≤ 32 by omega)
  simp only [List.length_singleton] at units
  refine ⟨u, ?_, by rw [only.l2, ready.gone], only.cores.trans ready.cores, only.dies.trans ready.dies,
    only.out.trans ready.out, ?_, ?_⟩
  · unfold State.poisonFar
    rw [line, Option.bind_some, old, put]
    rfl
  · rw [units, if_pos (by omega), Nat.sub_self]
    rfl
  · intro a far
    rw [units, if_neg (by omega)]

end Far

section Listed

variable (s : State) (a : Nat)

theorem State.poisonList_keeps : (∀ x, (s.poisonList a).hbmUnit x = s.hbmUnit x) ∧ (s.poisonList a).l2 = s.l2 ∧
    (s.poisonList a).cores = s.cores := by
  unfold State.poisonList
  simp only
  split
  · exact ⟨fun _ => rfl, rfl, rfl⟩
  · split <;> exact ⟨fun _ => rfl, rfl, rfl⟩

/-- A die's poison list takes the address where it has room (R65). -/
theorem State.poisonList_room
    (h : (s.die (dieOfPa a)).poison.contains a = true ∨ (s.die (dieOfPa a)).poison.length < 1024) :
    ((s.poisonList a).die (dieOfPa a)).poison.contains a = true ∧ (s.poisonList a).out = s.out := by
  unfold State.poisonList
  simp only
  split
  · next listed => exact ⟨listed, rfl⟩
  · next new =>
    rw [if_neg (by have := h.resolve_left new; omega), State.die_modDie_self]
    exact ⟨by simp, rfl⟩

/-- A full poison list stays as it is, and Osmium is told (R65). -/
theorem State.poisonList_full (new : (s.die (dieOfPa a)).poison.contains a = false)
    (full : 1024 ≤ (s.die (dieOfPa a)).poison.length) :
    ((s.poisonList a).die (dieOfPa a)).poison = (s.die (dieOfPa a)).poison ∧
      (s.poisonList a).out.osm = s.out.osm ++ [.poisonFull a] := by
  unfold State.poisonList
  simp only [new, Bool.false_eq_true, if_false, if_pos (show _ ≥ 1024 from full)]
  exact ⟨rfl, rfl⟩

end Listed

end Sys2Proof.Machine
end

section
/-! The operations of the memory's units: the swap of A and D at the home slice (R35), and the statement. -/

namespace Sys2Proof.Machine

variable {s : State} {pa : Nat} {v : BitVec 64} {dirty : Bool}

/-- The swap at the home slice writes an entry that is as expected, and no other (R35). -/
theorem State.swapAD_leaves (h8 : pa % 8 = 0) (hu : Undisturbed s (s.swapAD pa v dirty)) :
    ((s.home (pa + 4)).data ++ (s.home pa).data ≠ v ∨ withAD v dirty = v → SameMemory s (s.swapAD pa v dirty)) ∧
      ((s.home (pa + 4)).data ++ (s.home pa).data = v → withAD v dirty ≠ v →
        (s.swapAD pa v dirty).home pa = coded ((withAD v dirty).setWidth 32) ∧
        (s.swapAD pa v dirty).home (pa + 4) = coded ((withAD v dirty >>> 32).setWidth 32) ∧
        ∀ a, a / 8 ≠ pa / 8 → (s.swapAD pa v dirty).home a = s.home a) := by
  have read : HomeReads s (s.homeGets pa 2).2 := s.homeGets_step 2 pa
  have readFrame : HomeFrame s (s.homeGets pa 2).2 := s.homeGets_frame 2 pa
  have eq : s.swapAD pa v dirty = if ((s.homeGets pa 2).1.getD 1 .zero).data ++ ((s.homeGets pa 2).1.getD 0 .zero).data = v then
      ((s.homeGets pa 2).2.setAD pa v.toNat dirty).2 else (s.homeGets pa 2).2 := rfl
  have grows : (s.homeGets pa 2).2.free ≤ (s.swapAD pa v dirty).free := by
    rw [eq]
    split
    · exact (State.setAD_frame _ pa v.toNat dirty).free
    · exact le_rfl
  rw [State.homeGets_pair (hu.first readFrame.free grows)] at eq
  change _ = if (s.home (pa + 4)).data ++ (s.home pa).data = v then _ else _ at eq
  by_cases expected : (s.home (pa + 4)).data ++ (s.home pa).data = v
  · rw [if_pos expected] at eq
    rw [eq] at hu ⊢
    have frame := readFrame.trans (State.setAD_frame _ pa v.toNat dirty)
    have clusters : ((s.homeGets pa 2).2.setAD pa v.toNat dirty).2.clusters = s.clusters := (congrArg State.clusters frame.rest :)
    obtain ⟨same, changed⟩ := State.setAD_leaves read (.refl _) (fun c => by unfold State.core; rw [frame.cores])
      (fun n => by unfold State.cluster; rw [clusters]) h8 hu
    exact ⟨fun h => same (h.resolve_left (absurd expected)), fun _ => changed⟩
  · rw [if_neg expected] at eq
    rw [eq] at hu ⊢
    exact ⟨fun _ => readFrame.sameMemory (read.undisturbed hu), fun h => absurd h expected⟩

end Sys2Proof.Machine
end

section
open Sys2Proof Sys2Proof.Machine

/-- Settles O45: a plain line is merged granule by granule; the far unit works between the read and the merge of its line; a
converted block is placed plainly, as a stream, or in the overflow buffer. -/
theorem unitOperations : Obligations.UnitOperations := by
  intro s pa line blk allot op bs v dirty l pk _ whole
  refine ⟨State.farAtomic_later, fun _ plain clean => ⟨?_, ?_, ?_, ?_⟩, fun _ h8 hu => ?_, fun present plain => ?_,
    fun _ ha good away length => ⟨?_, ?_, ?_, ?_⟩⟩
  · intro aligned operands good
    have fit : pa / 4 % 32 + op.words ≤ 32 := by rcases atomOp_words op with h | h <;> rw [h] at aligned ⊢ <;> omega
    obtain ⟨old, gone, unwritten, written⟩ := State.farAtomic_old plain clean operands fit (State.atomCheck_good good)
    refine ⟨old, gone, unwritten, fun new result => ?_⟩
    obtain ⟨cores, units⟩ := written new result
    refine ⟨cores, fun i hi => ?_, fun a far => ?_⟩
    · rw [units, if_pos (by omega), show (pa + 4 * i) / 4 - pa / 4 = i by omega, valueUnits, getD_map_span _ _ hi]
    · rw [units, if_neg]
      intro ⟨low, high⟩
      exact far (a / 4 - pa / 4) (by omega) (by omega)
  · exact fun b i failing => State.farAtomic_operand plain clean failing
  · intro one _ operands
    have units : s.farUnits pa op = [s.hbmUnit pa] := by
      unfold State.farUnits
      rw [one]
      rfl
    have stopped {r : AtomRes} (h : s.atomCheck pa [s.hbmUnit pa] = some r) :=
      State.farAtomic_stopped (op := op) plain clean operands (by omega) (units ▸ h)
    refine ⟨fun poisoned => stopped ?_, fun healthy marked => stopped ?_, fun healthy unmarked failing => stopped ?_⟩
    · rw [State.atomCheck_single, if_pos poisoned]
    · rw [State.atomCheck_single, healthy, marked]
      rfl
    · rw [State.atomCheck_single, healthy, unmarked, failing]
      rfl
  · intro _
    obtain ⟨u, poison, gone, cores, dies, out, spoiled, others⟩ := State.poisonFar_writes plain clean
    obtain ⟨units, l2, cores'⟩ := u.poisonList_keeps pa
    have die : u.die (dieOfPa pa) = s.die (pa / 2 ^ 37) := by
      unfold State.die
      rw [dies]
      rfl
    refine ⟨u.poisonList pa, poison, l2 ▸ gone, cores'.trans cores, (units _).trans spoiled,
      fun a far => (units a).trans (others a far), fun room => ?_, fun new full => ?_⟩
    · rw [← die] at room
      exact out ▸ u.poisonList_room pa room
    · rw [← die] at new full ⊢
      exact out ▸ u.poisonList_full pa new full
  · exact State.swapAD_leaves h8 hu
  · exact State.l2Back_plain plain present
  · rintro rfl
    exact State.convertBlock_plain whole good away length
  · exact State.convertBlock_fits whole good away length ha
  · exact fun h0 big loose => ⟨State.convertBlock_full whole h0 big loose, State.convertBlock_free whole good ha h0 big loose⟩
  · exact fun i h0 big own => State.convertBlock_own whole good ha h0 big own

end

section
/-! The granule code is linear, and its syndrome of a shifted error is the register's next shift: both classes of short errors
follow from the invertibility of one shift, and the odd errors from the parity that a shift keeps (R53, R54, R157). -/

namespace Sys2Proof.Machine

/-! ### Linearity -/

theorem gc8Step_xor (c c' : BitVec 8) (b b' : Bool) : gc8Step (c ^^^ c') (b ^^ b') = gc8Step c b ^^^ gc8Step c' b' := by
  have tap (a a' : BitVec 8) (x x' : Bool) : (a ^^^ a') ^^^ (if (x ^^ x') = true then 0x2F#8 else 0#8) =
      (a ^^^ (if x = true then 0x2F#8 else 0#8)) ^^^ (a' ^^^ (if x' = true then 0x2F#8 else 0#8)) := by
    have both : (if (x ^^ x') = true then 0x2F#8 else 0#8) =
        (if x = true then 0x2F#8 else 0#8) ^^^ (if x' = true then 0x2F#8 else 0#8) := by cases x <;> cases x' <;> rfl
    rw [both]
    ac_rfl
  have step (c : BitVec 8) (b : Bool) : gc8Step c b = (c <<< 1) ^^^ (if (c.msb != b) = true then 0x2F#8 else 0#8) := by
    unfold gc8Step
    split <;> simp
  have turn : ((c ^^^ c').msb != (b ^^ b')) = ((c.msb != b) ^^ (c'.msb != b')) := by
    rw [BitVec.msb_xor]
    cases c.msb <;> cases c'.msb <;> cases b <;> cases b' <;> rfl
  rw [step, step, step, turn, BitVec.shiftLeft_xor_distrib, tap]

theorem gc8From_xor (g g' : Word) (n : Nat) (c c' : BitVec 8) : gc8From (g ^^^ g') n (c ^^^ c') = gc8From g n c ^^^ gc8From g' n c' := by
  induction n generalizing c c' with
  | zero => rfl
  | succ n ih =>
    simp only [gc8From, BitVec.getLsbD_xor]
    rw [gc8Step_xor, ih]

theorem gc8_xor (g g' : Word) : gc8 (g ^^^ g') = gc8 g ^^^ gc8 g' := gc8From_xor g g' 32 0 0

/-! ### The syndrome of an error -/

/-- The syndrome that an error of the 40 bits of a codeword leaves on a sound unit (R53). -/
def errorSyn (e : BitVec 40) : BitVec 8 := e.extractLsb' 0 8 ^^^ gc8 (e.extractLsb' 8 32)

theorem syn_of_error {u : GUnit} (sound : u.syn = 0) (e : BitVec 40) :
    ({ u with data := u.data ^^^ e.extractLsb' 8 32, code := u.code ^^^ e.extractLsb' 0 8 } : GUnit).syn = errorSyn e := by
  unfold GUnit.syn at sound ⊢
  have code : u.code = gc8 u.data := BitVec.xor_eq_zero_iff.1 sound
  calc u.code ^^^ e.extractLsb' 0 8 ^^^ gc8 (u.data ^^^ e.extractLsb' 8 32)
      = (gc8 u.data ^^^ gc8 u.data) ^^^ errorSyn e := by rw [gc8_xor, code, errorSyn]; ac_rfl
    _ = errorSyn e := by rw [BitVec.xor_self, BitVec.zero_xor]

theorem errorSyn_xor (e e' : BitVec 40) : errorSyn (e ^^^ e') = errorSyn e ^^^ errorSyn e' := by
  unfold errorSyn
  rw [BitVec.extractLsb'_xor, BitVec.extractLsb'_xor, gc8_xor]
  ac_rfl

/-! ### One shift of an error -/

/-- The register's next shift, without an input bit: the residue times x (R157). -/
def shiftSyn (c : BitVec 8) : BitVec 8 := gc8Step c false

/-- A granule whose bits stand one place higher gives one more shift, of the bit below them. -/
theorem gc8From_shifted {g g' : Word} (n : Nat) (c : BitVec 8) (h : ∀ i, i < n → g'.getLsbD (i + 1) = g.getLsbD i) :
    gc8From g' (n + 1) c = gc8Step (gc8From g n c) (g'.getLsbD 0) := by
  induction n generalizing c with
  | zero => rfl
  | succ n ih =>
    rw [gc8From, h n (by omega), gc8From]
    exact ih _ fun i hi => h i (by omega)

theorem errorSyn_shift {e : BitVec 40} (top : e.getLsbD 39 = false) : errorSyn (e <<< 1) = shiftSyn (errorSyn e) := by
  have data : gc8 ((e <<< 1).extractLsb' 8 32) = gc8Step (gc8 (e.extractLsb' 8 32)) (e.extractLsb' 0 8).msb := by
    have first : gc8 (e.extractLsb' 8 32) = gc8From (e.extractLsb' 8 32) 31 0 := by
      rw [gc8, gc8From, show (e.extractLsb' 8 32).getLsbD 31 = false by simpa [BitVec.getLsbD_extractLsb'] using top]
      rfl
    rw [first, gc8, gc8From_shifted (g := e.extractLsb' 8 32) 31 0 fun i hi => by
      simp only [BitVec.getLsbD_extractLsb', BitVec.getLsbD_shiftLeft]
      simp [show i + 1 < 32 by omega, show i < 32 by omega, show 8 + i < 40 by omega, show 8 + (i + 1) < 40 by omega,
        show 8 + (i + 1) - 1 = 8 + i by omega]]
    congr 1
    simp [BitVec.msb_eq_getLsbD_last]
  have code : (e <<< 1).extractLsb' 0 8 = (e.extractLsb' 0 8) <<< 1 := by
    refine BitVec.eq_of_getLsbD_eq fun i hi => ?_
    simp [hi, show i < 40 by omega, BitVec.getLsbD_eq_getElem (show i - 1 < 40 by omega)]
  have out (c : BitVec 8) : c <<< 1 = gc8Step c c.msb := by simp [gc8Step]
  rw [errorSyn, data, code, out, ← gc8Step_xor, Bool.xor_self, ← errorSyn, shiftSyn]

theorem shiftSyn_ne_zero {c : BitVec 8} (h : c ≠ 0) : shiftSyn c ≠ 0 := by
  revert c
  decide

theorem iterate_shiftSyn_ne_zero (n : Nat) {c : BitVec 8} (h : c ≠ 0) : shiftSyn^[n] c ≠ 0 := by
  induction n generalizing c with
  | zero => exact h
  | succ n ih => exact ih (shiftSyn_ne_zero h)

theorem iterate_shiftSyn_xor (n : Nat) (c c' : BitVec 8) : shiftSyn^[n] (c ^^^ c') = shiftSyn^[n] c ^^^ shiftSyn^[n] c' := by
  induction n generalizing c c' with
  | zero => rfl
  | succ n ih =>
    simp only [Function.iterate_succ, Function.comp_apply]
    rw [shiftSyn, show false = (false ^^ false) from rfl, gc8Step_xor]
    exact ih _ _

/-- A pattern of 8 neighbouring bits leaves itself, shifted to its place (R54). -/
theorem errorSyn_burst {b : Nat} (hb : b < 256) (i : Nat) (fit : b * 2 ^ i < 2 ^ 40) :
    errorSyn (BitVec.ofNat 40 (b * 2 ^ i)) = shiftSyn^[i] (BitVec.ofNat 8 b) := by
  induction i with
  | zero =>
    have data : (BitVec.ofNat 40 b).extractLsb' 8 32 = 0 := by
      apply BitVec.eq_of_toNat_eq
      simp [BitVec.extractLsb'_toNat, Nat.shiftRight_eq_div_pow]
      omega
    have code : (BitVec.ofNat 40 b).extractLsb' 0 8 = BitVec.ofNat 8 b := by
      apply BitVec.eq_of_toNat_eq
      simp [BitVec.extractLsb'_toNat]
    rw [pow_zero, Nat.mul_one, errorSyn, data, code]
    exact (congrArg _ gc8_zero).trans BitVec.xor_zero
  | succ i ih =>
    rw [pow_succ, ← Nat.mul_assoc] at fit ⊢
    have double : BitVec.ofNat 40 (b * 2 ^ i * 2) = BitVec.ofNat 40 (b * 2 ^ i) <<< 1 := by
      apply BitVec.eq_of_toNat_eq
      simp [BitVec.toNat_shiftLeft, Nat.shiftLeft_eq]
    have top : (BitVec.ofNat 40 (b * 2 ^ i)).getLsbD 39 = false := by
      rw [BitVec.getLsbD_ofNat, Nat.testBit_lt_two_pow (by omega)]
      rfl
    rw [double, errorSyn_shift top, ih (by omega), Function.iterate_succ_apply']

/-! ### Single and double errors -/

theorem errorSyn_bit {i : Nat} (hi : i < 40) : errorSyn (1#40 <<< i) = shiftSyn^[i] 1 := by
  have pow : 2 ^ i < 2 ^ 40 := Nat.pow_lt_pow_right (by omega) hi
  have bit : 1#40 <<< i = BitVec.ofNat 40 (1 * 2 ^ i) := by
    apply BitVec.eq_of_toNat_eq
    simp [BitVec.toNat_shiftLeft, Nat.shiftLeft_eq]
  rw [bit, errorSyn_burst (by omega) i (by omega)]
  rfl

/-- The residue of 1 does not return within a codeword (R54). -/
theorem iterate_shiftSyn_ne_one : ∀ d < 39, shiftSyn^[d + 1] 1 ≠ 1 := by decide

theorem errorSyn_double {i j : Nat} (h : i < j) (hj : j < 40) : errorSyn (1#40 <<< i ||| 1#40 <<< j) ≠ 0 := by
  obtain ⟨d, rfl⟩ : ∃ d, j = i + (d + 1) := ⟨j - i - 1, by omega⟩
  have apart : 1#40 <<< i ||| 1#40 <<< (i + (d + 1)) = 1#40 <<< i ^^^ 1#40 <<< (i + (d + 1)) := by
    change BitVec.twoPow 40 i ||| BitVec.twoPow 40 _ = BitVec.twoPow 40 i ^^^ BitVec.twoPow 40 _
    refine BitVec.eq_of_getLsbD_eq fun k _ => ?_
    rw [BitVec.getLsbD_or, BitVec.getLsbD_xor, BitVec.getLsbD_twoPow, BitVec.getLsbD_twoPow]
    by_cases at_ : i = k
    · simp [at_]
    · simp [at_]
  rw [apart, errorSyn_xor, errorSyn_bit (by omega), errorSyn_bit hj, Function.iterate_add_apply, ← iterate_shiftSyn_xor]
  refine iterate_shiftSyn_ne_zero i fun zero => iterate_shiftSyn_ne_one d (by omega) ?_
  exact (BitVec.xor_eq_zero_iff.1 zero).symm

/-! ### Odd errors -/

/-- An odd number of the first `n` bits are set. -/
def oddBits (p : Nat → Bool) : Nat → Bool
  | 0 => false
  | n + 1 => p n ^^ oddBits p n

theorem oddBits_congr {p q : Nat → Bool} {n : Nat} (h : ∀ i, i < n → p i = q i) : oddBits p n = oddBits q n := by
  induction n with
  | zero => rfl
  | succ n ih => rw [oddBits, oddBits, h n (by omega), ih fun i hi => h i (by omega)]

theorem oddBits_add (p : Nat → Bool) (m n : Nat) : oddBits p (m + n) = (oddBits (fun i => p (m + i)) n ^^ oddBits p m) := by
  induction n with
  | zero => rw [oddBits, Bool.false_xor, Nat.add_zero]
  | succ n ih => rw [← Nat.add_assoc, oddBits, oddBits, ih, Bool.xor_assoc]

theorem oddBits_eq (p : Nat → Bool) (n : Nat) : oddBits p n = decide (((span 0 n).filter p).length % 2 = 1) := by
  rw [span_eq_range', ← List.range_eq_range', ← List.countP_eq_length_filter]
  induction n with
  | zero => rfl
  | succ n ih =>
    rw [oddBits, ih, List.range_succ, List.countP_append]
    cases h : p n
    · simp [h]
    · have turn (m : Nat) : (m + 1) % 2 = 1 ↔ ¬m % 2 = 1 := by omega
      rw [List.countP_singleton, h, if_pos rfl, Bool.true_xor, ← decide_not, decide_eq_decide]
      exact (turn _).symm

theorem oddBits_gc8Step : ∀ (c : BitVec 8) (b : Bool), oddBits (gc8Step c b).getLsbD 8 = (b ^^ oddBits c.getLsbD 8) := by decide

theorem oddBits_gc8From (g : Word) (n : Nat) (c : BitVec 8) :
    oddBits (gc8From g n c).getLsbD 8 = (oddBits g.getLsbD n ^^ oddBits c.getLsbD 8) := by
  induction n generalizing c with
  | zero => rw [gc8From, oddBits, Bool.false_xor]
  | succ n ih =>
    rw [gc8From, ih, oddBits_gc8Step, ← Bool.xor_assoc, Bool.xor_comm (oddBits g.getLsbD n), ← oddBits]

/-- The code of a granule has the parity of its bits, so that an odd error never agrees with it (R54). -/
theorem errorSyn_odd {e : BitVec 40} (odd : ((span 0 40).filter fun i => e.getLsbD i).length % 2 = 1) : errorSyn e ≠ 0 := by
  intro zero
  have code : e.extractLsb' 0 8 = gc8 (e.extractLsb' 8 32) := BitVec.xor_eq_zero_iff.1 zero
  have low : oddBits e.getLsbD 8 = oddBits (e.extractLsb' 0 8).getLsbD 8 := oddBits_congr fun i hi => by
    simp [hi]
  have high : oddBits (fun i => e.getLsbD (8 + i)) 32 = oddBits (e.extractLsb' 8 32).getLsbD 32 := oddBits_congr fun i hi => by
    simp [hi]
  have even : oddBits e.getLsbD 40 = false := by
    rw [oddBits_add e.getLsbD 8 32, low, high, code, gc8, oddBits_gc8From, ← Bool.xor_assoc, Bool.xor_self]
    rfl
  rw [oddBits_eq, decide_eq_false_iff_not] at even
  exact even odd

end Sys2Proof.Machine
end

section
open Sys2Proof Sys2Proof.Machine

/-- Settles O51: the syndrome of an error is linear in it; one or two bits and a burst are patterns that shifts bring to their
place, and an odd error breaks the parity that every shift keeps. -/
theorem codeDetectsErrors : Obligations.CodeDetectsErrors := by
  refine ⟨gc8_xor, gc8_zero, by decide +kernel, by decide +kernel, fun u e sound error => ?_⟩
  rw [syn_of_error sound]
  rcases error with ⟨i, j, hi, hj, rfl⟩ | odd | ⟨i, b, hi, hb, hb', rfl⟩
  · rcases Nat.lt_trichotomy i j with h | rfl | h
    · exact errorSyn_double h hj
    · rw [BitVec.or_self, errorSyn_bit hi]
      exact iterate_shiftSyn_ne_zero i (by decide)
    · rw [BitVec.or_comm]
      exact errorSyn_double h hi
  · exact errorSyn_odd odd
  · have pow : 2 ^ i ≤ 2 ^ 32 := Nat.pow_le_pow_right (by omega) hi
    rw [errorSyn_burst hb' i (by nlinarith)]
    refine iterate_shiftSyn_ne_zero i fun zero => ?_
    have : b % 256 = 0 := congrArg BitVec.toNat zero
    omega

end

section
/-! What a failed check leaves (R62 to R65, R362): the fields of CHKINFO, the wave that has noted it, and the three fates. -/

namespace Sys2Proof.Machine

/-! ### Waves and crews apart -/

theorem State.modCrew_wave (s : State) (c j d i : Nat) (f : Crew → Crew) : (s.modCrew c j f).wave? d i = s.wave? d i := by
  by_cases own : c = d
  · subst own
    rw [State.modCrew, State.wave?, State.core_modCore_self]
    rfl
  · rw [State.modCrew, State.wave?, State.core_modCore_ne _ _ own]
    rfl

theorem State.modWave_crew (s : State) (c i d j : Nat) (f : Wave → Wave) : (s.modWave c i f).crew? d j = s.crew? d j := by
  by_cases own : c = d
  · subst own
    rw [State.modWave, State.crew?, State.core_modCore_self]
    rfl
  · rw [State.modWave, State.crew?, State.core_modCore_ne _ _ own]
    rfl

/-! ### CHKINFO -/

theorem bytes_of_sum {syn lane site reg low : Nat} (hs : syn < 256) (hl : lane < 32) (hi : site < 256) (hr : reg < 256) (h : low < 32) :
    let x := syn * 2 ^ 56 + lane * 2 ^ 48 + site * 2 ^ 40 + reg * 2 ^ 32 + low
    x % 2 ^ 64 / 2 ^ 56 % 2 ^ 8 = syn ∧ x % 2 ^ 64 / 2 ^ 48 % 2 ^ 8 = lane ∧ x % 2 ^ 64 / 2 ^ 40 % 2 ^ 8 = site ∧
      x % 2 ^ 64 / 2 ^ 32 % 2 ^ 8 = reg ∧ x % 2 ^ 64 / 2 ^ 5 % 2 ^ 27 = 0 := by
  intro x
  refine ⟨?_, ?_, ?_, ?_, ?_⟩ <;> omega

theorem chkInfo_bytes {c : Chk} {poison final : Bool} (lane : c.lane < 32) (site : c.site < 256) (reg : c.reg < 256) :
    ((chkInfo c poison final).extractLsb' 56 8).toNat = c.syn.toNat ∧ ((chkInfo c poison final).extractLsb' 48 8).toNat = c.lane ∧
    ((chkInfo c poison final).extractLsb' 40 8).toNat = c.site ∧ ((chkInfo c poison final).extractLsb' 32 8).toNat = c.reg ∧
    (chkInfo c poison final).extractLsb' 5 27 = 0 := by
  obtain ⟨low, small, eq⟩ : ∃ low, low < 32 ∧ chkInfo c poison final =
      BitVec.ofNat 64 (c.syn.toNat * 2 ^ 56 + c.lane * 2 ^ 48 + c.site * 2 ^ 40 + c.reg * 2 ^ 32 + low) := by
    refine ⟨(if c.ue then 16 else 0) + (if c.addr.isSome then 8 else 0) + (if poison then 4 else 0) + (if final then 2 else 0) + 1,
      by split_ifs <;> omega, ?_⟩
    simp only [chkInfo, Nat.add_assoc]
  have get (lo n : Nat) (x : Nat) : ((BitVec.ofNat 64 x).extractLsb' lo n).toNat = x % 2 ^ 64 / 2 ^ lo % 2 ^ n := by
    rw [BitVec.extractLsb'_toNat, BitVec.toNat_ofNat, Nat.shiftRight_eq_div_pow]
  obtain ⟨h56, h48, h40, h32, h5⟩ := bytes_of_sum c.syn.isLt lane site reg small
  rw [eq]
  exact ⟨(get _ _ _).trans h56, (get _ _ _).trans h48, (get _ _ _).trans h40, (get _ _ _).trans h32,
    BitVec.eq_of_toNat_eq ((get _ _ _).trans h5)⟩

theorem chkInfo_bits {c : Chk} {poison final : Bool} : (chkInfo c poison final).getLsbD 4 = c.ue ∧
    (chkInfo c poison final).getLsbD 3 = c.addr.isSome ∧ (chkInfo c poison final).getLsbD 2 = poison ∧
    (chkInfo c poison final).getLsbD 1 = final ∧ (chkInfo c poison final).getLsbD 0 = true := by
  obtain ⟨high, eq⟩ : ∃ high, chkInfo c poison final = BitVec.ofNat 64 (high * 32 + (if c.ue then 16 else 0) +
      (if c.addr.isSome then 8 else 0) + (if poison then 4 else 0) + (if final then 2 else 0) + 1) := by
    refine ⟨c.syn.toNat * 2 ^ 51 + c.lane * 2 ^ 43 + c.site * 2 ^ 35 + c.reg * 2 ^ 27, ?_⟩
    have regroup : c.syn.toNat * 2 ^ 56 + c.lane * 2 ^ 48 + c.site * 2 ^ 40 + c.reg * 2 ^ 32 =
        (c.syn.toNat * 2 ^ 51 + c.lane * 2 ^ 43 + c.site * 2 ^ 35 + c.reg * 2 ^ 27) * 32 := by omega
    rw [chkInfo, regroup]
  rw [eq]
  simp only [BitVec.getLsbD_ofNat, Nat.testBit_eq_decide_div_mod_eq]
  cases c.ue <;> cases c.addr.isSome <;> cases poison <;> cases final <;> simp <;> omega

/-! ### What a context fault leaves -/

section Fault

variable {s : State} {ctx core lane node : Nat} {cause : Cause} {trapcause : BitVec 64} {pc : VAddr} {addr : Nat}

theorem State.contextFault_cores : (s.contextFault ctx core lane node cause trapcause pc addr).cores = s.cores := by
  unfold State.contextFault
  split <;> rfl

theorem State.contextFault_recorded (going : (s.ctx ctx).stopping = false) :
    ((s.contextFault ctx core lane node cause trapcause pc addr).ctx ctx).stopping = true ∧
    ((s.contextFault ctx core lane node cause trapcause pc addr).ctx ctx).fault = some ⟨cause, pc, addr, core, lane, node⟩ := by
  have eq : (s.contextFault ctx core lane node cause trapcause pc addr).ctx ctx =
      { s.ctx ctx with fault := some ⟨cause, pc, addr, core, lane, node⟩, stopping := true } := by
    unfold State.contextFault
    rw [if_neg (by simp [going])]
    exact State.ctx_modCtx_self s ctx fun c => { c with fault := some ⟨cause, pc, addr, core, lane, node⟩, stopping := true }
  rw [eq]
  exact ⟨rfl, rfl⟩

end Fault

/-! ### Poisoning -/

section Poison

variable (s : State)

theorem State.poisonList_frame (a : Nat) : HomeFrame s (s.poisonList a) := by
  unfold State.poisonList
  simp only
  split
  · exact .refl s
  · split
    · exact s.toOsm_frame _
    · exact s.modDie_frame _ _

theorem State.poisonHome_frame (a : Nat) : HomeFrame s (s.poisonHome a) :=
  ((s.homeGet_frame a none).trans (State.l2Put_frame _ a _ none)).trans (State.poisonList_frame _ a)

theorem State.farLine_frame {s t : State} {line : Nat} (h : s.farLine line = some t) : HomeFrame s t := by
  obtain ⟨u, back, rfl⟩ := Option.map_eq_some_iff.1 h
  exact (((State.l2Back_frame back).trans (State.setL2_frame _ _)).trans (State.metaTouch_frame _ _)).trans (State.metaTell_frame _ _)

theorem State.poisonFar_frame {s t : State} {a : Nat} (h : s.poisonFar a = some t) : HomeFrame s t := by
  obtain ⟨u, line, put⟩ := Option.bind_eq_some_iff.1 h
  obtain ⟨v, merged, rfl⟩ := Option.map_eq_some_iff.1 put
  exact ((State.farLine_frame line).trans (State.ctlMerge_frame merged)).trans (State.poisonList_frame v a)

theorem State.traffic_frame (pa : Nat) (t : Traffic) : LoadFrame s (s.traffic pa t) := by
  unfold State.traffic
  split <;> exact .of_eq rfl rfl

theorem State.poison_frame (pa : Nat) : LoadFrame s (s.poison pa) := by
  unfold State.poison
  simp only
  split
  · split
    · cases far : s.poisonFar (pa / 4 * 4) with
      | none => exact (s.poisonHome_frame _).load
      | some t => exact (State.poisonFar_frame far).load
    · exact (s.poisonHome_frame _).load
  · split
    · exact s.traffic_frame _ _
    · exact .refl s

end Poison

/-! ### The fates of a failed check -/

/-- The second failure of an interval, on the granule of the first (R65). -/
def Crew.failsTwice (k : Crew) (c : Chk) : Bool :=
  k.retry && (match k.lastBad, c.addr with
    | some a, some b => a == b
    | _, _ => false)

theorem Crew.failsTwice_iff {k : Crew} {c : Chk} :
    k.failsTwice c = true ↔ k.retry = true ∧ ∃ a, k.lastBad = some a ∧ c.addr = some a := by
  unfold Crew.failsTwice
  generalize k.lastBad = last
  generalize c.addr = addr
  cases last <;> cases addr <;> simp only [Bool.and_eq_true, beq_iff_eq, Bool.false_eq_true, reduceCtorEq, false_and, and_false,
    exists_false, Option.some.injEq, exists_eq_left']
  exact and_congr_right fun _ => eq_comm

/-- The wave that has noted a failed check (R62). -/
def Wave.noteCheck (w : Wave) (info addr : BitVec 64) : Wave :=
  { w.mend [parCr 0x013, parCr 0x014] with chkinfo := info, chkaddr := addr }

theorem Wave.noteCheck_keeps (w : Wave) (info addr : BitVec 64) (m : Option Mma) :
    let w' : Wave := { w.noteCheck info addr with mma := m }
    w'.chkinfo = info ∧ w'.chkaddr = addr ∧ (∀ r l, w'.get r l = w.get r l) ∧ (∀ n l, w'.pred n l = w.pred n l) ∧
      w'.threads = w.threads ∧ w'.q = w.q ∧
      [w'.idempc, w'.trapcause, w'.trappc, w'.trapaddr, w'.ehbase] = [w.idempc, w.trapcause, w.trappc, w.trapaddr, w.ehbase] :=
  ⟨rfl, rfl, fun _ _ => rfl, fun _ _ => rfl, rfl, rfl, rfl⟩

/-- The wave that has noted a check of its crew. -/
def Wave.failed (w : Wave) (k : Crew) (c : Chk) : Wave :=
  w.noteCheck (chkInfo c (c.poison || k.failsTwice c) (c.poison || k.retry || k.escaped)) (BitVec.ofNat 64 ((c.addr.getD 0) / 4 * 4))

section Fates

variable {s : State} {p : Pod} {w : Wave} {k : Crew} {c : Chk} {cause : Cause}

/-- The state in which the pod's wave has noted the check. -/
def State.failed (s : State) (p : Pod) (k : Crew) (c : Chk) : State := s.modWave p.core p.slot fun w => w.failed k c

/-- A failed check is noted, and then delivered to the context, or the crew rolls back (R62 to R65, R362). -/
theorem State.raiseChk_eq : s.raiseChk p w k cause c =
    if c.poison = true then (s.failed p k c).deliver p w k cause c.lane ((c.addr.getD 0) / 4 * 4)
    else if k.retry = true then
      (if k.failsTwice c = true then (s.failed p k c).poison (c.addr.getD 0) else s.failed p k c).deliver p w k cause c.lane
        ((c.addr.getD 0) / 4 * 4)
    else if k.escaped = true then (s.failed p k c).deliver p w k .esc c.lane ((c.addr.getD 0) / 4 * 4)
    else ((s.failed p k c).modCrew p.core w.crew fun k => { k with retry := true, lastBad := c.addr }).setPhase
      p.core w.crew (.rollback p.slot) := rfl

theorem State.raiseChk_final (replay : k.replay = none) (final : c.poison = true ∨ k.retry = true ∨ k.escaped = true) :
    ∃ u : State, LoadFrame (s.failed p k c) u ∧ s.raiseChk p w k cause c = u.contextFault k.ctx p.core c.lane k.node
      (if c.poison = false ∧ k.retry = false then .esc else cause)
      (trapcauseOf p (if c.poison = false ∧ k.retry = false then .esc else cause) c.lane w.inHandler) p.pc
      ((c.addr.getD 0) / 4 * 4 % 2 ^ 58) := by
  have delivered (u : State) (cause : Cause) (addr : Nat) : u.deliver p w k cause c.lane addr =
      u.contextFault k.ctx p.core c.lane k.node cause (trapcauseOf p cause c.lane w.inHandler) p.pc (addr % 2 ^ 58) := by
    unfold State.deliver
    rw [replay]
  simp only [State.raiseChk_eq, delivered]
  cases poison : c.poison with
  | true => exact ⟨_, .refl _, by simp⟩
  | false =>
    cases retry : k.retry with
    | true =>
      refine ⟨if k.failsTwice c = true then (s.failed p k c).poison (c.addr.getD 0) else s.failed p k c, ?_,
        by simp only [Bool.false_eq_true, reduceCtorEq, and_false, if_true, if_false]⟩
      split
      · exact State.poison_frame _ _
      · exact .refl _
    | false =>
      have escaped : k.escaped = true := by simpa [poison, retry] using final
      exact ⟨_, .refl _, by simp [escaped]⟩

theorem State.raiseChk_first (poison : c.poison = false) (retry : k.retry = false) (escaped : k.escaped = false) :
    s.raiseChk p w k cause c = ((s.failed p k c).modCrew p.core w.crew fun k => { k with retry := true, lastBad := c.addr }).setPhase
      p.core w.crew (.rollback p.slot) := by
  rw [State.raiseChk_eq, poison, retry, escaped]
  rfl

/-- A failed check changes nothing of its wave but CHKINFO and CHKADDR, and the matrix engine may leave it (R62, R285). -/
theorem State.raiseChk_wave (wave : s.wave? p.core p.slot = some w) (replay : k.replay = none) :
    ∃ m, (s.raiseChk p w k cause c).wave? p.core p.slot = some { w.failed k c with mma := m } := by
  have failed : (s.failed p k c).wave? p.core p.slot = some (w.failed k c) := by
    rw [State.failed, State.wave_modWave_self, wave]
    rfl
  by_cases final : c.poison = true ∨ k.retry = true ∨ k.escaped = true
  · obtain ⟨u, frame, eq⟩ := State.raiseChk_final (s := s) (p := p) (w := w) (cause := cause) replay final
    refine ⟨(w.failed k c).mma, ?_⟩
    rw [eq, State.wave?, State.core, State.contextFault_cores, ← State.core, (frame.programs p.core).waves]
    exact failed
  · simp only [not_or, Bool.not_eq_true] at final
    obtain ⟨poison, retry, escaped⟩ := final
    rw [State.raiseChk_first poison retry escaped, State.setPhase, if_neg (by simp), State.wave?, State.core_modCore_self, Core.pauseMma,
      Map.find_mapAll, ← State.wave?, State.modCrew_wave, State.modCrew_wave, failed, Option.map_some]
    split
    · exact ⟨_, rfl⟩
    · exact ⟨(w.failed k c).mma, rfl⟩

/-- The first failure of an interval makes the crew roll back, and changes no byte (R62, R362). -/
theorem State.raiseChk_rollback (crew : s.crew? p.core w.crew = some k) (poison : c.poison = false) (retry : k.retry = false)
    (escaped : k.escaped = false) : SameMemory s (s.raiseChk p w k cause c) ∧ (s.raiseChk p w k cause c).ctxs = s.ctxs ∧
      (s.raiseChk p w k cause c).crew? p.core w.crew =
        some (({ k with retry := true, lastBad := c.addr } : Crew).setPhase (.rollback p.slot) (s.cycOf p.core)) := by
  rw [State.raiseChk_first poison retry escaped, State.setPhase, if_neg (by simp)]
  refine ⟨.of_eq rfl fun d => ?_, rfl, ?_⟩
  · by_cases own : p.core = d
    · subst own
      simp [State.failed, State.modWave, State.modCrew, Core.pauseMma]
    · simp [State.failed, State.modWave, State.modCrew, State.core_modCore_ne _ _ own]
  · rw [State.crew?, State.core_modCore_self]
    change State.crew? _ _ _ = _
    rw [State.crew_modCrew_self, State.crew_modCrew_self, State.failed, State.modWave_crew, crew]
    rfl

end Fates

end Sys2Proof.Machine
end

section
open Sys2Proof Sys2Proof.Machine

/-- Settles O41: the wave notes the check, whose fields are those of CHKINFO; what else changes is decided by whether the check is
final. -/
theorem failedChecks : Obligations.FailedChecks := by
  intro s p w k c issuing replay lane site reg
  obtain ⟨m, wave⟩ := State.raiseChk_wave (c := c) (cause := c.trap.cause) issuing.wave replay
  obtain ⟨syn_, lane_, site_, reg_, zero⟩ := chkInfo_bytes (poison := c.poison || k.failsTwice c)
    (final := c.poison || k.retry || k.escaped) lane site reg
  obtain ⟨ue, addr, bad, final, valid⟩ := chkInfo_bits (c := c) (poison := c.poison || k.failsTwice c)
    (final := c.poison || k.retry || k.escaped)
  obtain ⟨info, chkaddr, regs, preds, threads, masks, system⟩ := w.noteCheck_keeps
    (chkInfo c (c.poison || k.failsTwice c) (c.poison || k.retry || k.escaped)) (BitVec.ofNat 64 ((c.addr.getD 0) / 4 * 4)) m
  refine ⟨_, wave, regs, preds, threads, masks, system, chkaddr, ?_⟩
  rw [Wave.failed, info]
  refine ⟨syn_, lane_, site_, reg_, zero, ue, addr, ?_, ?_, valid, ?_, ?_⟩
  · rw [← Crew.failsTwice_iff, ← Bool.or_eq_true]
    exact Bool.eq_iff_iff.1 bad
  · refine (Bool.eq_iff_iff.1 final).trans ?_
    rw [Bool.or_eq_true, Bool.or_eq_true, or_assoc]
  · exact State.raiseChk_rollback issuing.crew
  · intro final going
    obtain ⟨u, frame, eq⟩ := State.raiseChk_final (s := s) (p := p) (w := w) (c := c) (cause := c.trap.cause) replay final
    have ctx : u.ctx k.ctx = s.ctx k.ctx := frame.ctx k.ctx
    change ((s.raiseChk p w k c.trap.cause c).ctx k.ctx).stopping = true ∧ ((s.raiseChk p w k c.trap.cause c).ctx k.ctx).fault = _
    rw [eq]
    exact State.contextFault_recorded (ctx ▸ going)

end

section
/-! Every step keeps the canonical form of the stacks' bytes and codes. -/

namespace Sys2Proof.Machine

/-- A meaning that leads to a next state keeps the canonical form in it. -/
def Res.MemOk (r : Res) : Prop := ∀ t, r = .next t → t.MemOk

/-- The state that an effect carries is in canonical form. -/
def Eff.MemOk : Eff → Prop
  | .done s | .trap s _ | .held s _ => s.MemOk

theorem Res.MemOk.next {s : State} (h : s.MemOk) : Res.MemOk (.next s) := by
  rintro t ⟨⟩
  exact h

theorem Res.MemOk.fault {f : Fault} : Res.MemOk (.fault f) := fun _ e => nomatch e

theorem Res.MemOk.refused {r : Refusal} : Res.MemOk (.refused r) := fun _ e => nomatch e

theorem Eff.MemOk.done {s : State} (h : s.MemOk) : (Eff.done s).MemOk := h

theorem Eff.MemOk.trap {s : State} {t : Trap} (h : s.MemOk) : (Eff.trap s t).MemOk := h

theorem Eff.MemOk.held {s : State} {i : Hold} (h : s.MemOk) : (Eff.held s i).MemOk := h

theorem State.MemOk.of_snd {α : Type} {p : α × State} {a : α} {t : State} (e : p = (a, t)) (h : p.2.MemOk) : t.MemOk := by
  rw [e] at h
  exact h

theorem State.MemOk.of_snd_snd {α β : Type} {p : α × β × State} {a : α} {b : β} {t : State} (e : p = (a, b, t))
    (h : p.2.2.MemOk) : t.MemOk := by
  rw [e] at h
  exact h

theorem State.MemOk.foldl {α : Type} {f : State → α → State} {l : List α} {s : State} (h : s.MemOk)
    (step : ∀ s x, (h : s.MemOk) → (f s x).MemOk) : (l.foldl f s).MemOk := memOk_foldl f l step h

end Sys2Proof.Machine
end

section
/-! The model's higher-order functions and its functions that may refuse keep the canonical form. -/

namespace Sys2Proof.Machine

theorem Eff.MemOk.of_done {x : Eff} {s : State} (e : x = .done s) (h : x.MemOk) : s.MemOk := by
  rw [e] at h
  exact h

theorem Eff.MemOk.of_trap {x : Eff} {s : State} {t : Trap} (e : x = .trap s t) (h : x.MemOk) : s.MemOk := by
  rw [e] at h
  exact h

theorem Eff.MemOk.of_held {x : Eff} {s : State} {i : Hold} (e : x = .held s i) (h : x.MemOk) : s.MemOk := by
  rw [e] at h
  exact h

theorem State.MemOk.foldl_snd {α β : Type} {f : β × State → α → β × State} {l : List α} {x : β × State} (h : x.2.MemOk)
    (step : ∀ x a, (h : x.2.MemOk) → (f x a).2.MemOk) : (l.foldl f x).2.MemOk := by
  induction l generalizing x with
  | nil => exact h
  | cons a l ih => exact ih (step x a h)

theorem State.MemOk.setRecs {s : State} {recs : List FaultRec} (h : s.MemOk) : State.MemOk { s with recs := recs } := h

theorem State.MemOk.setArg {s : State} {arg : Arg} (h : s.MemOk) : State.MemOk { s with arg := arg } := h

theorem State.MemOk.setClusters {s : State} {clusters : Map Cluster} (h : s.MemOk) :
    State.MemOk { s with clusters := clusters } := h

theorem State.MemOk.setCycle {s : State} {cycle : Nat} (h : s.MemOk) : State.MemOk { s with cycle := cycle } := h

end Sys2Proof.Machine
end

section
/-! The functions of Machine/State keep the canonical form. -/

namespace Sys2Proof.Machine

theorem State.MemOk.reset : State.reset.MemOk := ⟨Memory.wf_nil, Memory.wf_nil⟩

end Sys2Proof.Machine
end

section
/-! The functions of Machine/Access keep the canonical form. -/

namespace Sys2Proof.Machine

theorem State.MemOk.modCluster {s : State} {n : Nat} {f : Cluster → Cluster} (h : s.MemOk) : (s.modCluster n f).MemOk := h

theorem State.MemOk.modCtx {s : State} {c : Nat} {f : Ctx → Ctx} (h : s.MemOk) : (s.modCtx c f).MemOk := h

theorem State.MemOk.modCrew {s : State} {c k : Nat} {f : Crew → Crew} (h : s.MemOk) : (s.modCrew c k f).MemOk := h

theorem State.MemOk.modBody {s : State} {c k : Nat} {f : CrewBody → CrewBody} (h : s.MemOk) : (s.modBody c k f).MemOk := h

theorem State.MemOk.freeOk {s : State} (h : s.MemOk) : s.freeOk.2.MemOk := by
  unfold State.freeOk
  simp only
  exact h

theorem State.MemOk.freeEarlier {s : State} (h : s.MemOk) : s.freeEarlier.2.MemOk := by
  unfold State.freeEarlier
  simp only
  exact h

theorem State.MemOk.fresh {s : State} (h : s.MemOk) : s.fresh.2.MemOk := by
  unfold State.fresh
  simp only
  exact h

theorem State.MemOk.unitBad {s : State} {unit pa : Nat} (h : s.MemOk) : (s.unitBad unit pa).MemOk := h

theorem State.MemOk.irq {s : State} {cc kind : Nat} (h : s.MemOk) : (s.irq cc kind).MemOk := h

theorem State.MemOk.frame {s : State} {f : Frame} (h : s.MemOk) : (s.frame f).MemOk := h

theorem State.MemOk.sendUp {s : State} {cl : Nat} {c : Cmd} (h : s.MemOk) : (s.sendUp cl c).MemOk := h

theorem State.MemOk.sendDown {s : State} {cl : Nat} {c : Cmd} (h : s.MemOk) : (s.sendDown cl c).MemOk := h

end Sys2Proof.Machine
end

section
/-! The functions of Machine/Mem keep the canonical form. -/

namespace Sys2Proof.Machine

theorem State.MemOk.backAll {s : State} {core : Nat} (h : s.MemOk) : (s.backAll core).MemOk := by
  unfold State.backAll
  exact .foldl h (fun s x h => .foldl h (fun s x h => State.l1Back_memOk _ _ h))

end Sys2Proof.Machine
end

section
/-! The functions of Machine/Xlat keep the canonical form. -/

namespace Sys2Proof.Machine

theorem State.MemOk.walkFrom {s : State} {ctx va table n : Nat} (h : s.MemOk) : (s.walkFrom ctx va table n).2.MemOk := by
  induction n generalizing s table with
  | zero =>
    exact h
  | succ n ih =>
    unfold State.walkFrom
    simp only
    split
    · split
      · simp only
        exact State.homeGets_memOk _ _ h
      · split
        · simp only
          exact State.homeGets_memOk _ _ h
        · split
          · split
            · simp only
              exact State.homeGets_memOk _ _ h
            · simp only
              exact State.homeGets_memOk _ _ h
          · split
            · simp only
              exact State.homeGets_memOk _ _ h
            · split
              · exact ih (State.homeGets_memOk _ _ h)
              simp only
              exact State.toOsm_memOk _ (State.homeGets_memOk _ _ h)
    · simp only
      exact State.toOsm_memOk _ (State.homeGets_memOk _ _ h)

theorem State.MemOk.walk {s : State} {ctx va root : Nat} (h : s.MemOk) : (s.walk ctx va root).2.MemOk := by
  unfold State.walk
  split
  · exact .walkFrom h
  simp only
  exact h

theorem State.MemOk.leafCheck {s : State} {ctx va pte level : Nat} {text : Bool} (h : s.MemOk) :
    (s.leafCheck ctx va pte level text).2.MemOk := by
  unfold State.leafCheck
  simp only
  split
  · exact h
  split
  · exact h
  split
  · exact h
  split
  · exact h
  split
  · exact h
  split
  · exact h
  simp only
  exact h

theorem State.MemOk.setAD {s : State} {a pte : Nat} {dirty : Bool} (h : s.MemOk) : (s.setAD a pte dirty).2.MemOk := by
  unfold State.setAD
  simp only
  split
  · split
    · split
      · exact h
      simp only
      exact State.homePuts_memOk _ _ h
    · simp only
      split
      · exact h
      simp only
      exact State.homePuts_memOk _ _ h
  · split
    · split
      · exact h
      simp only
      exact State.homePuts_memOk _ _ h
    · split
      · exact h
      simp only
      exact State.homePuts_memOk _ _ h

theorem State.MemOk.tlbFill {s : State} {g : Agent} {e : TlbEntry} (h : s.MemOk) : (s.tlbFill g e).MemOk := by
  unfold State.tlbFill
  simp only
  have drawn : ∀ b : Bool, (if b = true then s.freeWord else (0, s)).2.MemOk := by
    intro b
    split <;> exact h
  split <;> exact drawn _

theorem State.MemOk.xlat {s : State} {g : Agent} {text : Bool} {va : Nat} {acc : Access} (h : s.MemOk) :
    (s.xlat g text va acc).2.MemOk := by
  unfold State.xlat
  simp only
  split
  · split <;> exact h
  split
  · simp only
    exact .of_snd ‹_› (.walk h)
  · simp only
    exact .of_snd ‹_› (.walk h)
  · split
    · simp only
      exact .of_snd ‹_› (.leafCheck (.of_snd ‹_› (.walk h)))
    · split
      · simp only
        exact .of_snd ‹_› (.leafCheck (.of_snd ‹_› (.walk h)))
      · simp only
        exact .of_snd ‹_› (.leafCheck (.of_snd ‹_› (.walk h)))
      · simp only
        exact .tlbFill (.setAD (.of_snd ‹_› (.leafCheck (.of_snd ‹_› (.walk h)))))

theorem State.MemOk.xlatGlobal {s : State} {g : Agent} {va : Nat} {acc : Access} (h : s.MemOk) :
    (s.xlatGlobal g va acc).2.MemOk := by
  unfold State.xlatGlobal
  split
  · exact .xlat h
  split
  · exact h
  split <;> exact h

theorem State.MemOk.translate {s : State} {g : Agent} {va : Nat} {acc : Access} (h : s.MemOk) :
    (s.translate g va acc).2.MemOk := by
  unfold State.translate
  simp only
  split
  · split
    · exact .xlat h
    exact h
  · split
    · exact .xlatGlobal h
    split
    · split
      · exact h
      exact .xlat h
    · split
      · split
        · exact h
        split
        · exact h
        exact .xlatGlobal h
      · split
        · split <;> exact h
        exact h

theorem State.MemOk.attach {s : State} {g : Agent} {va page cond level : Nat} {acc : Access} (h : s.MemOk) :
    (s.attach g va page cond level acc).2.MemOk := by
  unfold State.attach
  simp only
  split
  · simp only
    exact h
  · simp only
    exact .of_eq (.fresh h) rfl rfl

theorem State.MemOk.tlbDropPage {s : State} {ctx page : Nat} (h : s.MemOk) : (s.tlbDropPage ctx page).MemOk := h

theorem State.MemOk.unitGets {s : State} {g : Agent} {va n : Nat} (h : s.MemOk) : (s.unitGets g va n).2.2.MemOk := by
  induction n generalizing s va with
  | zero =>
    exact h
  | succ n ih =>
    unfold State.unitGets
    simp only
    split
    · simp only
      split
      · exact ih (State.homeGet_memOk _ _ (.of_snd ‹_› (.translate h)))
      exact ih (State.devGet_memOk _ (.of_snd ‹_› (.translate h)))
    · simp only
      exact .of_snd ‹_› (.translate h)

theorem State.MemOk.unitPuts {s : State} {g : Agent} {va : Nat} {l : List GUnit} (h : s.MemOk) :
    (s.unitPuts g va l).2.MemOk := by
  induction l generalizing s va with
  | nil =>
    exact h
  | cons x l ih =>
    unfold State.unitPuts
    split
    · split
      · exact ih (State.homePut_memOk _ _ _ (.of_snd ‹_› (.translate h)))
      exact ih (State.devPut_memOk _ _ (.of_snd ‹_› (.translate h)))
    · simp only
      exact .of_snd ‹_› (.translate h)

end Sys2Proof.Machine
end

section
/-! The functions of Machine/Ops keep the canonical form. -/

namespace Sys2Proof.Machine

theorem State.MemOk.retireWith {s : State} {p : Pod} {count : Bool} {next : Nat → VAddr} (h : s.MemOk) :
    (s.retireWith p count next).MemOk := h

theorem State.MemOk.retire {s : State} {p : Pod} (h : s.MemOk) : (s.retire p).MemOk := h

theorem State.MemOk.goOn {s : State} {p : Pod} (h : s.MemOk) : (s.goOn p).MemOk := h

theorem State.MemOk.stalled {s : State} {p : Pod} (h : s.MemOk) : (s.stalled p).MemOk := h

theorem State.MemOk.writeReg {s : State} {p : Pod} {r : Reg} {f : Nat → GUnit} (h : s.MemOk) : (s.writeReg p r f).MemOk := h

theorem State.MemOk.clearIdem {s : State} {p : Pod} (h : s.MemOk) : (s.clearIdem p).MemOk := h

theorem State.MemOk.escape {s : State} {p : Pod} {w : Wave} (h : s.MemOk) : (s.escape p w).MemOk := h

theorem State.MemOk.setPhase {s : State} {core crew : Nat} {ph : Phase} (h : s.MemOk) : (s.setPhase core crew ph).MemOk := by
  unfold State.setPhase
  simp only
  split <;> exact h

theorem State.MemOk.testBarrier {s : State} {core crew : Nat} (h : s.MemOk) : (s.testBarrier core crew).MemOk := by
  unfold State.testBarrier
  simp only
  split
  · exact h
  split
  · exact h
  split
  · exact .setPhase h
  exact h

theorem State.MemOk.contextFault {s : State} {ctx core lane node : Nat} {cause : Cause} {trapcause : BitVec 64} {pc : VAddr}
    {addr : Nat} (h : s.MemOk) : (s.contextFault ctx core lane node cause trapcause pc addr).MemOk := by
  unfold State.contextFault
  split <;> exact h

theorem State.MemOk.dropIds {s : State} {ctx : Nat} {out : List Nat} (h : s.MemOk) : (s.dropIds ctx out).MemOk := h

theorem State.MemOk.endReplay {s : State} {u fate : Nat} (h : s.MemOk) : (s.endReplay u fate).MemOk := by
  unfold State.endReplay
  refine .foldl h (fun s x h => .foldl h (fun s x h => ?_))
  simp only
  split <;> exact h

theorem State.MemOk.deliver {s : State} {p : Pod} {w : Wave} {k : Crew} {cause : Cause} {lane addr : Nat} (h : s.MemOk) :
    (s.deliver p w k cause lane addr).MemOk := by
  unfold State.deliver
  split
  · exact .endReplay h
  exact .contextFault h

theorem State.MemOk.raiseChk {s : State} {p : Pod} {w : Wave} {k : Crew} {cause : Cause} {c : Chk} (h : s.MemOk) :
    (s.raiseChk p w k cause c).MemOk := by
  unfold State.raiseChk
  simp only
  split
  · exact .deliver h
  split
  · split
    · split
      · exact .deliver (State.poison_memOk _ h)
      exact .deliver h
    · split
      · exact .deliver (State.poison_memOk _ h)
      exact .deliver h
  · split
    · exact .deliver h
    exact .setPhase h

theorem State.MemOk.bkptStop {s : State} {p : Pod} {w : Wave} {k : Crew} {lane : Nat} (h : s.MemOk) :
    (s.bkptStop p w k lane).MemOk := by
  unfold State.bkptStop
  exact .sendUp (.setPhase h)

theorem State.MemOk.raise {s : State} {p : Pod} {w : Wave} {k : Crew} {t : Trap} (h : s.MemOk) : (s.raise p w k t).MemOk := by
  unfold State.raise
  split
  · exact .raiseChk h
  split
  · exact .deliver h
  split
  · exact .deliver h
  split
  · split
    · exact .deliver h
    split
    · exact h
    split
    · exact .bkptStop h
    exact .deliver h
  · split
    · exact h
    split
    · exact .bkptStop h
    exact .deliver h

theorem State.MemOk.effState {e : Eff} {p : Pod} {w : Wave} {k : Crew} (h : e.MemOk) : (e.state p w k).MemOk := by
  cases e with
  | done s => exact h
  | trap s t => exact .raise h
  | held s i => exact h

theorem Eff.MemOk.checked {s : State} {c : Option Chk} {e : Eff} (h : s.MemOk) (h' : e.MemOk) : (checked s c e).MemOk := by
  unfold Machine.checked
  split
  · exact .trap h
  exact h'

theorem Res.MemOk.withRegs {s : State} {regs : List Reg} {f : Pod → Wave → Crew → Eff} (h : s.MemOk)
    (step : ∀ p w k, (f p w k).MemOk) : (withRegs s regs f).MemOk := by
  unfold Machine.withRegs
  split
  · exact .fault
  split
  · exact .fault
  split
  · exact .fault
  split
  · exact .next (.effState (step ..))
  · exact .next (.effState (.trap h))

theorem Res.MemOk.withPod {s : State} {regs : List Reg} {f : Pod → Wave → Crew → Eff} (h : s.MemOk)
    (step : ∀ p w k, (f p w k).MemOk) : (withPod s regs f).MemOk :=
  .withRegs h fun p w k => .checked h (step p w k)

theorem Eff.MemOk.governed {s : State} {p : Pod} {w : Wave} {e : Eff} (h : s.MemOk) (h' : e.MemOk) :
    (governed s p w e).MemOk := by
  unfold Machine.governed
  split
  · exact .checked h h'
  exact .trap h

end Sys2Proof.Machine
end

section
/-! The functions of Machine/Operands keep the canonical form. -/

namespace Sys2Proof.Machine

theorem State.MemOk.lanePlaces {s : State} {g : Agent} {acc : Access} {deny : Xlat → Bool} {l : List Nat} (h : s.MemOk) :
    (s.lanePlaces g acc deny l).2.MemOk := by
  induction l generalizing s with
  | nil =>
    exact h
  | cons x l ih =>
    unfold State.lanePlaces
    simp only
    split
    · simp only
      exact .of_snd ‹_› (.translate h)
    · simp only
      exact .of_snd ‹_› (.translate h)
    · split
      · simp only
        exact .of_snd ‹_› (.translate h)
      · simp only
        exact ih (.of_snd ‹_› (.translate h))

theorem State.MemOk.findPlaces {s : State} {p : Pod} {w : Wave} {k : Crew} {acc : Access} {deny : Xlat → Bool} {align n : Nat}
    {l : List (Nat × Option Nat)} (h : s.MemOk) : (s.findPlaces p w k acc deny align n l).2.MemOk := by
  induction l generalizing s with
  | nil => exact h
  | cons x l ih =>
    obtain ⟨lane, _ | va⟩ := x
    · exact h
    · unfold State.findPlaces
      simp only
      split
      · exact h
      split
      · exact .lanePlaces h
      · exact ih (.lanePlaces h)

theorem State.MemOk.attachAll {s : State} {p : Pod} {w : Wave} {k : Crew} {acc : Access} {l : List Miss} (h : s.MemOk) :
    (s.attachAll p w k acc l).2.MemOk := by
  induction l generalizing s with
  | nil =>
    exact h
  | cons x l ih =>
    unfold State.attachAll
    simp only
    split
    · simp only
      exact ih (.attach h)
    · exact h

theorem State.MemOk.holdMisses {s : State} {p : Pod} {l : List (Nat × Nat × Nat)} (h : s.MemOk) :
  (s.holdMisses p l).MemOk := by
  unfold State.holdMisses
  split <;> exact h

theorem State.MemOk.gatherDeny {s : State} {p : Pod} {w : Wave} {k : Crew} {acc : Access} {deny : Xlat → Bool} {align n : Nat}
    {l : List (Nat × Option Nat)} (h : s.MemOk) : (s.gatherDeny p w k acc deny align n l).2.MemOk := by
  unfold State.gatherDeny
  simp only
  split
  · simp only
    exact h
  · split
    · simp only
      exact .findPlaces h
    · simp only
      exact .findPlaces h
    · simp only
      exact .holdMisses (.attachAll (.findPlaces h))

theorem State.MemOk.gather {s : State} {p : Pod} {w : Wave} {k : Crew} {acc : Access} {align n : Nat}
    {l : List (Nat × Option Nat)} (h : s.MemOk) : (s.gather p w k acc align n l).2.MemOk := by
  unfold State.gather
  exact .gatherDeny h

theorem Eff.MemOk.withPlaces {g : Gather × State} {f : State → List Slotted → Eff} (h : g.2.MemOk)
    (step : ∀ s l, (h : s.MemOk) → (f s l).MemOk) : (withPlaces g f).MemOk := by
  unfold Machine.withPlaces
  split
  · exact step _ _ h
  · exact .trap h
  · exact .done h

theorem State.MemOk.loadAt {s : State} {p : Pod} {w : Wave} {k : Crew} {x : Xlat} {strong : Bool} (h : s.MemOk) :
    (s.loadAt p w k x strong).2.MemOk := by
  unfold State.loadAt
  split
  · exact h
  · split
    · exact State.devGet_memOk _ h
    split
    · exact State.strongGet_memOk _ _ _ h
    exact State.weakGet_memOk _ _ _ _ _ _ h
  · exact h

theorem State.MemOk.storeAt {s : State} {p : Pod} {w : Wave} {k : Crew} {x : Xlat} {u : GUnit} {strong : Bool} (h : s.MemOk) :
    (s.storeAt p w k x u strong).MemOk := by
  unfold State.storeAt
  simp only
  split
  · exact h
  · split
    · split
      · exact State.devPut_memOk _ _ h
      exact .escape (State.devPut_memOk _ _ h)
    · split
      · exact State.strongPut_memOk _ _ _ _ _ _ h
      exact State.weakPut_memOk _ _ _ _ _ _ _ h
  · exact h

theorem State.MemOk.loadFrom {s : State} {p : Pod} {w : Wave} {k : Crew} {strong : Bool} {seen : List (Xlat × GUnit)}
    {l : List Slotted} (h : s.MemOk) : (s.loadFrom p w k strong seen l).2.MemOk := by
  induction l generalizing s seen with
  | nil =>
    exact h
  | cons x l ih =>
    unfold State.loadFrom
    simp only
    split
    · exact ih h
    exact ih (.loadAt h)

theorem State.MemOk.loadAll {s : State} {p : Pod} {w : Wave} {k : Crew} {strong : Bool} {l : List Slotted} (h : s.MemOk) :
    (s.loadAll p w k strong l).2.MemOk := by
  unfold State.loadAll
  exact .loadFrom h

theorem State.MemOk.storeFrom {s : State} {p : Pod} {w : Wave} {k : Crew} {strong : Bool} {dead : List Nat}
    {l : List (Slotted × GUnit)} (h : s.MemOk) : (s.storeFrom p w k strong dead l).MemOk := by
  induction l generalizing s dead with
  | nil =>
    exact h
  | cons x l ih =>
    unfold State.storeFrom
    split
    · exact ih h
    exact ih (.storeAt h)

theorem State.MemOk.putLoaded {s : State} {p : Pod} {d : Reg} {n : Nat} {l : List (Nat × GUnit × Option Nat)} (h : s.MemOk) :
    (s.putLoaded p d n l).MemOk := by
  unfold State.putLoaded
  refine .foldl h (fun s x h => .foldl h (fun s x h => ?_))
  simp only
  split <;> exact h

theorem State.MemOk.icGet {s : State} {core pa : Nat} {cz : Bool} (h : s.MemOk) : (s.icGet core pa cz).2.MemOk := by
  unfold State.icGet
  simp only
  split
  · exact h
  simp only
  split
  · exact State.modCore_memOk _ _ (State.homeGet_memOk _ _ h)
  exact State.modCore_memOk _ _ (State.devGet_memOk _ h)

end Sys2Proof.Machine
end

section
/-! The functions of Machine/Lane keep the canonical form. -/

namespace Sys2Proof.Machine

theorem Res.MemOk.laneOp {s : State} {rs : List Reg} {d : Reg} {f : Wave → Nat → Word} (h : s.MemOk) :
    (laneOp s rs d f).MemOk := by
  unfold Machine.laneOp
  exact .withPod h (fun p w k => .checked h (.done h))

theorem Res.MemOk.lanePred {s : State} {rs : List Reg} {ps : List Nat} {d : BitVec 3} {f : Wave → Nat → Bool} (h : s.MemOk) :
    (lanePred s rs ps d f).MemOk := by
  unfold Machine.lanePred
  exact .withPod h (fun p w k => .checked h (.done h))

theorem State.MemOk.writePair {s : State} {p : Pod} {d : Reg} {f : Nat → BitVec 64} (h : s.MemOk) :
    (s.writePair p d f).MemOk := h

theorem Res.MemOk.laneOp64 {s : State} {rs : List Reg} {d : Reg} {f : Wave → Nat → BitVec 64} (h : s.MemOk) :
    (laneOp64 s rs d f).MemOk := by
  unfold Machine.laneOp64
  exact .withPod h (fun p w k => .checked h (.done h))

theorem Res.MemOk.execSelB32 {n : BitVec 3} {b a d : BitVec 7} {s : State} (h : s.MemOk) : (execSelB32 n b a d s).MemOk := by
  unfold Machine.execSelB32
  exact .withPod h (fun p w k => .checked h (.done h))

theorem Res.MemOk.execPtov {a : BitVec 3} {d : BitVec 7} {s : State} (h : s.MemOk) : (execPtov a d s).MemOk := by
  unfold Machine.execPtov
  exact .withPod h (fun p w k => .checked h (.done h))

end Sys2Proof.Machine
end

section
/-! The functions of Machine/Tile keep the canonical form. -/

namespace Sys2Proof.Machine

theorem State.MemOk.setTile {s : State} {core crew n : Nat} {t : TDesc} {us : List GUnit} (h : s.MemOk) :
    (s.setTile core crew n t us).MemOk := h

theorem State.MemOk.writeTdesc {s t : State} {core crew n : Nat} {k : Crew} {v : BitVec 64} (h : s.MemOk)
    (e : s.writeTdesc core crew n k v = some t) : t.MemOk := by
  unfold State.writeTdesc at e
  simp only at e
  split at e
  · cases e
    exact h
  split at e
  · cases e
    exact .setTile h
  · cases e

end Sys2Proof.Machine
end

section
/-! The functions of Machine/LaneMove keep the canonical form. -/

namespace Sys2Proof.Machine

theorem Res.MemOk.laneTake {s : State} {a b d : Reg} {src : Pod → Wave → Nat → Nat} (h : s.MemOk) :
    (laneTake s a b d src).MemOk := by
  unfold Machine.laneTake
  exact .withPod h (fun p w k => .checked h (.done h))

theorem Res.MemOk.execBallotB32 {a : BitVec 3} {d : BitVec 7} {s : State} (h : s.MemOk) : (execBallotB32 a d s).MemOk := by
  unfold Machine.execBallotB32
  exact .withPod h (fun p w k => .checked h (.done h))

theorem Res.MemOk.vote {s : State} {a d : BitVec 3} {f : List Bool → Bool} (h : s.MemOk) : (vote s a d f).MemOk := by
  unfold Machine.vote
  exact .withPod h (fun p w k => .checked h (.done h))

theorem Res.MemOk.execQset {a d : BitVec 4} {s : State} (h : s.MemOk) : (execQset a d s).MemOk := by
  unfold Machine.execQset
  refine .withPod h (fun p w k => ?_)
  simp only
  split
  · exact .trap h
  exact .checked h (.done h)

theorem Res.MemOk.execQget {a : BitVec 4} {d : BitVec 7} {s : State} (h : s.MemOk) : (execQget a d s).MemOk := by
  unfold Machine.execQget
  exact .withPod h (fun p w k => .checked h (.done h))

end Sys2Proof.Machine
end

section
/-! The functions of Machine/Uniform keep the canonical form. -/

namespace Sys2Proof.Machine

theorem Res.MemOk.uniOp {s : State} {rs : List Reg} {d : Reg} {f : Wave → Word} (h : s.MemOk) : (uniOp s rs d f).MemOk := by
  unfold Machine.uniOp
  exact .withPod h (fun p w k => .checked h (.done h))

theorem State.MemOk.crWrite {s t : State} {p : Pod} {w : Wave} {k : Crew} {crn : Nat} {v : BitVec 64} (h : s.MemOk)
    (e : s.crWrite p w k crn v = some t) : t.MemOk := by
  unfold State.crWrite at e
  split at e
  · exact .writeTdesc h e
  split at e
  case h_1 =>
    simp only at e
    split at e <;> cases e <;> exact h
  case h_2 =>
    simp only at e
    split at e <;> cases e <;> exact h
  case h_9 =>
    simp only at e
    split at e <;> cases e <;> exact h
  all_goals
    cases e
    exact h

theorem State.MemOk.crMend {s : State} {p : Pod} {w : Wave} {crn : Nat} (h : s.MemOk) : (s.crMend p w crn).MemOk := by
  unfold State.crMend
  split <;> exact h

theorem Res.MemOk.execCmovRead {n : BitVec 12} {d : BitVec 6} {s : State} (h : s.MemOk) : (execCmovRead n d s).MemOk := by
  unfold Machine.execCmovRead
  exact .withPod h (fun p w k => .checked h (.done h))

theorem Res.MemOk.execCmovWrite {n : BitVec 12} {d : BitVec 6} {s : State} (h : s.MemOk) : (execCmovWrite n d s).MemOk := by
  unfold Machine.execCmovWrite
  refine .withRegs h (fun p w k => ?_)
  split
  · exact .trap h
  split
  · exact .done h
  split
  · exact .checked h (.checked h (.trap h))
  split
  · exact .checked h (.checked h (.done (.retire (.crMend (.crWrite h ‹_›)))))
  exact .checked h (.checked h (.done (.retire (.crWrite h ‹_›))))

end Sys2Proof.Machine
end

section
/-! The functions of Machine/Branch keep the canonical form. -/

namespace Sys2Proof.Machine

theorem Res.MemOk.branch {s : State} {o : BitVec 20} {ps : List Src} {take : Pod → Wave → List Nat} (h : s.MemOk) :
    (branch s o ps take).MemOk := by
  unfold Machine.branch
  refine .withPod h (fun p w k => ?_)
  simp only
  split
  · exact .checked h (.trap h)
  exact .checked h (.done h)

theorem Eff.MemOk.callTo {s : State} {p : Pod} {w : Wave} {k : Crew} {ls : List Nat} {target : VAddr} (h : s.MemOk) :
    (callTo s p w k ls target).MemOk := by
  unfold Machine.callTo
  simp only
  split
  · exact .trap h
  refine .withPlaces (.gather h) (fun s l h => ?_)
  split
  · exact .done (.retireWith (State.modWave_memOk _ _ _ (.escape (.storeFrom h))))
  exact .done (.retireWith (State.modWave_memOk _ _ _ (.storeFrom h)))

theorem Res.MemOk.call {s : State} {o : BitVec 20} {ps : List Src} {take : Pod → Wave → List Nat} (h : s.MemOk) :
    (call s o ps take).MemOk := by
  unfold Machine.call
  refine .withPod h (fun p w k => ?_)
  simp only
  split
  · exact .checked h (.trap h)
  exact .checked h (.callTo h)

theorem Res.MemOk.execJmp {a : BitVec 6} {s : State} (h : s.MemOk) : (execJmp a s).MemOk := by
  unfold Machine.execJmp
  refine .withPod h (fun p w k => ?_)
  simp only
  split
  · exact .checked h (.trap h)
  exact .checked h (.done h)

theorem Res.MemOk.execCalli {a : BitVec 6} {s : State} (h : s.MemOk) : (execCalli a s).MemOk := by
  unfold Machine.execCalli
  refine .withPod h (fun p w k => ?_)
  simp only
  split
  · exact .checked h (.trap h)
  exact .checked h (.callTo h)

theorem Res.MemOk.execRet {s : State} (h : s.MemOk) : (execRet s).MemOk := by
  unfold Machine.execRet
  refine .withPod h (fun p w k => ?_)
  simp only
  split
  · exact .checked h (.trap h)
  exact .checked h (.withPlaces (.gather h) (fun s l h => .checked (.loadAll h) (.done (.retireWith
    (State.modWave_memOk _ _ _ (.loadAll h))))))

theorem State.MemOk.icAll {s : State} {core : Nat} {l : List Slotted} (h : s.MemOk) : (s.icAll core l).2.MemOk := by
  induction l generalizing s with
  | nil =>
    exact h
  | cons x l ih =>
    unfold State.icAll
    simp only
    split
    · simp only
      exact ih (.icGet h)
    · exact ih h

theorem Res.MemOk.literal {s : State} {o : BitVec 18} {d : Reg} {n : Nat} (h : s.MemOk) : (literal s o d n).MemOk := by
  unfold Machine.literal
  refine .withPod h (fun p w k => ?_)
  simp only
  split
  · exact .trap h
  exact .withPlaces (.gather h) (fun s l h => .done (.retire (.putLoaded (.icAll h))))

end Sys2Proof.Machine
end

section
/-! The functions of Machine/MemInstr keep the canonical form. -/

namespace Sys2Proof.Machine

theorem State.MemOk.unheld {s : State} {p : Pod} {w : Wave} (h : s.MemOk) : (s.unheld p w).MemOk := by
  unfold State.unheld
  split <;> exact h

theorem Eff.MemOk.throttle {s : State} {p : Pod} {w : Wave} {vas : List (Nat × Option Nat)} {f : State → Eff} (h : s.MemOk)
    (step : ∀ s, (h : s.MemOk) → (f s).MemOk) : (throttle s p w vas f).MemOk := by
  unfold Machine.throttle
  split
  · exact .done h
  · exact step _ (.unheld h)

theorem State.MemOk.releases {s : State} {core ctx scope : Nat} {l : List Nat} (h : s.MemOk) :
    (s.releases core ctx scope l).MemOk := by
  unfold State.releases
  exact .foldl h (fun s x h => State.release_memOk _ _ _ _ h)

theorem State.MemOk.acquires {s : State} {core ctx scope : Nat} {l : List Nat} (h : s.MemOk) :
    (s.acquires core ctx scope l).MemOk := by
  unfold State.acquires
  exact .foldl h (fun s x h => State.acquire_memOk _ _ _ _ h)

theorem Res.MemOk.memLoad {s : State} {ord scope align n bs : Nat} {off : ℤ} {a d : Reg} (h : s.MemOk) :
    (memLoad s ord scope align n bs off a d).MemOk := by
  unfold Machine.memLoad
  refine .withPod h (fun p w k => .throttle h (fun s h => .checked h (.withPlaces (.gather h) (fun s l h => ?_))))
  simp only
  split
  · split
    · exact .done (.retire (.acquires (.putLoaded (.loadAll h))))
    exact .done (.retire (.putLoaded (.loadAll h)))
  · split
    · exact .done (.retire (.clearIdem (.acquires (.putLoaded (.loadAll h)))))
    exact .done (.retire (.clearIdem (.putLoaded (.loadAll h))))

theorem Res.MemOk.memStore {s : State} {ord scope align n bs : Nat} {off : ℤ} {ip : Bool} {a d : Reg} (h : s.MemOk) :
    (memStore s ord scope align n bs off ip a d).MemOk := by
  unfold Machine.memStore
  refine .withPod h (fun p w k => .throttle h (fun s h => .checked h (.withPlaces (.gather h) (fun s l h => ?_))))
  simp only
  split
  · split
    · split
      · exact .done (.retire (.clearIdem (.escape (.storeFrom (.releases h)))))
      exact .done (.retire (.clearIdem (.escape (.storeFrom h))))
    · split
      · exact .done (.retire (.clearIdem (.storeFrom (.releases h))))
      exact .done (.retire (.clearIdem (.storeFrom h)))
  · split
    · split
      · exact .done (.retire (.escape (.storeFrom (.releases h))))
      exact .done (.retire (.escape (.storeFrom h)))
    · split
      · exact .done (.retire (.storeFrom (.releases h)))
      exact .done (.retire (.storeFrom h))

end Sys2Proof.Machine
end

section
/-! The functions of Machine/Atomic keep the canonical form. -/

namespace Sys2Proof.Machine

theorem State.MemOk.freeUnits {s : State} {peer : Bool} {n : Nat} (h : s.MemOk) : (s.freeUnits peer n).2.MemOk := by
  induction n generalizing s with
  | zero => exact h
  | succ n ih => exact ih (s := s.freeWord.2.freeWord.2) h

theorem State.MemOk.peerAtomic {s : State} {pa n : Nat} (h : s.MemOk) : (s.peerAtomic pa n).2.MemOk := by
  unfold State.peerAtomic
  simp only
  exact .freeUnits (.freeOk h)

theorem State.MemOk.atomRequest {s : State} {core : Nat} {op : AtomOp} {x : Slotted} {operand : List GUnit} (h : s.MemOk) :
    (s.atomRequest core op x operand).2.MemOk := by
  unfold State.atomRequest
  simp only
  split
  · split
    · simp only
      split
      · exact State.farAtomic_memOk _ _ _ (State.modCore_memOk _ _ (State.l1Back_memOk _ _ h))
      exact State.homeAtomic_memOk _ _ _ (State.l2Fill_memOk _ _ (State.modCore_memOk _ _ (State.l1Back_memOk _ _ h)))
    · split
      · split
        · simp only
          exact State.toOsm_memOk _ (.of_snd ‹_› (.freeOk (State.traffic_memOk _ _ h)))
        · simp only
          exact .freeUnits (.of_snd ‹_› (.freeOk (State.traffic_memOk _ _ h)))
      · simp only
        exact .peerAtomic (State.traffic_memOk _ _ h)
  · exact h

theorem State.MemOk.atomRequests {s : State} {core : Nat} {op : AtomOp} {operand : Nat → List GUnit} {l : List Slotted}
    (h : s.MemOk) : (s.atomRequests core op operand l).2.MemOk := by
  induction l generalizing s with
  | nil =>
    exact h
  | cons x l ih =>
    unfold State.atomRequests
    simp only
    exact ih (.atomRequest h)

theorem Res.MemOk.atomic {s : State} {op : AtomOp} {scope ord : Nat} {b a d : Reg} (h : s.MemOk) :
    (atomic s op scope ord b a d).MemOk := by
  unfold Machine.atomic
  refine .withPod h (fun p w k => .throttle h (fun s h => .checked h (.withPlaces (.gatherDeny h) (fun s l h => ?_))))
  simp only
  split
  · split
    · exact .done h
    split
    · split
      · exact .trap (.escape (.atomRequests (.releases h)))
      exact .trap (.atomRequests (.releases h))
    · split
      · split
        · exact .done (.retire (.clearIdem (.acquires (.putLoaded (.escape (.atomRequests (.releases h)))))))
        exact .done (.retire (.clearIdem (.acquires (.putLoaded (.atomRequests (.releases h))))))
      · split
        · exact .done (.retire (.clearIdem (.putLoaded (.escape (.atomRequests (.releases h))))))
        exact .done (.retire (.clearIdem (.putLoaded (.atomRequests (.releases h)))))
  · split
    · exact .done h
    split
    · split
      · exact .trap (.escape (.atomRequests h))
      exact .trap (.atomRequests h)
    · split
      · split
        · exact .done (.retire (.clearIdem (.acquires (.putLoaded (.escape (.atomRequests h))))))
        exact .done (.retire (.clearIdem (.acquires (.putLoaded (.atomRequests h)))))
      · split
        · exact .done (.retire (.clearIdem (.putLoaded (.escape (.atomRequests h)))))
        exact .done (.retire (.clearIdem (.putLoaded (.atomRequests h))))

end Sys2Proof.Machine
end

section
/-! The functions of Machine/CrewOps keep the canonical form. -/

namespace Sys2Proof.Machine

theorem State.MemOk.removeLanes {s : State} {core slot : Nat} {lanes : List Nat} {quantum : Nat} (h : s.MemOk) :
    (s.removeLanes core slot lanes quantum).MemOk := h

theorem State.MemOk.renumber {s : State} {core crew : Nat} {joiners : List Nat} (h : s.MemOk) :
    (s.renumber core crew joiners).MemOk := h

theorem State.MemOk.freeIds {s : State} {ctx core crew : Nat} (h : s.MemOk) : (s.freeIds ctx core crew).MemOk := by
  unfold State.freeIds
  simp only
  split <;> exact h

theorem State.MemOk.shutWindow {s : State} {p : Pod} (h : s.MemOk) : (s.shutWindow p).MemOk := h

theorem Eff.MemOk.observe {s : State} {p : Pod} {w : Wave} {k : Crew} {sees : Nat → Stop → Bool} {e : Eff} (h : s.MemOk)
    (h' : e.MemOk) : (observe s p w k sees e).MemOk := by
  unfold Machine.observe
  split
  · exact .trap h
  exact h'

theorem State.MemOk.seeWrites {s : State} {core crew : Nat} {sees : Unseen → Bool} (h : s.MemOk) :
    (s.seeWrites core crew sees).MemOk := by
  unfold State.seeWrites
  split
  · exact h
  exact .modCrew (.foldl h (fun s x h => h))

end Sys2Proof.Machine
end

section
/-! The functions of Machine/Sync keep the canonical form. -/

namespace Sys2Proof.Machine

theorem Res.MemOk.fence {s : State} {g : BitVec 4} {rel acq : Bool} (h : s.MemOk) : (fence s g rel acq).MemOk := by
  unfold Machine.fence
  refine .withPod h (fun p w k => ?_)
  simp only
  split
  · split
    · split
      · exact .done (.retire (.clearIdem (.escape (State.acquire_memOk _ _ _ _ (State.release_memOk _ _ _ _ h)))))
      exact .done (.retire (.clearIdem (.escape (State.acquire_memOk _ _ _ _ h))))
    · split
      · exact .done (.retire (.clearIdem (.escape (State.release_memOk _ _ _ _ h))))
      exact .done h
  · split
    · split
      · exact .done (.retire (.clearIdem (State.acquire_memOk _ _ _ _ (State.release_memOk _ _ _ _ h))))
      exact .done (.retire (.clearIdem (State.acquire_memOk _ _ _ _ h)))
    · split
      · exact .done (.retire (.clearIdem (State.release_memOk _ _ _ _ h)))
      exact .done h

theorem State.MemOk.bindWalk {s : State} {p : Pod} {g : Agent} {va fin n : Nat} (h : s.MemOk) :
    (s.bindWalk p g va fin n).2.MemOk := by
  induction n generalizing s va with
  | zero =>
    exact h
  | succ n ih =>
    unfold State.bindWalk
    simp only
    split
    · exact h
    split
    · simp only
      exact .of_snd ‹_› (.walk h)
    · split
      · simp only
        exact State.modWave_memOk _ _ _ (.attach (.of_snd ‹_› (.walk h)))
      · simp only
        exact .stalled (.of_snd ‹_› (.walk h))
    · split
      · simp only
        exact .of_snd ‹_› (.leafCheck (.of_snd ‹_› (.walk h)))
      · split
        · simp only
          exact .of_snd ‹_› (.leafCheck (.of_snd ‹_› (.walk h)))
        · split
          · simp only
            exact .of_snd ‹_› (ih (.of_snd ‹_› (.leafCheck (.of_snd ‹_› (.walk h)))))
          · exact ih (.of_snd ‹_› (.leafCheck (.of_snd ‹_› (.walk h))))

theorem State.MemOk.dropBound {s : State} {ctx bind : Nat} (h : s.MemOk) : (s.dropBound ctx bind).MemOk := by
  unfold State.dropBound
  exact .foldl h (fun s x h => .foldl h (fun s x h => State.modCore_memOk _ _ (State.l1Back_memOk _ _ h)))

theorem State.MemOk.rebind {s : State} {ctx idx : Nat} {new : Bool} {x : Nat × Nat × Nat} (h : s.MemOk) :
    (s.rebind ctx idx new x).MemOk := by
  unfold State.rebind
  simp only
  split
  · exact h
  split
  · exact .modCtx (.tlbDropPage (.dropBound h))
  exact .modCtx (.tlbDropPage (State.homePuts_memOk _ _ (.dropBound h)))

theorem State.MemOk.unbind {s : State} {ctx idx : Nat} {olds : List Nat} (h : s.MemOk) : (s.unbind ctx idx olds).MemOk := h

theorem Eff.MemOk.bindRange {s : State} {p : Pod} {w : Wave} {k : Crew} {base count obj : Nat} {fin : State → Word → Eff}
    (h : s.MemOk) (step : ∀ s x, (h : s.MemOk) → (fin s x).MemOk) : (s.bindRange p w k base count obj fin).MemOk := by
  unfold State.bindRange
  simp only
  split
  · exact step _ _ h
  split
  · exact step _ _ h
  split
  · split
    · exact .trap h
    · exact step _ _ h
  · have walked := State.MemOk.bindWalk (p := p) (g := laneAgent p w k p.low) (va := base) (fin := base + 16384 * count)
      (n := count) h
    split
    · exact .trap (.of_snd ‹_› walked)
    · exact .done (.of_snd ‹_› walked)
    · have rest := State.MemOk.of_snd ‹_› walked
      refine step _ _ (.unbind (.foldl ?_ fun s x h => .rebind h))
      split <;> exact rest

theorem Res.MemOk.execBind {b a d : BitVec 6} {s : State} (h : s.MemOk) : (execBind b a d s).MemOk := by
  unfold Machine.execBind
  refine .withPod h (fun p w k => ?_)
  simp only
  split
  · exact .checked h (.trap h)
  split
  · exact .checked h (.trap h)
  split
  · exact .checked h (.trap h)
  split
  · exact .checked h (.trap h)
  split
  · exact .checked h (.trap h)
  exact .checked h (.bindRange h (fun s x h => .done h))

theorem Res.MemOk.execJoin {a : BitVec 4} {s : State} (h : s.MemOk) : (execJoin a s).MemOk := by
  unfold Machine.execJoin
  refine .withPod h (fun p w k => ?_)
  split
  · exact .checked h (.trap h)
  exact .checked h (.done h)

theorem Res.MemOk.execLeave {a : BitVec 4} {s : State} (h : s.MemOk) : (execLeave a s).MemOk := by
  unfold Machine.execLeave
  exact .withPod h (fun p w k => .checked h (.done h))

theorem Res.MemOk.execWait {b : BitVec 6} {a : BitVec 4} {d : BitVec 3} {s : State} (h : s.MemOk) :
    (execWait b a d s).MemOk := by
  unfold Machine.execWait
  refine .withPod h (fun p w k => ?_)
  simp only
  split
  · exact .checked h (.trap h)
  exact .checked h (.done h)

theorem Res.MemOk.execCbar {a : BitVec 6} {s : State} (h : s.MemOk) : (execCbar a s).MemOk := by
  unfold Machine.execCbar
  refine .withPod h (fun p w k => ?_)
  simp only
  split
  · exact .checked h (.trap h)
  exact .checked h (.observe h (.done h))

theorem State.MemOk.endInterval {s : State} {core crew : Nat} (h : s.MemOk) : (s.endInterval core crew).MemOk := by
  unfold State.endInterval
  split
  · exact h
  exact .setPhase h

theorem State.MemOk.moveThreads {s : State} {p : Pod} {crew : Nat} {homes : List (Nat × Nat)} (h : s.MemOk) :
    (s.moveThreads p crew homes).MemOk := by
  unfold State.moveThreads
  simp only
  split
  · exact h
  exact State.modCore_memOk _ _ (.endInterval (.endInterval (.renumber (State.modWave_memOk _ _ _ (.removeLanes (.foldl h
    (fun s x h => h)))))))

theorem Res.MemOk.execCjoin {a : BitVec 6} {s : State} (h : s.MemOk) : (execCjoin a s).MemOk := by
  unfold Machine.execCjoin
  refine .withPod h (fun p w k => ?_)
  simp only
  split
  · exact .checked h (.trap h)
  split
  · exact .checked h (.trap h)
  split
  · exact .checked h (.done (.endInterval h))
  split
  · exact .checked h (.trap h)
  split
  · exact .checked h (.held h)
  exact .checked h (.done (.moveThreads h))

theorem Res.MemOk.execCleave {s : State} (h : s.MemOk) : (execCleave s).MemOk := by
  refine .withPod h fun p w k => .checked h ?_
  simp only
  split
  · exact .held h
  · exact .done (.moveThreads h)

theorem State.MemOk.objectPut {s : State} {core crew off : Nat} {ws : List Word} (h : s.MemOk) :
    (s.objectPut core crew off ws).MemOk := by
  unfold State.objectPut
  exact .foldl h (fun s x h => h)

theorem Res.MemOk.onObject {s : State} {a : Reg} {regs srcs : List Reg} {sees : Bool}
    {f : State → Pod → Wave → Crew → Nat → List Word → Eff} (h : s.MemOk)
    (step : ∀ s p w k off ws, (h : s.MemOk) → (f s p w k off ws).MemOk) : (onObject s a regs srcs sees f).MemOk := by
  refine .withPod h fun p w k => .checked h ?_
  simp only
  split
  · exact .trap h
  split
  · exact .trap h
  · exact .observe h (.checked h (step s p w k _ _ h))

theorem Res.MemOk.execBinit {b a : BitVec 6} {s : State} (h : s.MemOk) : (execBinit b a s).MemOk := by
  unfold Machine.execBinit
  exact .onObject h (fun s p w k off ws h => .done (.retire (.clearIdem (.objectPut h))))

theorem Res.MemOk.execBarrive {b a : BitVec 6} {s : State} (h : s.MemOk) : (execBarrive b a s).MemOk := by
  unfold Machine.execBarrive
  exact .onObject h (fun s p w k off ws h => .done (.retire (.clearIdem (.objectPut h))))

theorem Res.MemOk.execBwait {a d : BitVec 6} {s : State} (h : s.MemOk) : (execBwait a d s).MemOk := by
  unfold Machine.execBwait
  refine .onObject h (fun s p w k off ws h => ?_)
  split
  · exact .done (.retire (.writeReg (.seeWrites h)))
  exact .done h

theorem State.MemOk.endBwait {s : State} {core slot off : Nat} (h : s.MemOk) : (s.endBwait core slot off).MemOk := by
  unfold State.endBwait
  simp only
  split
  · exact h
  split
  · exact h
  split
  · exact h
  split
  · exact .raise (Eff.MemOk.of_trap ‹_› (.observe h (.checked h (.done (State.modCore_memOk _ _ (.seeWrites h))))))
  · exact Eff.MemOk.of_done ‹_› (.observe h (.checked h (.done (State.modCore_memOk _ _ (.seeWrites h)))))
  exact Eff.MemOk.of_held ‹_› (.observe h (.checked h (.done (State.modCore_memOk _ _ (.seeWrites h)))))

theorem State.MemOk.endBwaits {s : State} (h : s.MemOk) : s.endBwaits.MemOk := by
  unfold State.endBwaits
  exact .foldl h (fun s x h => .foldl h (fun s x h => .foldl h (fun s x h => .endBwait h)))

theorem Res.MemOk.execBread {a d : BitVec 6} {s : State} (h : s.MemOk) : (execBread a d s).MemOk := by
  unfold Machine.execBread
  refine .onObject h (fun s p w k off ws h => ?_)
  simp only
  split
  · exact .done (.retire (.foldl (.seeWrites h) (fun s x h => h)))
  exact .done (.retire (.foldl h (fun s x h => h)))

theorem Res.MemOk.execRdwp {b : BitVec 2} {d : BitVec 6} {s : State} (h : s.MemOk) : (execRdwp b d s).MemOk := by
  unfold Machine.execRdwp
  exact .withPod h (fun p w k => .observe h (.done (.retire (.writePair (.seeWrites h)))))

theorem Res.MemOk.execRwr {b a : BitVec 6} {s : State} (h : s.MemOk) : (execRwr b a s).MemOk := by
  unfold Machine.execRwr
  refine .withPod h (fun p w k => ?_)
  simp only
  split
  · exact .checked h (.trap h)
  split
  · exact .checked h (.held h)
  exact .checked h (.done h)

end Sys2Proof.Machine
end

section
/-! The functions of Machine/MatMem keep the canonical form. -/

namespace Sys2Proof.Machine

theorem State.MemOk.setAcc {s : State} {core crew n : Nat} {a : Acc} (h : s.MemOk) : (s.setAcc core crew n a).MemOk := h

theorem Res.MemOk.matrix {s : State} {crs : Crew → List Nat} {regs : List (Reg × Nat)} {ms accs : List Nat}
    {f : Pod → Wave → Crew → Eff} (h : s.MemOk) (step : ∀ p w k, (f p w k).MemOk) : (matrix s crs regs ms accs f).MemOk := by
  refine .withRegs h fun p w k => ?_
  split
  · exact .trap h
  split
  · exact .done h
  · exact .governed h (.checked h (step p w k))

theorem State.MemOk.matOrigins {s : State} {core crew reg : Nat} {l : List (Nat × GUnit × Option Nat)} (h : s.MemOk) :
    (s.matOrigins core crew reg l).MemOk := h

theorem State.MemOk.tagOf {s : State} {x : Xlat} (h : s.MemOk) : (s.tagOf x).2.MemOk := by
  unfold State.tagOf
  simp only
  split
  · split
    · simp only
      exact State.l2Fill_memOk _ _ h
    · exact h
  · exact h

theorem State.MemOk.tagsOf {s : State} {l : List Slotted} (h : s.MemOk) : (s.tagsOf l).2.MemOk := by
  induction l generalizing s with
  | nil =>
    exact h
  | cons x l ih =>
    unfold State.tagsOf
    simp only
    exact ih (.tagOf h)

theorem State.MemOk.scaleArea {s : State} {v : Window} {cols pa : Nat} (h : s.MemOk) : (s.scaleArea v cols pa).2.MemOk := by
  unfold State.scaleArea
  simp only
  split
  · simp only
    exact State.homeGet_memOk _ _ h
  · simp only
    exact State.homeGet_memOk _ _ (State.homeGet_memOk _ _ h)

theorem State.MemOk.scaleAreas {s : State} {v : Window} {cols : Nat} {l : List Nat} (h : s.MemOk) :
    (s.scaleAreas v cols l).2.MemOk := by
  induction l generalizing s with
  | nil =>
    exact h
  | cons x l ih =>
    unfold State.scaleAreas
    simp only
    exact ih (.scaleArea h)

theorem Res.MemOk.execMld {pt : BitVec 6} {b : BitVec 2} {a : BitVec 4} {d : BitVec 5} {s : State} (h : s.MemOk) :
    (execMld pt b a d s).MemOk := by
  unfold Machine.execMld
  refine .matrix h (fun p w k => ?_)
  simp only
  split
  · exact .trap h
  refine .throttle h (fun s h => ?_)
  split
  · simp only
    split
    · exact .trap h
    split
    · exact .trap h
    split
    · exact .trap h
    refine .withPlaces (.gather h) (fun s l h => ?_)
    split
    · split
      · exact .done (.stalled (.tagsOf h))
      exact .trap (.tagsOf h)
    · split
      · exact .done (.retire (.matOrigins (.setTile (.loadAll (.tagsOf h)))))
      split
      · exact .trap (.tagsOf h)
      split
      · exact .trap (.tagsOf h)
      exact .done (.retire (.matOrigins (.setTile (.scaleAreas (.loadAll (.tagsOf h))))))
  · simp only
    split
    · exact .trap h
    split
    · exact .trap h
    split
    · exact .trap h
    refine .withPlaces (.gather h) (fun s l h => ?_)
    split
    · split
      · exact .done (.stalled (.tagsOf h))
      exact .trap (.tagsOf h)
    · split
      · exact .done (.retire (.matOrigins (.setTile (.loadAll (.tagsOf h)))))
      split
      · exact .trap (.tagsOf h)
      split
      · exact .trap (.tagsOf h)
      exact .done (.retire (.matOrigins (.setTile (.scaleAreas (.loadAll (.tagsOf h))))))

theorem Res.MemOk.execMst {pt : BitVec 6} {i : BitVec 1} {b : BitVec 2} {a : BitVec 4} {d : BitVec 5} {s : State}
    (h : s.MemOk) : (execMst pt i b a d s).MemOk := by
  unfold Machine.execMst
  refine .matrix h (fun p w k => ?_)
  simp only
  split
  · exact .trap h
  refine .throttle h (fun s h => ?_)
  split
  · exact .trap h
  split
  · exact .trap h
  refine .withPlaces (.gather h) (fun s l h => ?_)
  split
  · exact .done (.retire (.clearIdem (.storeFrom h)))
  exact .done (.retire (.storeFrom h))

theorem Res.MemOk.execMldf {b : BitVec 2} {a : BitVec 4} {d : BitVec 5} {s : State} (h : s.MemOk) :
    (execMldf b a d s).MemOk := by
  unfold Machine.execMldf
  refine .matrix h (fun p w k => ?_)
  simp only
  split
  · exact .trap h
  refine .throttle h (fun s h => ?_)
  split
  · exact .trap h
  split
  · exact .trap h
  split
  · exact .trap h
  split
  · exact .trap h
  exact .withPlaces (.gather h) (fun s l h => .done (.retire (.matOrigins (.setTile (.loadAll h)))))

theorem Res.MemOk.execMstf {i : BitVec 1} {b : BitVec 2} {a : BitVec 4} {d : BitVec 5} {s : State} (h : s.MemOk) :
    (execMstf i b a d s).MemOk := by
  unfold Machine.execMstf
  refine .matrix h (fun p w k => ?_)
  simp only
  split
  · exact .trap h
  refine .throttle h (fun s h => ?_)
  split
  · exact .trap h
  split
  · exact .trap h
  refine .withPlaces (.gather h) (fun s l h => ?_)
  split
  · exact .done (.retire (.clearIdem (.storeFrom h)))
  exact .done (.retire (.storeFrom h))

theorem Res.MemOk.execAld {pt : BitVec 6} {b : BitVec 2} {a : BitVec 4} {d : BitVec 3} {s : State} (h : s.MemOk) :
    (execAld pt b a d s).MemOk := by
  unfold Machine.execAld
  refine .matrix h (fun p w k => ?_)
  simp only
  split
  · exact .trap h
  refine .throttle h (fun s h => ?_)
  split
  · exact .trap h
  exact .withPlaces (.gather h) (fun s l h => .done (.retire (.matOrigins (.setAcc (.loadAll h)))))

theorem Res.MemOk.execAst {pt : BitVec 6} {i : BitVec 1} {b : BitVec 2} {a : BitVec 4} {d : BitVec 3} {s : State}
    (h : s.MemOk) : (execAst pt i b a d s).MemOk := by
  unfold Machine.execAst
  refine .matrix h (fun p w k => ?_)
  simp only
  split
  · exact .trap h
  refine .throttle h (fun s h => ?_)
  split
  · exact .trap h
  refine .withPlaces (.gather h) (fun s l h => ?_)
  split
  · exact .done (.retire (.clearIdem (.storeFrom h)))
  exact .done (.retire (.storeFrom h))

end Sys2Proof.Machine
end

section
/-! The functions of Machine/MatArith keep the canonical form. -/

namespace Sys2Proof.Machine

theorem Res.MemOk.multiply {s : State} {b a : BitVec 5} {d : BitVec 3} {zero : Bool} (h : s.MemOk) :
    (multiply s b a d zero).MemOk := by
  refine .matrix h fun p w k => ?_
  simp only
  split
  · exact .trap h
  · refine .checked h (.done (iteInduction (fun _ => State.modWave_memOk _ _ _ ?_) fun _ => iteInduction
      (fun _ => ?_) fun _ => h))
    · split <;> exact h
    · refine .goOn (State.modWave_memOk _ _ _ ?_)
      split <;> exact h

theorem Res.MemOk.execMdrain {a : BitVec 3} {d : BitVec 5} {s : State} (h : s.MemOk) : (execMdrain a d s).MemOk := by
  unfold Machine.execMdrain
  refine .matrix h (fun p w k => ?_)
  simp only
  split
  · exact .trap h
  exact .checked h (.done h)

theorem Res.MemOk.execAclr {d : BitVec 3} {s : State} (h : s.MemOk) : (execAclr d s).MemOk := by
  unfold Machine.execAclr
  exact .matrix h (fun p w k => .done h)

theorem Res.MemOk.tileOp {s : State} {srcs : List Nat} {d : Nat} {form : Crew → Option TDesc}
    {image : Crew → TDesc → List GUnit} {reads : Crew → Bool} (h : s.MemOk) : (tileOp s srcs d form image reads).MemOk := by
  unfold Machine.tileOp
  refine .matrix h (fun p w k => ?_)
  split
  · exact .trap h
  split
  · exact .trap h
  split
  · exact .trap h
  exact .checked h (.done h)

theorem Res.MemOk.refactor {s : State} {a d : BitVec 5} {dense : Bool} {out : CrewBody → TDesc → TDesc → List GUnit → TileOut}
    (h : s.MemOk) : (refactor s a d dense out).MemOk := by
  unfold Machine.refactor
  refine .matrix h (fun p w k => ?_)
  simp only
  split
  · exact .trap h
  split
  · simp only
    split
    · exact .checked h (.trap h)
    exact .checked h (.done h)
  · split
    · exact .checked h (.trap h)
    exact .checked h (.done h)

theorem Res.MemOk.moveTile {s : State} {a d : BitVec 5} (h : s.MemOk) : (moveTile s a d).MemOk := by
  unfold Machine.moveTile
  refine .matrix h (fun p w k => ?_)
  simp only
  split
  · exact .trap h
  split
  · exact .trap h
  exact .done h

theorem Res.MemOk.execMdens {a d : BitVec 5} {s : State} (h : s.MemOk) : (execMdens a d s).MemOk := by
  unfold Machine.execMdens
  simp only
  split
  · exact .moveTile h
  exact .tileOp h

theorem Res.MemOk.execMzero {d : BitVec 5} {s : State} (h : s.MemOk) : (execMzero d s).MemOk := by
  unfold Machine.execMzero
  exact .matrix h (fun p w k => .done h)

end Sys2Proof.Machine
end

section
/-! The functions of Machine/Async keep the canonical form. -/

namespace Sys2Proof.Machine

theorem State.MemOk.enqueue {s : State} {p : Pod} {w : Wave} {k : Crew} {f : XForm} {chan mask : Nat} {src dst : LRec}
    {bar : Option Nat} (h : s.MemOk) : (s.enqueue p w k f chan mask src dst bar).MemOk := by
  unfold State.enqueue
  simp only
  exact State.modCore_memOk _ _ (.fresh (.backAll h))

theorem State.MemOk.keepRecs {s : State} {p : Pod} {ws : List Word} (h : s.MemOk) : (s.keepRecs p ws).MemOk := h

theorem State.MemOk.dropRecs {s : State} {p : Pod} (h : s.MemOk) : (s.dropRecs p).MemOk := h

theorem Res.MemOk.asyncIssue {s : State} {f : XForm} {ch : BitVec 2} {m : Option (BitVec 6)} {b a : BitVec 6} (h : s.MemOk) :
    (asyncIssue s f ch m b a).MemOk := by
  unfold Machine.asyncIssue
  refine .withRegs h (fun p w k => ?_)
  simp only
  split
  · exact .governed h (.checked h (.trap h))
  split
  · split
    · exact .governed h (.checked h (.trap h))
    split
    · exact .governed h (.checked h (.done h))
    split
    · exact .governed h (.checked h (.held h))
    split
    · exact .governed h (.checked h (.held h))
    split <;> exact .governed h (.checked h (.done (.retire (.clearIdem (.dropRecs (.enqueue h))))))
  · refine .governed h (.checked h (.withPlaces (.gather h) (fun s l h => ?_)))
    split
    · exact .checked (.loadAll h) (.trap (.loadAll h))
    split
    · exact .checked (.loadAll h) (.done (.retire (.clearIdem (.dropRecs (.loadAll h)))))
    split
    · exact .checked (.loadAll h) (.held (.keepRecs (.loadAll h)))
    split
    · exact .checked (.loadAll h) (.held (.shutWindow (.keepRecs (.loadAll h))))
    split
    · exact .checked (.loadAll h) (.done (.retire (.clearIdem (.dropRecs (.enqueue (.escape (.loadAll h)))))))
    exact .checked (.loadAll h) (.done (.retire (.clearIdem (.dropRecs (.enqueue (.loadAll h))))))

end Sys2Proof.Machine
end

section
/-! The functions of Machine/System keep the canonical form. -/

namespace Sys2Proof.Machine

theorem Res.MemOk.execExit {s : State} (h : s.MemOk) : (execExit s).MemOk := by
  unfold Machine.execExit
  exact .withPod h (fun p w k => .done h)

theorem Res.MemOk.execEmit {a : BitVec 6} {s : State} (h : s.MemOk) : (execEmit a s).MemOk := by
  unfold Machine.execEmit
  refine .withPod h (fun p w k => ?_)
  simp only
  split
  · exact .checked h (.trap h)
  split
  · exact .checked h (.held h)
  split <;> exact .checked h (.done h)

theorem Res.MemOk.execIdem {s : State} (h : s.MemOk) : (execIdem s).MemOk := by
  unfold Machine.execIdem
  exact .withRegs h (fun p w k => .governed h (.done h))

theorem Res.MemOk.execNopre {a : BitVec 6} {s : State} (h : s.MemOk) : (execNopre a s).MemOk := by
  unfold Machine.execNopre
  refine .withPod h (fun p w k => ?_)
  simp only
  split
  · exact .checked h (.trap h)
  exact .checked h (.done h)

theorem Res.MemOk.quadOp {s : State} {b a d : BitVec 6} {f : List Word → BitVec 64 → List Word} (h : s.MemOk) :
    (quadOp s b a d f).MemOk := by
  unfold Machine.quadOp
  exact .withPod h (fun p w k => .checked h (.done (.retire (.foldl h (fun s x h => h)))))

theorem Res.MemOk.execTret {s : State} (h : s.MemOk) : (execTret s).MemOk := by
  unfold Machine.execTret
  refine .withRegs h (fun p w k => ?_)
  split
  · exact .checked h (.done h)
  exact .trap h

theorem Res.MemOk.execTstamp {d : BitVec 6} {s : State} (h : s.MemOk) : (execTstamp d s).MemOk := by
  unfold Machine.execTstamp
  exact .withPod h (fun p w k => .done h)

theorem Res.MemOk.execCoreid {d : BitVec 6} {s : State} (h : s.MemOk) : (execCoreid d s).MemOk := by
  unfold Machine.execCoreid
  exact .withPod h (fun p w k => .done h)

end Sys2Proof.Machine
end

section
/-! The functions of Machine/EngineEv keep the canonical form. -/

namespace Sys2Proof.Machine

theorem Res.MemOk.allow {b : Bool} {s : State} (h : s.MemOk) : (allow b s).MemOk := by
  unfold Machine.allow
  split
  · exact .next h
  exact .fault

theorem State.MemOk.modOp {s : State} {core u : Nat} {f : AsyncOp → AsyncOp} (h : s.MemOk) : (s.modOp core u f).MemOk := h

theorem State.MemOk.dropOp {s : State} {core u : Nat} (h : s.MemOk) : (s.dropOp core u).MemOk := h

theorem Res.MemOk.execEngineOpDispatch {s : State} (h : s.MemOk) : (execEngineOpDispatch s).MemOk := by
  unfold Machine.execEngineOpDispatch
  split
  · split
    · exact .fault
    split
    · exact .fault
    split <;> exact .next h
  · exact .fault

theorem State.MemOk.objectArrive {s : State} {core crew off : Nat} {bytes : List Byte} {last : Option Word} (h : s.MemOk) :
    (s.objectArrive core crew off bytes last).2.MemOk := by
  unfold State.objectArrive
  simp only
  split
  · exact h
  split
  · exact h
  split
  · exact h
  simp only
  exact .objectPut h

theorem State.MemOk.stopStream {s : State} {core : Nat} {o : AsyncOp} {st : Stop} (h : s.MemOk) :
    (s.stopStream core o st).MemOk := by
  unfold State.stopStream
  simp only
  split
  · exact h
  split
  · exact .dropOp (.modBody (.foldl h (fun s x h => h)))
  exact .dropOp (.modBody (.foldl (.foldl h (fun s x h => .foldl h (fun s x h => h))) (fun s x h => h)))

theorem State.MemOk.endStream {s : State} {core : Nat} {o : AsyncOp} {st : Stop} (h : s.MemOk) :
    (s.endStream core o st).MemOk := by
  unfold State.endStream
  split
  · exact .stopStream h
  exact h

theorem State.MemOk.engThen {α β : Type} {r : Eng α × State} {f : α → State → Eng β × State} (h : r.2.MemOk)
    (step : ∀ x s, (h : s.MemOk) → (f x s).2.MemOk) : (engThen r f).2.MemOk := by
  unfold Machine.engThen
  split
  · exact step _ _ h
  · exact h
  · exact h
  · exact h

theorem State.MemOk.engXlat {s : State} {core : Nat} {o : AsyncOp} {k : Crew} {va : Nat} {acc : Access} (h : s.MemOk) :
    (s.engXlat core o k va acc).2.MemOk := by
  unfold State.engXlat
  simp only
  split
  · exact h
  split
  · simp only
    exact .of_snd ‹_› (.translate h)
  · split
    · simp only
      exact .attach (.of_snd ‹_› (.translate h))
    · simp only
      exact .of_snd ‹_› (.translate h)
  · simp only
    exact .of_snd ‹_› (.translate h)

theorem State.MemOk.engXlats {s : State} {core : Nat} {o : AsyncOp} {k : Crew} {acc : Access} {l : List Nat} (h : s.MemOk) :
    (s.engXlats core o k acc l).2.MemOk := by
  induction l generalizing s with
  | nil =>
    exact h
  | cons x l ih =>
    exact .engThen (.engXlat h) (fun x s h => .engThen (ih h) (fun x s h => h))

theorem State.MemOk.engRead {s : State} {o : AsyncOp} {k : Crew} {x : Xlat} (h : s.MemOk) : (s.engRead o k x).2.MemOk := by
  unfold State.engRead
  simp only
  split
  · split
    · simp only
      refine .of_snd ‹_› (.freeEarlier ?_)
      split
      · exact h
      · split
        · exact State.homeGet_memOk _ _ h
        exact State.devGet_memOk _ h
      · exact h
    · simp only
      refine .of_snd ‹_› (.freeEarlier ?_)
      split
      · exact h
      · split
        · exact State.homeGet_memOk _ _ h
        exact State.devGet_memOk _ h
      · exact h
  · simp only
    split
    · exact h
    · split
      · exact State.homeGet_memOk _ _ h
      exact State.devGet_memOk _ h
    · exact h

theorem State.MemOk.engReads {s : State} {core : Nat} {o : AsyncOp} {k : Crew} {l : List (Nat × Xlat)} (h : s.MemOk) :
    (s.engReads core o k l).2.MemOk := by
  induction l generalizing s with
  | nil =>
    exact h
  | cons x l ih =>
    unfold State.engReads
    simp only
    exact ih (.engRead h)

theorem State.MemOk.elemScale {s : State} {o : AsyncOp} {xs : List (Nat × Xlat)} {t : Nat} (h : s.MemOk) :
    (s.elemScale o xs t).2.MemOk := by
  unfold State.elemScale
  simp only
  split
  · exact h
  split
  · split
    · simp only
      exact .of_snd ‹_› (.tagOf h)
    · split
      · simp only
        exact State.homeGet_memOk _ _ (.of_snd ‹_› (.tagOf h))
      · simp only
        exact State.homeGet_memOk _ _ (.of_snd ‹_› (.tagOf h))
  · simp only
    exact .of_snd ‹_› (.tagOf h)

theorem State.MemOk.converted {s : State} {o : AsyncOp} {xs : List (Nat × Xlat)} {got : List Got} {l : List Nat}
    (h : s.MemOk) : (s.converted o xs got l).2.MemOk := by
  induction l generalizing s with
  | nil =>
    exact h
  | cons x l ih =>
    exact .engThen (.elemScale h) (fun x s h => .engThen (ih h) (fun x s h => h))

theorem State.MemOk.blockBack {s t : State} {blk : Nat} (h : s.MemOk) (e : s.blockBack blk = some t) : t.MemOk := by
  unfold State.blockBack at e
  suffices ∀ (l : List Nat) (o : Option State), (∀ u, o = some u → u.MemOk) →
      ∀ u, l.foldl (fun o x => o.bind fun s => s.l2Back x) o = some u → u.MemOk from
    this _ _ (by rintro u ⟨⟩; exact h) t e
  intro l
  induction l with
  | nil => exact fun o ok u e => ok u e
  | cons x l ih =>
    refine fun o ok u e => ih _ (fun v hv => ?_) u e
    obtain ⟨w, hw, back⟩ := Option.bind_eq_some_iff.mp hv
    exact State.l2Back_memOk x (ok w hw) back

theorem State.MemOk.rawUnits {s : State} {blk : Nat} (h : s.MemOk) : (s.rawUnits blk).2.MemOk := by
  unfold State.rawUnits
  simp only
  exact State.metaTell_memOk _ (State.metaTouch_memOk _ h)

theorem State.MemOk.fetchBlock {s : State} {core : Nat} {o : AsyncOp} {k : Crew} {b : Nat} {x : Xlat} (h : s.MemOk) :
    (s.fetchBlock core o k b x).2.MemOk := by
  unfold State.fetchBlock
  simp only
  split
  · simp only
    exact .engReads h
  · split
    · exact h
    split
    · simp only
      exact .of_snd ‹_› (.rawUnits (.blockBack h ‹_›))
    · simp only
      exact .of_snd ‹_› (.rawUnits (.blockBack h ‹_›))

theorem State.MemOk.sourceOf {s : State} {core : Nat} {o : AsyncOp} {k : Crew} {gs : List Nat}
    {ready : State → Eng Xlat × State} (h : s.MemOk) (ready_ok : ∀ s, (h : s.MemOk) → (ready s).2.MemOk) :
    (s.sourceOf core o k gs ready).2.MemOk := by
  unfold State.sourceOf
  simp only
  split
  · split
    · exact .engThen (ready_ok _ h) fun _ _ h => h
    · exact .engThen (.engXlat h) fun _ _ h => .engThen (ready_ok _ h) fun _ _ h => .engThen (.fetchBlock h) fun _ _ h => h
  · refine .engThen (.engXlats h) fun _ _ h => .engThen (ready_ok _ h) fun _ _ h => ?_
    split
    · exact .engReads h
    · split <;> exact .engReads h

theorem State.MemOk.transformed {s : State} {o : AsyncOp} {gs : List Nat} {xs : List (Nat × Xlat)} {l : List Got}
    (h : s.MemOk) : (s.transformed o gs xs l).2.MemOk := by
  unfold State.transformed
  simp only
  split
  · exact h
  split
  · split <;> exact h
  · exact .engThen (.converted h) (fun x s h => h)
  exact h

theorem State.MemOk.deliverUnit {s : State} {core : Nat} {o : AsyncOp} {x : Xlat} {u : GUnit} {from_ : Option Nat}
    (h : s.MemOk) : (s.deliverUnit core o x u from_).MemOk := by
  unfold State.deliverUnit
  simp only
  split
  · simp only
    split <;> exact h
  · simp only
    split
    · split <;> exact .modCrew (State.homePut_memOk _ _ _ h)
    split
    · split <;> exact State.devPut_memOk _ _ h
    split <;> exact .modCrew (State.devPut_memOk _ _ h)
  · simp only
    split
    · split <;> exact h
    exact h

theorem State.MemOk.deliverUnits {s : State} {core : Nat} {o : AsyncOp} {l : List (Xlat × GUnit × Option Nat)} (h : s.MemOk) :
    (s.deliverUnits core o l).2.MemOk := by
  induction l generalizing s with
  | nil =>
    exact h
  | cons x l ih =>
    unfold State.deliverUnits
    simp only
    split
    · simp only
      exact .deliverUnit h
    · simp only
      exact ih (.deliverUnit h)

theorem State.MemOk.countBytes {s : State} {core crew chan n : Nat} (h : s.MemOk) : (s.countBytes core crew chan n).MemOk := h

theorem State.MemOk.finishOp {s : State} {core u : Nat} (h : s.MemOk) : (s.finishOp core u).MemOk := by
  unfold State.finishOp
  split
  · exact h
  split <;> exact h

theorem State.MemOk.deliverPiece {s : State} {core : Nat} {o : AsyncOp} {gs : List Nat} {x : Xlat}
    {us : List (GUnit × Option Nat)} (h : s.MemOk) : (s.deliverPiece core o gs x us).MemOk := by
  unfold State.deliverPiece
  simp only
  split
  · exact .finishOp (.modOp (.countBytes (.deliverUnits h)))
  split
  · exact .finishOp (.modOp (.countBytes (.deliverUnits h)))
  split
  · exact .finishOp (.of_snd ‹_› (.objectArrive (.modOp (.countBytes (.deliverUnits h)))))
  exact .stopStream (.of_snd ‹_› (.objectArrive (.modOp (.countBytes (.deliverUnits h)))))

theorem State.MemOk.sendPiece {s : State} {core : Nat} {o : AsyncOp} {k : Crew} {gs : List Nat}
    {us : List (GUnit × Option Nat)} (h : s.MemOk) : (s.sendPiece core o k gs us).MemOk := by
  unfold State.sendPiece
  simp only
  split
  · exact .endStream h
  exact .finishOp (.modOp (.foldl h (fun s x h => h)))

theorem State.MemOk.pieceTo {s : State} {core : Nat} {o : AsyncOp} {k : Crew} (h : s.MemOk) :
  (s.pieceTo core o k).2.MemOk := by
  unfold State.pieceTo
  split
  · exact h
  exact .engXlat h

theorem Res.MemOk.execEnginePiece {s : State} (h : s.MemOk) : (execEnginePiece s).MemOk := by
  unfold Machine.execEnginePiece
  simp only
  split
  · split
    · exact .fault
    split
    · exact .fault
    split
    · exact .fault
    split
    · exact .fault
    · exact .next (.modOp (.of_snd ‹_› (.engThen (.sourceOf h (fun s h => .pieceTo h)) (fun x s h => .engThen
        (.transformed h) (fun x s h => h)))))
    · exact .next (.endStream (.of_snd ‹_› (.engThen (.sourceOf h (fun s h => .pieceTo h)) (fun x s h => .engThen
        (.transformed h) (fun x s h => h)))))
    split
    · exact .next (.sendPiece (.modOp (.of_snd ‹_› (.engThen (.sourceOf h (fun s h => .pieceTo h)) (fun x s h => .engThen
        (.transformed h) (fun x s h => h))))))
    exact .next (.deliverPiece (.modOp (.of_snd ‹_› (.engThen (.sourceOf h (fun s h => .pieceTo h)) (fun x s h => .engThen
      (.transformed h) (fun x s h => h))))))
  · exact .fault

theorem State.MemOk.performed {s : State} {a : Arrival} {core : Nat} (h : s.MemOk) : (s.performed a core).MemOk := by
  unfold State.performed
  simp only
  split
  · exact h
  split <;> exact h

theorem State.MemOk.arrived {s : State} {a : Arrival} {core : Nat} (h : s.MemOk) : (s.arrived a core).MemOk := by
  unfold State.arrived
  simp only
  split
  · exact .performed h
  split
  · split
    · exact .stopStream (.performed h)
    exact .performed h
  · exact .finishOp (.performed h)

theorem State.MemOk.takePiece {s : State} {core crew : Nat} {l : List (Nat × GUnit × Option Nat)} (h : s.MemOk) :
    (s.takePiece core crew l).MemOk := by
  unfold State.takePiece
  exact .foldl h (fun s x h => h)

theorem Res.MemOk.execMulticastArrival {s : State} (h : s.MemOk) : (execMulticastArrival s).MemOk := by
  unfold Machine.execMulticastArrival
  simp only
  split
  · split
    · exact .fault
    split
    · exact .next (.arrived h)
    split
    · split <;> exact .next (.arrived (.takePiece h))
    split
    · refine .next (.arrived (.of_snd ‹_› (.objectArrive (.takePiece ?_))))
      split <;> exact h
    · split
      · refine .next (.performed (.of_snd ‹_› (.objectArrive (.takePiece ?_))))
        split <;> exact h
      · refine .next (.stopStream (.performed (.of_snd ‹_› (.objectArrive (.takePiece ?_)))))
        split <;> exact h
  · exact .fault

theorem Res.MemOk.execRemoteWriteDeposit {s : State} (h : s.MemOk) : (execRemoteWriteDeposit s).MemOk := by
  unfold Machine.execRemoteWriteDeposit
  simp only
  split
  · split
    · exact .fault
    split
    · split
      · exact .next h
      exact .next (.foldl h (fun s x h => h))
    · exact .next h
  · exact .fault

end Sys2Proof.Machine
end

section
/-! The functions of Machine/XlatEv keep the canonical form. -/

namespace Sys2Proof.Machine

theorem Res.MemOk.execFrcfgWrite {s : State} (h : s.MemOk) : (execFrcfgWrite s).MemOk := by
  unfold Machine.execFrcfgWrite
  split
  · split <;> exact .next h
  exact .fault

theorem Res.MemOk.execFridxWrite {s : State} (h : s.MemOk) : (execFridxWrite s).MemOk := by
  unfold Machine.execFridxWrite
  simp only
  split
  · split <;> exact .next h
  exact .fault

theorem Res.MemOk.execPageWalk {s : State} (h : s.MemOk) : (execPageWalk s).MemOk := by
  unfold Machine.execPageWalk
  simp only
  split
  · split
    · exact .fault
    exact .next (.translate h)
  · exact .fault

theorem Res.MemOk.execFaultRecordWrite {s : State} (h : s.MemOk) : (execFaultRecordWrite s).MemOk := by
  unfold Machine.execFaultRecordWrite
  split
  · split
    · exact .fault
    simp only
    split
    · exact .fault
    · refine .next (.modCtx ?_)
      split
      · exact .setRecs (State.homePuts_memOk _ _ h)
      · exact .irq (.setRecs (State.homePuts_memOk _ _ h))
  · exact .fault

theorem State.MemOk.closeRec {s : State} {uid : Nat} (h : s.MemOk) : (s.closeRec uid).MemOk := h

theorem State.MemOk.fatalRec {s : State} {r : FaultRec} (h : s.MemOk) : (s.fatalRec r).MemOk := by
  unfold State.fatalRec
  simp only
  refine .closeRec (.of_eq (.foldl (.foldl h (fun s x h => ?_)) (fun s x h => .endStream h)) rfl rfl)
  split
  · exact h
  split
  · exact h
  exact .deliver h

theorem Res.MemOk.execReplayRetry {s : State} (h : s.MemOk) : (execReplayRetry s).MemOk := by
  unfold Machine.execReplayRetry
  split
  · split <;> exact .next h
  exact .fault

theorem Res.MemOk.execReplayFatal {s : State} (h : s.MemOk) : (execReplayFatal s).MemOk := by
  unfold Machine.execReplayFatal
  split
  · split
    · exact .next h
    exact .next (.fatalRec h)
  · exact .fault

theorem Res.MemOk.execReplayRefused {s : State} (h : s.MemOk) : (execReplayRefused s).MemOk := by
  unfold Machine.execReplayRefused
  split
  · exact .allow h
  exact .fault

theorem Res.MemOk.execXlinvaWrite {s : State} (h : s.MemOk) : (execXlinvaWrite s).MemOk := by
  unfold Machine.execXlinvaWrite
  simp only
  split
  · split
    · exact .next h
    split <;> exact .next h
  · exact .fault

theorem State.MemOk.xlinvc {s : State} {v : BitVec 64} (h : s.MemOk) : (s.xlinvc v).MemOk := by
  unfold State.xlinvc
  simp only
  split
  · exact h
  split <;> exact h

theorem Res.MemOk.execXlinvPage {s : State} (h : s.MemOk) : (execXlinvPage s).MemOk := by
  unfold Machine.execXlinvPage
  split
  · exact .allow (.xlinvc h)
  exact .fault

theorem Res.MemOk.execXlinvAll {s : State} (h : s.MemOk) : (execXlinvAll s).MemOk := by
  unfold Machine.execXlinvAll
  split
  · exact .allow (.xlinvc h)
  exact .fault

theorem Res.MemOk.execXlinvComplete {s : State} (h : s.MemOk) : (execXlinvComplete s).MemOk := by
  unfold Machine.execXlinvComplete
  simp only
  split
  · split
    · exact .fault
    exact .next (.of_eq (.foldl h (fun s x h => .foldl h (fun s x h => State.l1Back_memOk _ _ h))) rfl rfl)
  · exact .fault

theorem State.MemOk.swapAD {s : State} {pa : Nat} {expected : BitVec 64} {dirty : Bool} (h : s.MemOk) :
    (s.swapAD pa expected dirty).MemOk := by
  unfold State.swapAD
  simp only
  split
  · exact .setAD (State.homeGets_memOk _ _ h)
  exact State.homeGets_memOk _ _ h

theorem Res.MemOk.execHomeAtomic {s : State} (h : s.MemOk) : (execHomeAtomic s).MemOk := by
  unfold Machine.execHomeAtomic
  split
  · split
    · exact .fault
    split
    · exact .allow (State.homeAtomic_memOk _ _ _ h)
    · exact .allow (.swapAD h)
    exact .allow (State.poisonHome_memOk _ h)
  · exact .fault

theorem Res.MemOk.execFarAtomic {s : State} (h : s.MemOk) : (execFarAtomic s).MemOk := by
  unfold Machine.execFarAtomic
  split
  · split
    · exact .fault
    split
    · split
      · exact .fault
      exact .allow (.of_snd ‹_› (State.farAtomic_memOk _ _ _ h))
    · exact .fault
    · split
      · exact .fault
      exact .allow (State.poisonFar_memOk _ h ‹_›)
  · exact .fault

theorem Res.MemOk.execL2Fill {s : State} (h : s.MemOk) : (execL2Fill s).MemOk := by
  unfold Machine.execL2Fill
  split
  · exact .allow (State.l2Fill_memOk _ _ h)
  exact .fault

theorem Res.MemOk.execL2Writeback {s : State} (h : s.MemOk) : (execL2Writeback s).MemOk := by
  unfold Machine.execL2Writeback
  split
  · split
    · exact .fault
    split
    · exact .fault
    exact .next (State.l2Back_memOk _ h ‹_›)
  · exact .fault

theorem Res.MemOk.execGrowthRecordAppend {s : State} (h : s.MemOk) : (execGrowthRecordAppend s).MemOk := by
  unfold Machine.execGrowthRecordAppend
  split
  · split
    · exact .fault
    simp only
    split
    · exact .fault
    · refine .next (.of_eq (?_ : State.MemOk (ite _ _ _)) rfl rfl)
      split
      · exact State.modCtl_memOk _ _ (State.homePuts_memOk _ _ h)
      · exact .irq (State.modCtl_memOk _ _ (State.homePuts_memOk _ _ h))
  · exact .fault

theorem Res.MemOk.execGrcfgWrite {s : State} (h : s.MemOk) : (execGrcfgWrite s).MemOk := by
  unfold Machine.execGrcfgWrite
  split
  · split <;> exact .next (.of_eq h rfl rfl)
  · exact .fault

theorem Res.MemOk.execGridxWrite {s : State} (h : s.MemOk) : (execGridxWrite s).MemOk := by
  unfold Machine.execGridxWrite
  simp only
  split
  · split <;> exact .next h
  exact .fault

theorem State.MemOk.convertBlock {s t : State} {blk allot : Nat} (h : s.MemOk)
  (e : s.convertBlock blk allot = some t) : t.MemOk := by
  unfold State.convertBlock at e
  simp only [Option.map_eq_some_iff] at e
  obtain ⟨u, hu, rfl⟩ := e
  have written : u.MemOk := State.blockWrite_memOk _ _ _ (State.metaTell_memOk _ (State.metaTouch_memOk _ h)) hu
  split
  · exact State.setMeta_memOk _ _ _ written
  · exact written

theorem Res.MemOk.execCzcmd {s : State} (h : s.MemOk) : (execCzcmd s).MemOk := by
  unfold Machine.execCzcmd
  simp only
  split
  · split <;> exact .next h
  exact .fault

theorem Res.MemOk.execCzcmdComplete {s : State} (h : s.MemOk) : (execCzcmdComplete s).MemOk := by
  unfold Machine.execCzcmdComplete
  split
  · split
    · exact .fault
    split
    · exact .fault
    exact .next (State.modCtl_memOk _ _ (.convertBlock h ‹_›))
  · exact .fault

theorem State.MemOk.consumeDown {s : State} {cl : Nat} (h : s.MemOk) : (s.consumeDown cl).MemOk := h

theorem State.MemOk.setFused {s : State} {cl : Nat} {b : Bool} (h : s.MemOk) : (s.setFused cl b).MemOk := by
  unfold State.setFused
  exact .modCluster (.foldl h (fun s x h => State.l1Flush_memOk _ h))

theorem Res.MemOk.execFuse {s : State} (h : s.MemOk) : (execFuse s).MemOk := by
  unfold Machine.execFuse
  simp only
  split
  · split
    · split
      · exact .next (.setFused h)
      exact .next h
    · exact .fault
  · exact .fault

theorem Res.MemOk.execUnfuse {s : State} (h : s.MemOk) : (execUnfuse s).MemOk := by
  unfold Machine.execUnfuse
  simp only
  split
  · split
    · split
      · exact .next (.setFused h)
      exact .next h
    · exact .fault
  · exact .fault

theorem Res.MemOk.execWindowRegisterWrite {s : State} (h : s.MemOk) : (execWindowRegisterWrite s).MemOk := by
  unfold Machine.execWindowRegisterWrite
  simp only
  split
  · split
    · exact .fault
    exact .next h
  · exact .fault

theorem Res.MemOk.execWindowChangeComplete {s : State} (h : s.MemOk) : (execWindowChangeComplete s).MemOk := by
  unfold Machine.execWindowChangeComplete
  simp only
  split
  · split
    · exact .fault
    split
    · exact .fault
    exact .next (State.modDie_memOk _ _ (.foldl h (fun s x h => State.l2Evict_memOk _ h)))
  · exact .fault

theorem State.MemOk.zeroBlock {s : State} {blk : Nat} (h : s.MemOk) : (s.zeroBlock blk).MemOk :=
  ⟨Memory.wf_filter _ h.1, Memory.wf_filter _ h.2⟩

theorem State.MemOk.wipeBlock {s : State} {blk : Nat} (h : s.MemOk) : (s.wipeBlock blk).MemOk := by
  unfold State.wipeBlock
  simp only
  split
  · exact State.setMeta_memOk _ _ _ (State.unpark_memOk _ h)
  exact .zeroBlock h

theorem Res.MemOk.execFrameWipe {s : State} (h : s.MemOk) : (execFrameWipe s).MemOk := by
  unfold Machine.execFrameWipe
  split
  · exact .allow (.foldl h (fun s x h => .wipeBlock h))
  exact .fault

end Sys2Proof.Machine
end

section
/-! The functions of Machine/Board keep the canonical form. -/

namespace Sys2Proof.Machine

theorem State.MemOk.wipe {s : State} : s.wipe.MemOk := .reset

theorem State.MemOk.coldReset {s : State} {power : Bool} {b : Boot} : (s.coldReset power b).MemOk := .reset

theorem Res.MemOk.execPowerOn {s : State} : (execPowerOn s).MemOk := by
  unfold Machine.execPowerOn
  split
  · exact .allow .coldReset
  exact .fault

theorem Res.MemOk.execPowerLoss {s : State} : (execPowerLoss s).MemOk := by
  unfold Machine.execPowerLoss
  split
  · exact .allow .coldReset
  exact .fault

theorem Res.MemOk.execClockStepDown {s : State} (h : s.MemOk) : (execClockStepDown s).MemOk := by
  unfold Machine.execClockStepDown
  split
  · exact .allow h
  exact .fault

theorem Res.MemOk.execClockStepUp {s : State} (h : s.MemOk) : (execClockStepUp s).MemOk := by
  unfold Machine.execClockStepUp
  split
  · exact .allow h
  exact .fault

theorem Res.MemOk.execThermalTrip {s : State} : (execThermalTrip s).MemOk := by
  unfold Machine.execThermalTrip
  split
  · exact .allow .coldReset
  exact .fault

theorem Res.MemOk.execStatus {s : State} (h : s.MemOk) : (execStatus s).MemOk := by
  unfold Machine.execStatus
  split
  · split <;> exact .allow h
  exact .fault

theorem Res.MemOk.onPort {s : State} {h : Hdr} {t : State} (ok : s.MemOk) (ok' : t.MemOk) : (s.onPort h t).MemOk := by
  unfold State.onPort
  split
  · exact .allow ok'
  exact .allow ok

theorem State.MemOk.checkImage {s : State} {i : Nat} (h : s.MemOk) : (s.checkImage i).MemOk := by
  unfold State.checkImage
  simp only
  split <;> exact h

theorem State.MemOk.boots {s : State} (h : s.MemOk) : s.boots.MemOk := by
  unfold State.boots
  simp only
  split
  · split
    · simp only
      split
      · exact .checkImage (.checkImage h)
      exact h
    · split
      · exact .checkImage (.checkImage h)
      exact h
  · split
    · simp only
      split
      · exact .checkImage (.checkImage (.of_eq (.checkImage h) rfl rfl))
      exact .of_eq (.checkImage h) rfl rfl
    · split
      · exact .checkImage (.checkImage (.checkImage h))
      exact .checkImage h

theorem Res.MemOk.osmiumOnPort {s : State} {h : Hdr} {t : State} (ok : s.MemOk) (ok' : t.MemOk) :
    (s.osmiumOnPort h t).MemOk := by
  unfold State.osmiumOnPort
  split
  · exact .onPort ok ok'
  exact .onPort ok ok

theorem Res.MemOk.execWake {s : State} (h : s.MemOk) : (execWake s).MemOk := by
  unfold Machine.execWake
  simp only
  split
  · split
    · split
      · exact .onPort h h
      split
      · exact .onPort h (.frame (.boots h))
      exact .onPort h h
    · exact .onPort h h
  · exact .fault

theorem Res.MemOk.execImage {s : State} (h : s.MemOk) : (execImage s).MemOk := by
  unfold Machine.execImage
  simp only
  split
  · split
    · simp only
      split
      · exact .onPort h h
      exact .onPort h (.frame (.boots h))
    · split
      · exact .onPort h h
      exact .onPort h (.frame (.boots h))
  · exact .fault

theorem Res.MemOk.execWipeComplete {s : State} (h : s.MemOk) : (execWipeComplete s).MemOk := by
  unfold Machine.execWipeComplete
  simp only
  split
  · exact .allow h
  exact .fault

theorem Res.MemOk.execAttest {s : State} (h : s.MemOk) : (execAttest s).MemOk := by
  unfold Machine.execAttest
  simp only
  split
  · exact .osmiumOnPort h h
  exact .fault

theorem Res.MemOk.execUnknownFrameType {s : State} (h : s.MemOk) : (execUnknownFrameType s).MemOk := by
  unfold Machine.execUnknownFrameType
  split
  · split
    · exact .fault
    exact .onPort h h
  · exact .fault

theorem Res.MemOk.execScrub {s : State} (h : s.MemOk) : (execScrub s).MemOk := by
  unfold Machine.execScrub
  split
  · split
    · exact .fault
    exact .next h
  · exact .fault

theorem Res.MemOk.execScrubCountUpdate {s : State} (h : s.MemOk) : (execScrubCountUpdate s).MemOk := by
  unfold Machine.execScrubCountUpdate
  simp only
  split
  · split
    · exact .fault
    split <;> exact .next h
  · exact .fault

theorem Res.MemOk.execEcscntClear {s : State} (h : s.MemOk) : (execEcscntClear s).MemOk := by
  unfold Machine.execEcscntClear
  simp only
  split
  · split
    · exact .fault
    split <;> exact .next h
  · exact .fault

theorem Res.MemOk.request {s : State} {ok : Bool} {t : State} (h : s.MemOk) (h' : t.MemOk) : (s.request ok t).MemOk := by
  unfold State.request
  split
  · exact .next h'
  exact .next h

theorem Res.MemOk.execDescriptorInstall {s : State} (h : s.MemOk) : (execDescriptorInstall s).MemOk := by
  unfold Machine.execDescriptorInstall
  split
  · split
    · exact .fault
    exact .request h h
  · exact .fault

theorem State.MemOk.wipeRegion {s : State} {r : Nat} (h : s.MemOk) : (s.wipeRegion r).MemOk := by
  unfold State.wipeRegion
  exact .foldl h (fun s x h => .wipeBlock h)

theorem Res.MemOk.execFirewallAssign {s : State} (h : s.MemOk) : (execFirewallAssign s).MemOk := by
  unfold Machine.execFirewallAssign
  split
  · split
    · exact .fault
    refine .request h (.of_eq (?_ : State.MemOk (ite _ _ _)) rfl rfl)
    split
    · exact h
    · exact .wipeRegion h
  · exact .fault

theorem Res.MemOk.execQueueOwnerAssign {s : State} (h : s.MemOk) : (execQueueOwnerAssign s).MemOk := by
  unfold Machine.execQueueOwnerAssign
  simp only
  split
  · split
    · exact .fault
    exact .request h h
  · exact .fault

theorem State.MemOk.putEntry {s : State} {ctx level pa value : Nat} (h : s.MemOk) :
  (s.putEntry ctx level pa value).MemOk := by
  unfold State.putEntry
  simp only
  exact .modCtx (State.homePuts_memOk _ _ (State.homeGets_memOk _ _ h))

theorem Res.MemOk.execPageTableWrite {s : State} (h : s.MemOk) : (execPageTableWrite s).MemOk := by
  unfold Machine.execPageTableWrite
  simp only
  split
  · split
    · exact .fault
    exact .request h (.putEntry h)
  · exact .fault

theorem Res.MemOk.execWindowInstall {s : State} (h : s.MemOk) : (execWindowInstall s).MemOk := by
  unfold Machine.execWindowInstall
  simp only
  split
  · split
    · exact .fault
    exact .request h h
  · exact .fault

theorem State.MemOk.icDrop {s : State} {pa n : Nat} (h : s.MemOk) : (s.icDrop pa n).MemOk := h

theorem State.MemOk.loadWords {s : State} {pa : Nat} {ws : List Word} (h : s.MemOk) : (s.loadWords pa ws).MemOk := by
  unfold State.loadWords
  exact .icDrop (State.homePuts_memOk _ _ h)

theorem State.MemOk.zeroSync {s : State} {ctx syncb : Nat} {l : List (Nat × Nat)} (h : s.MemOk) :
    (s.zeroSync ctx syncb l).2.MemOk := by
  induction l generalizing s with
  | nil =>
    exact h
  | cons x l ih =>
    unfold State.zeroSync
    split
    · exact ih (.of_snd ‹_› (.unitPuts h))
    simp only
    exact .of_snd ‹_› (.unitPuts h)

theorem State.MemOk.placeObject {s : State} {ctx : Nat} {o : RynilObject} (h : s.MemOk) : (s.placeObject ctx o).MemOk := by
  unfold State.placeObject
  exact .foldl (.modCtx (.foldl h (fun s x h => .loadWords (.loadWords h)))) (fun s x h => .wipeBlock h)

theorem Res.MemOk.execLoadObject {s : State} (h : s.MemOk) : (execLoadObject s).MemOk := by
  unfold Machine.execLoadObject
  simp only
  split
  · split
    · exact .fault
    exact .request h (.zeroSync (.placeObject h))
  · exact .fault

theorem Res.MemOk.execLinkPatch {s : State} (h : s.MemOk) : (execLinkPatch s).MemOk := by
  unfold Machine.execLinkPatch
  simp only
  split
  · split
    · exact .next h
    split
    · exact .fault
    · exact .next h
    exact .request h (.unitPuts (.tlbDropPage (.putEntry (.foldl h (fun s x h => .loadWords h)))))
  · exact .fault

theorem State.MemOk.outside {s t : State} {pa : Nat} {req : PeerReq} {us : List GUnit} (h : s.MemOk)
    (e : s.outside pa req = some (us, t)) : t.MemOk := by
  unfold State.outside at e
  split at e
  · exact .of_snd (Option.some.inj e) (State.homeGets_memOk _ _ h)
  · cases e
    exact State.homePuts_memOk _ _ h
  next op operand far =>
    have run : (if far = true then s.farAtomic pa op operand else s.homeAtomic pa op operand).2.MemOk := by
      split
      · exact State.farAtomic_memOk _ _ _ h
      · exact State.homeAtomic_memOk _ _ _ h
    split at e <;> cases e <;> exact .of_snd ‹_› run
  · cases e
    exact h

theorem State.MemOk.outsideDev {s : State} {pa : Nat} {req : PeerReq} (h : s.MemOk) : (s.outsideDev pa req).2.MemOk := by
  unfold State.outsideDev
  split
  · exact .foldl_snd h fun x i h => State.devGet_memOk _ h
  · exact .foldl h fun s x h => State.devPut_memOk _ _ h
  · exact .foldl_snd (State.traffic_memOk _ _ h) fun x i h => h
  · exact h

theorem Res.MemOk.execPeerAccess {s : State} (h : s.MemOk) : (execPeerAccess s).MemOk := by
  unfold Machine.execPeerAccess
  split
  · split
    · exact .fault
    split
    · exact .fault
    next answer =>
    split at answer
    · cases answer
      exact .next h
    · exact .next (.of_eq (State.MemOk.outside h answer) rfl rfl)
  · exact .fault

theorem State.MemOk.hear {s : State} {unit pa : Nat} {us : List GUnit} (h : s.MemOk) : (s.hear unit pa us).MemOk := by
  unfold State.hear
  simp only
  split <;> exact h

theorem Res.MemOk.execControlCoreAccess {s : State} (h : s.MemOk) : (execControlCoreAccess s).MemOk := by
  unfold Machine.execControlCoreAccess
  simp only
  split
  · split
    · exact .fault
    split
    · split <;> split <;> exact .next h
    split
    · exact .next (.hear (.outsideDev h))
    split
    · exact .fault
    exact .next (.hear (.outside h ‹_›))
  · exact .fault

theorem Res.MemOk.execPcieInboundData {s : State} (h : s.MemOk) : (execPcieInboundData s).MemOk := by
  unfold Machine.execPcieInboundData
  split
  · split
    · exact .allow h
    exact .allow (State.homePuts_memOk _ _ h)
  · exact .fault

theorem State.MemOk.pcieOut {s : State} {port pa n : Nat} (h : s.MemOk) : (s.pcieOut port pa n).MemOk := by
  induction n generalizing s pa with
  | zero =>
    exact h
  | succ n ih =>
    unfold State.pcieOut
    simp only
    split
    · exact ih (.of_eq (State.homeGet_memOk _ _ h) rfl rfl)
    exact State.toOsm_memOk _ (.of_eq (State.homeGet_memOk _ _ h) rfl rfl)

theorem Res.MemOk.execPcieOutboundData {s : State} (h : s.MemOk) : (execPcieOutboundData s).MemOk := by
  unfold Machine.execPcieOutboundData
  split
  · split
    · exact .allow h
    exact .allow (.pcieOut h)
  · exact .fault

theorem Res.MemOk.execCoreCondemnedReport {s : State} (h : s.MemOk) : (execCoreCondemnedReport s).MemOk := by
  unfold Machine.execCoreCondemnedReport
  split
  · split
    · exact .next h
    exact .fault
  · exact .fault

theorem Res.MemOk.execCommandCrcFailure {s : State} (h : s.MemOk) : (execCommandCrcFailure s).MemOk := by
  unfold Machine.execCommandCrcFailure
  simp only
  split
  · split
    · exact .fault
    split <;> exact .next h
  · exact .fault

theorem Res.MemOk.execSendPermitReturn {s : State} (h : s.MemOk) : (execSendPermitReturn s).MemOk := by
  unfold Machine.execSendPermitReturn
  split
  · exact .allow h
  exact .fault

end Sys2Proof.Machine
end

section
/-! The functions of Machine/Sched keep the canonical form. -/

namespace Sys2Proof.Machine

theorem State.MemOk.modHazel {s : State} {f : Hazel → Hazel} (h : s.MemOk) : (s.modHazel f).MemOk := h

theorem State.MemOk.modQueue {s : State} {q : Nat} {f : Queue → Queue} (h : s.MemOk) : (s.modQueue q f).MemOk := h

theorem State.MemOk.modSlot {s : State} {i : Nat} {f : Slot → Slot} (h : s.MemOk) : (s.modSlot i f).MemOk := h

theorem State.MemOk.unitRead {s : State} {ctx va n : Nat} (h : s.MemOk) : (s.unitRead ctx va n).2.MemOk := by
  unfold State.unitRead
  split
  · split
    · simp only
      exact .of_snd_snd ‹_› (.unitGets h)
    · simp only
      exact .unitBad (.of_snd_snd ‹_› (.unitGets h))
  · simp only
    exact .of_snd_snd ‹_› (.unitGets h)

theorem State.MemOk.holdUnit {s : State} {w : Who} {ctx va cond level : Nat} {acc : Access} {core : optParam Nat 0}
    (h : s.MemOk) : (s.holdUnit w ctx va cond level acc core).MemOk := by
  unfold State.holdUnit
  simp only
  exact .modHazel (.attach (.fresh h))

theorem State.MemOk.unhold {s : State} {w : Who} (h : s.MemOk) : (s.unhold w).MemOk := h

theorem State.MemOk.pendRecord {s : State} {ctx : Nat} {r : Record} (h : s.MemOk) : (s.pendRecord ctx r).MemOk := h

theorem State.MemOk.widx {s : State} {q : Nat} (h : s.MemOk) : (s.widx q).2.MemOk := by
  unfold State.widx
  simp only
  split
  · simp only
    exact State.homeGets_memOk _ _ h
  · simp only
    exact .unitBad (State.homeGets_memOk _ _ h)

theorem State.MemOk.dropWaits {s : State} {q : Nat} (h : s.MemOk) : (s.dropWaits q).MemOk := h

theorem State.MemOk.putSlot {s : State} {i q w : Nat} (h : s.MemOk) : (s.putSlot i q w).MemOk := h

theorem State.MemOk.unmapSlot {s : State} {i : Nat} (h : s.MemOk) : (s.unmapSlot i).MemOk := by
  unfold State.unmapSlot
  split <;> exact h

theorem State.MemOk.listQueue {s : State} {q : Nat} (h : s.MemOk) : (s.listQueue q).MemOk := h

theorem State.MemOk.failQueue {s : State} {q : Nat} (h : s.MemOk) : (s.failQueue q).MemOk := by
  unfold State.failQueue
  exact .pendRecord h

theorem State.MemOk.serveList {s : State} {i : Nat} {l : List Nat} (h : s.MemOk) : (s.serveList i l).MemOk := by
  induction l generalizing s with
  | nil =>
    exact h
  | cons x l ih =>
    unfold State.serveList
    simp only
    split
    · exact ih h
    split
    · exact ih (.failQueue (.widx h))
    exact .putSlot (.widx h)

theorem State.MemOk.serveRemap {s : State} (h : s.MemOk) : s.serveRemap.MemOk := by
  unfold State.serveRemap
  split
  · exact .serveList h
  exact h

theorem State.MemOk.assignSlot {s : State} {q w : Nat} (h : s.MemOk) : (s.assignSlot q w).MemOk := by
  unfold State.assignSlot
  simp only
  split
  · exact h
  split
  · exact h
  split
  · exact .putSlot (.listQueue (.unmapSlot h))
  exact .putSlot (.unmapSlot h)

theorem State.MemOk.stopQueue {s : State} {q : Nat} (h : s.MemOk) : (s.stopQueue q).MemOk := by
  unfold State.stopQueue
  simp only
  split
  · split
    · exact .serveRemap (.modHazel (.modQueue (.dropWaits (.unmapSlot h))))
    exact .serveRemap h
  · split
    · exact .modHazel (.modQueue (.dropWaits (.unmapSlot h)))
    exact h

theorem State.MemOk.packetError {s : State} {q : Nat} (h : s.MemOk) : (s.packetError q).MemOk := by
  unfold State.packetError
  exact .pendRecord (.stopQueue h)

theorem State.MemOk.judgeIndex {s : State} {q : Nat} (h : s.MemOk) : (s.judgeIndex q).MemOk := by
  unfold State.judgeIndex
  simp only
  split
  · split
    · exact .packetError h
    exact h
  · exact h

theorem Res.MemOk.execSignalNotification {s : State} (h : s.MemOk) : (execSignalNotification s).MemOk := by
  unfold Machine.execSignalNotification
  simp only
  split
  · split
    · exact .fault
    split
    · exact .next h
    split
    · exact .next (.judgeIndex (.modSlot (.widx (.modQueue (.fresh h)))))
    split
    · exact .next (.judgeIndex (.assignSlot (.widx (.modQueue (.fresh h)))))
    exact .next (.widx (.modQueue (.fresh h)))
  · exact .fault

theorem Res.MemOk.execQueueIdleUnmap {s : State} (h : s.MemOk) : (execQueueIdleUnmap s).MemOk := by
  unfold Machine.execQueueIdleUnmap
  split
  · split
    · exact .fault
    exact .allow (.serveRemap (.unmapSlot h))
  · exact .fault

theorem State.MemOk.nextPacket {s t : State} {i : Nat} {x : Slot} {k : Queue} {p : Option Pkt} (h : s.MemOk)
    (e : s.nextPacket i = some (x, k, p, t)) : t.MemOk := by
  unfold State.nextPacket at e
  simp only at e
  split at e
  · cases e
  split at e
  · cases e
    exact h
  split at e
  · cases e
  split at e <;> cases e
  · exact .modSlot (.of_snd ‹_› (.unitRead h))
  · exact .of_snd ‹_› (.unitRead h)

theorem State.MemOk.consumePacket {s : State} {i : Nat} (h : s.MemOk) : (s.consumePacket i).MemOk := by
  unfold State.consumePacket
  simp only
  split <;> exact h

theorem Res.MemOk.execPacketEmpty {s : State} (h : s.MemOk) : (execPacketEmpty s).MemOk := by
  unfold Machine.execPacketEmpty
  split
  · split
    · exact .next (.packetError (.nextPacket h ‹_›))
    · exact .next (.modSlot (.nextPacket h ‹_›))
    exact .fault
  · exact .fault

theorem Res.MemOk.execPacketWait {s : State} (h : s.MemOk) : (execPacketWait s).MemOk := by
  unfold Machine.execPacketWait
  simp only
  split
  · split
    · split
      · exact .fault
      split
      · exact .fault
      · exact .next (.packetError (.nextPacket h ‹_›))
      split
      · exact .next (.modSlot (.holdUnit (.of_snd ‹_› (.unitRead (.nextPacket h ‹_›)))))
      · exact .next (.packetError (.of_snd ‹_› (.unitRead (.nextPacket h ‹_›))))
      split
      · exact .next (.consumePacket (.of_snd ‹_› (.unitRead (.nextPacket h ‹_›))))
      split
      · exact .next (.modHazel (.modSlot (.of_snd ‹_› (.unitRead (.nextPacket h ‹_›)))))
      exact .next (.serveRemap (.modHazel (.unmapSlot (.of_snd ‹_› (.unitRead (.nextPacket h ‹_›))))))
    · exact .fault
  · exact .fault

theorem Res.MemOk.recheck {s : State} {w : Waiting} (h : s.MemOk) : (s.recheck w).MemOk := by
  unfold State.recheck
  simp only
  split
  · exact .next h
  split
  · exact .fault
  · exact .next (.packetError h)
  split
  · exact .next (.holdUnit (.of_snd ‹_› (.unitRead h)))
  · exact .next (.packetError (.of_snd ‹_› (.unitRead h)))
  split
  · split
    · exact .next (.consumePacket (.dropWaits (.of_snd ‹_› (.unitRead h))))
    exact .next (.serveRemap (.listQueue (.dropWaits (.of_snd ‹_› (.unitRead h)))))
  · exact .next (.modHazel (.of_snd ‹_› (.unitRead h)))

theorem Res.MemOk.execWaitWordWatch {s : State} (h : s.MemOk) : (execWaitWordWatch s).MemOk := by
  unfold Machine.execWaitWordWatch
  split
  · split
    · exact .recheck h
    exact .fault
  · exact .fault

theorem Res.MemOk.execWaitWordPoll {s : State} (h : s.MemOk) : (execWaitWordPoll s).MemOk := by
  unfold Machine.execWaitWordPoll
  split
  · split
    · exact .recheck h
    exact .fault
  · exact .fault

theorem State.MemOk.signalled {s : State} {ctx pa : Nat} {p : Packet} {waitk : Nat} (h : s.MemOk) :
    (s.signalled ctx pa p waitk).MemOk := h

theorem State.MemOk.signalWrite {s : State} {ctx waitk : Nat} {p : Packet} (h : s.MemOk) :
    (s.signalWrite ctx waitk p).2.MemOk := by
  unfold State.signalWrite
  simp only
  split
  · split
    · split
      · simp only
        exact .signalled (State.devPut_memOk _ _ (State.devPut_memOk _ _ (.of_snd ‹_› (.translate h))))
      · split
        · simp only
          exact .of_snd ‹_› (.translate h)
        · split
          · simp only
            refine .signalled (.of_snd ‹_› ?_)
            split
            · exact .freeOk (State.traffic_memOk _ _ (.of_snd ‹_› (.translate h)))
            simp only
            exact State.traffic_memOk _ _ (.of_snd ‹_› (.translate h))
          · simp only
            refine State.toOsm_memOk _ (.of_snd ‹_› ?_)
            split
            · exact .freeOk (State.traffic_memOk _ _ (.of_snd ‹_› (.translate h)))
            simp only
            exact State.traffic_memOk _ _ (.of_snd ‹_› (.translate h))
    · split
      · simp only
        exact .signalled (State.homePut_memOk _ _ _ (State.homePut_memOk _ _ _ (.of_snd ‹_› (.translate h))))
      · split
        · simp only
          refine .signalled (.of_snd ‹_› ?_)
          split
          · exact State.farAtomic_memOk _ _ _ (.of_snd ‹_› (.translate h))
          exact State.homeAtomic_memOk _ _ _ (State.l2Fill_memOk _ _ (.of_snd ‹_› (.translate h)))
        · simp only
          refine .of_snd ‹_› ?_
          split
          · exact State.farAtomic_memOk _ _ _ (.of_snd ‹_› (.translate h))
          exact State.homeAtomic_memOk _ _ _ (State.l2Fill_memOk _ _ (.of_snd ‹_› (.translate h)))
        · simp only
          refine .of_snd ‹_› ?_
          split
          · exact State.farAtomic_memOk _ _ _ (.of_snd ‹_› (.translate h))
          exact State.homeAtomic_memOk _ _ _ (State.l2Fill_memOk _ _ (.of_snd ‹_› (.translate h)))
  · simp only
    exact .of_snd ‹_› (.translate h)
  · simp only
    exact .of_snd ‹_› (.translate h)

theorem Res.MemOk.execPacketSignal {s : State} (h : s.MemOk) : (execPacketSignal s).MemOk := by
  unfold Machine.execPacketSignal
  split
  · split
    · split
      · split
        · exact .fault
        exact .next (.modSlot (.nextPacket h ‹_›))
      · split
        · exact .next (.consumePacket (.nextPacket h ‹_›))
        split
        · exact .fault
        · exact .next (.consumePacket (.unhold (.nextPacket h ‹_›)))
        split
        · exact .fault
        · exact .next (.modSlot (.holdUnit (.of_snd ‹_› (.signalWrite (.nextPacket h ‹_›)))))
        exact .next (.consumePacket (.of_snd ‹_› (.signalWrite (.nextPacket h ‹_›))))
    · exact .fault
  · exact .fault

theorem State.MemOk.acceptNode {s : State} {q : Nat} {k : Queue} {p : Packet} {r : NodeRec} (h : s.MemOk) :
    (s.acceptNode q k p r).MemOk := h

theorem Res.MemOk.execPacketNode {s : State} (h : s.MemOk) : (execPacketNode s).MemOk := by
  unfold Machine.execPacketNode
  simp only
  split
  · split
    · split
      · split
        · exact .fault
        exact .next (.modSlot (.nextPacket h ‹_›))
      · split
        · exact .next (.packetError (.of_snd ‹_› (.unitRead (.nextPacket h ‹_›))))
        split
        · exact .next (.consumePacket (.modQueue (.acceptNode (.of_snd ‹_› (.unitRead (.nextPacket h ‹_›))))))
        exact .next (.consumePacket (.modQueue (.pendRecord (.of_snd ‹_› (.unitRead (.nextPacket h ‹_›))))))
    · exact .fault
  · exact .fault

end Sys2Proof.Machine
end

section
/-! The functions of Machine/Place keep the canonical form. -/

namespace Sys2Proof.Machine

theorem State.MemOk.modNode {s : State} {u : Nat} {f : Node → Node} (h : s.MemOk) : (s.modNode u f).MemOk := h

theorem State.MemOk.modAudit {s : State} {u : Nat} {f : Audit → Audit} (h : s.MemOk) : (s.modAudit u f).MemOk := h

theorem Res.MemOk.execShadowSlotGrant {s : State} (h : s.MemOk) : (execShadowSlotGrant s).MemOk := by
  unfold Machine.execShadowSlotGrant
  split
  · split
    · split
      · exact .next h
      exact .allow (.modCrew (.foldl h (fun s x h => .wipeBlock h)))
    · split
      · exact .fault
      split
      · exact .fault
      split
      · exact .next h
      exact .allow (.modHazel (.foldl h (fun s x h => .wipeBlock h)))
  · exact .fault

theorem State.MemOk.takeSlot {s : State} {node cidx : Nat} (h : s.MemOk) : (s.takeSlot node cidx).MemOk := h

theorem State.MemOk.unreserve {s : State} {node : Nat} (h : s.MemOk) : (s.unreserve node).MemOk := h

theorem Res.MemOk.execNodePlacement {s : State} (h : s.MemOk) : (execNodePlacement s).MemOk := by
  unfold Machine.execNodePlacement
  simp only
  split
  · split
    · exact .fault
    split
    · split
      · exact .fault
      split <;> split <;> exact .next h
    · exact .fault
  · exact .fault

theorem State.MemOk.freeCrew {s : State} {core crew : Nat} {saved : Bool} (h : s.MemOk) :
    (s.freeCrew core crew saved).MemOk := by
  unfold State.freeCrew
  simp only
  split
  · exact h
  split
  · split
    · exact State.modCore_memOk _ _ (State.modCore_memOk _ _ (.freeIds (.foldl h (fun s x h => h))))
    exact State.modCore_memOk _ _ (State.modCore_memOk _ _ (.freeIds (.dropIds (.foldl h (fun s x h => h)))))
  · split
    · exact State.modCore_memOk _ _ (State.modCore_memOk _ _ (.freeIds (.foldl h (fun s x h => h))))
    exact State.modCore_memOk _ _ (State.modCore_memOk _ _ (.freeIds (.dropIds (.foldl h (fun s x h => h)))))

theorem State.MemOk.startTest {s : State} {core : Nat} (h : s.MemOk) : (s.startTest core).MemOk := h

theorem State.MemOk.finishNode {s : State} {n : Node} {status cause : Nat} {fsum : BitVec 128} (h : s.MemOk) :
    (s.finishNode n status cause fsum).MemOk := by
  unfold State.finishNode
  simp only
  split <;> exact h

theorem State.MemOk.completeNode {s : State} {u : Nat} (h : s.MemOk) : (s.completeNode u).MemOk := by
  unfold State.completeNode
  split
  · exact h
  split
  · exact h
  split
  · exact .finishNode h
  exact h

theorem Res.MemOk.execCompletionSignalWrite {s : State} (h : s.MemOk) : (execCompletionSignalWrite s).MemOk := by
  unfold Machine.execCompletionSignalWrite
  simp only
  split
  · split
    · exact .fault
    split
    · exact .fault
    split
    · exact .fault
    · exact .next (.finishNode h)
    split
    · exact .next (.finishNode (.of_snd ‹_› (.signalWrite h)))
    · exact .fault
    · exact .next (.holdUnit (.of_snd ‹_› (.signalWrite h)))
    exact .next (.finishNode (.of_snd ‹_› (.signalWrite h)))
  · exact .fault

theorem Res.MemOk.execEnded {s : State} (h : s.MemOk) : (execEnded s).MemOk := by
  unfold Machine.execEnded
  simp only
  split
  · split
    · exact .next (.completeNode h)
    exact .fault
  · exact .fault

theorem State.MemOk.reap {s : State} {ctx : Nat} (h : s.MemOk) : (s.reap ctx).MemOk := by
  unfold State.reap
  simp only
  split
  · split
    · refine .modCtx (State.toPewter_memOk _ (.foldl h (fun s x h => ?_)))
      split
      · split
        · split <;> exact .finishNode h
        exact .finishNode h
      · exact h
    · refine .modCtx (.foldl h (fun s x h => ?_))
      split
      · split
        · split <;> exact .finishNode h
        exact .finishNode h
      · exact h
  · refine .foldl h (fun s x h => ?_)
    split
    · split
      · split <;> exact .finishNode h
      exact .finishNode h
    · exact h

theorem State.MemOk.stopContext {s : State} {ctx : Nat} (h : s.MemOk) : (s.stopContext ctx).MemOk := by
  unfold State.stopContext
  refine .reap (.foldl (.modHazel (.foldl h (fun s x h => .stopQueue h))) (fun s x h => ?_))
  split <;> exact h

theorem Res.MemOk.execFault {s : State} (h : s.MemOk) : (execFault s).MemOk := by
  unfold Machine.execFault
  simp only
  split
  · split
    · split
      · exact .next h
      exact .next (.stopContext h)
    · exact .fault
  · exact .fault

theorem Res.MemOk.execCancel {s : State} (h : s.MemOk) : (execCancel s).MemOk := by
  unfold Machine.execCancel
  simp only
  split
  · split
    · exact .next (.reap (.foldl h (fun s x h => .startTest (.foldl h (fun s x h => .freeCrew h)))))
    exact .fault
  · exact .fault

theorem State.MemOk.ringFault {s : State} {ctx : Nat} {cause : Cause} {addr : Nat} (h : s.MemOk) :
    (s.ringFault ctx cause addr).MemOk := by
  unfold State.ringFault
  simp only
  split
  · exact .reap h
  exact .stopContext h

theorem State.MemOk.eventIrq {s : State} {ctx : Nat} (h : s.MemOk) : (s.eventIrq ctx).MemOk := h

theorem Res.MemOk.execEventRecordWrite {s : State} (h : s.MemOk) : (execEventRecordWrite s).MemOk := by
  unfold Machine.execEventRecordWrite
  simp only
  split
  · split
    · exact .fault
    split
    · exact .fault
    split
    · exact .fault
    · exact .next (.ringFault h)
    split
    · exact .next (.holdUnit (.of_snd ‹_› (.unitRead h)))
    · exact .next (.ringFault (.of_snd ‹_› (.unitRead h)))
    · exact .next (.ringFault (.of_snd ‹_› (.unitRead h)))
    split
    · exact .fault
    split
    · exact .next (.holdUnit (.of_snd ‹_› (.unitPuts (.of_snd ‹_› (.unitRead h)))))
    · exact .next (.ringFault (.of_snd ‹_› (.unitPuts (.of_snd ‹_› (.unitRead h)))))
    · exact .next (.ringFault (.of_snd ‹_› (.unitPuts (.of_snd ‹_› (.unitRead h)))))
    split
    · exact .next (.eventIrq (.modCtx (.of_snd ‹_› (.unitPuts (.of_snd ‹_› (.unitRead h))))))
    exact .next (.modCtx (.of_snd ‹_› (.unitPuts (.of_snd ‹_› (.unitRead h)))))
  · exact .fault

theorem Res.MemOk.execEventIrqTimer {s : State} (h : s.MemOk) : (execEventIrqTimer s).MemOk := by
  unfold Machine.execEventIrqTimer
  split
  · split
    · exact .fault
    exact .allow h
  · exact .fault

theorem State.MemOk.front {s : State} {n : Node} {l : List Nat} (h : s.MemOk) : (s.front n l).2.MemOk := by
  induction l generalizing s with
  | nil =>
    exact h
  | cons x l ih =>
    unfold State.front
    simp only
    split
    · simp only
      exact .of_snd_snd ‹_› (.unitGets h)
    · simp only
      exact .of_snd_snd ‹_› (.unitGets h)
    · simp only
      exact .of_snd_snd ‹_› (.unitGets h)
    · split
      · simp only
        exact .unitBad (.of_snd_snd ‹_› (.unitGets h))
      · split
        · simp only
          exact .of_snd_snd ‹_› (.unitGets h)
        · split
          · simp only
            exact .of_snd ‹_› (ih (.of_snd_snd ‹_› (.unitGets h)))
          · exact ih (.of_snd_snd ‹_› (.unitGets h))

theorem State.MemOk.copyPage {s : State} {pa : Nat} {cz : Bool} {log : Nat} (h : s.MemOk) : (s.copyPage pa cz log).MemOk := by
  unfold State.copyPage
  refine .foldl h (fun s x h => ?_)
  simp only
  exact State.homePut_memOk _ _ _ (State.homeGet_memOk _ _ h)

theorem State.MemOk.copyPages {s : State} {ctx log : Nat} {l : List Nat} (h : s.MemOk) : (s.copyPages ctx log l).2.MemOk := by
  induction l generalizing s log with
  | nil =>
    exact h
  | cons x l ih =>
    unfold State.copyPages
    split
    · split
      · simp only
        exact .of_snd ‹_› (.translate h)
      · split
        · simp only
          exact .of_snd ‹_› (ih (.copyPage (.of_snd ‹_› (.translate h))))
        · exact ih (.copyPage (.of_snd ‹_› (.translate h)))
    · simp only
      exact .of_snd ‹_› (.translate h)

theorem State.MemOk.auditRecord {s : State} {ctx node nodeId cidx core rcore outcome sig rsig : Nat} (h : s.MemOk) :
    (s.auditRecord ctx node nodeId cidx core rcore outcome sig rsig).MemOk := by
  unfold State.auditRecord
  simp only
  split
  · split <;> exact h
  split
  · split <;> exact h
  split
  · refine .modCtx (.of_snd ‹_› (.unitPuts ?_))
    split <;> exact h
  · refine State.toPewter_memOk _ (.modCtx (.of_snd ‹_› (.unitPuts ?_)))
    split <;> exact h

theorem State.MemOk.auditSelect {s : State} {n : Node} {c core : Nat} {log : Option Nat} {ls : List Launch} (h : s.MemOk) :
    (s.auditSelect n c core log ls).2.MemOk := by
  unfold State.auditSelect
  simp only
  split
  · exact h
  split
  · simp only
    exact h
  · split
    · simp only
      exact .auditRecord h
    · split
      · simp only
        exact .auditRecord (.of_snd ‹_› (.copyPages (.modCtx h)))
      · simp only
        exact .modHazel (.fresh (.of_snd ‹_› (.copyPages (.modCtx h))))

theorem State.MemOk.setUp {s : State} {n : Node} {c core : Nat} {x : Spot} {ls : List Launch} (h : s.MemOk) :
    (s.setUp n c core x ls).MemOk := by
  unfold State.setUp
  simp only
  exact State.acquire_memOk _ _ _ _ (.takeSlot (.modCtx (State.modCore_memOk _ _ (.auditSelect h))))

theorem State.MemOk.launches {s : State} {n : Node} {c : Nat} (h : s.MemOk) : (s.launches n c).2.MemOk := by
  unfold State.launches
  split
  · exact h
  split
  · exact .front h
  exact h

theorem State.MemOk.allLaunches {s : State} {n : Node} {l : List (Nat × Nat)} (h : s.MemOk) :
  (s.allLaunches n l).2.MemOk := by
  induction l generalizing s with
  | nil =>
    exact h
  | cons x l ih =>
    unfold State.allLaunches
    split
    · split
      · simp only
        exact .of_snd ‹_› (ih (.of_snd ‹_› (.launches h)))
      · exact ih (.of_snd ‹_› (.launches h))
    · simp only
      exact .of_snd ‹_› (.launches h)

theorem State.MemOk.setUps {s : State} {n : Node} {l : List (((Nat × Nat) × Spot) × List Launch)} (h : s.MemOk) :
    (s.setUps n l).MemOk := by
  unfold State.setUps
  exact .foldl h (fun s x h => .setUp h)

theorem State.MemOk.unfuseIdle {s : State} {cl : Nat} (h : s.MemOk) : (s.unfuseIdle cl).MemOk := by
  unfold State.unfuseIdle
  split
  · exact .setFused h
  exact h

theorem Res.MemOk.execPlace {s : State} (h : s.MemOk) : (execPlace s).MemOk := by
  unfold Machine.execPlace
  split
  · split
    · split
      · exact .next h
      split
      · exact .next (.reap h)
      split
      · exact .next h
      split
      · exact .fault
      split
      · split
        · exact .next (.contextFault h)
        exact .fault
      · split
        · exact .next (.modNode (.consumeDown (.setUps (.unfuseIdle (.of_snd ‹_› (.allLaunches h))))))
        · exact .next (.holdUnit (.of_snd ‹_› (.allLaunches h)))
        · exact .next (.contextFault (.consumeDown (.of_snd ‹_› (.allLaunches h))))
        exact .fault
    · exact .fault
  · exact .fault

theorem Res.MemOk.execContinueCrew {s : State} (h : s.MemOk) : (execContinueCrew s).MemOk := by
  unfold Machine.execContinueCrew
  simp only
  split
  · split
    · split
      · exact .next h
      split
      · exact .next h
      split
      · exact .next (.setPhase h)
      exact .next h
    · exact .fault
  · exact .fault

theorem Res.MemOk.execTestEnd {s : State} (h : s.MemOk) : (execTestEnd s).MemOk := by
  unfold Machine.execTestEnd
  simp only
  split
  · split
    · exact .fault
    split <;> exact .next h
  · exact .fault

theorem Res.MemOk.execMisscapWrite {s : State} (h : s.MemOk) : (execMisscapWrite s).MemOk := by
  unfold Machine.execMisscapWrite
  simp only
  split
  · split
    · exact .next h
    exact .fault
  · exact .fault

end Sys2Proof.Machine
end

section
/-! The functions of Machine/CrewEv keep the canonical form. -/

namespace Sys2Proof.Machine

theorem Res.MemOk.execWaitTimeout {s : State} (h : s.MemOk) : (execWaitTimeout s).MemOk := by
  unfold Machine.execWaitTimeout
  split
  · split
    · split
      · exact .allow h
      exact .fault
    · exact .fault
  · exact .fault

theorem Res.MemOk.execBinTimeout {s : State} (h : s.MemOk) : (execBinTimeout s).MemOk := by
  unfold Machine.execBinTimeout
  split
  · split
    · exact .fault
    exact .allow h
  · exact .fault

theorem State.MemOk.binsGo {s : State} {core crew : Nat} {k : Crew} (h : s.MemOk) : (s.binsGo core crew k).MemOk := by
  unfold State.binsGo
  split <;> exact h

theorem Res.MemOk.execBinWaveForm {s : State} (h : s.MemOk) : (execBinWaveForm s).MemOk := by
  unfold Machine.execBinWaveForm
  simp only
  split
  · split
    · exact .fault
    split
    · exact .fault
    split
    · split
      · exact .fault
      split <;> exact .next (.binsGo h)
    · split
      · exact .fault
      split <;> exact .next (.binsGo h)
    · split
      · exact .fault
      split <;> exact .next (.binsGo h)
  · exact .fault

theorem Res.MemOk.execLlsDecay {s : State} (h : s.MemOk) : (execLlsDecay s).MemOk := by
  unfold Machine.execLlsDecay
  split
  · exact .allow h
  exact .fault

theorem Res.MemOk.execThrottleSelect {s : State} (h : s.MemOk) : (execThrottleSelect s).MemOk := by
  unfold Machine.execThrottleSelect
  simp only
  split
  · exact .allow h
  exact .fault

theorem Res.MemOk.execThrottleBypass {s : State} (h : s.MemOk) : (execThrottleBypass s).MemOk := by
  unfold Machine.execThrottleBypass
  split
  · split
    · exact .allow h
    exact .fault
  · exact .fault

theorem State.MemOk.settle {s : State} {core crew : Nat} (h : s.MemOk) : (s.settle core crew).MemOk := by
  unfold State.settle
  split
  · exact h
  exact .setPhase h

theorem Res.MemOk.execNopreWindowExpire {s : State} (h : s.MemOk) : (execNopreWindowExpire s).MemOk := by
  unfold Machine.execNopreWindowExpire
  split
  · split
    · exact .fault
    split
    · exact .fault
    split
    · exact .allow (.setPhase h)
    exact .fault
  · exact .fault

theorem Res.MemOk.execTdescWrite {s : State} (h : s.MemOk) : (execTdescWrite s).MemOk := by
  unfold Machine.execTdescWrite
  split
  · split
    · exact .fault
    split
    · exact .next (.writeTdesc h ‹_›)
    split
    · split
      · exact .withPod h (fun p w k => .trap h)
      exact .next h
    · exact .next h
  · exact .fault

theorem Res.MemOk.execArriveWrite {s : State} (h : s.MemOk) : (execArriveWrite s).MemOk := by
  unfold Machine.execArriveWrite
  split
  · split
    · exact .fault
    exact .next h
  · exact .fault

theorem Res.MemOk.execIllegalEncoding {s : State} (h : s.MemOk) : (execIllegalEncoding s).MemOk := by
  unfold Machine.execIllegalEncoding
  split
  · exact .withRegs h (fun p w k => .trap h)
  exact .fault

theorem State.MemOk.liveEntry {s : State} {core ctx : Nat} {pc : VAddr} (h : s.MemOk) :
  (s.liveEntry core ctx pc).2.MemOk := by
  unfold State.liveEntry
  simp only
  split
  · exact h
  split
  · split
    · simp only
      exact .of_snd_snd ‹_› (.unitGets h)
    · simp only
      exact .unitBad (.of_snd_snd ‹_› (.unitGets h))
  · simp only
    exact .of_snd_snd ‹_› (.unitGets h)

theorem State.MemOk.liveAt {s : State} {core ctx : Nat} {l : List VAddr} (h : s.MemOk) : (s.liveAt core ctx l).2.MemOk := by
  induction l generalizing s with
  | nil =>
    exact h
  | cons x l ih =>
    unfold State.liveAt
    split
    · simp only
      exact .of_snd ‹_› (.liveEntry h)
    · split
      · simp only
        exact .of_snd ‹_› (ih (.of_snd ‹_› (.liveEntry h)))
      · simp only
        exact .of_snd ‹_› (ih (.of_snd ‹_› (.liveEntry h)))

theorem State.MemOk.waveLive {s : State} {core ctx : Nat} {w : Wave} {atEntry : Bool} (h : s.MemOk) :
    (s.waveLive core ctx w atEntry).2.MemOk := by
  unfold State.waveLive
  simp only
  split
  · exact h
  split
  · simp only
    exact .of_snd ‹_› (.liveAt h)
  · simp only
    exact .of_snd ‹_› (.liveAt h)

theorem State.MemOk.masks {s : State} {core ctx : Nat} {atEntry : Bool} {l : Map Wave} (h : s.MemOk) :
    (s.masks core ctx atEntry l).2.MemOk := by
  induction l generalizing s with
  | nil =>
    exact h
  | cons x l ih =>
    unfold State.masks
    simp only
    exact ih (.waveLive h)

theorem Res.MemOk.execBarrierWatchdogFire {s : State} (h : s.MemOk) : (execBarrierWatchdogFire s).MemOk := by
  unfold Machine.execBarrierWatchdogFire
  simp only
  split
  · split
    · exact .fault
    split
    · exact .fault
    split
    · exact .fault
    split
    · exact .next (.endReplay h)
    split <;> exact .next (.contextFault h)
  · exact .fault

theorem State.MemOk.endDump {s : State} {ctx : Nat} (h : s.MemOk) : (s.endDump ctx).MemOk := h

theorem Res.MemOk.execDiagDumpWrite {s : State} (h : s.MemOk) : (execDiagDumpWrite s).MemOk := by
  unfold Machine.execDiagDumpWrite
  simp only
  split
  · split
    · exact .fault
    split
    · exact .fault
    split
    · exact .fault
    · exact .next h
    split
    · exact .next (.holdUnit (.of_snd ‹_› (.unitPuts h)))
    exact .next (.endDump (.of_snd ‹_› (.unitPuts h)))
  · exact .fault

theorem State.MemOk.regionBytes {s : State} {g : Agent} {r : Nat × Nat × Nat} (h : s.MemOk) :
  (s.regionBytes g r).2.MemOk := by
  unfold State.regionBytes
  simp only
  split
  · simp only
    exact .of_snd_snd ‹_› (.unitGets h)
  · simp only
    exact .of_snd_snd ‹_› (.unitGets h)

theorem State.MemOk.signature {s : State} {g : Agent} {prev : BitVec 32} {l : List (Nat × Nat × Nat)} (h : s.MemOk) :
    (s.signature g prev l).2.MemOk := by
  induction l generalizing s prev with
  | nil =>
    exact h
  | cons x l ih =>
    unfold State.signature
    split
    · exact ih h
    split
    · simp only
      exact .of_snd ‹_› (.regionBytes h)
    · exact ih (.of_snd ‹_› (.regionBytes h))

theorem State.MemOk.endOriginal {s : State} {u : Nat} (h : s.MemOk) : (s.endOriginal u).MemOk := by
  unfold State.endOriginal
  simp only
  split
  · exact h
  split
  · exact .modHazel (.fresh (.modAudit (.of_snd ‹_› (.signature h))))
  exact .auditRecord (.modHazel (.of_snd ‹_› (.signature h)))

theorem State.MemOk.endAudit {s : State} {core u : Nat} (h : s.MemOk) : (s.endAudit core u).MemOk := by
  unfold State.endAudit
  simp only
  split
  · exact h
  split
  · exact h
  exact .modHazel (.auditRecord (.signature h))

theorem Res.MemOk.execCrewEnd {s : State} (h : s.MemOk) : (execCrewEnd s).MemOk := by
  unfold Machine.execCrewEnd
  simp only
  split
  · split
    · exact .fault
    split
    · exact .fault
    split
    · split
      · exact .next (.sendUp (.endAudit (.startTest (.freeCrew (.endOriginal (State.release_memOk _ _ _ _ h))))))
      exact .next (.sendUp (.endAudit (.startTest (.freeCrew (State.release_memOk _ _ _ _ h)))))
    · split
      · exact .next (.sendUp (.startTest (.freeCrew (.endOriginal (State.release_memOk _ _ _ _ h)))))
      exact .next (.sendUp (.startTest (.freeCrew (State.release_memOk _ _ _ _ h))))
  · exact .fault

end Sys2Proof.Machine
end

section
/-! The functions of Machine/Shadow keep the canonical form. -/

namespace Sys2Proof.Machine

theorem State.MemOk.slotRecord {s : State} {slot : Nat × Nat} (h : s.MemOk) : (s.slotRecord slot).2.MemOk := by
  unfold State.slotRecord
  split
  next header => exact State.homeGets_memOk _ _ (.of_snd header (State.homeGets_memOk _ _ h))

theorem Res.MemOk.execShadow {s : State} (h : s.MemOk) : (execShadow s).MemOk := by
  unfold Machine.execShadow
  simp only
  split
  · split
    · exact .fault
    split
    · exact .fault
    split
    · exact .fault
    split
    · exact .next (.freeIds (.settle (.modCrew (State.modCore_memOk _ _ (State.homePuts_memOk _ _ (.slotRecord
        (.masks h)))))))
    simp only
    exact .next (.freeIds (.settle (.modCrew (State.modCore_memOk _ _ (State.homePuts_memOk _ _ (.masks h))))))
  · exact .fault

theorem State.MemOk.rolledBack {s : State} {core crew faulty : Nat} {k : Crew} {sh : Shadow} {r : Restored} {ws bs : List Nat}
    (h : s.MemOk) : (s.rolledBack core crew faulty k sh r ws bs).MemOk := h

theorem Res.MemOk.execRollback {s : State} (h : s.MemOk) : (execRollback s).MemOk := by
  unfold Machine.execRollback
  simp only
  split
  · split
    · exact .fault
    split
    · split
      · exact .fault
      split
      · split
        · exact .next (.contextFault (State.toOsm_memOk _ (.slotRecord h)))
        exact .next (.settle (.rolledBack (.slotRecord h)))
      · exact .fault
    · exact .fault
  · exact .fault

end Sys2Proof.Machine
end

section
/-! The functions of Machine/Preempt keep the canonical form. -/

namespace Sys2Proof.Machine

theorem Res.MemOk.execPreemptionRequest {s : State} (h : s.MemOk) : (execPreemptionRequest s).MemOk := by
  unfold Machine.execPreemptionRequest
  split
  · split
    · exact .fault
    exact .allow h
  · exact .fault

theorem Res.MemOk.execPriorityRise {s : State} (h : s.MemOk) : (execPriorityRise s).MemOk := by
  unfold Machine.execPriorityRise
  split
  · split
    · exact .fault
    split
    · exact .fault
    split <;> exact .next h
  · exact .fault

theorem State.MemOk.returnGrants {s : State} {ctx : Nat} {keep : List (Nat × Nat)} (h : s.MemOk) :
    (s.returnGrants ctx keep).MemOk := by
  unfold State.returnGrants
  exact .foldl h (fun s x h => h)

theorem State.MemOk.readLive {s : State} {ctx : Nat} (h : s.MemOk) : (s.readLive ctx).MemOk := by
  unfold State.readLive
  exact .foldl h (fun s x h => .foldl h (fun s x h => .masks (.masks h)))

theorem Res.MemOk.execScoreReport {s : State} (h : s.MemOk) : (execScoreReport s).MemOk := by
  unfold Machine.execScoreReport
  simp only
  split
  · split
    · exact .fault
    split
    · exact .fault
    split
    · exact .next (.returnGrants (.readLive h))
    split
    · exact .next (.foldl (.unreserve (.returnGrants (.readLive h))) (fun s x h => h))
    split
    · exact .next (.sendDown (.sendDown (.foldl (.unreserve (.returnGrants (.readLive h))) (fun s x h => h))))
    exact .next (.sendDown (.foldl (.unreserve (.returnGrants (.readLive h))) (fun s x h => h)))
  · exact .fault

theorem State.MemOk.needs {s : State} {flush : Bool} {l : List (Nat × Nat × Crew)} (h : s.MemOk) :
    (s.needs flush l).2.MemOk := by
  induction l generalizing s with
  | nil =>
    exact h
  | cons x l ih =>
    unfold State.needs
    simp only
    exact ih (.masks h)

theorem State.MemOk.handRun {s : State} {base : Nat} {l : List ((Nat × Nat × Crew) × Nat)} (h : s.MemOk) :
    (s.handRun base l).MemOk := by
  induction l generalizing s base with
  | nil =>
    exact h
  | cons x l ih =>
    exact ih h

theorem State.MemOk.giveBack {s : State} {u : List (Nat × Nat × Crew)} (h : s.MemOk) : (s.giveBack u).MemOk := by
  unfold State.giveBack
  exact .foldl h (fun s x h => h)

theorem State.MemOk.keepUnit {s : State} {u : List (Nat × Nat × Crew)} (h : s.MemOk) : (s.keepUnit u).MemOk := by
  unfold State.keepUnit
  refine .foldl (.foldl (.foldl (.foldl (.giveBack h) (fun s x h => h)) (fun s x h => ?_)) (fun s x h => h))
    (fun s x h => .foldl h (fun s x h => h))
  split
  · exact .settle h
  exact h

theorem State.MemOk.keepPlaced {s : State} {u : List (Nat × Nat × Crew)} (h : s.MemOk) : (s.keepPlaced u).MemOk := by
  unfold State.keepPlaced
  exact .foldl h (fun s x h => h)

theorem Res.MemOk.execHeapGrantReply {s : State} (h : s.MemOk) : (execHeapGrantReply s).MemOk := by
  unfold Machine.execHeapGrantReply
  simp only
  split
  · split
    · exact .fault
    split
    · exact .fault
    split
    · exact .allow (.handRun (.needs h))
    split
    · exact .next (.giveBack (.needs h))
    split
    · exact .next (.keepPlaced (.needs h))
    exact .next (.keepUnit (.needs h))
  · exact .fault

theorem State.MemOk.preemptCrew {s : State} {core i m : Nat} (h : s.MemOk) : (s.preemptCrew core i m).MemOk := by
  unfold State.preemptCrew
  simp only
  split
  · exact h
  split
  · exact .setPhase h
  exact h

theorem State.MemOk.saveUnit {s : State} {core i : Nat} {k : Crew} (h : s.MemOk) : (s.saveUnit core i k).MemOk := by
  unfold State.saveUnit
  refine .foldl h (fun s x h => ?_)
  split
  · exact .preemptCrew h
  exact h

theorem Res.MemOk.execPreempt {s : State} (h : s.MemOk) : (execPreempt s).MemOk := by
  unfold Machine.execPreempt
  split
  · split
    · refine .next (.foldl h (fun s x h => ?_))
      split
      · exact h
      exact .preemptCrew h
    · exact .fault
  · exact .fault

theorem Res.MemOk.execTest {s : State} (h : s.MemOk) : (execTest s).MemOk := by
  unfold Machine.execTest
  simp only
  split
  · split
    · exact .next (.startTest (.foldl h (fun s x h => .saveUnit h)))
    exact .fault
  · exact .fault

theorem State.MemOk.lostFrames {s : State} {g : Agent} {privsz : Nat} {l : List Nat} (h : s.MemOk) :
    (s.lostFrames g privsz l).2.MemOk := by
  induction l generalizing s with
  | nil =>
    exact h
  | cons x l ih =>
    unfold State.lostFrames
    split
    · split
      · split
        · simp only
          exact .of_snd ‹_› (ih (.of_snd_snd ‹_› (.unitGets h)))
        · exact ih (.of_snd_snd ‹_› (.unitGets h))
      · simp only
        exact .of_snd_snd ‹_› (.unitGets h)
    · simp only
      exact .of_snd_snd ‹_› (.unitGets h)

theorem State.MemOk.flushedThread {s : State} {g : Agent} {privsz : Nat} {w : Wave} {t : Thread} (h : s.MemOk) :
    (s.flushedThread g privsz w t).2.2.MemOk := by
  unfold State.flushedThread
  simp only
  exact .lostFrames h

theorem State.MemOk.flushedThreads {s : State} {core slot : Nat} {k : Crew} {w : Wave} {l : Map Thread} (h : s.MemOk) :
    (s.flushedThreads core slot k w l).2.2.MemOk := by
  induction l generalizing s with
  | nil => exact h
  | cons x l ih => exact ih (State.MemOk.flushedThread (w := w) h)

theorem State.MemOk.flushedWave {s : State} {core slot : Nat} {k : Crew} {w : Wave} (h : s.MemOk) :
    (s.flushedWave core slot k w).2.MemOk := by
  unfold State.flushedWave
  simp only
  exact .flushedThreads h

theorem State.MemOk.flushedWaves {s : State} {core : Nat} {k : Crew} {l : Map Wave} (h : s.MemOk) :
    (s.flushedWaves core k l).2.MemOk := by
  induction l generalizing s with
  | nil =>
    exact h
  | cons x l ih =>
    unfold State.flushedWaves
    simp only
    exact ih (.flushedWave h)

theorem State.MemOk.memberRecord {s : State} {core i m : Nat} {k : Crew} (h : s.MemOk) :
    (s.memberRecord core i m k).2.MemOk := by
  unfold State.memberRecord
  simp only
  split
  · exact .flushedWaves (.masks h)
  simp only
  exact .masks h

theorem State.MemOk.writeRecords {s t : State} {m base room : Nat} {l : List (Nat × Nat × Crew)} {r : List SavedCrew}
    (h : s.MemOk) (e : s.writeRecords m base room l = some (r, t)) : t.MemOk := by
  induction l generalizing s base room r with
  | nil =>
    cases e
    exact h
  | cons x l ih =>
    unfold State.writeRecords at e
    simp only at e
    split at e
    · cases e
    split at e
    · cases e
    next recorded =>
      cases e
      exact ih (State.homePuts_memOk _ _ (.memberRecord h)) recorded

theorem Res.MemOk.execCapture {s : State} (h : s.MemOk) : (execCapture s).MemOk := by
  unfold Machine.execCapture
  simp only
  split
  · split
    · exact .fault
    split
    · split
      · exact .fault
      split
      · exact .fault
      exact .next (.sendUp (.foldl (.fresh (.writeRecords (.foldl h (fun s x h => State.release_memOk _ _ _ _ h)) ‹_›))
        (fun s x h => .startTest (.freeCrew h))))
    · exact .fault
  · exact .fault

theorem Res.MemOk.execSaved {s : State} (h : s.MemOk) : (execSaved s).MemOk := by
  unfold Machine.execSaved
  simp only
  split
  · split
    · split
      · exact .next (.reap h)
      split
      · exact .next (.completeNode h)
      exact .next h
    · exact .fault
  · exact .fault

theorem State.MemOk.moveAudit {s : State} {audit : Option Nat} {core : Nat} (h : s.MemOk) :
  (s.moveAudit audit core).MemOk := by
  unfold State.moveAudit
  split <;> exact h

theorem State.MemOk.seat {s : State} {e : ResumeEntry} {m : Member} {us : List GUnit} (h : s.MemOk) :
    (s.seat e m us).MemOk := by
  unfold State.seat
  exact State.acquire_memOk _ _ _ _ (.moveAudit h)

theorem State.MemOk.records {s : State} {l : List Member} (h : s.MemOk) : (s.records l).2.MemOk := by
  induction l generalizing s with
  | nil =>
    exact h
  | cons x l ih =>
    unfold State.records
    simp only
    exact ih (State.homeGets_memOk _ _ h)

theorem Res.MemOk.execResume {s : State} (h : s.MemOk) : (execResume s).MemOk := by
  unfold Machine.execResume
  simp only
  split
  · split
    · exact .fault
    split
    · exact .fault
    split
    · exact .next (.contextFault (State.toOsm_memOk _ (.modHazel (.records h))))
    split
    · exact .next (.sendDown (.unreserve (.foldl (.unfuseIdle (.modHazel (.records h))) (fun s x h => .seat h))))
    exact .next (.unreserve (.foldl (.unfuseIdle (.modHazel (.records h))) (fun s x h => .seat h)))
  · exact .fault

theorem Res.MemOk.execPartitionReplace {s : State} (h : s.MemOk) : (execPartitionReplace s).MemOk := by
  unfold Machine.execPartitionReplace
  simp only
  split
  · split
    · exact .fault
    split
    · exact .request h h
    refine .next (.foldl h (fun s x h => .foldl h (fun s x h => ?_)))
    split
    · exact .saveUnit h
    exact h
  · exact .fault

end Sys2Proof.Machine
end

section
/-! The functions of Machine/Firm keep the canonical form. -/

namespace Sys2Proof.Machine

theorem State.MemOk.dropAll {s : State} {ctx : Nat} (h : s.MemOk) : (s.dropAll ctx).MemOk := by
  unfold State.dropAll
  exact .foldl h (fun s x h => .startTest (.foldl h (fun s x h => .freeCrew h)))

theorem State.MemOk.drainRecords {s : State} {ctx n : Nat} (h : s.MemOk) : (s.drainRecords ctx n).MemOk := by
  induction n generalizing s with
  | zero => exact h
  | succ n ih =>
    unfold State.drainRecords
    split
    next t written => exact ih (Res.MemOk.execEventRecordWrite (s := { s with arg := .eventRecordWrite ctx }) h t written)
    next => exact h

theorem State.MemOk.stopAll {s : State} (h : s.MemOk) : s.stopAll.MemOk := by
  unfold State.stopAll
  exact .setArg (.foldl (.foldl (.setClusters (.foldl (.foldl h fun s x h => h) fun s x h => .dropAll (.stopContext h)))
    fun s x h => .reap h) fun s x h => .drainRecords h)

theorem Res.MemOk.execOff {s : State} (h : s.MemOk) : (execOff s).MemOk := by
  unfold Machine.execOff
  split
  · exact .osmiumOnPort h (.frame (.stopAll h))
  exact .fault

theorem Res.MemOk.execLccmd {s : State} (h : s.MemOk) : (execLccmd s).MemOk := by
  unfold Machine.execLccmd
  split
  · split
    · exact .osmiumOnPort h (.frame .reset)
    · exact .osmiumOnPort h h
  · exact .fault

theorem State.MemOk.cancelContext {s : State} {ctx : Nat} (h : s.MemOk) : (s.cancelContext ctx).MemOk := by
  unfold State.cancelContext
  simp only
  split <;> exact .stopContext h

theorem Res.MemOk.execCoreCondemn {s : State} (h : s.MemOk) : (execCoreCondemn s).MemOk := by
  unfold Machine.execCoreCondemn
  simp only
  split
  · split
    · exact .fault
    exact .next (.sendUp (.foldl h (fun s x h => .saveUnit h)))
  · exact .fault

theorem Res.MemOk.execRegisterWrite {s : State} (h : s.MemOk) : (execRegisterWrite s).MemOk := by
  unfold Machine.execRegisterWrite
  simp only
  split
  · split
    · exact .next h
    · exact .next h
    · exact .allow h
    · exact .next h
    · exact .request h h
    · exact .request h h
    · exact .next h
    · split
      · exact .fault
      exact .request h h
    · split
      · exact .fault
      exact .request h h
    · exact .request h h
    · exact .request h h
    · exact .allow h
    · exact .allow h
    · exact .allow h
    · exact .allow h
    · exact .allow h
    · exact .next (.cancelContext h)
  · exact .fault

end Sys2Proof.Machine
end

section
/-! The functions of Machine/Dispatch keep the canonical form. -/

namespace Sys2Proof.Machine

theorem Res.MemOk.exec {i : Instr} {s : State} (h : s.MemOk) : Res.MemOk (exec i s) := by
  cases i with
  | powerOn => exact .execPowerOn
  | powerLoss => exact .execPowerLoss
  | wake => exact .execWake h
  | status => exact .execStatus h
  | image => exact .execImage h
  | lccmd => exact .execLccmd h
  | wipeComplete => exact .execWipeComplete h
  | attest => exact .execAttest h
  | off => exact .execOff h
  | unknownFrameType => exact .execUnknownFrameType h
  | clockStepDown => exact .execClockStepDown h
  | clockStepUp => exact .execClockStepUp h
  | thermalTrip => exact .execThermalTrip
  | coreCondemn => exact .execCoreCondemn h
  | coreCondemnedReport => exact .execCoreCondemnedReport h
  | pcieInboundData => exact .execPcieInboundData h
  | pcieOutboundData => exact .execPcieOutboundData h
  | pageWalk => exact .execPageWalk h
  | faultRecordWrite => exact .execFaultRecordWrite h
  | replayRetry => exact .execReplayRetry h
  | replayFatal => exact .execReplayFatal h
  | frcfgWrite => exact .execFrcfgWrite h
  | fridxWrite => exact .execFridxWrite h
  | xlinvaWrite => exact .execXlinvaWrite h
  | xlinvPage => exact .execXlinvPage h
  | xlinvAll => exact .execXlinvAll h
  | xlinvComplete => exact .execXlinvComplete h
  | homeAtomic => exact .execHomeAtomic h
  | farAtomic => exact .execFarAtomic h
  | l2Fill => exact .execL2Fill h
  | l2Writeback => exact .execL2Writeback h
  | growthRecordAppend => exact .execGrowthRecordAppend h
  | grcfgWrite => exact .execGrcfgWrite h
  | gridxWrite => exact .execGridxWrite h
  | czcmd => exact .execCzcmd h
  | fuse => exact .execFuse h
  | unfuse => exact .execUnfuse h
  | windowRegisterWrite => exact .execWindowRegisterWrite h
  | windowChangeComplete => exact .execWindowChangeComplete h
  | frameWipe => exact .execFrameWipe h
  | engineOpDispatch => exact .execEngineOpDispatch h
  | enginePiece => exact .execEnginePiece h
  | multicastArrival => exact .execMulticastArrival h
  | remoteWriteDeposit => exact .execRemoteWriteDeposit h
  | waitTimeout => exact .execWaitTimeout h
  | binTimeout => exact .execBinTimeout h
  | binWaveForm => exact .execBinWaveForm h
  | llsDecay => exact .execLlsDecay h
  | throttleSelect => exact .execThrottleSelect h
  | throttleBypass => exact .execThrottleBypass h
  | nopreWindowExpire => exact .execNopreWindowExpire h
  | crewEnd => exact .execCrewEnd h
  | tdescWrite => exact .execTdescWrite h
  | arriveWrite => exact .execArriveWrite h
  | illegalEncoding => exact .execIllegalEncoding h
  | rollback => exact .execRollback h
  | shadow => exact .execShadow h
  | shadowSlotGrant => exact .execShadowSlotGrant h
  | barrierWatchdogFire => exact .execBarrierWatchdogFire h
  | diagDumpWrite => exact .execDiagDumpWrite h
  | signalNotification => exact .execSignalNotification h
  | queueIdleUnmap => exact .execQueueIdleUnmap h
  | packetEmpty => exact .execPacketEmpty h
  | packetNode => exact .execPacketNode h
  | packetWait => exact .execPacketWait h
  | packetSignal => exact .execPacketSignal h
  | waitWordWatch => exact .execWaitWordWatch h
  | waitWordPoll => exact .execWaitWordPoll h
  | nodePlacement => exact .execNodePlacement h
  | priorityRise => exact .execPriorityRise h
  | place => exact .execPlace h
  | ended => exact .execEnded h
  | completionSignalWrite => exact .execCompletionSignalWrite h
  | eventRecordWrite => exact .execEventRecordWrite h
  | eventIrqTimer => exact .execEventIrqTimer h
  | fault => exact .execFault h
  | saved => exact .execSaved h
  | cancel => exact .execCancel h
  | continueCrew => exact .execContinueCrew h
  | test => exact .execTest h
  | testEnd => exact .execTestEnd h
  | misscapWrite => exact .execMisscapWrite h
  | preemptionRequest => exact .execPreemptionRequest h
  | scoreReport => exact .execScoreReport h
  | heapGrantReply => exact .execHeapGrantReply h
  | preempt => exact .execPreempt h
  | capture => exact .execCapture h
  | resume => exact .execResume h
  | partitionReplace => exact .execPartitionReplace h
  | scrub => exact .execScrub h
  | scrubCountUpdate => exact .execScrubCountUpdate h
  | ecscntClear => exact .execEcscntClear h
  | descriptorInstall => exact .execDescriptorInstall h
  | firewallAssign => exact .execFirewallAssign h
  | pageTableWrite => exact .execPageTableWrite h
  | windowInstall => exact .execWindowInstall h
  | loadObject => exact .execLoadObject h
  | linkPatch => exact .execLinkPatch h
  | registerWrite => exact .execRegisterWrite h
  | movB32H | iaddN32H | isubN32H | imulN32H | andB32H | orB32H | xorB32H | shlB32H | shrN32H | shrI32H | faddF32H
  | fsubF32H | fmulF32H | fminF32H | fmaxF32H | iminI32H | iaddN32 | isubN32 | imulN32 | imulhiI32 | imulhiN32 | iminI32
  | iminN32 | imaxI32 | imaxN32 | iabsI32 | idivI32 | idivN32 | iremI32 | iremN32 | iaddsatI32 | isubsatI32 | andB32
  | orB32 | xorB32 | andnB32 | shlB32 | shrN32 | shrI32 | rotlB32 | popcB32 | clzB32 | brevB32 | notB32 | iaddiN32
  | andiB32 | oriB32 | xoriB32 | shliB32 | shriN32 | shriI32 | rotiB32 | faddF32 | fsubF32 | fmulF32 | fdivF32 | fminF32
  | fmaxF32 | fsqrtF32 | fnegF32 | fabsF32 | fcsgnF32 | fadd2F16 | fmul2F16 | fadd2Bf16 | fmul2Bf16 | ffmaF32 | imadN32
  | cvt | pack2B16 | pack2B8 | pack2hB8 | extN16 | extI16 | extN8 | extI8 | bfxN32 | bfxI32 | bfiB32 | movB32 | laneid
  | tid => exact .laneOp h
  | fceqF32 | fcneF32 | fcltF32 | fcleF32 | fcgtF32 | fcgeF32 | fcunF32 | fcordF32 | iceqB32 | icneB32 | icltI32 | icleI32
  | icgtI32 | icgeI32 | icltN32 | icleN32 | icgtN32 | icgeN32 | ictstB32 | pand | por | pxor | pandn | pmov | pnot | vtop => exact .lanePred h
  | selB32 => exact .execSelB32 h
  | ptov => exact .execPtov h
  | shflB32 | bcastB32 => exact .laneTake h
  | ballotB32 => exact .execBallotB32 h
  | vall | vany =>
    unfold Machine.exec
    exact .vote h
  | qset => exact .execQset h
  | qget => exact .execQget h
  | iaddN64 | isubN64 | imulN64 | shlB64 | shrN64 | shrI64 | iminI64 | imaxI64 | iminN64 | imaxN64 | imulwN32 | imulwI32 => exact .laneOp64 h
  | uaddN32 | usubN32 | umulN32 | uminI32 | umaxI32 | uminN32 | umaxN32 | uandB32 | uorB32 | uxorB32 | ushlB32 | ushrN32
  | ushrI32 | udivN32 | uremN32 | umov | useqB32 | usltI32 | usltN32 | udivI32 | uremI32 | uaddi | umovi => exact .uniOp h
  | cmovRead => exact .execCmovRead h
  | cmovWrite => exact .execCmovWrite h
  | br | brCond => exact .branch h
  | call | callCond => exact .call h
  | jmp => exact .execJmp h
  | calli => exact .execCalli h
  | ret => exact .execRet h
  | ldlB32 | ldlB64 => exact .literal h
  | ldB32 | ldB64 | ldB128 | ldB32Ord | ldB64Ord => exact .memLoad h
  | stB32 | stB64 | stB128 | stB32Ord | stB64Ord => exact .memStore h
  | ataddN32 | atfaddF32 | atminI32 | atminN32 | atmaxI32 | atmaxN32 | atandB32 | atorB32 | atxorB32 | atswpB32 | atcasB32
  | atmrgB32 | ataddN64 | atswpB64 | atcasB64 => exact .atomic h
  | fenceAcq | fenceRel | fenceAr => exact .fence h
  | bind => exact .execBind h
  | join => exact .execJoin h
  | leave => exact .execLeave h
  | wait => exact .execWait h
  | cbar => exact .execCbar h
  | cjoin => exact .execCjoin h
  | cleave => exact .execCleave h
  | binit => exact .execBinit h
  | barrive => exact .execBarrive h
  | bwait => exact .execBwait h
  | bread => exact .execBread h
  | rdwp => exact .execRdwp h
  | rwr => exact .execRwr h
  | mld => exact .execMld h
  | mst => exact .execMst h
  | mldf => exact .execMldf h
  | mstf => exact .execMstf h
  | ald => exact .execAld h
  | ast => exact .execAst h
  | mma | mmaz => exact .multiply h
  | mdrain => exact .execMdrain h
  | aclr => exact .execAclr h
  | mmul | madd | maddDn | mtr => exact .tileOp h
  | mrecomp | mfact =>
    unfold Machine.exec
    exact .refactor h
  | mdens => exact .execMdens h
  | mmov => exact .moveTile h
  | mzero => exact .execMzero h
  | xcopy | xrepack | xtr | xcvt | xexp | xmcast => exact .asyncIssue h
  | exit => exact .execExit h
  | emit => exact .execEmit h
  | idem => exact .execIdem h
  | nopre => exact .execNopre h
  | rng | caddN128 =>
    unfold Machine.exec
    exact .quadOp h
  | bkpt => exact .withPod h fun p w k => .trap h
  | tret => exact .execTret h
  | tstamp => exact .execTstamp h
  | coreid => exact .execCoreid h
  | czcmdComplete => exact .execCzcmdComplete h
  | replayRefused => exact .execReplayRefused h
  | commandCrcFailure => exact .execCommandCrcFailure h
  | sendPermitReturn => exact .execSendPermitReturn h
  | peerAccess => exact .execPeerAccess h
  | controlCoreAccess => exact .execControlCoreAccess h
  | queueOwnerAssign => exact .execQueueOwnerAssign h

end Sys2Proof.Machine
end

section
/-! The functions of Machine/Issue keep the canonical form. -/

namespace Sys2Proof.Machine

theorem State.MemOk.reselected {s : State} {core slot : Nat} (h : s.MemOk) : (s.reselected core slot).MemOk := h

theorem State.MemOk.fetchGranule {s : State} {p : Pod} {k : Crew} {va : Nat} (h : s.MemOk) :
    (s.fetchGranule p k va).2.MemOk := by
  unfold State.fetchGranule
  simp only
  split
  · simp only
    exact h
  · split
    · split
      · simp only
        exact .icGet (.of_snd ‹_› (.translate h))
      · simp only
        exact .icGet (.of_snd ‹_› (.translate h))
    · simp only
      exact .of_snd ‹_› (.translate h)
    · split
      · simp only
        exact State.modWave_memOk _ _ _ (.attach (.of_snd ‹_› (.translate h)))
      · simp only
        exact .stalled (.of_snd ‹_› (.translate h))
    · simp only
      exact .of_snd ‹_› (.translate h)

theorem State.MemOk.fetch {s : State} {p : Pod} {k : Crew} (h : s.MemOk) : (s.fetch p k).2.MemOk := by
  unfold State.fetch
  split
  · split
    · simp only
      exact .of_snd ‹_› (.fetchGranule h)
    · split
      · simp only
        exact .of_snd ‹_› (.fetchGranule (.of_snd ‹_› (.fetchGranule h)))
      · exact .fetchGranule (.of_snd ‹_› (.fetchGranule h))
  · exact .fetchGranule h

theorem Res.MemOk.runCode {s : State} {p : Pod} {bs : List Byte} (h : s.MemOk) : (s.runCode p bs).MemOk := by
  unfold State.runCode
  split
  · exact .exec h
  · exact .exec h
  · exact .exec h
  exact .fault

theorem Res.MemOk.issue {s : State} {core slot : Nat} {klim : Option Nat} (h : s.MemOk) : (s.issue core slot klim).MemOk := by
  unfold State.issue
  simp only
  split
  · exact .fault
  split
  · exact .fault
  split
  · exact .fault
  split
  · exact .runCode (.of_snd ‹_› (.fetch (.reselected h)))
  · exact .next (.effState (.trap (.of_snd ‹_› (.fetch (.reselected h)))))
  exact .next (.of_snd ‹_› (.fetch (.reselected h)))

theorem State.MemOk.dueOn {s : State} {core : Nat} (h : s.MemOk) : (s.dueOn core).MemOk := by
  unfold State.dueOn
  simp only
  split <;> exact h

theorem State.MemOk.due {s : State} (h : s.MemOk) : s.due.MemOk := by
  unfold State.due
  refine .foldl h (fun s x h => ?_)
  split
  · exact .dueOn h
  exact h

theorem State.MemOk.endBarriers {s : State} (h : s.MemOk) : s.endBarriers.MemOk := by
  unfold State.endBarriers
  refine .foldl h (fun s x h => .foldl h (fun s x h => ?_))
  split
  · exact .testBarrier h
  exact h

theorem State.MemOk.expire {s : State} (h : s.MemOk) : s.expire.MemOk := h

theorem State.MemOk.endCycle {s : State} {n : Nat} (h : s.MemOk) : (s.endCycle n).MemOk := by
  unfold State.endCycle
  exact .due (.expire (.setCycle (.endBwaits (.endBarriers h))))

theorem Res.MemOk.perform {s : State} {m : Move} (h : s.MemOk) : (s.perform m).MemOk := by
  unfold State.perform
  simp only
  split
  · exact .fault
  split
  · split
    · split
      · exact .issue (.of_eq (.endCycle h) rfl rfl)
      exact .fault
    · split
      · exact .issue h
      exact .fault
  · split
    · exact .fault
    split
    · exact .exec h
    exact .fault
  · split
    · exact .next h
    exact .next (.endCycle h)
  · exact .next (State.l1Evict_memOk _ _ h)
  · exact .next (State.l2Evict_memOk _ h)
  · exact .allow (State.hbmPut_memOk _ _ h)
  · exact .next h
  · exact .next h
  · exact .next h
  · exact .next h
  · exact .next h
  · exact .next h
  · exact .next h
  · exact .next h
  · split <;> exact .next h

theorem Res.MemOk.move {s : State} (h : s.MemOk) : s.move.MemOk := by
  unfold State.move
  split
  · exact .perform h
  split
  · exact .perform h
  exact .next (.endCycle h)

theorem Res.MemOk.advance {s : State} (h : s.MemOk) : s.advance.MemOk := by
  unfold State.advance
  split
  next t moved => exact .next (Res.MemOk.move h t moved)
  next => exact .fault
  next => exact .refused

end Sys2Proof.Machine
end

section
/-! Every step keeps memory canonical and leaves the state quiet. -/

open Sys2Proof.Machine

/-- Settles O54, by the canonical form that each function of the model keeps, up to a whole move; the end of a move clears the pod
and the event's argument, which is what makes the state quiet. -/
theorem stepKeepsMemOk : Obligations.StepKeepsMemOk := by
  unfold Obligations.StepKeepsMemOk
  intro s t ok run
  refine ⟨Res.MemOk.advance ok t run, ?_⟩
  have run : s.advance = .next t := run
  unfold State.advance at run
  split at run <;> cases run
  exact ⟨rfl, rfl⟩

end

section
/-! Writes of control registers: the words of a pair, and a crew whose body alone changes before the instruction retires. -/

namespace Sys2Proof.Machine

/-- A pair's value, low word first (R210). -/
theorem Wave.toNat_dword (w : Wave) (r : Reg) (l : Nat) :
    (w.dword r l).toNat = (w.word r l).toNat + 2 ^ 32 * (w.word (r.plus 1) l).toNat := by
  unfold Wave.dword pair
  rw [BitVec.toNat_append, Nat.shiftLeft_eq, Nat.mul_comm, ← Nat.two_pow_add_eq_or_of_lt (w.word r l).isLt, Nat.add_comm]

theorem Wave.setWidth_dword (w : Wave) (r : Reg) (l : Nat) : (w.dword r l).setWidth 32 = w.word r l := by
  refine BitVec.eq_of_toNat_eq ?_
  rw [BitVec.toNat_setWidth, Wave.toNat_dword, Nat.add_mul_mod_self_left, Nat.mod_eq_of_lt (w.word r l).isLt]

/-- Nothing differs but the body of the pod's crew, which is now `k1`, and origin entries of the core. -/
structure CrewSet (s t : State) (p : Pod) (w : Wave) (k1 : Crew) : Prop where
  crew : t.crew? p.core w.crew = some k1
  waves : (t.core p.core).waves = (s.core p.core).waves
  crews : ∀ i, i ≠ w.crew → t.crew? p.core i = s.crew? p.core i
  core : { t.core p.core with waves := [], crews := [], origin := [] } =
    { s.core p.core with waves := [], crews := [], origin := [] }
  cores : ∀ c, c ≠ p.core → t.core c = s.core c
  rest : { t with cores := s.cores } = s

variable {s t : State} {p : Pod} {w : Wave} {k k1 : Crew}

theorem CrewSet.refl (h : Issuing s p w k) : CrewSet s s p w k :=
  ⟨h.crew, rfl, fun _ _ => rfl, rfl, fun _ _ => rfl, rfl⟩

theorem CrewSet.wave (h : CrewSet s t p w k1) (i : Nat) : t.wave? p.core i = s.wave? p.core i := by
  unfold State.wave?
  rw [h.waves]

theorem CrewSet.modBody (h : CrewSet s t p w k1) (f : CrewBody → CrewBody) :
    CrewSet s (t.modBody p.core w.crew f) p w { k1 with body := f k1.body } := by
  have core : (t.modBody p.core w.crew f).core p.core =
      { t.core p.core with crews := (t.core p.core).crews.alter w.crew fun x => { x with body := f x.body } } := by
    unfold State.modBody State.modCrew
    rw [State.core_modCore_self]
  refine ⟨?_, ?_, fun i hi => ?_, ?_, fun c hc => ?_, ?_⟩
  · unfold State.modBody
    rw [State.crew_modCrew_self, h.crew]
    rfl
  · rw [core]
    exact h.waves
  · unfold State.modBody
    rw [State.crew_modCrew_ne _ _ fun x => hi x.2.symm, h.crews i hi]
  · rw [core]
    exact h.core
  · unfold State.modBody State.modCrew
    rw [State.core_modCore_ne _ _ hc.symm, h.cores c hc]
  · exact h.rest

theorem CrewSet.setOrigin (h : CrewSet s t p w k1) (f : Core → List Origin) :
    CrewSet s (t.modCore p.core fun c => { c with origin := f c }) p w k1 := by
  refine ⟨?_, ?_, fun i hi => ?_, ?_, fun c hc => ?_, ?_⟩
  · have := h.crew
    unfold State.crew? at this ⊢
    rwa [State.core_modCore_self]
  · rw [State.core_modCore_self]
    exact h.waves
  · have := h.crews i hi
    unfold State.crew? at this ⊢
    rwa [State.core_modCore_self]
  · rw [State.core_modCore_self]
    exact h.core
  · rw [State.core_modCore_ne _ _ hc.symm, h.cores c hc]
  · exact h.rest

theorem CrewSet.setTile (h : CrewSet s t p w k1) (n : Nat) (d : TDesc) (us : List GUnit) :
    CrewSet s (t.setTile p.core w.crew n d us) p w { k1 with body := { k1.body with
      mregs := k1.body.mregs.set n ⟨d.toBits, padImage d us⟩, parity := k1.body.parity.filter (· != 0x100 + n) } } :=
  (h.modBody _).setOrigin _

theorem CrewSet.crMend (h : CrewSet s t p w k1) {n : Nat} (own : crewCr n = true) :
    CrewSet s (t.crMend p w n) p w { k1 with body := { k1.body with parity := k1.body.parity.filter (· != n) } } := by
  unfold State.crMend
  rw [if_pos own]
  exact h.modBody _

theorem CrewSet.issuing (h : CrewSet s t p w k1) (hi : Issuing s p w k) : Issuing t p w k1 where
  pod := (congrArg (fun x => x.pod) h.rest).trans hi.pod
  wave := (h.wave p.slot).trans hi.wave
  crew := h.crew
  lanes := hi.lanes
  nodup := hi.nodup
  bound := hi.bound
  ready := hi.ready
  restored := hi.restored

/-- An instruction that only changed its crew's body retires: nothing else differs (R166). -/
theorem CrewSet.retire (h : CrewSet s t p w k1) (hi : Issuing s p w k) :
    ∃ w', Effect s (t.retire p) p w w' k1 (fun _ => False) (fun _ => False) fun _ => p.after := by
  obtain ⟨w', e, -, -⟩ := retireWith_effect (h.issuing hi) (Local.refl (h.issuing hi) (fun _ => False) fun _ => False)
    fun _ => p.after
  have cores : ∀ c, c ≠ p.core → (t.retire p).core c = s.core c := fun c hc => (e.cores c hc).trans (h.cores c hc)
  have core := e.core.trans h.core
  have rest : { t.retire p with cores := s.cores, stamp := s.stamp } = s :=
    (congrArg (fun x : State => { x with cores := s.cores, stamp := s.stamp }) e.rest).trans
      (congrArg (fun x : State => { x with stamp := s.stamp }) h.rest)
  refine ⟨w', { e with
    waves := fun i hi => (e.waves i hi).trans (h.wave i)
    crews := fun i hi => (e.crews i hi).trans (h.crews i hi)
    core := core
    cores := cores
    rest := rest
    memory := SameMemory.of_eq rest fun c => ?_ }⟩
  by_cases hc : c = p.core
  · have l1 := congrArg (fun x : Core => x.l1) core
    rw [hc]
    exact l1
  · rw [cores c hc]

/-- A write of a control register that neither belongs to the core or context nor waits for the matrix unit does what `crWrite`
says, once its operands passed (R239). -/
theorem cmovWrite_eq (h : Issuing s p w k) {d : BitVec 6} (hg : Granted k [.ofS d, .s (d.toNat + 1)])
    (hs : Sound w p [.ofS d, .s (d.toNat + 1)]) {n : BitVec 12} (own : n ≠ 0x040#12 ∧ n ≠ 0x041#12)
    (idle : 0x100 ≤ n.toNat → (s.core p.core).waves.any (fun e => e.2.crew == w.crew && e.2.mma.isSome) = false) :
    exec (.cmovWrite n d) s = .next (Eff.state (match s.crWrite p w k n.toNat (w.dword (.ofS d) 0) with
      | none => .trap s (.plain .slab p.low)
      | some t => .done ((if crTakes n.toNat (w.dword (.ofS d) 0) then t.crMend p w n.toNat else t).retire p)) p w k) := by
  have busy : ¬(0x100 ≤ n.toNat ∧ (s.core p.core).waves.any (fun e => e.2.crew == w.crew && e.2.mma.isSome) = true) :=
    fun x => by simp [idle x.1] at x
  change execCmovWrite n d s = _
  unfold execCmovWrite
  rw [withRegs_ok h hg, if_neg (by simpa using own), if_neg busy, wakeChk_ok h, chkOperands_ok hs]
  rfl

/-- A write that reaches a register of the crew sets it and gives it good parity (R60). -/
theorem cmovWrite_sets (h : Issuing s p w k) {d : BitVec 6} (hg : Granted k [.ofS d, .s (d.toNat + 1)])
    (hs : Sound w p [.ofS d, .s (d.toNat + 1)]) {n : BitVec 12} (own : crewCr n.toNat = true)
    (idle : 0x100 ≤ n.toNat → (s.core p.core).waves.any (fun e => e.2.crew == w.crew && e.2.mma.isSome) = false)
    (wrote : s.crWrite p w k n.toNat (w.dword (.ofS d) 0) = some t) (takes : crTakes n.toNat (w.dword (.ofS d) 0) = true)
    (set : CrewSet s t p w k1) : ∃ t w', exec (.cmovWrite n d) s = .next t ∧
      Effect s t p w w' { k1 with body := { k1.body with parity := k1.body.parity.filter (· != n.toNat) } } (fun _ => False)
        (fun _ => False) fun _ => p.after := by
  obtain ⟨w', e⟩ := (set.crMend own).retire h
  refine ⟨_, w', ?_, e⟩
  rw [cmovWrite_eq h hg hs ⟨by rintro rfl; simp [crewCr] at own, by rintro rfl; simp [crewCr] at own⟩ idle, wrote]
  simp only [takes, if_true, Eff.state]

/-- A write that leaves the register changes nothing. -/
theorem cmovWrite_keeps (h : Issuing s p w k) {d : BitVec 6} (hg : Granted k [.ofS d, .s (d.toNat + 1)])
    (hs : Sound w p [.ofS d, .s (d.toNat + 1)]) {n : BitVec 12} (own : n ≠ 0x040#12 ∧ n ≠ 0x041#12)
    (idle : 0x100 ≤ n.toNat → (s.core p.core).waves.any (fun e => e.2.crew == w.crew && e.2.mma.isSome) = false)
    (wrote : s.crWrite p w k n.toNat (w.dword (.ofS d) 0) = some s) (takes : crTakes n.toNat (w.dword (.ofS d) 0) = false) :
    ∃ t w', exec (.cmovWrite n d) s = .next t ∧
      Effect s t p w w' k (fun _ => False) (fun _ => False) fun _ => p.after := by
  obtain ⟨w', e⟩ := (CrewSet.refl h).retire h
  refine ⟨_, w', ?_, e⟩
  rw [cmovWrite_eq h hg hs own idle, wrote]
  simp only [takes, Bool.false_eq_true, if_false, Eff.state]

/-- The wave's registers that a retirement leaves (R166). -/
theorem retire_wave {v : Wave} (hv : t.wave? p.core p.slot = some v) : ∃ w', (t.retire p).wave? p.core p.slot = some w' ∧
    (w'.arrive, w'.trappc, w'.ehbase, w'.v, w'.s) = (v.arrive, v.trappc, v.ehbase, v.v, v.s) := by
  unfold State.retire State.retireWith
  simp only
  have kept (stamp quantum : Nat) := congrArg (fun x : Wave => (x.arrive, x.trappc, x.ehbase, x.v, x.s))
    (Wave.issued_keeps v p.lanes stamp quantum true fun _ => p.after)
  exact ⟨_, (State.modCrew_wave ..).trans ((State.wave_modWave_self ..).trans (congrArg (Option.map _) hv)), kept ..⟩

/-- A write of a register that the wave has sets it. -/
theorem cmovWrite_wave (h : Issuing s p w k) {d : BitVec 6} (hg : Granted k [.ofS d, .s (d.toNat + 1)])
    (hs : Sound w p [.ofS d, .s (d.toNat + 1)]) {n : BitVec 12} (own : n ≠ 0x040#12 ∧ n ≠ 0x041#12) (low : n.toNat < 0x100)
    (wave : crewCr n.toNat = false) {f : Wave → Wave}
    (wrote : s.crWrite p w k n.toNat (w.dword (.ofS d) 0) = some (s.modWave p.core p.slot f))
    (takes : crTakes n.toNat (w.dword (.ofS d) 0) = true) (regs : (f w).v = w.v ∧ (f w).s = w.s) :
    ∃ t w', exec (.cmovWrite n d) s = .next t ∧ t.wave? p.core p.slot = some w' ∧
      (w'.arrive, w'.trappc, w'.ehbase) = ((f w).arrive, (f w).trappc, (f w).ehbase) ∧ ∀ r l, w'.get r l = w.get r l := by
  have mended : ((s.modWave p.core p.slot f).crMend p w n.toNat).wave? p.core p.slot =
      some { f w with parity := (f w).parity.filter (· != parCr n.toNat) } := by
    simp [State.crMend, wave, h.wave]
  obtain ⟨w', hw, kept⟩ := retire_wave mended
  simp only [Prod.mk.injEq] at kept
  obtain ⟨arrive, trappc, ehbase, hv, hs'⟩ := kept
  refine ⟨_, w', ?_, hw, by rw [arrive, trappc, ehbase], fun r l => ?_⟩
  · rw [cmovWrite_eq h hg hs own (fun x => absurd x (by omega)), wrote]
    simp only [takes, if_true, Eff.state]
  · cases r <;> simp only [Wave.get, hv, hs', regs.1, regs.2]

theorem toNat_crn {n : Nat} (hn : n < 0x1000) : (BitVec.ofNat 12 n).toNat = n :=
  (BitVec.toNat_ofNat ..).trans (Nat.mod_eq_of_lt hn)

/-- A write below the descriptors that reaches a register of the crew. -/
theorem cmovWrite_crew (h : Issuing s p w k) {d : BitVec 6} (hg : Granted k [.ofS d, .s (d.toNat + 1)])
    (hs : Sound w p [.ofS d, .s (d.toNat + 1)]) {n : Nat} {f : CrewBody → CrewBody} (hn : n < 0x100) (own : crewCr n = true)
    (wrote : s.crWrite p w k n (w.dword (.ofS d) 0) = some (s.modBody p.core w.crew f))
    (takes : crTakes n (w.dword (.ofS d) 0) = true) (kept : (f k.body).parity = k.body.parity) :
    ∃ t w', exec (.cmovWrite (BitVec.ofNat 12 n) d) s = .next t ∧
      Effect s t p w w' { k with body := { f k.body with parity := k.body.parity.filter (· != n) } } (fun _ => False)
        (fun _ => False) fun _ => p.after := by
  have small : (BitVec.ofNat 12 n).toNat = n := toNat_crn (by omega)
  have done := cmovWrite_sets h hg hs (n := BitVec.ofNat 12 n) (by rwa [small]) (fun x => absurd x (by omega))
    (by rwa [small]) (by rwa [small]) ((CrewSet.refl h).modBody f)
  rw [small, kept] at done
  exact done

/-- A write below the descriptors that leaves its register. -/
theorem cmovWrite_leaves (h : Issuing s p w k) {d : BitVec 6} (hg : Granted k [.ofS d, .s (d.toNat + 1)])
    (hs : Sound w p [.ofS d, .s (d.toNat + 1)]) {n : Nat} (hn : n < 0x100) (own : n ≠ 0x040 ∧ n ≠ 0x041)
    (wrote : s.crWrite p w k n (w.dword (.ofS d) 0) = some s) (takes : crTakes n (w.dword (.ofS d) 0) = false) :
    ∃ t w', exec (.cmovWrite (BitVec.ofNat 12 n) d) s = .next t ∧
      Effect s t p w w' k (fun _ => False) (fun _ => False) fun _ => p.after := by
  have small : (BitVec.ofNat 12 n).toNat = n := toNat_crn (by omega)
  refine cmovWrite_keeps h hg hs ⟨fun e => own.1 ?_, fun e => own.2 ?_⟩ (fun x => absurd x (by omega)) (by rwa [small])
    (by rwa [small])
  · rw [← small, e]
    rfl
  · rw [← small, e]
    rfl

/-! What `crWrite` says of the registers with conditions, and of a descriptor (R196, R197, R199, R270). -/

theorem State.crWrite_quantum (v : BitVec 64) : s.crWrite p w k 0x000 v = if bvf v 0 13 = 0 ∨ bvf v 0 13 > 4096 then some s
    else some (s.modBody p.core w.crew fun b => { b with quantum := bvf v 0 13 }) := rfl

theorem State.crWrite_binto (v : BitVec 64) : s.crWrite p w k 0x001 v = if bvf v 0 16 = 0 then some s
    else some (s.modBody p.core w.crew fun b => { b with binto := bvf v 0 16 }) := rfl

theorem State.crWrite_maxrank (v : BitVec 64) : s.crWrite p w k 0x021 v = if bvf v 0 6 = 0 ∨ bvf v 0 6 > 32 then some s
    else some (s.modBody p.core w.crew fun b => { b with maxrank := bvf v 0 6 }) := rfl

theorem State.crWrite_descriptor {m : Nat} (hm : m < 32) (v : BitVec 64) :
    s.crWrite p w k (0x100 + m) v = s.writeTdesc p.core w.crew m k v := by
  unfold State.crWrite
  rw [if_pos ⟨Nat.le_add_right _ _, by omega⟩, Nat.add_sub_cancel_left]

theorem State.writeTdesc_eq (core crew n : Nat) (v : BitVec 64) : s.writeTdesc core crew n k v =
    if { TDesc.ofBits v with sc := false, win := 0, soff := 0 }.writable = true then
      if k.fits n { TDesc.ofBits v with sc := false, win := 0, soff := 0 } = true then
        some (s.setTile core crew n { TDesc.ofBits v with sc := false, win := 0, soff := 0 } [])
      else none
    else some s := by
  unfold State.writeTdesc
  simp only [Bool.not_eq_eq_eq_not, Bool.not_true]
  split <;> simp_all

theorem crTakes_quantum (v : BitVec 64) : crTakes 0x000 v = (decide (bvf v 0 13 ≠ 0) && decide (bvf v 0 13 ≤ 4096)) := rfl

theorem crTakes_binto (v : BitVec 64) : crTakes 0x001 v = decide (bvf v 0 16 ≠ 0) := rfl

theorem crTakes_maxrank (v : BitVec 64) : crTakes 0x021 v = (decide (bvf v 0 6 ≠ 0) && decide (bvf v 0 6 ≤ 32)) := rfl

theorem crTakes_descriptor {m : Nat} (hm : m < 32) (v : BitVec 64) :
    crTakes (0x100 + m) v = { TDesc.ofBits v with sc := false, win := 0, soff := 0 }.writable := by
  unfold crTakes
  rw [if_pos ⟨Nat.le_add_right _ _, by omega⟩]

theorem crewCr_descriptor {m : Nat} (hm : m < 32) : crewCr (0x100 + m) = true := by
  have : 0x100 + m < 0x120 := by omega
  simp [crewCr, this]

/-- The legal descriptors are those that a write may leave (R270). -/
theorem TDesc.writable_iff (t : TDesc) : t.writable = true ↔ t.fmt ∈ [1, 2, 3, 4, 5, 8] ∧
    (t.dense = true ∨ t.fmt = 1 ∨ t.fmt = 2) ∧ t.rank ≤ 32 ∧ (t.dense = true → t.rank ≤ 1) := by
  unfold TDesc.writable
  cases hd : t.dense <;> simp [and_assoc]

end Sys2Proof.Machine
end

section

open Sys2Proof.Machine

/-- Settles O13, each register by its case of `crRead` and of `crWrite`: a write that reaches a register of the crew changes the
crew's body alone (`cmovWrite_sets`), one that leaves it nothing (`cmovWrite_keeps`), and one of the wave that wave
(`cmovWrite_wave`). -/
theorem controlRegisters : Obligations.ControlRegisters := by
  unfold Obligations.ControlRegisters
  intro s p w k d h hg reads
  have perm (n : BitVec 12) (core : n = 0x040#12 ∨ n = 0x041#12) :
      exec (.cmovWrite n d) s = .next (s.raise p w k (.plain .perm p.low)) := by
    change execCmovWrite n d s = _
    unfold execCmovWrite
    rw [withRegs_ok h hg, if_pos core]
    simp only [Eff.state, h.crew, Option.getD_some]
  have ofNat (v : BitVec 64) : v = BitVec.ofNat 64 v.toNat := by simp
  refine ⟨fun n clean => ?_, rfl, rfl, ?_, rfl, ?_, ?_, rfl, ofNat _, ofNat _, ofNat _, ofNat _, rfl, rfl, rfl, ofNat _, ofNat _,
    ofNat _, ofNat _, ofNat _, ofNat _, ?_, perm _ (.inl rfl), perm _ (.inr rfl), fun hs => ?_⟩
  · obtain ⟨w', e, regs⟩ := writePair_effect h (.ofS d) fun _ => crRead s p w k n.toNat p.low
    refine ⟨_, w', ?_, e, regs⟩
    change execCmovRead n d s = _
    unfold execCmovRead
    rw [withPod_ok h hg, chkSrcs_ok]
    · rfl
    · intro lane _ x hx
      rw [List.mem_singleton.1 hx]
      simp only [State.chkSrc, clean n.toNat (List.mem_singleton.2 rfl), parityFail, Bool.false_eq_true, if_false]
  · change crewInfo s p w k p.low = _
    unfold crewInfo Wave.thread
    cases w.threads.find p.low <;> rfl
  · intro i hi
    interval_cases i <;> rfl
  · exact (BitVec.ofNat_toNat 64 w.arrive).symm
  · intro m hm
    change crRead s p w k (0x100 + m) p.low = _
    unfold crRead
    rw [if_pos ⟨Nat.le_add_right _ _, by omega⟩, Nat.add_sub_cancel_left]
    exact ofNat _
  · intro lo x write sets keeps
    have value : (w.dword (.ofS d) 0).toNat = x := Wave.toNat_dword w _ 0
    have field (n : Nat) : bvf (w.dword (.ofS d) 0) 0 n = x % 2 ^ n := by rw [bvf, value, pow_zero, Nat.div_one]
    have low (n : Nat) (hn : n ≤ 32) : bvf (w.dword (.ofS d) 0) 0 n = lo % 2 ^ n := by
      rw [field, ← Nat.mod_mod_of_dvd x (Nat.pow_dvd_pow 2 hn), Nat.add_mul_mod_self_left,
        Nat.mod_mod_of_dvd _ (Nat.pow_dvd_pow 2 hn)]
    have word58 : BitVec.ofNat 58 x = (w.dword (.ofS d) 0).setWidth 58 := by rw [← value, BitVec.ofNat_toNat]
    have sets_of {n : Nat} {f : CrewBody → CrewBody} (hn : n < 0x100) (own : crewCr n = true)
        (wrote : s.crWrite p w k n (w.dword (.ofS d) 0) = some (s.modBody p.core w.crew f))
        (takes : crTakes n (w.dword (.ofS d) 0) = true) (kept : (f k.body).parity = k.body.parity) : sets n (f k.body) :=
      cmovWrite_crew h hg hs hn own wrote takes kept
    have keeps_of {n : Nat} (hn : n < 0x100) (own : n ≠ 0x040 ∧ n ≠ 0x041)
        (wrote : s.crWrite p w k n (w.dword (.ofS d) 0) = some s) (takes : crTakes n (w.dword (.ofS d) 0) = false) :
        keeps n := cmovWrite_leaves h hg hs hn own wrote takes
    refine ⟨?_, ?_, ?_, ?_, ?_, ?_, ?_, ?_, ?_, ?_, ?_, ?_, ?_⟩
    · intro i hi
      rw [word58]
      interval_cases i
      · exact sets_of (f := fun b => { b with ab := b.ab.set 0 _ }) (by decide) rfl rfl rfl rfl
      · exact sets_of (f := fun b => { b with ab := b.ab.set 1 _ }) (by decide) rfl rfl rfl rfl
      · exact sets_of (f := fun b => { b with ab := b.ab.set 2 _ }) (by decide) rfl rfl rfl rfl
      · exact sets_of (f := fun b => { b with ab := b.ab.set 3 _ }) (by decide) rfl rfl rfl rfl
    · intro least most
      refine sets_of (f := fun b => { b with quantum := lo % 2 ^ 13 }) (by decide) rfl ?_ ?_ rfl
      · rw [State.crWrite_quantum, low 13 (by decide), if_neg (by omega)]
      · rw [crTakes_quantum, low 13 (by decide), decide_eq_true (by omega), decide_eq_true most, Bool.and_self]
    · intro out
      refine keeps_of (by decide) (by decide) ?_ ?_
      · rw [State.crWrite_quantum, low 13 (by decide), if_pos out]
      · rw [crTakes_quantum, low 13 (by decide), ← Bool.decide_and, decide_eq_false (by omega)]
    · intro least
      refine sets_of (f := fun b => { b with binto := lo % 2 ^ 16 }) (by decide) rfl ?_ ?_ rfl
      · rw [State.crWrite_binto, low 16 (by decide), if_neg least]
      · rw [crTakes_binto, low 16 (by decide), decide_eq_true least]
    · intro out
      refine keeps_of (by decide) (by decide) ?_ ?_
      · rw [State.crWrite_binto, low 16 (by decide), if_pos out]
      · rw [crTakes_binto, low 16 (by decide), decide_eq_false (not_not.2 out)]
    · rw [← field 33]
      exact sets_of (f := fun b => { b with tol := BitVec.ofNat 64 (bvf _ 0 33) }) (by decide) rfl rfl rfl rfl
    · intro least most
      refine sets_of (f := fun b => { b with maxrank := lo % 2 ^ 6 }) (by decide) rfl ?_ ?_ rfl
      · rw [State.crWrite_maxrank, low 6 (by decide), if_neg (by omega)]
      · rw [crTakes_maxrank, low 6 (by decide), decide_eq_true (by omega), decide_eq_true most, Bool.and_self]
    · intro out
      refine keeps_of (by decide) (by decide) ?_ ?_
      · rw [State.crWrite_maxrank, low 6 (by decide), if_pos out]
      · rw [crTakes_maxrank, low 6 (by decide), ← Bool.decide_and, decide_eq_false (by omega)]
    · intro n hn
      simp only [List.mem_cons, List.not_mem_nil, or_false] at hn
      rcases hn with rfl | rfl | rfl | rfl | rfl | rfl | rfl | rfl | rfl | rfl <;> exact keeps_of (by decide) (by decide) rfl rfl
    · have word64 : BitVec.ofNat 64 x = w.dword (.ofS d) 0 := by rw [← value, BitVec.ofNat_toNat, BitVec.setWidth_eq]
      rw [word64]
      intro idle m hm t legal
      have lawful : t.writable = true ↔ legal := t.writable_iff
      have number : (BitVec.ofNat 12 (0x100 + m)).toNat = 0x100 + m := toNat_crn (by omega)
      have own : BitVec.ofNat 12 (0x100 + m) ≠ 0x040#12 ∧ BitVec.ofNat 12 (0x100 + m) ≠ 0x041#12 := by
        constructor <;> (refine fun e => absurd (congrArg BitVec.toNat e) ?_; rw [number]; simp; omega)
      have wrote := State.crWrite_descriptor (s := s) (p := p) (w := w) (k := k) hm (w.dword (.ofS d) 0)
      have takes := crTakes_descriptor hm (w.dword (.ofS d) 0)
      rw [State.writeTdesc_eq] at wrote
      refine ⟨fun out => ?_, fun legal beyond => ?_, fun legal fits => ?_⟩
      · rw [if_neg (fun e => out (lawful.1 e))] at wrote
        exact cmovWrite_keeps h hg hs own (fun _ => idle) (by rwa [number])
          (by rw [number, takes]; exact Bool.eq_false_iff.2 fun e => out (lawful.1 e))
      · rw [if_pos (lawful.2 legal), if_neg (by rw [beyond]; decide)] at wrote
        rw [cmovWrite_eq h hg hs own fun _ => idle, number, wrote]
        simp only [Eff.state, h.crew, Option.getD_some]
      · rw [if_pos (lawful.2 legal), if_pos fits] at wrote
        have done := cmovWrite_sets h hg hs (n := BitVec.ofNat 12 (0x100 + m)) (by rw [number]; exact crewCr_descriptor hm)
          (fun _ => idle) (by rwa [number]) (by rw [number, takes]; exact lawful.2 legal) ((CrewSet.refl h).setTile m t [])
        simp only [number, List.filter_filter, Bool.and_self] at done
        exact done
    · obtain ⟨t, w', run, wave, kept, regs⟩ := cmovWrite_wave h hg hs (n := 0x010#12) (by decide) (by decide) rfl rfl rfl ⟨rfl, rfl⟩
      simp only [Prod.mk.injEq] at kept
      exact ⟨t, w', run, wave, kept.1.trans (by rw [Wave.setWidth_dword]), regs⟩
    · obtain ⟨t, w', run, wave, kept, regs⟩ := cmovWrite_wave h hg hs (n := 0x031#12) (by decide) (by decide) rfl
        (f := fun w' => { w' with trappc := BitVec.ofNat 64 (bvf (w.dword (.ofS d) 0) 1 57 * 2) }) rfl rfl ⟨rfl, rfl⟩
      simp only [Prod.mk.injEq] at kept
      refine ⟨t, w', run, wave, kept.2.1.trans (congrArg (BitVec.ofNat 64) ?_), regs⟩
      rw [bvf, value]
      omega
    · obtain ⟨t, w', run, wave, kept, regs⟩ := cmovWrite_wave h hg hs (n := 0x033#12) (by decide) (by decide) rfl
        (f := fun w' => { w' with ehbase := BitVec.ofNat 64 (bvf (w.dword (.ofS d) 0) 0 58) }) rfl rfl ⟨rfl, rfl⟩
      simp only [Prod.mk.injEq] at kept
      exact ⟨t, w', run, wave, kept.2.2.trans (by rw [field 58]), regs⟩

end

section
/-! Operands that fail their check, and registers of bad parity (R60, R61, R191, R214): what the shared checks of an instruction's
meaning answer when something fails. -/

namespace Sys2Proof.Machine

variable {s s0 : State} {p : Pod} {w : Wave} {k : Crew} {i : Instr}

/-! ### The first failure -/

theorem findSome?_of_find? {α β : Type} {f : α → Option β} {bad : α → Bool} (tells : ∀ x, bad x = (f x).isSome) {l : List α}
    {a : α} (first : l.find? bad = some a) : l.findSome? f = f a := by
  induction l with
  | nil => cases first
  | cons x l ih =>
    rw [List.find?_cons] at first
    rw [List.findSome?_cons]
    have := tells x
    cases h : f x with
    | none =>
      rw [h] at this
      rw [this] at first
      exact ih first
    | some y =>
      rw [h] at this
      rw [this] at first
      cases first
      exact h.symm

theorem findSome?_congr {α β : Type} {f g : α → Option β} {l : List α} (same : ∀ x ∈ l, f x = g x) :
    l.findSome? f = l.findSome? g := by
  rw [← List.head?_filterMap, ← List.head?_filterMap, List.filterMap_congr same]

/-- What a failed check of a unit says: the unit's lane, register and SITE, and whether it was marked (R61, R62). -/
structure Blames (f : Chk) (u : GUnit) (lane reg site : Nat) : Prop where
  trap : f.trap = ⟨if u.ue then .hbmue else .chk, lane, 0, some f⟩
  lane : f.lane = lane
  reg : f.reg = reg
  ue : f.ue = u.ue
  site : f.site = if f.poison = true then 0x0A else site

theorem chkUnit_bad {u : GUnit} (bad : u.ok = false) (site reg lane : Nat) (a : Option Nat) :
    ∃ f, s.chkUnit site reg lane u a = some f ∧ Blames f u lane reg site := by
  unfold State.chkUnit
  rw [if_neg (by rw [bad]; decide)]
  exact ⟨_, rfl, rfl, rfl, rfl, rfl, rfl⟩

theorem isSome_chkUnit (u : GUnit) (site reg lane : Nat) (a : Option Nat) :
    (!u.ok) = (s.chkUnit site reg lane u a).isSome := by
  unfold State.chkUnit
  cases u.ok <;> simp

theorem isSome_chkLane (srcs : List (Reg × Nat)) (l : Nat) : (srcs.any fun x => !(w.get x.1 l).ok) =
    (srcs.findSome? fun x => s.chkReg p w x.1 x.2 l).isSome := by
  rw [List.isSome_findSome?]
  exact congrArg _ (funext fun x => isSome_chkUnit ..)

/-- The first failing operand of the lowest failing lane decides (R214). -/
theorem chkRegs_bad {srcs : List (Reg × Nat)} {l : Nat} {x : Reg × Nat}
    (lane : (p.lanes.find? fun l => srcs.any fun x => !(w.get x.1 l).ok) = some l)
    (operand : (srcs.find? fun x => !(w.get x.1 l).ok) = some x) :
    ∃ f, s.chkRegs p w srcs = some f ∧ Blames f (w.get x.1 l) l x.1.code x.2 := by
  unfold State.chkRegs
  rw [findSome?_of_find? (isSome_chkLane srcs) lane,
    findSome?_of_find? (f := fun x : Reg × Nat => s.chkReg p w x.1 x.2 l) (fun x => isSome_chkUnit ..) operand]
  exact chkUnit_bad (by simpa using List.find?_some operand) ..

/-! ### Sources besides registers -/

/-- Sources that fail as some registers do check as these. -/
theorem chkSrcs_eq_chkRegs {srcs : List Src} {regs : List (Reg × Nat)}
    (same : ∀ l ∈ p.lanes, srcs.findSome? (s.chkSrc p w k l) = regs.findSome? fun r => s.chkReg p w r.1 r.2 l) :
    s.chkSrcs p w k srcs = s.chkRegs p w regs := findSome?_congr same

theorem findSome?_regs (regs : List (Reg × Nat)) (l : Nat) :
    (regs.map fun r => Src.reg r.1 r.2).findSome? (s.chkSrc p w k l) = regs.findSome? fun r => s.chkReg p w r.1 r.2 l := by
  rw [List.findSome?_map]
  rfl

theorem findSome?_crs {ns : List Nat} (clean : CleanCr s p w k ns) (l : Nat) :
    (ns.map Src.cr).findSome? (s.chkSrc p w k l) = none := by
  rw [List.findSome?_map, List.findSome?_eq_none_iff]
  intro n hn
  simp [State.chkSrc, parityFail, clean n hn]

/-- Control registers of good parity before and after the registers raise nothing. -/
theorem chkSrcs_crs {before after : List Nat} (regs : List (Reg × Nat)) (hb : CleanCr s p w k before)
    (ha : CleanCr s p w k after) :
    s.chkSrcs p w k (before.map .cr ++ regs.map (fun r => .reg r.1 r.2) ++ after.map .cr) = s.chkRegs p w regs :=
  chkSrcs_eq_chkRegs fun l _ => by
    simp only [List.findSome?_append, findSome?_crs hb, findSome?_crs ha, findSome?_regs, Option.none_or, Option.or_none]

theorem chkSrcs_regs (regs : List (Reg × Nat)) :
    s.chkSrcs p w k (regs.map fun r => .reg r.1 r.2) = s.chkRegs p w regs := chkSrcs_eq_chkRegs fun l _ => findSome?_regs regs l

/-- A uniform register's unit fails in every lane, so what is checked after it does not matter (R193). -/
theorem chkSrcs_uniform {n site : Nat} {rest : List Src} (bad : (w.get (.s n) 0).ok = false) :
    s.chkSrcs p w k (.reg (.s n) site :: rest) = s.chkRegs p w [(.s n, site)] :=
  chkSrcs_eq_chkRegs fun l _ => by
    obtain ⟨f, hf, -⟩ := chkUnit_bad (s := s) (u := w.get (.s n) l) bad site (Reg.s n).code l
      ((s.core p.core).originOf p.slot (Reg.s n).code 0)
    have failed : s.chkReg p w (.s n) site l = some f := hf
    rw [List.findSome?_cons, List.findSome?_cons]
    simp only [State.chkSrc, failed]

/-! ### Failures of parity -/

/-- A register, mask, predicate or frame of bad parity raises CHK with SITE 0x0B in its lane (R60). -/
def spoiltAt (l : Nat) : Trap := ⟨.chk, l, 0, some ⟨0x0B, 0xFF, l, 0, false, none, false⟩⟩

theorem isSome_parityFail (b : Bool) (l : Nat) : b = (parityFail b l).isSome := by cases b <;> rfl

theorem parityChk_bad {n : Nat} {keys : List Nat} (key : n ∈ keys) (bad : w.parity.contains n = true) :
    parityChk w p keys = parityFail true p.low := by
  unfold parityChk
  rw [List.any_eq_true.2 ⟨n, key, bad⟩]

/-- The lowest lane with a failing source decides, where its source is no register. -/
theorem chkSrcs_parity {srcs : List Src} {bad : Nat → Bool} {l : Nat}
    (tells : ∀ l, srcs.findSome? (s.chkSrc p w k l) = parityFail (bad l) l) (lane : p.lanes.find? bad = some l) :
    s.chkSrcs p w k srcs = parityFail true l := by
  unfold State.chkSrcs
  rw [findSome?_of_find? (bad := bad) (fun l => by rw [tells]; exact isSome_parityFail ..) lane, tells, List.find?_some lane]

theorem findSome?_preds (ns : List Nat) (l : Nat) :
    (ns.map Src.pred).findSome? (s.chkSrc p w k l) = parityFail (ns.any fun n => w.parity.contains (parP n l)) l := by
  induction ns with
  | nil => rfl
  | cons n ns ih =>
    rw [List.map_cons, List.findSome?_cons, ih, List.any_cons]
    simp only [State.chkSrc]
    cases w.parity.contains (parP n l) <;> rfl

theorem Issuing.find_low (h : Issuing s p w k) {bad : Nat → Bool} (all : ∀ l, bad l = true) :
    p.lanes.find? bad = some p.low := by
  obtain ⟨x, l, hl⟩ := List.exists_cons_of_ne_nil h.lanes
  simp [hl, Pod.low, all]

theorem state_checked {c : Chk} {e : Eff} (crew : s0.crew? p.core w.crew = some k) :
    (checked s0 (some c) e).state p w k = s0.raise p w k c.trap := by
  simp [checked, Eff.state, crew]

/-! ### A form's checks -/

/-- A register as an operand with the SITE of its kind (R61). -/
def Reg.operand (r : Reg) : Reg × Nat := (r, if r.uniform = true then 2 else 1)

theorem Reg.group_one (r : Reg) : r.group 1 = [r] := by cases r <;> rfl

theorem operands_eq (rs : List Reg) : operands rs = rs.map Reg.operand :=
  List.map_congr_left fun r _ => by cases r <;> rfl

theorem sources_eq (rs : List Reg) : sources rs = (rs.map Reg.operand).map fun r => .reg r.1 r.2 := by
  unfold sources
  rw [List.map_map]
  exact List.map_congr_left fun r _ => by cases r <;> rfl

/-- A form raises PERM for a register beyond the allocation, and then the failure of the first failing operand in the lowest failing
lane, in the state `s0`. -/
def Checks (s s0 : State) (p : Pod) (w : Wave) (k : Crew) (i : Instr) (ds : List Reg) (srcs : List (Reg × Nat)) : Prop :=
  ((∃ r ∈ ds ++ srcs.map fun x => x.1, k.has r = false) → exec i s = .next (s.raise p w k (.plain .perm p.low))) ∧
  (Granted k (ds ++ srcs.map fun x => x.1) → ∀ l x, (p.lanes.find? fun l => srcs.any fun x => !(w.get x.1 l).ok) = some l →
    (srcs.find? fun x => !(w.get x.1 l).ok) = some x →
    ∃ f : Chk, exec i s = .next (s0.raise p w k ⟨if (w.get x.1 l).ue then .hbmue else .chk, l, 0, some f⟩) ∧
      f.lane = l ∧ f.reg = x.1.code ∧ f.ue = (w.get x.1 l).ue ∧ f.site = if f.poison = true then 0x0A else x.2)

theorem withRegs_perm (h : Issuing s p w k) {rs : List Reg} (beyond : ∃ r ∈ rs, k.has r = false) (f : Pod → Wave → Crew → Eff) :
    withRegs s rs f = .next (s.raise p w k (.plain .perm p.low)) := by
  obtain ⟨r, hr, out⟩ := beyond
  unfold withRegs
  simp only [h.pod, h.wave, h.crew]
  rw [if_neg fun all => by simp [List.all_eq_true.1 all r hr] at out]
  simp [Eff.state, h.crew]

variable {ds : List Reg} {srcs : List (Reg × Nat)} {rs : List Reg} {f : Pod → Wave → Crew → Eff}

/-- A form checks its operands when its meaning runs after the allocation and begins with them. -/
theorem checks_withRegs (h : Issuing s p w k) (run : exec i s = withRegs s rs f) (regs : ∀ r, r ∈ rs ↔ r ∈ ds ++ srcs.map fun x => x.1)
    (crew : s0.crew? p.core w.crew = some k)
    (begins : ∀ c, s0.chkRegs p w srcs = some c → ∃ e, f p w k = checked s0 (some c) e) : Checks s s0 p w k i ds srcs := by
  refine ⟨fun ⟨r, hr, out⟩ => run.trans (withRegs_perm h ⟨r, (regs r).2 hr, out⟩ f), fun granted l x lane operand => ?_⟩
  obtain ⟨c, found, blames⟩ := chkRegs_bad (s := s0) lane operand
  obtain ⟨e, he⟩ := begins c found
  refine ⟨c, ?_, blames.lane, blames.reg, blames.ue, blames.site⟩
  rw [run, withRegs_ok h fun r hr => granted r ((regs r).1 hr), he, state_checked crew, blames.trap]

theorem checks_withPod (h : Issuing s p w k) (run : exec i s = withPod s rs f) (regs : ∀ r, r ∈ rs ↔ r ∈ ds ++ srcs.map fun x => x.1)
    (crew : s0.crew? p.core w.crew = some k)
    (begins : ∀ c, s0.chkRegs p w srcs = some c → ∃ e, f p w k = checked s0 (some c) e) : Checks s s0 p w k i ds srcs :=
  checks_withRegs h run regs crew fun c hc => (wakeChk_ok h _).symm ▸ begins c hc

/-! ### Families of forms -/

theorem checks_operands (h : Issuing s p w k) {named : List Reg} {g : Pod → Wave → Crew → Eff}
    (run : exec i s = withPod s named fun p w k => checked s (s.chkRegs p w (operands rs)) (g p w k))
    (regs : ∀ r, r ∈ named ↔ r ∈ ds ++ rs) : Checks s s p w k i ds (rs.map Reg.operand) :=
  checks_withPod h run (by simpa [Reg.operand] using regs) h.crew fun c hc => ⟨_, by rw [operands_eq, hc]⟩

/-- A form that checks a uniform register and then another source. -/
theorem checks_uniform (h : Issuing s p w k) {n : Nat} {rest : List Src} {g : Pod → Wave → Crew → Eff}
    (run : exec i s = withPod s [.s n] fun p w k => checked s (s.chkSrcs p w k (.reg (.s n) 2 :: rest)) (g p w k)) :
    Checks s s p w k i [] [Reg.operand (.s n)] := by
  refine checks_withPod h run (by simp [Reg.operand]) h.crew fun c hc => ⟨g p w k, ?_⟩
  have bad : (w.get (.s n) 0).ok = false := by
    refine Bool.eq_false_iff.2 fun ok => ?_
    have passes : Sound w p [.s n] := fun l _ r hr => by rw [List.mem_singleton.1 hr]; exact ok
    rw [chkRegs_ok passes] at hc
    cases hc
  rw [chkSrcs_uniform bad]
  exact congrArg (fun x => checked s x (g p w k)) hc

theorem checks_laneOp (h : Issuing s p w k) {d : Reg} {g : Wave → Nat → Word} (run : exec i s = laneOp s rs d g) :
    Checks s s p w k i [d] (rs.map Reg.operand) :=
  checks_withPod h run (by simp [Reg.operand]) h.crew fun c hc => ⟨_, by rw [operands_eq, hc]⟩

/-- A lane form whose destination is also an operand. -/
theorem checks_laneOp_self (h : Issuing s p w k) {d : Reg} {g : Wave → Nat → Word} (run : exec i s = laneOp s rs d g)
    (self : d ∈ rs) : Checks s s p w k i [] (rs.map Reg.operand) :=
  checks_withPod h run (by simpa [Reg.operand] using self) h.crew
    fun c hc => ⟨_, by rw [operands_eq, hc]⟩

theorem checks_uniOp (h : Issuing s p w k) {d : Reg} {g : Wave → Word} (run : exec i s = uniOp s rs d g) :
    Checks s s p w k i [d] (rs.map Reg.operand) :=
  checks_withPod h run (by simp [Reg.operand]) h.crew fun c hc => ⟨_, by rw [operands_eq, hc]⟩

theorem checks_laneOp64 (h : Issuing s p w k) {d : Reg} {g : Wave → Nat → BitVec 64} (run : exec i s = laneOp64 s rs d g) :
    Checks s s p w k i (d.group 2) (rs.map Reg.operand) :=
  checks_withPod h run (by simp [Reg.operand]) h.crew fun c hc => ⟨_, by rw [operands_eq, hc]⟩

theorem checks_lanePred (h : Issuing s p w k) {d : BitVec 3} {g : Wave → Nat → Bool} (run : exec i s = lanePred s rs [] d g) :
    Checks s s p w k i [] (rs.map Reg.operand) :=
  checks_withPod h run (by simp [Reg.operand]) h.crew fun c hc => ⟨_, by
    rw [sources_eq, List.map_nil, List.append_nil, chkSrcs_regs, hc]⟩

theorem checks_quadOp (h : Issuing s p w k) {b a d : BitVec 6} {g : List Word → BitVec 64 → List Word}
    (run : exec i s = quadOp s b a d g) :
    Checks s s p w k i ((Reg.ofV d).group 4) (((Reg.ofV a).group 4 ++ (Reg.ofS b).group 2).map Reg.operand) :=
  checks_withPod h run (by simp [Reg.operand]) h.crew fun c hc => ⟨_, by rw [operands_eq, hc]⟩

theorem checks_onObject (h : Issuing s p w k) {a : Reg} {regs more : List Reg} {sees : Bool}
    {g : State → Pod → Wave → Crew → Nat → List Word → Eff} (run : exec i s = onObject s a regs more sees g)
    (same : ∀ r, r ∈ a :: regs ↔ r ∈ ds ++ ((a :: more).map Reg.operand).map fun x => x.1) :
    Checks s s p w k i ds ((a :: more).map Reg.operand) :=
  checks_withPod h run same h.crew fun c hc => ⟨_, by rw [operands_eq, hc]⟩

theorem checks_emit (h : Issuing s p w k) {z : BitVec 6} (clean : CleanCr s p w k [0x001]) :
    Checks s s p w k (.emit z) ((Reg.ofV z).group 16) (((Reg.ofV z).group 2).map Reg.operand) := by
  have named (r : Reg) (hr : r ∈ (Reg.ofV z).group 2) : r ∈ (Reg.ofV z).group 16 :=
    List.mem_of_mem_take (i := 2) hr
  refine checks_withPod h rfl (fun r => ⟨List.mem_append_left _, fun hr => (List.mem_append.1 hr).elim id fun hr => ?_⟩) h.crew fun c hc => ?_
  · exact named r (by simpa [Reg.operand] using hr)
  · refine ⟨_, congrArg (checked s · _) (Eq.trans ?_ hc)⟩
    rw [sources_eq]
    have := chkSrcs_crs (before := []) (((Reg.ofV z).group 2).map Reg.operand) (fun _ hn => nomatch hn) clean
    rwa [List.map_nil, List.nil_append] at this

/-! ### Loads, stores and atomics where no throttle acts (R199, R183) -/

theorem throttle_idle (idle : (s.core p.core).throttling = false) (vas : List (Nat × Option Nat)) (g : State → Eff) :
    throttle s p w vas g = g (s.unheld p w) := by
  have : s.throttled p w vas = false := by simp [State.throttled, idle]
  simp [throttle, this]

theorem crBad_unheld {n : Nat} (own : crewCr n = true) : (s.unheld p w).crBad p w k n = s.crBad p w k n := by
  simp [State.crBad, own]

theorem crewCr_base (r : BitVec 2) : crewCr (8 + r.toNat) = true := by revert r; decide

theorem cleanCr_unheld {n : Nat} (own : crewCr n = true) (clean : CleanCr s p w k [n]) : CleanCr (s.unheld p w) p w k [n] :=
  fun m hm => by rw [List.mem_singleton.1 hm, crBad_unheld own]; exact clean n (List.mem_singleton.2 rfl)

theorem chkSrcs_base {n : Nat} (clean : CleanCr s p w k [n]) (regs : List (Reg × Nat)) :
    s.chkSrcs p w k (.cr n :: regs.map fun r => .reg r.1 r.2) = s.chkRegs p w regs := by
  have := chkSrcs_crs (after := []) regs clean fun _ h => nomatch h
  simpa using this

/-- The form is an access under the throttle: it checks a control register, then its operands, then goes on. -/
def AccessForm (s : State) (i : Instr) (n : Nat) (ds : List Reg) (srcs : List (Reg × Nat)) : Prop :=
  ∃ (rs : List Reg) (vas : Pod → Wave → Crew → List (Nat × Option Nat)) (g : Pod → Wave → Crew → State → Eff),
    (∀ r, r ∈ rs ↔ r ∈ ds ++ srcs.map fun x => x.1) ∧
    exec i s = withPod s rs fun p w k => throttle s p w (vas p w k) fun s =>
      checked s (s.chkSrcs p w k (.cr n :: srcs.map fun r => .reg r.1 r.2)) (g p w k s)

theorem access_memLoad {ord scope align n bs : Nat} {a d : Reg} {off : Int}
    (run : exec i s = memLoad s ord scope align n bs off a d) : AccessForm s i (8 + bs) (d.group n) [(a, 3)] :=
  ⟨_, _, _, by simp [or_comm], run⟩

theorem access_memStore {ord scope align n bs : Nat} {a d : Reg} {off : Int} {ip : Bool}
    (run : exec i s = memStore s ord scope align n bs off ip a d) : AccessForm s i (8 + bs) (d.group n) [(a, 3)] :=
  ⟨_, _, _, by simp [or_comm], run⟩

theorem access_atomic {op : AtomOp} {scope ord : Nat} {b a d : Reg} (run : exec i s = atomic s op scope ord b a d) :
    AccessForm s i 8 (d.group op.words) ((a, 3) :: (b.group op.operands).map fun r => (r, 9)) := by
  refine ⟨a :: d.group op.words ++ b.group op.operands, fun p w k => p.lanes.map (laneVa w k 0 a 0), ?_, fun r => ?_, run.trans ?_⟩
  rotate_left
  · simp only [List.cons_append, List.mem_cons, List.mem_append, List.map_cons, List.map_map, Function.comp_def, List.map_id']
    exact or_left_comm
  · unfold atomic
    simp only [List.map_cons, List.map_map]
    rfl

theorem AccessForm.checks {n : Nat} (acc : AccessForm s i n ds srcs) (h : Issuing s p w k) (idle : (s.core p.core).throttling = false)
    (own : crewCr n = true) (clean : CleanCr s p w k [n]) : Checks s (s.unheld p w) p w k i ds srcs := by
  obtain ⟨rs, vas, g, regs, run⟩ := acc
  exact checks_withPod h run regs ((s.unheld_crew p w _ _).trans h.crew) fun c hc =>
    ⟨_, by rw [throttle_idle idle, chkSrcs_base (cleanCr_unheld own clean), hc]⟩

/-- An access whose base register has bad parity. -/
theorem AccessForm.spoilt {n : Nat} (acc : AccessForm s i n ds srcs) (h : Issuing s p w k) (idle : (s.core p.core).throttling = false)
    (own : crewCr n = true) (granted : Granted k (ds ++ srcs.map fun x => x.1)) (bad : s.crBad p w k n = true) :
    exec i s = .next ((s.unheld p w).raise p w k (spoiltAt p.low)) := by
  obtain ⟨rs, vas, g, regs, run⟩ := acc
  rw [run, withPod_ok h fun r hr => granted r ((regs r).1 hr), throttle_idle idle,
    chkSrcs_parity (bad := fun _ => true) (fun l => ?_) (h.find_low fun _ => rfl)]
  · exact congrArg _ (state_checked ((s.unheld_crew p w _ _).trans h.crew))
  · rw [List.findSome?_cons]
    simp only [State.chkSrc, crBad_unheld own, bad]
    rfl

/-- The loads and stores with their destinations and base operands. -/
def memoryForms (a d : BitVec 7) (q : BitVec 3) (m : BitVec 4) (r : BitVec 2) (ip : BitVec 1) (off : BitVec 8) :
    List (Instr × List Reg × List (Reg × Nat)) :=
  let A := Reg.of7 a
  let D := Reg.of7 d
  [(.ldB32 off r a d, [D], [(A, 3)]), (.ldB64 off r a d, D.group 2, [(A, 3)]), (.ldB128 off r a d, D.group 4, [(A, 3)]),
    (.stB32 off ip r a d, [D], [(A, 3)]), (.stB64 off ip r a d, D.group 2, [(A, 3)]),
    (.stB128 off ip r a d, D.group 4, [(A, 3)]), (.ldB32Ord m q r a d, [D], [(A, 3)]),
    (.ldB64Ord m q r a d, D.group 2, [(A, 3)]), (.stB32Ord m q r a d, [D], [(A, 3)]),
    (.stB64Ord m q r a d, D.group 2, [(A, 3)])]

theorem memoryForms_access (s : State) (a d : BitVec 7) (q : BitVec 3) (m : BitVec 4) (r : BitVec 2) (ip : BitVec 1)
    (off : BitVec 8) : ∀ f ∈ memoryForms a d q m r ip off, AccessForm s f.1 (8 + r.toNat) f.2.1 f.2.2 := by
  refine List.forall_mem_cons.2 ⟨(Reg.of7 d).group_one ▸ access_memLoad rfl, ?_⟩
  refine List.forall_mem_cons.2 ⟨access_memLoad rfl, ?_⟩
  refine List.forall_mem_cons.2 ⟨access_memLoad rfl, ?_⟩
  refine List.forall_mem_cons.2 ⟨(Reg.of7 d).group_one ▸ access_memStore rfl, ?_⟩
  refine List.forall_mem_cons.2 ⟨access_memStore rfl, ?_⟩
  refine List.forall_mem_cons.2 ⟨access_memStore rfl, ?_⟩
  refine List.forall_mem_cons.2 ⟨(Reg.of7 d).group_one ▸ access_memLoad rfl, ?_⟩
  refine List.forall_mem_cons.2 ⟨access_memLoad rfl, ?_⟩
  refine List.forall_mem_cons.2 ⟨(Reg.of7 d).group_one ▸ access_memStore rfl, ?_⟩
  exact List.forall_mem_cons.2 ⟨access_memStore rfl, List.forall_mem_nil _⟩

/-- The atomics with their destinations, and with their base and their group of operands. -/
def atomicForms (a : BitVec 7) (y z : BitVec 6) (m : BitVec 4) (r : BitVec 2) : List (Instr × List Reg × List (Reg × Nat)) :=
  let A := Reg.of7 a
  let G := Reg.ofV y
  let V := Reg.ofV z
  [(.ataddN32 m r y a z, [V], [(A, 3), (G, 9)]), (.atfaddF32 m r y a z, [V], [(A, 3), (G, 9)]),
    (.atminI32 m r y a z, [V], [(A, 3), (G, 9)]), (.atmaxN32 m r y a z, [V], [(A, 3), (G, 9)]),
    (.atandB32 m r y a z, [V], [(A, 3), (G, 9)]), (.atswpB32 m r y a z, [V], [(A, 3), (G, 9)]),
    (.atcasB32 m r y a z, [V], [(A, 3), (G, 9), (G.plus 1, 9)]),
    (.ataddN64 m r y a z, V.group 2, [(A, 3), (G, 9), (G.plus 1, 9)]),
    (.atswpB64 m r y a z, V.group 2, [(A, 3), (G, 9), (G.plus 1, 9)]),
    (.atcasB64 m r y a z, V.group 2, [(A, 3), (G, 9), (G.plus 1, 9), (G.plus 2, 9), (G.plus 3, 9)])]

theorem atomicForms_access (s : State) (a : BitVec 7) (y z : BitVec 6) (m : BitVec 4) (r : BitVec 2) :
    ∀ f ∈ atomicForms a y z m r, AccessForm s f.1 8 f.2.1 f.2.2 := by
  refine List.forall_mem_cons.2 ⟨access_atomic (op := .addN32) (b := .ofV y) (d := .ofV z) rfl, ?_⟩
  refine List.forall_mem_cons.2 ⟨access_atomic (op := .addF32) (b := .ofV y) (d := .ofV z) rfl, ?_⟩
  refine List.forall_mem_cons.2 ⟨access_atomic (op := .minI32) (b := .ofV y) (d := .ofV z) rfl, ?_⟩
  refine List.forall_mem_cons.2 ⟨access_atomic (op := .maxN32) (b := .ofV y) (d := .ofV z) rfl, ?_⟩
  refine List.forall_mem_cons.2 ⟨access_atomic (op := .andB32) (b := .ofV y) (d := .ofV z) rfl, ?_⟩
  refine List.forall_mem_cons.2 ⟨access_atomic (op := .swpB32) (b := .ofV y) (d := .ofV z) rfl, ?_⟩
  refine List.forall_mem_cons.2 ⟨access_atomic (op := .casB32) (b := .ofV y) (d := .ofV z) rfl, ?_⟩
  refine List.forall_mem_cons.2 ⟨access_atomic (op := .addN64) (b := .ofV y) (d := .ofV z) rfl, ?_⟩
  refine List.forall_mem_cons.2 ⟨access_atomic (op := .swpB64) (b := .ofV y) (d := .ofV z) rfl, ?_⟩
  exact List.forall_mem_cons.2 ⟨access_atomic (op := .casB64) (b := .ofV y) (d := .ofV z) rfl, List.forall_mem_nil _⟩

/-! ### Forms of the matrix unit and of the engine (R173, R214) -/

theorem AtArray.chkSrcs {crs ms more : List Nat} (ready : AtArray s p w k crs ms) (regs : List (Reg × Nat)) (sub : more ⊆ crs)
    {named : List Nat} (names : named ⊆ ms) :
    s.chkSrcs p w k (more.map .cr ++ regs.map (fun r => .reg r.1 r.2) ++ named.map fun n => .cr (0x100 + n)) =
      s.chkRegs p w regs := by
  have before : CleanCr s p w k more := fun n hn => ready.clean n (List.mem_append_left _ (sub hn))
  have after : CleanCr s p w k (named.map fun n => 0x100 + n) := fun n hn => by
    obtain ⟨m, hm, rfl⟩ := List.mem_map.1 hn
    exact ready.clean _ (List.mem_append_right _ (List.mem_map.2 ⟨m, names hm, rfl⟩))
  have := chkSrcs_crs regs before after
  rwa [List.map_map] at this

theorem checks_matrix (h : Issuing s p w k) {crs ms more named accs : List Nat} (ready : AtArray s p w k crs ms)
    (sub : more ⊆ crs) (names : named ⊆ ms) (room : ∀ n ∈ accs, n < k.decl.acc)
    (run : exec i s = matrix s (fun _ => more) srcs named accs f) : Checks s s p w k i [] srcs := by
  refine checks_withRegs h run (by simp) h.crew fun c hc => ⟨f p w k, ?_⟩
  have within : (accs.any fun n => decide (n ≥ k.decl.acc)) = false := by simpa using room
  rw [within, ready.free, governed_ok h ready.governs (ready.mask _ (List.mem_singleton.2 rfl)), ready.chkSrcs srcs sub names, hc]
  rfl

/-- An accumulator beyond the allocation raises PERM. -/
theorem matrix_perm (h : Issuing s p w k) {crs : Crew → List Nat} {ms accs : List Nat} {n : Nat} (beyond : k.decl.acc ≤ n)
    (run : exec i s = matrix s crs srcs ms accs f) (named : n ∈ accs) (granted : Granted k (srcs.map fun x => x.1)) :
    exec i s = .next (s.raise p w k (.plain .perm p.low)) := by
  have out : (accs.any fun n => decide (n ≥ k.decl.acc)) = true := List.any_eq_true.2 ⟨n, named, decide_eq_true beyond⟩
  rw [run, matrix, withRegs_ok h granted, if_pos out]
  simp [Eff.state, h.crew]

theorem checks_async (h : Issuing s p w k) (governs : laneSet p.lanes = (w.mask 0).member) (mask : Clean w [parQ 0])
    {g : XForm} {ch : BitVec 2} {m : Option (BitVec 6)} {b a : BitVec 6} (run : exec i s = asyncIssue s g ch m b a) :
    Checks s s p w k i [] (((Reg.ofS a).group 2 ++ [Reg.ofS b] ++ (m.map fun x => Reg.ofS x).toList).map Reg.operand) :=
  checks_withRegs h run (by simp [Reg.operand]) h.crew fun c hc => ⟨_, by
    rw [governed_ok h governs (mask _ (List.mem_singleton.2 rfl)), operands_eq, hc]⟩

/-! ### Parity -/

theorem spoilt_withRegs (h : Issuing s p w k) {l : Nat} (run : exec i s = withRegs s rs f) (granted : Granted k rs)
    (begins : ∃ e, f p w k = checked s (parityFail true l) e) : exec i s = .next (s.raise p w k (spoiltAt l)) := by
  obtain ⟨e, he⟩ := begins
  rw [run, withRegs_ok h granted, he]
  exact congrArg _ (state_checked h.crew)

theorem spoilt_withPod (h : Issuing s p w k) {l : Nat} (run : exec i s = withPod s rs f) (granted : Granted k rs)
    (begins : ∃ e, f p w k = checked s (parityFail true l) e) : exec i s = .next (s.raise p w k (spoiltAt l)) :=
  spoilt_withRegs h run granted ((wakeChk_ok h _).symm ▸ begins)

theorem spoilt_preds {ns : List Nat} {l : Nat}
    (lane : (p.lanes.find? fun l => ns.any fun n => w.parity.contains (parP n l)) = some l) :
    s.chkSrcs p w k (ns.map .pred) = parityFail true l := chkSrcs_parity (findSome?_preds ns) lane

/-- The lowest lane whose frame has bad parity decides. -/
theorem findSome?_parityFail {bad : Nat → Bool} {l : Nat} (lane : p.lanes.find? bad = some l) :
    (p.lanes.findSome? fun l => parityFail (bad l) l) = parityFail true l := by
  rw [findSome?_of_find? (fun l => isSome_parityFail (bad l) l) lane, List.find?_some lane]

/-- A call by every lane spills the frame of bad parity (R162). -/
theorem callChk_spilled {l : Nat} (lane : p.lanes.find? w.spillBad = some l) :
    s.callChk p w k [] p.lanes = parityFail true l := by
  refine (findSome?_congr fun l hl => ?_).trans (findSome?_parityFail lane)
  rw [List.contains_iff_mem.2 hl, Bool.true_and]
  rfl

/-- Sound registers pass, so the source behind them decides. -/
theorem chkSrcs_sound (h : Issuing s p w k) {r : Reg} {site : Nat} (sound : Sound w p [r]) {x : Src}
    (bad : ∀ l, s.chkSrc p w k l x = parityFail true l) : s.chkSrcs p w k [.reg r site, x] = parityFail true p.low := by
  obtain ⟨ls, hl⟩ := h.lanes_eq
  have ok := sound p.low (by rw [hl]; exact List.mem_cons_self) r (List.mem_singleton.2 rfl)
  unfold State.chkSrcs
  rw [hl, List.findSome?_cons, List.findSome?_cons, List.findSome?_cons, bad]
  simp [State.chkSrc, State.chkReg, chkUnit_ok _ _ _ _ _ ok, parityFail]

/-- The forms of the register file with their destinations and operands. -/
def registerForms (a b d : BitVec 7) (x y z : BitVec 6) (q : BitVec 3) (r : BitVec 2) (vc : BitVec 5) :
    List (Instr × List Reg × List Reg) :=
  let A := Reg.of7 a
  let B := Reg.of7 b
  let D := Reg.of7 d
  [(.iaddN32 b a d, [D], [A, B]), (.idivI32 b a d, [D], [A, B]), (.shlB32 b a d, [D], [A, B]), (.popcB32 a d, [D], [A]),
    (.faddF32 r b a d, [D], [A, B]), (.fsqrtF32 r a d, [D], [A]), (.ffmaF32 vc x a d r, [D], [A, .ofV x, .ofV vc]),
    (.fceqF32 b a q, [], [A, B]), (.icltI32 b a q, [], [A, B]), (.vtop a q, [], [A]), (.pack2B8 b a d, [], [A, B, D]),
    (.bfxN32 b a d, [D], [A, B]), (.movB32 b a d, [D], [B]), (.iaddN64 b a d, D.group 2, A.group 2 ++ B.group 2),
    (.imulwN32 b a d, D.group 2, [A, B]), (.uaddN32 y x z, [.ofS z], [.ofS x, .ofS y]), (.umov y z, [.ofS z], [.ofS y])]

/-- The forms of control flow, synchronisation and the generator with theirs. -/
def uniformForms (x y z : BitVec 6) (q : BitVec 3) (m : BitVec 4) : List (Instr × List Reg × List Reg) :=
  [(.jmp x, [], (Reg.ofS x).group 2), (.cbar x, [], [.ofS x]), (.cjoin x, [], [.ofS x]), (.nopre x, [], [.ofS x]),
    (.wait x m q, [], [.ofS x]), (.bind y x z, [], (Reg.ofS x).group 2 ++ (Reg.ofS y).group 2 ++ [.ofS z]),
    (.binit y x, [], [.ofS x, .ofS y]), (.barrive y x, [], [.ofS x, .ofS y]), (.bwait x z, [.ofS z], [.ofS x]),
    (.bread x z, (Reg.ofS z).group 4, [.ofS x]), (.rwr y x, [.ofV y], [.ofS x]),
    (.caddN128 y x z, (Reg.ofV z).group 4, (Reg.ofV x).group 4 ++ (Reg.ofS y).group 2),
    (.rng y x z, (Reg.ofV z).group 4, (Reg.ofV x).group 4 ++ (Reg.ofS y).group 2)]

theorem registerForms_check (h : Issuing s p w k) (a b d : BitVec 7) (x y z : BitVec 6) (q : BitVec 3) (r : BitVec 2)
    (vc : BitVec 5) : ∀ f ∈ registerForms a b d x y z q r vc, Checks s s p w k f.1 f.2.1 (f.2.2.map Reg.operand) := by
  refine List.forall_mem_cons.2 ⟨checks_laneOp (rs := [.of7 a, .of7 b]) h rfl, ?_⟩
  refine List.forall_mem_cons.2 ⟨checks_laneOp (rs := [.of7 a, .of7 b]) h rfl, ?_⟩
  refine List.forall_mem_cons.2 ⟨checks_laneOp (rs := [.of7 a, .of7 b]) h rfl, ?_⟩
  refine List.forall_mem_cons.2 ⟨checks_laneOp (rs := [.of7 a]) h rfl, ?_⟩
  refine List.forall_mem_cons.2 ⟨checks_laneOp (rs := [.of7 a, .of7 b]) h rfl, ?_⟩
  refine List.forall_mem_cons.2 ⟨checks_laneOp (rs := [.of7 a]) h rfl, ?_⟩
  refine List.forall_mem_cons.2 ⟨checks_laneOp (rs := [.of7 a, .ofV x, .ofV vc]) h rfl, ?_⟩
  refine List.forall_mem_cons.2 ⟨checks_lanePred (rs := [.of7 a, .of7 b]) h rfl, ?_⟩
  refine List.forall_mem_cons.2 ⟨checks_lanePred (rs := [.of7 a, .of7 b]) h rfl, ?_⟩
  refine List.forall_mem_cons.2 ⟨checks_lanePred (rs := [.of7 a]) h rfl, ?_⟩
  refine List.forall_mem_cons.2 ⟨checks_laneOp_self (rs := [.of7 a, .of7 b, .of7 d]) h rfl (by simp), ?_⟩
  refine List.forall_mem_cons.2 ⟨checks_laneOp (rs := [.of7 a, .of7 b]) h rfl, ?_⟩
  refine List.forall_mem_cons.2 ⟨checks_laneOp (rs := [.of7 b]) h rfl, ?_⟩
  refine List.forall_mem_cons.2 ⟨checks_laneOp64 (rs := (Reg.of7 a).group 2 ++ (Reg.of7 b).group 2) h rfl, ?_⟩
  refine List.forall_mem_cons.2 ⟨checks_laneOp64 (rs := [.of7 a, .of7 b]) h rfl, ?_⟩
  refine List.forall_mem_cons.2 ⟨checks_uniOp (rs := [.ofS x, .ofS y]) h rfl, ?_⟩
  exact List.forall_mem_cons.2 ⟨checks_uniOp (rs := [.ofS y]) h rfl, List.forall_mem_nil _⟩

theorem uniformForms_check (h : Issuing s p w k) (x y z : BitVec 6) (q : BitVec 3) (m : BitVec 4) :
    ∀ f ∈ uniformForms x y z q m, Checks s s p w k f.1 f.2.1 (f.2.2.map Reg.operand) := by
  refine List.forall_mem_cons.2 ⟨checks_operands (rs := (Reg.ofS x).group 2) h rfl (by simp), ?_⟩
  refine List.forall_mem_cons.2 ⟨checks_operands (rs := [.ofS x]) h rfl (by simp), ?_⟩
  refine List.forall_mem_cons.2 ⟨checks_operands (rs := [.ofS x]) h rfl (by simp), ?_⟩
  refine List.forall_mem_cons.2 ⟨checks_uniform h rfl, ?_⟩
  refine List.forall_mem_cons.2 ⟨checks_uniform h rfl, ?_⟩
  refine List.forall_mem_cons.2 ⟨checks_operands (rs := (Reg.ofS x).group 2 ++ (Reg.ofS y).group 2 ++ [Reg.ofS z]) h rfl
    (by simp [or_comm, or_assoc]), ?_⟩
  refine List.forall_mem_cons.2 ⟨checks_onObject h (rfl : execBinit y x s = _) (by simp [Reg.operand]), ?_⟩
  refine List.forall_mem_cons.2 ⟨checks_onObject h (rfl : execBarrive y x s = _) (by simp [Reg.operand]), ?_⟩
  refine List.forall_mem_cons.2 ⟨checks_onObject (more := []) h (rfl : execBwait x z s = _) (by simp [Reg.operand, or_comm]), ?_⟩
  refine List.forall_mem_cons.2 ⟨checks_onObject (more := []) h (rfl : execBread x z s = _) (by simp [Reg.operand, or_comm]), ?_⟩
  refine List.forall_mem_cons.2 ⟨checks_operands (rs := [.ofS x]) h rfl (by simp [or_comm]), ?_⟩
  refine List.forall_mem_cons.2 ⟨checks_quadOp h (rfl : execCaddN128 y x z s = _), ?_⟩
  exact List.forall_mem_cons.2 ⟨checks_quadOp h (rfl : execRng y x z s = _), List.forall_mem_nil _⟩

end Sys2Proof.Machine
end

section

open Sys2Proof.Machine

/-- Settles O39, form by form: each meaning begins with the checks of its own operands, and `Checks` says once what these do. -/
theorem checksBeforeEffects : Obligations.ChecksBeforeEffects := by
  unfold Obligations.ChecksBeforeEffects
  intro s p w k a b d x y z q q' m m' r vc n ip o c e off h A B D V own checks spoilt fails lane memory g atomics matrix accs async
  refine ⟨?_, fun free => ?_, fun clean room => ?_, fun idle => ⟨fun clean => ?_, fun clean => ?_, ?_⟩, fun ready => ⟨?_, fun room => ?_⟩,
    fun governs mask => ⟨?_, ?_⟩, fun beyond => ⟨?_, fun granted => ?_⟩, ?_, ?_, fun granted sound bad => ?_, fun governs bad => ?_,
    fun l lane => ?_, fun l lane => ?_, fun inside bad => ?_, fun granted sound bad => ?_, fun granted bad => ?_⟩
  · exact List.forall_mem_append.2 ⟨registerForms_check h a b d x y z q r vc, uniformForms_check h x y z q m⟩
  · exact checks_withPod h rfl (by simp [own]) h.crew fun c hc => ⟨_, by
      rw [if_neg (not_not.2 free), operands_eq]
      exact congrArg (fun x => checked s x _) hc⟩
  · refine ⟨fun ⟨r, hr, out⟩ => ?_, ?_⟩
    · have pair : (V.group 16).take 2 = [V, V.plus 1] := rfl
      have named : r ∈ V.group 16 := List.mem_of_mem_take (i := 2) (by simpa [own, pair] using hr)
      exact absurd (room r named) (by simp [out])
    · exact fun granted => (checks_emit h clean).2 (List.forall_mem_append.2 ⟨room, granted⟩)
  · exact fun f hf => (memoryForms_access s a d q m r ip off f hf).checks h idle (crewCr_base r) clean
  · exact fun f hf => (atomicForms_access s a y z m r f hf).checks h idle rfl clean
  · exact fun f hf => (memoryForms_access s a d q m r ip off f hf).spoilt h idle (crewCr_base r)
  · refine List.forall_mem_cons.2 ⟨checks_matrix h ready (by simp) (by simp) (by simp) rfl, ?_⟩
    refine List.forall_mem_cons.2 ⟨checks_matrix h ready (by simp) (by simp) (by simp) rfl, ?_⟩
    refine List.forall_mem_cons.2 ⟨checks_matrix h ready (by simp) (by simp) (by simp) rfl, ?_⟩
    exact List.forall_mem_cons.2 ⟨checks_matrix h ready (by simp) (by simp) (by simp) rfl, List.forall_mem_nil _⟩
  · refine List.forall_mem_cons.2 ⟨checks_matrix h ready (by simp) (by simp) (by simpa using room) rfl, ?_⟩
    exact List.forall_mem_cons.2 ⟨checks_matrix h ready (by simp) (by simp) (by simpa using room) rfl, List.forall_mem_nil _⟩
  · refine List.forall_mem_cons.2 ⟨checks_async (m := none) (b := y) (a := x) h governs mask rfl, ?_⟩
    refine List.forall_mem_cons.2 ⟨checks_async (m := none) (b := y) (a := x) h governs mask rfl, ?_⟩
    refine List.forall_mem_cons.2 ⟨checks_async (m := none) (b := y) (a := x) h governs mask rfl, ?_⟩
    refine List.forall_mem_cons.2 ⟨checks_async (m := none) (b := y) (a := x) h governs mask rfl, ?_⟩
    exact List.forall_mem_cons.2 ⟨checks_async (m := none) (b := y) (a := x) h governs mask rfl, List.forall_mem_nil _⟩
  · exact checks_async (m := some z) (b := y) (a := x) h governs mask rfl
  · have none : Granted k [] := fun r hr => nomatch hr
    refine List.forall_mem_cons.2 ⟨matrix_perm h beyond rfl (List.mem_singleton.2 rfl) none, ?_⟩
    refine List.forall_mem_cons.2 ⟨matrix_perm h beyond rfl (List.mem_singleton.2 rfl) none, ?_⟩
    refine List.forall_mem_cons.2 ⟨matrix_perm h beyond rfl (List.mem_singleton.2 rfl) none, ?_⟩
    exact List.forall_mem_cons.2 ⟨matrix_perm h beyond rfl (List.mem_singleton.2 rfl) none, List.forall_mem_nil _⟩
  · refine List.forall_mem_cons.2 ⟨matrix_perm h beyond rfl (List.mem_singleton.2 rfl) granted, ?_⟩
    exact List.forall_mem_cons.2 ⟨matrix_perm h beyond rfl (List.mem_singleton.2 rfl) granted, List.forall_mem_nil _⟩
  · have none : Granted k [] := fun r hr => nomatch hr
    refine List.forall_mem_cons.2 ⟨fun l lane => spoilt_withPod h rfl none ⟨_, congrArg (checked s · _) (spoilt_preds lane)⟩, ?_⟩
    refine List.forall_mem_cons.2 ⟨fun l lane => spoilt_withPod h rfl none ⟨_, congrArg (checked s · _) (spoilt_preds lane)⟩, ?_⟩
    exact List.forall_mem_cons.2
      ⟨fun l lane => spoilt_withPod h rfl none ⟨_, congrArg (checked s · _) (spoilt_preds lane)⟩, List.forall_mem_nil _⟩
  · have q (bad : w.parity.contains (parQ m.toNat) = true) := parityChk_bad (p := p) (List.mem_singleton.2 rfl) bad
    have none : Granted k [] := fun r hr => nomatch hr
    refine List.forall_mem_cons.2 ⟨fun bad => spoilt_withPod h rfl none ⟨_, congrArg (checked s · _) (q bad)⟩, ?_⟩
    exact List.forall_mem_cons.2
      ⟨fun bad => spoilt_withPod h rfl none ⟨_, congrArg (checked s · _) (q bad)⟩, List.forall_mem_nil _⟩
  · exact spoilt_withPod h rfl granted ⟨_, congrArg (checked s · _) (chkSrcs_sound h sound fun l => congrArg (parityFail · l) bad)⟩
  · exact spoilt_withRegs h rfl (fun r hr => nomatch hr) ⟨_, by
      rw [governed, if_pos governs, parityChk_bad (List.mem_cons_of_mem _ (List.mem_singleton.2 rfl)) bad]⟩
  · exact spoilt_withPod h rfl (fun r hr => nomatch hr) ⟨_, congrArg (checked s · _) (findSome?_parityFail lane)⟩
  · exact spoilt_withPod h rfl (fun r hr => nomatch hr) ⟨_, congrArg (checked s · _) (callChk_spilled lane)⟩
  · refine spoilt_withRegs h rfl (fun r hr => nomatch hr) ⟨_, (if_pos inside).trans (congrArg (checked s · _) ?_)⟩
    exact bad.elim (parityChk_bad (by simp)) (parityChk_bad (by simp))
  · exact spoilt_withPod h rfl granted ⟨_, congrArg (checked s · _) (chkSrcs_sound h sound fun l => congrArg (parityFail · l) bad)⟩
  · exact spoilt_withPod h rfl granted ⟨_, congrArg (checked s · _)
      (chkSrcs_parity (bad := fun _ => true) (fun l => by simp [State.chkSrc, bad, parityFail]) (h.find_low fun _ => rfl))⟩

end

section
/-! Steps of the memory: what they leave of the controllers, the home slices and the L1s (R65, R73, R75 to R78, R85 to R95). -/

namespace Sys2Proof.Machine

/-! ### What the controllers' operations leave alone -/

/-- The home slices' lines, what the dies hold and the controllers' sequence numbers stand. -/
structure CtlFrame (s t : State) : Prop where
  l2 : t.l2 = s.l2
  dies : t.dies = s.dies
  seq : ∀ n, (t.ctl n).seq = (s.ctl n).seq

section CtlFrames

variable {s t u : State}

namespace CtlFrame

theorem of_eq (hl : t.l2 = s.l2) (hd : t.dies = s.dies) (hc : t.ctls = s.ctls) : CtlFrame s t :=
  ⟨hl, hd, fun n => by unfold State.ctl; rw [hc]⟩

theorem refl (s : State) : CtlFrame s s := of_eq rfl rfl rfl

theorem trans (h : CtlFrame s t) (g : CtlFrame t u) : CtlFrame s u :=
  ⟨g.l2.trans h.l2, g.dies.trans h.dies, fun n => (g.seq n).trans (h.seq n)⟩

theorem foldl {α : Type} {f : State → α → State} (h : ∀ s x, CtlFrame s (f s x)) (l : List α) (s : State) :
    CtlFrame s (l.foldl f s) := by
  induction l generalizing s with
  | nil => exact refl s
  | cons x l ih => exact (h s x).trans (ih _)

theorem of_modCtl (s : State) (n : Nat) {f : Ctl → Ctl} (h : ∀ c, (f c).seq = c.seq) : CtlFrame s (s.modCtl n f) :=
  ⟨rfl, rfl, fun m => by
    by_cases hm : n = m
    · rw [← hm, State.ctl_modCtl_self, h]
    · rw [State.ctl_modCtl_ne _ _ hm]⟩

end CtlFrame

variable (s)

theorem State.hbmPuts_ctlFrame (us : List GUnit) (pa : Nat) : CtlFrame s (s.hbmPuts pa us) := by
  induction us generalizing s pa with
  | nil => exact .refl s
  | cons u us ih => exact (show CtlFrame s (s.hbmPut pa u) from .of_eq rfl rfl rfl).trans (ih _ _)

theorem State.sectorsPut_ctlFrame (n a : Nat) (bs : List Byte) : CtlFrame s (s.sectorsPut a n bs) := by
  induction n generalizing s a bs with
  | zero => exact .refl s
  | succ n ih => exact (show CtlFrame s (s.sectorPut a (bs.take 320)) from .of_eq rfl rfl rfl).trans (ih _ _ _)

theorem State.metaTouch_ctlFrame (blk : Nat) : CtlFrame s (s.metaTouch blk) := by
  unfold State.metaTouch
  simp only
  split
  · exact .refl s
  · exact .of_modCtl s _ fun _ => rfl

theorem State.metaTell_ctlFrame (blk : Nat) : CtlFrame s (s.metaTell blk) := by
  unfold State.metaTell
  split
  · exact .of_eq rfl rfl rfl
  · split
    · exact .refl s
    · exact .of_eq rfl rfl rfl

theorem State.metaPut_ctlFrame (pa : Nat) (u : GUnit) : CtlFrame s (s.metaPut pa u) :=
  ⟨rfl, rfl, State.ctl_rel (t := s.metaPut pa u) (R := fun x y => y.seq = x.seq) rfl (by exact fun _ => ⟨rfl, rfl⟩) rfl⟩

theorem State.setMeta_ctlFrame (blk size allot : Nat) : CtlFrame s (s.setMeta blk size allot) := by
  unfold State.setMeta
  simp only
  split
  · exact s.metaTouch_ctlFrame blk
  · exact (s.metaTouch_ctlFrame blk).trans (State.metaPut_ctlFrame _ _ _)

theorem State.unpark_ctlFrame (blk : Nat) : CtlFrame s (s.unpark blk) := by
  unfold State.unpark
  split
  · exact .refl s
  · exact .of_modCtl s _ fun _ => rfl

variable {s}

theorem State.park_ctlFrame {blk n : Nat} {us : List GUnit} (h : s.park blk us n = some t) : CtlFrame s t := by
  unfold State.park at h
  split at h
  · cases h; exact .of_modCtl s _ fun _ => rfl
  · simp only at h
    split at h
    · cases h
    · cases h; exact .of_modCtl s _ fun _ => rfl

theorem State.blockWrite_ctlFrame {blk a : Nat} {us : List GUnit} (h : s.blockWrite blk a us = some t) : CtlFrame s t := by
  have freed (x y : Nat) := (s.unpark_ctlFrame blk).trans (State.setMeta_ctlFrame _ blk x y)
  unfold State.blockWrite at h
  split at h
  · cases h; exact (freed 0 0).trans (State.hbmPuts_ctlFrame _ us _)
  · simp only at h
    split at h
    · exact State.park_ctlFrame h
    · split at h
      · cases h; exact (freed _ _).trans (State.hbmPuts_ctlFrame _ us _)
      · cases h; exact (freed _ _).trans (State.sectorsPut_ctlFrame _ _ _ _)

theorem State.ctlMerge_ctlFrame {line : Nat} {us : List GUnit} {d : BitVec 32} (h : s.ctlMerge line us d = some t) :
    CtlFrame s t := by
  have told := (s.metaTouch_ctlFrame (line / 16)).trans (State.metaTell_ctlFrame _ (line / 16))
  unfold State.ctlMerge at h
  simp only at h
  split at h
  · split at h
    · cases h; exact told.trans (.of_modCtl _ _ fun _ => rfl)
    · exact told.trans (State.blockWrite_ctlFrame h)
  · cases h
    refine told.trans (CtlFrame.foldl (fun s i => ?_) _ _)
    split
    · exact .of_eq rfl rfl rfl
    · exact .refl s

/-- A write-back leaves its line clean, and the other lines alone (R75, R76). -/
theorem State.l2Back_l2 {line : Nat} {l : L2Line} (present : s.l2.find line = some l) (dirty : l.dirty ≠ 0)
    (h : s.l2Back line = some t) : t.l2.find line = some { l with dirty := 0 } ∧ ∀ x, x ≠ line → t.l2.find x = s.l2.find x := by
  unfold State.l2Back at h
  simp only [present, if_neg dirty] at h
  split at h
  · cases h
  · next merged =>
    cases h
    simp only [(State.ctlMerge_ctlFrame merged).l2, Map.find_alter]
    exact ⟨by rw [if_pos trivial, present]; rfl, fun x hx => if_neg hx.symm⟩

end CtlFrames

/-! ### What the fill of a home slice leaves alone -/

/-- What the dies hold and the controllers' sequence numbers stand, and where no free choice was drawn, so does the overflow buffer. -/
structure FillFrame (s t : State) : Prop where
  dies : t.dies = s.dies
  seq : ∀ n, (t.ctl n).seq = (s.ctl n).seq
  free : s.free ≤ t.free
  parks : t.free = s.free → ∀ n, (t.ctl n).overflow = (s.ctl n).overflow

section FillFrames

variable {s t u : State}

namespace FillFrame

theorem of_eq (hd : t.dies = s.dies) (hc : t.ctls = s.ctls) (hf : t.free = s.free) : FillFrame s t :=
  ⟨hd, fun n => by unfold State.ctl; rw [hc], hf.ge, fun _ n => by unfold State.ctl; rw [hc]⟩

theorem refl (s : State) : FillFrame s s := of_eq rfl rfl rfl

theorem trans (h : FillFrame s t) (g : FillFrame t u) : FillFrame s u where
  dies := g.dies.trans h.dies
  seq n := (g.seq n).trans (h.seq n)
  free := h.free.trans g.free
  parks hf n := by
    have ht := le_antisymm (g.free.trans hf.le) h.free
    exact (g.parks (hf.trans ht.symm) n).trans (h.parks ht n)

theorem foldl {α : Type} {f : State → α → State} (h : ∀ s x, FillFrame s (f s x)) (l : List α) (s : State) :
    FillFrame s (l.foldl f s) := by
  induction l generalizing s with
  | nil => exact refl s
  | cons x l ih => exact (h s x).trans (ih _)

/-- An operation that draws a free choice. -/
theorem of_drawn (hd : t.dies = s.dies) (hs : ∀ n, (t.ctl n).seq = (s.ctl n).seq) (drawn : s.free < t.free) : FillFrame s t :=
  ⟨hd, hs, drawn.le, fun hf => absurd hf drawn.ne'⟩

end FillFrame

variable (s)

theorem State.metaTouch_fillFrame (blk : Nat) : FillFrame s (s.metaTouch blk) :=
  ⟨(s.metaTouch_ctlFrame blk).dies, (s.metaTouch_ctlFrame blk).seq, (s.metaTouch_frame blk).free, fun _ => s.metaTouch_overflow blk⟩

theorem State.metaTell_fillFrame (blk : Nat) : FillFrame s (s.metaTell blk) := by
  unfold State.metaTell
  split
  · exact .of_eq rfl rfl rfl
  · split
    · exact .refl s
    · exact .of_eq rfl rfl rfl

theorem State.czTell_fillFrame (blk : Nat) (cz : Option Bool) : FillFrame s (s.czTell blk cz) := by
  unfold State.czTell
  split
  · split
    · exact .refl s
    · exact .of_eq rfl rfl rfl
  · exact .refl s

variable {s} in
theorem State.l2Back_dies {line : Nat} (h : s.l2Back line = some t) : t.dies = s.dies ∧ ∀ n, (t.ctl n).seq = (s.ctl n).seq := by
  unfold State.l2Back at h
  split at h
  · cases h; exact ⟨rfl, fun _ => rfl⟩
  · split at h
    · cases h; exact ⟨rfl, fun _ => rfl⟩
    · split at h
      · cases h
      · next merged => cases h; exact ⟨(State.ctlMerge_ctlFrame merged).dies, (State.ctlMerge_ctlFrame merged).seq⟩

theorem State.l2EvictOne_dies (ls : List Nat) : (s.l2EvictOne ls).dies = s.dies ∧
    ∀ n, ((s.l2EvictOne ls).ctl n).seq = (s.ctl n).seq := by
  induction ls with
  | nil => exact ⟨rfl, fun _ => rfl⟩
  | cons l ls ih =>
    unfold State.l2EvictOne
    split
    · next back =>
      obtain ⟨dies, seq⟩ := State.l2Back_dies back
      exact ⟨dies, seq⟩
    · exact ih

theorem State.l2Room_fillFrame (line : Nat) : FillFrame s (s.l2Room line) := by
  rcases s.l2Room_cases line with room | drawn
  · rw [room]
    exact .refl s
  · unfold State.l2Room at drawn ⊢
    simp only at drawn ⊢
    split
    · exact .refl s
    · next full =>
      rw [if_neg full] at drawn
      exact .of_drawn (State.l2EvictOne_dies s.freeWord.2 _).1 (State.l2EvictOne_dies s.freeWord.2 _).2 drawn

theorem State.l2FillOne_fillFrame (line : Nat) (cz : Option Bool) (tag : Option Nat) : FillFrame s (s.l2FillOne line cz tag) := by
  unfold State.l2FillOne
  split
  · exact .refl s
  · have fetched : FillFrame s (s.l2Fetch line tag) :=
      ((s.l2Room_fillFrame line).trans (State.metaTouch_fillFrame _ _)).trans (.of_eq rfl rfl rfl)
    exact (fetched.trans (State.metaTell_fillFrame _ _)).trans (State.czTell_fillFrame _ _ _)

theorem State.l2Fill_fillFrame (line : Nat) (cz : Option Bool) : FillFrame s (s.l2Fill line cz) := by
  unfold State.l2Fill
  split
  · exact .refl s
  · exact (FillFrame.foldl (fun s l => s.l2FillOne_fillFrame l none none) _ s).trans (State.l2FillOne_fillFrame _ _ _ _)

theorem State.l2Put_fillFrame (pa : Nat) (u : GUnit) (cz : Option Bool) : FillFrame s (s.l2Put pa u cz) :=
  (s.l2Fill_fillFrame _ cz).trans (.of_eq rfl rfl rfl)

theorem State.homeGet_fillFrame (pa : Nat) (cz : Option Bool) : FillFrame s (s.homeGet pa cz).2 := by
  unfold State.homeGet
  simp only
  split <;> exact s.l2Fill_fillFrame _ _

theorem State.homePut_ctls (pa : Nat) (u : GUnit) (cz : Option Bool) : (s.homePut pa u cz).ctls = (s.l2Put pa u cz).ctls := by
  unfold State.homePut State.noteWrite State.unpoison
  simp only
  split <;> split <;> rfl

/-- Writes at the home slices keep the sequence numbers, and the overflow buffers where no line leaves to make room. -/
theorem State.homePuts_ctl (us : List GUnit) (pa : Nat) : (∀ n, ((s.homePuts pa us).ctl n).seq = (s.ctl n).seq) ∧
    ((s.homePuts pa us).free = s.free → ∀ n, ((s.homePuts pa us).ctl n).overflow = (s.ctl n).overflow) := by
  induction us generalizing s pa with
  | nil => exact ⟨fun _ => rfl, fun _ _ => rfl⟩
  | cons u us ih =>
    have put := s.l2Put_fillFrame pa u none
    obtain ⟨seq, parks⟩ := ih (s.homePut pa u none) (pa + 4)
    have ctl (n : Nat) : (s.homePut pa u none).ctl n = (s.l2Put pa u none).ctl n := by
      unfold State.ctl
      rw [State.homePut_ctls]
    refine ⟨fun n => (seq n).trans (ctl n ▸ put.seq n), fun hf n => ?_⟩
    have noted : (s.l2Put pa u none).free ≤ (s.homePut pa u none).free :=
      ((State.unpoison_frame _ pa).trans (State.noteWrite_frame _ pa)).free
    have rest : (s.homePut pa u none).free ≤ s.free := (State.homePuts_frame _ us (pa + 4)).free.trans hf.le
    have here : (s.homePut pa u none).free = s.free := le_antisymm rest (put.free.trans noted)
    exact (parks (hf.trans here.symm) n).trans (ctl n ▸ put.parks (le_antisymm (noted.trans rest) put.free) n)

end FillFrames

/-! ### Home slices: fills and poison -/

section Home

variable {s t : State} {line : Nat}

/-- What the controllers deliver stands through operations that leave the stacks and the overflow buffers alone. -/
theorem FillFrame.ctlLine (fill : FillFrame s t) (frame : HomeFrame s t) (step : HomeReads s t) (hf : t.free = s.free)
    (current : s.MetaCurrent) (line : Nat) : t.ctlLine line = s.ctlLine line := by
  obtain ⟨mem, side, marks⟩ := step.kept hf
  have table : t.osm.czmbase = s.osm.czmbase := congrArg Osm.czmbase frame.osm
  exact State.ctlLine_congr mem side marks (fill.parks hf) (State.metaPa_congr table)
    (current.metaUnit_congr (step.current hf current) mem side marks table) line

/-- A line's entry, where the home slice has one, is clean and as the controller delivers it. -/
def State.Fresh (s : State) (line : Nat) : Prop := ∀ x, s.l2.find line = some x → x.units = s.ctlLine line ∧ x.dirty = 0

theorem State.l2FillOne_fresh (n : Nat) (cz : Option Bool) (tag : Option Nat) (hf : (s.l2FillOne n cz tag).free = s.free)
    (current : s.MetaCurrent) (fresh : s.Fresh line) : (s.l2FillOne n cz tag).Fresh line := by
  intro x hx
  rw [(s.l2FillOne_fillFrame n cz tag).ctlLine (s.l2FillOne_frame n cz tag) (s.l2FillOne_step n cz tag) hf current]
  unfold State.l2FillOne at hf hx
  split at hx
  · exact fresh x hx
  · next absent =>
    rw [absent] at hf
    have later := (State.metaTell_frame (s.l2Fetch n tag) (n / 16)).trans (State.czTell_frame _ (n / 16) cz)
    have room : s.l2Room n = s := (s.l2Room_cases n).resolve_right fun drawn =>
      absurd hf ((drawn.trans_le ((State.metaTouch_frame _ (n / 16)).trans (State.setL2_frame _ _)).free).trans_le later.free).ne'
    rw [State.czTell_l2, State.metaTell_l2] at hx
    unfold State.l2Fetch at hx
    rw [room] at hx
    simp only [State.metaTouch_l2] at hx
    by_cases hn : n = line
    · subst hn
      rw [Map.find_set_self] at hx
      cases hx
      exact ⟨s.metaTouch_ctlLine _ current _, rfl⟩
    · rw [Map.find_set_ne _ _ hn] at hx
      exact fresh x hx

theorem State.fills_fresh (ls : List Nat) (hf : (ls.foldl (fun s l => s.l2FillOne l none none) s).free = s.free)
    (current : s.MetaCurrent) (fresh : s.Fresh line) : (ls.foldl (fun s l => s.l2FillOne l none none) s).Fresh line := by
  induction ls generalizing s with
  | nil => exact fresh
  | cons l ls ih =>
    have one := s.l2FillOne_frame l none none
    have rest := HomeFrame.foldl (fun s l => s.l2FillOne_frame l none none) ls (s.l2FillOne l none none)
    have here : (s.l2FillOne l none none).free = s.free := le_antisymm (rest.free.trans hf.le) one.free
    exact ih (hf.trans here.symm) ((s.l2FillOne_step l none none).current here current)
      (State.l2FillOne_fresh l none none here current fresh)

/-- A fill leaves a clean line that is as the controller delivers it, where no line leaves to make room (R75). -/
theorem State.l2Fill_clean (cz : Option Bool) (absent : s.l2.find line = none) (hu : Undisturbed s (s.l2Fill line cz)) :
    ∃ x, (s.l2Fill line cz).l2.find line = some x ∧ x.units = s.ctlLine line ∧ x.dirty = 0 := by
  obtain ⟨x, hx⟩ := Option.isSome_iff_exists.1 (s.l2Fill_present line cz)
  have delivers := (s.l2Fill_fillFrame line cz).ctlLine (s.l2Fill_frame line cz) (s.l2Fill_step line cz) hu.1 hu.2 line
  have empty : s.Fresh line := fun y hy => by rw [absent] at hy; cases hy
  have fresh : (s.l2Fill line cz).Fresh line := by
    obtain ⟨hf, current⟩ := hu
    unfold State.l2Fill at hf ⊢
    simp only [absent] at hf ⊢
    have before := HomeFrame.foldl (fun s l => s.l2FillOne_frame l none none) (s.scaleLines line (s.windowTag line)) s
    have last := State.l2FillOne_frame ((s.scaleLines line (s.windowTag line)).foldl (fun s l => s.l2FillOne l none none) s) line cz
      (s.windowTag line)
    have here := le_antisymm (last.free.trans hf.le) before.free
    have step := HomeStep.foldl_reads (fun s l => s.l2FillOne_step l none none) (s.scaleLines line (s.windowTag line)) s
    exact State.l2FillOne_fresh line cz _ (hf.trans here.symm) (step.current here current) (State.fills_fresh _ here current empty)
  exact ⟨x, hx, delivers ▸ fresh x hx⟩

theorem State.poisonList_step (s : State) (a : Nat) : HomeReads s (s.poisonList a) := by
  unfold State.poisonList
  simp only
  split
  · exact .refl s
  · split <;> exact .of_same rfl rfl rfl rfl rfl rfl rfl

/-- A granule that is poisoned at its home slice is spoiled, and no other changes (R65, R76). -/
theorem State.poisonHome_home {pa : Nat} (hu : Undisturbed s (s.poisonHome pa)) :
    (s.poisonHome pa).home pa = .spoiled (s.home pa).data ∧ ∀ a, a / 4 ≠ pa / 4 → (s.poisonHome pa).home a = s.home a := by
  have write := ((s.homeGet_step pa none).reads_trans (State.l2Put_step _ pa (.spoiled (s.homeGet pa none).1.data) none)).trans_reads
    (State.poisonList_step _ pa)
  have later := (State.l2Put_frame (s.homeGet pa none).2 pa (.spoiled (s.homeGet pa none).1.data) none).trans
    (State.poisonList_frame _ pa)
  have answer : (s.homeGet pa none).1 = s.home pa := by
    rw [State.homeGet_answer]
    exact (s.homeGet_step pa none).home (le_antisymm (later.free.trans hu.1.le) (s.homeGet_frame pa none).free) hu.2 pa
  have after := write.undisturbed hu
  refine ⟨(after pa).trans ?_, fun a ha => (after a).trans ?_⟩
  · rw [answer]
    simp [unitWrite]
  · simp [unitWrite, ha]

theorem State.poisonHome_listed {pa : Nat} (room : (s.die (pa / 2 ^ 37)).poison.length < 1024) :
    ((s.poisonHome pa).die (pa / 2 ^ 37)).poison.contains pa = true := by
  have before : FillFrame s ((s.homeGet pa none).2.l2Put pa (.spoiled (s.homeGet pa none).1.data) none) :=
    (s.homeGet_fillFrame pa none).trans (State.l2Put_fillFrame _ pa _ none)
  have die : ((s.homeGet pa none).2.l2Put pa (.spoiled (s.homeGet pa none).1.data) none).die (pa / 2 ^ 37) = s.die (pa / 2 ^ 37) := by
    unfold State.die
    rw [before.dies]
  exact (State.poisonList_room _ pa (.inr (die.symm ▸ room))).1

end Home

/-! ### Growth records (R87, R88) -/

section Growth

variable {s : State} {n i : Nat} {p : Parked}

theorem growthRecordAppend_step (h : s.arg = .growthRecordAppend n i) (parked : (s.ctl n).overflow.find i = some p)
    (pending : p.pending = true) (on : s.sup.grcfg.getLsbD 0 = true)
    (room : (s.sup.grWr - s.sup.grRd).toNat ≠ 2 ^ bvf s.sup.grcfg 4 4) :
    ∃ t, exec .growthRecordAppend s = .next t ∧ t.sup.grWr = s.sup.grWr + 1 ∧ t.sup.grIrq = true ∧
      (t.ctl n).seq = (s.ctl n).seq + 1 ∧
      (Undisturbed s t → (t.ctl n).overflow.find i = some { p with pending := false } ∧ SameStacks s t) := by
  have ready : (p.pending && ringOn s.sup.grcfg && ringRoom s.sup.grcfg s.sup.grRd s.sup.grWr) = true := by
    simp only [ringOn, ringRoom, ringSize, pending, on, room, ne_eq, not_false_eq_true, decide_true, Bool.and_self]
  have run : exec .growthRecordAppend s = execGrowthRecordAppend s := rfl
  rw [run]
  unfold execGrowthRecordAppend
  simp only [h, parked, ready, Bool.not_true, Bool.false_eq_true, if_false]
  refine ⟨_, rfl, rfl, rfl, ?_⟩
  generalize codedBytes _ = record
  generalize ringBase s.sup.grcfg + _ = pa
  obtain ⟨seq, parks⟩ := s.homePuts_ctl record pa
  have step := s.homePuts_step record pa
  generalize s.homePuts pa record = w at seq parks step
  generalize hq : (if s.sup.grIrq = true then _ else _) = q
  have ctl : q.ctl n = { w.ctl n with
      seq := (w.ctl n).seq + 1, overflow := (w.ctl n).overflow.alter i fun p => { p with pending := false } } := by
    subst hq
    split
    · exact State.ctl_modCtl_self w n _
    · unfold State.ctl
      rw [State.irq_ctls]
      exact State.ctl_modCtl_self w n _
  have same : q.free = w.free ∧ q.mem = w.mem ∧ q.side = w.side := by
    subst hq
    split <;> exact ⟨rfl, rfl, rfl⟩
  obtain ⟨free, mem, side⟩ := same
  refine ⟨(congrArg Ctl.seq ctl).trans (congrArg (· + 1) (seq n)), fun hu => ?_⟩
  have here : w.free = s.free := free.symm.trans hu.1
  obtain ⟨wmem, wside, -⟩ := step.kept here
  refine ⟨?_, mem.trans wmem, side.trans wside⟩
  refine (congrArg (Map.find · i) (congrArg Ctl.overflow ctl)).trans ?_
  rw [Map.find_alter, if_pos rfl, parks here n, parked]
  rfl

end Growth

/-! ### Fusion of a cluster (R73) -/

section Fusion

variable (s : State) (c : Nat)

/-- Dirty granules go to their home slices, and every line keeps its place. -/
theorem State.l1Back_cores (line : Nat) : (∀ d, d ≠ c → (s.l1Back c line).core d = s.core d) ∧
    ((s.l1Back c line).core c).l1.map (fun e => e.1) = (s.core c).l1.map fun e => e.1 := by
  unfold State.l1Back
  split
  · exact ⟨fun _ _ => rfl, rfl⟩
  · next l _ =>
    have home : HomeFrame s (l.units.foldl
        (fun s e => if e.2.2 then s.homePut (line * 128 + 4 * e.1) e.2.1 (some l.cz) else s) s) :=
      HomeFrame.foldl (fun s e => by split; exacts [s.homePut_frame _ _ _, .refl s]) _ s
    have core (d : Nat) := congrArg (fun m => Map.getD m d Core.empty) home.cores
    refine ⟨fun d hd => (State.core_modCore_ne _ _ hd.symm).trans (core d), ?_⟩
    simp only
    rw [State.core_modCore_self]
    have keys : ∀ m : Map L1Line, (Map.alter m line fun l => { l with units := l.units.map fun e => (e.1, e.2.1, false) }).map
        (fun e => e.1) = m.map fun e => e.1 := fun m => by
      unfold Map.alter
      rw [List.map_map]
      exact List.map_congr_left fun e _ => by dsimp only [Function.comp]; split <;> rfl
    rw [keys]
    exact congrArg (fun k : Core => k.l1.map fun e => e.1) (core c)

/-- A line of an L1 is written back and dropped; no other enters. -/
theorem State.l1Leave_lines (line : Nat) : (∀ d, d ≠ c → ((s.l1Back c line).l1Drop c line).core d = s.core d) ∧
    (∀ e ∈ (((s.l1Back c line).l1Drop c line).core c).l1, e.1 ≠ line ∧ e.1 ∈ (s.core c).l1.map fun e => e.1) := by
  obtain ⟨others, keys⟩ := s.l1Back_cores c line
  refine ⟨fun d hd => (State.core_modCore_ne _ _ hd.symm).trans (others d hd), fun e he => ?_⟩
  unfold State.l1Drop at he
  rw [State.core_modCore_self] at he
  exact ⟨Map.find_eq_none.1 (Map.find_del_self _ line) e he, keys ▸ List.mem_map_of_mem (Map.mem_del he)⟩

theorem State.l1Flush_stacksStep : StacksStep s (s.l1Flush c) :=
  StacksStep.foldl (fun s l => (s.l1Back_stacksStep c l).trans (State.modCore_stacksStep _ _ _)) _ s

theorem State.l1Flush_other {d : Nat} (hd : d ≠ c) : (s.l1Flush c).core d = s.core d := by
  unfold State.l1Flush
  generalize (s.core c).l1.map (fun e => e.1) = ls
  induction ls generalizing s with
  | nil => rfl
  | cons l ls ih => exact (ih _).trans ((s.l1Leave_lines c l).1 d hd)

/-- A flushed L1 holds no line (R73). -/
theorem State.l1Flush_empty : ((s.l1Flush c).core c).l1 = [] := by
  refine List.eq_nil_iff_forall_not_mem.2 fun e he => ?_
  have within (ls : List Nat) (t : State) (ht : ∀ e ∈ (t.core c).l1, e.1 ∈ (s.core c).l1.map fun e => e.1) :
      ∀ e ∈ ((ls.foldl (fun s l => (s.l1Back c l).l1Drop c l) t).core c).l1, e.1 ∈ (s.core c).l1.map fun e => e.1 := by
    induction ls generalizing t with
    | nil => exact ht
    | cons l ls ih =>
      refine ih _ fun e he => ?_
      obtain ⟨x, hx, same⟩ := List.mem_map.1 ((t.l1Leave_lines c l).2 e he).2
      exact same ▸ ht x hx
  refine foldl_establishes (P := fun _ => True) (Q := fun t => ∀ x ∈ (t.core c).l1, x.1 ≠ e.1)
    (within _ s (fun e he => List.mem_map_of_mem he) e he) (fun _ _ _ _ => trivial) (fun t _ x hx => ?_)
    (fun t l _ _ gone x hx => ?_) trivial e he rfl
  · exact ((t.l1Leave_lines c e.1).2 x hx).1
  · obtain ⟨y, hy, same⟩ := List.mem_map.1 ((t.l1Leave_lines c l).2 x hx).2
    exact same ▸ gone y hy

theorem State.modCluster_stacksStep (n : Nat) (f : Cluster → Cluster) : StacksStep s (s.modCluster n f) :=
  ⟨le_rfl, fun _ => ⟨rfl, rfl⟩⟩

theorem State.setFused_leaves (cl : Nat) (b : Bool) : StacksStep s (s.setFused cl b) ∧ ((s.setFused cl b).cluster cl).fused = b ∧
    ∀ j, j < 4 → ((s.setFused cl b).core (cl * 4 + j)).l1 = [] := by
  refine ⟨?_, ?_, fun j hj => ?_⟩
  · unfold State.setFused
    exact (StacksStep.foldl (fun s c => s.l1Flush_stacksStep c) _ s).trans (State.modCluster_stacksStep _ _ _)
  · exact congrArg Cluster.fused (State.cluster_modCluster_self _ cl _)
  · have here : cl * 4 + j ∈ span (cl * 4) 4 := mem_span.2 (by omega)
    unfold State.setFused State.core
    rw [State.modCluster_cores]
    generalize span (cl * 4) 4 = cores at here
    refine foldl_establishes (P := fun _ => True) (Q := fun t => (t.core (cl * 4 + j)).l1 = []) here
      (fun _ _ _ _ => trivial) (fun t _ => t.l1Flush_empty _) (fun t c _ _ empty => ?_) trivial
    by_cases hc : cl * 4 + j = c
    · exact hc ▸ t.l1Flush_empty _
    · rw [t.l1Flush_other c hc]
      exact empty

variable {s} {cl : Nat}

theorem execFuse_step (h : s.arg = .fuse cl) (head : s.headDown cl = some .fuse) :
    ∃ t, exec .fuse s = .next t ∧ (Undisturbed s t → SameStacks s t) ∧
      ((t.cluster cl).fused = true ↔ (s.cluster cl).fused = true ∨ (s.clusterCtxs cl).length ≤ 1) ∧
      ((t.cluster cl).fused = true → (s.cluster cl).fused = false → ∀ j, j < 4 → (t.core (cl * 4 + j)).l1 = []) := by
  have consumed : ((s.consumeDown cl).cluster cl).fused = (s.cluster cl).fused := by
    unfold State.consumeDown
    rw [State.cluster_modCluster_self]
  have step : StacksStep s (s.consumeDown cl) := s.modCluster_stacksStep _ _
  obtain ⟨flushed, fused, empty⟩ := (s.consumeDown cl).setFused_leaves cl true
  have run : exec .fuse s = .next (if (s.clusterCtxs cl).length ≤ 1 ∧ (!(s.cluster cl).fused) = true then
      (s.consumeDown cl).setFused cl true else s.consumeDown cl) := by
    change execFuse s = _
    unfold execFuse
    simp only [h, head, consumed]
    rfl
  rw [run]
  by_cases alone : (s.clusterCtxs cl).length ≤ 1 ∧ (!(s.cluster cl).fused) = true
  · rw [if_pos alone]
    exact ⟨_, rfl, fun hu => (step.trans flushed).kept hu.1, by simp [fused, alone.1], fun _ _ => empty⟩
  · rw [if_neg alone]
    refine ⟨_, rfl, fun hu => step.kept hu.1, ?_, fun now before => ?_⟩
    · rw [consumed]
      refine ⟨.inl, fun either => either.elim id fun few => ?_⟩
      simpa [few] using alone
    · rw [consumed, before] at now
      cases now

theorem execUnfuse_step (h : s.arg = .unfuse cl) (head : s.headDown cl = some .unfuse) :
    ∃ t, exec .unfuse s = .next t ∧ (Undisturbed s t → SameStacks s t) ∧ (t.cluster cl).fused = false ∧
      ((s.cluster cl).fused = true → ∀ j, j < 4 → (t.core (cl * 4 + j)).l1 = []) := by
  have consumed : ((s.consumeDown cl).cluster cl).fused = (s.cluster cl).fused := by
    unfold State.consumeDown
    rw [State.cluster_modCluster_self]
  have step : StacksStep s (s.consumeDown cl) := s.modCluster_stacksStep _ _
  obtain ⟨flushed, fused, empty⟩ := (s.consumeDown cl).setFused_leaves cl false
  have run : exec .unfuse s = .next (if (s.cluster cl).fused = true then
      (s.consumeDown cl).setFused cl false else s.consumeDown cl) := by
    change execUnfuse s = _
    unfold execUnfuse
    simp only [h, head, consumed]
  rw [run]
  cases before : (s.cluster cl).fused with
  | true => exact ⟨_, rfl, fun hu => (step.trans flushed).kept hu.1, fused, fun _ => empty⟩
  | false => exact ⟨_, rfl, fun hu => step.kept hu.1, consumed.trans before, fun no => nomatch no⟩

end Fusion

/-! ### Wipes of frames (R95, R376) -/

section Maps

variable {α : Type} {m : Map α} {i : Nat} {e : Nat × α}

theorem Map.mem_set_of_ne (x : α) (here : e ∈ m) (ne : e.1 ≠ i) : e ∈ Map.set m i x := by
  induction m with
  | nil => cases here
  | cons f m ih =>
    obtain ⟨k, v⟩ := f
    unfold Map.set
    split
    · exact List.mem_cons_of_mem _ here
    · split
      · next same =>
        refine List.mem_cons_of_mem _ ((List.mem_cons.1 here).resolve_left fun eq => ne ?_)
        rw [eq]
        simpa using same
      · exact (List.mem_cons.1 here).elim (fun eq => eq ▸ List.mem_cons_self) fun later => List.mem_cons_of_mem _ (ih later)

theorem Map.mem_del_of_ne (here : e ∈ m) (ne : e.1 ≠ i) : e ∈ Map.del m i := by
  induction m with
  | nil => cases here
  | cons f m ih =>
    obtain ⟨k, v⟩ := f
    unfold Map.del
    split
    · next same =>
      refine ih ((List.mem_cons.1 here).resolve_left fun eq => ne ?_)
      rw [eq]
      simpa using same
    · exact (List.mem_cons.1 here).elim (fun eq => eq ▸ List.mem_cons_self) fun later => List.mem_cons_of_mem _ (ih later)

end Maps

theorem Memory.mem_put_of_ne {m : List Host.Cell} {a : Nat} {c : Host.Cell} (b : Byte) (here : c ∈ m) (ne : c.1 ≠ a) :
    c ∈ Memory.put m a b := by
  unfold Memory.put Map.put
  split
  · exact Map.mem_del_of_ne here ne
  · exact Map.mem_set_of_ne _ here ne

section Wipe

variable {s : State} {c : Host.Cell} {b blk : Nat}

theorem State.hbmPut_mem {pa : Nat} (u : GUnit) (here : c ∈ s.mem) (ne : c.1 / 4 ≠ pa / 4) : c ∈ (s.hbmPut pa u).mem :=
  Memory.mem_put_of_ne _ (Memory.mem_put_of_ne _ (Memory.mem_put_of_ne _ (Memory.mem_put_of_ne _ here (by omega)) (by omega))
    (by omega)) (by omega)

theorem State.setMeta_mem {size allot : Nat} (here : c ∈ s.mem) (ne : c.1 / 4 ≠ s.metaPa blk / 4) :
    c ∈ (s.setMeta blk size allot).mem := by
  have touched : (s.metaTouch blk).metaPa blk = s.metaPa blk :=
    State.metaPa_congr (congrArg Osm.czmbase (s.metaTouch_frame blk).osm) blk
  have same : c ∈ (s.metaTouch blk).mem := (s.metaTouch_stacks blk).1 ▸ here
  unfold State.setMeta
  simp only
  split
  · exact same
  · exact State.hbmPut_mem _ same (touched.symm ▸ ne)

/-- A byte outside the block and its metadata granule stays (R95). -/
theorem State.wipeBlock_mem (here : c ∈ s.mem) (out : c.1 / 2048 ≠ blk) (ne : c.1 / 4 ≠ s.metaPa blk / 4) :
    c ∈ (s.wipeBlock blk).mem := by
  rw [State.wipeBlock_eq]
  split
  · exact State.setMeta_mem ((State.unpark_stacks _ blk).1.symm ▸ here) (by rw [State.unpark_metaPa]; exact ne)
  · refine List.mem_filter.2 ⟨here, ?_⟩
    simp only [Bool.or_eq_true, decide_eq_true_eq]
    omega

/-- No L1 holds a line of a wiped block, nor one that it did not hold before. -/
theorem State.wipeBlock_l1 {x : Nat × Core} (hx : x ∈ (s.wipeBlock blk).cores) :
    ∃ y ∈ s.cores, ∀ e ∈ x.2.l1, e.1 / 16 ≠ blk ∧ e ∈ y.2.l1 := by
  have cores : (s.wipeBlock blk).cores = (s.cleared blk).cores := by
    rw [State.wipeBlock_eq]
    split
    · exact ((State.unpark_frame _ _).trans (State.setMeta_frame _ _ _ _)).cores
    · rfl
  rw [cores] at hx
  obtain ⟨y, hy, rfl⟩ := List.mem_map.1 hx
  refine ⟨y, hy, fun e he => ?_⟩
  obtain ⟨kept, out⟩ := List.mem_filter.1 he
  simp only [ge_iff_le, Bool.or_eq_true, decide_eq_true_eq] at out
  exact ⟨by omega, kept⟩

/-- The wipe of one block and a block that is not coded, where neither holds the other's metadata: it stays so, it reads as zero once
it is wiped, and goes on doing so (R95, R376). -/
theorem State.wipeBlock_uncoded (current : s.MetaCurrent) (apart : blk ≠ b → s.metaPa blk ≠ s.metaPa b)
    (out : s.metaPa b / 2048 ≠ blk) (within : s.metaPa blk / 2048 ≠ b) (plain : s.coded? blk = false) :
    (s.wipeBlock b).MetaCurrent ∧ (s.wipeBlock b).coded? blk = false ∧ ∀ pa, pa / 2048 = blk →
      (b = blk ∨ Memory.get s.mem pa = 0) → Memory.get (s.wipeBlock b).mem pa = 0 := by
  have cleared := State.cleared_current (blk := b) current
  have plain' := State.cleared_coded (blk := b) current plain
  rw [State.wipeBlock_eq]
  split
  · next coded =>
    have other : blk ≠ b := fun e => by rw [e, coded] at plain'; cases plain'
    have units := State.unpark_metaUnit cleared b
    have pas := State.unpark_metaPa (s.cleared b) b
    obtain ⟨kept, stays, bytes⟩ := State.setMeta_sizeZero (State.unpark_current (blk := b) cleared) b
    rw [← State.metaOf_congr (pas b) (units b)]
    refine ⟨kept, stays blk ?_ ?_, fun pa hpa either => ?_⟩
    · rw [pas, pas]
      exact apart other
    · exact State.coded?_stays_false (pas blk) (units blk) (fun n => (State.unpark_ctl _ b n).2) plain'
    · rw [bytes pa ?_, (State.unpark_stacks _ b).1]
      · exact either.resolve_left other.symm
      · rw [pas]
        change pa / 4 ≠ s.metaPa b / 4
        omega
  · have kept := State.wipeBlock_zero_current (blk := b) current
    refine ⟨kept, State.coded?_stays_false (s := s.cleared b) rfl ?_ (fun _ _ he => he) plain', fun pa hpa either => ?_⟩
    · rw [kept.metaUnit, cleared.metaUnit]
      exact State.zeroBlock_hbmUnit within
    · rw [State.zeroBlock_get]
      split
      · rfl
      · next elsewhere => exact either.resolve_left fun same => elsewhere (by rw [hpa, same])

/-- The wipe of a frame of eight blocks (R95). -/
def State.wipeFrame (s : State) (pa : Nat) : State := (span (pa / 2048) 8).foldl State.wipeBlock s

variable {pa : Nat}

theorem State.wipeFrame_l2 (aligned : pa % 16384 = 0) : ∀ e ∈ (s.wipeFrame pa).l2, e.1 / 128 ≠ pa / 16384 := by
  intro e he same
  refine foldl_establishes (P := fun _ => True) (Q := fun t => ∀ x ∈ t.l2, x.1 / 16 ≠ e.1 / 16)
    (mem_span.2 (show pa / 2048 ≤ e.1 / 16 ∧ e.1 / 16 < pa / 2048 + 8 by omega)) (fun _ _ _ _ => trivial) (fun t _ x hx => ?_)
    (fun t b _ _ gone x hx => ?_) trivial e he rfl
  · rw [State.wipeBlock_l2] at hx
    simpa using (List.mem_filter.1 hx).2
  · rw [State.wipeBlock_l2] at hx
    exact gone x (List.mem_of_mem_filter hx)

theorem State.wipeFrame_l1 (aligned : pa % 16384 = 0) : ∀ c ∈ (s.wipeFrame pa).cores, ∀ e ∈ c.2.l1, e.1 / 128 ≠ pa / 16384 := by
  intro c hc e he same
  refine foldl_establishes (P := fun _ => True) (Q := fun t => ∀ c ∈ t.cores, ∀ x ∈ c.2.l1, x.1 / 16 ≠ e.1 / 16)
    (mem_span.2 (show pa / 2048 ≤ e.1 / 16 ∧ e.1 / 16 < pa / 2048 + 8 by omega)) (fun _ _ _ _ => trivial) (fun t _ c hc x hx => ?_)
    (fun t b _ _ gone c hc x hx => ?_) trivial c hc e he rfl
  · obtain ⟨y, -, lines⟩ := State.wipeBlock_l1 hc
    exact (lines x hx).1
  · obtain ⟨y, hy, lines⟩ := State.wipeBlock_l1 hc
    exact gone y hy x (lines x hx).2

/-- A byte outside the frame and its blocks' metadata granules stays. -/
theorem State.wipeFrame_mem {c : Host.Cell} (aligned : pa % 16384 = 0) (here : c ∈ s.mem) (out : c.1 / 16384 ≠ pa / 16384)
    (ne : ∀ b, b < 8 → c.1 / 4 ≠ s.metaPa (pa / 2048 + b) / 4) : c ∈ (s.wipeFrame pa).mem := by
  refine (List.foldlRecOn (motive := fun t : State => t.osm.czmbase = s.osm.czmbase ∧ c ∈ t.mem) (span (pa / 2048) 8) State.wipeBlock
    ⟨rfl, here⟩ fun t ⟨table, kept⟩ b hb => ?_).2
  have inside := mem_span.1 hb
  refine ⟨(t.wipeBlock_osm b).1.trans table, State.wipeBlock_mem kept (by omega) ?_⟩
  rw [State.metaPa_congr table]
  have := ne (b - pa / 2048) (by omega)
  rwa [Nat.add_sub_cancel' inside.1] at this

/-- A byte of the frame in a block that is not coded is zero, where the frame's metadata lie elsewhere (R95, R376). -/
theorem State.wipeFrame_get (aligned : pa % 16384 = 0) (current : s.MetaCurrent)
    (away : ∀ b, b < 8 → s.metaPa (pa / 2048 + b) / 16384 ≠ pa / 16384) {j : Nat} (hj : j < 16384)
    (plain : s.coded? ((pa + j) / 2048) = false) : Memory.get (s.wipeFrame pa).mem (pa + j) = 0 := by
  have elsewhere {t : State} (ht : t.osm.czmbase = s.osm.czmbase) {b x : Nat} (hb : b ∈ span (pa / 2048) 8)
      (hx : x ∈ span (pa / 2048) 8) : t.metaPa b / 2048 ≠ x := by
    have lo := mem_span.1 hb
    have hi := mem_span.1 hx
    have := away (b - pa / 2048) (by omega)
    rw [Nat.add_sub_cancel' lo.1] at this
    rw [State.metaPa_congr ht]
    omega
  have here : (pa + j) / 2048 ∈ span (pa / 2048) 8 := mem_span.2 (by omega)
  have region {b : Nat} (hb : b ∈ span (pa / 2048) 8) : b / 16384 = pa / 2048 / 16384 := by
    have := mem_span.1 hb
    omega
  have step {t : State} (ht : t.MetaCurrent ∧ t.osm.czmbase = s.osm.czmbase ∧ t.coded? ((pa + j) / 2048) = false) {b : Nat}
      (hb : b ∈ span (pa / 2048) 8) :=
    State.wipeBlock_uncoded ht.1 (t.metaPa_ne (region here) (region hb)) (elsewhere ht.2.1 hb here) (elsewhere ht.2.1 here hb) ht.2.2
  refine foldl_establishes (P := fun t => t.MetaCurrent ∧ t.osm.czmbase = s.osm.czmbase ∧ t.coded? ((pa + j) / 2048) = false)
    (Q := fun t => Memory.get t.mem (pa + j) = 0) here (fun t b hb ht => ?_) (fun t ht => ?_) (fun t b hb ht zero => ?_)
    ⟨current, rfl, plain⟩
  · exact ⟨(step ht hb).1, (t.wipeBlock_osm b).1.trans ht.2.1, (step ht hb).2.1⟩
  · exact (step ht here).2.2 _ rfl (.inl rfl)
  · exact (step ht hb).2.2 _ rfl (.inr zero)

end Wipe

/-! ### Steps that a condition allows, and format windows (R91 to R93) -/

/-- The supervisor's registers are no memory. -/
theorem State.setSup_sameMemory (s : State) (u : Sup) : SameMemory s { s with sup := u } := fun _ _ => rfl

section Windows

variable {s : State} {d n : Nat}

theorem execFarAtomic_performed {pa : Nat} {op : AtomOp} {us : List GUnit} (h : s.arg = .farAtomic pa (.atom op us)) (hp : pa < hbmSize)
    (ok : (pa % (4 * op.words) == 0 && us.length == op.operands) = true) (now : (s.farAtomic pa op us).1 ≠ .later) :
    exec .farAtomic s = .next (s.farAtomic pa op us).2 := by
  change execFarAtomic s = _
  unfold execFarAtomic
  simp only [h, ge_iff_le, not_le.2 hp, if_false]
  exact allow_next ok _

/-- A write of a window's register waits for its change to complete: what the window translates by stands (R92). -/
theorem windowRegisterWrite_step {reg : WinReg} {v : BitVec 64} (h : s.arg = .windowRegisterWrite d n reg v) (hd : d < 4) (hn : n < 32) :
    ∃ t x, exec .windowRegisterWrite s = .next t ∧ SameMemory s t ∧ (t.die d).win.find n = some x ∧
      let old := (s.die d).win.getD n .empty
      (x.a, x.l, x.s) = (old.a, old.l, old.s) ∧ x.next.isSome = true := by
  have run : exec .windowRegisterWrite s = execWindowRegisterWrite s := rfl
  rw [run]
  unfold execWindowRegisterWrite
  simp only [h, ge_iff_le, not_le.2 hd, not_le.2 hn, or_self, if_false]
  have found (x : Window) : ((s.modDie d fun y => { y with win := y.win.set n x }).die d).win.find n = some x := by
    rw [State.die_modDie_self, Map.find_set_self]
  exact ⟨_, _, rfl, fun _ _ => rfl, found _, rfl, rfl⟩

/-- A change of a window that no line waits for takes effect (R92). -/
theorem windowChangeComplete_step {old : Window} {a b c : BitVec 64} (h : s.arg = .windowChangeComplete d n)
    (present : (s.die d).win.find n = some old) (pending : old.next = some (a, b, c))
    (none : s.windowLines d n ⟨a, b, c, none⟩ = []) :
    ∃ t, exec .windowChangeComplete s = .next t ∧ (t.die d).win.find n = some ⟨a, b, c, .none⟩ ∧ SameMemory s t := by
  have run : exec .windowChangeComplete s = execWindowChangeComplete s := rfl
  rw [run]
  unfold execWindowChangeComplete
  simp only [h, present, Option.bind_some, pending, none, List.foldl_nil, List.any_nil, Bool.false_eq_true, if_false]
  refine ⟨_, rfl, ?_, fun _ _ => rfl⟩
  rw [State.die_modDie_self, Map.find_set_self]

end Windows

end Sys2Proof.Machine
end

section

open Sys2Proof Sys2Proof.Machine

/-- Settles O46: each step's condition decides whether it happens, and what the home slices, the controllers and the L1s hold
afterwards follows from their operations. -/
theorem memorySteps : Obligations.MemorySteps := by
  unfold Obligations.MemorySteps
  intro s pa line n i d cl op us v rd dirty l p reg cz
  refine ⟨fun inside aligned operands => ⟨fun h => ?_, fun h now => ?_⟩, fun h inside aligned t poisoned => ?_, fun h inside aligned => ?_,
    fun h inside aligned => ?_, fun h inside absent => ?_, fun h present dirty s1 back => ?_,
    fun h parked pending on room => growthRecordAppend_step h parked pending on room, fun h => ⟨fun foreign => ?_, fun owned => ?_⟩,
    fun h => ⟨fun past => ?_, fun within => ?_⟩, fun h => ⟨fun bad => ?_, fun good => ?_⟩, fun h blk allot s1 waits converted => ?_,
    fun h head => execFuse_step h head, fun h head => execUnfuse_step h head, fun h hd hn => windowRegisterWrite_step h hd hn,
    fun h old a b c present pending none => windowChangeComplete_step h present pending none, fun h inside aligned => ?_⟩
  case refine_1 =>
    change execHomeAtomic s = _
    unfold execHomeAtomic
    simp only [h, ge_iff_le, not_le.2 inside, if_false]
    exact allow_next (by simp [aligned, operands]) _
  case refine_2 =>
    exact execFarAtomic_performed h inside (by simp [aligned, operands]) now
  case refine_3 =>
    change execFarAtomic s = _
    unfold execFarAtomic
    simp only [h, ge_iff_le, not_le.2 inside, if_false, poisoned]
    exact allow_next (by simp [aligned]) _
  case refine_4 =>
    change execHomeAtomic s = _
    unfold execHomeAtomic
    simp only [h, ge_iff_le, not_le.2 inside, if_false]
    exact allow_next (by simp [aligned]) _
  case refine_5 =>
    have run : exec .homeAtomic s = execHomeAtomic s := rfl
    rw [run]
    unfold execHomeAtomic
    simp only [h, ge_iff_le, not_le.2 inside, if_false]
    exact ⟨_, allow_next (by simp [aligned]) _, State.poisonHome_home, State.poisonHome_listed⟩
  case refine_6 =>
    have run : exec .l2Fill s = execL2Fill s := rfl
    rw [run]
    unfold execL2Fill
    simp only [h]
    refine ⟨_, allow_next (by simp [inside, absent]) _, fun hu =>
      ⟨?_, (s.l2Fill_step line cz).sameStacks hu.1, State.l2Fill_clean cz absent hu⟩⟩
    exact (s.l2Fill_frame line cz).sameMemory ((s.l2Fill_step line cz).undisturbed hu)
  case refine_7 =>
    have run : exec .l2Writeback s = .next s1 := by
      change execL2Writeback s = _
      unfold execL2Writeback
      simp only [h, present, Option.elim_some, beq_eq_false_iff_ne.2 dirty, Bool.false_eq_true, if_false, back]
    obtain ⟨clean, others⟩ := State.l2Back_l2 present dirty back
    exact ⟨s1, run, clean, (State.l2Back_frame back).cores, others⟩
  case refine_8 =>
    change execGrcfgWrite s = _
    unfold execGrcfgWrite
    simp only [h]
    exact if_neg (by rw [show s.inOwned (ringBase v) 0 = false from foreign]; decide)
  case refine_9 =>
    have run : exec .grcfgWrite s = execGrcfgWrite s := rfl
    rw [run]
    unfold execGrcfgWrite
    simp only [h]
    obtain ⟨base, en, -⟩ := ringWrite_fields s.sup.grcfg v true
    have ours : s.inOwned (ringBase v) 0 = true := owned
    exact ⟨_, if_pos ours, s.setSup_sameMemory { s.sup with grcfg := ringWrite s.sup.grcfg v true }, rfl, base, en⟩
  case refine_10 =>
    change execGridxWrite s = _
    unfold execGridxWrite
    simp only [h]
    exact if_pos (decide_eq_true past)
  case refine_11 =>
    change execGridxWrite s = _
    unfold execGridxWrite
    simp only [h]
    exact if_neg (by simpa [pastWr] using within)
  case refine_12 =>
    change execCzcmd s = _
    unfold execCzcmd
    simp only [h]
    exact if_pos bad
  case refine_13 =>
    change execCzcmd s = _
    unfold execCzcmd
    simp only [h, Nat.mul_div_cancel _ (show 0 < 2048 by decide)]
    exact if_neg good
  case refine_14 =>
    change execCzcmdComplete s = _
    unfold execCzcmdComplete
    simp only [h, waits, converted]
  case refine_15 =>
    have run : exec .frameWipe s = execFrameWipe s := rfl
    rw [run]
    unfold execFrameWipe
    simp only [h]
    exact ⟨s.wipeFrame pa, allow_next (by simp [inside, aligned]) _, State.wipeFrame_l2 aligned, State.wipeFrame_l1 aligned,
      fun c here out ne => State.wipeFrame_mem aligned here out ne,
      fun hu away j hj plain => State.wipeFrame_get aligned hu.2 away hj plain⟩

end

section
/-! Weak accesses of a wave: what translating and performing them leaves of the programs (R38, R71, R182). -/

namespace Sys2Proof.Machine

/-! ### Operations that leave the programs alone -/

/-- Every core keeps its waves, its crews and MISSCAP, and every context its fields. -/
structure StillFrame (s t : State) : Prop where
  core : ∀ c, (t.core c).waves = (s.core c).waves ∧ (t.core c).crews = (s.core c).crews ∧ (t.core c).misscap = (s.core c).misscap
  ctxs : t.ctxs = s.ctxs

section Still

variable {s t u : State}

namespace StillFrame

theorem of_cores (hc : t.cores = s.cores) (hx : t.ctxs = s.ctxs) : StillFrame s t :=
  ⟨fun c => by unfold State.core; rw [hc]; exact ⟨rfl, rfl, rfl⟩, hx⟩

theorem refl (s : State) : StillFrame s s := of_cores rfl rfl

theorem trans (h : StillFrame s t) (g : StillFrame t u) : StillFrame s u where
  core c := by
    obtain ⟨waves, crews, misscap⟩ := h.core c
    obtain ⟨waves', crews', misscap'⟩ := g.core c
    exact ⟨waves'.trans waves, crews'.trans crews, misscap'.trans misscap⟩
  ctxs := g.ctxs.trans h.ctxs

theorem foldl {α : Type} {f : State → α → State} (h : ∀ s x, StillFrame s (f s x)) (l : List α) (s : State) :
    StillFrame s (l.foldl f s) := by
  induction l generalizing s with
  | nil => exact refl s
  | cons x l ih => exact (h s x).trans (ih _)

theorem of_modCore (s : State) (c : Nat) {f : Core → Core}
    (h : ∀ k, (f k).waves = k.waves ∧ (f k).crews = k.crews ∧ (f k).misscap = k.misscap) : StillFrame s (s.modCore c f) := by
  refine ⟨fun d => ?_, rfl⟩
  by_cases hd : c = d
  · subst hd
    rw [State.core_modCore_self]
    exact h _
  · rw [State.core_modCore_ne _ _ hd]
    exact ⟨rfl, rfl, rfl⟩

end StillFrame

theorem HomeFrame.still (h : HomeFrame s t) : StillFrame s t := .of_cores h.cores h.ctxs

variable (s)

/-! ### Translation (R38, R42) -/

theorem State.tlbFill_still (g : Agent) (e : TlbEntry) : StillFrame s (s.tlbFill g e) := by
  unfold State.tlbFill
  simp only
  generalize (_ || _ : Bool) = full
  generalize hx : (if full = true then s.freeWord else (0, s)) = x
  have drawn : StillFrame s x.2 := by
    subst hx
    split
    · exact s.freeWord_frame.still
    · exact .refl s
  have entered := drawn.trans (State.modDie_frame x.2 g.die fun d => { d with tlb := tlbPut 1024 16 x.1.toNat e d.tlb }).still
  split
  · exact (entered.trans (.of_modCore _ g.core (f := fun k => { k with tlb := tlbPut 32 8 (x.1.toNat / 16) e k.tlb })
      fun _ => ⟨rfl, rfl, rfl⟩)).trans (.of_cores rfl rfl)
  · exact entered

theorem State.xlat_still (g : Agent) (text : Bool) (va : Nat) (acc : Access) : StillFrame s (s.xlat g text va acc).2 := by
  have walked := s.walk_frame g.ctx va (if text then (s.ctx g.ctx).troot g.die else (s.ctx g.ctx).groot)
  unfold State.xlat
  simp only
  generalize s.walk g.ctx va _ = x at walked
  obtain ⟨o, t⟩ := x
  split
  · split <;> exact .refl s
  · cases o with
    | fault k => exact walked.still
    | replay cond level => exact walked.still
    | leaf p a level =>
      have checked := walked.trans (t.leafCheck_frame g.ctx va p level text)
      simp only
      generalize t.leafCheck g.ctx va p level text = x at checked
      obtain ⟨k, u⟩ := x
      cases k with
      | some k => exact checked.still
      | none =>
        simp only
        split
        · exact checked.still
        · exact checked.still
        · exact (checked.trans (u.setAD_frame a p acc.writes)).still.trans (State.tlbFill_still _ _ _)

theorem State.xlatGlobal_still (g : Agent) (va : Nat) (acc : Access) : StillFrame s (s.xlatGlobal g va acc).2 := by
  unfold State.xlatGlobal
  split
  · exact s.xlat_still _ _ _ _
  · split
    · exact .refl s
    · split <;> exact .refl s

theorem State.translate_still (g : Agent) (va : Nat) (acc : Access) : StillFrame s (s.translate g va acc).2 := by
  unfold State.translate
  simp only
  split
  · split
    · exact s.xlat_still _ _ _ _
    · exact .refl s
  · split
    · exact s.xlatGlobal_still _ _ _
    · split
      · split
        · exact .refl s
        · exact s.xlat_still _ _ _ _
      · split
        · split
          · exact .refl s
          · split
            · exact .refl s
            · exact s.xlatGlobal_still _ _ _
        · split
          · split <;> exact .refl s
          · exact .refl s

theorem State.lanePlaces_still (g : Agent) (acc : Access) (deny : Xlat → Bool) (l : List Nat) :
    StillFrame s (s.lanePlaces g acc deny l).2 := by
  induction l generalizing s with
  | nil => exact .refl s
  | cons va l ih =>
    have moved := s.translate_still g va acc
    unfold State.lanePlaces
    generalize s.translate g va acc = x at moved
    obtain ⟨x, t⟩ := x
    cases x with
    | fault c => exact moved
    | replay page cond level => exact moved
    | mem pa bind ms cz =>
      simp only
      split
      · exact moved
      · exact moved.trans (ih t)
    | spad off =>
      simp only
      split
      · exact moved
      · exact moved.trans (ih t)

theorem State.findPlaces_still (p : Pod) (w : Wave) (k : Crew) (acc : Access) (deny : Xlat → Bool) (align n : Nat)
    (l : List (Nat × Option Nat)) : StillFrame s (s.findPlaces p w k acc deny align n l).2 := by
  induction l generalizing s with
  | nil => exact .refl s
  | cons e l ih =>
    obtain ⟨lane, va⟩ := e
    cases va with
    | none => exact .refl s
    | some va =>
      have moved := s.lanePlaces_still (laneAgent p w k lane) acc deny (granules va n)
      unfold State.findPlaces
      split
      · exact .refl s
      · generalize s.lanePlaces (laneAgent p w k lane) acc deny (granules va n) = x at moved
        obtain ⟨f, t⟩ := x
        simp only
        split
        · exact moved
        · exact moved.trans (ih t)

end Still

/-! ### The places that a translation finds -/

section Places

variable {s s1 : State} {p : Pod} {w : Wave} {k : Crew} {acc : Access} {places : List Slotted} {align n : Nat}

/-- Lanes' accesses that all translate: the places come in order, each as its address translates. -/
structure Found.Complete (f : Found) (p : Pod) (w : Wave) (k : Crew) (acc : Access) (l : List (Nat × Nat)) : Prop where
  addresses : f.places.map (fun x => (x.lane, x.va)) = l
  translated : ∀ x ∈ f.places, ∃ s : State, x.at_ = (s.translate (laneAgent p w k x.lane) x.va acc).1

theorem State.lanePlaces_complete {lane : Nat} {l : List Nat} {f : Found} {t : State}
    (h : s.lanePlaces (laneAgent p w k lane) acc (fun _ => false) l = (f, t)) (misses : f.misses = []) (fatal : f.fatal = none) :
    f.Complete p w k acc (l.map fun va => (lane, va)) := by
  induction l generalizing s f t with
  | nil =>
    cases h
    exact ⟨rfl, fun x hx => nomatch hx⟩
  | cons va l ih =>
    rcases hx : s.translate (laneAgent p w k lane) va acc with ⟨x, u⟩
    unfold State.lanePlaces at h
    rw [hx] at h
    have here : (s.translate (laneAgent p w k lane) va acc).1 = x := congrArg Prod.fst hx
    have later (x : Xlat) (hx : (s.translate (laneAgent p w k lane) va acc).1 = x)
        (h : (match u.lanePlaces (laneAgent p w k lane) acc (fun _ => false) l with
          | (f, s) => (({ f with places := ⟨lane, va, x⟩ :: f.places } : Found), s)) = (f, t)) :
        f.Complete p w k acc ((va :: l).map fun va => (lane, va)) := by
      rcases hr : u.lanePlaces (laneAgent p w k lane) acc (fun _ => false) l with ⟨rest, v⟩
      rw [hr] at h
      cases h
      obtain ⟨addresses, translated⟩ := ih hr misses fatal
      refine ⟨congrArg ((lane, va) :: ·) addresses, fun y hy => ?_⟩
      rcases List.mem_cons.1 hy with rfl | hy
      · exact ⟨s, hx.symm⟩
      · exact translated y hy
    cases x with
    | fault c => cases h; cases fatal
    | replay page cond level => cases h; cases misses
    | mem pa bind ms cz => exact later _ here h
    | spad off => exact later _ here h

theorem State.findPlaces_complete {l : List (Nat × Nat)} {f : Found} {t : State}
    (h : s.findPlaces p w k acc (fun _ => false) align n (l.map fun e => (e.1, some e.2)) = (f, t)) (misses : f.misses = [])
    (fatal : f.fatal = none) : f.Complete p w k acc (l.flatMap fun e => (granules e.2 n).map fun va => (e.1, va)) := by
  induction l generalizing s f t with
  | nil =>
    cases h
    exact ⟨rfl, fun x hx => nomatch hx⟩
  | cons e l ih =>
    obtain ⟨lane, va⟩ := e
    rcases hx : s.lanePlaces (laneAgent p w k lane) acc (fun _ => false) (granules va n) with ⟨first, u⟩
    rw [List.map_cons, State.findPlaces, hx] at h
    split at h
    · cases h; cases fatal
    · cases stop : first.fatal with
      | some trap =>
        simp only [stop] at h
        cases h; cases fatal
      | none =>
        rcases hr : u.findPlaces p w k acc (fun _ => false) align n (l.map fun e => (e.1, some e.2)) with ⟨rest, v⟩
        simp only [stop, hr] at h
        cases h
        obtain ⟨missed, missed'⟩ := List.append_eq_nil_iff.1 misses
        obtain ⟨addresses, translated⟩ := State.lanePlaces_complete hx missed stop
        obtain ⟨addresses', translated'⟩ := ih hr missed' fatal
        refine ⟨?_, fun y hy => ?_⟩
        · simp only [List.map_append, addresses, addresses', List.flatMap_cons]
        · exact (List.mem_append.1 hy).elim (translated y) (translated' y)

/-- What an issue whose accesses all translate has found. -/
theorem State.gather_ok {l : List (Nat × Nat)}
    (h : s.gather p w k acc align n (l.map fun e => (e.1, some e.2)) = (.ok places, s1)) :
    StillFrame s s1 ∧ places.map (fun x => (x.lane, x.va)) = (l.flatMap fun e => (granules e.2 n).map fun va => (e.1, va)) ∧
      ∀ x ∈ places, ∃ s : State, x.at_ = (s.translate (laneAgent p w k x.lane) x.va acc).1 := by
  have still := s.findPlaces_still p w k acc (fun _ => false) align n (l.map fun e => (e.1, some e.2))
  rcases hx : s.findPlaces p w k acc (fun _ => false) align n (l.map fun e => (e.1, some e.2)) with ⟨f, t⟩
  unfold State.gather State.gatherDeny at h
  rw [hx] at h still
  split at h
  · cases h
  · simp only at h
    split at h
    · cases h
    · next misses fatal =>
      cases h
      obtain ⟨addresses, translated⟩ := State.findPlaces_complete hx misses fatal
      exact ⟨still, addresses, translated⟩
    · cases h

end Places

/-! ### Weak accesses of a wave -/

/-- A weak access of a pod leaves the programs as they are but for the wave's lost-locality score and the crew's escaped bit. -/
structure AccessFrame (p : Pod) (ki : Nat) (s t : State) : Prop where
  wave : ∀ v, s.wave? p.core p.slot = some v → ∃ n, t.wave? p.core p.slot = some { v with lls := n }
  waves : ∀ i, i ≠ p.slot → t.wave? p.core i = s.wave? p.core i
  crew : ∀ c, s.crew? p.core ki = some c → ∃ b, t.crew? p.core ki = some { c with escaped := b }
  crews : ∀ i, i ≠ ki → t.crew? p.core i = s.crew? p.core i
  cores : ∀ c, c ≠ p.core → (t.core c).waves = (s.core c).waves ∧ (t.core c).crews = (s.core c).crews
  misscap : (t.core p.core).misscap = (s.core p.core).misscap
  ctxs : t.ctxs = s.ctxs

section Accesses

variable {s t u : State} {p : Pod} {ki : Nat}

theorem StillFrame.access (h : StillFrame s t) : AccessFrame p ki s t where
  wave v hv := ⟨v.lls, by unfold State.wave? at hv ⊢; rw [(h.core _).1, hv]⟩
  waves i _ := by unfold State.wave?; rw [(h.core _).1]
  crew c hc := ⟨c.escaped, by unfold State.crew? at hc ⊢; rw [(h.core _).2.1, hc]⟩
  crews i _ := by unfold State.crew?; rw [(h.core _).2.1]
  cores c _ := ⟨(h.core c).1, (h.core c).2.1⟩
  misscap := (h.core _).2.2
  ctxs := h.ctxs

theorem AccessFrame.refl (s : State) : AccessFrame p ki s s := (StillFrame.refl s).access

theorem AccessFrame.trans (h : AccessFrame p ki s t) (g : AccessFrame p ki t u) : AccessFrame p ki s u where
  wave v hv := by
    obtain ⟨n, hn⟩ := h.wave v hv
    obtain ⟨m, hm⟩ := g.wave _ hn
    exact ⟨m, hm⟩
  waves i hi := (g.waves i hi).trans (h.waves i hi)
  crew c hc := by
    obtain ⟨b, hb⟩ := h.crew c hc
    obtain ⟨b', hb'⟩ := g.crew _ hb
    exact ⟨b', hb'⟩
  crews i hi := (g.crews i hi).trans (h.crews i hi)
  cores c hc := ⟨(g.cores c hc).1.trans (h.cores c hc).1, (g.cores c hc).2.trans (h.cores c hc).2⟩
  misscap := g.misscap.trans h.misscap
  ctxs := g.ctxs.trans h.ctxs

variable (s)

theorem State.lls_access (f : Wave → Nat) : AccessFrame p ki s (s.modWave p.core p.slot fun w => { w with lls := f w }) where
  wave v hv := ⟨f v, by rw [State.wave_modWave_self, hv]; rfl⟩
  waves i hi := State.wave_modWave_ne s _ fun same => hi same.2.symm
  crew c hc := ⟨c.escaped, by rw [State.modWave_crew, hc]⟩
  crews i _ := State.modWave_crew ..
  cores c hc := by
    unfold State.modWave
    rw [State.core_modCore_ne _ _ hc.symm]
    exact ⟨rfl, rfl⟩
  misscap := by
    unfold State.modWave
    rw [State.core_modCore_self]
  ctxs := rfl

theorem State.escape_access (w : Wave) : AccessFrame p w.crew s (s.escape p w) where
  wave v hv := ⟨v.lls, (State.modCrew_wave ..).trans hv⟩
  waves i _ := State.modCrew_wave ..
  crew c hc := ⟨true, by unfold State.escape; rw [State.crew_modCrew_self, hc]; rfl⟩
  crews i hi := State.crew_modCrew_ne s _ fun same => hi same.2.symm
  cores c hc := by
    unfold State.escape State.modCrew
    rw [State.core_modCore_ne _ _ hc.symm]
    exact ⟨rfl, rfl⟩
  misscap := by
    unfold State.escape State.modCrew
    rw [State.core_modCore_self]
  ctxs := rfl

theorem State.l1Back_still (c line : Nat) : StillFrame s (s.l1Back c line) := by
  unfold State.l1Back
  split
  · exact .refl s
  · refine (StillFrame.foldl (fun s e => ?_) _ s).trans (.of_modCore _ _ fun _ => ⟨rfl, rfl, rfl⟩)
    split
    · exact (s.homePut_frame _ _ _).still
    · exact .refl s

theorem State.l1Leave_still (c line : Nat) : StillFrame s ((s.l1Back c line).l1Drop c line) :=
  (s.l1Back_still c line).trans (.of_modCore _ _ fun _ => ⟨rfl, rfl, rfl⟩)

theorem State.ownLine_still (c line ctx : Nat) : StillFrame s (s.ownLine c line ctx) := by
  unfold State.ownLine
  split
  · exact .refl s
  · split
    · exact .refl s
    · exact s.l1Leave_still c line

theorem State.l1Room_still (c line : Nat) : StillFrame s (s.l1Room c line) := by
  unfold State.l1Room
  split
  · exact .refl s
  · simp only
    split
    · exact .refl s
    · refine s.freeWord_frame.still.trans ?_
      unfold State.l1Evict
      split
      · exact .refl _
      · exact (State.l1Leave_still _ c _).trans (.of_modCore _ _ fun _ => ⟨rfl, rfl, rfl⟩)

theorem State.vtaLookup_access (line : Nat) : AccessFrame p ki s (s.vtaLookup p.core p.slot line) := by
  unfold State.vtaLookup
  simp only
  split
  · refine (StillFrame.access ?_).trans (State.lls_access _ fun w => min 255 (w.lls + 16))
    exact .of_modCore _ _ fun _ => ⟨rfl, rfl, rfl⟩
  · exact .refl s

/-- A miss of a wave: the victim tags are looked up, and room is made. -/
theorem State.miss_access (c line : Nat) : AccessFrame p ki s ((s.vtaLookup p.core p.slot line).l1Room c line) :=
  (s.vtaLookup_access line).trans (State.l1Room_still _ c line).access

/-- The L1 line that an access leaves in its place. -/
def State.putLine (s : State) (c line : Nat) (f : Option L1Line → L1Line) : State :=
  s.modCore c fun k => { k with l1 := k.l1.set line (f (k.l1.find line)) }

theorem State.putLine_still (c line : Nat) (f : Option L1Line → L1Line) : StillFrame s (s.putLine c line f) :=
  .of_modCore _ _ fun _ => ⟨rfl, rfl, rfl⟩

/-- A weak store's line with its granule. -/
def storedLine (ctx bind slot : Nat) (cz : Bool) (i : Nat) (u : GUnit) (l : Option L1Line) : L1Line :=
  ⟨ctx, bind, (l.getD ⟨ctx, bind, slot, cz, []⟩).slot, cz, (l.getD ⟨ctx, bind, slot, cz, []⟩).units.set i (u, true)⟩

/-- Where a weak store puts its granule: another context's line has left, and a line that the L1 does not hold has room. -/
def State.storeReady (s : State) (core slot ctx line : Nat) : State :=
  let c := s.l1Core core line
  let t := s.ownLine c line ctx
  if ((t.core c).l1.find line).isSome then t else (t.vtaLookup core slot line).l1Room c line

theorem State.weakPut_eq (core slot ctx pa bind : Nat) (cz : Bool) (u : GUnit) : s.weakPut core slot ctx pa bind cz u =
    (s.storeReady core slot ctx (pa / 128)).putLine (s.l1Core core (pa / 128)) (pa / 128)
      (storedLine ctx bind slot cz (pa / 4 % 32) u) := rfl

/-- A weak load's line: what it held, and beside it what the home slice delivers. -/
def loadedLine (ctx bind slot : Nat) (cz : Bool) (us : List GUnit) (l : Option L1Line) : L1Line :=
  let old := l.getD ⟨ctx, bind, slot, cz, []⟩
  ⟨ctx, bind, old.slot, cz,
    us.zipIdx.foldl (fun m x => if (old.units.find x.2).isNone then m.set x.2 (x.1, false) else m) old.units⟩

/-- A weak load that its L1 does not answer: another context's line has left, the line has room, and the home slice holds it. -/
def State.loadReady (s : State) (core slot ctx pa : Nat) (cz : Bool) : State :=
  let c := s.l1Core core (pa / 128)
  (((s.ownLine c (pa / 128) ctx).vtaLookup core slot (pa / 128)).l1Room c (pa / 128)).homeFill pa cz

/-- The units of a line at its home slice. -/
def State.lineUnits (s : State) (line : Nat) : List GUnit := (s.l2.find line).elim [] fun l => l.units

theorem State.weakGet_cases (core slot ctx pa bind : Nat) (cz : Bool) :
    (s.weakGet core slot ctx pa bind cz).2 = s.ownLine (s.l1Core core (pa / 128)) (pa / 128) ctx ∨
    (s.weakGet core slot ctx pa bind cz).2 = (s.loadReady core slot ctx pa cz).putLine (s.l1Core core (pa / 128)) (pa / 128)
      (loadedLine ctx bind slot cz ((s.loadReady core slot ctx pa cz).lineUnits (pa / 128))) := by
  unfold State.weakGet
  simp only
  split
  · exact .inl rfl
  · exact .inr rfl

theorem State.storeReady_access (ctx line : Nat) : AccessFrame p ki s (s.storeReady p.core p.slot ctx line) := by
  unfold State.storeReady
  refine (s.ownLine_still (s.l1Core p.core line) line ctx).access.trans ?_
  simp only
  split
  · exact .refl _
  · exact State.miss_access _ _ _

theorem State.loadReady_access (ctx pa : Nat) (cz : Bool) : AccessFrame p ki s (s.loadReady p.core p.slot ctx pa cz) :=
  ((s.ownLine_still _ _ ctx).access.trans (State.miss_access _ _ _)).trans (State.l2Fill_frame _ _ _).still.access

theorem State.weakPut_access (ctx pa bind : Nat) (cz : Bool) (u : GUnit) :
    AccessFrame p ki s (s.weakPut p.core p.slot ctx pa bind cz u) := by
  rw [State.weakPut_eq]
  exact (s.storeReady_access ctx (pa / 128)).trans (State.putLine_still _ _ _ _).access

theorem State.weakGet_access (ctx pa bind : Nat) (cz : Bool) :
    AccessFrame p ki s (s.weakGet p.core p.slot ctx pa bind cz).2 := by
  rcases s.weakGet_cases p.core p.slot ctx pa bind cz with held | fetched
  · exact held ▸ (s.ownLine_still _ _ ctx).access
  · exact fetched ▸ (s.loadReady_access ctx pa cz).trans (State.putLine_still _ _ _ _).access

theorem State.devPut_still (pa : Nat) (u : GUnit) : StillFrame s (s.devPut pa u) := by
  unfold State.devPut State.traffic
  split
  · split <;> exact .of_cores rfl rfl
  · split <;> exact .of_cores rfl rfl

theorem State.devGet_still (pa : Nat) : StillFrame s (s.devGet pa).2 := by
  unfold State.devGet State.traffic
  simp only
  split <;> split <;> exact .of_cores rfl rfl

/-- A place in memory, which is no granule of a scratchpad. -/
def Xlat.outside : Xlat → Prop
  | .spad _ => False
  | _ => True

theorem State.storeAt_access (w : Wave) (k : Crew) {x : Xlat} (out : x.outside) (u : GUnit) :
    AccessFrame p w.crew s (s.storeAt p w k x u false) := by
  cases x with
  | spad off => cases out
  | mem pa bind ms cz =>
    unfold State.storeAt
    simp only
    split
    · split
      · exact (s.devPut_still pa u).access
      · exact (s.devPut_still pa u).access.trans (State.escape_access _ w)
    · exact s.weakPut_access k.ctx pa bind cz u
  | fault c => exact .refl s
  | replay page cond level => exact .refl s

theorem State.loadAt_access (w : Wave) (k : Crew) (x : Xlat) : AccessFrame p w.crew s (s.loadAt p w k x false).2 := by
  cases x with
  | spad off => exact .refl s
  | mem pa bind ms cz =>
    unfold State.loadAt
    simp only
    split
    · exact (s.devGet_still pa).access
    · exact s.weakGet_access k.ctx pa bind cz
  | fault c => exact .refl s
  | replay page cond level => exact .refl s

theorem State.loadFrom_access (w : Wave) (k : Crew) (seen : List (Xlat × GUnit)) (l : List Slotted) :
    AccessFrame p w.crew s (s.loadFrom p w k false seen l).2 := by
  induction l generalizing s seen with
  | nil => exact .refl s
  | cons x l ih =>
    unfold State.loadFrom
    split
    next u t hx =>
    have moved : AccessFrame p w.crew s t := by
      split at hx
      · cases hx; exact .refl s
      · have moved := s.loadAt_access w k x.at_ (p := p)
        rwa [hx] at moved
    exact moved.trans (ih t _)

end Accesses

/-! ### Retirement after an access (R162, R166) -/

section Retired

variable {s t : State} {p : Pod} {w : Wave} {k : Crew} {next : Nat → VAddr} {move : Nat → Thread → Thread} {f : Wave → Wave}

/-- A change of a wave's threads, and of the parity of what it writes, that with the next PCs moves each thread as `move` says. -/
structure Moves (p : Pod) (w : Wave) (next : Nat → VAddr) (move : Nat → Thread → Thread) (f : Wave → Wave) : Prop where
  same : ∀ v : Wave, { f v with threads := v.threads, parity := v.parity } = v
  threads : ∀ (v : Wave) l th, v.threads = w.threads → w.threads.find l = some th → ∃ th', (f v).threads.find l = some th' ∧
    ({ th' with pc := if l ∈ p.lanes then next l else th'.pc } : Thread).seen = (if l ∈ p.lanes then move l th else th).seen

theorem State.retireWith_moved (s : State) (p : Pod) (f : Wave → Wave) (next : Nat → VAddr) (crew : ∀ v, (f v).crew = v.crew)
    {v : Wave} (wave : s.wave? p.core p.slot = some v) : ∃ st q, (s.modWave p.core p.slot f).retireWith p true next =
      { ((s.modWave p.core p.slot f).modWave p.core p.slot fun w => w.issued p.lanes st q true next).modCrew p.core v.crew
          (fun k => { k with issued := (k.issued + 1) % 2 ^ 48 }) with stamp := st } := by
  unfold State.retireWith
  simp only [State.wave_modWave_self, wave, Option.map_some, Option.elim_some, crew]
  exact ⟨_, _, rfl⟩

theorem Moves.kept (moves : Moves p w next move f) (h : Issuing s p w k) (acc : AccessFrame p w.crew s t) :
    ∃ w', Kept s ((t.modWave p.core p.slot f).retireWith p true next) p w w' k (fun _ => False) move ∧ w'.idempc = w.idempc := by
  obtain ⟨n, wave⟩ := acc.wave w h.wave
  obtain ⟨b, crew⟩ := acc.crew k h.crew
  have same := moves.same { w with lls := n }
  obtain ⟨st, q, retired⟩ := t.retireWith_moved p f next (fun v => (congrArg Wave.crew (moves.same v) :)) wave
  rw [retired]
  have kept := Wave.issued_keeps (f { w with lls := n }) p.lanes st q true next
  have threads := Wave.issued_threads (f { w with lls := n }) p.lanes st q true next
  generalize hw : (f { w with lls := n }).issued p.lanes st q true next = w' at kept threads
  have fields {α : Type} (g : Wave → α) (blind : ∀ (v : Wave) threads parity sel quant quantum nprem lastIssue lls, g { v with
      threads := threads, parity := parity, sel := sel, quant := quant, quantum := quantum, nprem := nprem
      lastIssue := lastIssue, lls := lls } = g v) : g w' = g w :=
    calc g w' = g (f { w with lls := n }) := (blind w' _ _ _ _ _ _ _ _).symm.trans (congrArg g kept)
      _ = g { w with lls := n } := (blind (f { w with lls := n }) _ _ _ _ _ _ _ _).symm.trans (congrArg g same)
      _ = g w := blind w w.threads w.parity w.sel w.quant w.quantum w.nprem w.lastIssue n
  have other (c : Nat) (hc : c ≠ p.core) : (((t.modWave p.core p.slot f).modWave p.core p.slot fun w =>
      w.issued p.lanes st q true next).modCrew p.core w.crew fun k => { k with issued := (k.issued + 1) % 2 ^ 48 }).core c =
      t.core c := by
    unfold State.modCrew State.modWave
    rw [State.core_modCore_ne _ _ hc.symm, State.core_modCore_ne _ _ hc.symm, State.core_modCore_ne _ _ hc.symm]
  refine ⟨w', ⟨?_, fun r l _ _ => fields (fun x => x.get r l) fun _ _ _ _ _ _ _ _ _ => rfl,
    fun m l => fields (fun x => x.pred m l) fun _ _ _ _ _ _ _ _ _ => rfl, ?_, ?_, fun l th hth => ?_, fun i v hi hv => ?_, ?_,
    fun i hi => ?_, fun c hc => ?_, ?_, acc.ctxs⟩, fields Wave.idempc fun _ _ _ _ _ _ _ _ _ => rfl⟩
  · refine (State.modCrew_wave ..).trans ?_
    rw [State.wave_modWave_self, State.wave_modWave_self, wave]
    exact congrArg some hw
  · have := fields (fun x => (x.q, x.arrive, x.entered, x.mma, x.crew)) fun _ _ _ _ _ _ _ _ _ => rfl
    simpa only [Prod.mk.injEq] using this
  · exact fields (fun x => [x.chkinfo, x.chkaddr, x.trapcause, x.trappc, x.trapaddr, x.ehbase]) fun _ _ _ _ _ _ _ _ _ => rfl
  · obtain ⟨th', found, seen⟩ := moves.threads { w with lls := n } l th rfl hth
    refine ⟨_, by rw [threads, Map.find_mapAll, found, Option.map_some], Eq.trans ?_ seen⟩
    by_cases hl : l ∈ p.lanes
    · simp [hl, Thread.seen]
    · simp [hl, Thread.seen]
  · refine ⟨v.threads, (State.modCrew_wave ..).trans ?_⟩
    have apart : ¬(p.core = p.core ∧ p.slot = i) := fun both => hi both.2.symm
    rw [State.wave_modWave_ne _ _ apart, State.wave_modWave_ne _ _ apart, acc.waves i hi, hv]
  · refine ⟨{ k with escaped := b, issued := (k.issued + 1) % 2 ^ 48 }, (State.crew_modCrew_self ..).trans ?_, rfl, rfl, rfl⟩
    rw [State.modWave_crew, State.modWave_crew, crew]
    rfl
  · have apart : ¬(p.core = p.core ∧ w.crew = i) := fun both => hi both.2.symm
    refine (State.crew_modCrew_ne _ _ apart).trans ?_
    rw [State.modWave_crew, State.modWave_crew, acc.crews i hi]
  · exact ⟨(congrArg Core.waves (other c hc)).trans (acc.cores c hc).1, (congrArg Core.crews (other c hc)).trans (acc.cores c hc).2⟩
  · refine Eq.trans ?_ acc.misscap
    change (State.core (((t.modWave p.core p.slot f).modWave p.core p.slot fun w =>
      w.issued p.lanes st q true next).modCrew p.core w.crew _) p.core).misscap = _
    unfold State.modCrew State.modWave
    rw [State.core_modCore_self, State.core_modCore_self, State.core_modCore_self]

end Retired

/-! ### What weak accesses of a context do to the L1s and to memory (R71, R98, log 111) -/

/-- Every line that an L1 holds for another context stays for another. -/
def ForeignStay (ctx : Nat) (s t : State) : Prop := ∀ c line l, (s.core c).l1.find line = some l → l.ctx ≠ ctx →
  ∃ l', (t.core c).l1.find line = some l' ∧ l'.ctx ≠ ctx

/-- Weak accesses of a context, of which those that store write the granules `stored`. Where no free choice was drawn, the stacks are as
they were, the context's own lines stay with what they hold of other granules, no line of another context is new, and where none of
these left, memory reads the same beside the stored granules. -/
structure L1Step (ctx : Nat) (stored : Nat → Prop) (s t : State) : Prop where
  free : s.free ≤ t.free
  fused : ∀ n, (t.cluster n).fused = (s.cluster n).fused
  below : t.free = s.free → SameStacks s t
  current : t.free = s.free → s.MetaCurrent → t.MetaCurrent
  own : t.free = s.free → ∀ c line l, (s.core c).l1.find line = some l → l.ctx = ctx → ∃ l', (t.core c).l1.find line = some l' ∧
    l'.ctx = ctx ∧ ∀ i x, i < 32 → ¬stored (line * 32 + i) → l.units.find i = some x → l'.units.find i = some x
  foreign : t.free = s.free → ∀ c line l, (t.core c).l1.find line = some l → l.ctx ≠ ctx →
    ∃ l0, (s.core c).l1.find line = some l0 ∧ l0.ctx ≠ ctx
  memory : t.free = s.free → s.MetaCurrent → ForeignStay ctx s t → ∀ core pa, ¬stored (pa / 4) → t.peek core pa = s.peek core pa

section L1Steps

variable {s t u : State} {ctx : Nat} {stored : Nat → Prop} {c line : Nat}

namespace L1Step

/-- Operations beneath the L1s that change no unit. -/
theorem of_home (home : HomeReads s t) (l1 : ∀ c, (t.core c).l1 = (s.core c).l1) (clusters : t.clusters = s.clusters) :
    L1Step ctx stored s t where
  free := home.free
  fused n := by unfold State.cluster; rw [clusters]
  below hf := ⟨(home.kept hf).1, (home.kept hf).2.1⟩
  current := home.current
  own _ c line l hl hc := ⟨l, by rw [l1, hl], hc, fun _ _ _ _ hx => hx⟩
  foreign _ c line l hl hc := ⟨l, by rw [← l1, hl], hc⟩
  memory hf hm _ core pa _ := SameMemory.of_home l1 (fun n => by unfold State.cluster; rw [clusters]) (home.home hf hm) core pa

theorem refl (s : State) : L1Step ctx stored s s := of_home (.refl s) (fun _ => rfl) rfl

/-- A step that draws a free choice promises nothing. -/
theorem of_drawn (fused : ∀ n, (t.cluster n).fused = (s.cluster n).fused) (drawn : s.free < t.free) : L1Step ctx stored s t :=
  ⟨drawn.le, fused, fun e => absurd e drawn.ne', fun e => absurd e drawn.ne',
    fun e => absurd e drawn.ne', fun e => absurd e drawn.ne', fun e => absurd e drawn.ne'⟩

theorem trans {first second : Nat → Prop} (h : L1Step ctx first s t) (g : L1Step ctx second t u) :
    L1Step ctx (fun n => first n ∨ second n) s u := by
  have split (e : u.free = s.free) : t.free = s.free ∧ u.free = t.free := by
    have := h.free
    have := g.free
    omega
  refine ⟨h.free.trans g.free, fun n => (g.fused n).trans (h.fused n), fun e => ?_, fun e m => ?_, fun e c line l hl hc => ?_,
    fun e c line l hl hc => ?_, fun e m stay core pa out => ?_⟩
  all_goals obtain ⟨e1, e2⟩ := split e
  · obtain ⟨mem, side⟩ := h.below e1
    obtain ⟨mem', side'⟩ := g.below e2
    exact ⟨mem'.trans mem, side'.trans side⟩
  · exact g.current e2 (h.current e1 m)
  · obtain ⟨l1, hl1, hc1, units1⟩ := h.own e1 c line l hl hc
    obtain ⟨l2, hl2, hc2, units2⟩ := g.own e2 c line l1 hl1 hc1
    exact ⟨l2, hl2, hc2, fun i x hi out hx => units2 i x hi (fun no => out (.inr no)) (units1 i x hi (fun no => out (.inl no)) hx)⟩
  · obtain ⟨l1, hl1, hc1⟩ := g.foreign e2 c line l hl hc
    exact h.foreign e1 c line l1 hl1 hc1
  · have first : ForeignStay ctx s t := fun c line l hl hc => by
      obtain ⟨l', hl', hc'⟩ := stay c line l hl hc
      exact g.foreign e2 c line l' hl' hc'
    have second : ForeignStay ctx t u := fun c line l hl hc => by
      obtain ⟨l', hl', hc'⟩ := h.foreign e1 c line l hl hc
      exact stay c line l' hl' hc'
    exact (g.memory e2 (h.current e1 m) second core pa fun no => out (.inr no)).trans
      (h.memory e1 m first core pa fun no => out (.inl no))

theorem mono {less : Nat → Prop} (h : L1Step ctx less s t) (le : ∀ n, less n → stored n) : L1Step ctx stored s t where
  free := h.free
  fused := h.fused
  below := h.below
  current := h.current
  own e c line l hl hc := by
    obtain ⟨l', hl', hc', units⟩ := h.own e c line l hl hc
    exact ⟨l', hl', hc', fun i x hi out => units i x hi fun no => out (le _ no)⟩
  foreign := h.foreign
  memory e m stay core pa out := h.memory e m stay core pa fun no => out (le _ no)

theorem trans_same (h : L1Step ctx stored s t) (g : L1Step ctx stored t u) : L1Step ctx stored s u :=
  (h.trans g).mono fun _ either => either.elim id id

end L1Step

/-! ### A line of another context leaves -/

/-- The dirty granules of an L1 line are stored at their home slice. -/
def State.dirtyHome (s : State) (line : Nat) (l : L1Line) : State :=
  l.units.foldl (fun s e => if e.2.2 then s.homePut (line * 128 + 4 * e.1) e.2.1 (some l.cz) else s) s

theorem State.l1Back_present {s : State} {c line : Nat} {l : L1Line} (h : (s.core c).l1.find line = some l) : s.l1Back c line =
    (s.dirtyHome line l).modCore c fun k =>
      { k with l1 := k.l1.alter line fun l => { l with units := l.units.map fun e => (e.1, e.2.1, false) } } := by
  unfold State.l1Back
  rw [h]
  rfl

theorem State.dirtyHome_frame (s : State) (line : Nat) (l : L1Line) : HomeFrame s (s.dirtyHome line l) :=
  HomeFrame.foldl (fun s e => by split; exacts [s.homePut_frame _ _ _, .refl s]) _ s

theorem State.dirtyHome_step (s : State) (line : Nat) (l : L1Line) : ∃ w, HomeStep w s (s.dirtyHome line l) := by
  unfold State.dirtyHome
  generalize l.units = us
  induction us generalizing s with
  | nil => exact ⟨_, .refl s⟩
  | cons e us ih =>
    rw [List.foldl_cons]
    cases e.2.2 with
    | true =>
      obtain ⟨w, rest⟩ := ih (s.homePut (line * 128 + 4 * e.1) e.2.1 (some l.cz))
      exact ⟨_, (s.homePut_step _ _ _).trans rest⟩
    | false => exact ih s

section Leave

variable {l : L1Line} (found : (s.core c).l1.find line = some l)

include found

theorem State.l1Leave_home : ∃ w, HomeStep w s ((s.l1Back c line).l1Drop c line) := by
  obtain ⟨w, step⟩ := s.dirtyHome_step line l
  rw [State.l1Back_present found]
  exact ⟨w, step.trans_reads (.of_same rfl rfl rfl rfl rfl rfl rfl)⟩

theorem State.l1Leave_clusters : ((s.l1Back c line).l1Drop c line).clusters = s.clusters := by
  rw [State.l1Back_present found]
  exact (congrArg State.clusters (s.dirtyHome_frame line l).rest :)

/-- Only that line leaves. -/
theorem State.l1Leave_find (d x : Nat) : (((s.l1Back c line).l1Drop c line).core d).l1.find x =
    if d = c ∧ x = line then none else (s.core d).l1.find x := by
  by_cases hd : d = c
  · subst hd
    rw [State.l1Back_present found, State.l1Drop, State.core_modCore_self, State.core_modCore_self]
    simp only
    by_cases hx : x = line
    · rw [if_pos ⟨trivial, hx⟩, hx, Map.find_del_self]
    · rw [if_neg fun both => hx both.2, Map.find_del_ne _ (Ne.symm hx), Map.find_alter, if_neg (Ne.symm hx)]
      exact congrArg (fun m => ((Map.getD m d Core.empty).l1.find x)) (s.dirtyHome_frame line l).cores
  · rw [if_neg fun both => hd both.1, (s.l1Leave_lines c line).1 d hd]

end Leave

/-- A line of another context goes home and leaves, and the line that an access finds is its context's own (log 111). -/
theorem State.ownLine_step (s : State) (c line ctx : Nat) : L1Step ctx stored s (s.ownLine c line ctx) ∧
    ∀ l, ((s.ownLine c line ctx).core c).l1.find line = some l → l.ctx = ctx := by
  unfold State.ownLine
  cases found : (s.core c).l1.find line with
  | none => exact ⟨.refl s, fun l hl => by rw [found] at hl; cases hl⟩
  | some l =>
    simp only
    split
    · next mine =>
      exact ⟨.refl s, fun l' hl => by rw [found] at hl; cases hl; exact mine⟩
    · next other =>
      have gone := State.l1Leave_find found
      obtain ⟨w, home⟩ := State.l1Leave_home found
      have kept {d x : Nat} {l' : L1Line} (hl : (s.core d).l1.find x = some l') (mine : l'.ctx = ctx) :
          (((s.l1Back c line).l1Drop c line).core d).l1.find x = some l' := by
        rw [gone, if_neg, hl]
        rintro ⟨rfl, rfl⟩
        rw [found] at hl
        cases hl
        exact other mine
      refine ⟨⟨home.free, fun n => ?_, home.sameStacks, home.current, 
        fun _ d x l' hl mine => ⟨l', kept hl mine, mine, fun _ _ _ _ h => h⟩,
        fun _ d x l' hl far => ⟨l', ?_, far⟩, fun _ _ stay => ?_⟩, fun l' hl => ?_⟩
      · unfold State.cluster
        rw [State.l1Leave_clusters found]
      · rw [gone] at hl
        split at hl
        · cases hl
        · exact hl
      · obtain ⟨l', hl, -⟩ := stay c line l found other
        rw [gone, if_pos ⟨rfl, rfl⟩] at hl
        cases hl
      · rw [gone, if_pos ⟨rfl, rfl⟩] at hl
        cases hl

/-! ### A line that an access leaves in its place -/

theorem State.putLine_find (s : State) (c line : Nat) (f : Option L1Line → L1Line) (d x : Nat) :
    ((s.putLine c line f).core d).l1.find x =
      if d = c ∧ x = line then some (f ((s.core c).l1.find line)) else (s.core d).l1.find x := by
  unfold State.putLine
  by_cases hd : d = c
  · subst hd
    rw [State.core_modCore_self]
    by_cases hx : x = line
    · rw [if_pos ⟨rfl, hx⟩, hx, Map.find_set_self]
    · rw [if_neg fun both => hx both.2, Map.find_set_ne _ _ (Ne.symm hx)]
  · rw [if_neg fun both => hd both.1, State.core_modCore_ne _ _ (Ne.symm hd)]

theorem State.putLine_home (s : State) (c line : Nat) (f : Option L1Line → L1Line) : HomeReads s (s.putLine c line f) :=
  .of_same rfl rfl rfl rfl rfl rfl rfl

/-- A granule has one unit at its home slice, whichever of its bytes names it (R52). -/
theorem State.home_granule (s : State) {a b : Nat} (h : a / 4 = b / 4) : s.home a = s.home b := by
  unfold State.home
  rw [show a / 128 = b / 128 by omega, h]

/-- An access puts the line of its context, which keeps what it held beside the stored granules, and holds else what its home slice
does. -/
theorem State.putLine_step {f : Option L1Line → L1Line} (mine : ∀ l, (s.core c).l1.find line = some l → l.ctx = ctx)
    (owned : (f ((s.core c).l1.find line)).ctx = ctx)
    (keeps : ∀ l, (s.core c).l1.find line = some l → ∀ i x, i < 32 → ¬stored (line * 32 + i) → l.units.find i = some x →
      (f ((s.core c).l1.find line)).units.find i = some x)
    (fills : ∀ i x, i < 32 → ¬stored (line * 32 + i) → (((s.core c).l1.find line).bind fun l => l.units.find i) = none →
      (f ((s.core c).l1.find line)).units.find i = some x → x.1 = s.home (line * 128 + 4 * i)) :
    L1Step ctx stored s (s.putLine c line f) where
  free := le_rfl
  fused _ := rfl
  below _ := ⟨rfl, rfl⟩
  current := (s.putLine_home c line f).current
  own _ d x l hl hc := by
    rw [State.putLine_find]
    split
    · next same =>
      obtain ⟨rfl, rfl⟩ := same
      exact ⟨_, rfl, owned, keeps l hl⟩
    · exact ⟨l, hl, hc, fun _ _ _ _ h => h⟩
  foreign _ d x l hl hc := by
    rw [State.putLine_find] at hl
    split at hl
    · cases hl
      exact absurd owned hc
    · exact ⟨l, hl, hc⟩
  memory hf current _ core pa out := by
    have home := (s.putLine_home c line f).home hf current
    have place : (s.putLine c line f).l1Core core (pa / 128) = s.l1Core core (pa / 128) := rfl
    unfold State.peek State.l1Unit
    rw [place, State.putLine_find, home]
    by_cases same : s.l1Core core (pa / 128) = c ∧ pa / 128 = line
    · obtain ⟨rfl, rfl⟩ := same
      rw [if_pos ⟨rfl, rfl⟩, Option.bind_some]
      have slot : pa / 4 % 32 < 32 := Nat.mod_lt _ (by decide)
      have unstored : ¬stored (pa / 128 * 32 + pa / 4 % 32) := by
        rwa [show pa / 128 * 32 + pa / 4 % 32 = pa / 4 by omega]
      have keep := fun l hl x => keeps l hl _ x slot unstored
      have fill := fun x => fills _ x slot unstored
      rw [State.home_granule s (show (pa / 128 * 128 + 4 * (pa / 4 % 32)) / 4 = pa / 4 by omega)] at fill
      cases held : (s.core (s.l1Core core (pa / 128))).l1.find (pa / 128) with
      | none =>
        rw [held] at fill
        cases now : (f none).units.find (pa / 4 % 32) with
        | none => rfl
        | some x => exact fill x rfl now
      | some l =>
        rw [held] at fill keep
        cases before : l.units.find (pa / 4 % 32) with
        | none =>
          cases now : (f (some l)).units.find (pa / 4 % 32) with
          | none => simp [before]
          | some x => simpa [before] using fill x before now
        | some x => simp [before, keep l rfl x before]
    · rw [if_neg same]
      rfl

/-! ### Weak stores and loads -/

theorem State.modCore_l1 (s : State) (c d : Nat) {f : Core → Core} (h : ∀ k, (f k).l1 = k.l1) :
    ((s.modCore c f).core d).l1 = (s.core d).l1 := by
  by_cases hd : c = d
  · rw [hd, State.core_modCore_self, h]
  · rw [State.core_modCore_ne _ _ hd]

theorem State.vtaLookup_same (s : State) (core slot line : Nat) : HomeReads s (s.vtaLookup core slot line) ∧
    (∀ c, ((s.vtaLookup core slot line).core c).l1 = (s.core c).l1) ∧ (s.vtaLookup core slot line).clusters = s.clusters := by
  unfold State.vtaLookup
  simp only
  split
  · refine ⟨.of_same rfl rfl rfl rfl rfl rfl rfl, fun c => ?_, rfl⟩
    unfold State.modWave
    refine (State.modCore_l1 _ _ _ ?_).trans (State.modCore_l1 _ _ _ ?_)
    · exact fun _ => rfl
    · exact fun _ => rfl
  · exact ⟨.refl s, fun _ => rfl, rfl⟩

/-- Room is there, or a line leaves by a free choice (R71, log 78). -/
theorem State.l1Room_cases (s : State) (c line : Nat) : (s.l1Room c line).clusters = s.clusters ∧
    (s.l1Room c line = s ∨ s.free < (s.l1Room c line).free) := by
  unfold State.l1Room
  split
  · exact ⟨rfl, .inl rfl⟩
  · simp only
    split
    · exact ⟨rfl, .inl rfl⟩
    · generalize ((s.core c).l1.filter _).map _ = ways
      have drawn : s.free < s.freeWord.2.free := Nat.lt_succ_self _
      generalize s.freeWord.1.toNat % ways.length = n
      have same : s.freeWord.2.clusters = s.clusters := rfl
      change (s.freeWord.2.l1Evict c (ways.getD n 0)).clusters = _ ∧ (_ ∨ s.free < (s.freeWord.2.l1Evict c (ways.getD n 0)).free)
      generalize s.freeWord.2 = t at drawn same
      unfold State.l1Evict
      cases found : (t.core c).l1.find (ways.getD n 0) with
      | none => exact ⟨same, .inr drawn⟩
      | some l =>
        obtain ⟨w, home⟩ := State.l1Leave_home found
        exact ⟨(State.l1Leave_clusters found).trans same, .inr (drawn.trans_le home.free)⟩

/-- A miss makes room, which where no free choice is drawn moves no line. -/
theorem State.miss_step (s : State) (core slot c line : Nat) : L1Step ctx stored s ((s.vtaLookup core slot line).l1Room c line) ∧
    (((s.vtaLookup core slot line).l1Room c line).free = s.free →
      ∀ d, (((s.vtaLookup core slot line).l1Room c line).core d).l1 = (s.core d).l1) := by
  obtain ⟨home, l1, clusters⟩ := s.vtaLookup_same core slot line
  obtain ⟨clusters', room | drawn⟩ := (s.vtaLookup core slot line).l1Room_cases c line
  · rw [room]
    exact ⟨.of_home home l1 clusters, fun _ => l1⟩
  · have drawn' := home.free.trans_lt drawn
    exact ⟨.of_drawn (fun n => by unfold State.cluster; rw [clusters', clusters]) drawn', fun same => absurd same drawn'.ne'⟩

/-- Before an access puts its line, its place holds none of another context. -/
theorem State.storeReady_step (s : State) (core slot line : Nat) : L1Step ctx stored s (s.storeReady core slot ctx line) ∧
    ((s.storeReady core slot ctx line).free = s.free →
      ∀ l, ((s.storeReady core slot ctx line).core (s.l1Core core line)).l1.find line = some l → l.ctx = ctx) := by
  obtain ⟨own, mine⟩ := s.ownLine_step (s.l1Core core line) line ctx (stored := stored)
  unfold State.storeReady
  simp only
  split
  · exact ⟨own, fun _ => mine⟩
  · obtain ⟨miss, lines⟩ := (s.ownLine (s.l1Core core line) line ctx).miss_step core slot (s.l1Core core line) line
      (ctx := ctx) (stored := stored)
    refine ⟨own.trans_same miss, fun same l hl => mine l ?_⟩
    rwa [lines (le_antisymm (same.le.trans own.free) miss.free)] at hl

theorem storedLine_other {bind slot i j : Nat} {cz : Bool} {u : GUnit} {l : Option L1Line} (h : i ≠ j) :
    (storedLine ctx bind slot cz i u l).units.find j = l.bind fun l => l.units.find j := by
  unfold storedLine
  rw [Map.find_set_ne _ _ h]
  cases l <;> rfl

/-- A weak store writes its granule and no other (R71). -/
theorem State.weakPut_step (s : State) (core slot pa bind : Nat) (cz : Bool) (u : GUnit) :
    L1Step ctx (fun n => n = pa / 4) s (s.weakPut core slot ctx pa bind cz u) := by
  obtain ⟨ready, mine⟩ := s.storeReady_step core slot (pa / 128) (ctx := ctx) (stored := fun n => n = pa / 4)
  rw [State.weakPut_eq]
  by_cases drawn : s.free < (s.storeReady core slot ctx (pa / 128)).free
  · exact .of_drawn ready.fused drawn
  · have same := le_antisymm (not_lt.1 drawn) ready.free
    have other {i : Nat} (hi : i < 32) (out : ¬pa / 128 * 32 + i = pa / 4) : pa / 4 % 32 ≠ i := by omega
    refine ready.trans_same (State.putLine_step (mine same) rfl (fun l hl i x hi out hx => ?_) fun i x hi out absent hx => ?_)
    · rw [storedLine_other (other hi out), hl]
      exact hx
    · rw [storedLine_other (other hi out), absent] at hx
      cases hx

/-- The granule of a weak store lies in an L1 line of its context. -/
theorem State.weakPut_line (s : State) (core slot pa bind : Nat) (cz : Bool) (u : GUnit) :
    ∃ l, ((s.weakPut core slot ctx pa bind cz u).core (s.l1Core core (pa / 128))).l1.find (pa / 128) = some l ∧ l.ctx = ctx ∧
      l.units.find (pa / 4 % 32) = some (u, true) := by
  rw [State.weakPut_eq, State.putLine_find, if_pos ⟨rfl, rfl⟩]
  exact ⟨_, rfl, rfl, Map.find_set_self _ _ _⟩

/-- What a line held stays in it. -/
theorem loadedLine_held {bind slot i : Nat} {cz : Bool} {us : List GUnit} {l : Option L1Line} {x : GUnit × Bool}
    (held : (l.bind fun l => l.units.find i) = some x) : (loadedLine ctx bind slot cz us l).units.find i = some x := by
  have held' : (l.getD ⟨ctx, bind, slot, cz, []⟩).units.find i = some x := by
    cases l with
    | none => cases held
    | some l => exact held
  unfold loadedLine
  simp only
  refine List.foldlRecOn (motive := fun m : Map (GUnit × Bool) => m.find i = some x) _ _ held' fun m hm y _ => ?_
  split
  · next absent =>
    refine (Map.find_set_ne _ _ fun same => ?_).trans hm
    rw [same, held'] at absent
    cases absent
  · exact hm

/-- What a line takes comes from its home slice. -/
theorem loadedLine_taken {bind slot i : Nat} {cz : Bool} {us : List GUnit} {l : Option L1Line} {x : GUnit × Bool}
    (absent : (l.bind fun l => l.units.find i) = none) (now : (loadedLine ctx bind slot cz us l).units.find i = some x) :
    us[i]? = some x.1 := by
  have absent' : (l.getD ⟨ctx, bind, slot, cz, []⟩).units.find i = none := by
    cases l with
    | none => rfl
    | some l => simpa using absent
  unfold loadedLine at now
  simp only at now
  revert x now
  refine List.foldlRecOn (motive := fun m : Map (GUnit × Bool) => ∀ {x}, m.find i = some x → us[i]? = some x.1) _ _
    (fun {x} hx => ?_) fun m hm y hy x hx => ?_
  · rw [absent'] at hx
    cases hx
  · split at hx
    · by_cases same : y.2 = i
      · rw [same, Map.find_set_self] at hx
        cases hx
        exact same ▸ List.mem_zipIdx_iff_getElem?.1 hy
      · rw [Map.find_set_ne _ _ same] at hx
        exact hm hx
    · exact hm hx

theorem State.loadReady_step (s : State) (core slot pa : Nat) (cz : Bool) : L1Step ctx stored s (s.loadReady core slot ctx pa cz) ∧
    ((s.loadReady core slot ctx pa cz).free = s.free →
      ∀ l, ((s.loadReady core slot ctx pa cz).core (s.l1Core core (pa / 128))).l1.find (pa / 128) = some l → l.ctx = ctx) ∧
    ((s.loadReady core slot ctx pa cz).l2.find (pa / 128)).isSome = true := by
  obtain ⟨own, mine⟩ := s.ownLine_step (s.l1Core core (pa / 128)) (pa / 128) ctx (stored := stored)
  obtain ⟨miss, lines⟩ := (s.ownLine (s.l1Core core (pa / 128)) (pa / 128) ctx).miss_step core slot
    (s.l1Core core (pa / 128)) (pa / 128) (ctx := ctx) (stored := stored)
  have before := own.trans_same miss
  unfold State.loadReady State.homeFill
  simp only
  generalize ((s.ownLine (s.l1Core core (pa / 128)) (pa / 128) ctx).vtaLookup core slot (pa / 128)).l1Room
    (s.l1Core core (pa / 128)) (pa / 128) = t at miss lines before
  have frame := t.l2Fill_frame (pa / 128) (some cz)
  have cores (c : Nat) : (t.l2Fill (pa / 128) (some cz)).core c = t.core c := congrArg (fun m => Map.getD m c Core.empty) frame.cores
  refine ⟨before.trans_same (.of_home (t.l2Fill_step _ _) (fun c => by rw [cores]) (congrArg State.clusters frame.rest :)),
    fun same l hl => mine l ?_, t.l2Fill_present _ _⟩
  rw [cores] at hl
  have first := own.free
  have second := miss.free
  have third := frame.free
  rwa [lines (by omega)] at hl

/-- A weak load writes nothing (R71). -/
theorem State.weakGet_step (s : State) (core slot pa bind : Nat) (cz : Bool) :
    L1Step ctx stored s (s.weakGet core slot ctx pa bind cz).2 := by
  rcases s.weakGet_cases core slot ctx pa bind cz with held | fetched
  · rw [held]
    exact (s.ownLine_step _ _ ctx).1
  · rw [fetched]
    obtain ⟨ready, mine, present⟩ := s.loadReady_step core slot pa cz (ctx := ctx) (stored := stored)
    by_cases drawn : s.free < (s.loadReady core slot ctx pa cz).free
    · exact .of_drawn ready.fused drawn
    · have same := le_antisymm (not_lt.1 drawn) ready.free
      obtain ⟨y, hy⟩ := Option.isSome_iff_exists.1 present
      refine ready.trans_same (State.putLine_step (mine same) rfl (fun l hl i x hi out hx => ?_) fun i x hi out absent hx => ?_)
      · exact loadedLine_held (by rw [hl]; exact hx)
      · have unit := loadedLine_taken absent hx
        unfold State.lineUnits at unit
        unfold State.home
        rw [show (pa / 128 * 128 + 4 * i) / 128 = pa / 128 by omega, show (pa / 128 * 128 + 4 * i) / 4 % 32 = i by omega]
        simp only [hy, Option.elim_some] at unit ⊢
        rw [List.getD_eq_getElem?_getD, unit]
        rfl

theorem State.devPut_same (s : State) (pa : Nat) (u : GUnit) : HomeReads s (s.devPut pa u) ∧ (s.devPut pa u).cores = s.cores ∧
    (s.devPut pa u).clusters = s.clusters := by
  have sent (a : Nat) (m : Traffic) : HomeReads s (s.traffic a m) ∧ (s.traffic a m).cores = s.cores ∧
      (s.traffic a m).clusters = s.clusters := by
    unfold State.traffic
    split <;> exact ⟨.of_same rfl rfl rfl rfl rfl rfl rfl, rfl, rfl⟩
  unfold State.devPut
  split
  · obtain ⟨home, cores, clusters⟩ := sent pa (.poisoned pa)
    exact ⟨home.trans_reads (.of_same rfl rfl rfl rfl rfl rfl rfl), cores, clusters⟩
  · exact sent _ _

theorem State.escape_step (s : State) (p : Pod) (w : Wave) : L1Step ctx stored s (s.escape p w) := by
  refine .of_home (.of_same rfl rfl rfl rfl rfl rfl rfl) (fun c => ?_) rfl
  unfold State.escape State.modCrew
  exact State.modCore_l1 _ _ _ fun _ => rfl

theorem State.devGet_drawn (s : State) (pa : Nat) : (s.devGet pa).2.clusters = s.clusters ∧ s.free < (s.devGet pa).2.free := by
  have sent (a : Nat) (m : Traffic) : (s.traffic a m).clusters = s.clusters ∧ (s.traffic a m).free = s.free := by
    unfold State.traffic
    split <;> exact ⟨rfl, rfl⟩
  obtain ⟨clusters, free⟩ := sent pa (.read pa)
  unfold State.devGet
  simp only
  split
  · exact ⟨clusters, by change s.free < (s.traffic pa (.read pa)).free + 1 + 1; omega⟩
  · exact ⟨clusters, by change s.free < (s.traffic pa (.read pa)).free + 1; omega⟩

/-- The granule of HBM that a place names. -/
def Xlat.names (x : Xlat) (g : Nat) : Prop := ∃ pa bind ms cz, x = .mem pa bind ms cz ∧ pa < hbmSize ∧ pa / 4 = g

variable {p : Pod} {w : Wave} {k : Crew}

theorem State.storeAt_step (s : State) {x : Xlat} (out : x.outside) (u : GUnit) :
    L1Step k.ctx x.names s (s.storeAt p w k x u false) := by
  cases x with
  | spad off => cases out
  | mem pa bind ms cz =>
    unfold State.storeAt
    simp only
    split
    · obtain ⟨home, cores, clusters⟩ := s.devPut_same pa u
      have sent : L1Step k.ctx (Xlat.mem pa bind ms cz).names s (s.devPut pa u) :=
        .of_home home (fun c => by unfold State.core; rw [cores]) clusters
      split
      · exact sent
      · exact sent.trans_same (State.escape_step _ _ _)
    · next inside =>
      exact (s.weakPut_step p.core p.slot pa bind cz u).mono fun g hg => ⟨pa, bind, ms, cz, rfl, not_le.1 inside, hg.symm⟩
  | fault c => exact .refl s
  | replay page cond level => exact .refl s

theorem State.loadAt_step (s : State) (x : Xlat) : L1Step k.ctx stored s (s.loadAt p w k x false).2 := by
  cases x with
  | spad off => exact .refl s
  | mem pa bind ms cz =>
    unfold State.loadAt
    simp only
    split
    · obtain ⟨clusters, drawn⟩ := s.devGet_drawn pa
      exact .of_drawn (fun n => by unfold State.cluster; rw [clusters]) drawn
    · exact s.weakGet_step p.core p.slot pa bind cz
  | fault c => exact .refl s
  | replay page cond level => exact .refl s

theorem State.loadFrom_step (s : State) (seen : List (Xlat × GUnit)) (l : List Slotted) :
    L1Step k.ctx stored s (s.loadFrom p w k false seen l).2 := by
  induction l generalizing s seen with
  | nil => exact .refl s
  | cons x l ih =>
    unfold State.loadFrom
    split
    next u t hx =>
    have moved : L1Step k.ctx stored s t := by
      split at hx
      · cases hx; exact .refl s
      · have moved := s.loadAt_step x.at_ (p := p) (w := w) (k := k) (stored := stored)
        rwa [hx] at moved
    exact moved.trans_same (ih t _)

/-! ### Stores of sound units -/

/-- A sound unit leaves any port, so no transfer ends (R20). -/
theorem State.storeAll_eq (s : State) (strong : Bool) {l : List (Slotted × GUnit)} (sound : ∀ x ∈ l, x.2.ok = true) :
    s.storeAll p w k strong l = l.foldl (fun s x => s.storeAt p w k x.1.at_ x.2 strong) s := by
  unfold State.storeAll
  induction l generalizing s with
  | nil => rfl
  | cons x l ih =>
    obtain ⟨x, u⟩ := x
    have leaves : x.at_.refuses u = false := by
      have good : u.ok = true := sound _ List.mem_cons_self
      unfold Xlat.refuses exitFails
      split <;> simp [good]
    rw [List.foldl_cons, ← ih _ fun y hy => sound y (List.mem_cons_of_mem _ hy), State.storeFrom]
    simp [leaves]

theorem State.stores_access (s : State) {l : List (Slotted × GUnit)} (out : ∀ x ∈ l, x.1.at_.outside) :
    AccessFrame p w.crew s (l.foldl (fun s x => s.storeAt p w k x.1.at_ x.2 false) s) := by
  induction l generalizing s with
  | nil => exact .refl s
  | cons x l ih =>
    exact (s.storeAt_access w k (out _ List.mem_cons_self) x.2).trans (ih _ fun y hy => out y (List.mem_cons_of_mem _ hy))

theorem State.stores_step (s : State) {l : List (Slotted × GUnit)} (out : ∀ x ∈ l, x.1.at_.outside) :
    L1Step k.ctx (fun g => ∃ x ∈ l, x.1.at_.names g) s (l.foldl (fun s x => s.storeAt p w k x.1.at_ x.2 false) s) := by
  induction l generalizing s with
  | nil => exact .refl s
  | cons x l ih =>
    refine ((s.storeAt_step (out _ List.mem_cons_self) x.2).trans (ih _ fun y hy => out y (List.mem_cons_of_mem _ hy))).mono ?_
    rintro g (here | ⟨y, hy, later⟩)
    · exact ⟨x, List.mem_cons_self, here⟩
    · exact ⟨y, List.mem_cons_of_mem _ hy, later⟩

/-- The last store to a granule decides what the storing core reads there. -/
theorem State.stores_unit (s : State) {l : List (Slotted × GUnit)} (out : ∀ x ∈ l, x.1.at_.outside) {j : Nat} {x : Slotted} {u : GUnit}
    (here : l[j]? = some (x, u)) {pa bind : Nat} {ms cz : Bool} (at_ : x.at_ = .mem pa bind ms cz) (inside : pa < hbmSize)
    (last : ∀ y ∈ l.drop (j + 1), ¬y.1.at_.names (pa / 4))
    (after : L1Step k.ctx (fun _ => False) (l.foldl (fun s x => s.storeAt p w k x.1.at_ x.2 false) s) t) (same : t.free = s.free) :
    t.peek p.core pa = u := by
  obtain ⟨hj, value⟩ := List.getElem?_eq_some_iff.1 here
  have cut : l = l.take j ++ (x, u) :: l.drop (j + 1) := by
    rw [← value, List.cons_getElem_drop_succ, List.take_append_drop]
  have before := s.stores_step (p := p) (w := w) (k := k) (l := l.take j) fun y hy => out y (List.mem_of_mem_take hy)
  rw [cut, List.foldl_append, List.foldl_cons] at after
  generalize (l.take j).foldl (fun s x => s.storeAt p w k x.1.at_ x.2 false) s = a at before after
  have put := a.storeAt_step (p := p) (w := w) (k := k) (out _ (List.mem_of_getElem? here)) u
  have rest := (a.storeAt p w k x.at_ u false).stores_step (p := p) (w := w) (k := k) (l := l.drop (j + 1))
    fun y hy => out y (List.mem_of_mem_drop hy)
  have stored : a.storeAt p w k x.at_ u false = a.weakPut p.core p.slot k.ctx pa bind cz u := by
    rw [at_]
    unfold State.storeAt
    simp only
    rw [if_neg (not_le.2 inside)]
    rfl
  have later := rest.trans after
  obtain ⟨line, found, owned, unit⟩ := a.weakPut_line p.core p.slot pa bind cz u (ctx := k.ctx)
  rw [stored] at later put
  obtain ⟨line', found', -, units⟩ := later.own
    (le_antisymm (same.le.trans (before.free.trans put.free)) later.free) _ _ line found owned
  have kept : line'.units.find (pa / 4 % 32) = some (u, true) := by
    refine units _ _ (Nat.mod_lt _ (by decide)) ?_ unit
    rw [show pa / 128 * 32 + pa / 4 % 32 = pa / 4 by omega]
    rintro (⟨y, hy, names⟩ | none)
    · exact last y hy names
    · exact none
  have place : t.l1Core p.core (pa / 128) = a.l1Core p.core (pa / 128) := by
    unfold State.l1Core
    rw [later.fused, put.fused]
  unfold State.peek State.l1Unit
  rw [place, found', Option.bind_some, kept]

end L1Steps

/-! ### Calls and returns (R162, R240, R242) -/

section Frames

variable {s s1 : State} {p : Pod} {w : Wave} {k : Crew} {i : Instr} {ls : List Nat} {places : List Slotted}

/-- A change of some lanes' threads, each once, mends parity keys and changes nothing else of the wave. -/
theorem foldl_modThread (keys : Wave → Nat → List Nat) (g : Nat → Thread → Thread) (nodup : ls.Nodup) (v : Wave) :
    let v' := ls.foldl (fun w l => (w.mend (keys w l)).modThread l (g l)) v
    { v' with threads := v.threads, parity := v.parity } = v ∧
      ∀ l th, v.threads.find l = some th → v'.threads.find l = some (if l ∈ ls then g l th else th) := by
  induction ls generalizing v with
  | nil => exact ⟨rfl, fun l th h => by simpa using h⟩
  | cons l ls ih =>
    obtain ⟨new, rest⟩ := List.nodup_cons.1 nodup
    obtain ⟨same, threads⟩ := ih rest ((v.mend (keys v l)).modThread l (g l))
    refine ⟨congrArg (fun x : Wave => { x with threads := v.threads, parity := v.parity }) same, fun j th hth => ?_⟩
    have first : ((v.mend (keys v l)).modThread l (g l)).threads.find j = some (if j = l then g l th else th) := by
      unfold Wave.modThread Wave.mend
      rw [Map.find_alter, hth]
      by_cases hj : j = l
      · simp [hj]
      · simp [hj, Ne.symm hj]
    refine (threads j _ first).trans (congrArg some ?_)
    by_cases hj : j = l
    · simp [hj, new]
    · simp [hj]

/-- Threads that move as their new PCs and the change of their frames say. -/
theorem moves_modThread (keys : Wave → Nat → List Nat) (g : Nat → Thread → Thread) (nodup : ls.Nodup) (sub : ls ⊆ p.lanes)
    {next : Nat → VAddr} {move : Nat → Thread → Thread}
    (moved : ∀ l ∈ p.lanes, ∀ th, w.threads.find l = some th →
      ({ (if l ∈ ls then g l th else th) with pc := next l } : Thread).seen = (move l th).seen) :
    Moves p w next move fun v => ls.foldl (fun w l => (w.mend (keys w l)).modThread l (g l)) v where
  same v := (foldl_modThread keys g nodup v).1
  threads v l th same hth := by
    refine ⟨_, (foldl_modThread keys g nodup v).2 l th (by rw [same, hth]), ?_⟩
    by_cases hl : l ∈ p.lanes
    · simp only [if_pos hl]
      exact moved l hl th hth
    · simp only [if_neg hl, if_neg fun no => hl (sub no)]

theorem State.retired_step {ctx : Nat} {stored : Nat → Prop} (s : State) (f : Wave → Wave) (next : Nat → VAddr) :
    L1Step ctx stored s ((s.modWave p.core p.slot f).retireWith p true next) := by
  refine .of_home (.of_same rfl rfl rfl rfl rfl rfl rfl) (fun c => ?_) rfl
  have crewL1 (s : State) (ki : Nat) (g : Crew → Crew) : ((s.modCrew p.core ki g).core c).l1 = (s.core c).l1 :=
    State.modCore_l1 _ _ _ fun _ => rfl
  have waveL1 (s : State) (g : Wave → Wave) : ((s.modWave p.core p.slot g).core c).l1 = (s.core c).l1 :=
    State.modCore_l1 _ _ _ fun _ => rfl
  exact (crewL1 _ _ _).trans ((waveL1 _ _).trans (waveL1 s f))

/-! The granules of the frames. -/

/-- Two granules of each access, in order. -/
theorem granules_two (va : Nat) : granules va 2 = [va, va + 4] := rfl

theorem pairs_getElem? (l : List (Nat × Nat)) (j : Nat) {m : Nat} (hm : m < 2) :
    (l.flatMap fun e => (granules e.2 2).map fun va => (e.1, va))[2 * j + m]? = l[j]?.map fun e => (e.1, e.2 + 4 * m) := by
  induction l generalizing j with
  | nil => rfl
  | cons e l ih =>
    rw [List.flatMap_cons, granules_two]
    cases j with
    | zero => interval_cases m <;> rfl
    | succ j =>
      rw [show 2 * (j + 1) + m = 2 * j + m + 1 + 1 by omega]
      exact ih j

/-! A frame that fits lies outside any scratchpad (R27, R162). -/

theorem State.xlat_outside (s : State) (g : Agent) (text : Bool) (va : Nat) (acc : Access) : (s.xlat g text va acc).1.outside := by
  unfold State.xlat
  simp only
  split
  · split <;> trivial
  · split
    · trivial
    · trivial
    · split
      · trivial
      · split <;> trivial

theorem State.xlatGlobal_outside (s : State) (g : Agent) (va : Nat) (acc : Access) : (s.xlatGlobal g va acc).1.outside := by
  unfold State.xlatGlobal
  split
  · exact s.xlat_outside _ _ _ _
  · split
    · trivial
    · split <;> trivial

theorem State.translate_outside (s : State) (g : Agent) (va : Nat) (acc : Access) (out : va / 2 ^ 55 = 6 → 2 ^ 18 ≤ va % 2 ^ 55) :
    (s.translate g va acc).1.outside := by
  unfold State.translate
  simp only
  split
  · split
    · exact s.xlat_outside _ _ _ _
    · trivial
  · split
    · exact s.xlatGlobal_outside _ _ _
    · split
      · split
        · trivial
        · exact s.xlat_outside _ _ _ _
      · split
        · split
          · trivial
          · split
            · trivial
            · exact s.xlatGlobal_outside _ _ _
        · split
          · next six =>
            rw [if_pos (.inl (out six))]
            trivial
          · trivial

/-- A frame that fits lies below the end of region 5, or where a thread's region is greater than region 5, above the scratchpads. -/
theorem frameVa_bounds {sz j : Nat} (fits : j < 2 ^ (sz - 5)) :
    (sz ≤ 55 → frameVa sz j + 8 ≤ 6 * 2 ^ 55) ∧
      (sz = 56 → 6 * 2 ^ 55 + 2 ^ 18 ≤ frameVa sz j ∧ frameVa sz j + 8 ≤ 7 * 2 ^ 55) ∧ (57 ≤ sz → 7 * 2 ^ 55 ≤ frameVa sz j) := by
  unfold frameVa
  refine ⟨fun small => ?_, fun same => ?_, fun big => ?_⟩
  · have := Nat.pow_le_pow_right (n := 2) (by decide) small
    omega
  · subst same
    omega
  · obtain ⟨n, rfl⟩ := Nat.exists_eq_add_of_le big
    have cut : 57 + n - 5 = 52 + n := by omega
    rw [cut, pow_add] at fits
    rw [pow_add]
    have := Nat.one_le_two_pow (n := n)
    generalize 2 ^ n = x at *
    omega

theorem frameVa_outside {sz j m : Nat} (fits : j < 2 ^ (sz - 5)) (hm : m < 2) (six : (frameVa sz j + 4 * m) / 2 ^ 55 = 6) :
    2 ^ 18 ≤ (frameVa sz j + 4 * m) % 2 ^ 55 := by
  obtain ⟨small, same, big⟩ := frameVa_bounds fits
  generalize frameVa sz j = va at *
  by_cases h : sz ≤ 55
  · have := small h
    omega
  · by_cases h' : sz = 56
    · have := same h'
      omega
    · have := big (by omega)
      omega

theorem frameVa_dvd (sz j : Nat) : frameVa sz j % 8 = 0 := by
  unfold frameVa
  by_cases h : 3 ≤ sz
  · obtain ⟨n, rfl⟩ := Nat.exists_eq_add_of_le h
    rw [pow_add]
    omega
  · have := Nat.pow_le_pow_right (n := 2) (by decide) (show sz ≤ 2 by omega)
    omega

/-! What a call spills. -/

theorem spills_eq (w : Wave) (sz : Nat) (ls : List Nat) : spills w sz ls =
    ((ls.filter fun l => decide (16 ≤ (w.thread l).stack.length)).map fun l => (l, frameVa sz ((w.thread l).depth - 16))).map
      fun e => (e.1, some e.2) := by
  induction ls with
  | nil => rfl
  | cons l ls ih =>
    unfold spills at ih ⊢
    by_cases full : 16 ≤ (w.thread l).stack.length
    · simp [full, ih]
    · simp [full, ih]

/-- A half of a spilled frame, in the order of its granules. -/
theorem spilledHalf {va m : Nat} (f : BitVec 64) (base : va % 8 = 0) (hm : m < 2) :
    (if (va + 4 * m) % 8 = 0 then lo32 f else hi32 f) = (f >>> (32 * m)).setWidth 32 := by
  interval_cases m
  · rw [if_pos (by omega)]
    simp [lo32]
  · rw [if_neg (by omega)]
    rfl

/-- A call's state: the frames spilled, and the threads of the taking lanes moved to its target. -/
def State.called (s : State) (p : Pod) (w : Wave) (k : Crew) (ls : List Nat) (places : List Slotted) (deep : Bool)
    (target : VAddr) : State :=
  let t := s.storeAll p w k false (spillUnits w places)
  let pushed := (if deep then t.escape p w else t).modWave p.core p.slot fun w => ls.foldl (fun w l =>
    (w.mend [parFrame l (w.thread l).depth]).modThread l fun t => t.push (BitVec.ofNat 64 (p.pc + 4#58).toNat)) w
  pushed.retireWith p true fun l => if ls.contains l then target else p.after

section Call

variable {target : VAddr}

theorem callTo_stack {l : Nat} (deepest : (ls.find? fun l => decide ((w.thread l).depth ≥ maxDepth (s.ctx k.ctx).privsz)) = some l) :
    callTo s p w k ls target = .trap s (.plain .stack l) := by
  unfold callTo
  simp only [deepest]

theorem callTo_called (room : ∀ l ∈ ls, (w.thread l).depth < maxDepth (s.ctx k.ctx).privsz)
    (gathered : s.gather p w k .write 4 2 (spills w (s.ctx k.ctx).privsz ls) = (.ok places, s1)) :
    ∃ deep, callTo s p w k ls target = .done (s1.called p w k ls places deep target) := by
  have shallow : (ls.find? fun l => decide ((w.thread l).depth ≥ maxDepth (s.ctx k.ctx).privsz)) = none :=
    List.find?_eq_none.2 fun l hl => by simpa using room l hl
  unfold callTo
  simp only [shallow, gathered, withPlaces]
  exact ⟨_, rfl⟩

/-- What becomes of a thread of a pod that calls in the lanes `ls`. -/
def Pod.calling (p : Pod) (ls : List Nat) (target : VAddr) (l : Nat) (th : Thread) : Thread :=
  if l ∈ ls then { th with pc := target, stack := BitVec.ofNat 64 (p.pc + 4#58).toNat :: th.stack.take 15, depth := th.depth + 1 }
  else { th with pc := p.after }

/-- Each thread that calls pushes its return address and goes to the target. -/
theorem calls_moves (nodup : ls.Nodup) (sub : ls ⊆ p.lanes) :
    Moves p w (fun l => if ls.contains l then target else p.after)
      (p.calling ls target)
      fun v => ls.foldl (fun w l =>
        (w.mend [parFrame l (w.thread l).depth]).modThread l fun t => t.push (BitVec.ofNat 64 (p.pc + 4#58).toNat)) v :=
  moves_modThread _ (fun _ t => t.push (BitVec.ofNat 64 (p.pc + 4#58).toNat)) nodup sub fun l _ th _ => by
    by_cases hl : l ∈ ls
    · simp [hl, Pod.calling, Thread.push, Thread.seen]
    · simp [hl, Pod.calling, Thread.seen]

/-- What the obligation says of a call in the lanes `ls` to one target. -/
def Calls (s : State) (p : Pod) (w : Wave) (k : Crew) (i : Instr) (ls : List Nat) (target : VAddr) : Prop :=
  let sz := (s.ctx k.ctx).privsz
  (∀ l ∈ ls, w.spillBad l = false) →
    (∀ l, (ls.find? fun l => decide ((w.thread l).depth ≥ maxDepth sz)) = some l →
      exec i s = .next (s.raise p w k (.plain .stack l))) ∧
    ((∀ l ∈ ls, (w.thread l).depth < maxDepth sz) → ∀ places s1, s.gather p w k .write 4 2 (spills w sz ls) = (.ok places, s1) →
      ∃ t w', exec i s = .next t ∧
        Kept s t p w w' k (fun _ => False) (p.calling ls target) ∧
        w'.idempc = w.idempc ∧ (Undisturbed s1 t → SameStacks s1 t) ∧ (Steady s1 t → SameMemoryBut (placed places) s1 t) ∧
        ∀ j l, (ls.filter fun l => decide (16 ≤ (w.thread l).stack.length))[j]? = some l → ∀ m, m < 2 →
          ∃ x, places[2 * j + m]? = some x ∧ x.lane = l ∧
            x.va = 5 * 2 ^ 55 + (2 ^ sz - 8 * ((w.thread l).depth - 16 + 1)) + 4 * m ∧
            ∀ pa bind ms cz, x.at_ = .mem pa bind ms cz → pa < hbmSize → Undisturbed s1 t →
              ¬placed (places.drop (2 * j + m + 1)) (pa / 4) →
              t.peek p.core pa = coded (((w.thread l).stack.getLastD 0 >>> (32 * m)).setWidth 32))

theorem spillUnits_sound (w : Wave) (places : List Slotted) : ∀ x ∈ spillUnits w places, x.2.ok = true := fun y hy => by
  obtain ⟨x, -, rfl⟩ := List.mem_map.1 hy
  exact coded_ok _

section Spilled

theorem placed_iff {l : List Slotted} {g : Nat} : (∃ x ∈ spillUnits w l, x.1.at_.names g) ↔ placed l g := by
  unfold spillUnits
  simp only [List.mem_map, exists_exists_and_eq_and]
  rfl

variable (room : ∀ l ∈ ls, (w.thread l).depth < maxDepth (s.ctx k.ctx).privsz)
  (gathered : s.gather p w k .write 4 2 (spills w (s.ctx k.ctx).privsz ls) = (.ok places, s1))

include gathered

theorem spilled_getElem? {j l m : Nat} (full : (ls.filter fun l => decide (16 ≤ (w.thread l).stack.length))[j]? = some l) (hm : m < 2) :
    ∃ x, places[2 * j + m]? = some x ∧ x.lane = l ∧ x.va = frameVa (s.ctx k.ctx).privsz ((w.thread l).depth - 16) + 4 * m := by
  rw [spills_eq] at gathered
  obtain ⟨-, addresses, -⟩ := State.gather_ok gathered
  have here := congrArg (fun l => l[2 * j + m]?) addresses
  simp only [pairs_getElem? _ _ hm, List.getElem?_map, full, Option.map_some, Option.map_eq_some_iff, Prod.mk.injEq] at here
  exact here

include room

theorem spilled_outside : ∀ x ∈ spillUnits w places, x.1.at_.outside := by
  rw [spills_eq] at gathered
  obtain ⟨-, addresses, translated⟩ := State.gather_ok gathered
  intro y hy
  obtain ⟨x, hx, rfl⟩ := List.mem_map.1 hy
  obtain ⟨s', at_⟩ := translated x hx
  have named : (x.lane, x.va) ∈ places.map fun x => (x.lane, x.va) := List.mem_map.2 ⟨x, hx, rfl⟩
  rw [addresses] at named
  obtain ⟨e, he, named⟩ := List.mem_flatMap.1 named
  obtain ⟨l, hl, rfl⟩ := List.mem_map.1 he
  have fits : (w.thread l).depth - 16 < 2 ^ ((s.ctx k.ctx).privsz - 5) := by
    have := room l (List.mem_of_mem_filter hl)
    have := Nat.one_le_two_pow (n := (s.ctx k.ctx).privsz - 5)
    unfold maxDepth at *
    omega
  have half : ∃ m, m < 2 ∧ x.va = frameVa (s.ctx k.ctx).privsz ((w.thread l).depth - 16) + 4 * m := by
    simp only [granules_two, List.map_cons, List.map_nil, List.mem_pair, Prod.mk.injEq] at named
    obtain ⟨-, low⟩ | ⟨-, high⟩ := named
    · exact ⟨0, by decide, low⟩
    · exact ⟨1, by decide, high⟩
  obtain ⟨m, hm, va⟩ := half
  change x.at_.outside
  rw [at_, va]
  exact State.translate_outside _ _ _ _ (frameVa_outside fits hm)

end Spilled

section Called

variable (deep : Bool) (target : VAddr)

/-- After the stores of a call nothing moves memory. -/
theorem called_after : L1Step k.ctx (fun _ => False) ((spillUnits w places).foldl (fun s x => s.storeAt p w k x.1.at_ x.2 false) s1)
    (s1.called p w k ls places deep target) := by
  unfold State.called
  rw [s1.storeAll_eq false (spillUnits_sound w places)]
  cases deep with
  | false => exact State.retired_step _ _ _
  | true => exact (State.escape_step _ p w).trans_same (State.retired_step _ _ _)

theorem called_kept (h : Issuing s p w k) (nodup : ls.Nodup) (sub : ls ⊆ p.lanes) (still : StillFrame s s1)
    (out : ∀ x ∈ spillUnits w places, x.1.at_.outside) :
    ∃ w', Kept s (s1.called p w k ls places deep target) p w w' k (fun _ => False) (p.calling ls target) ∧ w'.idempc = w.idempc := by
  have stored := still.access.trans (s1.stores_access (p := p) (w := w) (k := k) out)
  unfold State.called
  rw [s1.storeAll_eq false (spillUnits_sound w places)]
  cases deep with
  | false => exact (calls_moves nodup sub).kept h stored
  | true => exact (calls_moves nodup sub).kept h (stored.trans (State.escape_access _ w))

end Called

/-- A call that goes on to its effect does what the obligation says. -/
theorem callTo_calls (h : Issuing s p w k) (nodup : ls.Nodup) (sub : ls ⊆ p.lanes)
    (run : (∀ l ∈ ls, w.spillBad l = false) → exec i s = .next ((callTo s p w k ls target).state p w k)) :
    Calls s p w k i ls target := by
  refine fun sound => ⟨fun l deepest => ?_, fun room places s1 gathered => ?_⟩
  · rw [run sound, callTo_stack deepest]
    simp [Eff.state, h.crew]
  · obtain ⟨deep, called⟩ := callTo_called (target := target) room gathered
    have still : StillFrame s s1 := (State.gather_ok (by rw [← spills_eq]; exact gathered)).1
    have out := spilled_outside room gathered
    have stores := s1.stores_step (p := p) (w := w) (k := k) out
    have after := called_after (s1 := s1) (p := p) (w := w) (k := k) (ls := ls) (places := places) deep target
    have whole := (stores.trans after).mono (stored := placed places) fun g stored => placed_iff.1 (stored.resolve_right id)
    obtain ⟨w', kept, idempc⟩ := called_kept deep target h nodup sub still out
    refine ⟨_, w', by rw [run sound, called]; rfl, kept, idempc, fun undisturbed => whole.below undisturbed.1, fun steady => ?_, ?_⟩
    · obtain ⟨⟨free, current⟩, stay⟩ := steady
      refine whole.memory free current fun c line l hl hc => ?_
      obtain ⟨l', hl', same⟩ := stay c line l hl
      exact ⟨l', hl', same ▸ hc⟩
    · intro j l full m hm
      obtain ⟨x, here, lane, va⟩ := spilled_getElem? gathered full hm
      refine ⟨x, here, lane, va, fun pa bind ms cz at_ inside undisturbed last => ?_⟩
      have unit : (spillUnits w places)[2 * j + m]? = some (x, coded (((w.thread l).stack.getLastD 0 >>> (32 * m)).setWidth 32)) := by
        unfold spillUnits
        rw [List.getElem?_map, here, Option.map_some]
        simp only [lane, va, spilledHalf _ (frameVa_dvd _ _) hm]
      refine State.stores_unit s1 out unit at_ inside (fun y hy names => last ?_) after undisturbed.1
      unfold spillUnits at hy
      rw [← List.map_drop] at hy
      exact placed_iff.1 ⟨y, hy, names⟩

/-! Direct and indirect calls. -/

theorem chkSrcs_none : s.chkSrcs p w k [] = none := List.findSome?_eq_none_iff.2 fun _ _ => rfl

theorem chkSrcs_pred {n : Nat} (clean : Clean w (predKeys p [n])) : s.chkSrcs p w k [.pred n] = none :=
  chkSrcs_preds_ok (rs := []) (fun _ _ _ hr => nomatch hr) clean

/-- Operands and frames that pass raise nothing (R60, R61). -/
theorem callChk_ok {srcs : List Src} (sources : s.chkSrcs p w k srcs = none) (frames : ∀ l ∈ ls, w.spillBad l = false) :
    s.callChk p w k srcs ls = none := by
  refine List.findSome?_eq_none_iff.2 fun l hl => ?_
  have spilled : (ls.contains l && w.spillBad l) = false := by
    by_cases calls : l ∈ ls
    · rw [frames l calls, Bool.and_false]
    · simp [calls]
  rw [List.findSome?_eq_none_iff.1 sources l hl, spilled]
  rfl

variable {o : BitVec 20} {ps : List Src} {take : Pod → Wave → List Nat}

/-- A direct call whose operands and frames pass. -/
theorem call_ok (h : Issuing s p w k) (sources : s.chkSrcs p w k ps = none) (frames : ∀ l ∈ take p w, w.spillBad l = false) :
    call s o ps take = .next (Eff.state (if !(take p w).isEmpty && !inText (branchTarget p o)
      then .trap s (.plain .perm ((take p w).headD 0))
      else callTo s p w k (take p w) (BitVec.ofNat 58 (branchTarget p o).toNat)) p w k) := by
  unfold call
  rw [withPod_ok h (rs := []) fun _ none => nomatch none]
  simp only [callChk_ok sources frames, checked]

theorem inText_iff {a : Int} : inText a = true ↔ 4 * 2 ^ 55 ≤ a ∧ a < 5 * 2 ^ 55 := by
  simp [inText]

/-- A call of no lane moves to no target. -/
theorem callTo_nil (s : State) (a b : VAddr) : callTo s p w k [] a = callTo s p w k [] b := by
  simp only [callTo, List.contains_nil, Bool.false_eq_true, if_false]

theorem ofNat_toNat_eq_ofInt {n : Nat} {a : Int} (nonneg : 0 ≤ a) : BitVec.ofNat n a.toNat = BitVec.ofInt n a := by
  obtain ⟨m, rfl⟩ := Int.eq_ofNat_of_zero_le nonneg
  exact (BitVec.ofInt_natCast n m).symm

/-- A direct call that may go on. -/
theorem call_calls (h : Issuing s p w k) (run : exec i s = call s o ps take) (nodup : (take p w).Nodup) (sub : take p w ⊆ p.lanes)
    (sources : s.chkSrcs p w k ps = none)
    (goes : (4 * 2 ^ 55 ≤ branchTarget p o ∧ branchTarget p o < 5 * 2 ^ 55) ∨ take p w = []) :
    Calls s p w k i (take p w) (BitVec.ofInt 58 (branchTarget p o)) := by
  refine callTo_calls h nodup sub fun frames => ?_
  rw [run, call_ok h sources frames]
  rcases goes with inside | none
  · rw [if_neg (by simp [inText_iff.2 inside]), ofNat_toNat_eq_ofInt (by omega)]
  · rw [none, if_neg (by simp), callTo_nil s _ (BitVec.ofInt 58 (branchTarget p o))]

/-- A direct call to a target outside the text region (R240). -/
theorem call_perm (h : Issuing s p w k) (run : exec i s = call s o ps take) (sources : s.chkSrcs p w k ps = none)
    (frames : ∀ l ∈ take p w, w.spillBad l = false) {l : Nat} (first : (take p w).head? = some l)
    (outside : ¬(4 * 2 ^ 55 ≤ branchTarget p o ∧ branchTarget p o < 5 * 2 ^ 55)) :
    exec i s = .next (s.raise p w k (.plain .perm l)) := by
  have lands : inText (branchTarget p o) = false := by rwa [← Bool.not_eq_true, inText_iff]
  rw [run, call_ok h sources frames]
  cases calls : take p w with
  | nil => rw [calls] at first; cases first
  | cons x xs =>
    rw [calls] at first
    cases first
    simp [lands, Eff.state, h.crew]

/-- An indirect call to a sound target (R242). -/
theorem calli_calls (h : Issuing s p w k) (a : BitVec 6) (granted : Granted k ((Reg.ofS a).group 2))
    (sound : Sound w p ((Reg.ofS a).group 2))
    (good : (w.dword (.ofS a) 0).toNat % 2 = 0 ∧ 4 * 2 ^ 55 ≤ (w.dword (.ofS a) 0).toNat ∧ (w.dword (.ofS a) 0).toNat < 5 * 2 ^ 55) :
    Calls s p w k (.calli a) p.lanes ((w.dword (.ofS a) 0).setWidth 58) := by
  obtain ⟨even, low, high⟩ := good
  refine callTo_calls h h.nodup (List.Subset.refl _) fun frames => ?_
  have passes : s.chkSrcs p w k (sources ((Reg.ofS a).group 2)) = none := by
    have := chkSrcs_preds_ok (s := s) (k := k) (ps := []) sound fun _ none => by simp [predKeys] at none
    simpa using this
  have target : badTarget (w.dword (.ofS a) 0) = false := by
    have lands : inText ((w.dword (.ofS a) 0).toNat : Int) = true := inText_iff.2 ⟨by exact_mod_cast low, by exact_mod_cast high⟩
    simp [badTarget, even, lands]
  change execCalli a s = _
  unfold execCalli
  rw [withPod_ok h granted]
  simp only [callChk_ok passes frames, checked, target, Bool.false_eq_true, if_false]

end Call

section Return

theorem refills_eq (w : Wave) (sz : Nat) (ls : List Nat) : refills w sz ls =
    ((ls.filter fun l => decide (17 ≤ (w.thread l).depth)).map fun l => (l, frameVa sz ((w.thread l).depth - 17))).map
      fun e => (e.1, some e.2) := by
  induction ls with
  | nil => rfl
  | cons l ls ih =>
    unfold refills at ih ⊢
    by_cases deep : 17 ≤ (w.thread l).depth
    · simp [deep, ih]
    · simp [deep, ih]

/-- A return's state after its refill `got`: each lane's newest frame popped, and its PC from there. -/
def State.returned (s : State) (p : Pod) (w : Wave) (got : List (Nat × GUnit × Option Nat)) : State :=
  (s.modWave p.core p.slot fun w =>
    p.lanes.foldl (fun w l => (w.mend (refilled w l)).modThread l fun t => t.pop (frameOf got l)) w).retireWith p true fun l =>
      returnPc ((w.thread l).stack.headD 0)

/-- What becomes of a thread that returns. -/
def returning (got : List (Nat × GUnit × Option Nat)) (l : Nat) (th : Thread) : Thread :=
  { th with
    pc := (th.stack.headD 0).setWidth 58 &&& ~~~ 1#58
    stack := th.stack.tail ++ (frameOf got l).toList
    depth := th.depth - 1
    drop := th.drop || decide (th.depth - 1 < th.entDepth) }

theorem returns_moves (h : Issuing s p w k) (got : List (Nat × GUnit × Option Nat)) :
    Moves p w (fun l => returnPc ((w.thread l).stack.headD 0)) (returning got)
      fun v => p.lanes.foldl (fun w l => (w.mend (refilled w l)).modThread l fun t => t.pop (frameOf got l)) v :=
  moves_modThread refilled (fun l t => t.pop (frameOf got l)) h.nodup (List.Subset.refl _) fun l hl th hth => by
    have read : w.thread l = th := by simp [Wave.thread, hth]
    rw [if_pos hl, read]
    rfl

/-- A return whose frames pass their parity. -/
theorem ret_ok (h : Issuing s p w k) (frames : ∀ l ∈ p.lanes, w.popBad l = false) :
    exec .ret s = .next (Eff.state (match p.lanes.find? fun l => (w.thread l).depth = 0 with
      | some l => .trap s (.plain .stack l)
      | none => withPlaces (s.gather p w k .read 4 2 (refills w (s.ctx k.ctx).privsz p.lanes)) fun s places =>
        checked (s.loadAll p w k false places).2
          ((s.loadAll p w k false places).1.findSome? fun x => (s.loadAll p w k false places).2.chkUnit 0x0D 0xFF x.1 x.2.1 x.2.2)
          (.done ((s.loadAll p w k false places).2.returned p w (s.loadAll p w k false places).1))) p w k) := by
  have passes : (p.lanes.findSome? fun l => parityFail (w.popBad l) l) = none :=
    List.findSome?_eq_none_iff.2 fun l hl => by rw [frames l hl]; rfl
  change execRet s = _
  unfold execRet
  rw [withPod_ok h (rs := []) fun _ none => nomatch none]
  simp only [passes, checked]
  rfl

theorem ret_stack (h : Issuing s p w k) (frames : ∀ l ∈ p.lanes, w.popBad l = false) {l : Nat}
    (empty : (p.lanes.find? fun l => decide ((w.thread l).depth = 0)) = some l) :
    exec .ret s = .next (s.raise p w k (.plain .stack l)) := by
  rw [ret_ok h frames]
  simp [empty, Eff.state, h.crew]

theorem ret_returned (h : Issuing s p w k) (frames : ∀ l ∈ p.lanes, w.popBad l = false)
    (held : ∀ l ∈ p.lanes, (w.thread l).depth ≠ 0)
    (gathered : s.gather p w k .read 4 2 (refills w (s.ctx k.ctx).privsz p.lanes) = (.ok places, s1))
    (ok : ∀ x ∈ (s1.loadAll p w k false places).1, x.2.1.ok = true) :
    exec .ret s = .next ((s1.loadAll p w k false places).2.returned p w (s1.loadAll p w k false places).1) := by
  have deep : (p.lanes.find? fun l => decide ((w.thread l).depth = 0)) = none :=
    List.find?_eq_none.2 fun l hl => by simpa using held l hl
  have passes : ((s1.loadAll p w k false places).1.findSome? fun x =>
      (s1.loadAll p w k false places).2.chkUnit 0x0D 0xFF x.1 x.2.1 x.2.2) = none :=
    List.findSome?_eq_none_iff.2 fun x hx => chkUnit_ok _ _ _ _ _ (ok x hx)
  rw [ret_ok h frames]
  simp only [deep, gathered, withPlaces, passes, checked, Eff.state]

theorem returned_kept (h : Issuing s p w k)
    (gathered : s.gather p w k .read 4 2 (refills w (s.ctx k.ctx).privsz p.lanes) = (.ok places, s1))
    (got : List (Nat × GUnit × Option Nat)) :
    ∃ w', Kept s ((s1.loadAll p w k false places).2.returned p w got) p w w' k (fun _ => False) (returning got) ∧
      w'.idempc = w.idempc :=
  have still : StillFrame s s1 := (State.gather_ok (by rw [← refills_eq]; exact gathered)).1
  (returns_moves h got).kept h (still.access.trans (State.loadFrom_access s1 w k [] places))

/-- A return writes no byte of memory (R162). -/
theorem returned_memory {got : List (Nat × GUnit × Option Nat)}
    (steady : Steady s1 ((s1.loadAll p w k false places).2.returned p w got)) :
    SameMemory s1 ((s1.loadAll p w k false places).2.returned p w got) := by
  have whole : L1Step k.ctx (fun _ => False) s1 ((s1.loadAll p w k false places).2.returned p w got) :=
    (s1.loadFrom_step [] places).trans_same (State.retired_step _ _ _)
  obtain ⟨⟨free, current⟩, stay⟩ := steady
  refine fun core pa => whole.memory free current (fun c line l hl hc => ?_) core pa id
  obtain ⟨l', hl', same⟩ := stay c line l hl
  exact ⟨l', hl', same ▸ hc⟩

end Return

end Frames

/-- Settles O15: a call's spills are weak stores outside the scratchpad, a return's refills weak loads, and neither moves anything
else of the programs but the threads. -/
theorem callsAndReturns : Obligations.CallsAndReturns := by
  unfold Obligations.CallsAndReturns
  refine ⟨fun s p w k o n pn a h => ⟨fun inside => ?_, fun outside frames => ?_,
      fun clean => ⟨fun goes => ?_, fun outside frames l first => ?_⟩, fun granted sound good => ?_⟩,
    fun s p w k h frames => ⟨fun l empty => ret_stack h frames empty, fun held places s1 gathered ok => ?_⟩⟩
  · exact call_calls h (take := fun p _ => p.lanes) rfl h.nodup (List.Subset.refl _) chkSrcs_none (.inl inside)
  · obtain ⟨rest, lanes⟩ := h.lanes_eq
    exact call_perm h (take := fun p _ => p.lanes) rfl chkSrcs_none frames (by rw [lanes]; rfl) outside
  · exact call_calls h (take := fun p w => takers p w n pn) rfl (h.nodup.filter _) (List.filter_subset_self _) (chkSrcs_pred clean) goes
  · exact call_perm h (take := fun p w => takers p w n pn) rfl (chkSrcs_pred clean) frames first outside
  · have value : (w.dword (.ofS a) 0).toNat = _ := Wave.toNat_dword w (.ofS a) 0
    have calls := calli_calls h a granted sound (by rw [value]; exact good)
    rw [← BitVec.ofNat_toNat, value] at calls
    exact calls
  · obtain ⟨w', kept, idempc⟩ := returned_kept h gathered (s1.loadAll p w k false places).1
    exact ⟨_, w', ret_returned h frames held gathered ok, kept, idempc, returned_memory⟩

end Sys2Proof.Machine
end
